-- ==== Sys2Proof/Word.lean ====
section
/-!
DEFINITION. The word types of the Totha (R3, R6, R7): bytes, 32-bit registers, 64-bit words and 64-byte records.
-/
namespace Sys2Proof

/-- A byte of device memory (R6). -/
abbrev Byte := BitVec 8

/-- The value of a BAR0 register (R7). -/
abbrev Reg32 := BitVec 32

/-- A 64-bit word, or a register pair (R8). -/
abbrev Word64 := BitVec 64

/-- A 64-byte record: a command (R237), a descriptor (R200), a tie-off record (R230). Byte 0 is bits [7:0]. -/
abbrev Record64 := BitVec 512

end Sys2Proof
end

