-- ==== Sys2Proof/Syntax.lean ====
section
/-!
DEFINITION. The commands of the Totha: one constructor for each row of spec/opcode_table.json, with the operands that
row's rule gives it.  A command of a queue (MM to MARK) names the logical tile and the queue whose head command issues;
the command's own 64 bytes (R237) are in the queue.  A row that is a bit of a register (PLAN_NEXT_GO, UNIT_DISABLE)
takes its operands from the registers, as the rule says.
-/
namespace Sys2Proof

/-- The commands, events and received messages of the Totha, one constructor a row of the table. -/
inductive Instr where
  /-- R10: A host write to a BAR0 register that has no row of its own sets its RW fields, or is ignored or refused under the register's own rule. -/
  | registerWrite (off : BitVec 28) (wide : Bool) (value : BitVec 64) (poisoned : Bool)
  /-- R8: A 32-bit read of a _LO register returns its value, captures the _HI half at the same instant and arms the capture. -/
  | pairLoRead (off : BitVec 28) (wide : Bool)
  /-- R8: A 32-bit read of a _HI register returns the armed capture and disarms it, or returns the live value when no capture is armed. -/
  | pairHiRead (off : BitVec 28)
  /-- R10: A read of an RC field returns its value and then clears it. -/
  | rcRegisterRead (off : BitVec 28)
  /-- R9: A BAR0 access of another size or alignment reads zero or is discarded, and raises event 0x8020. -/
  | badBar0Access (off : BitVec 28) (size : BitVec 13) (write : Bool)
  /-- R407: A PCI Express configuration request is answered with Retry Status before 120 ms, and normally afterwards. -/
  | configRequest (write : Bool) (dword : BitVec 10) (value : BitVec 32)
  /-- R39: At the end of the issue window the 1,024-cycle edge window opens and runs its steps at fixed offsets. -/
  | edgeWindow
  /-- R59: A partition fill completes, and its queue may issue. -/
  | partitionFilled (tile : Fin 512) (queue : Fin 4)
  /-- R53: The next plan entry, fetched during the beat, is validated under R48. -/
  | planEntryFetched
  /-- R57: An incoming frame's copy into the staging area completes, or a saved frame is written back. -/
  | frameStaged (tile : Fin 512) (back : Bool)
  /-- R50: Setting GO requests a plan switch: the registers are checked and the start entry is fetched. -/
  | planNextGo
  /-- R52: Setting CANCEL withdraws a pending switch, or is ignored once step 3 has begun or when no switch is pending. -/
  | planNextCancel
  /-- R51: The fetched start entry is validated, and the switch is accepted or refused as INVALID. -/
  | planStartEntryValidated
  /-- R51: A start entry that is not validated 8,192 cycles before the named beat makes the switch LATE. -/
  | planSwitchLate
  /-- R49: A queue's budget runs out: it stops issuing, and its executing command is carried. -/
  | budgetExhausted (tile : Fin 512) (queue : Fin 4)
  /-- R67: A received beat marker is accepted and forwarded, or ignored with event 0x1044. -/
  | beatMarker (link : Fin 64) (group master : BitVec 12) (log2 : BitVec 5) (offset : BitVec 16) (beat : BitVec 64)
  /-- R71: After 4 beats without a marker on the primary link, markers are taken from the secondary link, with event 0x1042. -/
  | markerPrimaryLoss
  /-- R71: After BEAT.HOLDOVER beats without markers, the module leaves its beat group, with event 0x1041. -/
  | leaveBeatGroup
  /-- R73: After 8 beats without markers from the master, the backup master becomes master, with event 0x1043. -/
  | backupMasterTakeover
  /-- R114: Computes C = op(A) · op(B) on the looms, block by block. -/
  | mm (tile : Fin 512) (queue : Fin 4)
  /-- R116: Computes dX and dW together on the two looms from one read of dY. -/
  | mm2 (tile : Fin 512) (queue : Fin 4)
  /-- R118: Runs a convolution through the window expander on the looms. -/
  | conv (tile : Fin 512) (queue : Fin 4)
  /-- R109: Loads a stationary block into a loom and pins it under a tag. -/
  | heddleLoad (tile : Fin 512) (queue : Fin 4)
  /-- R112: An output block reaches its drain: it is converted and checked, and released when the check passes. -/
  | loomBlockDrain (tile : Fin 512) (loomB : Bool) (faults : List (BitVec 12 × BitVec 32))
  /-- R311: A checksum repeat ends: a pass releases the block as a transient, and a failure marks the block dross and starts observation. -/
  | checksumRepeatDone (tile : Fin 512) (loomB : Bool) (faults : List (BitVec 12 × BitVec 32))
  /-- R152: Fetches indexed rows or blocks into a dense destination, deduplicating within each window. -/
  | gather (tile : Fin 512) (queue : Fin 4)
  /-- R155: Writes dense data to indexed rows or blocks, where the last write in list order wins. -/
  | scatter (tile : Fin 512) (queue : Fin 4)
  /-- R156: Adds dense data into indexed blocks through merge-buffer lines. -/
  | scatterAdd (tile : Fin 512) (queue : Fin 4)
  /-- R144: Multiplies a compressed-row matrix by a dense operand, taking a path for each panel. -/
  | spmm (tile : Fin 512) (queue : Fin 4)
  /-- R161: Sums weighted indexed rows into one output row for each segment. -/
  | merge (tile : Fin 512) (queue : Fin 4)
  /-- R162: Sorts key and payload pairs in full, or selects the top k of each row. -/
  | sort (tile : Fin 512) (queue : Fin 4)
  /-- R163: Buckets tokens by expert under a capacity and an overflow policy. -/
  | route (tile : Fin 512) (queue : Fin 4)
  /-- R166: Builds a sketch of a weight, or scores queries against one and selects outputs. -/
  | sketch (tile : Fin 512) (queue : Fin 4)
  /-- R178: Applies an elementwise operation, including ACT and ACT_BWD, to every element. -/
  | ew (tile : Fin 512) (queue : Fin 4)
  /-- R180: Reduces each row to one FP32 value. -/
  | row (tile : Fin 512) (queue : Fin 4)
  /-- R187: Runs layer or RMS normalisation, forward or backward. -/
  | norm (tile : Fin 512) (queue : Fin 4)
  /-- R184: Runs the soft-maximum forward or backward. -/
  | smax (tile : Fin 512) (queue : Fin 4)
  /-- R190: Converts a source to the destination format under the cast control. -/
  | cast (tile : Fin 512) (queue : Fin 4)
  /-- R191: Writes only the E8M0 block scales of a source. -/
  | scale (tile : Fin 512) (queue : Fin 4)
  /-- R240: Copies a source to a destination of the same format. -/
  | move (tile : Fin 512) (queue : Fin 4)
  /-- R369: Writes a local source to a remote destination over the links. -/
  | put (tile : Fin 512) (queue : Fin 4)
  /-- R369: Reads a remote source into a local destination over the links. -/
  | get (tile : Fin 512) (queue : Fin 4)
  /-- R374: Reduces the sources of a group and distributes the result to every participant. -/
  | reduce (tile : Fin 512) (queue : Fin 4)
  /-- R374: Gathers the sources of a group in rank order. -/
  | allgather (tile : Fin 512) (queue : Fin 4)
  /-- R374: Reduces one chunk of the group's sources into each rank. -/
  | reduceScatter (tile : Fin 512) (queue : Fin 4)
  /-- R273: Prepares a layer's next weights and state from its gradient, or, as the write APPLY, writes them in single-copy mode. -/
  | apply (tile : Fin 512) (queue : Fin 4)
  /-- R289: Counts one of the module's READY commands for the open round. -/
  | ready (tile : Fin 512) (queue : Fin 4)
  /-- R294: Waits until the decision for a step has taken effect, and optionally writes the outcome to a slot. -/
  | commitWait (tile : Fin 512) (queue : Fin 4)
  /-- R248: Sets a counter from the chosen source. -/
  | setc (tile : Fin 512) (queue : Fin 4)
  /-- R248: Adds a signed value to a counter. -/
  | addc (tile : Fin 512) (queue : Fin 4)
  /-- R248: Sets a comparator from a comparison. -/
  | cmp (tile : Fin 512) (queue : Fin 4)
  /-- R249: Branches forward in the ring or within a routine slot. -/
  | br (tile : Fin 512) (queue : Fin 4)
  /-- R248: Decrements a counter and branches while it is not zero. -/
  | loop (tile : Fin 512) (queue : Fin 4)
  /-- R250: Waits until its latch selectors are satisfied, sending a query for each remote wait. -/
  | wait (tile : Fin 512) (queue : Fin 4)
  /-- R245: Applies its further set selectors when it completes. -/
  | set (tile : Fin 512) (queue : Fin 4)
  /-- R257: Enters a routine slot after checking its RID and the call depth. -/
  | call (tile : Fin 512) (queue : Fin 4)
  /-- R257: Returns from a routine slot. -/
  | ret (tile : Fin 512) (queue : Fin 4)
  /-- R49: The queue idles for the rest of its slot without a carry. -/
  | yield (tile : Fin 512) (queue : Fin 4)
  /-- R248: Completes once every earlier command of the stream has completed. -/
  | fence (tile : Fin 512) (queue : Fin 4)
  /-- R248: Writes a scalar slot from a tensor element or from an immediate. -/
  | scalarLoad (tile : Fin 512) (queue : Fin 4)
  /-- R248: Writes its tag and value to the trace. -/
  | mark (tile : Fin 512) (queue : Fin 4)
  /-- R243: A command completes: its status is accumulated, its set selector is applied or the stream faults, and the command retires. -/
  | commandComplete (tile : Fin 512) (queue : Fin 4) (num : BitVec 32)
  /-- R242: Commands fetched from the ring or the routine store arrive and refill the queue. -/
  | queueFetchReturn (tile : Fin 512) (queue : Fin 4)
  /-- R212: The mailbox checks a descriptor image and writes it as valid. -/
  | tdescCreate (id : BitVec 20)
  /-- R222: The mailbox invalidates a descriptor once every tile has dropped it from its cache. -/
  | tdescDestroy (id : BitVec 20)
  /-- R221: The mailbox returns a descriptor table entry. -/
  | tdescRead (id : BitVec 20)
  /-- R198: The mailbox checks a region record and creates the region. -/
  | regionCreate (id : BitVec 20)
  /-- R199: The mailbox destroys a region that no valid descriptor names. -/
  | regionDestroy (id : BitVec 20)
  /-- R221: The mailbox returns a region record. -/
  | regionRead (id : BitVec 20)
  /-- R221: GO with OP = 0 or 7 runs no operation and completes with FORMAT. -/
  | mailboxReservedOp (seven : Bool) (id : BitVec 20)
  /-- R221: A mailbox operation finishes, clearing BUSY and setting the result. -/
  | mailboxDone
  /-- R231: A host write of command records to a stream window goes to the ring slots beyond TAIL, or is discarded. -/
  | streamWindowWrite (stream : BitVec 16) (off : BitVec 14) (data : List Byte) (poisoned : Bool)
  /-- R232: A tie-off record is checked, and the bolt is accepted or rejected. -/
  | tieOffRecord (stream : BitVec 16) (record : Record64)
  /-- R236: Setting RESET abandons the stream's work, empties its ring and clears its state. -/
  | streamReset
  /-- R236: The zeroed state reaches the stream's home frame, and RESET clears. -/
  | streamResetZeroed (stream : BitVec 16)
  /-- R262: Setting RESUME ends a halt at once. -/
  | streamResume
  /-- R262: Setting STEP lets a halted stream issue until the end of its next bound beat. -/
  | streamStep
  /-- R235: The Totha writes a stream's depth shadow to host memory in the beat after a change. -/
  | depthShadowWrite (stream : BitVec 16)
  /-- R518: A write to a seed register resets the cast sequence counter, which is installed at a later edge. -/
  | seedWrite (hi wide : Bool) (value : BitVec 64)
  /-- R252: The host sets the selected global latch. -/
  | glatchSet
  /-- R252: The host clears the selected global latch. -/
  | glatchClear
  /-- R252: A global set or clear reaches the latch unit and takes effect. -/
  | globalLatchArrive (index : BitVec 16)
  /-- R254: A received latch set or clear record is applied to the named global latch. -/
  | latchMessage (link : Fin 64) (src latch : BitVec 12) (clear : Bool) (job : BitVec 12) (handle : BitVec 16)
  /-- R254: A received latch query is answered with the latch's state and then with its changes. -/
  | latchQuery (link : Fin 64) (src latch job : BitVec 12) (tag : BitVec 16)
  /-- R254: A received latch state answer may satisfy a remote wait. -/
  | latchState (link : Fin 64) (src latch : BitVec 12) (value : Bool) (tag : BitVec 16)
  /-- R255: After 64 cycles of mutual tile-latch waits, the streams involved fault with cause DEADLOCK. -/
  | deadlockDetected (tile : Fin 512)
  /-- R256: A global or remote wait reaching STRM.WAIT_LIMIT edge windows raises event 0xB011, and the stream may fault. -/
  | waitWatchdogExpired (stream : BitVec 16)
  /-- R258: Setting TILE.RTN_LOAD_CTL.GO starts fetching a routine image into a tile. -/
  | routineLoad (tile : Fin 512)
  /-- R258: Setting STRM.RTN_BCAST_CTL.GO starts loading a routine image on every admitted tile. -/
  | routineBcastLoad
  /-- R258: A fetched routine image is installed, held, used to replace a held image, or refused as FULL. -/
  | routineImageArrived (tile : Fin 512) (index : BitVec 8)
  /-- R270: A write of a step size sets its tag to all ones and counts the write. -/
  | stepsizeWrite (group : BitVec 8) (value : BitVec 32)
  /-- R289: With LOCAL READY commands completed and no APPLY in flight, the module sends its READY message to the root. -/
  | readyMessageSend (job : BitVec 12)
  /-- R289: At UPD.COMMIT_TIMEOUT the module sends READY with a REFUSED vote, with event 0x3015. -/
  | readyShortTimeout (job : BitVec 12)
  /-- R290: The root receives a READY message and decides once it holds SHARDS of them. -/
  | readyMessage (link : Fin 64) (src job : BitVec 12) (step t : BitVec 64) (votes : BitVec 3) (digest : BitVec 64) (layers : BitVec 8192)
  /-- R291: The root's timeout expires, and it decides the round under R290. -/
  | rootCommitTimeout (job : BitVec 12)
  /-- R292: A received decision message writes the new status records and is scheduled for an edge window. -/
  | decision (link : Fin 64) (job : BitVec 12) (step : BitVec 64) (outcome : BitVec 2) (group : BitVec 12) (flip : BitVec 64) (exps : BitVec 8192)
  /-- R295: With no decision after COMMIT_TIMEOUT + 4 edge windows, the module applies ABORT locally. -/
  | decisionTimeoutAbort (job : BitVec 12)
  /-- R306: A received job abort message loses life, is applied and forwarded, or is dropped. -/
  | jobAbort (link : Fin 64) (job origin : BitVec 12) (seq : BitVec 16) (beat : BitVec 32) (life : BitVec 16) (hops : BitVec 5)
  /-- R310: The store writes a corrected word back in a free cycle of its bank. -/
  | storeCorrectionWriteback (phys : Fin 576) (word : BitVec 19)
  /-- R317: An assay part ends: it passes, is rerun, or fails as confirmed. -/
  | assayPartDone (phys : Fin 576) (good : Bool) (digestA digestB : BitVec 64)
  /-- R318: A tile about to pass its assay period is given assay beats in place of its bound set. -/
  | titheImposed (tile : Fin 512)
  /-- R319: The 2,048-cycle observation assay at the start of the issue window ends. -/
  | observationAssayDone (phys : Fin 576) (goodCross goodPart : Bool)
  /-- R320: An observation window ends in release, extension or retirement. -/
  | observationWindowEnd (phys : Fin 576)
  /-- R328: DISABLE begins the shutdown of a tile, channel or link, or is refused. -/
  | unitDisable
  /-- R329: ENABLE starts a return, is latched as pending, or is ignored. -/
  | unitEnable
  /-- R328: A unit's drain completes, and the unit enters OUT. -/
  | unitDrainComplete (kind : Fin 3) (index : BitVec 10)
  /-- R330: A returning unit's assay ends, and the unit returns or goes OUT. -/
  | unitReturnAssayDone (kind : Fin 3) (index : BitVec 10) (good : Bool)
  /-- R340: A GDDR7 access completes, and its words are accounted and forwarded. -/
  | gddr7AccessComplete (addr : BitVec 40) (write : Bool) (replays : BitVec 3) (exhausted : Bool)
  /-- R342: A queued atom with a single-bit error is rewritten corrected. -/
  | demandScrubRewrite (channel : Fin 40)
  /-- R343: The patrol scrub reads the next line at its rate and rewrites corrected or dross atoms. -/
  | patrolScrub
  /-- R344: A channel reaching its error threshold begins retraining, or raises event 0x5023 within the hold-off. -/
  | channelRetrainStart (channel : Fin 40)
  /-- R345: A retraining completes, and the held accesses are served. -/
  | channelRetrainDone (micros : BitVec 12)
  /-- R346: A retraining that fails or exceeds 2 ms restores the previous values, with event 0x5022. -/
  | channelRetrainTimeout (micros : BitVec 12)
  /-- R349: The retirement copy ends, and the window becomes unmapped. -/
  | retirementCopyDone
  /-- R350: The return copy ends, and the channel re-enters the map. -/
  | returnCopyDone
  /-- R352: ACCEPT of a proposal offlines the page once its accesses end, or is refused when the table is full. -/
  | pageAccept (slot : BitVec 4)
  /-- R352: DECLINE frees the proposal slot. -/
  | pageDecline (slot : BitVec 4)
  /-- R352: The page's outstanding accesses end, and it takes an offline table entry. -/
  | pageOfflined (slot : BitVec 4)
  /-- R360: In each flit time the link chooses and sends a replay, control, scheduled, dynamic or idle flit. -/
  | flitTime (link : Fin 64)
  /-- R380: A received flit is decoded and sequenced, and its ACK, NACK, HOLD and credits are applied. -/
  | flitReceived (link : Fin 64) (flit : BitVec 10240) (bad0 bad1 : Bool) (corrected : BitVec 5)
  /-- R380: A flit that no ACK covers in time is resent. -/
  | replayTimeout (link : Fin 64)
  /-- R370: Arriving write data is checked against regions and partitions and written, or refused. -/
  | writeData (link : Fin 64) (src stream job : BitVec 16) (xfer : BitVec 32) (addr : BitVec 64) (data : List Byte) (dross : BitVec 17)
  /-- R370: An arriving read request is checked and answered with read responses, or refused.  With the bytes asked for come
  the element width (R379) and whether compressed rows are asked for (R378). -/
  | readRequest (link : Fin 64) (src stream job : BitVec 16) (xfer : BitVec 32) (addr : BitVec 64)
      (len : BitVec 12 × BitVec 2 × Bool)
  /-- R369: Arriving read-response data is written to a GET's local destination. -/
  | readResponse (link : Fin 64) (xfer : BitVec 32) (addr : BitVec 64) (data : List Byte) (dross : BitVec 17)
  /-- R376: Arriving collective data is checked, combined with the participant's chunk and sent on. -/
  | collectiveData (link : Fin 64) (job src : BitVec 12) (addr : BitVec 64) (xfer : BitVec 32) (data : List Byte) (dross : BitVec 17)
  /-- R378: Arriving compressed-row panel data is written at the same offsets. -/
  | crowWriteData (link : Fin 64) (src stream job : BitVec 16) (xfer : BitVec 32) (addr : BitVec 64) (data : List Byte) (dross : BitVec 17)
  /-- R369: A write acknowledge counts towards a PUT's completion. -/
  | writeAcknowledge (link : Fin 64) (xfer : BitVec 32) (bytes : BitVec 32)
  /-- R361: A received refusal completes the transfer's command with RANGE, or reports a refused latch message. -/
  | refusal (link : Fin 64) (xfer : BitVec 32) (reason : BitVec 8)
  /-- R386: A received identity record gives the partner's module and buffer size. -/
  | identity (link : Fin 64) (module group : BitVec 12) (buffer : BitVec 16) (admitted : Bool)
  /-- R377: A collective-abort record completes the instance's command with SHAPE. -/
  | collectiveAbort (link : Fin 64) (group inst : BitVec 12)
  /-- R377: A collective incomplete for LNK.COLL_LIMIT beats raises event 0x6031. -/
  | collectiveTimeout (group : BitVec 12) (stream : BitVec 16)
  /-- R382: A lane loses lock, and the link downshifts or retrains. -/
  | laneLockLost (link : Fin 64) (lane1 both : Bool)
  /-- R382: After 32 uncorrectable codewords on one lane, the link runs on the other lane. -/
  | laneDownshift (link : Fin 64) (lane1 : Bool)
  /-- R383: A link reaching its replay threshold leaves the admitted state and retrains. -/
  | linkRetrain (link : Fin 64)
  /-- R385: A training group starts training at its time. -/
  | linkTrainingStart (group : Fin 8)
  /-- R385: A link's training passes and records LNK.DELAY, or fails so that the link is DOWN. -/
  | linkTrainingDone (link : Fin 64) (good : Bool) (lanes : Fin 3) (delay : BitVec 16)
  /-- R383: A DOWN link tries to train again at its retry time. -/
  | linkRetry (link : Fin 64)
  /-- R386: With the partner's identity received and its readiness seen, the link is admitted. -/
  | linkAdmit (link : Fin 64)
  /-- R366: A flit with no usable route for LNK.UNREACH_LIMIT beats is refused with reason 2. -/
  | unreachableRefuse (index : BitVec 16)
  /-- R391: A received twin hello keeps the twin reachable. -/
  | hello (link : Fin 64) (state : BitVec 3) (live : Bool) (beat : BitVec 64)
  /-- R394: No hello for TWIN.LOSS beats puts the unit in ALONE and sends stand-ins. -/
  | twinUnreachable
  /-- R394: Setting ATTACH asserts identical replicas, and the twins enter PAIRED once both have set it. -/
  | attach
  /-- R394: Setting DETACH leaves PAIRED or DIVERGED for LINKED. -/
  | detach
  /-- R398: Setting RESEED sends a re-seed request and the manifest to the twin. -/
  | reseed
  /-- R394: A received attach or detach record changes the twin state. -/
  | attachDetachRecord (link : Fin 64) (detach : Bool) (reason : BitVec 8)
  /-- R397: A root receiving a stand-in or withdrawal record counts the pair once or separately. -/
  | standIn (src : BitVec 12) (withdraw : Bool) (job : BitVec 12) (joinStep : BitVec 48)
  /-- R396: A received divergence record puts the module in DIVERGED. -/
  | divergence (link : Fin 64) (job : BitVec 12) (step : BitVec 64)
  /-- R398: A received re-seed request, accept, refuse, complete or join record advances the re-seed. -/
  | reseedRecord (link : Fin 64) (op : BitVec 8) (reason : BitVec 8) (joinStep : BitVec 64)
  /-- R399: A received manifest message is checked and its ranges are copied. -/
  | manifest (link : Fin 64) (entries : List (BitVec 128))
  /-- R401: The donor finishes copying the manifest and waits to hand over. -/
  | reseedCopyDone
  /-- R401: A received handover message is scheduled for installation. -/
  | handover (link : Fin 64) (jobs : List (BitVec 12 × BitVec 64 × BitVec 64)) (layers : List (BitVec 12 × Bool × BitVec 8 × BitVec 8))
  /-- R411: A host read through BAR4 returns GDDR7 or store data, zeros, or poisoned data. -/
  | bar4Read (off : BitVec 40) (len : BitVec 13)
  /-- R413: A host write through BAR4 is stored or discarded, and is made visible before later requests. -/
  | bar4Write (off : BitVec 40) (data : List Byte) (poisoned : Bool)
  /-- R414: A BAR4 AtomicOp is performed as one read-modify-write of its atom. -/
  | bar4Atomic (off : BitVec 40) (op : Fin 3) (log2size : Fin 5) (a b : BitVec 64)
  /-- R408: The host link trains, and a change of speed or width raises event 0x8001. -/
  | pcieLinkTrained (speed : BitVec 3) (width : BitVec 5) (flitMode : Bool)
  /-- R418: A waiting event record is written to the host ring when there is room. -/
  | eventRecordWrite
  /-- R420: An MSI-X message is sent once COUNT records are pending or TIME has passed. -/
  | msixMessage (vector : BitVec 11)
  /-- R422: A copy queue takes up its next posted descriptor. -/
  | copyDescriptorStart (queue : Fin 4) (desc : BitVec 256) (readOk : Bool)
  /-- R422: A copy completes and applies its selector, or fails and halts its queue. -/
  | copyDescriptorComplete (queue : Fin 4) (data : List Byte) (readOk : Bool)
  /-- R423: Setting RESUME retires the failed descriptor and continues the queue. -/
  | copyResume
  /-- R425: PERST#, Hot Reset, loss of the data link or FLR returns the host-facing state to its reset values. -/
  | hostReset (cause : Fin 4)
  /-- R426: The link returns after a host reset, with event 0x8002. -/
  | hostResetDone
  /-- R427: A write of the key to HIF.MODULE_RESET starts a module reset, and any other write is ignored. -/
  | moduleResetWrite (value : BitVec 32)
  /-- R447: Checks the staged container. -/
  | verify
  /-- R447: Checks the staged image, erases the image area, programs it and reads it back. -/
  | program (keepCert : Bool)
  /-- R447: Copies flash bytes into the image buffer. -/
  | read
  /-- R447: Programs a staged pattern container into the fleet pattern space and re-casts ASSAY from it. -/
  | patterns
  /-- R447: Erases the persistent event log. -/
  | logErase
  /-- R447: A PAT operation ends, setting PAT.RESULT and raising event 0x9010. -/
  | patOperationDone (readback : Bool)
  /-- R449: Setting PAT.RECAST.GO checks the source and schedules the re-cast of one section. -/
  | recast (sect : BitVec 4) (source : BitVec 2)
  /-- R454: Signs an attestation report over the nonce. -/
  | attest
  /-- R453: Writes the certificate held into the request buffer. -/
  | getCert
  /-- R453: Writes the device public key into the request buffer. -/
  | getPubkey
  /-- R441: Programs an owner signer slot under a valid signature. -/
  | enroll (slot : BitVec 2)
  /-- R441: Revokes a signer slot under a valid signature. -/
  | revoke (slot : BitVec 2)
  /-- R442: Burns the version floor up to the SVN of the cast image. -/
  | raiseFloor
  /-- R453: A SEC operation ends, setting SEC.RESULT. -/
  | secOperationDone (burned : Bool)
  /-- R451: A waiting event is appended to the flash log, erasing the next sector when needed. -/
  | eventLogAppend
  /-- R461: The input rises through the start threshold, and the rails are sequenced. -/
  | powerOn (smbAddr : BitVec 2)
  /-- R462: At 25 ms the core reset is released, the fuses are read and the device key is formed. -/
  | coreResetRelease (twpos : BitVec 2) (refclkGood : Bool)
  /-- R443: The image read from flash is checked and cast, or the module falls to BARE service. -/
  | imageCheck (readOk : Bool)
  /-- R462: At 120 ms BAR0 opens in WARM or BARE service, and beat 0 begins. -/
  | bar0Live (failed : BitVec 4)
  /-- R464: A tile wave starts the start-up assay on one column of every die. -/
  | tileWave (wave : Fin 9)
  /-- R464: A tile wave ends: its tiles are admitted, made spares or marked FAILED.  With the tiles that fail comes the digest of the others. -/
  | tileWaveEnd (wave : Fin 9) (failed : List (Fin 64 × BitVec 3 × BitVec 2) × BitVec 64)
      (skewed : List (Fin 64 × Bool × Bool × BitVec 7 × BitVec 2))
  /-- R465: A memory wave trains, zeroes and checks eight channels. -/
  | memoryWave (wave : Fin 5)
  /-- R465: A memory wave ends; after the last, GDDR7 is mapped or left unmapped. -/
  | memoryWaveEnd (wave : Fin 5) (failed : BitVec 8)
  /-- R467: The module becomes ready once its tiles, memory and links are done. -/
  | readiness
  /-- R468: A ready module promotes to FULL and joins or masters its beat group. -/
  | promoteFull
  /-- R469: At 1,000 ms an unpromoted member becomes master, as the backup, or promotes outside its group. -/
  | joinDeadline (backup : Bool)
  /-- R473: MRST# asserted for at least 1 µs holds the module in module reset. -/
  | mrstAssert
  /-- R473: The module reset is released, and start-up resumes from 25 ms. -/
  | moduleResetRelease
  /-- R476: The input falls below threshold or the module is removed, and the module turns off entirely. -/
  | powerLoss
  /-- R482: At the end of each 1 ms interval the governor sets the duty and the thermal cap. -/
  | powerInterval (power : BitVec 13) (tempDie : BitVec 16) (die : BitVec 4) (tempMem : BitVec 16) (group : BitVec 4) (millivolts current10 : BitVec 16)
  /-- R484: Instantaneous input power above 5,000 W sets the duty to its floor within 2 µs. -/
  | powerSurge
  /-- R480: Input between 46.0 V and 48.0 V raises event 0xA030. -/
  | vinLow (millivolts : BitVec 16)
  /-- R480: Input back in range for 1 s raises event 0xA031. -/
  | vinRecovered (millivolts : BitVec 16)
  /-- R480: Input above 58.5 V turns the module off until it falls below 57.0 V. -/
  | inputOvervoltage
  /-- R489: A junction at or above 110 °C turns off the package and GDDR7 rails. -/
  | thermalStop
  /-- R495: A missing or out-of-tolerance REFCLK turns the package off. -/
  | refclkLoss
  /-- R495: REFCLK within tolerance for 10 ms restarts the module from 0 ms. -/
  | refclkRecovered
  /-- R487: A coolant inlet outside 15 to 40 °C raises event 0xA040. -/
  | coolantOutOfRange (inlet outlet : BitVec 16)
  /-- R496: An SMBus block write to a sideband register is checked for PEC and applied. -/
  | sbRegisterWrite (code count : BitVec 8) (value : BitVec 32) (pecGood : Bool)
  /-- R490: A restart written to SB.CONTROL restarts a stopped module, or is refused within 5 s of the stop. -/
  | sbRestart
  /-- R498: A module reset written to SB.CONTROL starts a module reset. -/
  | sbModuleReset
  /-- R496: The sideband answers the Alert Response Address while ALERT# is asserted. -/
  | sbAlertResponse
  /-- R501: A keyed ARM write requests arming, or is ignored. -/
  | testArm (key : BitVec 16)
  /-- R502: A keyed DISARM write disarms the block at once and withdraws waiting injections. -/
  | testDisarm (key : BitVec 16)
  /-- R506: Requests flipping data and check bits of a word. -/
  | injectFlip
  /-- R506: Requests marking an atom as dross. -/
  | injectDross
  /-- R506: Forces the next COUNT checksum comparisons of a loom to fail. -/
  | injectChecksum
  /-- R506: Forces the next COUNT runs of an assay part on a tile to fail. -/
  | injectAssay
  /-- R506: Makes lane 0 codewords of a link's next data flit uncorrectable COUNT times. -/
  | injectLink
  /-- R507: An injection's write or last forced failure happens, and RESULT reads DONE. -/
  | injectionMade
  /-- R511: Writing RUN starts or stops all eight counters in the same cycle. -/
  | pcRun (run : Bool)
  /-- R511: Setting CLEAR zeroes all eight counters in one cycle. -/
  | pcClear (run : Bool)
  /-- R470: PCI Express link training begins at the later of the 30 ms row and the deassertion of PERST#. -/
  | pcieTrainingStart
  /-- R480: After an overvoltage turn-off, input falling below 57.0 V starts the module again from 0 ms. -/
  | overvoltageCleared
  deriving DecidableEq, Repr

end Sys2Proof
end

