-- ==== Sys2Proof/Config.lean ====
section
/-!
DEFINITION. The free values: what the spec leaves open, as constants with no body.  Nothing can be proved of a value of
theirs beyond what the definition that uses it enforces.  Each has a log entry.
-/
namespace Sys2Proof

/-- Bytes whose contents the spec calls undefined: the window after a return copy (R350), the state bytes of a saved frame
(R55), by the number of the draw and the address.  DESIGN CHOICE, log 10. -/
opaque Config.freeByte : Nat → Nat → BitVec 8

/-- R359: a byte of a flit's data area that is not among its valid bytes, by its place in the flit: the spec fills it with
nothing.  DESIGN CHOICE, log 40. -/
opaque Config.flitFill : Nat → BitVec 8

/-- R365: the dynamic receive buffer of a link in flits, which each side announces; the spec gives no size.  DESIGN CHOICE, log 45. -/
opaque Config.dynBuffer : Nat

/-- A free word by the number of the draw.  DESIGN CHOICE, log 11. -/
opaque Config.freeWord : Nat → BitVec 64

/-- What a counter of contention has counted since it was last read, by the register's key and the number of the draw: cycles inside
units, which a model of whole commands does not show.  DESIGN CHOICE, log 38. -/
opaque Config.contention : Nat → Nat → BitVec 32

/-- What the sensors of a rail read, by the rail and the time in milliseconds: no command carries it.  DESIGN CHOICE, log 67. -/
opaque Config.railReading : Nat → Nat → BitVec 32

/-- R67: the backup master that the Pattern image's BEAT section names: no record of the tables holds it.  DESIGN CHOICE, log 54. -/
opaque Config.backupMaster : BitVec 12

/-- R24: whether, by the number of the draw, a flit translated to an old position is in flight, or the routes are not expanded, as an edge
window ends: the mesh's flits are no state of the model.  DESIGN CHOICE, log 57. -/
opaque Config.remapHeld : Nat → Bool

/-- Which neighbour a tie of R68's round takes: true the upper.  DESIGN CHOICE, log 12. -/
opaque Config.tieUp : Int → Bool

/-- SHAKE256 (FIPS 202) of a message, as n bytes: a published standard whose values the spec does not restate.  DESIGN CHOICE, log 13. -/
opaque Config.shake256 : List (BitVec 8) → Nat → List (BitVec 8)

/-- ML-DSA-65 (FIPS 204) verification: key, message, context, signature.  DESIGN CHOICE, log 13. -/
opaque Config.mldsaVerify : List (BitVec 8) → List (BitVec 8) → List (BitVec 8) → List (BitVec 8) → Bool

/-- ML-DSA-65 key generation from the seed: the public key, 1,952 bytes.  DESIGN CHOICE, log 13. -/
opaque Config.mldsaPublicKey : BitVec 256 → List (BitVec 8)

/-- The hedged ML-DSA-65 signature of a message under a context by the key of a seed; the number of the draw stands for
the hedge.  DESIGN CHOICE, log 13. -/
opaque Config.mldsaSign : BitVec 256 → List (BitVec 8) → List (BitVec 8) → Nat → List (BitVec 8)

/-- The function unit's result where the spec bounds the error and does not state the bits: function code, operand
pattern (FP32), and for two-operand functions the second.  DESIGN CHOICE, log 14. -/
opaque Config.functionUnit : Nat → BitVec 32 → BitVec 32 → BitVec 32

/-- What a half-sum of a slice becomes where its elements lie in more than one scale block of an operand, so that R88 step 2
names no one block factor: the scale codes met, and the half-sum's FP32 pattern.  DESIGN CHOICE, log 15. -/
opaque Config.mixedScale : List Nat → BitVec 32 → BitVec 32


end Sys2Proof
end

