-- ==== Sys2Proof/Machine/Bits.lean ====
section
/-!
DEFINITION. Bit fields of numbers, sign extension, little-endian byte order (R3, R6), and saturating counters.
-/
namespace Sys2Proof.Machine

/-- Bits [lo + w - 1 : lo] of x (R3). -/
def bits (x lo w : Nat) : Nat := (x >>> lo) % (1 <<< w)

/-- One bit of x. -/
def bit (x i : Nat) : Bool := (x >>> i) % 2 == 1

/-- x with bits [lo + w - 1 : lo] replaced by v. -/
def setBits (x lo w v : Nat) : Nat :=
  x - (bits x lo w <<< lo) + ((v % (1 <<< w)) <<< lo)

/-- The two's complement reading of a w-bit field. -/
def signed (w v : Nat) : Int :=
  let u := v % (1 <<< w)
  if u < 1 <<< (w - 1) then (u : Int) else (u : Int) - ((1 <<< w : Nat) : Int)

/-- The w-bit two's complement pattern of an integer. -/
def unsigned (w : Nat) (i : Int) : Nat := (i % ((1 <<< w : Nat) : Int)).toNat

/-- The number little-endian bytes spell: the lowest address holds bits [7:0] (R6). -/
def ofBytes : List Byte → Nat
  | [] => 0
  | b :: bs => b.toNat + 256 * ofBytes bs

/-- The n little-endian bytes of a number (R6). -/
def toBytes : Nat → Nat → List Byte
  | 0, _ => []
  | n + 1, x => BitVec.ofNat 8 (x % 256) :: toBytes n (x / 256)

/-- How many of the low n bits of x are set. -/
def popCount : Nat → Nat → Nat
  | 0, _ => 0
  | n + 1, x => x % 2 + popCount n (x / 2)

/-- The low n bits of x that are set, ascending. -/
def bitList (n x : Nat) : List Nat := (List.range n).filter (bit x)

/-- The bit mask of a list of positions. -/
def maskOf (l : List Nat) : Nat := l.foldl (fun a i => a ||| (1 <<< i)) 0

/-- Rounds up to a multiple of m. -/
def roundUp (x m : Nat) : Nat := (x + m - 1) / m * m

/-- Ceiling division. -/
def ceilDiv (x m : Nat) : Nat := (x + m - 1) / m

/-- Adds to a 32-bit counter that saturates (R102, R263, R331, R354). -/
def satAdd (v : Reg32) (n : Nat) : Reg32 := BitVec.ofNat 32 (min (v.toNat + n) 0xFFFF_FFFF)

/-- The w-bit pattern of an integer at its nearest bound (a saturating field). -/
def clampInt (lo hi x : Int) : Int := if x < lo then lo else if hi < x then hi else x

/-- Whether two inclusive ranges share a number. -/
def overlaps (a b : Nat × Nat) : Bool := decide (a.1 ≤ b.2) && decide (b.1 ≤ a.2)

/-- Element n of a list, or a given value beyond its end. -/
def nth {α : Type} (d : α) : List α → Nat → α
  | [], _ => d
  | x :: _, 0 => x
  | _ :: xs, n + 1 => nth d xs n

/-- A list with element n replaced; unchanged where n lies beyond its end. -/
def setNth {α : Type} (v : α) : List α → Nat → List α
  | [], _ => []
  | _ :: xs, 0 => v :: xs
  | x :: xs, n + 1 => x :: setNth v xs n

end Sys2Proof.Machine
end

