-- ==== Sys2Proof/Machine/Regs.lean ====
section
/-!
DEFINITION. The registers of BAR0, of the tile windows and of the sideband: one name for each row of the
register tables of the spec (R74, R102, R134, R168, R169, R196, R223, R263 to R265, R297, R298, R331, R332, R354,
R387, R403, R428, R429, R455, R456, R477, R497, R499, R512 to R514), with its offset, its fields, their access codes (R10)
and their reset values.  A field whose reset the tables give as P with a default carries that default.
-/
namespace Sys2Proof.Machine

/-- Every register of the spec (R7): `BLOCK.REGISTER` is written `BLOCK_REGISTER`; an array register
(`MEM.CH_DEV_CE[0..8]`) is one name with an index. -/
inductive Reg where
  | BEAT_LEN | BEAT_STATUS | BEAT_COUNT_LO | BEAT_COUNT_HI | BEAT_ENTRY | BEAT_CUR_LEN | BEAT_CUR_BASE_LO
  | BEAT_CUR_BASE_HI | BEAT_NEXT_BASE_LO | BEAT_NEXT_BASE_HI | BEAT_NEXT_LEN | BEAT_PLAN_NEXT
  | BEAT_NEXT_AT_LO | BEAT_NEXT_AT_HI | BEAT_FRAME_BASE_LO | BEAT_FRAME_BASE_HI | BEAT_FRAME_COUNT
  | BEAT_TRIM | BEAT_GROUP | BEAT_UPLINK | BEAT_HOLDOVER | BEAT_CARRY_EVT | BEAT_OVR_SEL | BEAT_OVERRUN
  | BEAT_BUBBLE | BEAT_DEMOTED | BEAT_HELD | BEAT_STATE_LATE | NUM_ARITH_SEL | NUM_OVERFLOW | NUM_UNDERFLOW
  | NUM_NAN_SCALE | NUM_SATURATED | NUM_INT_SAT | LOOM_STATUS | LOOM_FUSE_A | LOOM_FUSE_B | LOOM_SKEW_SEL
  | LOOM_SKEW | LOOM_CHK_PASS | LOOM_CHK_MISMATCH | LOOM_CHK_SKIPPED | LOOM_CHK_WORST | LOOM_BLOCKS_A
  | LOOM_BLOCKS_B | LOOM_HEDDLE_STALL | LOOM_FEED_STALL | SHTL_STATUS | SHTL_PATH_THR | SHTL_SPLIT_THR
  | SHTL_IDX_BAD | SHTL_DEDUP | SHTL_GATHERED | SHTL_SCATTERED | SHTL_MERGE_EVICT | SHTL_FETCH_STALL
  | SHTL_PANEL_ERR | SHTL_ROUTE_OVF | SHTL_SKETCH_SEL | SHTL_LANE_BUSY | NUM_PATH_SEL | NUM_PATH_DENSE
  | NUM_PATH_COND | NUM_PATH_MERGE | NUM_PATH_HYBRID | NUM_PATH_SPLIT | FIN_STATUS | FIN_ELEMENTS | FIN_ROWS
  | FIN_SMAX_EMPTY | FIN_NAN_ROWS | FIN_STORE_STALL | FIN_STASH_ATOMS | FIN_BUSY_CYCLES | STRM_TDESC_BASE_LO
  | STRM_TDESC_BASE_HI | STRM_TDESC_CAP | STRM_TDESC_LIVE | STRM_REGION_LIVE | STRM_TABLE_DROP
  | STRM_DESC_DATA | STRM_DESC_OP | STRM_DESC_RESULT | STRM_DESC_MIN_LO | STRM_DESC_MIN_HI | STRM_DESC_MAX_LO
  | STRM_DESC_MAX_HI | STRM_SEL | STRM_CTL | STRM_JOB | STRM_FRAME | STRM_RING_BASE_LO | STRM_RING_BASE_HI
  | STRM_SHADOW_ADDR_LO | STRM_SHADOW_ADDR_HI | STRM_SEQ | STRM_TAIL | STRM_RETIRED | STRM_DEPTH | STRM_STATE
  | STRM_STATUS_ACC | STRM_ERR_TAG | STRM_ERR_COUNT | STRM_SEED_LO | STRM_SEED_HI | STRM_ISSUED
  | STRM_BOLT_REJ | STRM_WAIT_LIMIT | STRM_DEADLOCKS | STRM_RLATCH_BASE_LO | STRM_RLATCH_BASE_HI
  | STRM_RLATCH_COUNT | STRM_GLATCH_SEL | STRM_GLATCH | STRM_RTN_BCAST_SLOT | STRM_RTN_BCAST_SRC_LO
  | STRM_RTN_BCAST_SRC_HI | STRM_RTN_BCAST_CTL | TILE_Q_STATUS | TILE_LATCH_LO | TILE_LATCH_HI
  | TILE_RTN_PENDING_LO | TILE_RTN_PENDING_HI | TILE_RTN_LOAD_SLOT | TILE_RTN_LOAD_SRC_LO
  | TILE_RTN_LOAD_SRC_HI | TILE_RTN_LOAD_CTL | TILE_RTN_SEL | TILE_RTN_INFO | TILE_DEADLOCKS | DBG_BP_SEL
  | DBG_BP_CTL | DBG_BP_TAG | DBG_BP_COUNT | UPD_MODE | UPD_STATUS | UPD_LAYER_BASE_LO | UPD_LAYER_BASE_HI
  | UPD_LAYER_COUNT | UPD_LSTAT_BASE_LO | UPD_LSTAT_BASE_HI | UPD_COMMIT_TIMEOUT | UPD_JOB_SEL | UPD_JOB_CTL
  | UPD_JOB_SHARDS | UPD_JOB_T_LO | UPD_JOB_T_HI | UPD_JOB_STEP_LO | UPD_JOB_STEP_HI | UPD_JOB_OUTCOME
  | UPD_COMMITS | UPD_SKIPS | UPD_ABORTS | UPD_P_FALLBACK | UPD_DELTA_FLUSH | UPD_DELTA_SAT | UPD_STALE
  | UPD_STEPSIZE | UPD_STEPTAG_LO | UPD_STEPTAG_HI | UPD_STEPGEN | NUM_RATIO_LO | NUM_RATIO_HI
  | NUM_STARVE_LIMIT | NUM_WATCH_CTL | NUM_RATIO_EVENTS | NUM_STARVE_EVENTS | NUM_GRAD_SAT | NUM_NONFINITE
  | FLT_STATUS | FLT_ABFT_TOL | FLT_ASSAY_PERIOD | FLT_OBS | FLT_TRANSIENT_LIMIT | FLT_CE_LIMIT
  | FLT_DRAIN_LIMIT | FLT_RETIRED | FLT_REMAP_SEL | FLT_REMAP | FLT_UNIT_SEL | FLT_UNIT_CTL
  | FLT_TLOG_BASE_LO | FLT_TLOG_BASE_HI | FLT_TLOG_SLOTS | FLT_TLOG_NEXT | FLT_DROSS_MADE | FLT_DROSS_PASSED
  | FLT_JOB_ABORTS | FLT_CE_STORE | FLT_UE | FLT_TRANSIENTS | FLT_REPEAT_FAILS | FLT_ASSAY_PASS
  | FLT_ASSAY_FAIL | FLT_TITHES | FLT_OFFLINE_BINDS | FLT_ASSAY_SET | MEM_STATUS | MEM_RATE | MEM_CAPACITY_LO
  | MEM_CAPACITY_HI | MEM_SCRUB_RATE | MEM_SCRUB_PASS | MEM_SCRUB_POS | MEM_RETRAIN_THR | MEM_REPLAY_MAX
  | MEM_PAGE_CE_LIMIT | MEM_CH_SEL | MEM_CH_STATE | MEM_CH_CE | MEM_CH_UE | MEM_CH_REPLAY | MEM_CH_RETRAINS
  | MEM_CH_DEV_CE | MEM_PAGE_PROP_SEL | MEM_PAGE_PROP | MEM_PAGE_ACK | MEM_PROP_DROP | MEM_OFF_SEL
  | MEM_OFF_ENTRY | MEM_OFF_COUNT | MEM_OFF_ACCESS | MEM_WINDOW_ACCESS | LNK_STATUS | LNK_MODULE | LNK_SEL
  | LNK_LSTATE | LNK_DELAY | LNK_REPLAYS | LNK_DROSS_FORM | LNK_FEC_CORR | LNK_FEC_UNCORR | LNK_TX_FLITS
  | LNK_RX_FLITS | LNK_ELIDED | LNK_SCHED_HOLD | LNK_NREADY_DROP | LNK_RETRAINS | LNK_REROUTED
  | LNK_RETRAIN_THR | LNK_RETRY | LNK_COLL_LIMIT | LNK_CTL | LNK_GROUP_BASE_LO | LNK_GROUP_BASE_HI
  | LNK_GROUP_COUNT | LNK_RT_SEL | LNK_RT_MASK_LO | LNK_RT_MASK_HI | LNK_RT_ALT_LO | LNK_RT_ALT_HI
  | LNK_UNREACH | LNK_REFUSED | TWIN_STATUS | TWIN_CTL | TWIN_LINKS_LO | TWIN_LINKS_HI | TWIN_MAN_BASE_LO
  | TWIN_MAN_BASE_HI | TWIN_MAN_COUNT | TWIN_JOIN_JOB | TWIN_JOIN_STEP_LO | TWIN_JOIN_STEP_HI
  | TWIN_SEED_POS_LO | TWIN_SEED_POS_HI | TWIN_LOSS | TWIN_DIVERGED | TWIN_UNCHECKED | TWIN_MIRRORED
  | ID_VENDOR | ID_REVISION | ID_SERIAL_LO | ID_SERIAL_HI | ID_FUSE | ID_SERVICE | HIF_LINK | HIF_BAR4_SIZE
  | HIF_BAR4_BASE_LO | HIF_BAR4_BASE_HI | HIF_EVT_BASE_LO | HIF_EVT_BASE_HI | HIF_EVT_CTL | HIF_EVT_PROD
  | HIF_EVT_CONS | HIF_EVT_MOD | HIF_EVT_HELD | HIF_EVT_LOST | HIF_UNMAPPED | HIF_POISON_RX | HIF_POISON_TX
  | HIF_BAD_ACCESS | HIF_EVT_VEC | HIF_MODULE_RESET | HIF_COPY_SEL | HIF_COPY_BASE_LO | HIF_COPY_BASE_HI
  | HIF_COPY_CFG | HIF_COPY_CTL | HIF_COPY_TAIL | HIF_COPY_HEAD | PAT_STATUS | PAT_IMAGE_SVN | PAT_IMAGE_GEN
  | PAT_IMAGE_DIGEST | PAT_STAGE_BASE_LO | PAT_STAGE_BASE_HI | PAT_FLASH | PAT_RECAST | PAT_RESULT
  | PAT_FLASH_ADDR | PAT_FLASH_LEN | PAT_PROGRESS | PAT_LOG_MASK | PAT_LOG_SEQ | PAT_LOG_LOST
  | PAT_STAGE_DROP | SEC_STATUS | SEC_DEVICE_ID | SEC_OP | SEC_RESULT | SEC_SLOT_SEL | SEC_SLOT_DIGEST
  | SEC_ATTESTS | ID_BOOT | ID_BOOT_MS | ID_RESET_CAUSE | SB_IDENT | SB_SERIAL_LO | SB_SERIAL_HI | SB_STATE
  | SB_TEMP_DIE | SB_TEMP_MEM | SB_TEMP_COOLANT | SB_VIN | SB_PIN | SB_RAIL_SEL | SB_RAIL | SB_CAP
  | SB_ALERT_STATUS | SB_ALERT_MASK | SB_CONTROL | SB_STOPS | PWR_CAP | PWR_STATUS | PWR_INPUT | PWR_CURRENT
  | PWR_TCAP | PWR_DUTY_MIN | PWR_TEMP_MAX | PWR_GATED_MS | PWR_THROTTLE_MS | PWR_ENERGY_LO | PWR_ENERGY_HI
  | TILE_RTR_OPEN_FLITS | TILE_RTR_OPEN_WAIT | TILE_RTR_SCHED_FLITS | TST_PERMIT | TST_ARM | TST_PERT_SEL
  | TST_PERT_CTL | TST_PERT_AMT | TST_PERT_SEED_LO | TST_PERT_SEED_HI | TST_PERT_HITS | TST_INJ_CTL
  | TST_INJ_ADDR_LO | TST_INJ_ADDR_HI | TST_INJ_MASK_LO | TST_INJ_MASK_HI | TST_INJ_CHECK | TST_INJ_DONE
  | DBG_TRACE_BASE_LO | DBG_TRACE_BASE_HI | DBG_TRACE_CTL | DBG_TRACE_COUNT | DBG_TRACE_LOST | DBG_PC_CTL
  | DBG_PC_SEL | DBG_PC_CFG | DBG_PC_STREAM | DBG_PC_VAL_LO | DBG_PC_VAL_HI | ID_TILE_MAP_SEL | ID_TILE_MAP
  deriving DecidableEq, Repr

/-- The Access column (R10). -/
inductive Acc where | ro | rw | w1c | w1s | rc | wo
  deriving DecidableEq, Repr

/-- The letters of the Reset column (R12): a number, P, F, H, or K (the sideband's kept fields, R497). -/
inductive ResetKind where | num | cast | fuse | hw | kept
  deriving DecidableEq, Repr

/-- One field of a register: bits [lo + width - 1 : lo], its access code and its reset value. -/
structure FieldSpec where
  lo : Nat
  width : Nat
  acc : Acc
  kind : ResetKind
  value : Nat
  deriving DecidableEq, Repr

/-- Where a register lies: a BAR0 offset, an offset of every tile window (R15), or an SMBus command code. -/
inductive Space where | bar0 | tile | sideband
  deriving DecidableEq, Repr

/-- A register: its place, how many it is an array of and their stride, and its fields. -/
structure RegSpec where
  space : Space
  off : Nat
  count : Nat
  stride : Nat
  fields : List FieldSpec
  deriving DecidableEq, Repr

/-- The rows of the register tables. DESIGN CHOICE, log 4. DESIGN CHOICE, log 5. DESIGN CHOICE, log 38. -/
def Reg.spec : Reg → RegSpec
  -- R74 (02_beat.md)
  | .BEAT_LEN => ⟨.bar0, 0x40000, 1, 0, [⟨0, 5, .ro, .cast, 16⟩]⟩
  | .BEAT_STATUS => ⟨.bar0, 0x40004, 1, 0, [⟨0, 1, .ro, .hw, 0⟩, ⟨1, 1, .ro, .num, 0⟩, ⟨2, 1, .ro, .num, 0⟩, ⟨3, 1, .ro, .num, 0⟩, ⟨4, 1, .ro, .num, 0⟩]⟩
  | .BEAT_COUNT_LO => ⟨.bar0, 0x40008, 1, 0, [⟨0, 32, .ro, .num, 0⟩]⟩
  | .BEAT_COUNT_HI => ⟨.bar0, 0x4000C, 1, 0, [⟨0, 32, .ro, .num, 0⟩]⟩
  | .BEAT_ENTRY => ⟨.bar0, 0x40010, 1, 0, [⟨0, 12, .ro, .num, 0⟩]⟩
  | .BEAT_CUR_LEN => ⟨.bar0, 0x40014, 1, 0, [⟨0, 13, .ro, .num, 0⟩]⟩
  | .BEAT_CUR_BASE_LO => ⟨.bar0, 0x40018, 1, 0, [⟨16, 16, .ro, .num, 0⟩]⟩
  | .BEAT_CUR_BASE_HI => ⟨.bar0, 0x4001C, 1, 0, [⟨0, 8, .ro, .num, 0⟩]⟩
  | .BEAT_NEXT_BASE_LO => ⟨.bar0, 0x40020, 1, 0, [⟨16, 16, .rw, .num, 0⟩]⟩
  | .BEAT_NEXT_BASE_HI => ⟨.bar0, 0x40024, 1, 0, [⟨0, 8, .rw, .num, 0⟩]⟩
  | .BEAT_NEXT_LEN => ⟨.bar0, 0x40028, 1, 0, [⟨0, 13, .rw, .num, 0⟩, ⟨16, 12, .rw, .num, 0⟩]⟩
  | .BEAT_PLAN_NEXT => ⟨.bar0, 0x4002C, 1, 0, [⟨0, 1, .w1s, .num, 0⟩, ⟨1, 1, .w1s, .num, 0⟩, ⟨4, 3, .ro, .num, 0⟩]⟩
  | .BEAT_NEXT_AT_LO => ⟨.bar0, 0x40030, 1, 0, [⟨0, 32, .rw, .num, 0⟩]⟩
  | .BEAT_NEXT_AT_HI => ⟨.bar0, 0x40034, 1, 0, [⟨0, 32, .rw, .num, 0⟩]⟩
  | .BEAT_FRAME_BASE_LO => ⟨.bar0, 0x40038, 1, 0, [⟨15, 17, .rw, .num, 0⟩]⟩
  | .BEAT_FRAME_BASE_HI => ⟨.bar0, 0x4003C, 1, 0, [⟨0, 8, .rw, .num, 0⟩]⟩
  | .BEAT_FRAME_COUNT => ⟨.bar0, 0x40040, 1, 0, [⟨0, 21, .rw, .num, 0⟩]⟩
  | .BEAT_TRIM => ⟨.bar0, 0x40044, 1, 0, [⟨0, 5, .ro, .num, 0⟩, ⟨16, 16, .ro, .num, 0⟩]⟩
  | .BEAT_GROUP => ⟨.bar0, 0x40048, 1, 0, [⟨0, 12, .ro, .cast, 4095⟩, ⟨12, 12, .ro, .cast, 0⟩, ⟨24, 4, .ro, .hw, 0⟩]⟩
  | .BEAT_UPLINK => ⟨.bar0, 0x4004C, 1, 0, [⟨0, 6, .ro, .cast, 0⟩, ⟨8, 6, .ro, .cast, 0⟩, ⟨16, 1, .ro, .num, 0⟩]⟩
  | .BEAT_HOLDOVER => ⟨.bar0, 0x40050, 1, 0, [⟨0, 8, .rw, .cast, 64⟩]⟩
  | .BEAT_CARRY_EVT => ⟨.bar0, 0x40054, 1, 0, [⟨0, 8, .rw, .cast, 2⟩]⟩
  | .BEAT_OVR_SEL => ⟨.bar0, 0x40058, 1, 0, [⟨0, 16, .rw, .num, 0⟩]⟩
  | .BEAT_OVERRUN => ⟨.bar0, 0x4005C, 1, 0, [⟨0, 32, .rc, .num, 0⟩]⟩
  | .BEAT_BUBBLE => ⟨.bar0, 0x40060, 1, 0, [⟨0, 32, .rc, .num, 0⟩]⟩
  | .BEAT_DEMOTED => ⟨.bar0, 0x40064, 1, 0, [⟨0, 32, .rc, .num, 0⟩]⟩
  | .BEAT_HELD => ⟨.bar0, 0x40068, 1, 0, [⟨0, 32, .rc, .num, 0⟩]⟩
  | .BEAT_STATE_LATE => ⟨.bar0, 0x4006C, 1, 0, [⟨0, 32, .rc, .num, 0⟩]⟩
  -- R102 (03_number_formats.md)
  | .NUM_ARITH_SEL => ⟨.bar0, 0x60100, 1, 0, [⟨0, 16, .rw, .num, 0⟩]⟩
  | .NUM_OVERFLOW => ⟨.bar0, 0x60104, 1, 0, [⟨0, 32, .rc, .num, 0⟩]⟩
  | .NUM_UNDERFLOW => ⟨.bar0, 0x60108, 1, 0, [⟨0, 32, .rc, .num, 0⟩]⟩
  | .NUM_NAN_SCALE => ⟨.bar0, 0x6010C, 1, 0, [⟨0, 32, .rc, .num, 0⟩]⟩
  | .NUM_SATURATED => ⟨.bar0, 0x60110, 1, 0, [⟨0, 32, .rc, .num, 0⟩]⟩
  | .NUM_INT_SAT => ⟨.bar0, 0x60114, 1, 0, [⟨0, 32, .rc, .num, 0⟩]⟩
  -- R134 (04_loom.md)
  | .LOOM_STATUS => ⟨.tile, 0x1000, 1, 0, [⟨0, 1, .ro, .hw, 0⟩, ⟨1, 1, .ro, .hw, 0⟩, ⟨2, 1, .ro, .num, 0⟩, ⟨3, 1, .ro, .num, 0⟩, ⟨4, 1, .ro, .num, 0⟩, ⟨5, 1, .ro, .num, 0⟩]⟩
  | .LOOM_FUSE_A => ⟨.tile, 0x1004, 1, 0, [⟨0, 7, .ro, .fuse, 0⟩, ⟨7, 7, .ro, .fuse, 0⟩, ⟨14, 7, .ro, .fuse, 0⟩, ⟨21, 7, .ro, .fuse, 0⟩, ⟨28, 1, .ro, .fuse, 0⟩]⟩
  | .LOOM_FUSE_B => ⟨.tile, 0x1008, 1, 0, [⟨0, 7, .ro, .fuse, 0⟩, ⟨7, 7, .ro, .fuse, 0⟩, ⟨14, 7, .ro, .fuse, 0⟩, ⟨21, 7, .ro, .fuse, 0⟩, ⟨28, 1, .ro, .fuse, 0⟩]⟩
  | .LOOM_SKEW_SEL => ⟨.tile, 0x100C, 1, 0, [⟨0, 1, .rw, .num, 0⟩, ⟨1, 1, .rw, .num, 0⟩, ⟨2, 7, .rw, .num, 0⟩]⟩
  | .LOOM_SKEW => ⟨.tile, 0x1010, 1, 0, [⟨0, 2, .ro, .hw, 0⟩, ⟨2, 2, .ro, .hw, 0⟩, ⟨4, 1, .ro, .hw, 0⟩]⟩
  | .LOOM_CHK_PASS => ⟨.tile, 0x1014, 1, 0, [⟨0, 32, .rc, .num, 0⟩]⟩
  | .LOOM_CHK_MISMATCH => ⟨.tile, 0x1018, 1, 0, [⟨0, 32, .rc, .num, 0⟩]⟩
  | .LOOM_CHK_SKIPPED => ⟨.tile, 0x101C, 1, 0, [⟨0, 32, .rc, .num, 0⟩]⟩
  | .LOOM_CHK_WORST => ⟨.tile, 0x1020, 1, 0, [⟨0, 32, .rc, .num, 0⟩]⟩
  | .LOOM_BLOCKS_A => ⟨.tile, 0x1024, 1, 0, [⟨0, 32, .rc, .num, 0⟩]⟩
  | .LOOM_BLOCKS_B => ⟨.tile, 0x1028, 1, 0, [⟨0, 32, .rc, .num, 0⟩]⟩
  | .LOOM_HEDDLE_STALL => ⟨.tile, 0x102C, 1, 0, [⟨0, 32, .rc, .num, 0⟩]⟩
  | .LOOM_FEED_STALL => ⟨.tile, 0x1030, 1, 0, [⟨0, 32, .rc, .num, 0⟩]⟩
  -- R168 (05_shuttle.md)
  | .SHTL_STATUS => ⟨.tile, 0x2000, 1, 0, [⟨0, 1, .ro, .num, 0⟩, ⟨1, 2, .ro, .num, 0⟩]⟩
  | .SHTL_PATH_THR => ⟨.tile, 0x2004, 1, 0, [⟨0, 8, .rw, .cast, 192⟩, ⟨8, 8, .rw, .cast, 4⟩, ⟨16, 8, .rw, .cast, 128⟩]⟩
  | .SHTL_SPLIT_THR => ⟨.tile, 0x2008, 1, 0, [⟨0, 4, .rw, .cast, 4⟩]⟩
  | .SHTL_IDX_BAD => ⟨.tile, 0x200C, 1, 0, [⟨0, 32, .rc, .num, 0⟩]⟩
  | .SHTL_DEDUP => ⟨.tile, 0x2010, 1, 0, [⟨0, 32, .rc, .num, 0⟩]⟩
  | .SHTL_GATHERED => ⟨.tile, 0x2014, 1, 0, [⟨0, 32, .rc, .num, 0⟩]⟩
  | .SHTL_SCATTERED => ⟨.tile, 0x2018, 1, 0, [⟨0, 32, .rc, .num, 0⟩]⟩
  | .SHTL_MERGE_EVICT => ⟨.tile, 0x201C, 1, 0, [⟨0, 32, .rc, .num, 0⟩]⟩
  | .SHTL_FETCH_STALL => ⟨.tile, 0x2020, 1, 0, [⟨0, 32, .rc, .num, 0⟩]⟩
  | .SHTL_PANEL_ERR => ⟨.tile, 0x2024, 1, 0, [⟨0, 32, .rc, .num, 0⟩]⟩
  | .SHTL_ROUTE_OVF => ⟨.tile, 0x2028, 1, 0, [⟨0, 32, .rc, .num, 0⟩]⟩
  | .SHTL_SKETCH_SEL => ⟨.tile, 0x202C, 1, 0, [⟨0, 32, .rc, .num, 0⟩]⟩
  | .SHTL_LANE_BUSY => ⟨.tile, 0x2030, 1, 0, [⟨0, 32, .rc, .num, 0⟩]⟩
  -- R169 (05_shuttle.md)
  | .NUM_PATH_SEL => ⟨.bar0, 0x60120, 1, 0, [⟨0, 16, .rw, .num, 0⟩]⟩
  | .NUM_PATH_DENSE => ⟨.bar0, 0x60124, 1, 0, [⟨0, 32, .rc, .num, 0⟩]⟩
  | .NUM_PATH_COND => ⟨.bar0, 0x60128, 1, 0, [⟨0, 32, .rc, .num, 0⟩]⟩
  | .NUM_PATH_MERGE => ⟨.bar0, 0x6012C, 1, 0, [⟨0, 32, .rc, .num, 0⟩]⟩
  | .NUM_PATH_HYBRID => ⟨.bar0, 0x60130, 1, 0, [⟨0, 32, .rc, .num, 0⟩]⟩
  | .NUM_PATH_SPLIT => ⟨.bar0, 0x60134, 1, 0, [⟨0, 32, .rc, .num, 0⟩]⟩
  -- R196 (06_finisher_backward.md)
  | .FIN_STATUS => ⟨.tile, 0x3000, 1, 0, [⟨0, 1, .ro, .num, 0⟩, ⟨1, 2, .ro, .num, 0⟩, ⟨3, 2, .ro, .num, 0⟩]⟩
  | .FIN_ELEMENTS => ⟨.tile, 0x3004, 1, 0, [⟨0, 32, .rc, .num, 0⟩]⟩
  | .FIN_ROWS => ⟨.tile, 0x3008, 1, 0, [⟨0, 32, .rc, .num, 0⟩]⟩
  | .FIN_SMAX_EMPTY => ⟨.tile, 0x300C, 1, 0, [⟨0, 32, .rc, .num, 0⟩]⟩
  | .FIN_NAN_ROWS => ⟨.tile, 0x3010, 1, 0, [⟨0, 32, .rc, .num, 0⟩]⟩
  | .FIN_STORE_STALL => ⟨.tile, 0x3014, 1, 0, [⟨0, 32, .rc, .num, 0⟩]⟩
  | .FIN_STASH_ATOMS => ⟨.tile, 0x3018, 1, 0, [⟨0, 32, .rc, .num, 0⟩]⟩
  | .FIN_BUSY_CYCLES => ⟨.tile, 0x301C, 1, 0, [⟨0, 32, .rc, .num, 0⟩]⟩
  -- R223 (07_tensors.md)
  | .STRM_TDESC_BASE_LO => ⟨.bar0, 0x58000, 1, 0, [⟨26, 6, .rw, .num, 0⟩]⟩
  | .STRM_TDESC_BASE_HI => ⟨.bar0, 0x58004, 1, 0, [⟨0, 8, .rw, .num, 0⟩]⟩
  | .STRM_TDESC_CAP => ⟨.bar0, 0x58008, 1, 0, [⟨0, 21, .rw, .num, 0⟩]⟩
  | .STRM_TDESC_LIVE => ⟨.bar0, 0x5800C, 1, 0, [⟨0, 21, .ro, .num, 0⟩]⟩
  | .STRM_REGION_LIVE => ⟨.bar0, 0x58010, 1, 0, [⟨0, 13, .ro, .num, 0⟩]⟩
  | .STRM_TABLE_DROP => ⟨.bar0, 0x58014, 1, 0, [⟨0, 32, .rc, .num, 0⟩]⟩
  | .STRM_DESC_DATA => ⟨.bar0, 0x58020, 16, 4, [⟨0, 32, .rw, .num, 0⟩]⟩
  | .STRM_DESC_OP => ⟨.bar0, 0x58060, 1, 0, [⟨0, 3, .rw, .num, 0⟩, ⟨4, 20, .rw, .num, 0⟩, ⟨31, 1, .w1s, .num, 0⟩]⟩
  | .STRM_DESC_RESULT => ⟨.bar0, 0x58064, 1, 0, [⟨0, 4, .ro, .num, 0⟩, ⟨8, 6, .ro, .num, 0⟩, ⟨16, 1, .ro, .num, 0⟩]⟩
  | .STRM_DESC_MIN_LO => ⟨.bar0, 0x58068, 1, 0, [⟨0, 32, .ro, .num, 0⟩]⟩
  | .STRM_DESC_MIN_HI => ⟨.bar0, 0x5806C, 1, 0, [⟨0, 32, .ro, .num, 0⟩]⟩
  | .STRM_DESC_MAX_LO => ⟨.bar0, 0x58070, 1, 0, [⟨0, 32, .ro, .num, 0⟩]⟩
  | .STRM_DESC_MAX_HI => ⟨.bar0, 0x58074, 1, 0, [⟨0, 32, .ro, .num, 0⟩]⟩
  -- R263 (08_commands.md)
  | .STRM_SEL => ⟨.bar0, 0x50000, 1, 0, [⟨0, 16, .rw, .num, 0⟩]⟩
  | .STRM_CTL => ⟨.bar0, 0x50004, 1, 0, [⟨0, 1, .rw, .num, 0⟩, ⟨1, 1, .w1s, .num, 0⟩, ⟨2, 1, .w1s, .num, 0⟩, ⟨3, 1, .w1s, .num, 0⟩, ⟨4, 1, .rw, .num, 0⟩, ⟨5, 1, .rw, .num, 1⟩, ⟨6, 1, .rw, .num, 0⟩]⟩
  | .STRM_JOB => ⟨.bar0, 0x50008, 1, 0, [⟨0, 12, .rw, .num, 0⟩]⟩
  | .STRM_FRAME => ⟨.bar0, 0x5000C, 1, 0, [⟨0, 20, .rw, .num, 0xfffff⟩]⟩
  | .STRM_RING_BASE_LO => ⟨.bar0, 0x50010, 1, 0, [⟨18, 14, .rw, .num, 0⟩]⟩
  | .STRM_RING_BASE_HI => ⟨.bar0, 0x50014, 1, 0, [⟨0, 8, .rw, .num, 0⟩]⟩
  | .STRM_SHADOW_ADDR_LO => ⟨.bar0, 0x50018, 1, 0, [⟨4, 28, .rw, .num, 0⟩]⟩
  | .STRM_SHADOW_ADDR_HI => ⟨.bar0, 0x5001C, 1, 0, [⟨0, 32, .rw, .num, 0⟩]⟩
  | .STRM_SEQ => ⟨.bar0, 0x50020, 1, 0, [⟨0, 32, .ro, .num, 0⟩]⟩
  | .STRM_TAIL => ⟨.bar0, 0x50024, 1, 0, [⟨0, 32, .ro, .num, 0⟩]⟩
  | .STRM_RETIRED => ⟨.bar0, 0x50028, 1, 0, [⟨0, 32, .ro, .num, 0⟩]⟩
  | .STRM_DEPTH => ⟨.bar0, 0x5002C, 1, 0, [⟨0, 13, .ro, .num, 0⟩]⟩
  | .STRM_STATE => ⟨.bar0, 0x50030, 1, 0, [⟨0, 1, .ro, .num, 0⟩, ⟨1, 1, .ro, .num, 0⟩, ⟨2, 1, .ro, .num, 0⟩, ⟨4, 4, .ro, .num, 0⟩, ⟨8, 9, .ro, .num, 0⟩, ⟨17, 2, .ro, .num, 0⟩]⟩
  | .STRM_STATUS_ACC => ⟨.bar0, 0x50034, 1, 0, [⟨1, 9, .w1c, .num, 0⟩, ⟨16, 4, .w1c, .num, 0⟩]⟩
  | .STRM_ERR_TAG => ⟨.bar0, 0x50038, 1, 0, [⟨0, 16, .ro, .num, 0⟩, ⟨16, 4, .ro, .num, 0⟩]⟩
  | .STRM_ERR_COUNT => ⟨.bar0, 0x5003C, 1, 0, [⟨0, 32, .ro, .num, 0⟩]⟩
  | .STRM_SEED_LO => ⟨.bar0, 0x50040, 1, 0, [⟨0, 32, .rw, .num, 0⟩]⟩
  | .STRM_SEED_HI => ⟨.bar0, 0x50044, 1, 0, [⟨0, 32, .rw, .num, 0⟩]⟩
  | .STRM_ISSUED => ⟨.bar0, 0x50048, 1, 0, [⟨0, 32, .ro, .num, 0⟩]⟩
  | .STRM_BOLT_REJ => ⟨.bar0, 0x5004C, 1, 0, [⟨0, 32, .rc, .num, 0⟩]⟩
  | .STRM_WAIT_LIMIT => ⟨.bar0, 0x50050, 1, 0, [⟨0, 8, .rw, .cast, 16⟩]⟩
  | .STRM_DEADLOCKS => ⟨.bar0, 0x50054, 1, 0, [⟨0, 32, .rc, .num, 0⟩]⟩
  | .STRM_RLATCH_BASE_LO => ⟨.bar0, 0x50100, 1, 0, [⟨16, 16, .rw, .num, 0⟩]⟩
  | .STRM_RLATCH_BASE_HI => ⟨.bar0, 0x50104, 1, 0, [⟨0, 8, .rw, .num, 0⟩]⟩
  | .STRM_RLATCH_COUNT => ⟨.bar0, 0x50108, 1, 0, [⟨0, 14, .rw, .num, 0⟩]⟩
  | .STRM_GLATCH_SEL => ⟨.bar0, 0x50110, 1, 0, [⟨0, 12, .rw, .num, 0⟩]⟩
  | .STRM_GLATCH => ⟨.bar0, 0x50114, 1, 0, [⟨0, 1, .ro, .num, 0⟩, ⟨1, 1, .w1s, .num, 0⟩, ⟨2, 1, .w1s, .num, 0⟩]⟩
  | .STRM_RTN_BCAST_SLOT => ⟨.bar0, 0x50200, 1, 0, [⟨0, 6, .rw, .num, 0⟩, ⟨16, 16, .rw, .num, 0⟩]⟩
  | .STRM_RTN_BCAST_SRC_LO => ⟨.bar0, 0x50204, 1, 0, [⟨10, 22, .rw, .num, 0⟩]⟩
  | .STRM_RTN_BCAST_SRC_HI => ⟨.bar0, 0x50208, 1, 0, [⟨0, 8, .rw, .num, 0⟩]⟩
  | .STRM_RTN_BCAST_CTL => ⟨.bar0, 0x5020C, 1, 0, [⟨0, 1, .w1s, .num, 0⟩]⟩
  -- R264 (08_commands.md)
  | .TILE_Q_STATUS => ⟨.tile, 0x0, 4, 4, [⟨0, 16, .ro, .num, 0⟩, ⟨16, 1, .ro, .num, 0⟩, ⟨17, 3, .ro, .num, 0⟩, ⟨20, 9, .ro, .num, 0⟩]⟩
  | .TILE_LATCH_LO => ⟨.tile, 0x10, 1, 0, [⟨0, 32, .ro, .num, 0⟩]⟩
  | .TILE_LATCH_HI => ⟨.tile, 0x14, 1, 0, [⟨0, 32, .ro, .num, 0⟩]⟩
  | .TILE_RTN_PENDING_LO => ⟨.tile, 0x18, 1, 0, [⟨0, 32, .ro, .num, 0⟩]⟩
  | .TILE_RTN_PENDING_HI => ⟨.tile, 0x1C, 1, 0, [⟨0, 32, .ro, .num, 0⟩]⟩
  | .TILE_RTN_LOAD_SLOT => ⟨.tile, 0x20, 1, 0, [⟨0, 6, .rw, .num, 0⟩, ⟨16, 16, .rw, .num, 0⟩]⟩
  | .TILE_RTN_LOAD_SRC_LO => ⟨.tile, 0x24, 1, 0, [⟨10, 22, .rw, .num, 0⟩]⟩
  | .TILE_RTN_LOAD_SRC_HI => ⟨.tile, 0x28, 1, 0, [⟨0, 8, .rw, .num, 0⟩]⟩
  | .TILE_RTN_LOAD_CTL => ⟨.tile, 0x2C, 1, 0, [⟨0, 1, .w1s, .num, 0⟩, ⟨1, 2, .ro, .num, 0⟩]⟩
  | .TILE_RTN_SEL => ⟨.tile, 0x30, 1, 0, [⟨0, 6, .rw, .num, 0⟩]⟩
  | .TILE_RTN_INFO => ⟨.tile, 0x34, 1, 0, [⟨0, 16, .ro, .num, 0⟩, ⟨16, 16, .ro, .hw, 0⟩]⟩
  | .TILE_DEADLOCKS => ⟨.tile, 0x38, 1, 0, [⟨0, 32, .rc, .num, 0⟩]⟩
  -- R265 (08_commands.md)
  | .DBG_BP_SEL => ⟨.bar0, 0xD0000, 1, 0, [⟨0, 3, .rw, .num, 0⟩]⟩
  | .DBG_BP_CTL => ⟨.bar0, 0xD0004, 1, 0, [⟨0, 1, .rw, .num, 0⟩, ⟨1, 1, .rw, .num, 0⟩, ⟨2, 1, .rw, .num, 0⟩, ⟨3, 1, .w1c, .num, 0⟩, ⟨16, 16, .rw, .num, 0⟩]⟩
  | .DBG_BP_TAG => ⟨.bar0, 0xD0008, 1, 0, [⟨0, 16, .rw, .num, 0⟩, ⟨16, 16, .rw, .num, 0⟩]⟩
  | .DBG_BP_COUNT => ⟨.bar0, 0xD000C, 1, 0, [⟨0, 32, .rw, .num, 0⟩]⟩
  -- R297 (09_update_commit.md)
  | .UPD_MODE => ⟨.bar0, 0x70000, 1, 0, [⟨0, 1, .rw, .cast, 1⟩]⟩
  | .UPD_STATUS => ⟨.bar0, 0x70004, 1, 0, [⟨0, 13, .ro, .num, 0⟩, ⟨13, 13, .ro, .num, 0⟩]⟩
  | .UPD_LAYER_BASE_LO => ⟨.bar0, 0x70008, 1, 0, [⟨12, 20, .rw, .num, 0⟩]⟩
  | .UPD_LAYER_BASE_HI => ⟨.bar0, 0x7000C, 1, 0, [⟨0, 8, .rw, .num, 0⟩]⟩
  | .UPD_LAYER_COUNT => ⟨.bar0, 0x70010, 1, 0, [⟨0, 13, .rw, .num, 0⟩]⟩
  | .UPD_LSTAT_BASE_LO => ⟨.bar0, 0x70014, 1, 0, [⟨12, 20, .rw, .num, 0⟩]⟩
  | .UPD_LSTAT_BASE_HI => ⟨.bar0, 0x70018, 1, 0, [⟨0, 8, .rw, .num, 0⟩]⟩
  | .UPD_COMMIT_TIMEOUT => ⟨.bar0, 0x7001C, 1, 0, [⟨0, 8, .rw, .cast, 16⟩, ⟨8, 4, .rw, .cast, 0⟩]⟩
  | .UPD_JOB_SEL => ⟨.bar0, 0x70020, 1, 0, [⟨0, 12, .rw, .num, 0⟩]⟩
  | .UPD_JOB_CTL => ⟨.bar0, 0x70024, 1, 0, [⟨0, 1, .rw, .num, 0⟩, ⟨1, 1, .ro, .num, 0⟩, ⟨4, 12, .rw, .num, 0⟩]⟩
  | .UPD_JOB_SHARDS => ⟨.bar0, 0x70028, 1, 0, [⟨0, 13, .rw, .num, 0⟩, ⟨16, 16, .rw, .num, 0⟩]⟩
  | .UPD_JOB_T_LO => ⟨.bar0, 0x7002C, 1, 0, [⟨0, 32, .ro, .num, 0⟩]⟩
  | .UPD_JOB_T_HI => ⟨.bar0, 0x70030, 1, 0, [⟨0, 32, .ro, .num, 0⟩]⟩
  | .UPD_JOB_STEP_LO => ⟨.bar0, 0x70034, 1, 0, [⟨0, 32, .ro, .num, 0⟩]⟩
  | .UPD_JOB_STEP_HI => ⟨.bar0, 0x70038, 1, 0, [⟨0, 32, .ro, .num, 0⟩]⟩
  | .UPD_JOB_OUTCOME => ⟨.bar0, 0x7003C, 1, 0, [⟨0, 2, .ro, .num, 0⟩, ⟨2, 1, .ro, .num, 0⟩, ⟨3, 1, .ro, .num, 0⟩]⟩
  | .UPD_COMMITS => ⟨.bar0, 0x70040, 1, 0, [⟨0, 32, .rc, .num, 0⟩]⟩
  | .UPD_SKIPS => ⟨.bar0, 0x70044, 1, 0, [⟨0, 32, .rc, .num, 0⟩]⟩
  | .UPD_ABORTS => ⟨.bar0, 0x70048, 1, 0, [⟨0, 32, .rc, .num, 0⟩]⟩
  | .UPD_P_FALLBACK => ⟨.bar0, 0x7004C, 1, 0, [⟨0, 32, .rc, .num, 0⟩]⟩
  | .UPD_DELTA_FLUSH => ⟨.bar0, 0x70050, 1, 0, [⟨0, 32, .rc, .num, 0⟩]⟩
  | .UPD_DELTA_SAT => ⟨.bar0, 0x70054, 1, 0, [⟨0, 32, .rc, .num, 0⟩]⟩
  | .UPD_STALE => ⟨.bar0, 0x70058, 1, 0, [⟨0, 32, .rc, .num, 0⟩]⟩
  | .UPD_STEPSIZE => ⟨.bar0, 0x71000, 256, 16, [⟨0, 32, .rw, .num, 0⟩]⟩
  | .UPD_STEPTAG_LO => ⟨.bar0, 0x71004, 256, 16, [⟨0, 32, .rw, .num, 0xffffffff⟩]⟩
  | .UPD_STEPTAG_HI => ⟨.bar0, 0x71008, 256, 16, [⟨0, 32, .rw, .num, 0xffffffff⟩]⟩
  | .UPD_STEPGEN => ⟨.bar0, 0x7100C, 256, 16, [⟨0, 16, .ro, .num, 0⟩]⟩
  -- R298 (09_update_commit.md)
  | .NUM_RATIO_LO => ⟨.bar0, 0x60000, 1, 0, [⟨0, 32, .rw, .cast, 0⟩]⟩
  | .NUM_RATIO_HI => ⟨.bar0, 0x60004, 1, 0, [⟨0, 32, .rw, .cast, 0x3c23d70a⟩]⟩
  | .NUM_STARVE_LIMIT => ⟨.bar0, 0x60008, 1, 0, [⟨0, 16, .rw, .cast, 64⟩]⟩
  | .NUM_WATCH_CTL => ⟨.bar0, 0x6000C, 1, 0, [⟨0, 1, .rw, .cast, 1⟩, ⟨1, 1, .rw, .cast, 1⟩, ⟨2, 1, .rw, .cast, 1⟩, ⟨3, 1, .rw, .cast, 1⟩]⟩
  | .NUM_RATIO_EVENTS => ⟨.bar0, 0x60010, 1, 0, [⟨0, 32, .rc, .num, 0⟩]⟩
  | .NUM_STARVE_EVENTS => ⟨.bar0, 0x60014, 1, 0, [⟨0, 32, .rc, .num, 0⟩]⟩
  | .NUM_GRAD_SAT => ⟨.bar0, 0x60018, 1, 0, [⟨0, 32, .rc, .num, 0⟩]⟩
  | .NUM_NONFINITE => ⟨.bar0, 0x6001C, 1, 0, [⟨0, 32, .rc, .num, 0⟩]⟩
  -- R331 (10_faults.md)
  | .FLT_STATUS => ⟨.bar0, 0x80000, 1, 0, [⟨0, 10, .ro, .hw, 0⟩, ⟨10, 1, .ro, .num, 0⟩, ⟨11, 1, .ro, .num, 0⟩]⟩
  | .FLT_ABFT_TOL => ⟨.bar0, 0x80004, 1, 0, [⟨0, 8, .rw, .cast, 4⟩]⟩
  | .FLT_ASSAY_PERIOD => ⟨.bar0, 0x80008, 1, 0, [⟨0, 8, .rw, .cast, 64⟩]⟩
  | .FLT_OBS => ⟨.bar0, 0x8000C, 1, 0, [⟨0, 11, .rw, .cast, 1024⟩, ⟨16, 4, .rw, .cast, 3⟩]⟩
  | .FLT_TRANSIENT_LIMIT => ⟨.bar0, 0x80010, 1, 0, [⟨0, 8, .rw, .cast, 4⟩]⟩
  | .FLT_CE_LIMIT => ⟨.bar0, 0x80014, 1, 0, [⟨0, 16, .rw, .cast, 16⟩]⟩
  | .FLT_DRAIN_LIMIT => ⟨.bar0, 0x80018, 1, 0, [⟨0, 10, .rw, .cast, 32⟩]⟩
  | .FLT_RETIRED => ⟨.bar0, 0x8001C, 1, 0, [⟨0, 10, .ro, .hw, 0⟩, ⟨16, 10, .ro, .hw, 0⟩]⟩
  | .FLT_REMAP_SEL => ⟨.bar0, 0x80020, 1, 0, [⟨0, 9, .rw, .num, 0⟩]⟩
  | .FLT_REMAP => ⟨.bar0, 0x80024, 1, 0, [⟨0, 3, .ro, .hw, 0⟩, ⟨3, 4, .ro, .hw, 0⟩, ⟨7, 3, .ro, .hw, 0⟩, ⟨10, 1, .ro, .hw, 0⟩, ⟨11, 1, .ro, .num, 0⟩]⟩
  | .FLT_UNIT_SEL => ⟨.bar0, 0x80028, 1, 0, [⟨0, 2, .rw, .num, 0⟩, ⟨8, 10, .rw, .num, 0⟩]⟩
  | .FLT_UNIT_CTL => ⟨.bar0, 0x8002C, 1, 0, [⟨0, 1, .w1s, .num, 0⟩, ⟨1, 1, .w1s, .num, 0⟩, ⟨4, 3, .ro, .hw, 0⟩, ⟨7, 1, .ro, .num, 0⟩, ⟨8, 1, .ro, .num, 0⟩, ⟨16, 8, .ro, .num, 0⟩, ⟨24, 4, .ro, .num, 0⟩]⟩
  | .FLT_TLOG_BASE_LO => ⟨.bar0, 0x80030, 1, 0, [⟨13, 19, .rw, .num, 0⟩]⟩
  | .FLT_TLOG_BASE_HI => ⟨.bar0, 0x80034, 1, 0, [⟨0, 32, .rw, .num, 0⟩]⟩
  | .FLT_TLOG_SLOTS => ⟨.bar0, 0x80038, 1, 0, [⟨0, 8, .rw, .num, 0⟩]⟩
  | .FLT_TLOG_NEXT => ⟨.bar0, 0x8003C, 1, 0, [⟨0, 8, .ro, .num, 0⟩]⟩
  | .FLT_DROSS_MADE => ⟨.bar0, 0x80040, 1, 0, [⟨0, 32, .rc, .num, 0⟩]⟩
  | .FLT_DROSS_PASSED => ⟨.bar0, 0x80044, 1, 0, [⟨0, 32, .rc, .num, 0⟩]⟩
  | .FLT_JOB_ABORTS => ⟨.bar0, 0x80048, 1, 0, [⟨0, 32, .rc, .num, 0⟩]⟩
  | .FLT_CE_STORE => ⟨.bar0, 0x8004C, 1, 0, [⟨0, 32, .rc, .num, 0⟩]⟩
  | .FLT_UE => ⟨.bar0, 0x80050, 1, 0, [⟨0, 32, .rc, .num, 0⟩]⟩
  | .FLT_TRANSIENTS => ⟨.bar0, 0x80054, 1, 0, [⟨0, 32, .rc, .num, 0⟩]⟩
  | .FLT_REPEAT_FAILS => ⟨.bar0, 0x80058, 1, 0, [⟨0, 32, .rc, .num, 0⟩]⟩
  | .FLT_ASSAY_PASS => ⟨.bar0, 0x8005C, 1, 0, [⟨0, 32, .rc, .num, 0⟩]⟩
  | .FLT_ASSAY_FAIL => ⟨.bar0, 0x80060, 1, 0, [⟨0, 32, .rc, .num, 0⟩]⟩
  | .FLT_TITHES => ⟨.bar0, 0x80064, 1, 0, [⟨0, 32, .rc, .num, 0⟩]⟩
  | .FLT_OFFLINE_BINDS => ⟨.bar0, 0x80068, 1, 0, [⟨0, 32, .rc, .num, 0⟩]⟩
  | .FLT_ASSAY_SET => ⟨.bar0, 0x8006C, 1, 0, [⟨0, 16, .ro, .hw, 0⟩, ⟨16, 6, .ro, .cast, 0⟩]⟩
  -- R354 (11_memory.md)
  | .MEM_STATUS => ⟨.bar0, 0xA0000, 1, 0, [⟨0, 6, .ro, .hw, 0⟩, ⟨6, 1, .ro, .hw, 0⟩, ⟨8, 6, .ro, .hw, 0⟩, ⟨14, 1, .ro, .num, 0⟩, ⟨15, 1, .ro, .num, 0⟩, ⟨16, 6, .ro, .num, 0⟩]⟩
  | .MEM_RATE => ⟨.bar0, 0xA0004, 1, 0, [⟨0, 6, .ro, .cast, 40⟩]⟩
  | .MEM_CAPACITY_LO => ⟨.bar0, 0xA0008, 1, 0, [⟨0, 32, .ro, .hw, 0⟩]⟩
  | .MEM_CAPACITY_HI => ⟨.bar0, 0xA000C, 1, 0, [⟨0, 8, .ro, .hw, 0⟩]⟩
  | .MEM_SCRUB_RATE => ⟨.bar0, 0xA0010, 1, 0, [⟨0, 8, .rw, .cast, 8⟩]⟩
  | .MEM_SCRUB_PASS => ⟨.bar0, 0xA0014, 1, 0, [⟨0, 32, .ro, .num, 0⟩]⟩
  | .MEM_SCRUB_POS => ⟨.bar0, 0xA0018, 1, 0, [⟨0, 25, .ro, .num, 0⟩]⟩
  | .MEM_RETRAIN_THR => ⟨.bar0, 0xA001C, 1, 0, [⟨0, 16, .rw, .cast, 64⟩, ⟨16, 16, .rw, .cast, 16⟩]⟩
  | .MEM_REPLAY_MAX => ⟨.bar0, 0xA0020, 1, 0, [⟨0, 3, .rw, .cast, 4⟩]⟩
  | .MEM_PAGE_CE_LIMIT => ⟨.bar0, 0xA0024, 1, 0, [⟨0, 8, .rw, .cast, 8⟩]⟩
  | .MEM_CH_SEL => ⟨.bar0, 0xA0028, 1, 0, [⟨0, 6, .rw, .num, 0⟩]⟩
  | .MEM_CH_STATE => ⟨.bar0, 0xA002C, 1, 0, [⟨0, 3, .ro, .hw, 0⟩, ⟨3, 1, .ro, .num, 0⟩, ⟨8, 9, .ro, .num, 0⟩]⟩
  | .MEM_CH_CE => ⟨.bar0, 0xA0030, 1, 0, [⟨0, 32, .rc, .num, 0⟩]⟩
  | .MEM_CH_UE => ⟨.bar0, 0xA0034, 1, 0, [⟨0, 32, .rc, .num, 0⟩]⟩
  | .MEM_CH_REPLAY => ⟨.bar0, 0xA0038, 1, 0, [⟨0, 32, .rc, .num, 0⟩]⟩
  | .MEM_CH_RETRAINS => ⟨.bar0, 0xA003C, 1, 0, [⟨0, 32, .rc, .num, 0⟩]⟩
  | .MEM_CH_DEV_CE => ⟨.bar0, 0xA0040, 9, 4, [⟨0, 32, .rc, .num, 0⟩]⟩
  | .MEM_PAGE_PROP_SEL => ⟨.bar0, 0xA0080, 1, 0, [⟨0, 4, .rw, .num, 0⟩]⟩
  | .MEM_PAGE_PROP => ⟨.bar0, 0xA0084, 1, 0, [⟨0, 6, .ro, .num, 0⟩, ⟨6, 1, .ro, .num, 0⟩, ⟨8, 22, .ro, .num, 0⟩, ⟨30, 2, .ro, .num, 0⟩]⟩
  | .MEM_PAGE_ACK => ⟨.bar0, 0xA0088, 1, 0, [⟨0, 4, .wo, .num, 0⟩, ⟨4, 1, .wo, .num, 0⟩, ⟨5, 1, .wo, .num, 0⟩]⟩
  | .MEM_PROP_DROP => ⟨.bar0, 0xA008C, 1, 0, [⟨0, 32, .rc, .num, 0⟩]⟩
  | .MEM_OFF_SEL => ⟨.bar0, 0xA0090, 1, 0, [⟨0, 14, .rw, .num, 0⟩]⟩
  | .MEM_OFF_ENTRY => ⟨.bar0, 0xA0094, 1, 0, [⟨0, 6, .ro, .num, 0⟩, ⟨8, 22, .ro, .num, 0⟩, ⟨30, 1, .ro, .num, 0⟩]⟩
  | .MEM_OFF_COUNT => ⟨.bar0, 0xA0098, 1, 0, [⟨0, 14, .ro, .num, 0⟩]⟩
  | .MEM_OFF_ACCESS => ⟨.bar0, 0xA009C, 1, 0, [⟨0, 32, .rc, .num, 0⟩]⟩
  | .MEM_WINDOW_ACCESS => ⟨.bar0, 0xA00A0, 1, 0, [⟨0, 32, .rc, .num, 0⟩]⟩
  -- R387 (12_links.md)
  | .LNK_STATUS => ⟨.bar0, 0xB0000, 1, 0, [⟨0, 7, .ro, .num, 0⟩, ⟨8, 7, .ro, .num, 0⟩]⟩
  | .LNK_MODULE => ⟨.bar0, 0xB0004, 1, 0, [⟨0, 12, .ro, .cast, 0⟩]⟩
  | .LNK_SEL => ⟨.bar0, 0xB0008, 1, 0, [⟨0, 6, .rw, .num, 0⟩]⟩
  | .LNK_LSTATE => ⟨.bar0, 0xB000C, 1, 0, [⟨0, 2, .ro, .num, 0⟩, ⟨2, 2, .ro, .num, 0⟩, ⟨4, 1, .ro, .num, 0⟩, ⟨8, 12, .ro, .num, 0⟩]⟩
  | .LNK_DELAY => ⟨.bar0, 0xB0010, 1, 0, [⟨0, 16, .ro, .hw, 0⟩]⟩
  | .LNK_REPLAYS => ⟨.bar0, 0xB0014, 1, 0, [⟨0, 32, .rc, .num, 0⟩]⟩
  | .LNK_DROSS_FORM => ⟨.bar0, 0xB0018, 1, 0, [⟨0, 32, .rc, .num, 0⟩]⟩
  | .LNK_FEC_CORR => ⟨.bar0, 0xB001C, 1, 0, [⟨0, 32, .rc, .num, 0⟩]⟩
  | .LNK_FEC_UNCORR => ⟨.bar0, 0xB0020, 1, 0, [⟨0, 32, .rc, .num, 0⟩]⟩
  | .LNK_TX_FLITS => ⟨.bar0, 0xB0024, 1, 0, [⟨0, 32, .rc, .num, 0⟩]⟩
  | .LNK_RX_FLITS => ⟨.bar0, 0xB0028, 1, 0, [⟨0, 32, .rc, .num, 0⟩]⟩
  | .LNK_ELIDED => ⟨.bar0, 0xB002C, 1, 0, [⟨0, 32, .rc, .num, 0⟩]⟩
  | .LNK_SCHED_HOLD => ⟨.bar0, 0xB0030, 1, 0, [⟨0, 32, .rc, .num, 0⟩]⟩
  | .LNK_NREADY_DROP => ⟨.bar0, 0xB0034, 1, 0, [⟨0, 32, .rc, .num, 0⟩]⟩
  | .LNK_RETRAINS => ⟨.bar0, 0xB0038, 1, 0, [⟨0, 32, .rc, .num, 0⟩]⟩
  | .LNK_REROUTED => ⟨.bar0, 0xB003C, 1, 0, [⟨0, 32, .rc, .num, 0⟩]⟩
  | .LNK_RETRAIN_THR => ⟨.bar0, 0xB0040, 1, 0, [⟨0, 16, .rw, .cast, 256⟩]⟩
  | .LNK_RETRY => ⟨.bar0, 0xB0044, 1, 0, [⟨0, 16, .rw, .cast, 1000⟩]⟩
  | .LNK_COLL_LIMIT => ⟨.bar0, 0xB0048, 1, 0, [⟨0, 8, .rw, .cast, 64⟩, ⟨8, 8, .rw, .cast, 16⟩]⟩
  | .LNK_CTL => ⟨.bar0, 0xB004C, 1, 0, [⟨0, 1, .rw, .cast, 1⟩, ⟨1, 1, .rw, .cast, 1⟩]⟩
  | .LNK_GROUP_BASE_LO => ⟨.bar0, 0xB0050, 1, 0, [⟨20, 12, .rw, .num, 0⟩]⟩
  | .LNK_GROUP_BASE_HI => ⟨.bar0, 0xB0054, 1, 0, [⟨0, 8, .rw, .num, 0⟩]⟩
  | .LNK_GROUP_COUNT => ⟨.bar0, 0xB0058, 1, 0, [⟨0, 13, .rw, .num, 0⟩]⟩
  | .LNK_RT_SEL => ⟨.bar0, 0xB0060, 1, 0, [⟨0, 12, .rw, .num, 0⟩]⟩
  | .LNK_RT_MASK_LO => ⟨.bar0, 0xB0064, 1, 0, [⟨0, 32, .rw, .cast, 0⟩]⟩
  | .LNK_RT_MASK_HI => ⟨.bar0, 0xB0068, 1, 0, [⟨0, 32, .rw, .cast, 0⟩]⟩
  | .LNK_RT_ALT_LO => ⟨.bar0, 0xB006C, 1, 0, [⟨0, 32, .rw, .cast, 0⟩]⟩
  | .LNK_RT_ALT_HI => ⟨.bar0, 0xB0070, 1, 0, [⟨0, 32, .rw, .cast, 0⟩]⟩
  | .LNK_UNREACH => ⟨.bar0, 0xB0074, 1, 0, [⟨0, 32, .rc, .num, 0⟩]⟩
  | .LNK_REFUSED => ⟨.bar0, 0xB0078, 1, 0, [⟨0, 32, .rc, .num, 0⟩]⟩
  -- R403 (13_twin.md)
  | .TWIN_STATUS => ⟨.bar0, 0xC0000, 1, 0, [⟨0, 3, .ro, .hw, 0⟩, ⟨3, 1, .ro, .num, 0⟩, ⟨4, 2, .ro, .hw, 0⟩, ⟨8, 12, .ro, .hw, 0⟩, ⟨20, 4, .ro, .num, 0⟩]⟩
  | .TWIN_CTL => ⟨.bar0, 0xC0004, 1, 0, [⟨0, 1, .w1s, .num, 0⟩, ⟨1, 1, .w1s, .num, 0⟩, ⟨2, 1, .w1s, .num, 0⟩]⟩
  | .TWIN_LINKS_LO => ⟨.bar0, 0xC0008, 1, 0, [⟨0, 32, .rw, .cast, 0xf0000000⟩]⟩
  | .TWIN_LINKS_HI => ⟨.bar0, 0xC000C, 1, 0, [⟨0, 32, .rw, .cast, 0xf0000000⟩]⟩
  | .TWIN_MAN_BASE_LO => ⟨.bar0, 0xC0010, 1, 0, [⟨12, 20, .rw, .num, 0⟩]⟩
  | .TWIN_MAN_BASE_HI => ⟨.bar0, 0xC0014, 1, 0, [⟨0, 8, .rw, .num, 0⟩]⟩
  | .TWIN_MAN_COUNT => ⟨.bar0, 0xC0018, 1, 0, [⟨0, 9, .rw, .num, 0⟩]⟩
  | .TWIN_JOIN_JOB => ⟨.bar0, 0xC001C, 1, 0, [⟨0, 12, .rw, .num, 0⟩]⟩
  | .TWIN_JOIN_STEP_LO => ⟨.bar0, 0xC0020, 1, 0, [⟨0, 32, .rw, .num, 0⟩]⟩
  | .TWIN_JOIN_STEP_HI => ⟨.bar0, 0xC0024, 1, 0, [⟨0, 32, .rw, .num, 0⟩]⟩
  | .TWIN_SEED_POS_LO => ⟨.bar0, 0xC0028, 1, 0, [⟨0, 32, .ro, .num, 0⟩]⟩
  | .TWIN_SEED_POS_HI => ⟨.bar0, 0xC002C, 1, 0, [⟨0, 8, .ro, .num, 0⟩]⟩
  | .TWIN_LOSS => ⟨.bar0, 0xC0030, 1, 0, [⟨0, 8, .rw, .cast, 4⟩]⟩
  | .TWIN_DIVERGED => ⟨.bar0, 0xC0034, 1, 0, [⟨0, 32, .rc, .num, 0⟩]⟩
  | .TWIN_UNCHECKED => ⟨.bar0, 0xC0038, 1, 0, [⟨0, 32, .rc, .num, 0⟩]⟩
  | .TWIN_MIRRORED => ⟨.bar0, 0xC003C, 1, 0, [⟨0, 32, .rc, .num, 0⟩]⟩
  -- R428 (14_host_interface.md)
  | .ID_VENDOR => ⟨.bar0, 0x0, 1, 0, [⟨0, 16, .ro, .num, 7672⟩, ⟨16, 16, .ro, .num, 800⟩]⟩
  | .ID_REVISION => ⟨.bar0, 0x4, 1, 0, [⟨0, 8, .ro, .fuse, 0⟩, ⟨8, 8, .ro, .fuse, 0⟩]⟩
  | .ID_SERIAL_LO => ⟨.bar0, 0x8, 1, 0, [⟨0, 32, .ro, .hw, 0⟩]⟩
  | .ID_SERIAL_HI => ⟨.bar0, 0xC, 1, 0, [⟨0, 32, .ro, .hw, 0⟩]⟩
  | .ID_FUSE => ⟨.bar0, 0x10, 1, 0, [⟨0, 10, .ro, .fuse, 0⟩, ⟨10, 10, .ro, .fuse, 0⟩, ⟨20, 4, .ro, .fuse, 0⟩, ⟨24, 4, .ro, .fuse, 0⟩]⟩
  | .ID_SERVICE => ⟨.bar0, 0x14, 1, 0, [⟨0, 2, .ro, .hw, 0⟩]⟩
  -- R429 (14_host_interface.md)
  | .HIF_LINK => ⟨.bar0, 0x10000, 1, 0, [⟨0, 3, .ro, .hw, 0⟩, ⟨3, 5, .ro, .hw, 0⟩, ⟨8, 1, .ro, .hw, 0⟩]⟩
  | .HIF_BAR4_SIZE => ⟨.bar0, 0x10004, 1, 0, [⟨0, 6, .ro, .num, 34⟩]⟩
  | .HIF_BAR4_BASE_LO => ⟨.bar0, 0x10008, 1, 0, [⟨30, 2, .rw, .num, 0⟩]⟩
  | .HIF_BAR4_BASE_HI => ⟨.bar0, 0x1000C, 1, 0, [⟨0, 8, .rw, .num, 0⟩]⟩
  | .HIF_EVT_BASE_LO => ⟨.bar0, 0x10010, 1, 0, [⟨12, 20, .rw, .num, 0⟩]⟩
  | .HIF_EVT_BASE_HI => ⟨.bar0, 0x10014, 1, 0, [⟨0, 32, .rw, .num, 0⟩]⟩
  | .HIF_EVT_CTL => ⟨.bar0, 0x10018, 1, 0, [⟨0, 1, .rw, .num, 0⟩, ⟨4, 5, .rw, .num, 6⟩]⟩
  | .HIF_EVT_PROD => ⟨.bar0, 0x1001C, 1, 0, [⟨0, 32, .ro, .num, 0⟩]⟩
  | .HIF_EVT_CONS => ⟨.bar0, 0x10020, 1, 0, [⟨0, 32, .rw, .num, 0⟩]⟩
  | .HIF_EVT_MOD => ⟨.bar0, 0x10024, 1, 0, [⟨0, 8, .rw, .num, 1⟩, ⟨8, 16, .rw, .num, 0⟩]⟩
  | .HIF_EVT_HELD => ⟨.bar0, 0x10028, 1, 0, [⟨0, 9, .ro, .num, 0⟩]⟩
  | .HIF_EVT_LOST => ⟨.bar0, 0x1002C, 1, 0, [⟨0, 32, .rc, .num, 0⟩]⟩
  | .HIF_UNMAPPED => ⟨.bar0, 0x10030, 1, 0, [⟨0, 32, .rc, .num, 0⟩]⟩
  | .HIF_POISON_RX => ⟨.bar0, 0x10034, 1, 0, [⟨0, 32, .rc, .num, 0⟩]⟩
  | .HIF_POISON_TX => ⟨.bar0, 0x10038, 1, 0, [⟨0, 32, .rc, .num, 0⟩]⟩
  | .HIF_BAD_ACCESS => ⟨.bar0, 0x1003C, 1, 0, [⟨0, 32, .rc, .num, 0⟩]⟩
  | .HIF_EVT_VEC => ⟨.bar0, 0x10040, 12, 4, [⟨0, 11, .rw, .num, 0⟩]⟩
  | .HIF_MODULE_RESET => ⟨.bar0, 0x10080, 1, 0, [⟨0, 1, .wo, .num, 0⟩, ⟨16, 16, .wo, .num, 0⟩]⟩
  | .HIF_COPY_SEL => ⟨.bar0, 0x10100, 1, 0, [⟨0, 2, .rw, .num, 0⟩]⟩
  | .HIF_COPY_BASE_LO => ⟨.bar0, 0x10104, 1, 0, [⟨12, 20, .rw, .num, 0⟩]⟩
  | .HIF_COPY_BASE_HI => ⟨.bar0, 0x10108, 1, 0, [⟨0, 32, .rw, .num, 0⟩]⟩
  | .HIF_COPY_CFG => ⟨.bar0, 0x1010C, 1, 0, [⟨0, 4, .rw, .num, 4⟩, ⟨16, 11, .rw, .num, 0⟩]⟩
  | .HIF_COPY_CTL => ⟨.bar0, 0x10110, 1, 0, [⟨0, 1, .rw, .num, 0⟩, ⟨1, 1, .ro, .num, 0⟩, ⟨2, 1, .w1s, .num, 0⟩, ⟨4, 4, .ro, .num, 0⟩]⟩
  | .HIF_COPY_TAIL => ⟨.bar0, 0x10114, 1, 0, [⟨0, 32, .rw, .num, 0⟩]⟩
  | .HIF_COPY_HEAD => ⟨.bar0, 0x10118, 1, 0, [⟨0, 32, .ro, .num, 0⟩]⟩
  -- R455 (15_pattern_security.md)
  | .PAT_STATUS => ⟨.bar0, 0x20000, 1, 0, [⟨0, 1, .ro, .hw, 0⟩, ⟨1, 1, .ro, .hw, 0⟩, ⟨2, 1, .ro, .hw, 0⟩, ⟨3, 1, .ro, .num, 0⟩, ⟨4, 1, .ro, .num, 0⟩, ⟨5, 2, .ro, .hw, 0⟩]⟩
  | .PAT_IMAGE_SVN => ⟨.bar0, 0x20004, 1, 0, [⟨0, 32, .ro, .hw, 0⟩]⟩
  | .PAT_IMAGE_GEN => ⟨.bar0, 0x20008, 1, 0, [⟨0, 32, .ro, .hw, 0⟩]⟩
  | .PAT_IMAGE_DIGEST => ⟨.bar0, 0x20010, 16, 4, [⟨0, 32, .ro, .hw, 0⟩]⟩
  | .PAT_STAGE_BASE_LO => ⟨.bar0, 0x20050, 1, 0, [⟨16, 16, .rw, .num, 0⟩]⟩
  | .PAT_STAGE_BASE_HI => ⟨.bar0, 0x20054, 1, 0, [⟨0, 8, .rw, .num, 0⟩]⟩
  | .PAT_FLASH => ⟨.bar0, 0x20058, 1, 0, [⟨0, 3, .rw, .num, 0⟩, ⟨3, 1, .rw, .num, 0⟩, ⟨31, 1, .w1s, .num, 0⟩]⟩
  | .PAT_RECAST => ⟨.bar0, 0x2005C, 1, 0, [⟨0, 4, .rw, .num, 0⟩, ⟨4, 2, .rw, .num, 0⟩, ⟨31, 1, .w1s, .num, 0⟩]⟩
  | .PAT_RESULT => ⟨.bar0, 0x20060, 1, 0, [⟨0, 4, .ro, .num, 0⟩, ⟨4, 4, .ro, .num, 0⟩, ⟨8, 24, .ro, .num, 0⟩]⟩
  | .PAT_FLASH_ADDR => ⟨.bar0, 0x20064, 1, 0, [⟨0, 27, .rw, .num, 0⟩]⟩
  | .PAT_FLASH_LEN => ⟨.bar0, 0x20068, 1, 0, [⟨0, 25, .rw, .num, 0⟩]⟩
  | .PAT_PROGRESS => ⟨.bar0, 0x2006C, 1, 0, [⟨0, 25, .ro, .num, 0⟩]⟩
  | .PAT_LOG_MASK => ⟨.bar0, 0x20070, 1, 0, [⟨0, 16, .rw, .cast, 1776⟩]⟩
  | .PAT_LOG_SEQ => ⟨.bar0, 0x20074, 1, 0, [⟨0, 32, .ro, .hw, 0⟩]⟩
  | .PAT_LOG_LOST => ⟨.bar0, 0x20078, 1, 0, [⟨0, 32, .rc, .num, 0⟩]⟩
  | .PAT_STAGE_DROP => ⟨.bar0, 0x2007C, 1, 0, [⟨0, 32, .rc, .num, 0⟩]⟩
  -- R456 (15_pattern_security.md)
  | .SEC_STATUS => ⟨.bar0, 0x30000, 1, 0, [⟨0, 4, .ro, .fuse, 0⟩, ⟨4, 4, .ro, .fuse, 0⟩, ⟨8, 7, .ro, .fuse, 0⟩]⟩
  | .SEC_DEVICE_ID => ⟨.bar0, 0x30004, 8, 4, [⟨0, 32, .ro, .hw, 0⟩]⟩
  | .SEC_OP => ⟨.bar0, 0x30024, 1, 0, [⟨0, 3, .rw, .num, 0⟩, ⟨4, 2, .rw, .num, 0⟩, ⟨31, 1, .w1s, .num, 0⟩]⟩
  | .SEC_RESULT => ⟨.bar0, 0x30028, 1, 0, [⟨0, 4, .ro, .num, 0⟩, ⟨16, 1, .ro, .num, 0⟩]⟩
  | .SEC_SLOT_SEL => ⟨.bar0, 0x3002C, 1, 0, [⟨0, 2, .rw, .num, 0⟩]⟩
  | .SEC_SLOT_DIGEST => ⟨.bar0, 0x30030, 8, 4, [⟨0, 32, .ro, .fuse, 0⟩]⟩
  | .SEC_ATTESTS => ⟨.bar0, 0x30050, 1, 0, [⟨0, 32, .rc, .num, 0⟩]⟩
  -- R477 (16_startup.md)
  | .ID_BOOT => ⟨.bar0, 0x18, 1, 0, [⟨0, 1, .ro, .num, 0⟩, ⟨1, 1, .ro, .num, 0⟩, ⟨2, 1, .ro, .num, 0⟩, ⟨3, 1, .ro, .num, 0⟩, ⟨4, 1, .ro, .num, 0⟩, ⟨5, 1, .ro, .num, 0⟩, ⟨8, 4, .ro, .num, 0⟩, ⟨12, 3, .ro, .num, 0⟩, ⟨16, 4, .ro, .num, 0⟩]⟩
  | .ID_BOOT_MS => ⟨.bar0, 0x1C, 1, 0, [⟨0, 16, .ro, .num, 0⟩, ⟨16, 16, .ro, .num, 0⟩]⟩
  | .ID_RESET_CAUSE => ⟨.bar0, 0x20, 1, 0, [⟨0, 2, .ro, .hw, 0⟩]⟩
  -- R497 (17_module_hardware.md)
  | .SB_IDENT => ⟨.sideband, 0x0, 1, 0, [⟨0, 16, .ro, .num, 7672⟩, ⟨16, 16, .ro, .num, 800⟩]⟩
  | .SB_SERIAL_LO => ⟨.sideband, 0x1, 1, 0, [⟨0, 32, .ro, .hw, 0⟩]⟩
  | .SB_SERIAL_HI => ⟨.sideband, 0x2, 1, 0, [⟨0, 32, .ro, .hw, 0⟩]⟩
  | .SB_STATE => ⟨.sideband, 0x3, 1, 0, [⟨0, 2, .ro, .num, 0⟩, ⟨2, 1, .ro, .num, 0⟩, ⟨3, 1, .ro, .kept, 0⟩, ⟨8, 4, .ro, .kept, 0⟩]⟩
  | .SB_TEMP_DIE => ⟨.sideband, 0x4, 1, 0, [⟨0, 16, .ro, .num, 0⟩, ⟨16, 4, .ro, .num, 0⟩]⟩
  | .SB_TEMP_MEM => ⟨.sideband, 0x5, 1, 0, [⟨0, 16, .ro, .num, 0⟩, ⟨16, 4, .ro, .num, 0⟩]⟩
  | .SB_TEMP_COOLANT => ⟨.sideband, 0x6, 1, 0, [⟨0, 16, .ro, .num, 0⟩, ⟨16, 16, .ro, .num, 0⟩]⟩
  | .SB_VIN => ⟨.sideband, 0x7, 1, 0, [⟨0, 16, .ro, .num, 0⟩, ⟨16, 16, .ro, .num, 0⟩]⟩
  | .SB_PIN => ⟨.sideband, 0x8, 1, 0, [⟨0, 16, .ro, .num, 0⟩, ⟨16, 16, .ro, .num, 0⟩]⟩
  | .SB_RAIL_SEL => ⟨.sideband, 0x9, 1, 0, [⟨0, 4, .rw, .num, 0⟩]⟩
  | .SB_RAIL => ⟨.sideband, 0xA, 1, 0, [⟨0, 16, .ro, .num, 0⟩, ⟨16, 16, .ro, .num, 0⟩]⟩
  | .SB_CAP => ⟨.sideband, 0xB, 1, 0, [⟨0, 13, .rw, .cast, 0⟩]⟩
  | .SB_ALERT_STATUS => ⟨.sideband, 0xC, 1, 0, [⟨0, 1, .w1c, .kept, 0⟩, ⟨1, 1, .w1c, .kept, 0⟩, ⟨2, 1, .w1c, .kept, 0⟩, ⟨3, 1, .w1c, .kept, 0⟩, ⟨4, 1, .w1c, .kept, 0⟩, ⟨5, 1, .w1c, .kept, 0⟩, ⟨6, 1, .w1c, .kept, 0⟩]⟩
  | .SB_ALERT_MASK => ⟨.sideband, 0xD, 1, 0, [⟨0, 7, .rw, .kept, 0⟩]⟩
  | .SB_CONTROL => ⟨.sideband, 0xE, 1, 0, [⟨0, 1, .wo, .num, 0⟩, ⟨1, 1, .wo, .num, 0⟩, ⟨16, 16, .wo, .num, 0⟩]⟩
  | .SB_STOPS => ⟨.sideband, 0xF, 1, 0, [⟨0, 16, .ro, .kept, 0⟩, ⟨16, 16, .ro, .kept, 0⟩]⟩
  -- R499 (17_module_hardware.md)
  | .PWR_CAP => ⟨.bar0, 0x90000, 1, 0, [⟨0, 13, .rw, .cast, 4200⟩]⟩
  | .PWR_STATUS => ⟨.bar0, 0x90004, 1, 0, [⟨0, 9, .ro, .num, 256⟩, ⟨9, 1, .ro, .num, 0⟩, ⟨10, 1, .ro, .num, 0⟩, ⟨11, 1, .ro, .num, 0⟩]⟩
  | .PWR_INPUT => ⟨.bar0, 0x90008, 1, 0, [⟨0, 13, .ro, .num, 0⟩, ⟨16, 16, .ro, .num, 0⟩]⟩
  | .PWR_CURRENT => ⟨.bar0, 0x9000C, 1, 0, [⟨0, 16, .ro, .num, 0⟩]⟩
  | .PWR_TCAP => ⟨.bar0, 0x90010, 1, 0, [⟨0, 13, .ro, .num, 4200⟩]⟩
  | .PWR_DUTY_MIN => ⟨.bar0, 0x90014, 1, 0, [⟨0, 9, .rw, .cast, 32⟩]⟩
  | .PWR_TEMP_MAX => ⟨.bar0, 0x90018, 1, 0, [⟨0, 16, .ro, .num, 0⟩, ⟨16, 4, .ro, .num, 0⟩]⟩
  | .PWR_GATED_MS => ⟨.bar0, 0x9001C, 1, 0, [⟨0, 32, .rc, .num, 0⟩]⟩
  | .PWR_THROTTLE_MS => ⟨.bar0, 0x90020, 1, 0, [⟨0, 32, .rc, .num, 0⟩]⟩
  | .PWR_ENERGY_LO => ⟨.bar0, 0x90024, 1, 0, [⟨0, 32, .ro, .num, 0⟩]⟩
  | .PWR_ENERGY_HI => ⟨.bar0, 0x90028, 1, 0, [⟨0, 32, .ro, .num, 0⟩]⟩
  -- R512 (18_test_debug.md)
  | .TILE_RTR_OPEN_FLITS => ⟨.tile, 0x4000, 1, 0, [⟨0, 32, .rc, .num, 0⟩]⟩
  | .TILE_RTR_OPEN_WAIT => ⟨.tile, 0x4004, 1, 0, [⟨0, 32, .rc, .num, 0⟩]⟩
  | .TILE_RTR_SCHED_FLITS => ⟨.tile, 0x4008, 1, 0, [⟨0, 32, .rc, .num, 0⟩]⟩
  -- R513 (18_test_debug.md)
  | .TST_PERMIT => ⟨.bar0, 0xE0000, 1, 0, [⟨0, 1, .ro, .cast, 1⟩]⟩
  | .TST_ARM => ⟨.bar0, 0xE0004, 1, 0, [⟨0, 1, .w1s, .num, 0⟩, ⟨1, 1, .w1s, .num, 0⟩, ⟨2, 1, .ro, .num, 0⟩, ⟨3, 1, .ro, .num, 0⟩, ⟨16, 16, .wo, .num, 0⟩]⟩
  | .TST_PERT_SEL => ⟨.bar0, 0xE0010, 1, 0, [⟨0, 3, .rw, .num, 0⟩]⟩
  | .TST_PERT_CTL => ⟨.bar0, 0xE0014, 1, 0, [⟨0, 1, .rw, .num, 0⟩, ⟨1, 3, .rw, .num, 0⟩, ⟨4, 10, .rw, .num, 0⟩, ⟨14, 1, .rw, .num, 0⟩, ⟨16, 8, .rw, .num, 0⟩]⟩
  | .TST_PERT_AMT => ⟨.bar0, 0xE0018, 1, 0, [⟨0, 16, .rw, .num, 0⟩]⟩
  | .TST_PERT_SEED_LO => ⟨.bar0, 0xE001C, 1, 0, [⟨0, 32, .rw, .num, 0⟩]⟩
  | .TST_PERT_SEED_HI => ⟨.bar0, 0xE0020, 1, 0, [⟨0, 32, .rw, .num, 0⟩]⟩
  | .TST_PERT_HITS => ⟨.bar0, 0xE0024, 1, 0, [⟨0, 32, .rc, .num, 0⟩]⟩
  | .TST_INJ_CTL => ⟨.bar0, 0xE0040, 1, 0, [⟨0, 3, .rw, .num, 0⟩, ⟨3, 1, .w1s, .num, 0⟩, ⟨4, 3, .ro, .num, 0⟩, ⟨8, 10, .rw, .num, 0⟩, ⟨18, 1, .rw, .num, 0⟩, ⟨20, 4, .rw, .num, 0⟩, ⟨24, 3, .rw, .num, 0⟩]⟩
  | .TST_INJ_ADDR_LO => ⟨.bar0, 0xE0044, 1, 0, [⟨3, 29, .rw, .num, 0⟩]⟩
  | .TST_INJ_ADDR_HI => ⟨.bar0, 0xE0048, 1, 0, [⟨0, 8, .rw, .num, 0⟩]⟩
  | .TST_INJ_MASK_LO => ⟨.bar0, 0xE004C, 1, 0, [⟨0, 32, .rw, .num, 0⟩]⟩
  | .TST_INJ_MASK_HI => ⟨.bar0, 0xE0050, 1, 0, [⟨0, 32, .rw, .num, 0⟩]⟩
  | .TST_INJ_CHECK => ⟨.bar0, 0xE0054, 1, 0, [⟨0, 8, .rw, .num, 0⟩]⟩
  | .TST_INJ_DONE => ⟨.bar0, 0xE0058, 1, 0, [⟨0, 32, .rc, .num, 0⟩]⟩
  -- R514 (18_test_debug.md)
  | .DBG_TRACE_BASE_LO => ⟨.bar0, 0xD0010, 1, 0, [⟨12, 20, .rw, .num, 0⟩]⟩
  | .DBG_TRACE_BASE_HI => ⟨.bar0, 0xD0014, 1, 0, [⟨0, 8, .rw, .num, 0⟩]⟩
  | .DBG_TRACE_CTL => ⟨.bar0, 0xD0018, 1, 0, [⟨0, 1, .rw, .num, 0⟩, ⟨1, 1, .rw, .num, 0⟩, ⟨2, 1, .rw, .num, 0⟩, ⟨3, 1, .rw, .num, 0⟩, ⟨4, 1, .rw, .num, 0⟩, ⟨5, 1, .rw, .num, 0⟩, ⟨6, 1, .rw, .num, 0⟩, ⟨7, 1, .rw, .num, 0⟩, ⟨8, 5, .rw, .num, 10⟩, ⟨13, 1, .ro, .num, 0⟩, ⟨14, 1, .ro, .num, 0⟩, ⟨16, 16, .rw, .num, 0⟩]⟩
  | .DBG_TRACE_COUNT => ⟨.bar0, 0xD001C, 1, 0, [⟨0, 32, .ro, .num, 0⟩]⟩
  | .DBG_TRACE_LOST => ⟨.bar0, 0xD0020, 1, 0, [⟨0, 32, .rc, .num, 0⟩]⟩
  | .DBG_PC_CTL => ⟨.bar0, 0xD0040, 1, 0, [⟨0, 1, .rw, .num, 0⟩, ⟨1, 1, .w1s, .num, 0⟩]⟩
  | .DBG_PC_SEL => ⟨.bar0, 0xD0044, 1, 0, [⟨0, 3, .rw, .num, 0⟩]⟩
  | .DBG_PC_CFG => ⟨.bar0, 0xD0048, 1, 0, [⟨0, 6, .rw, .num, 0⟩, ⟨6, 1, .rw, .num, 0⟩, ⟨7, 9, .rw, .num, 0⟩, ⟨16, 1, .rw, .num, 0⟩]⟩
  | .DBG_PC_STREAM => ⟨.bar0, 0xD004C, 1, 0, [⟨0, 16, .rw, .num, 0⟩]⟩
  | .DBG_PC_VAL_LO => ⟨.bar0, 0xD0050, 1, 0, [⟨0, 32, .ro, .num, 0⟩]⟩
  | .DBG_PC_VAL_HI => ⟨.bar0, 0xD0054, 1, 0, [⟨0, 32, .ro, .num, 0⟩]⟩
  -- R332 (10_faults.md)
  | .ID_TILE_MAP_SEL => ⟨.bar0, 0x40, 1, 0, [⟨0, 9, .rw, .num, 0⟩]⟩
  | .ID_TILE_MAP => ⟨.bar0, 0x44, 1, 0, [⟨0, 3, .ro, .fuse, 0⟩, ⟨3, 4, .ro, .fuse, 0⟩, ⟨7, 3, .ro, .fuse, 0⟩, ⟨10, 1, .ro, .fuse, 0⟩]⟩


/-- Part 0 of the list of all registers. -/
def Reg.part0 : List Reg :=
  [.BEAT_LEN, .BEAT_STATUS, .BEAT_COUNT_LO, .BEAT_COUNT_HI,
   .BEAT_ENTRY, .BEAT_CUR_LEN, .BEAT_CUR_BASE_LO, .BEAT_CUR_BASE_HI,
   .BEAT_NEXT_BASE_LO, .BEAT_NEXT_BASE_HI, .BEAT_NEXT_LEN, .BEAT_PLAN_NEXT,
   .BEAT_NEXT_AT_LO, .BEAT_NEXT_AT_HI, .BEAT_FRAME_BASE_LO, .BEAT_FRAME_BASE_HI,
   .BEAT_FRAME_COUNT, .BEAT_TRIM, .BEAT_GROUP, .BEAT_UPLINK,
   .BEAT_HOLDOVER, .BEAT_CARRY_EVT, .BEAT_OVR_SEL, .BEAT_OVERRUN,
   .BEAT_BUBBLE, .BEAT_DEMOTED, .BEAT_HELD, .BEAT_STATE_LATE,
   .NUM_ARITH_SEL, .NUM_OVERFLOW, .NUM_UNDERFLOW, .NUM_NAN_SCALE,
   .NUM_SATURATED, .NUM_INT_SAT, .LOOM_STATUS, .LOOM_FUSE_A,
   .LOOM_FUSE_B, .LOOM_SKEW_SEL, .LOOM_SKEW, .LOOM_CHK_PASS,
   .LOOM_CHK_MISMATCH, .LOOM_CHK_SKIPPED, .LOOM_CHK_WORST, .LOOM_BLOCKS_A,
   .LOOM_BLOCKS_B, .LOOM_HEDDLE_STALL, .LOOM_FEED_STALL, .SHTL_STATUS,
   .SHTL_PATH_THR, .SHTL_SPLIT_THR, .SHTL_IDX_BAD, .SHTL_DEDUP,
   .SHTL_GATHERED, .SHTL_SCATTERED, .SHTL_MERGE_EVICT, .SHTL_FETCH_STALL,
   .SHTL_PANEL_ERR, .SHTL_ROUTE_OVF, .SHTL_SKETCH_SEL, .SHTL_LANE_BUSY,
   .NUM_PATH_SEL, .NUM_PATH_DENSE, .NUM_PATH_COND, .NUM_PATH_MERGE]

/-- Part 1 of the list of all registers. -/
def Reg.part1 : List Reg :=
  [.NUM_PATH_HYBRID, .NUM_PATH_SPLIT, .FIN_STATUS, .FIN_ELEMENTS,
   .FIN_ROWS, .FIN_SMAX_EMPTY, .FIN_NAN_ROWS, .FIN_STORE_STALL,
   .FIN_STASH_ATOMS, .FIN_BUSY_CYCLES, .STRM_TDESC_BASE_LO, .STRM_TDESC_BASE_HI,
   .STRM_TDESC_CAP, .STRM_TDESC_LIVE, .STRM_REGION_LIVE, .STRM_TABLE_DROP,
   .STRM_DESC_DATA, .STRM_DESC_OP, .STRM_DESC_RESULT, .STRM_DESC_MIN_LO,
   .STRM_DESC_MIN_HI, .STRM_DESC_MAX_LO, .STRM_DESC_MAX_HI, .STRM_SEL,
   .STRM_CTL, .STRM_JOB, .STRM_FRAME, .STRM_RING_BASE_LO,
   .STRM_RING_BASE_HI, .STRM_SHADOW_ADDR_LO, .STRM_SHADOW_ADDR_HI, .STRM_SEQ,
   .STRM_TAIL, .STRM_RETIRED, .STRM_DEPTH, .STRM_STATE,
   .STRM_STATUS_ACC, .STRM_ERR_TAG, .STRM_ERR_COUNT, .STRM_SEED_LO,
   .STRM_SEED_HI, .STRM_ISSUED, .STRM_BOLT_REJ, .STRM_WAIT_LIMIT,
   .STRM_DEADLOCKS, .STRM_RLATCH_BASE_LO, .STRM_RLATCH_BASE_HI, .STRM_RLATCH_COUNT,
   .STRM_GLATCH_SEL, .STRM_GLATCH, .STRM_RTN_BCAST_SLOT, .STRM_RTN_BCAST_SRC_LO,
   .STRM_RTN_BCAST_SRC_HI, .STRM_RTN_BCAST_CTL, .TILE_Q_STATUS, .TILE_LATCH_LO,
   .TILE_LATCH_HI, .TILE_RTN_PENDING_LO, .TILE_RTN_PENDING_HI, .TILE_RTN_LOAD_SLOT,
   .TILE_RTN_LOAD_SRC_LO, .TILE_RTN_LOAD_SRC_HI, .TILE_RTN_LOAD_CTL, .TILE_RTN_SEL]

/-- Part 2 of the list of all registers. -/
def Reg.part2 : List Reg :=
  [.TILE_RTN_INFO, .TILE_DEADLOCKS, .DBG_BP_SEL, .DBG_BP_CTL,
   .DBG_BP_TAG, .DBG_BP_COUNT, .UPD_MODE, .UPD_STATUS,
   .UPD_LAYER_BASE_LO, .UPD_LAYER_BASE_HI, .UPD_LAYER_COUNT, .UPD_LSTAT_BASE_LO,
   .UPD_LSTAT_BASE_HI, .UPD_COMMIT_TIMEOUT, .UPD_JOB_SEL, .UPD_JOB_CTL,
   .UPD_JOB_SHARDS, .UPD_JOB_T_LO, .UPD_JOB_T_HI, .UPD_JOB_STEP_LO,
   .UPD_JOB_STEP_HI, .UPD_JOB_OUTCOME, .UPD_COMMITS, .UPD_SKIPS,
   .UPD_ABORTS, .UPD_P_FALLBACK, .UPD_DELTA_FLUSH, .UPD_DELTA_SAT,
   .UPD_STALE, .UPD_STEPSIZE, .UPD_STEPTAG_LO, .UPD_STEPTAG_HI,
   .UPD_STEPGEN, .NUM_RATIO_LO, .NUM_RATIO_HI, .NUM_STARVE_LIMIT,
   .NUM_WATCH_CTL, .NUM_RATIO_EVENTS, .NUM_STARVE_EVENTS, .NUM_GRAD_SAT,
   .NUM_NONFINITE, .FLT_STATUS, .FLT_ABFT_TOL, .FLT_ASSAY_PERIOD,
   .FLT_OBS, .FLT_TRANSIENT_LIMIT, .FLT_CE_LIMIT, .FLT_DRAIN_LIMIT,
   .FLT_RETIRED, .FLT_REMAP_SEL, .FLT_REMAP, .FLT_UNIT_SEL,
   .FLT_UNIT_CTL, .FLT_TLOG_BASE_LO, .FLT_TLOG_BASE_HI, .FLT_TLOG_SLOTS,
   .FLT_TLOG_NEXT, .FLT_DROSS_MADE, .FLT_DROSS_PASSED, .FLT_JOB_ABORTS,
   .FLT_CE_STORE, .FLT_UE, .FLT_TRANSIENTS, .FLT_REPEAT_FAILS]

/-- Part 3 of the list of all registers. -/
def Reg.part3 : List Reg :=
  [.FLT_ASSAY_PASS, .FLT_ASSAY_FAIL, .FLT_TITHES, .FLT_OFFLINE_BINDS,
   .FLT_ASSAY_SET, .MEM_STATUS, .MEM_RATE, .MEM_CAPACITY_LO,
   .MEM_CAPACITY_HI, .MEM_SCRUB_RATE, .MEM_SCRUB_PASS, .MEM_SCRUB_POS,
   .MEM_RETRAIN_THR, .MEM_REPLAY_MAX, .MEM_PAGE_CE_LIMIT, .MEM_CH_SEL,
   .MEM_CH_STATE, .MEM_CH_CE, .MEM_CH_UE, .MEM_CH_REPLAY,
   .MEM_CH_RETRAINS, .MEM_CH_DEV_CE, .MEM_PAGE_PROP_SEL, .MEM_PAGE_PROP,
   .MEM_PAGE_ACK, .MEM_PROP_DROP, .MEM_OFF_SEL, .MEM_OFF_ENTRY,
   .MEM_OFF_COUNT, .MEM_OFF_ACCESS, .MEM_WINDOW_ACCESS, .LNK_STATUS,
   .LNK_MODULE, .LNK_SEL, .LNK_LSTATE, .LNK_DELAY,
   .LNK_REPLAYS, .LNK_DROSS_FORM, .LNK_FEC_CORR, .LNK_FEC_UNCORR,
   .LNK_TX_FLITS, .LNK_RX_FLITS, .LNK_ELIDED, .LNK_SCHED_HOLD,
   .LNK_NREADY_DROP, .LNK_RETRAINS, .LNK_REROUTED, .LNK_RETRAIN_THR,
   .LNK_RETRY, .LNK_COLL_LIMIT, .LNK_CTL, .LNK_GROUP_BASE_LO,
   .LNK_GROUP_BASE_HI, .LNK_GROUP_COUNT, .LNK_RT_SEL, .LNK_RT_MASK_LO,
   .LNK_RT_MASK_HI, .LNK_RT_ALT_LO, .LNK_RT_ALT_HI, .LNK_UNREACH,
   .LNK_REFUSED, .TWIN_STATUS, .TWIN_CTL, .TWIN_LINKS_LO]

/-- Part 4 of the list of all registers. -/
def Reg.part4 : List Reg :=
  [.TWIN_LINKS_HI, .TWIN_MAN_BASE_LO, .TWIN_MAN_BASE_HI, .TWIN_MAN_COUNT,
   .TWIN_JOIN_JOB, .TWIN_JOIN_STEP_LO, .TWIN_JOIN_STEP_HI, .TWIN_SEED_POS_LO,
   .TWIN_SEED_POS_HI, .TWIN_LOSS, .TWIN_DIVERGED, .TWIN_UNCHECKED,
   .TWIN_MIRRORED, .ID_VENDOR, .ID_REVISION, .ID_SERIAL_LO,
   .ID_SERIAL_HI, .ID_FUSE, .ID_SERVICE, .HIF_LINK,
   .HIF_BAR4_SIZE, .HIF_BAR4_BASE_LO, .HIF_BAR4_BASE_HI, .HIF_EVT_BASE_LO,
   .HIF_EVT_BASE_HI, .HIF_EVT_CTL, .HIF_EVT_PROD, .HIF_EVT_CONS,
   .HIF_EVT_MOD, .HIF_EVT_HELD, .HIF_EVT_LOST, .HIF_UNMAPPED,
   .HIF_POISON_RX, .HIF_POISON_TX, .HIF_BAD_ACCESS, .HIF_EVT_VEC,
   .HIF_MODULE_RESET, .HIF_COPY_SEL, .HIF_COPY_BASE_LO, .HIF_COPY_BASE_HI,
   .HIF_COPY_CFG, .HIF_COPY_CTL, .HIF_COPY_TAIL, .HIF_COPY_HEAD,
   .PAT_STATUS, .PAT_IMAGE_SVN, .PAT_IMAGE_GEN, .PAT_IMAGE_DIGEST,
   .PAT_STAGE_BASE_LO, .PAT_STAGE_BASE_HI, .PAT_FLASH, .PAT_RECAST,
   .PAT_RESULT, .PAT_FLASH_ADDR, .PAT_FLASH_LEN, .PAT_PROGRESS,
   .PAT_LOG_MASK, .PAT_LOG_SEQ, .PAT_LOG_LOST, .PAT_STAGE_DROP,
   .SEC_STATUS, .SEC_DEVICE_ID, .SEC_OP, .SEC_RESULT]

/-- Part 5 of the list of all registers. -/
def Reg.part5 : List Reg :=
  [.SEC_SLOT_SEL, .SEC_SLOT_DIGEST, .SEC_ATTESTS, .ID_BOOT,
   .ID_BOOT_MS, .ID_RESET_CAUSE, .SB_IDENT, .SB_SERIAL_LO,
   .SB_SERIAL_HI, .SB_STATE, .SB_TEMP_DIE, .SB_TEMP_MEM,
   .SB_TEMP_COOLANT, .SB_VIN, .SB_PIN, .SB_RAIL_SEL,
   .SB_RAIL, .SB_CAP, .SB_ALERT_STATUS, .SB_ALERT_MASK,
   .SB_CONTROL, .SB_STOPS, .PWR_CAP, .PWR_STATUS,
   .PWR_INPUT, .PWR_CURRENT, .PWR_TCAP, .PWR_DUTY_MIN,
   .PWR_TEMP_MAX, .PWR_GATED_MS, .PWR_THROTTLE_MS, .PWR_ENERGY_LO,
   .PWR_ENERGY_HI, .TILE_RTR_OPEN_FLITS, .TILE_RTR_OPEN_WAIT, .TILE_RTR_SCHED_FLITS,
   .TST_PERMIT, .TST_ARM, .TST_PERT_SEL, .TST_PERT_CTL,
   .TST_PERT_AMT, .TST_PERT_SEED_LO, .TST_PERT_SEED_HI, .TST_PERT_HITS,
   .TST_INJ_CTL, .TST_INJ_ADDR_LO, .TST_INJ_ADDR_HI, .TST_INJ_MASK_LO,
   .TST_INJ_MASK_HI, .TST_INJ_CHECK, .TST_INJ_DONE, .DBG_TRACE_BASE_LO,
   .DBG_TRACE_BASE_HI, .DBG_TRACE_CTL, .DBG_TRACE_COUNT, .DBG_TRACE_LOST,
   .DBG_PC_CTL, .DBG_PC_SEL, .DBG_PC_CFG, .DBG_PC_STREAM,
   .DBG_PC_VAL_LO, .DBG_PC_VAL_HI, .ID_TILE_MAP_SEL, .ID_TILE_MAP]

/-- Every register, in the order of the tables. -/
def Reg.all : List Reg := Reg.part0 ++ Reg.part1 ++ Reg.part2 ++ Reg.part3 ++ Reg.part4 ++ Reg.part5

/-- The `_HI` register of a pair (R8), for its `_LO` register. DEDUCED, log 25. -/
def Reg.hiOf : Reg → Option Reg
  | .BEAT_COUNT_LO => some .BEAT_COUNT_HI
  | .BEAT_CUR_BASE_LO => some .BEAT_CUR_BASE_HI
  | .BEAT_NEXT_BASE_LO => some .BEAT_NEXT_BASE_HI
  | .BEAT_NEXT_AT_LO => some .BEAT_NEXT_AT_HI
  | .BEAT_FRAME_BASE_LO => some .BEAT_FRAME_BASE_HI
  | .STRM_TDESC_BASE_LO => some .STRM_TDESC_BASE_HI
  | .STRM_DESC_MIN_LO => some .STRM_DESC_MIN_HI
  | .STRM_DESC_MAX_LO => some .STRM_DESC_MAX_HI
  | .STRM_RING_BASE_LO => some .STRM_RING_BASE_HI
  | .STRM_SHADOW_ADDR_LO => some .STRM_SHADOW_ADDR_HI
  | .STRM_SEED_LO => some .STRM_SEED_HI
  | .STRM_RLATCH_BASE_LO => some .STRM_RLATCH_BASE_HI
  | .STRM_RTN_BCAST_SRC_LO => some .STRM_RTN_BCAST_SRC_HI
  | .TILE_LATCH_LO => some .TILE_LATCH_HI
  | .TILE_RTN_PENDING_LO => some .TILE_RTN_PENDING_HI
  | .TILE_RTN_LOAD_SRC_LO => some .TILE_RTN_LOAD_SRC_HI
  | .UPD_LAYER_BASE_LO => some .UPD_LAYER_BASE_HI
  | .UPD_LSTAT_BASE_LO => some .UPD_LSTAT_BASE_HI
  | .UPD_JOB_T_LO => some .UPD_JOB_T_HI
  | .UPD_JOB_STEP_LO => some .UPD_JOB_STEP_HI
  | .UPD_STEPTAG_LO => some .UPD_STEPTAG_HI
  | .FLT_TLOG_BASE_LO => some .FLT_TLOG_BASE_HI
  | .MEM_CAPACITY_LO => some .MEM_CAPACITY_HI
  | .LNK_GROUP_BASE_LO => some .LNK_GROUP_BASE_HI
  | .LNK_RT_MASK_LO => some .LNK_RT_MASK_HI
  | .LNK_RT_ALT_LO => some .LNK_RT_ALT_HI
  | .TWIN_LINKS_LO => some .TWIN_LINKS_HI
  | .TWIN_MAN_BASE_LO => some .TWIN_MAN_BASE_HI
  | .TWIN_JOIN_STEP_LO => some .TWIN_JOIN_STEP_HI
  | .TWIN_SEED_POS_LO => some .TWIN_SEED_POS_HI
  | .ID_SERIAL_LO => some .ID_SERIAL_HI
  | .HIF_BAR4_BASE_LO => some .HIF_BAR4_BASE_HI
  | .HIF_EVT_BASE_LO => some .HIF_EVT_BASE_HI
  | .HIF_COPY_BASE_LO => some .HIF_COPY_BASE_HI
  | .PAT_STAGE_BASE_LO => some .PAT_STAGE_BASE_HI
  | .SB_SERIAL_LO => some .SB_SERIAL_HI
  | .PWR_ENERGY_LO => some .PWR_ENERGY_HI
  | .TST_PERT_SEED_LO => some .TST_PERT_SEED_HI
  | .TST_INJ_ADDR_LO => some .TST_INJ_ADDR_HI
  | .TST_INJ_MASK_LO => some .TST_INJ_MASK_HI
  | .DBG_TRACE_BASE_LO => some .DBG_TRACE_BASE_HI
  | .DBG_PC_VAL_LO => some .DBG_PC_VAL_HI
  | _ => none

/-- A field by name: its register, its low bit and its width. -/
structure Fld where
  reg : Reg
  lo : Nat
  width : Nat
  deriving DecidableEq, Repr

end Sys2Proof.Machine
end

