-- ==== Sys2Proof/Machine/Fields.lean ====
section
/-!
DEFINITION. The fields of the register tables by name: `F.BLOCK_REGISTER_FIELD` is the field the spec calls
`BLOCK.REGISTER.FIELD`.
-/
namespace Sys2Proof.Machine.F

abbrev BEAT_LEN_LOG2 : Fld := ⟨.BEAT_LEN, 0, 5⟩
abbrev BEAT_STATUS_RUN : Fld := ⟨.BEAT_STATUS, 0, 1⟩
abbrev BEAT_STATUS_GROUPED : Fld := ⟨.BEAT_STATUS, 1, 1⟩
abbrev BEAT_STATUS_MASTER : Fld := ⟨.BEAT_STATUS, 2, 1⟩
abbrev BEAT_STATUS_HOLDOVER : Fld := ⟨.BEAT_STATUS, 3, 1⟩
abbrev BEAT_STATUS_HELD : Fld := ⟨.BEAT_STATUS, 4, 1⟩
abbrev BEAT_COUNT_LO_COUNT : Fld := ⟨.BEAT_COUNT_LO, 0, 32⟩
abbrev BEAT_COUNT_HI_COUNT : Fld := ⟨.BEAT_COUNT_HI, 0, 32⟩
abbrev BEAT_ENTRY_INDEX : Fld := ⟨.BEAT_ENTRY, 0, 12⟩
abbrev BEAT_CUR_LEN_LEN : Fld := ⟨.BEAT_CUR_LEN, 0, 13⟩
abbrev BEAT_CUR_BASE_LO_BASE : Fld := ⟨.BEAT_CUR_BASE_LO, 16, 16⟩
abbrev BEAT_CUR_BASE_HI_BASE : Fld := ⟨.BEAT_CUR_BASE_HI, 0, 8⟩
abbrev BEAT_NEXT_BASE_LO_BASE : Fld := ⟨.BEAT_NEXT_BASE_LO, 16, 16⟩
abbrev BEAT_NEXT_BASE_HI_BASE : Fld := ⟨.BEAT_NEXT_BASE_HI, 0, 8⟩
abbrev BEAT_NEXT_LEN_LEN : Fld := ⟨.BEAT_NEXT_LEN, 0, 13⟩
abbrev BEAT_NEXT_LEN_START : Fld := ⟨.BEAT_NEXT_LEN, 16, 12⟩
abbrev BEAT_PLAN_NEXT_GO : Fld := ⟨.BEAT_PLAN_NEXT, 0, 1⟩
abbrev BEAT_PLAN_NEXT_CANCEL : Fld := ⟨.BEAT_PLAN_NEXT, 1, 1⟩
abbrev BEAT_PLAN_NEXT_RESULT : Fld := ⟨.BEAT_PLAN_NEXT, 4, 3⟩
abbrev BEAT_NEXT_AT_LO_AT : Fld := ⟨.BEAT_NEXT_AT_LO, 0, 32⟩
abbrev BEAT_NEXT_AT_HI_AT : Fld := ⟨.BEAT_NEXT_AT_HI, 0, 32⟩
abbrev BEAT_FRAME_BASE_LO_BASE : Fld := ⟨.BEAT_FRAME_BASE_LO, 15, 17⟩
abbrev BEAT_FRAME_BASE_HI_BASE : Fld := ⟨.BEAT_FRAME_BASE_HI, 0, 8⟩
abbrev BEAT_FRAME_COUNT_COUNT : Fld := ⟨.BEAT_FRAME_COUNT, 0, 21⟩
abbrev BEAT_TRIM_TRIM : Fld := ⟨.BEAT_TRIM, 0, 5⟩
abbrev BEAT_TRIM_PHASE : Fld := ⟨.BEAT_TRIM, 16, 16⟩
abbrev BEAT_GROUP_GROUP_ID : Fld := ⟨.BEAT_GROUP, 0, 12⟩
abbrev BEAT_GROUP_MASTER : Fld := ⟨.BEAT_GROUP, 12, 12⟩
abbrev BEAT_GROUP_DEPTH : Fld := ⟨.BEAT_GROUP, 24, 4⟩
abbrev BEAT_UPLINK_PRIMARY : Fld := ⟨.BEAT_UPLINK, 0, 6⟩
abbrev BEAT_UPLINK_SECONDARY : Fld := ⟨.BEAT_UPLINK, 8, 6⟩
abbrev BEAT_UPLINK_ON_SECONDARY : Fld := ⟨.BEAT_UPLINK, 16, 1⟩
abbrev BEAT_HOLDOVER_BEATS : Fld := ⟨.BEAT_HOLDOVER, 0, 8⟩
abbrev BEAT_CARRY_EVT_RUN : Fld := ⟨.BEAT_CARRY_EVT, 0, 8⟩
abbrev BEAT_OVR_SEL_STREAM : Fld := ⟨.BEAT_OVR_SEL, 0, 16⟩
abbrev BEAT_OVERRUN_CARRIES : Fld := ⟨.BEAT_OVERRUN, 0, 32⟩
abbrev BEAT_BUBBLE_UNITS : Fld := ⟨.BEAT_BUBBLE, 0, 32⟩
abbrev BEAT_DEMOTED_COUNT : Fld := ⟨.BEAT_DEMOTED, 0, 32⟩
abbrev BEAT_HELD_COUNT : Fld := ⟨.BEAT_HELD, 0, 32⟩
abbrev BEAT_STATE_LATE_COUNT : Fld := ⟨.BEAT_STATE_LATE, 0, 32⟩
abbrev NUM_ARITH_SEL_STREAM : Fld := ⟨.NUM_ARITH_SEL, 0, 16⟩
abbrev NUM_OVERFLOW_COUNT : Fld := ⟨.NUM_OVERFLOW, 0, 32⟩
abbrev NUM_UNDERFLOW_COUNT : Fld := ⟨.NUM_UNDERFLOW, 0, 32⟩
abbrev NUM_NAN_SCALE_COUNT : Fld := ⟨.NUM_NAN_SCALE, 0, 32⟩
abbrev NUM_SATURATED_COUNT : Fld := ⟨.NUM_SATURATED, 0, 32⟩
abbrev NUM_INT_SAT_COUNT : Fld := ⟨.NUM_INT_SAT, 0, 32⟩
abbrev LOOM_STATUS_A_OK : Fld := ⟨.LOOM_STATUS, 0, 1⟩
abbrev LOOM_STATUS_B_OK : Fld := ⟨.LOOM_STATUS, 1, 1⟩
abbrev LOOM_STATUS_A_BUSY : Fld := ⟨.LOOM_STATUS, 2, 1⟩
abbrev LOOM_STATUS_B_BUSY : Fld := ⟨.LOOM_STATUS, 3, 1⟩
abbrev LOOM_STATUS_A_PINNED : Fld := ⟨.LOOM_STATUS, 4, 1⟩
abbrev LOOM_STATUS_B_PINNED : Fld := ⟨.LOOM_STATUS, 5, 1⟩
abbrev LOOM_FUSE_A_ROW0 : Fld := ⟨.LOOM_FUSE_A, 0, 7⟩
abbrev LOOM_FUSE_A_ROW1 : Fld := ⟨.LOOM_FUSE_A, 7, 7⟩
abbrev LOOM_FUSE_A_COL0 : Fld := ⟨.LOOM_FUSE_A, 14, 7⟩
abbrev LOOM_FUSE_A_COL1 : Fld := ⟨.LOOM_FUSE_A, 21, 7⟩
abbrev LOOM_FUSE_A_UNREPAIRABLE : Fld := ⟨.LOOM_FUSE_A, 28, 1⟩
abbrev LOOM_FUSE_B_ROW0 : Fld := ⟨.LOOM_FUSE_B, 0, 7⟩
abbrev LOOM_FUSE_B_ROW1 : Fld := ⟨.LOOM_FUSE_B, 7, 7⟩
abbrev LOOM_FUSE_B_COL0 : Fld := ⟨.LOOM_FUSE_B, 14, 7⟩
abbrev LOOM_FUSE_B_COL1 : Fld := ⟨.LOOM_FUSE_B, 21, 7⟩
abbrev LOOM_FUSE_B_UNREPAIRABLE : Fld := ⟨.LOOM_FUSE_B, 28, 1⟩
abbrev LOOM_SKEW_SEL_LOOM : Fld := ⟨.LOOM_SKEW_SEL, 0, 1⟩
abbrev LOOM_SKEW_SEL_AXIS : Fld := ⟨.LOOM_SKEW_SEL, 1, 1⟩
abbrev LOOM_SKEW_SEL_INDEX : Fld := ⟨.LOOM_SKEW_SEL, 2, 7⟩
abbrev LOOM_SKEW_DELAY : Fld := ⟨.LOOM_SKEW, 0, 2⟩
abbrev LOOM_SKEW_EXPECTED : Fld := ⟨.LOOM_SKEW, 2, 2⟩
abbrev LOOM_SKEW_MISMATCH : Fld := ⟨.LOOM_SKEW, 4, 1⟩
abbrev LOOM_CHK_PASS_COUNT : Fld := ⟨.LOOM_CHK_PASS, 0, 32⟩
abbrev LOOM_CHK_MISMATCH_COUNT : Fld := ⟨.LOOM_CHK_MISMATCH, 0, 32⟩
abbrev LOOM_CHK_SKIPPED_COUNT : Fld := ⟨.LOOM_CHK_SKIPPED, 0, 32⟩
abbrev LOOM_CHK_WORST_RATIO : Fld := ⟨.LOOM_CHK_WORST, 0, 32⟩
abbrev LOOM_BLOCKS_A_COUNT : Fld := ⟨.LOOM_BLOCKS_A, 0, 32⟩
abbrev LOOM_BLOCKS_B_COUNT : Fld := ⟨.LOOM_BLOCKS_B, 0, 32⟩
abbrev LOOM_HEDDLE_STALL_CYCLES : Fld := ⟨.LOOM_HEDDLE_STALL, 0, 32⟩
abbrev LOOM_FEED_STALL_CYCLES : Fld := ⟨.LOOM_FEED_STALL, 0, 32⟩
abbrev SHTL_STATUS_BUSY : Fld := ⟨.SHTL_STATUS, 0, 1⟩
abbrev SHTL_STATUS_QUEUE : Fld := ⟨.SHTL_STATUS, 1, 2⟩
abbrev SHTL_PATH_THR_COND_U : Fld := ⟨.SHTL_PATH_THR, 0, 8⟩
abbrev SHTL_PATH_THR_MERGE_D : Fld := ⟨.SHTL_PATH_THR, 8, 8⟩
abbrev SHTL_PATH_THR_PEEL_U : Fld := ⟨.SHTL_PATH_THR, 16, 8⟩
abbrev SHTL_SPLIT_THR_FACTOR : Fld := ⟨.SHTL_SPLIT_THR, 0, 4⟩
abbrev SHTL_IDX_BAD_COUNT : Fld := ⟨.SHTL_IDX_BAD, 0, 32⟩
abbrev SHTL_DEDUP_COUNT : Fld := ⟨.SHTL_DEDUP, 0, 32⟩
abbrev SHTL_GATHERED_COUNT : Fld := ⟨.SHTL_GATHERED, 0, 32⟩
abbrev SHTL_SCATTERED_COUNT : Fld := ⟨.SHTL_SCATTERED, 0, 32⟩
abbrev SHTL_MERGE_EVICT_COUNT : Fld := ⟨.SHTL_MERGE_EVICT, 0, 32⟩
abbrev SHTL_FETCH_STALL_CYCLES : Fld := ⟨.SHTL_FETCH_STALL, 0, 32⟩
abbrev SHTL_PANEL_ERR_COUNT : Fld := ⟨.SHTL_PANEL_ERR, 0, 32⟩
abbrev SHTL_ROUTE_OVF_COUNT : Fld := ⟨.SHTL_ROUTE_OVF, 0, 32⟩
abbrev SHTL_SKETCH_SEL_COUNT : Fld := ⟨.SHTL_SKETCH_SEL, 0, 32⟩
abbrev SHTL_LANE_BUSY_CYCLES : Fld := ⟨.SHTL_LANE_BUSY, 0, 32⟩
abbrev NUM_PATH_SEL_STREAM : Fld := ⟨.NUM_PATH_SEL, 0, 16⟩
abbrev NUM_PATH_DENSE_COUNT : Fld := ⟨.NUM_PATH_DENSE, 0, 32⟩
abbrev NUM_PATH_COND_COUNT : Fld := ⟨.NUM_PATH_COND, 0, 32⟩
abbrev NUM_PATH_MERGE_COUNT : Fld := ⟨.NUM_PATH_MERGE, 0, 32⟩
abbrev NUM_PATH_HYBRID_COUNT : Fld := ⟨.NUM_PATH_HYBRID, 0, 32⟩
abbrev NUM_PATH_SPLIT_COUNT : Fld := ⟨.NUM_PATH_SPLIT, 0, 32⟩
abbrev FIN_STATUS_BUSY : Fld := ⟨.FIN_STATUS, 0, 1⟩
abbrev FIN_STATUS_QUEUE : Fld := ⟨.FIN_STATUS, 1, 2⟩
abbrev FIN_STATUS_PASS : Fld := ⟨.FIN_STATUS, 3, 2⟩
abbrev FIN_ELEMENTS_COUNT : Fld := ⟨.FIN_ELEMENTS, 0, 32⟩
abbrev FIN_ROWS_COUNT : Fld := ⟨.FIN_ROWS, 0, 32⟩
abbrev FIN_SMAX_EMPTY_COUNT : Fld := ⟨.FIN_SMAX_EMPTY, 0, 32⟩
abbrev FIN_NAN_ROWS_COUNT : Fld := ⟨.FIN_NAN_ROWS, 0, 32⟩
abbrev FIN_STORE_STALL_CYCLES : Fld := ⟨.FIN_STORE_STALL, 0, 32⟩
abbrev FIN_STASH_ATOMS_COUNT : Fld := ⟨.FIN_STASH_ATOMS, 0, 32⟩
abbrev FIN_BUSY_CYCLES_CYCLES : Fld := ⟨.FIN_BUSY_CYCLES, 0, 32⟩
abbrev STRM_TDESC_BASE_LO_BASE : Fld := ⟨.STRM_TDESC_BASE_LO, 26, 6⟩
abbrev STRM_TDESC_BASE_HI_BASE : Fld := ⟨.STRM_TDESC_BASE_HI, 0, 8⟩
abbrev STRM_TDESC_CAP_COUNT : Fld := ⟨.STRM_TDESC_CAP, 0, 21⟩
abbrev STRM_TDESC_LIVE_COUNT : Fld := ⟨.STRM_TDESC_LIVE, 0, 21⟩
abbrev STRM_REGION_LIVE_COUNT : Fld := ⟨.STRM_REGION_LIVE, 0, 13⟩
abbrev STRM_TABLE_DROP_COUNT : Fld := ⟨.STRM_TABLE_DROP, 0, 32⟩
abbrev STRM_DESC_DATA_DATA : Fld := ⟨.STRM_DESC_DATA, 0, 32⟩
abbrev STRM_DESC_OP_OP : Fld := ⟨.STRM_DESC_OP, 0, 3⟩
abbrev STRM_DESC_OP_ID : Fld := ⟨.STRM_DESC_OP, 4, 20⟩
abbrev STRM_DESC_OP_GO : Fld := ⟨.STRM_DESC_OP, 31, 1⟩
abbrev STRM_DESC_RESULT_CODE : Fld := ⟨.STRM_DESC_RESULT, 0, 4⟩
abbrev STRM_DESC_RESULT_OFFSET : Fld := ⟨.STRM_DESC_RESULT, 8, 6⟩
abbrev STRM_DESC_RESULT_BUSY : Fld := ⟨.STRM_DESC_RESULT, 16, 1⟩
abbrev STRM_DESC_MIN_LO_FIRST : Fld := ⟨.STRM_DESC_MIN_LO, 0, 32⟩
abbrev STRM_DESC_MIN_HI_FIRST : Fld := ⟨.STRM_DESC_MIN_HI, 0, 32⟩
abbrev STRM_DESC_MAX_LO_LAST : Fld := ⟨.STRM_DESC_MAX_LO, 0, 32⟩
abbrev STRM_DESC_MAX_HI_LAST : Fld := ⟨.STRM_DESC_MAX_HI, 0, 32⟩
abbrev STRM_SEL_STREAM : Fld := ⟨.STRM_SEL, 0, 16⟩
abbrev STRM_CTL_ENABLE : Fld := ⟨.STRM_CTL, 0, 1⟩
abbrev STRM_CTL_RESET : Fld := ⟨.STRM_CTL, 1, 1⟩
abbrev STRM_CTL_RESUME : Fld := ⟨.STRM_CTL, 2, 1⟩
abbrev STRM_CTL_STEP : Fld := ⟨.STRM_CTL, 3, 1⟩
abbrev STRM_CTL_SHADOW_EN : Fld := ⟨.STRM_CTL, 4, 1⟩
abbrev STRM_CTL_ERR_FAULT : Fld := ⟨.STRM_CTL, 5, 1⟩
abbrev STRM_CTL_WDOG_FAULT : Fld := ⟨.STRM_CTL, 6, 1⟩
abbrev STRM_JOB_JOB : Fld := ⟨.STRM_JOB, 0, 12⟩
abbrev STRM_FRAME_FRAME : Fld := ⟨.STRM_FRAME, 0, 20⟩
abbrev STRM_RING_BASE_LO_BASE : Fld := ⟨.STRM_RING_BASE_LO, 18, 14⟩
abbrev STRM_RING_BASE_HI_BASE : Fld := ⟨.STRM_RING_BASE_HI, 0, 8⟩
abbrev STRM_SHADOW_ADDR_LO_ADDR : Fld := ⟨.STRM_SHADOW_ADDR_LO, 4, 28⟩
abbrev STRM_SHADOW_ADDR_HI_ADDR : Fld := ⟨.STRM_SHADOW_ADDR_HI, 0, 32⟩
abbrev STRM_SEQ_NEXT : Fld := ⟨.STRM_SEQ, 0, 32⟩
abbrev STRM_TAIL_COUNT : Fld := ⟨.STRM_TAIL, 0, 32⟩
abbrev STRM_RETIRED_COUNT : Fld := ⟨.STRM_RETIRED, 0, 32⟩
abbrev STRM_DEPTH_DEPTH : Fld := ⟨.STRM_DEPTH, 0, 13⟩
abbrev STRM_STATE_BOUND : Fld := ⟨.STRM_STATE, 0, 1⟩
abbrev STRM_STATE_HALTED : Fld := ⟨.STRM_STATE, 1, 1⟩
abbrev STRM_STATE_FAULTED : Fld := ⟨.STRM_STATE, 2, 1⟩
abbrev STRM_STATE_CAUSE : Fld := ⟨.STRM_STATE, 4, 4⟩
abbrev STRM_STATE_TILE : Fld := ⟨.STRM_STATE, 8, 9⟩
abbrev STRM_STATE_QUEUE : Fld := ⟨.STRM_STATE, 17, 2⟩
abbrev STRM_STATUS_ACC_CODES : Fld := ⟨.STRM_STATUS_ACC, 1, 9⟩
abbrev STRM_STATUS_ACC_FLAGS : Fld := ⟨.STRM_STATUS_ACC, 16, 4⟩
abbrev STRM_ERR_TAG_TAG : Fld := ⟨.STRM_ERR_TAG, 0, 16⟩
abbrev STRM_ERR_TAG_CODE : Fld := ⟨.STRM_ERR_TAG, 16, 4⟩
abbrev STRM_ERR_COUNT_ISSUED : Fld := ⟨.STRM_ERR_COUNT, 0, 32⟩
abbrev STRM_SEED_LO_SEED : Fld := ⟨.STRM_SEED_LO, 0, 32⟩
abbrev STRM_SEED_HI_SEED : Fld := ⟨.STRM_SEED_HI, 0, 32⟩
abbrev STRM_ISSUED_COUNT : Fld := ⟨.STRM_ISSUED, 0, 32⟩
abbrev STRM_BOLT_REJ_COUNT : Fld := ⟨.STRM_BOLT_REJ, 0, 32⟩
abbrev STRM_WAIT_LIMIT_BEATS : Fld := ⟨.STRM_WAIT_LIMIT, 0, 8⟩
abbrev STRM_DEADLOCKS_COUNT : Fld := ⟨.STRM_DEADLOCKS, 0, 32⟩
abbrev STRM_RLATCH_BASE_LO_BASE : Fld := ⟨.STRM_RLATCH_BASE_LO, 16, 16⟩
abbrev STRM_RLATCH_BASE_HI_BASE : Fld := ⟨.STRM_RLATCH_BASE_HI, 0, 8⟩
abbrev STRM_RLATCH_COUNT_COUNT : Fld := ⟨.STRM_RLATCH_COUNT, 0, 14⟩
abbrev STRM_GLATCH_SEL_LATCH : Fld := ⟨.STRM_GLATCH_SEL, 0, 12⟩
abbrev STRM_GLATCH_VALUE : Fld := ⟨.STRM_GLATCH, 0, 1⟩
abbrev STRM_GLATCH_SET : Fld := ⟨.STRM_GLATCH, 1, 1⟩
abbrev STRM_GLATCH_CLEAR : Fld := ⟨.STRM_GLATCH, 2, 1⟩
abbrev STRM_RTN_BCAST_SLOT_SLOT : Fld := ⟨.STRM_RTN_BCAST_SLOT, 0, 6⟩
abbrev STRM_RTN_BCAST_SLOT_RID : Fld := ⟨.STRM_RTN_BCAST_SLOT, 16, 16⟩
abbrev STRM_RTN_BCAST_SRC_LO_ADDR : Fld := ⟨.STRM_RTN_BCAST_SRC_LO, 10, 22⟩
abbrev STRM_RTN_BCAST_SRC_HI_ADDR : Fld := ⟨.STRM_RTN_BCAST_SRC_HI, 0, 8⟩
abbrev STRM_RTN_BCAST_CTL_GO : Fld := ⟨.STRM_RTN_BCAST_CTL, 0, 1⟩
abbrev TILE_Q_STATUS_STREAM : Fld := ⟨.TILE_Q_STATUS, 0, 16⟩
abbrev TILE_Q_STATUS_BOUND : Fld := ⟨.TILE_Q_STATUS, 16, 1⟩
abbrev TILE_Q_STATUS_WHY : Fld := ⟨.TILE_Q_STATUS, 17, 3⟩
abbrev TILE_Q_STATUS_HELD : Fld := ⟨.TILE_Q_STATUS, 20, 9⟩
abbrev TILE_LATCH_LO_LATCH : Fld := ⟨.TILE_LATCH_LO, 0, 32⟩
abbrev TILE_LATCH_HI_LATCH : Fld := ⟨.TILE_LATCH_HI, 0, 32⟩
abbrev TILE_RTN_PENDING_LO_SLOTS : Fld := ⟨.TILE_RTN_PENDING_LO, 0, 32⟩
abbrev TILE_RTN_PENDING_HI_SLOTS : Fld := ⟨.TILE_RTN_PENDING_HI, 0, 32⟩
abbrev TILE_RTN_LOAD_SLOT_SLOT : Fld := ⟨.TILE_RTN_LOAD_SLOT, 0, 6⟩
abbrev TILE_RTN_LOAD_SLOT_RID : Fld := ⟨.TILE_RTN_LOAD_SLOT, 16, 16⟩
abbrev TILE_RTN_LOAD_SRC_LO_ADDR : Fld := ⟨.TILE_RTN_LOAD_SRC_LO, 10, 22⟩
abbrev TILE_RTN_LOAD_SRC_HI_ADDR : Fld := ⟨.TILE_RTN_LOAD_SRC_HI, 0, 8⟩
abbrev TILE_RTN_LOAD_CTL_GO : Fld := ⟨.TILE_RTN_LOAD_CTL, 0, 1⟩
abbrev TILE_RTN_LOAD_CTL_RESULT : Fld := ⟨.TILE_RTN_LOAD_CTL, 1, 2⟩
abbrev TILE_RTN_SEL_SLOT : Fld := ⟨.TILE_RTN_SEL, 0, 6⟩
abbrev TILE_RTN_INFO_GEN : Fld := ⟨.TILE_RTN_INFO, 0, 16⟩
abbrev TILE_RTN_INFO_RID : Fld := ⟨.TILE_RTN_INFO, 16, 16⟩
abbrev TILE_DEADLOCKS_COUNT : Fld := ⟨.TILE_DEADLOCKS, 0, 32⟩
abbrev DBG_BP_SEL_UNIT : Fld := ⟨.DBG_BP_SEL, 0, 3⟩
abbrev DBG_BP_CTL_EN : Fld := ⟨.DBG_BP_CTL, 0, 1⟩
abbrev DBG_BP_CTL_ON_COUNT : Fld := ⟨.DBG_BP_CTL, 1, 1⟩
abbrev DBG_BP_CTL_ACTION : Fld := ⟨.DBG_BP_CTL, 2, 1⟩
abbrev DBG_BP_CTL_HIT : Fld := ⟨.DBG_BP_CTL, 3, 1⟩
abbrev DBG_BP_CTL_STREAM : Fld := ⟨.DBG_BP_CTL, 16, 16⟩
abbrev DBG_BP_TAG_TAG : Fld := ⟨.DBG_BP_TAG, 0, 16⟩
abbrev DBG_BP_TAG_MASK : Fld := ⟨.DBG_BP_TAG, 16, 16⟩
abbrev DBG_BP_COUNT_ISSUED : Fld := ⟨.DBG_BP_COUNT, 0, 32⟩
abbrev UPD_MODE_DUAL : Fld := ⟨.UPD_MODE, 0, 1⟩
abbrev UPD_STATUS_PENDING : Fld := ⟨.UPD_STATUS, 0, 13⟩
abbrev UPD_STATUS_AWAIT : Fld := ⟨.UPD_STATUS, 13, 13⟩
abbrev UPD_LAYER_BASE_LO_BASE : Fld := ⟨.UPD_LAYER_BASE_LO, 12, 20⟩
abbrev UPD_LAYER_BASE_HI_BASE : Fld := ⟨.UPD_LAYER_BASE_HI, 0, 8⟩
abbrev UPD_LAYER_COUNT_COUNT : Fld := ⟨.UPD_LAYER_COUNT, 0, 13⟩
abbrev UPD_LSTAT_BASE_LO_BASE : Fld := ⟨.UPD_LSTAT_BASE_LO, 12, 20⟩
abbrev UPD_LSTAT_BASE_HI_BASE : Fld := ⟨.UPD_LSTAT_BASE_HI, 0, 8⟩
abbrev UPD_COMMIT_TIMEOUT_BEATS : Fld := ⟨.UPD_COMMIT_TIMEOUT, 0, 8⟩
abbrev UPD_COMMIT_TIMEOUT_FLIP_LEAD : Fld := ⟨.UPD_COMMIT_TIMEOUT, 8, 4⟩
abbrev UPD_JOB_SEL_JOB : Fld := ⟨.UPD_JOB_SEL, 0, 12⟩
abbrev UPD_JOB_CTL_EN : Fld := ⟨.UPD_JOB_CTL, 0, 1⟩
abbrev UPD_JOB_CTL_ROOT_HERE : Fld := ⟨.UPD_JOB_CTL, 1, 1⟩
abbrev UPD_JOB_CTL_ROOT : Fld := ⟨.UPD_JOB_CTL, 4, 12⟩
abbrev UPD_JOB_SHARDS_SHARDS : Fld := ⟨.UPD_JOB_SHARDS, 0, 13⟩
abbrev UPD_JOB_SHARDS_LOCAL : Fld := ⟨.UPD_JOB_SHARDS, 16, 16⟩
abbrev UPD_JOB_T_LO_T : Fld := ⟨.UPD_JOB_T_LO, 0, 32⟩
abbrev UPD_JOB_T_HI_T : Fld := ⟨.UPD_JOB_T_HI, 0, 32⟩
abbrev UPD_JOB_STEP_LO_STEP : Fld := ⟨.UPD_JOB_STEP_LO, 0, 32⟩
abbrev UPD_JOB_STEP_HI_STEP : Fld := ⟨.UPD_JOB_STEP_HI, 0, 32⟩
abbrev UPD_JOB_OUTCOME_LAST : Fld := ⟨.UPD_JOB_OUTCOME, 0, 2⟩
abbrev UPD_JOB_OUTCOME_ROUND_OPEN : Fld := ⟨.UPD_JOB_OUTCOME, 2, 1⟩
abbrev UPD_JOB_OUTCOME_READY_SENT : Fld := ⟨.UPD_JOB_OUTCOME, 3, 1⟩
abbrev UPD_COMMITS_COUNT : Fld := ⟨.UPD_COMMITS, 0, 32⟩
abbrev UPD_SKIPS_COUNT : Fld := ⟨.UPD_SKIPS, 0, 32⟩
abbrev UPD_ABORTS_COUNT : Fld := ⟨.UPD_ABORTS, 0, 32⟩
abbrev UPD_P_FALLBACK_COUNT : Fld := ⟨.UPD_P_FALLBACK, 0, 32⟩
abbrev UPD_DELTA_FLUSH_COUNT : Fld := ⟨.UPD_DELTA_FLUSH, 0, 32⟩
abbrev UPD_DELTA_SAT_COUNT : Fld := ⟨.UPD_DELTA_SAT, 0, 32⟩
abbrev UPD_STALE_COUNT : Fld := ⟨.UPD_STALE, 0, 32⟩
abbrev UPD_STEPSIZE_VALUE : Fld := ⟨.UPD_STEPSIZE, 0, 32⟩
abbrev UPD_STEPTAG_LO_STEP : Fld := ⟨.UPD_STEPTAG_LO, 0, 32⟩
abbrev UPD_STEPTAG_HI_STEP : Fld := ⟨.UPD_STEPTAG_HI, 0, 32⟩
abbrev UPD_STEPGEN_GEN : Fld := ⟨.UPD_STEPGEN, 0, 16⟩
abbrev NUM_RATIO_LO_BOUND : Fld := ⟨.NUM_RATIO_LO, 0, 32⟩
abbrev NUM_RATIO_HI_BOUND : Fld := ⟨.NUM_RATIO_HI, 0, 32⟩
abbrev NUM_STARVE_LIMIT_STEPS : Fld := ⟨.NUM_STARVE_LIMIT, 0, 16⟩
abbrev NUM_WATCH_CTL_BOOST : Fld := ⟨.NUM_WATCH_CTL, 0, 1⟩
abbrev NUM_WATCH_CTL_SAT_RAISE : Fld := ⟨.NUM_WATCH_CTL, 1, 1⟩
abbrev NUM_WATCH_CTL_RATIO_EVT : Fld := ⟨.NUM_WATCH_CTL, 2, 1⟩
abbrev NUM_WATCH_CTL_DEXP_AUTO : Fld := ⟨.NUM_WATCH_CTL, 3, 1⟩
abbrev NUM_RATIO_EVENTS_COUNT : Fld := ⟨.NUM_RATIO_EVENTS, 0, 32⟩
abbrev NUM_STARVE_EVENTS_COUNT : Fld := ⟨.NUM_STARVE_EVENTS, 0, 32⟩
abbrev NUM_GRAD_SAT_COUNT : Fld := ⟨.NUM_GRAD_SAT, 0, 32⟩
abbrev NUM_NONFINITE_COUNT : Fld := ⟨.NUM_NONFINITE, 0, 32⟩
abbrev FLT_STATUS_LOGICAL : Fld := ⟨.FLT_STATUS, 0, 10⟩
abbrev FLT_STATUS_DRAINING : Fld := ⟨.FLT_STATUS, 10, 1⟩
abbrev FLT_STATUS_DRAINED : Fld := ⟨.FLT_STATUS, 11, 1⟩
abbrev FLT_ABFT_TOL_FACTOR : Fld := ⟨.FLT_ABFT_TOL, 0, 8⟩
abbrev FLT_ASSAY_PERIOD_BEATS : Fld := ⟨.FLT_ASSAY_PERIOD, 0, 8⟩
abbrev FLT_OBS_BEATS : Fld := ⟨.FLT_OBS, 0, 11⟩
abbrev FLT_OBS_RETIRE : Fld := ⟨.FLT_OBS, 16, 4⟩
abbrev FLT_TRANSIENT_LIMIT_COUNT : Fld := ⟨.FLT_TRANSIENT_LIMIT, 0, 8⟩
abbrev FLT_CE_LIMIT_COUNT : Fld := ⟨.FLT_CE_LIMIT, 0, 16⟩
abbrev FLT_DRAIN_LIMIT_COUNT : Fld := ⟨.FLT_DRAIN_LIMIT, 0, 10⟩
abbrev FLT_RETIRED_COUNT : Fld := ⟨.FLT_RETIRED, 0, 10⟩
abbrev FLT_RETIRED_SPARES : Fld := ⟨.FLT_RETIRED, 16, 10⟩
abbrev FLT_REMAP_SEL_TILE : Fld := ⟨.FLT_REMAP_SEL, 0, 9⟩
abbrev FLT_REMAP_DIE : Fld := ⟨.FLT_REMAP, 0, 3⟩
abbrev FLT_REMAP_COL : Fld := ⟨.FLT_REMAP, 3, 4⟩
abbrev FLT_REMAP_ROW : Fld := ⟨.FLT_REMAP, 7, 3⟩
abbrev FLT_REMAP_OFFLINE : Fld := ⟨.FLT_REMAP, 10, 1⟩
abbrev FLT_REMAP_OBSERVED : Fld := ⟨.FLT_REMAP, 11, 1⟩
abbrev FLT_UNIT_SEL_KIND : Fld := ⟨.FLT_UNIT_SEL, 0, 2⟩
abbrev FLT_UNIT_SEL_INDEX : Fld := ⟨.FLT_UNIT_SEL, 8, 10⟩
abbrev FLT_UNIT_CTL_DISABLE : Fld := ⟨.FLT_UNIT_CTL, 0, 1⟩
abbrev FLT_UNIT_CTL_ENABLE : Fld := ⟨.FLT_UNIT_CTL, 1, 1⟩
abbrev FLT_UNIT_CTL_STATE : Fld := ⟨.FLT_UNIT_CTL, 4, 3⟩
abbrev FLT_UNIT_CTL_PENDING_EN : Fld := ⟨.FLT_UNIT_CTL, 7, 1⟩
abbrev FLT_UNIT_CTL_OBSERVED : Fld := ⟨.FLT_UNIT_CTL, 8, 1⟩
abbrev FLT_UNIT_CTL_SINCE : Fld := ⟨.FLT_UNIT_CTL, 16, 8⟩
abbrev FLT_UNIT_CTL_FAILS : Fld := ⟨.FLT_UNIT_CTL, 24, 4⟩
abbrev FLT_TLOG_BASE_LO_ADDR : Fld := ⟨.FLT_TLOG_BASE_LO, 13, 19⟩
abbrev FLT_TLOG_BASE_HI_ADDR : Fld := ⟨.FLT_TLOG_BASE_HI, 0, 32⟩
abbrev FLT_TLOG_SLOTS_COUNT : Fld := ⟨.FLT_TLOG_SLOTS, 0, 8⟩
abbrev FLT_TLOG_NEXT_SLOT : Fld := ⟨.FLT_TLOG_NEXT, 0, 8⟩
abbrev FLT_DROSS_MADE_COUNT : Fld := ⟨.FLT_DROSS_MADE, 0, 32⟩
abbrev FLT_DROSS_PASSED_COUNT : Fld := ⟨.FLT_DROSS_PASSED, 0, 32⟩
abbrev FLT_JOB_ABORTS_COUNT : Fld := ⟨.FLT_JOB_ABORTS, 0, 32⟩
abbrev FLT_CE_STORE_COUNT : Fld := ⟨.FLT_CE_STORE, 0, 32⟩
abbrev FLT_UE_COUNT : Fld := ⟨.FLT_UE, 0, 32⟩
abbrev FLT_TRANSIENTS_COUNT : Fld := ⟨.FLT_TRANSIENTS, 0, 32⟩
abbrev FLT_REPEAT_FAILS_COUNT : Fld := ⟨.FLT_REPEAT_FAILS, 0, 32⟩
abbrev FLT_ASSAY_PASS_COUNT : Fld := ⟨.FLT_ASSAY_PASS, 0, 32⟩
abbrev FLT_ASSAY_FAIL_COUNT : Fld := ⟨.FLT_ASSAY_FAIL, 0, 32⟩
abbrev FLT_TITHES_COUNT : Fld := ⟨.FLT_TITHES, 0, 32⟩
abbrev FLT_OFFLINE_BINDS_COUNT : Fld := ⟨.FLT_OFFLINE_BINDS, 0, 32⟩
abbrev FLT_ASSAY_SET_GEN : Fld := ⟨.FLT_ASSAY_SET, 0, 16⟩
abbrev FLT_ASSAY_SET_COUNT : Fld := ⟨.FLT_ASSAY_SET, 16, 6⟩
abbrev MEM_STATUS_ADMITTED : Fld := ⟨.MEM_STATUS, 0, 6⟩
abbrev MEM_STATUS_WINDOW_OFF : Fld := ⟨.MEM_STATUS, 6, 1⟩
abbrev MEM_STATUS_OUT_CH : Fld := ⟨.MEM_STATUS, 8, 6⟩
abbrev MEM_STATUS_COPY : Fld := ⟨.MEM_STATUS, 14, 1⟩
abbrev MEM_STATUS_RETRAIN : Fld := ⟨.MEM_STATUS, 15, 1⟩
abbrev MEM_STATUS_RETRAIN_CH : Fld := ⟨.MEM_STATUS, 16, 6⟩
abbrev MEM_RATE_GBPS : Fld := ⟨.MEM_RATE, 0, 6⟩
abbrev MEM_CAPACITY_LO_BYTES : Fld := ⟨.MEM_CAPACITY_LO, 0, 32⟩
abbrev MEM_CAPACITY_HI_BYTES : Fld := ⟨.MEM_CAPACITY_HI, 0, 8⟩
abbrev MEM_SCRUB_RATE_RATE : Fld := ⟨.MEM_SCRUB_RATE, 0, 8⟩
abbrev MEM_SCRUB_PASS_COUNT : Fld := ⟨.MEM_SCRUB_PASS, 0, 32⟩
abbrev MEM_SCRUB_POS_ROW : Fld := ⟨.MEM_SCRUB_POS, 0, 25⟩
abbrev MEM_RETRAIN_THR_COUNT : Fld := ⟨.MEM_RETRAIN_THR, 0, 16⟩
abbrev MEM_RETRAIN_THR_HOLDOFF : Fld := ⟨.MEM_RETRAIN_THR, 16, 16⟩
abbrev MEM_REPLAY_MAX_TRIES : Fld := ⟨.MEM_REPLAY_MAX, 0, 3⟩
abbrev MEM_PAGE_CE_LIMIT_COUNT : Fld := ⟨.MEM_PAGE_CE_LIMIT, 0, 8⟩
abbrev MEM_CH_SEL_CHANNEL : Fld := ⟨.MEM_CH_SEL, 0, 6⟩
abbrev MEM_CH_STATE_STATE : Fld := ⟨.MEM_CH_STATE, 0, 3⟩
abbrev MEM_CH_STATE_HELD : Fld := ⟨.MEM_CH_STATE, 3, 1⟩
abbrev MEM_CH_STATE_OFFLINED : Fld := ⟨.MEM_CH_STATE, 8, 9⟩
abbrev MEM_CH_CE_COUNT : Fld := ⟨.MEM_CH_CE, 0, 32⟩
abbrev MEM_CH_UE_COUNT : Fld := ⟨.MEM_CH_UE, 0, 32⟩
abbrev MEM_CH_REPLAY_COUNT : Fld := ⟨.MEM_CH_REPLAY, 0, 32⟩
abbrev MEM_CH_RETRAINS_COUNT : Fld := ⟨.MEM_CH_RETRAINS, 0, 32⟩
abbrev MEM_CH_DEV_CE_COUNT : Fld := ⟨.MEM_CH_DEV_CE, 0, 32⟩
abbrev MEM_PAGE_PROP_SEL_SLOT : Fld := ⟨.MEM_PAGE_PROP_SEL, 0, 4⟩
abbrev MEM_PAGE_PROP_CHANNEL : Fld := ⟨.MEM_PAGE_PROP, 0, 6⟩
abbrev MEM_PAGE_PROP_VALID : Fld := ⟨.MEM_PAGE_PROP, 6, 1⟩
abbrev MEM_PAGE_PROP_PAGE : Fld := ⟨.MEM_PAGE_PROP, 8, 22⟩
abbrev MEM_PAGE_PROP_CAUSE : Fld := ⟨.MEM_PAGE_PROP, 30, 2⟩
abbrev MEM_PAGE_ACK_SLOT : Fld := ⟨.MEM_PAGE_ACK, 0, 4⟩
abbrev MEM_PAGE_ACK_ACCEPT : Fld := ⟨.MEM_PAGE_ACK, 4, 1⟩
abbrev MEM_PAGE_ACK_DECLINE : Fld := ⟨.MEM_PAGE_ACK, 5, 1⟩
abbrev MEM_PROP_DROP_COUNT : Fld := ⟨.MEM_PROP_DROP, 0, 32⟩
abbrev MEM_OFF_SEL_INDEX : Fld := ⟨.MEM_OFF_SEL, 0, 14⟩
abbrev MEM_OFF_ENTRY_CHANNEL : Fld := ⟨.MEM_OFF_ENTRY, 0, 6⟩
abbrev MEM_OFF_ENTRY_PAGE : Fld := ⟨.MEM_OFF_ENTRY, 8, 22⟩
abbrev MEM_OFF_ENTRY_VALID : Fld := ⟨.MEM_OFF_ENTRY, 30, 1⟩
abbrev MEM_OFF_COUNT_COUNT : Fld := ⟨.MEM_OFF_COUNT, 0, 14⟩
abbrev MEM_OFF_ACCESS_COUNT : Fld := ⟨.MEM_OFF_ACCESS, 0, 32⟩
abbrev MEM_WINDOW_ACCESS_COUNT : Fld := ⟨.MEM_WINDOW_ACCESS, 0, 32⟩
abbrev LNK_STATUS_ADMITTED : Fld := ⟨.LNK_STATUS, 0, 7⟩
abbrev LNK_STATUS_DOWNSHIFTED : Fld := ⟨.LNK_STATUS, 8, 7⟩
abbrev LNK_MODULE_ID : Fld := ⟨.LNK_MODULE, 0, 12⟩
abbrev LNK_SEL_LINK : Fld := ⟨.LNK_SEL, 0, 6⟩
abbrev LNK_LSTATE_STATE : Fld := ⟨.LNK_LSTATE, 0, 2⟩
abbrev LNK_LSTATE_LANES : Fld := ⟨.LNK_LSTATE, 2, 2⟩
abbrev LNK_LSTATE_PEER_VALID : Fld := ⟨.LNK_LSTATE, 4, 1⟩
abbrev LNK_LSTATE_PEER : Fld := ⟨.LNK_LSTATE, 8, 12⟩
abbrev LNK_DELAY_CYCLES : Fld := ⟨.LNK_DELAY, 0, 16⟩
abbrev LNK_REPLAYS_COUNT : Fld := ⟨.LNK_REPLAYS, 0, 32⟩
abbrev LNK_DROSS_FORM_COUNT : Fld := ⟨.LNK_DROSS_FORM, 0, 32⟩
abbrev LNK_FEC_CORR_COUNT : Fld := ⟨.LNK_FEC_CORR, 0, 32⟩
abbrev LNK_FEC_UNCORR_COUNT : Fld := ⟨.LNK_FEC_UNCORR, 0, 32⟩
abbrev LNK_TX_FLITS_COUNT : Fld := ⟨.LNK_TX_FLITS, 0, 32⟩
abbrev LNK_RX_FLITS_COUNT : Fld := ⟨.LNK_RX_FLITS, 0, 32⟩
abbrev LNK_ELIDED_COUNT : Fld := ⟨.LNK_ELIDED, 0, 32⟩
abbrev LNK_SCHED_HOLD_COUNT : Fld := ⟨.LNK_SCHED_HOLD, 0, 32⟩
abbrev LNK_NREADY_DROP_COUNT : Fld := ⟨.LNK_NREADY_DROP, 0, 32⟩
abbrev LNK_RETRAINS_COUNT : Fld := ⟨.LNK_RETRAINS, 0, 32⟩
abbrev LNK_REROUTED_COUNT : Fld := ⟨.LNK_REROUTED, 0, 32⟩
abbrev LNK_RETRAIN_THR_COUNT : Fld := ⟨.LNK_RETRAIN_THR, 0, 16⟩
abbrev LNK_RETRY_MS : Fld := ⟨.LNK_RETRY, 0, 16⟩
abbrev LNK_COLL_LIMIT_BEATS : Fld := ⟨.LNK_COLL_LIMIT, 0, 8⟩
abbrev LNK_COLL_LIMIT_UNREACH_LIMIT : Fld := ⟨.LNK_COLL_LIMIT, 8, 8⟩
abbrev LNK_CTL_ELIDE : Fld := ⟨.LNK_CTL, 0, 1⟩
abbrev LNK_CTL_REROUTE : Fld := ⟨.LNK_CTL, 1, 1⟩
abbrev LNK_GROUP_BASE_LO_BASE : Fld := ⟨.LNK_GROUP_BASE_LO, 20, 12⟩
abbrev LNK_GROUP_BASE_HI_BASE : Fld := ⟨.LNK_GROUP_BASE_HI, 0, 8⟩
abbrev LNK_GROUP_COUNT_COUNT : Fld := ⟨.LNK_GROUP_COUNT, 0, 13⟩
abbrev LNK_RT_SEL_MODULE : Fld := ⟨.LNK_RT_SEL, 0, 12⟩
abbrev LNK_RT_MASK_LO_LINKS : Fld := ⟨.LNK_RT_MASK_LO, 0, 32⟩
abbrev LNK_RT_MASK_HI_LINKS : Fld := ⟨.LNK_RT_MASK_HI, 0, 32⟩
abbrev LNK_RT_ALT_LO_LINKS : Fld := ⟨.LNK_RT_ALT_LO, 0, 32⟩
abbrev LNK_RT_ALT_HI_LINKS : Fld := ⟨.LNK_RT_ALT_HI, 0, 32⟩
abbrev LNK_UNREACH_COUNT : Fld := ⟨.LNK_UNREACH, 0, 32⟩
abbrev LNK_REFUSED_COUNT : Fld := ⟨.LNK_REFUSED, 0, 32⟩
abbrev TWIN_STATUS_STATE : Fld := ⟨.TWIN_STATUS, 0, 3⟩
abbrev TWIN_STATUS_LIVE : Fld := ⟨.TWIN_STATUS, 3, 1⟩
abbrev TWIN_STATUS_TWPOS : Fld := ⟨.TWIN_STATUS, 4, 2⟩
abbrev TWIN_STATUS_TWIN : Fld := ⟨.TWIN_STATUS, 8, 12⟩
abbrev TWIN_STATUS_LINKS_UP : Fld := ⟨.TWIN_STATUS, 20, 4⟩
abbrev TWIN_CTL_ATTACH : Fld := ⟨.TWIN_CTL, 0, 1⟩
abbrev TWIN_CTL_RESEED : Fld := ⟨.TWIN_CTL, 1, 1⟩
abbrev TWIN_CTL_DETACH : Fld := ⟨.TWIN_CTL, 2, 1⟩
abbrev TWIN_LINKS_LO_LINKS : Fld := ⟨.TWIN_LINKS_LO, 0, 32⟩
abbrev TWIN_LINKS_HI_LINKS : Fld := ⟨.TWIN_LINKS_HI, 0, 32⟩
abbrev TWIN_MAN_BASE_LO_BASE : Fld := ⟨.TWIN_MAN_BASE_LO, 12, 20⟩
abbrev TWIN_MAN_BASE_HI_BASE : Fld := ⟨.TWIN_MAN_BASE_HI, 0, 8⟩
abbrev TWIN_MAN_COUNT_COUNT : Fld := ⟨.TWIN_MAN_COUNT, 0, 9⟩
abbrev TWIN_JOIN_JOB_JOB : Fld := ⟨.TWIN_JOIN_JOB, 0, 12⟩
abbrev TWIN_JOIN_STEP_LO_STEP : Fld := ⟨.TWIN_JOIN_STEP_LO, 0, 32⟩
abbrev TWIN_JOIN_STEP_HI_STEP : Fld := ⟨.TWIN_JOIN_STEP_HI, 0, 32⟩
abbrev TWIN_SEED_POS_LO_BYTES : Fld := ⟨.TWIN_SEED_POS_LO, 0, 32⟩
abbrev TWIN_SEED_POS_HI_BYTES : Fld := ⟨.TWIN_SEED_POS_HI, 0, 8⟩
abbrev TWIN_LOSS_BEATS : Fld := ⟨.TWIN_LOSS, 0, 8⟩
abbrev TWIN_DIVERGED_COUNT : Fld := ⟨.TWIN_DIVERGED, 0, 32⟩
abbrev TWIN_UNCHECKED_COUNT : Fld := ⟨.TWIN_UNCHECKED, 0, 32⟩
abbrev TWIN_MIRRORED_COUNT : Fld := ⟨.TWIN_MIRRORED, 0, 32⟩
abbrev ID_VENDOR_VENDOR : Fld := ⟨.ID_VENDOR, 0, 16⟩
abbrev ID_VENDOR_DEVICE : Fld := ⟨.ID_VENDOR, 16, 16⟩
abbrev ID_REVISION_STEPPING : Fld := ⟨.ID_REVISION, 0, 8⟩
abbrev ID_REVISION_BOARD : Fld := ⟨.ID_REVISION, 8, 8⟩
abbrev ID_SERIAL_LO_ID : Fld := ⟨.ID_SERIAL_LO, 0, 32⟩
abbrev ID_SERIAL_HI_ID : Fld := ⟨.ID_SERIAL_HI, 0, 32⟩
abbrev ID_FUSE_GOOD_TILES : Fld := ⟨.ID_FUSE, 0, 10⟩
abbrev ID_FUSE_REPAIRED : Fld := ⟨.ID_FUSE, 10, 10⟩
abbrev ID_FUSE_SIGNERS : Fld := ⟨.ID_FUSE, 20, 4⟩
abbrev ID_FUSE_REVOKED : Fld := ⟨.ID_FUSE, 24, 4⟩
abbrev ID_SERVICE_LEVEL : Fld := ⟨.ID_SERVICE, 0, 2⟩
abbrev HIF_LINK_SPEED : Fld := ⟨.HIF_LINK, 0, 3⟩
abbrev HIF_LINK_WIDTH : Fld := ⟨.HIF_LINK, 3, 5⟩
abbrev HIF_LINK_FLIT : Fld := ⟨.HIF_LINK, 8, 1⟩
abbrev HIF_BAR4_SIZE_LOG2 : Fld := ⟨.HIF_BAR4_SIZE, 0, 6⟩
abbrev HIF_BAR4_BASE_LO_BASE : Fld := ⟨.HIF_BAR4_BASE_LO, 30, 2⟩
abbrev HIF_BAR4_BASE_HI_BASE : Fld := ⟨.HIF_BAR4_BASE_HI, 0, 8⟩
abbrev HIF_EVT_BASE_LO_ADDR : Fld := ⟨.HIF_EVT_BASE_LO, 12, 20⟩
abbrev HIF_EVT_BASE_HI_ADDR : Fld := ⟨.HIF_EVT_BASE_HI, 0, 32⟩
abbrev HIF_EVT_CTL_EN : Fld := ⟨.HIF_EVT_CTL, 0, 1⟩
abbrev HIF_EVT_CTL_LOG2 : Fld := ⟨.HIF_EVT_CTL, 4, 5⟩
abbrev HIF_EVT_PROD_COUNT : Fld := ⟨.HIF_EVT_PROD, 0, 32⟩
abbrev HIF_EVT_CONS_COUNT : Fld := ⟨.HIF_EVT_CONS, 0, 32⟩
abbrev HIF_EVT_MOD_COUNT : Fld := ⟨.HIF_EVT_MOD, 0, 8⟩
abbrev HIF_EVT_MOD_TIME : Fld := ⟨.HIF_EVT_MOD, 8, 16⟩
abbrev HIF_EVT_HELD_COUNT : Fld := ⟨.HIF_EVT_HELD, 0, 9⟩
abbrev HIF_EVT_LOST_COUNT : Fld := ⟨.HIF_EVT_LOST, 0, 32⟩
abbrev HIF_UNMAPPED_COUNT : Fld := ⟨.HIF_UNMAPPED, 0, 32⟩
abbrev HIF_POISON_RX_COUNT : Fld := ⟨.HIF_POISON_RX, 0, 32⟩
abbrev HIF_POISON_TX_COUNT : Fld := ⟨.HIF_POISON_TX, 0, 32⟩
abbrev HIF_BAD_ACCESS_COUNT : Fld := ⟨.HIF_BAD_ACCESS, 0, 32⟩
abbrev HIF_EVT_VEC_VECTOR : Fld := ⟨.HIF_EVT_VEC, 0, 11⟩
abbrev HIF_MODULE_RESET_GO : Fld := ⟨.HIF_MODULE_RESET, 0, 1⟩
abbrev HIF_MODULE_RESET_KEY : Fld := ⟨.HIF_MODULE_RESET, 16, 16⟩
abbrev HIF_COPY_SEL_QUEUE : Fld := ⟨.HIF_COPY_SEL, 0, 2⟩
abbrev HIF_COPY_BASE_LO_ADDR : Fld := ⟨.HIF_COPY_BASE_LO, 12, 20⟩
abbrev HIF_COPY_BASE_HI_ADDR : Fld := ⟨.HIF_COPY_BASE_HI, 0, 32⟩
abbrev HIF_COPY_CFG_LOG2 : Fld := ⟨.HIF_COPY_CFG, 0, 4⟩
abbrev HIF_COPY_CFG_VECTOR : Fld := ⟨.HIF_COPY_CFG, 16, 11⟩
abbrev HIF_COPY_CTL_EN : Fld := ⟨.HIF_COPY_CTL, 0, 1⟩
abbrev HIF_COPY_CTL_HALTED : Fld := ⟨.HIF_COPY_CTL, 1, 1⟩
abbrev HIF_COPY_CTL_RESUME : Fld := ⟨.HIF_COPY_CTL, 2, 1⟩
abbrev HIF_COPY_CTL_REASON : Fld := ⟨.HIF_COPY_CTL, 4, 4⟩
abbrev HIF_COPY_TAIL_COUNT : Fld := ⟨.HIF_COPY_TAIL, 0, 32⟩
abbrev HIF_COPY_HEAD_COUNT : Fld := ⟨.HIF_COPY_HEAD, 0, 32⟩
abbrev PAT_STATUS_IMAGE_VALID : Fld := ⟨.PAT_STATUS, 0, 1⟩
abbrev PAT_STATUS_CERT_VALID : Fld := ⟨.PAT_STATUS, 1, 1⟩
abbrev PAT_STATUS_FLEET : Fld := ⟨.PAT_STATUS, 2, 1⟩
abbrev PAT_STATUS_BUSY : Fld := ⟨.PAT_STATUS, 3, 1⟩
abbrev PAT_STATUS_LOCKED : Fld := ⟨.PAT_STATUS, 4, 1⟩
abbrev PAT_STATUS_SLOT : Fld := ⟨.PAT_STATUS, 5, 2⟩
abbrev PAT_IMAGE_SVN_SVN : Fld := ⟨.PAT_IMAGE_SVN, 0, 32⟩
abbrev PAT_IMAGE_GEN_GEN : Fld := ⟨.PAT_IMAGE_GEN, 0, 32⟩
abbrev PAT_IMAGE_DIGEST_DIGEST : Fld := ⟨.PAT_IMAGE_DIGEST, 0, 32⟩
abbrev PAT_STAGE_BASE_LO_BASE : Fld := ⟨.PAT_STAGE_BASE_LO, 16, 16⟩
abbrev PAT_STAGE_BASE_HI_BASE : Fld := ⟨.PAT_STAGE_BASE_HI, 0, 8⟩
abbrev PAT_FLASH_OP : Fld := ⟨.PAT_FLASH, 0, 3⟩
abbrev PAT_FLASH_KEEP_CERT : Fld := ⟨.PAT_FLASH, 3, 1⟩
abbrev PAT_FLASH_GO : Fld := ⟨.PAT_FLASH, 31, 1⟩
abbrev PAT_RECAST_SECTION : Fld := ⟨.PAT_RECAST, 0, 4⟩
abbrev PAT_RECAST_SOURCE : Fld := ⟨.PAT_RECAST, 4, 2⟩
abbrev PAT_RECAST_GO : Fld := ⟨.PAT_RECAST, 31, 1⟩
abbrev PAT_RESULT_CODE : Fld := ⟨.PAT_RESULT, 0, 4⟩
abbrev PAT_RESULT_REASON : Fld := ⟨.PAT_RESULT, 4, 4⟩
abbrev PAT_RESULT_OFFSET : Fld := ⟨.PAT_RESULT, 8, 24⟩
abbrev PAT_FLASH_ADDR_ADDR : Fld := ⟨.PAT_FLASH_ADDR, 0, 27⟩
abbrev PAT_FLASH_LEN_BYTES : Fld := ⟨.PAT_FLASH_LEN, 0, 25⟩
abbrev PAT_PROGRESS_BYTES : Fld := ⟨.PAT_PROGRESS, 0, 25⟩
abbrev PAT_LOG_MASK_RANGES : Fld := ⟨.PAT_LOG_MASK, 0, 16⟩
abbrev PAT_LOG_SEQ_SEQ : Fld := ⟨.PAT_LOG_SEQ, 0, 32⟩
abbrev PAT_LOG_LOST_COUNT : Fld := ⟨.PAT_LOG_LOST, 0, 32⟩
abbrev PAT_STAGE_DROP_COUNT : Fld := ⟨.PAT_STAGE_DROP, 0, 32⟩
abbrev SEC_STATUS_PROGRAMMED : Fld := ⟨.SEC_STATUS, 0, 4⟩
abbrev SEC_STATUS_REVOKED : Fld := ⟨.SEC_STATUS, 4, 4⟩
abbrev SEC_STATUS_FLOOR : Fld := ⟨.SEC_STATUS, 8, 7⟩
abbrev SEC_DEVICE_ID_ID : Fld := ⟨.SEC_DEVICE_ID, 0, 32⟩
abbrev SEC_OP_OP : Fld := ⟨.SEC_OP, 0, 3⟩
abbrev SEC_OP_SLOT : Fld := ⟨.SEC_OP, 4, 2⟩
abbrev SEC_OP_GO : Fld := ⟨.SEC_OP, 31, 1⟩
abbrev SEC_RESULT_CODE : Fld := ⟨.SEC_RESULT, 0, 4⟩
abbrev SEC_RESULT_BUSY : Fld := ⟨.SEC_RESULT, 16, 1⟩
abbrev SEC_SLOT_SEL_SLOT : Fld := ⟨.SEC_SLOT_SEL, 0, 2⟩
abbrev SEC_SLOT_DIGEST_DIGEST : Fld := ⟨.SEC_SLOT_DIGEST, 0, 32⟩
abbrev SEC_ATTESTS_COUNT : Fld := ⟨.SEC_ATTESTS, 0, 32⟩
abbrev ID_BOOT_TILES_DONE : Fld := ⟨.ID_BOOT, 0, 1⟩
abbrev ID_BOOT_MEM_DONE : Fld := ⟨.ID_BOOT, 1, 1⟩
abbrev ID_BOOT_LINKS_DONE : Fld := ⟨.ID_BOOT, 2, 1⟩
abbrev ID_BOOT_READY : Fld := ⟨.ID_BOOT, 3, 1⟩
abbrev ID_BOOT_JOINED : Fld := ⟨.ID_BOOT, 4, 1⟩
abbrev ID_BOOT_ALONE : Fld := ⟨.ID_BOOT, 5, 1⟩
abbrev ID_BOOT_TILE_WAVES : Fld := ⟨.ID_BOOT, 8, 4⟩
abbrev ID_BOOT_MEM_WAVES : Fld := ⟨.ID_BOOT, 12, 3⟩
abbrev ID_BOOT_LINK_GROUPS : Fld := ⟨.ID_BOOT, 16, 4⟩
abbrev ID_BOOT_MS_READY_MS : Fld := ⟨.ID_BOOT_MS, 0, 16⟩
abbrev ID_BOOT_MS_FULL_MS : Fld := ⟨.ID_BOOT_MS, 16, 16⟩
abbrev ID_RESET_CAUSE_CAUSE : Fld := ⟨.ID_RESET_CAUSE, 0, 2⟩
abbrev SB_IDENT_VENDOR : Fld := ⟨.SB_IDENT, 0, 16⟩
abbrev SB_IDENT_DEVICE : Fld := ⟨.SB_IDENT, 16, 16⟩
abbrev SB_SERIAL_LO_ID : Fld := ⟨.SB_SERIAL_LO, 0, 32⟩
abbrev SB_SERIAL_HI_ID : Fld := ⟨.SB_SERIAL_HI, 0, 32⟩
abbrev SB_STATE_LEVEL : Fld := ⟨.SB_STATE, 0, 2⟩
abbrev SB_STATE_UP : Fld := ⟨.SB_STATE, 2, 1⟩
abbrev SB_STATE_STOPPED : Fld := ⟨.SB_STATE, 3, 1⟩
abbrev SB_STATE_LAST_STOP : Fld := ⟨.SB_STATE, 8, 4⟩
abbrev SB_TEMP_DIE_MAX : Fld := ⟨.SB_TEMP_DIE, 0, 16⟩
abbrev SB_TEMP_DIE_DIE : Fld := ⟨.SB_TEMP_DIE, 16, 4⟩
abbrev SB_TEMP_MEM_MAX : Fld := ⟨.SB_TEMP_MEM, 0, 16⟩
abbrev SB_TEMP_MEM_GROUP : Fld := ⟨.SB_TEMP_MEM, 16, 4⟩
abbrev SB_TEMP_COOLANT_INLET : Fld := ⟨.SB_TEMP_COOLANT, 0, 16⟩
abbrev SB_TEMP_COOLANT_OUTLET : Fld := ⟨.SB_TEMP_COOLANT, 16, 16⟩
abbrev SB_VIN_MV : Fld := ⟨.SB_VIN, 0, 16⟩
abbrev SB_VIN_CURRENT : Fld := ⟨.SB_VIN, 16, 16⟩
abbrev SB_PIN_LAST : Fld := ⟨.SB_PIN, 0, 16⟩
abbrev SB_PIN_SECOND : Fld := ⟨.SB_PIN, 16, 16⟩
abbrev SB_RAIL_SEL_RAIL : Fld := ⟨.SB_RAIL_SEL, 0, 4⟩
abbrev SB_RAIL_MV : Fld := ⟨.SB_RAIL, 0, 16⟩
abbrev SB_RAIL_CURRENT : Fld := ⟨.SB_RAIL, 16, 16⟩
abbrev SB_CAP_WATTS : Fld := ⟨.SB_CAP, 0, 13⟩
abbrev SB_ALERT_STATUS_THROTTLE : Fld := ⟨.SB_ALERT_STATUS, 0, 1⟩
abbrev SB_ALERT_STATUS_HOT : Fld := ⟨.SB_ALERT_STATUS, 1, 1⟩
abbrev SB_ALERT_STATUS_VIN_LOW : Fld := ⟨.SB_ALERT_STATUS, 2, 1⟩
abbrev SB_ALERT_STATUS_OVER_CAP : Fld := ⟨.SB_ALERT_STATUS, 3, 1⟩
abbrev SB_ALERT_STATUS_LEVEL : Fld := ⟨.SB_ALERT_STATUS, 4, 1⟩
abbrev SB_ALERT_STATUS_STOP : Fld := ⟨.SB_ALERT_STATUS, 5, 1⟩
abbrev SB_ALERT_STATUS_RESTART_REFUSED : Fld := ⟨.SB_ALERT_STATUS, 6, 1⟩
abbrev SB_ALERT_MASK_MASK : Fld := ⟨.SB_ALERT_MASK, 0, 7⟩
abbrev SB_CONTROL_RESTART : Fld := ⟨.SB_CONTROL, 0, 1⟩
abbrev SB_CONTROL_MODULE_RESET : Fld := ⟨.SB_CONTROL, 1, 1⟩
abbrev SB_CONTROL_KEY : Fld := ⟨.SB_CONTROL, 16, 16⟩
abbrev SB_STOPS_THERMAL : Fld := ⟨.SB_STOPS, 0, 16⟩
abbrev SB_STOPS_CLOCK : Fld := ⟨.SB_STOPS, 16, 16⟩
abbrev PWR_CAP_WATTS : Fld := ⟨.PWR_CAP, 0, 13⟩
abbrev PWR_STATUS_DUTY : Fld := ⟨.PWR_STATUS, 0, 9⟩
abbrev PWR_STATUS_GATING : Fld := ⟨.PWR_STATUS, 9, 1⟩
abbrev PWR_STATUS_THERMAL : Fld := ⟨.PWR_STATUS, 10, 1⟩
abbrev PWR_STATUS_FLOOR : Fld := ⟨.PWR_STATUS, 11, 1⟩
abbrev PWR_INPUT_POWER : Fld := ⟨.PWR_INPUT, 0, 13⟩
abbrev PWR_INPUT_VOLTAGE : Fld := ⟨.PWR_INPUT, 16, 16⟩
abbrev PWR_CURRENT_CURRENT : Fld := ⟨.PWR_CURRENT, 0, 16⟩
abbrev PWR_TCAP_WATTS : Fld := ⟨.PWR_TCAP, 0, 13⟩
abbrev PWR_DUTY_MIN_DUTY : Fld := ⟨.PWR_DUTY_MIN, 0, 9⟩
abbrev PWR_TEMP_MAX_TEMP : Fld := ⟨.PWR_TEMP_MAX, 0, 16⟩
abbrev PWR_TEMP_MAX_DIE : Fld := ⟨.PWR_TEMP_MAX, 16, 4⟩
abbrev PWR_GATED_MS_COUNT : Fld := ⟨.PWR_GATED_MS, 0, 32⟩
abbrev PWR_THROTTLE_MS_COUNT : Fld := ⟨.PWR_THROTTLE_MS, 0, 32⟩
abbrev PWR_ENERGY_LO_MJ : Fld := ⟨.PWR_ENERGY_LO, 0, 32⟩
abbrev PWR_ENERGY_HI_MJ : Fld := ⟨.PWR_ENERGY_HI, 0, 32⟩
abbrev TILE_RTR_OPEN_FLITS_COUNT : Fld := ⟨.TILE_RTR_OPEN_FLITS, 0, 32⟩
abbrev TILE_RTR_OPEN_WAIT_CYCLES : Fld := ⟨.TILE_RTR_OPEN_WAIT, 0, 32⟩
abbrev TILE_RTR_SCHED_FLITS_COUNT : Fld := ⟨.TILE_RTR_SCHED_FLITS, 0, 32⟩
abbrev TST_PERMIT_ALLOW : Fld := ⟨.TST_PERMIT, 0, 1⟩
abbrev TST_ARM_ARM : Fld := ⟨.TST_ARM, 0, 1⟩
abbrev TST_ARM_DISARM : Fld := ⟨.TST_ARM, 1, 1⟩
abbrev TST_ARM_ARMED : Fld := ⟨.TST_ARM, 2, 1⟩
abbrev TST_ARM_PENDING : Fld := ⟨.TST_ARM, 3, 1⟩
abbrev TST_ARM_KEY : Fld := ⟨.TST_ARM, 16, 16⟩
abbrev TST_PERT_SEL_UNIT : Fld := ⟨.TST_PERT_SEL, 0, 3⟩
abbrev TST_PERT_CTL_EN : Fld := ⟨.TST_PERT_CTL, 0, 1⟩
abbrev TST_PERT_CTL_KIND : Fld := ⟨.TST_PERT_CTL, 1, 3⟩
abbrev TST_PERT_CTL_INDEX : Fld := ⟨.TST_PERT_CTL, 4, 10⟩
abbrev TST_PERT_CTL_ALL : Fld := ⟨.TST_PERT_CTL, 14, 1⟩
abbrev TST_PERT_CTL_PROB : Fld := ⟨.TST_PERT_CTL, 16, 8⟩
abbrev TST_PERT_AMT_CYCLES : Fld := ⟨.TST_PERT_AMT, 0, 16⟩
abbrev TST_PERT_SEED_LO_SEED : Fld := ⟨.TST_PERT_SEED_LO, 0, 32⟩
abbrev TST_PERT_SEED_HI_SEED : Fld := ⟨.TST_PERT_SEED_HI, 0, 32⟩
abbrev TST_PERT_HITS_COUNT : Fld := ⟨.TST_PERT_HITS, 0, 32⟩
abbrev TST_INJ_CTL_KIND : Fld := ⟨.TST_INJ_CTL, 0, 3⟩
abbrev TST_INJ_CTL_GO : Fld := ⟨.TST_INJ_CTL, 3, 1⟩
abbrev TST_INJ_CTL_RESULT : Fld := ⟨.TST_INJ_CTL, 4, 3⟩
abbrev TST_INJ_CTL_INDEX : Fld := ⟨.TST_INJ_CTL, 8, 10⟩
abbrev TST_INJ_CTL_LOOM : Fld := ⟨.TST_INJ_CTL, 18, 1⟩
abbrev TST_INJ_CTL_COUNT : Fld := ⟨.TST_INJ_CTL, 20, 4⟩
abbrev TST_INJ_CTL_PART : Fld := ⟨.TST_INJ_CTL, 24, 3⟩
abbrev TST_INJ_ADDR_LO_ADDR : Fld := ⟨.TST_INJ_ADDR_LO, 3, 29⟩
abbrev TST_INJ_ADDR_HI_ADDR : Fld := ⟨.TST_INJ_ADDR_HI, 0, 8⟩
abbrev TST_INJ_MASK_LO_MASK : Fld := ⟨.TST_INJ_MASK_LO, 0, 32⟩
abbrev TST_INJ_MASK_HI_MASK : Fld := ⟨.TST_INJ_MASK_HI, 0, 32⟩
abbrev TST_INJ_CHECK_MASK : Fld := ⟨.TST_INJ_CHECK, 0, 8⟩
abbrev TST_INJ_DONE_COUNT : Fld := ⟨.TST_INJ_DONE, 0, 32⟩
abbrev DBG_TRACE_BASE_LO_ADDR : Fld := ⟨.DBG_TRACE_BASE_LO, 12, 20⟩
abbrev DBG_TRACE_BASE_HI_ADDR : Fld := ⟨.DBG_TRACE_BASE_HI, 0, 8⟩
abbrev DBG_TRACE_CTL_EN : Fld := ⟨.DBG_TRACE_CTL, 0, 1⟩
abbrev DBG_TRACE_CTL_WRAP : Fld := ⟨.DBG_TRACE_CTL, 1, 1⟩
abbrev DBG_TRACE_CTL_START_BP : Fld := ⟨.DBG_TRACE_CTL, 2, 1⟩
abbrev DBG_TRACE_CTL_STOP_BP : Fld := ⟨.DBG_TRACE_CTL, 3, 1⟩
abbrev DBG_TRACE_CTL_SRC_MARK : Fld := ⟨.DBG_TRACE_CTL, 4, 1⟩
abbrev DBG_TRACE_CTL_SRC_EVENT : Fld := ⟨.DBG_TRACE_CTL, 5, 1⟩
abbrev DBG_TRACE_CTL_SRC_CMD : Fld := ⟨.DBG_TRACE_CTL, 6, 1⟩
abbrev DBG_TRACE_CTL_SRC_EDGE : Fld := ⟨.DBG_TRACE_CTL, 7, 1⟩
abbrev DBG_TRACE_CTL_LOG2 : Fld := ⟨.DBG_TRACE_CTL, 8, 5⟩
abbrev DBG_TRACE_CTL_FULL : Fld := ⟨.DBG_TRACE_CTL, 13, 1⟩
abbrev DBG_TRACE_CTL_RUNNING : Fld := ⟨.DBG_TRACE_CTL, 14, 1⟩
abbrev DBG_TRACE_CTL_STREAM : Fld := ⟨.DBG_TRACE_CTL, 16, 16⟩
abbrev DBG_TRACE_COUNT_COUNT : Fld := ⟨.DBG_TRACE_COUNT, 0, 32⟩
abbrev DBG_TRACE_LOST_COUNT : Fld := ⟨.DBG_TRACE_LOST, 0, 32⟩
abbrev DBG_PC_CTL_RUN : Fld := ⟨.DBG_PC_CTL, 0, 1⟩
abbrev DBG_PC_CTL_CLEAR : Fld := ⟨.DBG_PC_CTL, 1, 1⟩
abbrev DBG_PC_SEL_COUNTER : Fld := ⟨.DBG_PC_SEL, 0, 3⟩
abbrev DBG_PC_CFG_EVENT : Fld := ⟨.DBG_PC_CFG, 0, 6⟩
abbrev DBG_PC_CFG_TILE_EN : Fld := ⟨.DBG_PC_CFG, 6, 1⟩
abbrev DBG_PC_CFG_TILE : Fld := ⟨.DBG_PC_CFG, 7, 9⟩
abbrev DBG_PC_CFG_STREAM_EN : Fld := ⟨.DBG_PC_CFG, 16, 1⟩
abbrev DBG_PC_STREAM_STREAM : Fld := ⟨.DBG_PC_STREAM, 0, 16⟩
abbrev DBG_PC_VAL_LO_COUNT : Fld := ⟨.DBG_PC_VAL_LO, 0, 32⟩
abbrev DBG_PC_VAL_HI_COUNT : Fld := ⟨.DBG_PC_VAL_HI, 0, 32⟩
abbrev ID_TILE_MAP_SEL_TILE : Fld := ⟨.ID_TILE_MAP_SEL, 0, 9⟩
abbrev ID_TILE_MAP_DIE : Fld := ⟨.ID_TILE_MAP, 0, 3⟩
abbrev ID_TILE_MAP_COL : Fld := ⟨.ID_TILE_MAP, 3, 4⟩
abbrev ID_TILE_MAP_ROW : Fld := ⟨.ID_TILE_MAP, 7, 3⟩
abbrev ID_TILE_MAP_OFFLINE : Fld := ⟨.ID_TILE_MAP, 10, 1⟩

end Sys2Proof.Machine.F
end

