-- ==== Sys2Proof/Machine/Hsiao.lean ====
section
/-!
DEFINITION. The one (72,64) Hsiao SEC-DED code of the data path (R300), the syndromes and what a consumer reads from them
(R301).
-/
namespace Sys2Proof.Machine

/-- R300: the columns of data bits 0 to 63: the 56 byte values of weight three in ascending order, then the eight of
weight five that the rule lists. -/
def hsiaoDataColumns : List Nat :=
  (List.range 256).filter (fun v => popCount 8 v == 3) ++ [0x1F, 0x2F, 0x37, 0x3B, 0x3D, 0x3E, 0x4F, 0x57]

/-- R300: the check byte of a 64-bit word, the XOR of the columns of the data bits that are set. -/
def checkByte (w : Nat) : Nat :=
  ((List.range 64).zip hsiaoDataColumns).foldl (fun c p => if bit w p.1 then c ^^^ p.2 else c) 0

/-- R301: the meaning of a syndrome. -/
inductive Syndrome where
  | clean
  | dataBit (i : Nat)
  | checkBit (j : Nat)
  | dross
  | uncorrectable
  deriving DecidableEq, Repr

/-- R301: reads a syndrome. -/
def readSyndrome (e : Nat) : Syndrome :=
  if e = 0 then .clean
  else if e = 0xFF then .dross
  else match hsiaoDataColumns.findIdx? (· = e) with
    | some i => .dataBit i
    | none =>
      match (List.range 8).find? (fun j => (1 <<< j) = e) with
      | some j => .checkBit j
      | none => .uncorrectable

/-- Whether a syndrome is one of the 72 columns: a single-bit error (R301). -/
def Syndrome.single : Syndrome → Bool
  | .dataBit _ => true
  | .checkBit _ => true
  | _ => false

/-- R340: the GDDR7 device that carries the bit of a single-bit syndrome: Dk for byte k of the word, D8 for the check
byte. -/
def Syndrome.device : Syndrome → Nat
  | .dataBit i => i / 8
  | _ => 8

/-- R301: the word a consumer uses. -/
def correctedWord (w : Nat) : Syndrome → Nat
  | .dataBit i => w ^^^ (1 <<< i)
  | _ => w

end Sys2Proof.Machine
end

