-- ==== Sys2Proof/Machine/Sparse.lean ====
section
/-!
DEFINITION. Sparse data by key: memory bytes, registers, per-unit records.  A list of (key, value) pairs in one canonical
form: keys strictly rising, and no entry equal to what an unlisted key reads as.  Equal maps are equal lists.
-/
namespace Sys2Proof.Machine

/-- A sparse map. -/
abbrev Sparse (α : Type) := List (Nat × α)

namespace Sparse

variable {α : Type}

/-- The entry of a key, if one is listed. -/
def find? : Sparse α → Nat → Option α
  | [], _ => none
  | (k, v) :: m, a => if k = a then some v else find? m a

/-- What a key reads as: its entry, or d where none is listed. -/
def get (d : α) (m : Sparse α) (a : Nat) : α := (find? m a).getD d

/-- Removes a key. -/
def erase : Sparse α → Nat → Sparse α
  | [], _ => []
  | (k, v) :: m, a => if k = a then erase m a else (k, v) :: erase m a

/-- Lists a key with a value, whatever the value is. -/
def set : Sparse α → Nat → α → Sparse α
  | [], a, x => [(a, x)]
  | (k, v) :: m, a, x =>
    if k = a then (a, x) :: m else if a < k then (a, x) :: (k, v) :: m else (k, v) :: set m a x

/-- Writes a key of a map whose unlisted keys read as d: writing d removes the entry. -/
def put [DecidableEq α] (d : α) (m : Sparse α) (a : Nat) (x : α) : Sparse α :=
  if x = d then erase m a else set m a x

/-- Changes every listed value. -/
def mapVals (m : Sparse α) (f : Nat → α → α) : Sparse α := List.map (fun (e : Nat × α) => (e.1, f e.1 e.2)) m

/-- Keys rise strictly, and lie above the bound given. -/
def sorted : Option Nat → Sparse α → Bool
  | _, [] => true
  | none, (k, _) :: m => sorted (some k) m
  | some b, (k, _) :: m => decide (b < k) && sorted (some k) m

/-- The canonical form: keys strictly rising, no entry equal to what the unlisted key reads as. -/
def wf [DecidableEq α] (d : Nat → α) (m : Sparse α) : Bool :=
  sorted none m && m.all (fun e => decide (e.2 ≠ d e.1))

end Sparse

end Sys2Proof.Machine
end

