-- ==== Sys2Proof/Machine/State.lean ====
section
/-!
DEFINITION. Everything the spec gives the Totha to hold, as plain data, and the machine at reset.  Data that is held by
number (tiles, streams, layers, links …) is a sparse map: an unlisted number reads as its unit's value at reset.
-/
namespace Sys2Proof.Machine

/-- The reasons a step may stop in a fault.  No meaning of this model faults: the constructor stands for a fault of
a unit the module does not have, which no command can name (safe). -/
inductive Fault where
  /-- Raised by no meaning (safe). -/
  | noSuchUnit
  deriving DecidableEq, Repr

/-- The reasons a step may refuse a command.  `notModelled` is raised by the dispatcher for a row that has no meaning
yet, by its mnemonic (safe: nothing can be proved of a run that stops). -/
inductive Refusal where
  /-- Raised by the dispatcher alone, for a row without a meaning; there is none (safe). -/
  | notModelled (mnemonic : String)
  deriving DecidableEq, Repr

/-! ### Memory -/

/-- Device memory (R218).  Keys of `cells` are local GDDR7 addresses, and, for a tile store, 0x80_0000_0000 +
physical tile × 0x40_0000 + store offset; an unlisted byte reads 0, or a free byte in a stretch of `free`.  Keys of `syn` are the same addresses divided by 8:
the check byte stored for that 64-bit word XOR the one computed from its data (R301); unlisted: 0, no error. -/
structure Mem where
  cells : List Host.Cell
  syn : Sparse (BitVec 8)
  /-- Stretches whose contents the spec leaves open (R55, R350), newest first: first key, last key, number of the draw.  An
  unlisted byte of one is the free byte of its draw. -/
  free : List (Nat × Nat × Nat)
  deriving DecidableEq, Repr

/-! ### Events, host side -/

/-- An event as raised (R417). -/
structure EventRec where
  code : Nat
  arg0 : Nat
  arg1 : Nat
  job : Option Nat
  stream : Option Nat
  kind : Nat
  unit : Nat
  beat : Nat
  cycle : Nat
  early : Bool
  deriving DecidableEq, Repr

/-- What the host receives for a read, an AtomicOp or a configuration request: the data, the poisoned attribute (R309)
and the completion status: 0 successful, 1 Unsupported Request (R414), 2 Configuration Request Retry Status (R407). -/
structure Response where
  data : List Byte
  poisoned : Bool
  status : Nat
  deriving DecidableEq, Repr

/-- One copy queue's descriptor in progress (R421, R422). -/
structure CopyJob where
  host : Nat
  dev : Nat
  len : Nat
  toHost : Bool
  notify : Bool
  setsel : Nat
  tag : Nat
  failed : Nat
  deriving DecidableEq, Repr

/-- The host interface besides its registers (R405 to R430). -/
structure HostIf where
  /-- Events waiting, oldest first, at most 256 (R419). -/
  waiting : List EventRec
  /-- Events dropped since the last record was written (R419). -/
  dropped : Nat
  /-- Codes and keys of events that are raised at most once a beat, raised in this beat. -/
  once : List (Nat × Nat)
  /-- Bytes the Totha has written into host memory (R424). -/
  mem : Sparse Byte
  /-- The last completion delivered to the host. -/
  resp : Option Response
  /-- Captures of R8: the pair's `_HI` register key and its captured value. -/
  armed : Sparse Reg32
  /-- Poisoned TLP Received is logged in Advanced Error Reporting (R415). -/
  aerPoison : Bool
  /-- Configuration space dwords the host can write (R407). -/
  cfg : Sparse Reg32
  /-- The PCI Express link is up. -/
  linkUp : Bool
  /-- PCI Express training has begun (R470). -/
  training : Bool
  /-- A host reset is in force, with its cause (R426). -/
  resetCause : Option Nat
  /-- Speed and width the link last held (R408). -/
  lastLink : Nat × Nat
  /-- MSI-X table dwords (R407, R420). -/
  msix : Sparse Reg32
  /-- MSI-X pending bits. -/
  pba : Sparse Nat
  /-- Records pending since a vector's last message, and the time of the first (R420). -/
  pendingMsgs : Sparse (Nat × Nat)
  /-- Messages sent by vector. -/
  sentMsgs : Sparse Nat
  copies : Sparse CopyJob
  deriving DecidableEq, Repr

/-! ### Beats -/

/-- A plan entry as fetched: the bytes of the entry and of its route table that are not zero (R42 to R47). -/
structure Entry where
  bytes : Sparse Byte
  routes : Sparse Byte
  deriving DecidableEq, Repr

/-- A logical tile that leaves its physical tile in an edge window: tile, physical tile, whether the Totha retires it, and the spare that
takes its place (R21, R24). -/
structure Leave where
  tile : Nat
  phys : Nat
  hard : Bool
  spare : Option Nat
  deriving DecidableEq, Repr

/-- An edge window under way (R39): the steps begun, 0 for quiesce; from step 3 on the entry of the beat to come, whether it is a plan switch's,
the tiles that leave and whether their remap is deferred; from step 5 on the trim and the number of the beat to come. -/
structure EdgeRun where
  step : Nat
  inc : Option Entry
  sw : Bool
  leave : List Leave
  held : Bool
  trim : Int
  number : Nat
  deriving DecidableEq, Repr

/-- The beat controller besides its registers (R36 to R75). -/
structure Beat where
  /-- Cycle within the beat. -/
  cycle : Nat
  /-- The entry in force; empty where there is no plan. -/
  cur : Entry
  /-- Its index: that of the entry a hold repeats (R53). -/
  curIdx : Nat
  /-- The next entry, fetched and valid (R53). -/
  next : Option Entry
  /-- The next entry was fetched and failed R48 (R53). -/
  nextBad : Bool
  /-- A switch's start entry, validated (R50). -/
  start : Option Entry
  /-- A switch is pending: the cycles passed since reset at GO. -/
  pendingGo : Option Nat
  /-- The beat a pending switch names; 0 the first possible edge. -/
  switchAt : Nat
  /-- Scheduled routes in force of the entry: index and record (R25), demoted ones left out. -/
  routes : List (Nat × Nat)
  /-- Estimate of cycles gained each beat, in sixteenths of a cycle (R68). -/
  freq16 : Int
  /-- The phase error of the last accepted marker, if one came in this beat (R68). -/
  phase : Option Int
  /-- The last marker accepted: beat number, master, and link. -/
  marker : Option (Nat × Nat × Nat)
  /-- Consecutive beats without a marker on the primary link, on either link, and from the master. -/
  missPrimary : Nat
  missAny : Nat
  missMaster : Nat
  /-- In this beat a marker has been accepted on the primary link, on either link, and from the master in force. -/
  gotPrimary : Bool
  gotAny : Bool
  gotMaster : Bool
  /-- The first join is pending: nothing issues until the first edge derived from a marker (R72). -/
  joining : Bool
  /-- The module rejoins by trim (R72). -/
  rejoining : Bool
  /-- The module is outside its beat group: scheduled data travels as dynamic class (R71). -/
  outside : Bool
  /-- The master and the backup master that the Pattern image names (R67, R73). -/
  master : Nat
  backup : Nat
  /-- The edge window under way. -/
  edge : EdgeRun
  deriving DecidableEq, Repr

/-! ### Streams, frames, tiles -/

/-- A stream's position (R225): the next ring command, counted as TAIL counts; or a command of a routine slot, with the
RID recorded for it (R260). -/
inductive Pos where
  | ring (count : Nat)
  | slot (slot : Nat) (rid : Nat) (index : Nat)
  deriving DecidableEq, Repr

/-- Where a command stands between issue and retirement (R242, R243). -/
inductive Stage where
  /-- executing, or waiting for its data -/
  | running
  /-- suspended and carried (R62): it goes on in its stream's next slot -/
  | carried
  /-- suspended and carried with the effect that it has made and the status of that (R62) -/
  | held (status : Nat)
  /-- abandoned: it is issued whole again in its stream's next slot (R64) -/
  | again
  /-- its status is final and its writes are visible; it has not completed -/
  | done (status : Nat)
  /-- completed (R244, R245), waiting for earlier commands -/
  | completed
  deriving DecidableEq, Repr

/-- The unit a command occupies (R115, R136, R173). -/
inductive UnitUse where
  | none | loomA | loomB | looms | shuttle | shuttleLoom (b : Nat) | finisher | move | link | update | updateLoom
  deriving DecidableEq, Repr

/-- A descriptor as the command that named it keeps it (R214): its image and its scale descriptor's, the device addresses
their BASE fields lead to on the tile of issue, and the far modules of REMOTE regions. -/
structure Opnd where
  id : Nat
  img : Record64
  addr : Nat
  far : Option Nat
  scale : Record64
  scaleAddr : Nat
  scaleFar : Option Nat := none
  deriving DecidableEq, Repr

/-- A command issued by a stream and not yet retired. -/
structure InFlight where
  num : Nat
  cmd : Record64
  tile : Nat
  queue : Nat
  /-- Ring slots it frees when it retires: its own and those a taken branch skips (R234, R249). -/
  slots : Nat
  stage : Stage
  unit : UnitUse
  /-- The descriptors it named by operand position, as read at issue (R214). -/
  ops : List (Option Opnd)
  /-- Byte ranges of destinations and of sources, as device addresses (R216). -/
  dests : List (Nat × Nat)
  srcs : List (Nat × Nat)
  /-- The cast sequence number and the seed it uses (R97, R518). -/
  seq : Nat
  seed : Nat
  /-- The Shuttle thresholds it latched (R148): PATH_THR in [31:0], SPLIT_THR in [63:32]. -/
  latched : Nat
  /-- Status bits gathered so far (R243). -/
  acc : Nat
  /-- Element patterns of released output blocks that wait for a whole compressed panel (R143), by destination (its operand
  position × 2³²) and block; an empty list for a block that has failed (R303). -/
  held : Sparse (List Nat)
  /-- Results, as FP32 patterns, that wait for the rest of their scale block (R517): operand position, linear index, pattern; of a
  collective, what waits for the rest of its destination (R143, R517): element code in [15:0], dross in bit 31. -/
  waits : List (Nat × Nat × Reg32)
  /-- The bytes of the blocks that a SCATTER_ADD adds into, as device ranges (R157). -/
  added : List (Nat × Nat)
  /-- Entries of the remote latch map as read at issue: entry, far module, latch (R253). -/
  remotes : List (Nat × Nat × Nat)
  /-- Slots its stream has abandoned it in (R64). -/
  abandons : Nat
  /-- What a suspended Finisher command keeps (R177): its pass, its group, and the number of the draw that its lane partial sums and row
  statistics are. -/
  fin : Option (Nat × Nat × Nat)
  /-- Its output blocks in the looms, as it issued: index, and whether on loom B (R64). -/
  blocks : List (Nat × Bool)
  /-- Beat of issue. -/
  beat : Nat
  deriving DecidableEq, Repr

/-- The state of a stream that travels in its home frame (R225). -/
structure StreamCtx where
  pos : Pos
  counters : Sparse Reg32
  comps : BitVec 4
  /-- Scalar slots: the 32 bits and the type bit, true for FP32 (R247). -/
  slots : Sparse (Reg32 × Bool)
  /-- The call stack, innermost first, at most four (R257). -/
  stack : List Pos
  castSeq : Nat
  issued : Reg32
  flight : List InFlight
  deriving DecidableEq, Repr

/-- A stationary block in a loom's heddles (R104, R109): the stream and tag that label it where it is pinned (else 0), whether it is
2:4 and block-scaled, its format and size, the element patterns by row × 64 + column, the scale codes by scale block × 64 + column (or row × 64 + block
where the scale axis is the second), and the 2-bit positions of a 2:4 block. -/
structure Heddle where
  stream : Nat
  tag : Nat
  fmt : Nat
  sp24 : Bool
  scaleAxis : Option Nat
  rows : Nat
  cols : Nat
  elems : Sparse Nat
  scales : Sparse Nat
  posn : Sparse Nat
  deriving DecidableEq, Repr

/-- An output block in a loom, waiting for its drain, or held for a repeat (R112, R129). -/
structure LoomBlock where
  stream : Nat
  num : Nat
  index : Nat
  loomB : Bool
  held : Bool
  deriving DecidableEq, Repr

/-- The architectural state of a stream set (R55). -/
structure FrameState where
  ctxs : Sparse StreamCtx
  latches : BitVec 64
  /-- Pinned blocks: loom A at 0, loom B at 1. -/
  heddles : Sparse Heddle
  /-- R104: the two banks of heddle registers: of loom A the active one at 0 and the shadow one at 1, of loom B at 2 and 3; unlisted: never
  loaded. -/
  banks : Sparse Heddle
  /-- Output blocks of its suspended commands, in drain order, while the set is not resident (R62). -/
  blocks : List LoomBlock
  deriving DecidableEq, Repr

/-- A queue binding (R45). -/
structure Binding where
  stream : Nat
  budget : Nat
  pbase : Nat
  psize : Nat
  valid : Bool
  cl : Bool
  cs : Bool
  deriving DecidableEq, Repr

/-- A queue of the queue engine (R242, R264). -/
structure QueueState where
  bind : Binding
  /-- The binding has taken effect (R226). -/
  bound : Bool
  fetched : List Record64
  /-- Whether each fetched command was dross (R305, R307). -/
  fetchedDross : List Bool
  spent : Bool
  yielded : Bool
  why : Nat
  deriving DecidableEq, Repr

/-- A logical tile: the set resident on it and its queues. -/
structure Tile where
  frame : Option Nat
  fs : FrameState
  queues : Sparse QueueState
  /-- Idle for this beat (R58). -/
  idle : Bool
  /-- Given to assay in this beat, with no bound set (R316). -/
  assay : Bool
  /-- The frame staged for the next edge, if its copy has completed (R57). -/
  staged : Option (Nat × FrameState)
  /-- Whether the staged copy held dross (R307): its first such atom. -/
  stagedDross : Option Nat
  /-- The words of the staged frame with an uncorrectable error, which its restore counts (R301). -/
  stagedUe : Nat
  /-- The frame saved in the last edge window, which is still to be written back (R57). -/
  writeBack : Option Nat
  /-- Output blocks not yet released, in drain order. -/
  blocks : List LoomBlock
  /-- R251: the cycle in which tile latches last changed, what they were before it, and those set in it. -/
  latchCycle : Option (Nat × BitVec 64 × BitVec 64) := none
  deriving DecidableEq, Repr

/-- A partition resident in a tile store, as what it was filled as (R59). -/
structure Resident where
  stream : Nat
  pbase : Nat
  psize : Nat
  backing : Nat
  filled : Bool
  deriving DecidableEq, Repr

/-- The states of R327. -/
inductive UnitSt where
  | in_ | spare | draining | out | assaying | retired | failed
  deriving DecidableEq, Repr

/-- A touch log entry (R325). -/
structure Touch where
  lo : Nat
  hi : Nat
  region : Nat
  job : Nat
  frames : Bool
  deriving DecidableEq, Repr

/-- A routine load in progress or held: slot, RID and image (R258, R259). -/
structure RtnLoad where
  slot : Nat
  rid : Nat
  src : Nat
  bcast : Bool
  words : List Record64
  dross : List Nat
  deriving DecidableEq, Repr

/-- A physical tile (R17, R327): what belongs to the silicon and not to the logical identifier. -/
structure Phys where
  st : UnitSt
  pendingEn : Bool
  disable : Bool
  /-- An ENABLE waits for step 7 of an edge window (R330). -/
  enable : Bool
  /-- The return assay passed; the unit returns at the next edge (R330). -/
  returning : Bool
  observed : Bool
  /-- Beats left of the observation window, and whether it is the further window (R320). -/
  obsLeft : Nat
  obsFurther : Bool
  fails : Nat
  /-- Confirmed failures have reached the limit: retire at the next edge (R320). -/
  retireDue : Bool
  /-- The part that put the tile under observation (R319). -/
  obsPart : Nat
  /-- Observation assays run in this observation: the slice of the part that is next (R319). -/
  obsSlice : Nat
  /-- R317, R319: of this beat's observation assay, the cross-compare (bit 0) or the other part (bit 1) has failed and is run again. -/
  obsRerun : Nat
  since : Nat
  /-- Beat of the last passing full assay (R326). -/
  lastPass : Nat
  /-- Beats of recent transients and of recent corrections (R310, R312). -/
  transients : List Nat
  corrections : List Nat
  log : List Touch
  touchedAll : Bool
  /-- The assay part that runs next (6: none), and whether it is a rerun (R313, R317). -/
  part : Nat
  rerun : Bool
  /-- A confirmed failure in the assay in progress. -/
  assayBad : Bool
  /-- Seed index of the assay in progress (R314). -/
  seed : Nat
  /-- Store words whose corrected form is to be written back (R310). -/
  writeback : List Nat
  resident : List Resident
  /-- The routine store: command slot × 16 + index; unlisted: 64 zero bytes. -/
  rtn : Sparse Record64
  /-- R307: of each command as its image arrived: 1 where its atom is dross, n + 1 where n of its words have an uncorrectable error;
  unlisted: clean. -/
  rtnDross : Sparse Nat
  rid : Sparse Nat
  gen : Sparse Nat
  held : List RtnLoad
  loads : List RtnLoad
  loomOkA : Bool
  loomOkB : Bool
  /-- Tithe beats left (R318). -/
  tithe : Nat
  /-- Fleet patterns in the set that the assay in progress began with (R315). -/
  setCount : Nat
  /-- That set: the bytes of the ASSAY section's body, with patterns from byte 8 (R315, R437). -/
  set : Sparse Byte
  /-- Skew registers that disagree with their recomputed delays (R132): loom, axis, index, delay. -/
  skew : List (Nat × Nat × Nat × Nat)
  deriving DecidableEq, Repr

/-- Stream dispatcher state by stream, besides the registers (R225 to R236, R256 to R262). -/
structure StreamSt where
  /-- Window slots written, and written but discarded, since the last tie-off (R231). -/
  written : BitVec 64
  discarded : BitVec 64
  /-- NOTIFY bolts: the retired count that completes each, and its SEQ (R230). -/
  notify : List (Nat × Nat)
  /-- Ring slots to retire as soon as TAIL allows: skipped beyond TAIL (R249). -/
  debt : Nat
  haltEdge : Bool
  step : Bool
  /-- The stream has been bound since STEP was set (R262). -/
  stepBound : Bool
  /-- The next HALT_NOW match is suppressed (R262). -/
  suppress : Bool
  /-- Consecutive slots ended with work carried (R66). -/
  carriedRun : Nat
  bubbleRem : Nat
  /-- Edge windows the head's remote or global wait has stood (R256). -/
  waitBeats : Nat
  /-- A shadow field changed in the last beat; in this beat (R235). -/
  shadowDue : Bool
  shadowDirty : Bool
  /-- A new seed waits for its edge (R518). -/
  seedPending : Bool
  seedOld : BitVec 64
  resetPending : Bool
  deriving DecidableEq, Repr

/-! ### Latches -/

/-- A global set or clear on its way to the latch unit (R252), or a remote one waiting to leave (R254). -/
structure LatchOp where
  latch : Nat
  clear : Bool
  /-- Cycle and beat of the request. -/
  beat : Nat
  cycle : Nat
  deriving DecidableEq, Repr

/-- A standing remote wait (R254, R519): stream, map entry, far module, latch, job, query tag, the awaited value, whether an answer has shown
it, and whether its query was refused. -/
structure RemoteWait where
  stream : Nat
  entry : Nat
  far : Nat
  latch : Nat
  job : Nat
  tag : Nat
  want : Bool
  shown : Bool
  refused : Bool
  deriving DecidableEq, Repr

/-- A query whose wait may still stand: this module answers it with the latch's next change (R254). -/
structure Watcher where
  far : Nat
  latch : Nat
  tag : Nat
  deriving DecidableEq, Repr

/-- The latch unit on the west rim (R252 to R254, R519). -/
structure Latches where
  set : Sparse Bool
  ops : List LatchOp
  waits : List RemoteWait
  watchers : List Watcher
  /-- Handles of latch messages sent: stream and map entry (R519). -/
  handles : Sparse (Nat × Nat)
  nextTag : Nat
  /-- R251: the latches set in a cycle, and whether by the host. -/
  setCycle : Nat := 0
  setNow : List (Nat × Bool) := []
  deriving DecidableEq, Repr

/-! ### Descriptors and regions -/

/-- The mailbox operation in progress (R221): the result to report. -/
structure MailOp where
  code : Nat
  offset : Nat
  first : Int
  last : Int
  /-- An entry to invalidate at the end (R222). -/
  destroy : Option Nat
  deriving DecidableEq, Repr

/-! ### Update and commit -/

/-- A READY message as the root holds it (R289, R290). -/
structure ReadyMsg where
  src : Nat
  t : Nat
  votes : Nat
  digest : Nat
  layers : BitVec 8192
  deriving DecidableEq, Repr

/-- A decision (R292): outcome 1 COMMIT, 2 SKIP, 3 ABORT. -/
structure Decision where
  step : Nat
  outcome : Nat
  group : Nat
  flip : Nat
  exps : BitVec 8192
  layers : List ReadyMsg
  /-- Beat and cycle of arrival. -/
  beat : Nat
  cycle : Nat
  deriving DecidableEq, Repr

/-- The round and the record of a job on this module, besides the registers (R288 to R296). -/
structure Job where
  /-- The step of the round that is open. -/
  step : Nat
  /-- Edge windows since the round opened on the module and since it sent READY (R289, R295). -/
  age : Nat
  sentAge : Nat
  /-- READY commands of the round that have completed. -/
  ready : Nat
  refused : Bool
  stale : Bool
  nonfinite : Bool
  digest : Nat
  layers : BitVec 8192
  /-- Step-size groups read, with the write count then, and those reported as stale (R271). -/
  groups : List (Nat × Nat)
  staleGroups : List Nat
  /-- Root: messages held, the step of the root's round (0: none open), edge windows since it opened. -/
  msgs : List ReadyMsg
  rootStep : Nat
  rootAge : Nat
  /-- Root: modules whose READY counts for both modules of their pair in this round (R397). -/
  standing : List Nat
  lastDecision : Option Decision
  /-- Root: every decision taken, the oldest first (R291). -/
  past : List Decision
  /-- Decision received and not yet applied. -/
  due : Option Decision
  /-- An abort is applied at the next edge (R305). -/
  abortDue : Bool
  /-- Root: modules that stand in for their twins, with the step from which they count separately again (R397, R401). -/
  standIns : List (Nat × Option Nat)
  deriving DecidableEq, Repr

/-- What a prepare leaves to be recorded with its layer (R269, R278, R281): η as a pattern, and the blocks that fell back. -/
structure Prepared where
  step : Nat
  job : Nat
  eta : Nat
  dexp : Int
  gexp : Int
  t : Nat
  ratio : Nat
  dmax : Nat
  /-- NONFINITE, SAT, ZERO, PFALLBACK and STALE at their bits of FLAGS. -/
  flags : Nat
  dexpNext : Option Int
  fallback : List Nat
  digest : Nat
  /-- The bytes of rem′ of a dual-copy prepare: REM has one copy, so they wait for the COMMIT (DEDUCED, log 89). -/
  rem : Sparse Byte
  deriving DecidableEq, Repr

/-- A layer's live state (R269): the epoch, the exponents, the starvation count; whether it is pending or awaits its write, or may
still be written by an APPLY after SKIP or ABORT (R282); the prepare of an APPLY that has not completed; and the last prepare. -/
structure Layer where
  epoch : Bool
  gexp : Int
  dexp : Int
  dexpSet : Bool
  starve : Nat
  pending : Bool
  awaitWrite : Bool
  mayWrite : Bool
  lastStep : Nat
  prep : Option Prepared
  last : Prepared
  deriving DecidableEq, Repr

/-! ### Links -/

/-- A flit to send or received (R359): its header fields; the module it is for; its valid bytes, or a long control message; which
of its atoms are dross (bit i: atom i). -/
structure Flit where
  cls : Nat
  kind : Nat
  hops : Nat
  addr : Nat
  stream : Nat
  job : Nat
  src : Nat
  dst : Nat
  xfer : Nat
  off : Nat
  len : Nat
  ew : Nat
  data : List Byte
  dross : Nat
  drossForm : Bool
  /-- A read request of compressed row data, answered in flits of KIND 4 (R378). -/
  crow : Bool := false
  deriving DecidableEq, Repr

/-- A flit of the replay buffer: SEQ, how often it has failed (R380, R381), and whether it is to be resent. -/
structure Replay where
  seq : Nat
  fails : Nat
  resend : Bool
  flit : Flit
  records : List (BitVec 128)
  /-- The ACK that it last carried. -/
  ack : Nat
  deriving DecidableEq, Repr

/-- A link besides its registers (R356 to R388). -/
structure Link where
  st : UnitSt
  pendingEn : Bool
  disable : Bool
  /-- An ENABLE waits for step 7 of an edge window (R330). -/
  enable : Bool
  returning : Bool
  trained : Bool
  txSeq : Nat
  rxSeq : Nat
  replay : List Replay
  credits : Nat
  freed : Nat
  partnerHold : Bool
  hold : Bool
  nack : Bool
  records : List (BitVec 128)
  long : List Flit
  sched : List Flit
  dyn : List Flit
  /-- Receive buffers: flits that wait for their module side (R364, R365). -/
  rxSched : List Flit
  rxDyn : List Flit
  /-- Control records and long messages accepted, in order. -/
  rxRecords : List (BitVec 128)
  rxLong : List Flit
  /-- R368: SEQ, records and long message of the flits accepted that the partner may not know to be acknowledged, at most the 256 of its
  replay buffer. -/
  taken : List (Nat × List (BitVec 128) × Option Flit)
  identity : Option (Nat × Nat × Nat)
  peerReady : Bool
  lastPeer : Option Nat
  /-- The replays of the last 1,024 beats, and how many each of these beats has (R383). -/
  replaysWindow : Nat
  replayBeats : List (Nat × Nat)
  bad0 : Nat
  bad1 : Nat
  attempts : Nat
  /-- A failure has been reported since the last admission (R383). -/
  reported : Bool
  firstDone : Bool
  /-- The flit last put on the wire (R359), and whether an injection makes lane 0's codewords uncorrectable (R506). -/
  wire : List Byte
  wireBad : Bool
  /-- The bit of `TWIN.LINKS` that a re-cast gives the link at its next training (R449). -/
  newTwin : Option Bool
  deriving DecidableEq, Repr

/-- A transfer this module issued (R369): the command it belongs to, the bytes to deliver and those acknowledged or arrived; for a
GET, where each stretch read comes from and goes to (device address with its module, local address, length); and for a compressed row GET
whose panels are not yet requested, its operands (R378). -/
structure Xfer where
  stream : Nat
  num : Nat
  get : Bool
  total : Nat
  acked : Nat
  parts : List (Nat × Nat × Nat)
  panels : Option (Opnd × Opnd)
  sched : Bool
  deriving DecidableEq, Repr

/-- A participant of a collective on this module (R374 to R377): its group, instance, rank, command, and the XFER word of its flits
(R375). -/
structure Coll where
  group : Nat
  inst : Nat
  rank : Nat
  stream : Nat
  num : Nat
  word : Nat
  /-- Bytes still to arrive at this participant. -/
  expect : Nat
  beat : Nat
  warned : Bool
  /-- Data accepted: phase (0 reduction, 1 distribution), chunk, offset, length. -/
  got : List (Nat × Nat × Nat × Nat)
  /-- R368: of a REDUCE, what its reduction has taken: chunk, offset, bytes; and whether a link has left the admitted state since it
  issued. -/
  took : List (Nat × Nat × List Byte)
  failed : Bool
  deriving DecidableEq, Repr

/-- The link unit (R366 to R377). -/
structure LinkUnit where
  xfers : Sparse Xfer
  nextXfer : Nat
  colls : List Coll
  /-- Next instance number by group and rank (R375): group × 4,096 + rank. -/
  instNo : Sparse Nat
  /-- Collective data that waits for its instance, with the rank it is for (R376). -/
  early : List (Nat × Flit)
  /-- Instances aborted before a rank issued them: group, instance, rank (R377). -/
  abortedColls : List (Nat × Nat × Nat)
  /-- Flits with no usable route: the flit, the beat it began to wait (R366), and the link it waits for where rerouting is off
  (R368). -/
  noRoute : List (Flit × Nat × Option Nat)
  /-- Records with no usable route: record, destination, beat, link. -/
  noRouteRec : List (BitVec 128 × Nat × Nat × Option Nat)
  /-- R368: records taken in over links that have left the admitted state since, which may come again over others, and the beat of that. -/
  doubt : List (BitVec 128 × Nat)
  /-- R368: the same for long messages. -/
  doubtLong : List (Flit × Nat)
  /-- Data already accepted: source, transfer, address (R368). -/
  seen : List (Nat × Nat × Nat)
  /-- Aborts seen: origin, sequence, beat (R306). -/
  aborts : List (Nat × Nat × Nat)
  nextAbort : Nat
  deriving DecidableEq, Repr

/-! ### Twin -/

/-- A handover message (R392): per job its T and last decided step; per layer EPOCH, GEXP and DEXP; whether its last part is there; and when
that arrived. -/
structure HandoverMsg where
  jobs : List (Nat × Nat × Nat)
  layers : List (Nat × Bool × Nat × Nat)
  ended : Bool
  beat : Nat
  cycle : Nat
  deriving DecidableEq, Repr

/-- The twin unit besides its registers (R389 to R404). -/
structure Twin where
  attachSelf : Bool
  attachPeer : Bool
  /-- The beat, the STATE and the LIVE of the last hello. -/
  lastHello : Option Nat
  peerState : Nat
  peerLive : Bool
  /-- Donor: a request whose manifest is arriving: its join step, and what it says of the other side. -/
  requested : Option (Nat × Nat)
  /-- The manifest: ranges by address and length, on both sides. -/
  manifest : List (Nat × Nat)
  /-- Donor: bytes of the manifest copied; the copy is complete; the handover has left; the join step in force. -/
  copied : Nat
  copyDone : Bool
  handedOver : Bool
  joinStep : Nat
  /-- Donor: the join step has passed and event 0x7025 has been raised. -/
  warned : Bool
  /-- Donor: atoms written that wait to be mirrored, by address. -/
  mirror : List Nat
  /-- Receiver: a handover received and its time. -/
  handover : Option HandoverMsg
  deriving DecidableEq, Repr

/-! ### Faults, memory unit -/

/-- The fault unit besides its registers (R321 to R331). -/
structure Faults where
  /-- Logical to physical tile; unlisted: the home position of R20. -/
  remap : Sparse Nat
  offline : List Nat
  /-- Remaps wanted at the next edge: logical tile and the physical tile taken out (R24). -/
  wanted : List (Nat × Nat)
  /-- Logical tiles whose remap the last edge window deferred (R24). -/
  deferred : List Nat
  /-- Frames whose offline binding has been reported (R322). -/
  reported : List Nat
  /-- Confirmed reference digests by seed index, and the digests seen: seed index, digest, physical tile (R314). -/
  refs : Sparse Nat
  seenRefs : List (Nat × Nat × Nat)
  /-- Fleet patterns in force: bytes of the set (R315). -/
  patterns : Sparse Byte
  nextPatterns : Option (Sparse Byte × Nat)
  deriving DecidableEq, Repr

/-- A GDDR7 channel besides its registers (R334 to R353). -/
structure Chan where
  st : UnitSt
  pendingEn : Bool
  disable : Bool
  /-- An ENABLE waits for step 7 of an edge window (R330). -/
  enable : Bool
  returning : Bool
  /-- Atoms of the demand-scrub queue, by address, at most 64 (R342). -/
  scrubQ : List Nat
  /-- Corrected words and replays of the last 1,024 beats, by beat, newest first (R344). -/
  errs : List (Nat × Nat)
  /-- The rate a re-cast gave it, which it takes as it retrains (R449). -/
  newRate : Option Nat
  lastRetrain : Option Nat
  due : Option Nat
  deriving DecidableEq, Repr

/-- An access of GDDR7 (R341): its address, whether it writes, its replays, and whether they were used up. -/
structure HeldAccess where
  addr : Nat
  write : Bool
  replays : Nat
  exhausted : Bool
  deriving DecidableEq, Repr

/-- The memory group controllers and the address map (R338 to R353). -/
structure MemUnit where
  mapped : Bool
  outCh : Option Nat
  /-- The window is unmapped (R347). -/
  windowOff : Bool
  /-- A retirement (false) or return (true) copy is running. -/
  copy : Option Bool
  retraining : Option (Nat × Nat)
  props : Sparse (Nat × Nat × Nat × Bool)
  offline : List (Nat × Nat)
  /-- Corrected words by channel page in this pass: channel × 2²² + page. -/
  pageCe : Sparse Nat
  scrubCh : Nat
  stagingCh : Option Nat
  /-- R340: words that a controller has forwarded unchanged with an uncorrectable error and rewritten as dross, and that no
  consumer has taken in yet. -/
  forwarded : List Nat
  /-- R340: atoms with an error whose read has been accounted and whose words no consumer has taken in yet. -/
  served : List Nat
  /-- R349, R350: the next row of channel `outCh` that the copy in progress moves. -/
  copyRow : Nat
  /-- A copy (false: retirement, true: return) that waits for the retraining in progress to end (R345). -/
  copyDue : Option Bool
  /-- R345: accesses that the controller of the channel in retraining holds, in their order of arrival. -/
  heldAcc : List HeldAccess
  deriving DecidableEq, Repr

/-! ### Pattern unit, security, start-up, power, test -/

/-- Fuses (R12, R440, R452): kept through every reset and power loss. -/
structure Fuses where
  stepping : Nat
  board : Nat
  seed : BitVec 256
  programmed : BitVec 4
  revoked : BitVec 4
  floor : Nat
  /-- Key digests of the four slots. -/
  slot0 : BitVec 256
  slot1 : BitVec 256
  slot2 : BitVec 256
  slot3 : BitVec 256
  /-- Physical tiles fused out at manufacture (R332). -/
  outTiles : List Nat
  /-- Loom fuse words by physical tile × 2 + loom (R130, R134); unlisted: none skipped. -/
  loom : Sparse Nat
  deriving DecidableEq, Repr

/-- A PAT operation in progress (R447): its code, its result so far, and what it changes. -/
structure PatOp where
  op : Nat
  code : Nat
  reason : Nat
  offset : Nat
  recast : Bool
  sect : Nat
  deriving DecidableEq, Repr

/-- A SEC operation in progress (R453). -/
structure SecOp where
  op : Nat
  slot : Nat
  code : Nat
  signer : Nat
  digest : BitVec 256
  deriving DecidableEq, Repr

/-- The Pattern unit and the security block besides their registers (R431 to R457). -/
structure Pat where
  op : Option PatOp
  sec : Option SecOp
  /-- The container bytes a running operation uses (locked, R446). -/
  staged : Sparse Byte
  /-- Records of a re-cast that wait for the next edge (R450): offset, all tiles, value, type. -/
  recast : List (Nat × Bool × Nat × Nat)
  recastTypes : List Nat
  /-- Certificate held (R444). -/
  cert : List Byte
  /-- The digest that an attestation report gives in BARE service (R454). -/
  bareDigest : List Byte
  /-- Event log position, records waiting, and records lost since logging stopped (R451). -/
  logPos : Nat
  logWait : List EventRec
  logLost : Nat
  deriving DecidableEq, Repr

/-- Start-up phases (R461 to R475, R489, R495). -/
inductive Phase where
  | off | sequencing | reset | fuses | imaged | live | stopped
  deriving DecidableEq, Repr

/-- Start-up and reset. -/
structure Boot where
  phase : Phase
  /-- Periods of 0.952 ns since the origin (R461). -/
  ticks : Nat
  imageValid : Bool
  /-- The module runs at the FULL clock. -/
  full : Bool
  promoting : Bool
  ready : Bool
  cause : Nat
  mrst : Bool
  tileWave : Option Nat
  memWave : Option Nat
  failedCh : List Nat
  failedTiles : List Nat
  /-- Physical tiles that passed their start-up assay and wait for the next edge window (R464). -/
  passed : List Nat
  /-- The sideband answers: from the 30 ms row of the first start-up after power-on (R496). -/
  smbUp : Bool
  placed : Bool
  twpos : Nat
  smbAddr : Nat
  perst : Bool
  overvolt : Bool
  deriving DecidableEq, Repr

/-- The power governor and monitors besides their registers (R479 to R500). -/
structure Power where
  at256 : Nat
  gated : Bool
  below : Nat
  floorRun : Nat
  throttled : Nat
  hot : Bool
  vinLow : Bool
  /-- When event 0xA040 was last raised, in ms (R487). -/
  coolant : Option Nat
  last : List Nat
  millivolts : Nat
  deriving DecidableEq, Repr

/-- An injection that waits for its opportunity (R506). -/
structure Injection where
  kind : Nat
  idx : Nat
  loom : Nat
  left : Nat
  part : Nat
  addr : Nat
  /-- LINK: the SEQ of the flit it acts on. -/
  seq : Option Nat
  deriving DecidableEq, Repr

/-- Perturbation, injection and trace besides their registers (R501 to R515). -/
structure Test where
  inj : Option Injection
  opps : Sparse Nat
  /-- Trace records waiting in the rim buffer, at most 512 (R509). -/
  trace : List (List Byte)
  /-- Cycles of the arithmetic clock passed since reset (R50), and their number at the last read of a router's counter, by the counter's key (R512). -/
  moved : Nat
  rtrRead : Sparse Nat
  deriving DecidableEq, Repr

/-- Everything but the queue of commands, the fuses and the flash. -/
structure Hw where
  /-- Registers by key (unit × 512 + register number); an unlisted key reads its reset value (R12). -/
  regs : Sparse Reg32
  mem : Mem
  host : HostIf
  beat : Beat
  tiles : Sparse Tile
  phys : Sparse Phys
  /-- Frames saved into the pool, by their address; unlisted: an empty set (R55). -/
  frames : Sparse FrameState
  /-- Stream dispatcher state by stream (R225). -/
  streams : Sparse StreamSt
  latches : Latches
  regions : Sparse (BitVec 128)
  mail : Option MailOp
  jobs : Sparse Job
  layers : Sparse Layer
  links : Sparse Link
  lnk : LinkUnit
  twin : Twin
  flt : Faults
  chans : Sparse Chan
  mu : MemUnit
  pat : Pat
  boot : Boot
  pwr : Power
  test : Test
  /-- The model's own: how many free values have been drawn (AN UNDEFINED VALUE). -/
  free : Nat
  deriving DecidableEq, Repr

/-- The machine: the commands that wait, first in first out; fuses and flash, which outlive power; and the rest. -/
structure State where
  pending : List Instr
  fuses : Fuses
  flash : Sparse Byte
  hw : Hw
  deriving DecidableEq, Repr

/-! ### Reset -/

def Mem.reset : Mem := { cells := [], syn := [], free := [] }

def Entry.empty : Entry := { bytes := [], routes := [] }

/-- No edge window is under way. -/
def EdgeRun.none : EdgeRun :=
  { step := 0, inc := Option.none, sw := false, leave := [], held := false, trim := 0, number := 0 }

def Beat.reset : Beat :=
  { cycle := 0, cur := Entry.empty, curIdx := 0, next := none, nextBad := false, start := none, pendingGo := none, switchAt := 0,
    routes := [], freq16 := 0, phase := none, marker := none, missPrimary := 0, missAny := 0, missMaster := 0, gotPrimary := false, gotAny := false, gotMaster := false,
    joining := false, rejoining := false, outside := false, master := 0, backup := 0, edge := EdgeRun.none }

def HostIf.reset : HostIf :=
  { waiting := [], dropped := 0, once := [], mem := [], resp := none, armed := [], aerPoison := false, cfg := [], linkUp := false,
    training := false, resetCause := none, lastLink := (0, 0), msix := [], pba := [], pendingMsgs := [],
    sentMsgs := [], copies := [] }

def StreamCtx.reset : StreamCtx :=
  { pos := .ring 0, counters := [], comps := 0, slots := [], stack := [], castSeq := 0, issued := 0, flight := [] }

/-- The empty set (R55). -/
def FrameState.empty : FrameState := { ctxs := [], latches := 0, heddles := [], banks := [], blocks := [] }

def Binding.none : Binding :=
  { stream := 0, budget := 0, pbase := 0, psize := 0, valid := false, cl := false, cs := false }

def QueueState.reset : QueueState :=
  { bind := Binding.none, bound := false, fetched := [], fetchedDross := [], spent := false, yielded := false,
    why := 0 }

def Tile.reset : Tile :=
  { frame := none, fs := FrameState.empty, queues := [], idle := false, assay := false, staged := none,
    stagedDross := none, stagedUe := 0, writeBack := none, blocks := [] }

/-- A physical tile before its start-up assay: it holds no logical identifier and runs nothing (R464). -/
def Phys.reset : Phys :=
  { st := .out, pendingEn := false, disable := false, enable := false, returning := false, observed := false, obsLeft := 0,
    obsFurther := false, fails := 0, retireDue := false, obsPart := 0, obsSlice := 0, obsRerun := 0, since := 0, lastPass := 0, transients := [],
    corrections := [], log := [], touchedAll := false, part := 6, rerun := false, assayBad := false, seed := 0,
    writeback := [], resident := [], rtn := [], rtnDross := [], rid := [], gen := [], held := [], loads := [],
    loomOkA := false, loomOkB := false, tithe := 0, setCount := 0, set := [], skew := [] }

def StreamSt.reset : StreamSt :=
  { written := 0, discarded := 0, notify := [], debt := 0, haltEdge := false, step := false, stepBound := false,
    suppress := false, carriedRun := 0, bubbleRem := 0, waitBeats := 0, shadowDue := false, shadowDirty := false,
    seedPending := false, seedOld := 0, resetPending := false }

def Latches.reset : Latches := { set := [], ops := [], waits := [], watchers := [], handles := [], nextTag := 0 }

def Job.reset : Job :=
  { step := 0, age := 0, sentAge := 0, ready := 0, refused := false, stale := false, nonfinite := false, digest := 0,
    layers := 0, groups := [], staleGroups := [], msgs := [], rootStep := 0, rootAge := 0, standing := [],
    lastDecision := none, past := [], due := none, abortDue := false, standIns := [] }

def Prepared.none : Prepared :=
  { step := 0, job := 0, eta := 0, dexp := 0, gexp := 0, t := 0, ratio := 0, dmax := 0, flags := 0, dexpNext := Option.none,
    fallback := [], digest := 0, rem := [] }

def Layer.reset : Layer :=
  { epoch := false, gexp := 0, dexp := 0, dexpSet := false, starve := 0, pending := false, awaitWrite := false,
    mayWrite := false, lastStep := 0, prep := none, last := Prepared.none }

def Link.reset : Link :=
  { st := .in_, pendingEn := false, disable := false, enable := false, returning := false, trained := false, txSeq := 0, rxSeq := 0,
    replay := [], credits := 0, freed := 0, partnerHold := false, hold := false, nack := false,
    records := [], long := [], sched := [], dyn := [], rxSched := [], rxDyn := [], rxRecords := [], rxLong := [], taken := [],
    identity := none, peerReady := false, lastPeer := none, replaysWindow := 0, replayBeats := [], bad0 := 0, bad1 := 0,
    attempts := 0, reported := false, firstDone := false, wire := [], wireBad := false, newTwin := none }

def LinkUnit.reset : LinkUnit :=
  { xfers := [], nextXfer := 0, colls := [], instNo := [], early := [], abortedColls := [], noRoute := [], noRouteRec := [], doubt := [], doubtLong := [], seen := [],
    aborts := [], nextAbort := 0 }

def Twin.reset : Twin :=
  { attachSelf := false, attachPeer := false, lastHello := none, peerState := 0, peerLive := false, requested := none,
    manifest := [], copied := 0, copyDone := false, handedOver := false, joinStep := 0, warned := false, mirror := [],
    handover := none }

def Faults.reset : Faults :=
  { remap := [], offline := [], wanted := [], deferred := [], reported := [], refs := [], seenRefs := [], patterns := [],
    nextPatterns := none }

def Chan.reset : Chan :=
  { st := .out, pendingEn := false, disable := false, enable := false, returning := false, scrubQ := [], errs := [], newRate := none,
    lastRetrain := none, due := none }

def MemUnit.reset : MemUnit :=
  { mapped := false, outCh := none, windowOff := false, copy := none, retraining := none, props := [], offline := [],
    pageCe := [], scrubCh := 0, stagingCh := none, forwarded := [], served := [], copyRow := 0, copyDue := none, heldAcc := [] }

def Pat.reset : Pat :=
  { op := none, sec := none, staged := [], recast := [], recastTypes := [], cert := [], bareDigest := [], logPos := 0, logWait := [],
    logLost := 0 }

/-- The module without power (R461, R476). -/
def Boot.reset : Boot :=
  { phase := .off, ticks := 0, imageValid := false, full := false, promoting := false, ready := false, cause := 0,
    mrst := false, tileWave := none, memWave := none, failedCh := [], failedTiles := [], passed := [], smbUp := false, placed := false, twpos := 0,
    smbAddr := 0, perst := false, overvolt := false }

def Power.reset : Power :=
  { at256 := 0, gated := false, below := 0, floorRun := 0, throttled := 0,
    hot := false, vinLow := false, coolant := none, last := [], millivolts := 0 }

def Test.reset : Test := { inj := none, opps := [], trace := [], moved := 0, rtrRead := [] }

/-- Everything that a power loss loses, at its value after it (R476). DESIGN CHOICE, log 6. -/
def Hw.reset : Hw :=
  { regs := [], mem := Mem.reset, host := HostIf.reset, beat := Beat.reset, tiles := [], phys := [], frames := [],
    streams := [], latches := Latches.reset, regions := [], mail := none, jobs := [], layers := [], links := [],
    lnk := LinkUnit.reset, twin := Twin.reset, flt := Faults.reset, chans := [], mu := MemUnit.reset,
    pat := Pat.reset, boot := Boot.reset, pwr := Power.reset, test := Test.reset, free := 0 }

/-- The fuses of a module with no defects and one vendor slot programmed (R440); DESIGN CHOICE, log 3. -/
def Fuses.reset : Fuses :=
  { stepping := 0, board := 0, seed := 0, programmed := 1, revoked := 0, floor := 0, slot0 := 0, slot1 := 0,
    slot2 := 0, slot3 := 0, outTiles := [], loom := [] }

/-- The machine before power is first applied, which is the state from which start-up runs (R461): the queue is empty,
the flash is erased and reads 0xFF, nothing is listed anywhere. DESIGN CHOICE, log 7. -/
def State.reset : State :=
  { pending := [], fuses := Fuses.reset, flash := [], hw := Hw.reset }

end Sys2Proof.Machine
end

