-- ==== Sys2Proof/Machine/Ops.lean ====
section
/-!
DEFINITION. The named operations over the state that every meaning is built from: registers and their fields (R7 to R13),
counters, time and events (R16, R417 to R419), tiles and their physical places (R17 to R21), device memory with its code
(R218, R301 to R310, R338 to R353, R516, R520), streams, and the fault of a stream (R246) and of a job (R305).
-/
namespace Sys2Proof.Machine

/-! ### Registers -/

/-- The key of register r of unit u. -/
def regKey (r : Reg) (u : Nat) : Nat := u * 512 + r.ctorIdx

/-- The reset value of register r of unit u (R12), with the tables' own defaults for fields marked P. -/
def Reg.resetAt (r : Reg) (u : Nat) : Reg32 :=
  match r with
  | .HIF_EVT_VEC => BitVec.ofNat 32 (u + 1)
  | .HIF_COPY_CFG => BitVec.ofNat 32 (4 + ((13 + u) <<< 16))
  | _ => BitVec.ofNat 32 (r.spec.fields.foldl (fun a f => a + (f.value <<< f.lo)) 0)

/-- The value of register r of unit u. -/
def Hw.rd (s : Hw) (r : Reg) (u : Nat) : Reg32 := (Sparse.find? s.regs (regKey r u)).getD (r.resetAt u)

/-- Sets register r of unit u. -/
def Hw.wr (s : Hw) (r : Reg) (u : Nat) (v : Reg32) : Hw :=
  { s with regs := Sparse.put (r.resetAt u) s.regs (regKey r u) v }

/-- The value of a field. -/
def Hw.fget (s : Hw) (f : Fld) (u : Nat := 0) : Nat := bits (s.rd f.reg u).toNat f.lo f.width

/-- Sets a field. -/
def Hw.fset (s : Hw) (f : Fld) (v : Nat) (u : Nat := 0) : Hw :=
  s.wr f.reg u (BitVec.ofNat 32 (setBits (s.rd f.reg u).toNat f.lo f.width v))

/-- Whether a one-bit field is set. -/
def Hw.flag (s : Hw) (f : Fld) (u : Nat := 0) : Bool := s.fget f u == 1

/-- Sets a one-bit field. -/
def Hw.fflag (s : Hw) (f : Fld) (b : Bool) (u : Nat := 0) : Hw := s.fset f (if b then 1 else 0) u

/-- Counts n in a 32-bit counter that saturates. -/
def Hw.bump (s : Hw) (f : Fld) (u : Nat := 0) (n : Nat := 1) : Hw :=
  if n = 0 then s else s.wr f.reg u (satAdd (s.rd f.reg u) n)

/-- The 64-bit value of a `_LO`/`_HI` pair (R8). -/
def Hw.rd64 (s : Hw) (lo hi : Reg) (u : Nat := 0) : Nat := (s.rd lo u).toNat + ((s.rd hi u).toNat <<< 32)

/-- Sets a pair. -/
def Hw.wr64 (s : Hw) (lo hi : Reg) (v : Nat) (u : Nat := 0) : Hw :=
  (s.wr lo u (BitVec.ofNat 32 (v % 0x1_0000_0000))).wr hi u (BitVec.ofNat 32 (v >>> 32))

/-! ### Time -/

/-- The beat number (R38). -/
def Hw.beatNo (s : Hw) : Nat := s.rd64 .BEAT_COUNT_LO .BEAT_COUNT_HI

/-- The nominal beat in cycles (R36). -/
def Hw.beatLen (s : Hw) : Nat := 1 <<< s.fget F.BEAT_LEN_LOG2

/-- The trim in force (R68). -/
def Hw.trim (s : Hw) : Int := signed 5 (s.fget F.BEAT_TRIM_TRIM)

/-- The issue window without trim, in units of 64 cycles (R48). -/
def Hw.windowUnits (s : Hw) : Nat := (s.beatLen - 1024) / 64

/-- The service levels (R458). -/
def Hw.level (s : Hw) : Nat := s.fget F.ID_SERVICE_LEVEL

/-- The register blocks that BARE service does not offer answer: BAR0 is live and the module is in WARM or FULL service
(R445, R458). -/
def Hw.regsLive (s : Hw) : Bool := s.boot.phase == Phase.live && s.level != 0

/-- Beats run (R38, R462). -/
def Hw.running (s : Hw) : Bool := s.flag F.BEAT_STATUS_RUN

/-- Milliseconds since the origin (R461). -/
def Hw.millis (s : Hw) : Nat := s.boot.ticks / 1_050_000

/-- Moves the start-up clock on to the row of the timeline given in ms (R462). -/
def Hw.atMs (s : Hw) (ms : Nat) : Hw :=
  { s with boot := { s.boot with ticks := max s.boot.ticks (ms * 1_050_000) } }

/-- A link delay in periods of 0.952 ns as cycles of the running clock (R385). -/
def Hw.delayCycles (s : Hw) (d : Nat) : Nat := if s.boot.full then d else d / 2

/-- The module's identifier (R387). -/
def Hw.me (s : Hw) : Nat := s.fget F.LNK_MODULE_ID

/-- The twin's identifier (R389). -/
def Hw.twinId (s : Hw) : Nat := s.me ^^^ 1

/-! ### Events -/

/-- The UNIT and KIND of a record: an index under module 0, logical tile 1, channel 2, link 3, global unit 4 (R417). DEDUCED, log 16. -/
structure Who where
  kind : Nat := 0
  unit : Nat := 0
  job : Option Nat := none
  stream : Option Nat := none

/-- R417: the record of an event raised now. -/
def Hw.eventRec (s : Hw) (code a0 a1 : Nat) (w : Who) : EventRec :=
  { code := code, arg0 := a0 % 0x1_0000_0000, arg1 := a1 % 0x1_0000_0000, job := w.job, stream := w.stream,
    kind := w.kind, unit := w.unit,
    beat := if s.running then s.beatNo else 0,
    cycle := if s.running then min s.beat.cycle 0x3F_FFFF else min (s.boot.ticks / 1050) 0x3F_FFFF,
    early := !s.running }

/-- R509: the first eight bytes of a trace record, and CYCLE and BEAT. -/
def Hw.traceRec (s : Hw) (kind q tile stream tag : Nat) (tail : Nat) : List Byte :=
  toBytes 1 kind ++ toBytes 1 q ++ toBytes 2 tile ++ toBytes 2 stream ++ toBytes 2 tag ++
    toBytes 8 (min s.beat.cycle 0x3F_FFFF + ((s.beatNo % (1 <<< 42)) <<< 22)) ++ toBytes 16 tail

/-- R509: puts a record into the rim buffer of 512, or counts it as lost. -/
def Hw.trace (s : Hw) (r : List Byte) : Hw :=
  if s.flag F.DBG_TRACE_CTL_EN && s.flag F.DBG_TRACE_CTL_RUNNING && !s.flag F.DBG_TRACE_CTL_FULL then
    if s.test.trace.length < 512 then { s with test := { s.test with trace := s.test.trace ++ [r] } }
    else s.bump F.DBG_TRACE_LOST_COUNT
  else s

/-- R419: an event waits for the host ring in a buffer of 256, or is dropped and counted. -/
def Hw.queueEvent (s : Hw) (e : EventRec) : Hw :=
  if s.host.waiting.length < 256 then { s with host := { s.host with waiting := s.host.waiting ++ [e] } }
  else { s.bump F.HIF_EVT_LOST_COUNT with host := { s.host with dropped := s.host.dropped + 1 } }

/-- R451: where `PAT.LOG_MASK` has its range, an event waits for the event log in a buffer of 256, or counts there. -/
def Hw.logEvent (s : Hw) (e : EventRec) : Hw :=
  if bit (s.fget F.PAT_LOG_MASK_RANGES) (e.code >>> 12) then
    if s.pat.logWait.length < 256 then { s with pat := { s.pat with logWait := s.pat.logWait ++ [e] } }
    else { s.bump F.PAT_LOG_LOST_COUNT with pat := { s.pat with logLost := s.pat.logLost + 1 } }
  else s

/-- R509: with SRC_EVENT an event goes into the trace. -/
def Hw.traceEvent (s : Hw) (e : EventRec) : Hw :=
  if s.flag F.DBG_TRACE_CTL_SRC_EVENT then
    s.trace (s.traceRec 2 0 0 (e.stream.getD 0) 0 (e.code + (e.arg0 <<< 32) + (e.arg1 <<< 64)))
  else s

/-- R419, R451, R509: an event is raised. -/
def Hw.raise (s : Hw) (code a0 a1 : Nat) (w : Who := {}) : Hw :=
  ((s.queueEvent (s.eventRec code a0 a1 w)).logEvent (s.eventRec code a0 a1 w)).traceEvent (s.eventRec code a0 a1 w)

/-- An event raised at most once a beat for a key (R353, R412, R446, R520). -/
def Hw.raiseOnce (s : Hw) (code key a0 a1 : Nat) (w : Who := {}) : Hw :=
  if s.host.once.contains (code, key) then s
  else ({ s with host := { s.host with once := (code, key) :: s.host.once } } : Hw).raise code a0 a1 w

/-- Two items of an event argument: A in [15:0], B in [31:16] (R521). -/
def pack2 (a b : Nat) : Nat := a % 0x1_0000 + ((b % 0x1_0000) <<< 16)

/-! ### Tiles -/

/-- R17: the number of physical tile (d, c, r). -/
def physNo (d c r : Nat) : Nat := d * 72 + c * 8 + r

/-- R20: the home position of logical tile t. -/
def homePhys (t : Nat) : Nat :=
  let x := t % 32
  let y := t / 32
  physNo (y / 8 * 4 + x / 8) (x % 8) (y % 8)

/-- The die of a physical tile, its column and its row. -/
def physDie (p : Nat) : Nat := p / 72
def physCol (p : Nat) : Nat := p % 72 / 8
def physRow (p : Nat) : Nat := p % 8

/-- R20: the die of a logical tile. -/
def tileDie (t : Nat) : Nat := physDie (homePhys t)

/-- R24: the physical tile a logical tile stands on. -/
def Hw.physOf (s : Hw) (t : Nat) : Nat := (Sparse.find? s.flt.remap t).getD (homePhys t)

def Hw.getPhys (s : Hw) (p : Nat) : Phys := Sparse.get Phys.reset s.phys p
def Hw.setPhys (s : Hw) (p : Nat) (x : Phys) : Hw := { s with phys := Sparse.put Phys.reset s.phys p x }

def Hw.getTile (s : Hw) (t : Nat) : Tile := Sparse.get Tile.reset s.tiles t
def Hw.setTile (s : Hw) (t : Nat) (x : Tile) : Hw := { s with tiles := Sparse.put Tile.reset s.tiles t x }

def Tile.queue (x : Tile) (q : Nat) : QueueState := Sparse.get QueueState.reset x.queues q
def Tile.setQueue (x : Tile) (q : Nat) (v : QueueState) : Tile :=
  { x with queues := Sparse.put QueueState.reset x.queues q v }

def Hw.getQueue (s : Hw) (t q : Nat) : QueueState := (s.getTile t).queue q
def Hw.setQueue (s : Hw) (t q : Nat) (v : QueueState) : Hw := s.setTile t ((s.getTile t).setQueue q v)

/-- The logical tile that stands on a physical tile, if one does. -/
def Hw.logicalOf (s : Hw) (p : Nat) : Option Nat :=
  (List.range 512).find? (fun t => s.physOf t == p && !s.flt.offline.contains t)

/-- A unit serves: in service, or still so until its drain completes (R327, R328). -/
def UnitSt.serves : UnitSt → Bool
  | .in_ | .draining => true
  | _ => false

/-- A logical tile is admitted: its physical tile is in service (R21, R464). -/
def Hw.admitted (s : Hw) (t : Nat) : Bool :=
  t < 512 && !s.flt.offline.contains t && (s.getPhys (s.physOf t)).st.serves

def Hw.getChan (s : Hw) (c : Nat) : Chan := Sparse.get Chan.reset s.chans c
def Hw.setChan (s : Hw) (c : Nat) (x : Chan) : Hw := { s with chans := Sparse.put Chan.reset s.chans c x }

def Hw.getLink (s : Hw) (l : Nat) : Link := Sparse.get Link.reset s.links l
def Hw.setLink (s : Hw) (l : Nat) (x : Link) : Hw := { s with links := Sparse.put Link.reset s.links l x }

def Hw.getStream (s : Hw) (n : Nat) : StreamSt := Sparse.get StreamSt.reset s.streams n
def Hw.setStream (s : Hw) (n : Nat) (x : StreamSt) : Hw := { s with streams := Sparse.put StreamSt.reset s.streams n x }

def Hw.getJob (s : Hw) (j : Nat) : Job := Sparse.get Job.reset s.jobs j
def Hw.setJob (s : Hw) (j : Nat) (x : Job) : Hw := { s with jobs := Sparse.put Job.reset s.jobs j x }

def Hw.getLayer (s : Hw) (l : Nat) : Layer := Sparse.get Layer.reset s.layers l
def Hw.setLayer (s : Hw) (l : Nat) (x : Layer) : Hw := { s with layers := Sparse.put Layer.reset s.layers l x }

def Hw.modPhys (s : Hw) (p : Nat) (f : Phys → Phys) : Hw := s.setPhys p (f (s.getPhys p))
def Hw.modTile (s : Hw) (t : Nat) (f : Tile → Tile) : Hw := s.setTile t (f (s.getTile t))
def Hw.modQueue (s : Hw) (t q : Nat) (f : QueueState → QueueState) : Hw := s.setQueue t q (f (s.getQueue t q))
def Hw.modChan (s : Hw) (c : Nat) (f : Chan → Chan) : Hw := s.setChan c (f (s.getChan c))
def Hw.modLink (s : Hw) (l : Nat) (f : Link → Link) : Hw := s.setLink l (f (s.getLink l))
def Hw.modStream (s : Hw) (n : Nat) (f : StreamSt → StreamSt) : Hw := s.setStream n (f (s.getStream n))
def Hw.modJob (s : Hw) (j : Nat) (f : Job → Job) : Hw := s.setJob j (f (s.getJob j))
def Hw.modLayer (s : Hw) (l : Nat) (f : Layer → Layer) : Hw := s.setLayer l (f (s.getLayer l))

def FrameState.ctx (f : FrameState) (n : Nat) : StreamCtx := Sparse.get StreamCtx.reset f.ctxs n
/-- R104, R108: a block is loaded into the shadow bank of a loom (0 or 1), and the banks swap. -/
def FrameState.load (f : FrameState) (loom : Nat) (h : Heddle) : FrameState :=
  let old := match Sparse.find? f.banks (2 * loom) with | some a => Sparse.set f.banks (2 * loom + 1) a | none => f.banks
  { f with banks := Sparse.set old (2 * loom) h }

def FrameState.setCtx (f : FrameState) (n : Nat) (c : StreamCtx) : FrameState :=
  { f with ctxs := Sparse.put StreamCtx.reset f.ctxs n c }

/-- R55: the address of a frame of the pool. -/
def Hw.frameAddr (s : Hw) (f : Nat) : Nat := s.rd64 .BEAT_FRAME_BASE_LO .BEAT_FRAME_BASE_HI % (1 <<< 40) + 0x8000 * f

def Hw.getFrame (s : Hw) (f : Nat) : FrameState := Sparse.get FrameState.empty s.frames (s.frameAddr f)
def Hw.setFrame (s : Hw) (f : Nat) (x : FrameState) : Hw :=
  { s with frames := Sparse.put FrameState.empty s.frames (s.frameAddr f) x }

/-- A stream's context where it stands on tile t. -/
def Hw.ctxOn (s : Hw) (t n : Nat) : StreamCtx := (s.getTile t).fs.ctx n
def Hw.setCtxOn (s : Hw) (t n : Nat) (c : StreamCtx) : Hw :=
  let x := s.getTile t
  s.setTile t { x with fs := x.fs.setCtx n c }

/-- The tile a stream's home frame is resident on, if any (R225). -/
def Hw.tileOfStream (s : Hw) (n : Nat) : Option Nat :=
  let f := s.fget F.STRM_FRAME_FRAME n
  if f = 0xF_FFFF then none else (List.find? (fun e => e.2.frame == some f) s.tiles).map (·.1)

/-- A stream's context wherever its home frame is. -/
def Hw.ctxOf (s : Hw) (n : Nat) : StreamCtx :=
  match s.tileOfStream n with
  | some t => s.ctxOn t n
  | none => (s.getFrame (s.fget F.STRM_FRAME_FRAME n)).ctx n

def Hw.setCtxOf (s : Hw) (n : Nat) (c : StreamCtx) : Hw :=
  match s.tileOfStream n with
  | some t => s.setCtxOn t n c
  | none =>
    let f := s.fget F.STRM_FRAME_FRAME n
    if f = 0xF_FFFF then s else s.setFrame f ((s.getFrame f).setCtx n c)

/-- The parts that a unit use takes: loom A 0, loom B 1, Shuttle 2, Finisher 3, move engine 4, and the link unit 5. -/
def UnitUse.parts : UnitUse → List Nat
  | .none => []
  | .loomA => [0]
  | .loomB => [1]
  | .looms => [0, 1]
  | .shuttle => [2]
  | .shuttleLoom b => if b = 0 then [2, 0] else if b = 1 then [2, 1] else [2, 0, 1]
  | .finisher => [3]
  | .move => [4]
  | .link => [5]
  | .update => [3]
  | .updateLoom => [3, 0]

/-- The unit belongs to the tile: not the link unit (R65). -/
def UnitUse.inTile : UnitUse → Bool
  | .none | .link => false
  | _ => true

/-- Commands of the set resident on a tile that are issued and not complete. -/
def Hw.liveOn (s : Hw) (t : Nat) : List InFlight :=
  (s.getTile t).fs.ctxs.flatMap (fun e => e.2.flight.filter (fun f => f.stage != Stage.completed))

/-- R62, R64: a command that has been suspended or abandoned, and has not resumed, has left its unit. -/
def Stage.away : Stage → Bool
  | .carried | .held _ | .again => true
  | _ => false

/-- The command that occupies a part of a tile, if one does; a suspended one has left it (R62). -/
def Hw.busyPart (s : Hw) (t p : Nat) : Option InFlight :=
  (s.liveOn t).find? (fun f => !f.stage.away && f.unit.inTile && f.unit.parts.contains p)

/-- Marks that a shadow field of a stream changed in this beat (R235). -/
def Hw.shadowTouch (s : Hw) (n : Nat) : Hw := s.setStream n { s.getStream n with shadowDirty := true }

/-! ### The address map -/

/-- R338: the fold of a row number. -/
def rowFold (q : Nat) : Nat :=
  (List.range 8).foldl (fun a i => a ^^^ bits q (3 * i) 3) (bits q 24 1)

/-- R338: the channel of a GDDR7 address and its row. -/
def channelOf (a : Nat) : Nat :=
  let l := a >>> 8
  let q := (l >>> 3) / 5
  8 * ((l >>> 3) % 5) + ((l % 8) ^^^ rowFold q)
def rowOf (a : Nat) : Nat := (a >>> 11) / 5

/-- R339: the first byte of the line held at channel c, row q. -/
def lineAddr (c q : Nat) : Nat := (8 * (5 * q + c / 8) + ((c % 8) ^^^ rowFold q)) * 256

/-- R347: the first row of the window. -/
def windowRow : Nat := 32_715_571

/-- R347: the capacity while the window is unmapped. -/
def windowBase : Nat := 0x4D_FFFF_F800

/-- R347, R460: mapped GDDR7 bytes, from address 0. -/
def Hw.capacity (s : Hw) : Nat :=
  if !s.mu.mapped then 0 else if s.mu.windowOff then windowBase else 0x50_0000_0000

/-- R347, R349, R350: the line of the channel out of the map at row q stands in its new home: it has been copied there by the retirement, or
not yet been copied back by the return. -/
def Hw.rehomed (s : Hw) (o q : Nat) : Bool :=
  decide (q < windowRow) && match s.mu.copy with
  | some false => decide (q < s.mu.copyRow)
  | some true => decide (s.mu.copyRow ≤ q)
  | none => s.mu.windowOff && !(s.getChan o).returning

/-- R347: where a line stands: its channel and row, with the redirection of the channel that is out of the map. -/
def Hw.position (s : Hw) (a : Nat) : Nat × Nat :=
  let c := channelOf a
  let q := rowOf a
  match s.mu.outCh with
  | some o =>
    if c == o && s.rehomed o q then
      let k := q % 39
      ((if k < o then k else k + 1), windowRow + q / 39)
    else (c, q)
  | none => (c, q)

/-- Where a device address leads (R218, R520): GDDR7, a tile store (memory key, physical tile, store offset), an offlined
line (channel, page; R353), or nowhere. -/
inductive Place where
  | gddr (a : Nat)
  | store (key phys off : Nat)
  | offlined (ch page : Nat)
  | unmapped
  deriving DecidableEq, Repr

/-- R218: the first byte of the stores, and of one store. -/
def storeBase : Nat := 0x80_0000_0000
def storeAddr (t : Nat) : Nat := storeBase + t * 0x40_0000

/-- The memory key of a store byte: stores are kept by physical tile. -/
def storeKey (p off : Nat) : Nat := storeBase + p * 0x40_0000 + off

/-- R218: the place of a local device address. -/
def Hw.place (s : Hw) (a : Nat) : Place :=
  if a < 0x50_0000_0000 then
    if a < s.capacity then
      let p := s.position a
      if s.mu.offline.contains (p.1, p.2 / 8) then .offlined p.1 (p.2 / 8) else .gddr a
    else .unmapped
  else if storeBase ≤ a && a < storeBase + 0x8000_0000 then
    let t := (a - storeBase) / 0x40_0000
    let o := (a - storeBase) % 0x40_0000
    if o < 0x30_0000 && !s.flt.offline.contains t then .store (storeKey (s.physOf t) o) (s.physOf t) o else .unmapped
  else .unmapped

/-! ### Host memory -/

/-- R415: a poisoned request has come: it counts, with event 0x8022 and Poisoned TLP Received. -/
def Hw.poisonRx (s : Hw) (addr bar : Nat) : Hw :=
  ({ s.bump F.HIF_POISON_RX_COUNT with host := { s.host with aerPoison := true } } : Hw).raise 0x8022 addr bar

/-- The (address, byte) pairs of a run of bytes. -/
def runCells (a : Nat) (bs : List Byte) : Sparse Byte := (List.range bs.length).zip bs |>.map (fun p => (a + p.1, p.2))

/-- R407: Bus Master Enable, bit 2 of the command register. -/
def Hw.busMaster (s : Hw) : Bool := bit (Sparse.get 0 s.host.cfg 1).toNat 2 && s.host.linkUp

/-- Writes bytes into host memory (R424). -/
def Hw.hostWrite (s : Hw) (a : Nat) (bs : List Byte) : Hw :=
  { s with host := { s.host with mem := (runCells a bs).foldl (fun m e => Sparse.set m e.1 e.2) s.host.mem } }

/-! ### Observation (R310, R312, R319, R320, R326) -/

/-- The number that names a physical tile in an event: the logical tile on it, or its own (DEDUCED, log 31). -/
def Hw.tileName (s : Hw) (p : Nat) : Nat := (s.logicalOf p).getD p

/-- R325: the 16 bytes of a touch log entry. -/
def Touch.toBytes (e : Touch) : List Byte :=
  Machine.toBytes 8 (e.lo + (e.region <<< 40) + (e.job <<< 52)) ++ Machine.toBytes 8 (e.hi + ((if e.frames then 1 else 0) <<< 40))

/-- R326: copies a tile's touch log into the next slot of the host's ring; answers the slot.  With no slots nothing is
copied; a slot that falls due while Bus Master Enable is clear is not written (R424). DEDUCED, log 34. -/
def Hw.copyLog (s : Hw) (p cause : Nat) : Hw × Nat :=
  let n := s.fget F.FLT_TLOG_SLOTS_COUNT
  if n = 0 then (s, 0)
  else
    let k := s.fget F.FLT_TLOG_NEXT_SLOT
    let x := s.getPhys p
    let bs := toBytes 2 (s.tileName p) ++ toBytes 2 p ++ toBytes 1 cause ++ toBytes 1 (if x.touchedAll then 1 else 0) ++
      toBytes 2 x.log.length ++ toBytes 8 s.beatNo ++ toBytes 8 x.lastPass ++ toBytes 40 0 ++ x.log.flatMap Touch.toBytes
    let s1 := if s.busMaster then s.hostWrite (s.rd64 .FLT_TLOG_BASE_LO .FLT_TLOG_BASE_HI + 8192 * k) bs else s
    (s1.fset F.FLT_TLOG_NEXT_SLOT ((k + 1) % n), k)

/-- R319, R320: something puts a tile under observation: it enters observation with event 0x4022, or, under observation
already, counts one failure; when the failures reach `FLT.OBS.RETIRE` the tile is retired at the next edge window.
`part` is the assay part that its observation assay takes slices of; the
window's beats count from the next edge window. -/
def Hw.observe (s : Hw) (p cause part : Nat) : Hw :=
  let x := s.getPhys p
  if x.observed then
    s.setPhys p { x with fails := x.fails + 1, retireDue := x.retireDue || decide (s.fget F.FLT_OBS_RETIRE ≤ x.fails + 1) }
  else
    (s.setPhys p { x with observed := true, obsLeft := s.fget F.FLT_OBS_BEATS + 1, obsFurther := false, fails := 0, obsPart := part, obsSlice := 0 }).raise
      0x4022 (s.tileName p) cause { kind := 1, unit := s.tileName p }

/-- R321: a router part failed as confirmed: self-drain starts at once. -/
def Hw.routerFailed (s : Hw) (p part : Nat) : Hw :=
  (if s.flag F.FLT_STATUS_DRAINING || s.flag F.FLT_STATUS_DRAINED then s else s.fset F.FLT_STATUS_DRAINING 1).raise
    0x4042 (s.tileName p) part { kind := 1, unit := s.tileName p }

/-- R311, R317, R326: a confirmed failure of an assay part (cause 1) or of a checksum repeat (cause 0). -/
def Hw.confirmedFailure (s : Hw) (p cause part : Nat) : Hw :=
  let s1 := s.observe p cause part
  let c := s1.copyLog p cause
  let s2 := c.1.raise 0x4021 (pack2 (s.tileName p) part) c.2 { kind := 1, unit := s.tileName p }
  if cause = 1 && part = 3 then s2.routerFailed p part else s2

/-- The beats of a list that lie within the last 64. -/
def Hw.recent (s : Hw) (l : List Nat) : List Nat := l.filter (fun b => s.beatNo < b + 64)

/-- R312: a transient on a tile: when the limit is met within 64 beats it enters observation (the count starts again). -/
def Hw.transient (s : Hw) (p : Nat) : Hw :=
  let s1 := s.bump F.FLT_TRANSIENTS_COUNT
  let l := s.beatNo :: s.recent (s.getPhys p).transients
  if s.fget F.FLT_TRANSIENT_LIMIT_COUNT ≤ l.length then
    let s2 := (s1.modPhys p (fun x => { x with transients := [] })).raise 0x4012 (s.tileName p) l.length { kind := 1, unit := s.tileName p }
    ((s2.observe p 3 0).copyLog p 3).1
  else s1.modPhys p (fun x => { x with transients := l })

/-- R310: a tile's store reports a correction: it counts; when the limit is met within 64 beats the tile enters observation
(the count starts again). -/
def Hw.storeCorrection (s : Hw) (p : Nat) : Hw :=
  let s1 := s.bump F.FLT_CE_STORE_COUNT
  let l := s.beatNo :: s.recent (s.getPhys p).corrections
  if s.fget F.FLT_CE_LIMIT_COUNT ≤ l.length then
    let s2 := (s1.modPhys p (fun x => { x with corrections := [] })).raise 0x4006 (s.tileName p) l.length { kind := 1, unit := s.tileName p }
    ((s2.observe p 2 1).copyLog p 2).1
  else s1.modPhys p (fun x => { x with corrections := l })

/-- R506: an injection that forces failures of a kind on a target takes effect once: answers whether it did. -/
def Hw.forced (s : Hw) (kind : Nat) (hit : Injection → Bool) : Hw × Bool :=
  match s.test.inj with
  | some j =>
    if j.kind == kind && j.left != 0 && hit j then
      ({ s with test := { s.test with inj := some { j with left := j.left - 1 } } }, true)
    else (s, false)
  | none => (s, false)

/-! ### Memory cells -/

/-- What an unlisted memory key reads as: 0 (R464, R465), or a free byte where the spec leaves the contents open. -/
def Mem.dflt (m : Mem) (k : Nat) : Byte :=
  match m.free.find? (fun e => decide (e.1 ≤ k) && decide (k ≤ e.2.1)) with
  | some e => Config.freeByte e.2.2 k
  | none => 0

/-- The byte of a memory key. -/
def Mem.byte (m : Mem) (k : Nat) : Byte := Sparse.get (m.dflt k) m.cells k

/-- A stretch of memory takes contents that the spec leaves open, with good check bytes: those of draw n. -/
def Mem.setFree (m : Mem) (lo hi n : Nat) : Mem :=
  { cells := m.cells.filter (fun e => !(decide (lo ≤ e.1) && decide (e.1 ≤ hi))),
    syn := m.syn.filter (fun e => !(decide (lo / 8 ≤ e.1) && decide (e.1 ≤ hi / 8))),
    free := (lo, hi, n) :: m.free.filter (fun e => !(decide (lo ≤ e.1) && decide (e.2.1 ≤ hi))) }

/-- The eight bytes of a word, as a number. -/
def Mem.word (m : Mem) (w : Nat) : Nat := ofBytes ((List.range 8).map (fun i => m.byte (w * 8 + i)))

/-- The syndrome of a word (R301). -/
def Mem.syndrome (m : Mem) (w : Nat) : Syndrome := readSyndrome (Sparse.get 0 m.syn w).toNat

/-- Sets a byte and keeps the canonical form. -/
def Mem.putByte (m : Mem) (k : Nat) (b : Byte) : Mem := { m with cells := Sparse.put (m.dflt k) m.cells k b }

/-- Sets a word's syndrome and keeps the canonical form. -/
def Mem.putSyn (m : Mem) (w e : Nat) : Mem := { m with syn := Sparse.put 0 m.syn w (BitVec.ofNat 8 e) }

/-- R302: marks the atom of a key as dross: all sixteen words. -/
def Mem.markDross (m : Mem) (k : Nat) : Mem :=
  (List.range 16).foldl (fun m i => m.putSyn (k / 128 * 16 + i) 0xFF) m

/-- R302: an atom is dross when any of its words is. -/
def Mem.atomDross (m : Mem) (k : Nat) : Bool :=
  (List.range 16).any (fun i => Sparse.get 0 m.syn (k / 128 * 16 + i) == 0xFF)

/-- R301: the byte a consumer uses: the stored one with a single-bit error of its word corrected. -/
def Mem.goodByte (m : Mem) (k : Nat) : Byte :=
  let b := m.byte k
  match m.syndrome (k / 8) with
  | .dataBit i => if i / 8 = k % 8 then b ^^^ BitVec.ofNat 8 (1 <<< (i % 8)) else b
  | _ => b

/-- The canonical form of device memory. -/
abbrev Mem.wf (m : Mem) : Prop := Sparse.wf m.dflt m.cells = true ∧ Sparse.wf (fun _ => (0 : Byte)) m.syn = true

/-- R308, R336, R516: one word after a write of some of its bytes (index and value): a whole word is replaced with a
correct check byte; a part merges into the corrected word, into a dross word that stays dross, or into an uncorrectable
one whose atom becomes dross.  Answers the memory, whether a single-bit error was corrected, and whether an
uncorrectable one was met. -/
def Mem.writeWord (m : Mem) (w : Nat) (bs : List (Nat × Byte)) : Mem × Bool × Bool :=
  let put := fun (m : Mem) => bs.foldl (fun m b => m.putByte (w * 8 + b.1) b.2) m
  if bs.length = 8 then ((put m).putSyn w 0, false, false)
  else
    match m.syndrome w with
    | .clean => (put m, false, false)
    | .dross => (put m, false, false)
    | .dataBit i =>
      let k := w * 8 + i / 8
      ((put (m.putByte k (m.goodByte k))).putSyn w 0, true, false)
    | .checkBit _ => ((put m).putSyn w 0, true, false)
    | .uncorrectable => ((put m).markDross (w * 8), false, true)

/-- Groups a rising list of (key, byte) into its words. -/
def groupWords : Sparse Byte → List (Nat × List (Nat × Byte))
  | [] => []
  | (k, b) :: l =>
    match groupWords l with
    | (w, bs) :: r => if k / 8 = w then (w, (k % 8, b) :: bs) :: r else (k / 8, [(k % 8, b)]) :: (w, bs) :: r
    | [] => [(k / 8, [(k % 8, b)])]

/-! ### Runs of memory -/

/-- Offsets within n bytes at a memory key where a byte may differ from 0. -/
def Mem.busy (m : Mem) (a n : Nat) : List Nat :=
  (m.cells.filter (fun e => decide (a ≤ e.1) && decide (e.1 < a + n))).map (fun e => e.1 - a) ++
  m.free.flatMap (fun f => (List.range (min (a + n) (f.2.1 + 1) - max a f.1)).map (fun i => max a f.1 - a + i))

/-- The words within n bytes at a key that have an error. -/
def Mem.errors (m : Mem) (a n : Nat) : List Nat :=
  (m.syn.filter (fun e => decide (a / 8 ≤ e.1) && decide (e.1 * 8 < a + n))).map (·.1)

/-- Copies n bytes with their check bytes from one key to another; both are multiples of 8 (R27: a copier does not check). -/
def Mem.copyRun (m : Mem) (src dst n : Nat) : Mem :=
  let m1 := (m.busy src n ++ m.busy dst n).foldl (fun (r : Mem) i => r.putByte (dst + i) (m.byte (src + i))) m
  ((m.errors src n).map (fun w => w - src / 8) ++ (m.errors dst n).map (fun w => w - dst / 8)).foldl
    (fun (r : Mem) k => r.putSyn (dst / 8 + k) (Sparse.get 0 m.syn (src / 8 + k)).toNat) m1

/-- Fills n bytes at a key with zeros. -/
def Mem.zeroRun (m : Mem) (dst n : Nat) : Mem :=
  let m1 := (m.busy dst n).foldl (fun (r : Mem) i => r.putByte (dst + i) 0) m
  (m.errors dst n).foldl (fun (r : Mem) w => r.putSyn w 0) m1

/-! ### Accounting of GDDR7 (R340, R344, R351) -/

/-- Whether a word has a single-bit error. -/
def Mem.singleBit (m : Mem) (w : Nat) : Bool := (m.syndrome w).single

def chanWho (c : Nat) : Who := { kind := 2, unit := c }

/-- R344: n corrected words and replays of a channel in this beat. -/
def Hw.noteErrs (s : Hw) (c n : Nat) : Hw :=
  if n = 0 then s
  else s.modChan c (fun x => { x with errs := (s.beatNo, n) :: x.errs.filter (fun e => decide (s.beatNo < e.1 + 1024)) })

/-- R351: proposes a channel page for offlining. -/
def Hw.propose (s : Hw) (c page cause : Nat) : Hw :=
  if s.mu.props.any (fun e => e.2.1 == c && e.2.2.1 == page) then s
  else
    match List.find? (fun k => (Sparse.find? s.mu.props k).isNone) (List.range 16) with
    | none => s.bump F.MEM_PROP_DROP_COUNT
    | some k =>
      ({ s with mu := { s.mu with props := Sparse.set s.mu.props k (c, page, cause, false) } } : Hw).raise
        0x5040 k (c + (page <<< 8)) (chanWho c)

/-- R342: an atom with a single-bit error enters its channel's demand-scrub queue of 64; one that finds it full is left to the patrol
scrub. -/
def Hw.queueScrub (s : Hw) (c a : Nat) : Hw :=
  s.modChan c (fun x => if x.scrubQ.contains a || 64 ≤ x.scrubQ.length then x else { x with scrubQ := x.scrubQ ++ [a] })

/-- The words of an atom of GDDR7 with an error. -/
def Hw.atomErrors (s : Hw) (a : Nat) : List Nat :=
  (s.mem.syn.filter (fun e => decide (a / 8 ≤ e.1) && decide (e.1 < a / 8 + 16))).map (·.1)

/-- Words with the syndromes they are stored with. -/
def Hw.withSyn (s : Hw) (ws : List Nat) : List (Nat × Syndrome) := ws.map (fun w => (w, s.mem.syndrome w))

/-- R340: a word with a single-bit error, by its syndrome, that the controller of channel c has read. -/
def Hw.countSingle (s : Hw) (c : Nat) (e : Syndrome) : Hw :=
  ((s.bump F.MEM_CH_CE_COUNT c).bump F.MEM_CH_DEV_CE_COUNT (c * 16 + e.device)).noteErrs c 1

/-- R340, R343, R351: the controller of an atom of GDDR7 has read some of its words, with their syndromes: those with a single-bit error are
counted, and the atom queued; uncorrectable ones are counted, and the atom rewritten as dross with the event given, and its page proposed. -/
def Hw.accountWords (s : Hw) (a : Nat) (es : List (Nat × Syndrome)) (event : Nat) : Hw :=
  let pos := s.position a
  let c := pos.1
  let ones := es.filter (·.2.single)
  let bad := (es.filter (fun e => e.2 == .uncorrectable)).length
  let s1 := ones.foldl (fun s e => s.countSingle c e.2) s
  if bad = 0 then (if ones.isEmpty then s1 else s1.queueScrub c a)
  else
    let s2 := (({ s1 with mem := s1.mem.markDross a } : Hw).bump F.FLT_DROSS_MADE_COUNT).bump F.MEM_CH_UE_COUNT c bad
    (s2.raise event a (a >>> 32) (chanWho c)).propose c (pos.2 / 8) 1

/-- R340: the controllers have read every atom of a stretch of GDDR7, for a reader that forwards the words unchanged. -/
def Hw.accountRun (s : Hw) (a n : Nat) : Hw :=
  ((s.mem.syn.filter (fun e => decide (a / 8 ≤ e.1) && decide (e.1 * 8 < a + n))).map (fun e => e.1 / 16 * 128)).eraseDups.foldl
    (fun s k => s.accountWords k (s.withSyn (s.atomErrors k)) 0x5011) s

/-- R353: an access to an offlined line of a channel page: it counts, and raises event 0x5043 once per page and beat. -/
def Hw.offAccess (s : Hw) (ch page : Nat) : Hw :=
  (s.bump F.MEM_OFF_ACCESS_COUNT).raiseOnce 0x5043 (ch * 0x40_0000 + page) ch page (chanWho ch)

/-- Counts what a write's merges met, for a word of a store (R516) or of GDDR7 (R336, R340). -/
def Hw.countMerge (s : Hw) (w : Nat) (ce ue : Bool) : Hw :=
  let key := w * 8
  let s1 :=
    if ce then
      if storeBase ≤ key then
        s.storeCorrection ((key - storeBase) / 0x40_0000)
      else s
    else s
  if ue then (s1.bump F.FLT_UE_COUNT).bump F.FLT_DROSS_MADE_COUNT else s1

/-- R301, R340: a word that its controller forwarded as it was read, uncorrectable, while it rewrote the atom: the first unit
that takes it in counts the error; a write of the whole word ends that. DEDUCED, log 19. -/
def Hw.takeForwarded (s : Hw) (w : Nat) (counts : Bool) : Hw :=
  if s.mu.forwarded.contains w then
    let s1 : Hw := { s with mu := { s.mu with forwarded := s.mu.forwarded.filter (fun x => x != w) } }
    if counts && s.mem.syndrome w == .dross then s1.bump F.FLT_UE_COUNT else s1
  else s

/-- R336, R340: the words of an atom of GDDR7 with an error that its controller reads to merge a write into it: none where the write covers
the whole atom, and not the words that it replaces whole (DEDUCED, log 19). -/
def Hw.mergeReads (s : Hw) (a : Nat) (gs : List (Nat × List (Nat × Byte))) : List Nat :=
  let whole := (gs.filter (fun g => g.1 / 16 * 128 == a && g.2.length == 8)).map (·.1)
  if whole.length = 16 then [] else (s.atomErrors a).filter (fun w => !whole.contains w)

/-- R301, R336, R340: the controllers read the atoms of GDDR7 that a write covers in part, as consumers: the state, and the atoms that an
uncorrectable word has made dross. -/
def Hw.mergeAtoms (s : Hw) (gs : List (Nat × List (Nat × Byte))) : Hw × List Nat :=
  ((s.mem.syn.map (fun e => e.1 / 16 * 128)).filter (fun a => decide (a < storeBase) && gs.any (fun g => g.1 / 16 * 128 == a))).eraseDups.foldl
    (fun (r : Hw × List Nat) a =>
      let es := r.1.withSyn (r.1.mergeReads a gs)
      let ue := (es.filter (fun e => e.2 == .uncorrectable)).length
      ((r.1.accountWords a es 0x5011).bump F.FLT_UE_COUNT 0 ue, if ue = 0 then r.2 else r.2 ++ [a])) (s, [])

/-- Writes bytes at memory keys, word by word (R308).  An atom in which the merge met an uncorrectable word is dross, whole. -/
def Hw.writeKeys (s : Hw) (c : Sparse Byte) : Hw :=
  let r := s.mergeAtoms (groupWords c)
  let s1 := (groupWords c).foldl (fun s g =>
    let r := s.mem.writeWord g.1 g.2
    (({ s with mem := r.1 } : Hw).countMerge g.1 r.2.1 r.2.2).takeForwarded g.1 (g.2.length != 8)) r.1
  { s1 with mem := r.2.foldl Mem.markDross s1.mem }

/-- R400: the position in a manifest of a GDDR7 address, if a range of it holds the address. -/
def manifestPos : List (Nat × Nat) → Nat → Option Nat
  | [], _ => none
  | (b, n) :: l, a => if b ≤ a && a < b + n then some (a - b) else (manifestPos l a).map (· + n)

/-- R400: while the module is SEEDING, writes into the manifest's ranges other than the twin's are discarded. -/
def Hw.seedGuard (s : Hw) (a : Nat) : Bool := s.fget F.TWIN_STATUS_STATE == 4 && (manifestPos s.twin.manifest a).isSome

/-- R400: the atoms to mirror after a write: those of lines already copied. -/
def mirrorWith (m : List (Nat × Nat)) (copied : Nat) (l : List Nat) (a : Nat) : List Nat :=
  match manifestPos m a with
  | some q => if q / 256 * 256 < copied && !l.contains (a / 128 * 128) then l ++ [a / 128 * 128] else l
  | none => l

/-- R400: a donor mirrors what it writes to a line that it has copied. -/
def Hw.noteMirror (s : Hw) (addrs : List Nat) : Hw :=
  if s.fget F.TWIN_STATUS_STATE = 5 then
    { s with twin := { s.twin with mirror := addrs.foldl (mirrorWith s.twin.manifest s.twin.copied) s.twin.mirror } }
  else s

/-- R446, R445: the staging area: at `PAT.STAGE_BASE`, or in BARE service at address 0. -/
def Hw.stageBase (s : Hw) : Nat :=
  if s.level = 0 then 0 else s.rd64 .PAT_STAGE_BASE_LO .PAT_STAGE_BASE_HI % (1 <<< 40) / 0x1_0000 * 0x1_0000

/-- R446: the image buffer is locked while an operation reads it, the request buffer while a SEC operation that reads or writes it runs; that is
any but RAISE_FLOOR. -/
def Hw.lockedAt (s : Hw) (a : Nat) : Bool :=
  (s.flag F.PAT_STATUS_LOCKED && s.stageBase ≤ a && a < s.stageBase + 0x100_0000) ||
  (s.pat.sec.any (fun o => o.op != 6) && s.stageBase + 0x100_0000 ≤ a && a < s.stageBase + 0x101_0000)

/-- R446: a write that meets the lock is discarded and counted. -/
def Hw.stageDrop (s : Hw) (a : Nat) : Hw := (s.bump F.PAT_STAGE_DROP_COUNT).raiseOnce 0x9012 0 a (a >>> 32) { kind := 4 }

/-- Writes bytes at device addresses: a write into a locked staging buffer is discarded (R446); what leads nowhere is discarded with event 0x5051 (R520), what leads to an offlined
line is discarded and counted (R353), what a re-seed guards is discarded with event 0x7022 (R400). -/
def Hw.writeAddrs (s0 : Hw) (c0 : Sparse Byte) : Hw :=
  let hit := if s0.flag F.PAT_STATUS_LOCKED || s0.pat.sec.isSome then (List.find? (fun e => s0.lockedAt e.1) c0).map (·.1) else none
  let s := match hit with | some a => s0.stageDrop a | none => s0
  let c := if hit.isSome then c0.filter (fun e => !s0.lockedAt e.1) else c0
  let step := fun (r : Hw × Sparse Byte) (e : Nat × Byte) =>
    match r.1.place e.1 with
    | .gddr a =>
      if r.1.seedGuard a then (r.1.raiseOnce 0x7022 0 a (a >>> 32) { kind := 4 }, r.2) else (r.1, Sparse.set r.2 a e.2)
    | .store k _ _ => (r.1, Sparse.set r.2 k e.2)
    | .offlined _ _ => r
    | .unmapped => (r.1.raiseOnce 0x5051 0 e.1 (e.1 >>> 32), r.2)
  let r := c.foldl step (s, [])
  -- R335, R353: an access moves one atom
  let off := if s.mu.offline.isEmpty then [] else ((c.map (fun e => e.1 / 128 * 128)).eraseDups.filterMap (fun a =>
    match s.place a with | .offlined ch p => some (ch, p) | _ => none))
  let s1 := off.foldl (fun s e => s.offAccess e.1 e.2) r.1
  (s1.writeKeys r.2).noteMirror (r.2.map (·.1))

/-- Writes a run of bytes at a device address. -/
def Hw.writeRun (s : Hw) (a : Nat) (bs : List Byte) : Hw := s.writeAddrs (runCells a bs)

/-- A byte at a device address as its reader gets it: 0 where it leads nowhere (R520) or is dross's stored byte. -/
def Hw.peek (s : Hw) (a : Nat) : Byte :=
  match s.place a with
  | .gddr k => s.mem.goodByte k
  | .store k _ _ => s.mem.goodByte k
  | _ => 0

/-- A run of bytes at a device address. -/
def Hw.peekRun (s : Hw) (a n : Nat) : List Byte := (List.range n).map (fun i => s.peek (a + i))

/-- Whether the atom that holds a device address reads as dross; an offlined line does (R353). -/
def Hw.drossAt (s : Hw) (a : Nat) : Bool :=
  match s.place a with
  | .gddr k => s.mem.atomDross k
  | .store k _ _ => s.mem.atomDross k
  | .offlined _ _ => true
  | .unmapped => false

/-- R302: marks the atom at a device address as dross. -/
def Hw.invertAtom (s : Hw) (a : Nat) : Hw :=
  match s.place a with
  | .gddr k =>
    if s.lockedAt k then s.stageDrop k
    else if s.seedGuard k then s.raiseOnce 0x7022 0 k (k >>> 32) { kind := 4 } else ({ s with mem := s.mem.markDross k } : Hw).noteMirror [k]
  | .store k _ _ => { s with mem := s.mem.markDross k }
  | _ => s

/-- Whether a device address leads to a byte. -/
def Hw.leads (s : Hw) (a : Nat) : Bool :=
  match s.place a with
  | .gddr _ => true
  | .store _ _ _ => true
  | _ => false

/-- R303: makes dross of the atom at a device address and counts it. -/
def Hw.markDross (s : Hw) (a : Nat) : Hw := (s.invertAtom a).bump F.FLT_DROSS_MADE_COUNT 0 (if s.leads a then 1 else 0)

/-- The atoms (device addresses) that a range touches. -/
def atomsOf (lo hi : Nat) : List Nat := (List.range (hi / 128 + 1 - lo / 128)).map (fun i => (lo / 128 + i) * 128)

/-- The memory key of a device address; an offlined line keeps its own (R353). -/
def Hw.keyOf (s : Hw) (a : Nat) : Option Nat :=
  match s.place a with
  | .gddr k => some k
  | .store k _ _ => some k
  | .offlined _ _ => some a
  | .unmapped => none

/-- R353: a device address leads to an offlined line. -/
def Hw.isOffline (s : Hw) (a : Nat) : Bool :=
  !s.mu.offline.isEmpty && (match s.place a with | .offlined _ _ => true | _ => false)

/-- The memory keys of the atoms with an error that a device range touches. -/
def Hw.errorWords (s : Hw) (lo hi : Nat) : List Nat :=
  match s.keyOf (lo / 128 * 128) with
  | some k => (s.mem.syn.filter (fun e => k / 8 ≤ e.1 && e.1 * 8 ≤ k + (hi - lo / 128 * 128) / 128 * 128 + 127)).map (·.1)
  | none => []

/-- R310: a word of a store with a single-bit error is reported to its store. -/
def Hw.reportWord (s : Hw) (w : Nat) : Hw :=
  let p := (w * 8 - storeBase) / 0x40_0000
  let off := (w * 8 - storeBase) % 0x40_0000
  s.modPhys p (fun x => { x with writeback := if x.writeback.contains off then x.writeback else x.writeback ++ [off] })

/-- R301, R303, R310, R340: a consumer takes in words of the atom at a memory key, those with an error.  Each uncorrectable one counts, and
makes the atom there dross.  The controller accounts for an atom of GDDR7 as it reads it, unless it has done so already; a single-bit error
in a store is reported to it. -/
def Hw.takeAtom (s : Hw) (k : Nat) (ws : List Nat) : Hw :=
  let ue := (ws.filter (fun w => s.mem.syndrome w == .uncorrectable)).length
  if storeBase ≤ k then
    let s1 := (ws.filter s.mem.singleBit).foldl Hw.reportWord s
    if ue = 0 then s1 else (({ s1 with mem := s1.mem.markDross k } : Hw).bump F.FLT_UE_COUNT 0 ue).bump F.FLT_DROSS_MADE_COUNT
  else
    let s1 :=
      if s.mu.served.contains k then { s with mu := { s.mu with served := s.mu.served.filter (fun x => x != k) } }
      else s.accountWords k (s.withSyn (s.atomErrors k)) 0x5011
    ws.foldl (fun s w => s.takeForwarded w true) (s1.bump F.FLT_UE_COUNT 0 ue)

/-- A consumer takes in words with an error, atom by atom. -/
def Hw.takeWords (s : Hw) (ws : List Nat) : Hw :=
  ((ws.map (fun w => w / 16 * 128)).eraseDups).foldl (fun s k => s.takeAtom k (ws.filter (fun w => w / 16 * 128 == k))) s

/-- Bytes that a consumer takes in: a device range, and which stretches of it the consumer's elements lie in. -/
structure Span where
  lo : Nat
  hi : Nat
  hit : Nat → Nat → Bool := fun _ _ => true

/-- The device address of a memory word of a span. -/
def Hw.wordAddr (s : Hw) (r : Span) (w : Nat) : Nat :=
  r.lo / 128 * 128 + (w * 8 - (s.keyOf (r.lo / 128 * 128)).getD 0)

/-- R301, R302: a consumer takes in spans: answers the state with the accounting of the words it takes in done, and the
first atom of theirs that is dross. -/
def Hw.consumeBy (s : Hw) (spans : List Span) : Hw × Option Nat :=
  let word := fun (r : Span) (w : Nat) =>
    let a := s.wordAddr r w
    decide (r.lo < a + 8) && decide (a ≤ r.hi) && r.hit a (a + 7) && !s.isOffline a
  let atom := fun (r : Span) (a : Nat) => r.hit (max r.lo (a / 128 * 128)) (min r.hi (a / 128 * 128 + 127))
  let hits := (spans.flatMap (fun r => (s.errorWords r.lo r.hi).filter (word r))).eraseDups
  let s1 := s.takeWords hits
  let off := if s.mu.offline.isEmpty then [] else (spans.flatMap (fun r => (atomsOf r.lo r.hi).filter (fun a =>
    s.isOffline a && atom r a))).eraseDups
  let bad := spans.findSome? (fun r => ((s.errorWords r.lo r.hi).find? (fun w =>
    (s.mem.syndrome w == .dross && atom r (s.wordAddr r w)) || (s.mem.syndrome w == .uncorrectable && word r w))).map (fun w =>
      s.wordAddr r w / 128 * 128))
  (off.foldl (fun s a => s.offAccess (s.position a).1 ((s.position a).2 / 8)) s1, if off.isEmpty then bad else off.head?)

/-- A consumer takes in every byte of device ranges (first and last byte). -/
def Hw.consume (s : Hw) (ranges : List (Nat × Nat)) : Hw × Option Nat :=
  s.consumeBy (ranges.map (fun r => { lo := r.1, hi := r.2 }))

/-- R301, R305: a unit takes in n bytes of a structure at a device address: the first atom of it that is dross. -/
def Hw.takeIn (s : Hw) (a n : Nat) : Hw × Option Nat := s.consume [(a, a + n - 1)]

/-- R520: a device read of a structure in GDDR7: the bytes, zeros where it leads nowhere (with event 0x5051); and the
first address of it that does not lie in mapped GDDR7. -/
def Hw.fetchGddr (s : Hw) (a n : Nat) : Hw × List Byte × Option Nat :=
  let bad := if a + n ≤ s.capacity then none else some (max a s.capacity)
  match bad with
  | some b => (s.raiseOnce 0x5051 0 b (b >>> 32), (List.range n).map (fun i => if a + i < s.capacity then s.peek (a + i) else 0), some b)
  | none => (s, s.peekRun a n, none)

/-! ### Streams and jobs stop -/

/-- R246: faults a stream with a cause: it issues nothing further and its commands in flight are abandoned. -/
def Hw.faultStream (s : Hw) (n cause : Nat) : Hw :=
  if s.flag F.STRM_STATE_FAULTED n then s
  else
    let c := s.ctxOf n
    let s1 := s.setCtxOf n { c with flight := c.flight.filter (fun f => f.stage == .completed) }
    let s2 := match s1.tileOfStream n with
      | some t =>
        let x := s1.getTile t
        s1.setTile t { x with blocks := x.blocks.filter (fun b => b.stream != n) }
      | none => s1
    ((s2.fset F.STRM_STATE_FAULTED 1 n).fset F.STRM_STATE_CAUSE cause n).shadowTouch n

/-- The streams whose context has been given a job and is enabled: those listed with a register written. -/
def Hw.streamsOfJob (s : Hw) (j : Nat) : List Nat :=
  ((s.regs.filter (fun e => e.1 % 512 == Reg.STRM_CTL.ctorIdx && bit e.2.toNat 0)).map (fun e => e.1 / 512)).filter
    (fun n => s.fget F.STRM_JOB_JOB n == j)

/-- R305 step 1: faults every stream of a job with cause JOB. -/
def Hw.faultJob (s : Hw) (j : Nat) : Hw := (s.streamsOfJob j).foldl (fun s n => s.faultStream n 7) s

/-- R361: a control record: TYPE, DST, SRC, HOPS and the body of bytes 6 to 15. -/
def ctlRecord (type dst src hops body : Nat) : BitVec 128 :=
  BitVec.ofNat 128 (type + ((dst % 4096) <<< 8) + ((src % 4096) <<< 24) + ((hops % 256) <<< 40) + (body <<< 48))

/-- R363, R391: a beat marker and a hello ride in the first flit after their edge. -/
def edgeRecord (r : BitVec 128) : Bool := bits r.toNat 0 8 == 1 || bits r.toNat 0 8 == 0x0A

/-- Puts a record on a link's queue of control records; one of the edge goes first. -/
def Hw.sendRecord (s : Hw) (l : Nat) (r : BitVec 128) : Hw :=
  let x := s.getLink l
  s.setLink l { x with records := if edgeRecord r then r :: x.records else x.records ++ [r] }

/-- R383, R386: the link is in the admitted state. -/
def Hw.linkUp (s : Hw) (l : Nat) : Bool := s.fget F.LNK_LSTATE_STATE l == 2

/-- The admitted links, ascending. -/
def Hw.admittedLinks (s : Hw) : List Nat := (List.range 64).filter s.linkUp

/-- R366: the usable links of the route to a module: the admitted ones of the primary mask, or of the alternate mask. -/
def Hw.routeLinks (s : Hw) (m : Nat) : List Nat :=
  let prim := (bitList 64 (s.rd64 .LNK_RT_MASK_LO .LNK_RT_MASK_HI m)).filter s.linkUp
  if prim.isEmpty then (bitList 64 (s.rd64 .LNK_RT_ALT_LO .LNK_RT_ALT_HI m)).filter s.linkUp else prim

/-- R366: the link a flit for module m takes, by the hash of XFER and the address. -/
def Hw.routeOf (s : Hw) (m xfer addr : Nat) : Option Nat :=
  let ls := s.routeLinks m
  if ls.isEmpty then none else ls[(xfer ^^^ bits addr 11 37) % ls.length]?

/-- R366, R367: routes a control record for a module; where no link is usable it waits in the link unit. -/
def Hw.routeRecord (s : Hw) (dst : Nat) (r : BitVec 128) : Hw :=
  match s.routeOf dst 0 0 with
  | some l => s.sendRecord l r
  | none => { s with lnk := { s.lnk with noRouteRec := s.lnk.noRouteRec ++ [(r, dst, s.beatNo, none)] } }

/-- R305: a unit consumes dross at a device address for a stream.  The job's streams on the module are faulted, event
0x4001 is raised, the abort message goes out on every admitted link, and the open round ends in ABORT at the next edge.
Kinds of consumer: 0 loom, 1 Shuttle, 2 Finisher, 3 link reduction, 4 update engine, 5 queue engine, 6 frame restore. -/
def Hw.consumeDross (s : Hw) (n addr kind tile : Nat) : Hw :=
  let j := s.fget F.STRM_JOB_JOB n
  let s1 := s.faultJob j
  let s2 := s1.raise 0x4001 addr (bits addr 32 8 + (kind <<< 8)) { kind := 1, unit := tile, job := some j, stream := some n }
  let life := min (ceilDiv (16 * s.beatLen * (if s.boot.full then 1 else 2)) 1024) 65535
  let body := j + ((s.lnk.nextAbort % 65536) <<< 16) + ((s.beatNo % (1 <<< 32)) <<< 32) + (life <<< 64)
  let s3 := s2.admittedLinks.foldl (fun s l => s.sendRecord l (ctlRecord 0x05 0xFFF s.me 16 body)) s2
  let s4 := { s3 with lnk := { s3.lnk with
    nextAbort := s3.lnk.nextAbort + 1, aborts := (s3.me, s3.lnk.nextAbort % 65536, s3.beatNo) :: s3.lnk.aborts } }
  (s4.setJob j { s4.getJob j with abortDue := true }).bump F.FLT_JOB_ABORTS_COUNT

/-! ### Lifting to the whole machine -/

/-- The outcome of a command whose effect is on everything but the queue, the fuses and the flash. -/
def State.onHw (s : State) (f : Hw → Hw) : Host.Outcome State Fault Refusal := .next { s with hw := f s.hw }

end Sys2Proof.Machine
end

