-- ==== Sys2Proof/Machine/Bar0.lean ====
section
/-!
DEFINITION. BAR0 as the host reads it (R7 to R15): the register an offset names, the selectors (`_SEL` registers), the
registers that show state kept elsewhere, pairs and their captures, and fields that a read clears.
-/
namespace Sys2Proof.Machine

/-- R15: the first tile window and the size of one. -/
def tileWindow : Nat := 0x100_0000
def tileWindowSize : Nat := 0x8000

/-- The index within an array register that an offset names, if it names one of it. -/
def RegSpec.indexAt (p : RegSpec) (o : Nat) : Option Nat :=
  if o < p.off then none
  else if p.count = 1 then (if o = p.off then some 0 else none)
  else if (o - p.off) % p.stride = 0 && (o - p.off) / p.stride < p.count then some ((o - p.off) / p.stride) else none

/-- What a BAR0 offset names. -/
structure RegAt where
  reg : Reg
  index : Nat
  tile : Nat
  deriving DecidableEq, Repr

/-- R8: each pair has one capture: the key of the pair that a register belongs to, by its `_HI` half, its place in an array and its
tile, whatever its selector names. -/
def RegAt.pair (a : RegAt) (hi : Reg) : Nat := regKey hi (a.index * 512 + a.tile)

/-- The register at an offset of a space. -/
def findReg (sp : Space) (o tile : Nat) : Option RegAt :=
  Reg.all.findSome? (fun r => if r.spec.space == sp then (r.spec.indexAt o).map (fun i => ⟨r, i, tile⟩) else none)

/-- R15: the register at a BAR0 offset. -/
def regAt (o : Nat) : Option RegAt :=
  if tileWindow ≤ o && o < tileWindow + 512 * tileWindowSize then
    findReg .tile ((o - tileWindow) % tileWindowSize) ((o - tileWindow) / tileWindowSize)
  else findReg .bar0 o 0

/-- R445: the blocks that BARE service offers: ID, HIF, PAT and SEC. -/
def bareOffset (o : Nat) : Bool := o < 0x4_0000

/-- The unit of a register that a selector chooses (the texts above the register tables), or its index in an array. -/
def Hw.unitFor (s : Hw) (a : RegAt) : Nat :=
  let o := a.reg.spec.off
  let within := fun lo hi => decide (lo ≤ o) && decide (o ≤ hi)
  match a.reg.spec.space with
  | .sideband => 0
  | .tile =>
    match a.reg with
    | .TILE_Q_STATUS => a.tile * 4 + a.index
    | _ => a.tile
  | .bar0 =>
    if within 0x1_0104 0x1_0118 then s.fget F.HIF_COPY_SEL_QUEUE
    else if within 0x4_005C 0x4_0060 then s.fget F.BEAT_OVR_SEL_STREAM
    else if within 0x5_0004 0x5_004C then s.fget F.STRM_SEL_STREAM
    else if within 0x6_0104 0x6_0114 then s.fget F.NUM_ARITH_SEL_STREAM
    else if within 0x6_0124 0x6_0134 then s.fget F.NUM_PATH_SEL_STREAM
    else if within 0x7_0024 0x7_003C then s.fget F.UPD_JOB_SEL_JOB
    else if within 0xA_0004 0xA_0004 || within 0xA_002C 0xA_003C then s.fget F.MEM_CH_SEL_CHANNEL
    else if within 0xA_0040 0xA_0060 then s.fget F.MEM_CH_SEL_CHANNEL * 16 + a.index
    else if within 0xB_000C 0xB_003C then s.fget F.LNK_SEL_LINK
    else if within 0xB_0064 0xB_0070 then s.fget F.LNK_RT_SEL_MODULE
    else if within 0xD_0004 0xD_000C then s.fget F.DBG_BP_SEL_UNIT
    else if within 0xD_0048 0xD_0054 then s.fget F.DBG_PC_SEL_COUNTER
    else if within 0xE_0014 0xE_0024 then s.fget F.TST_PERT_SEL_UNIT
    else a.index

/-! ### Registers that show state kept elsewhere -/

/-- R327: the code of a unit state. -/
def UnitSt.code : UnitSt → Nat
  | .in_ => 0 | .spare => 1 | .draining => 2 | .out => 3 | .assaying => 4 | .retired => 5 | .failed => 6

/-- The state of a unit of KIND 0 tile, 1 channel, 2 link (R331). -/
def Hw.unitSt (s : Hw) (kind idx : Nat) : UnitSt :=
  match kind with
  | 0 => (s.getPhys idx).st
  | 1 => (s.getChan idx).st
  | _ => (s.getLink idx).st

def one (b : Bool) : Nat := if b then 1 else 0

/-- R331: `FLT.REMAP` of a logical tile. -/
def Hw.remapWord (s : Hw) (t : Nat) : Nat :=
  let p := s.physOf t
  physDie p + (physCol p <<< 3) + (physRow p <<< 7) + (one (s.flt.offline.contains t) <<< 10) +
    (one (s.getPhys p).observed <<< 11)

/-- R331: `FLT.UNIT_CTL` of the selected unit. -/
def Hw.unitWord (s : Hw) : Nat :=
  let kind := s.fget F.FLT_UNIT_SEL_KIND
  let i := s.fget F.FLT_UNIT_SEL_INDEX
  let st := (s.unitSt kind i).code <<< 4
  match kind with
  | 0 =>
    let x := s.getPhys i
    one x.disable + (one x.enable <<< 1) + st + (one x.pendingEn <<< 7) + (one x.observed <<< 8) + (min x.since 255 <<< 16) + (x.fails <<< 24)
  | 1 => let x := s.getChan i; one x.disable + (one x.enable <<< 1) + st + (one x.pendingEn <<< 7)
  | 2 => let x := s.getLink i; one x.disable + (one x.enable <<< 1) + st + (one x.pendingEn <<< 7)
  | _ => 0

/-- R21, R331: logical tiles in service. -/
def Hw.logicalCount (s : Hw) : Nat := ((List.range 512).filter s.admitted).length

/-- R331: free spares on the module. -/
def Hw.spareCount (s : Hw) : Nat := (s.phys.filter (fun e => e.2.st == UnitSt.spare)).length

/-- R332: the fuse-time map: where the home position was fused out, a spare of the die by the rule of R21. -/
def fuseMap (fu : Fuses) : Sparse Nat × List Nat :=
  (List.range 512).foldl (fun (r : Sparse Nat × List Nat) t =>
    let h := homePhys t
    if fu.outTiles.contains h then
      let d := physDie h
      let row := physRow h
      let dist := fun (x : Nat) => if x ≤ row then row - x else x - row
      let free := (List.range 8).filter (fun x =>
        !fu.outTiles.contains (physNo d 8 x) && !(r.1.map (·.2)).contains (physNo d 8 x))
      let best := free.foldl (fun (b : Option Nat) x =>
        match b with | none => some x | some y => if dist x < dist y then some x else some y) none
      match best with
      | some x => (Sparse.set r.1 t (physNo d 8 x), r.2)
      | none => (r.1, r.2 ++ [t])
    else r) ([], [])

/-- R332: `ID.TILE_MAP` of a logical tile. -/
def tileMapWord (fu : Fuses) (t : Nat) : Nat :=
  let m := fuseMap fu
  let p := (Sparse.find? m.1 t).getD (homePhys t)
  physDie p + (physCol p <<< 3) + (physRow p <<< 7) + (one (m.2.contains t) <<< 10)

/-- R130, R134: the loom fuse word of a physical tile; 0x7F names no row or column. -/
def loomFuse (fu : Fuses) (p b : Nat) : Nat := (Sparse.find? fu.loom (p * 2 + b)).getD 0x0FFF_FFFF

/-- R131, R132: the skew of a position is the number of skipped rows (or columns) before it. -/
def skewOf (fuse axis idx : Nat) : Nat :=
  let a := bits fuse (if axis = 0 then 0 else 14) 7
  let b := bits fuse (if axis = 0 then 7 else 21) 7
  one (decide (a < idx)) + one (decide (b < idx))

/-- Twin links counted: admitted links of the mask whose peer is the twin (R390). -/
def Hw.twinLinks (s : Hw) : List Nat :=
  (bitList 64 (s.rd64 .TWIN_LINKS_LO .TWIN_LINKS_HI)).filter (fun l => s.linkUp l && s.fget F.LNK_LSTATE_PEER l == s.twinId)

/-- R134: a loom passed its start-up assay and is in service. -/
def Hw.loomOk (s : Hw) (p : Nat) (b : Bool) : Bool :=
  (s.getPhys p).st.serves && (if b then (s.getPhys p).loomOkB else (s.getPhys p).loomOkA)

/-- R512: a router's counters. -/
def Reg.isRouter (r : Reg) : Bool := [Reg.TILE_RTR_OPEN_FLITS, .TILE_RTR_OPEN_WAIT, .TILE_RTR_SCHED_FLITS].contains r

/-- R512: what a router's counter holds: 0 where no cycle has passed since reset or since the read that cleared it, and otherwise a
free number: the mesh's flits are no state of the model (DESIGN CHOICE, log 38). -/
def Hw.routerCount (s : Hw) (r : Reg) (u : Nat) : Nat :=
  if Sparse.get 0 s.test.rtrRead (regKey r u) = s.test.moved then 0 else (Config.contention (regKey r u) s.test.moved).toNat

/-- R176: the passes of a Finisher command over each row: SMAX and layer normalisation forward make three, their backward forms
and RMS normalisation two, every other command one. -/
def finPasses (w : Record64) : Nat :=
  let back := bit w.toNat 69
  let rms := bit w.toNat 68
  match bits w.toNat 0 8 with
  | 0x33 => if back then 2 else 3
  | 0x32 => if back || rms then 2 else 3
  | _ => 1

/-- R175, R196: the pass that the running command makes.  In which of its passes it is at this time the model of whole commands leaves
free (DESIGN CHOICE, log 38). -/
def Hw.finPass (s : Hw) (u : Nat) (f : InFlight) : Nat :=
  (Config.contention (regKey .FIN_STATUS u) s.boot.ticks).toNat % finPasses f.cmd

/-- R264: WHY of a queue: the stream's halt, YIELD and the budget before all; 0 where the queue is not bound, its stream may not issue or
no command is held; else what the head found when it last tried to issue. -/
def Hw.queueWhy (s : Hw) (t q : Nat) : Nat :=
  let v := s.getQueue t q
  let n := v.bind.stream
  if !v.bound then 0
  else if s.flag F.STRM_STATE_HALTED n then 7
  else if v.yielded then 6
  else if v.spent then 5
  else if !s.flag F.STRM_CTL_ENABLE n || s.flag F.STRM_STATE_FAULTED n || s.flag F.STRM_CTL_RESET n || v.fetched.isEmpty then 0
  else v.why

/-- The value of a register that shows state kept elsewhere; none where the register keeps its own. -/
def Hw.view (s : Hw) (fu : Fuses) (r : Reg) (u : Nat) : Option Nat :=
  let own := (s.rd r u).toNat
  let p := s.physOf u
  match r with
  | .TILE_RTR_OPEN_FLITS | .TILE_RTR_OPEN_WAIT | .TILE_RTR_SCHED_FLITS => some (s.routerCount r u)
  -- R10, R262: STEP reads 1 until its slot has run
  | .STRM_CTL => some (setBits own 3 1 (one (s.getStream u).step))
  | .STRM_DEPTH => some ((s.fget F.STRM_TAIL_COUNT u + 0x1_0000_0000 - s.fget F.STRM_RETIRED_COUNT u) % 0x1_0000_0000)
  | .STRM_ISSUED => some (s.ctxOf u).issued.toNat
  | .STRM_GLATCH => some (one (Sparse.get false s.latches.set (s.fget F.STRM_GLATCH_SEL_LATCH)))
  | .STRM_REGION_LIVE => some s.regions.length
  | .TILE_Q_STATUS =>
    let q := s.getQueue (u / 4) (u % 4)
    some ((if q.bound then q.bind.stream else 0) + (one q.bound <<< 16) + (s.queueWhy (u / 4) (u % 4) <<< 17) + (min q.fetched.length 256 <<< 20))
  | .TILE_LATCH_LO => some (bits (s.getTile u).fs.latches.toNat 0 32)
  | .TILE_LATCH_HI => some (bits (s.getTile u).fs.latches.toNat 32 32)
  | .TILE_RTN_PENDING_LO => some (bits (maskOf ((s.getPhys p).held.map (·.slot))) 0 32)
  | .TILE_RTN_PENDING_HI => some (bits (maskOf ((s.getPhys p).held.map (·.slot))) 32 32)
  | .TILE_RTN_INFO =>
    let k := s.fget F.TILE_RTN_SEL_SLOT u
    some (Sparse.get 0 (s.getPhys p).gen k % 0x1_0000 + (Sparse.get 0 (s.getPhys p).rid k <<< 16))
  | .LOOM_STATUS => some (setBits own 0 2 (one (s.loomOk p false) + 2 * one (s.loomOk p true)) ||| (
      one (s.busyPart u 0).isSome <<< 2) ||| (one (s.busyPart u 1).isSome <<< 3) |||
      (one ((Sparse.find? (s.getTile u).fs.heddles 0).isSome) <<< 4) ||| (one ((Sparse.find? (s.getTile u).fs.heddles 1).isSome) <<< 5))
  | .SHTL_STATUS => some (match s.busyPart u 2 with | some f => 1 + (f.queue <<< 1) | none => 0)
  | .FIN_STATUS => some (match s.busyPart u 3 with | some f => 1 + (f.queue <<< 1) + (s.finPass u f <<< 3) | none => 0)
  | .LOOM_FUSE_A => some (loomFuse fu p 0)
  | .LOOM_FUSE_B => some (loomFuse fu p 1)
  | .LOOM_SKEW =>
    let f := loomFuse fu p (s.fget F.LOOM_SKEW_SEL_LOOM u)
    let ax := s.fget F.LOOM_SKEW_SEL_AXIS u
    let i := s.fget F.LOOM_SKEW_SEL_INDEX u
    let want := 2 - skewOf f ax i
    let d := ((List.find? (fun e => e.1 == s.fget F.LOOM_SKEW_SEL_LOOM u && e.2.1 == ax && e.2.2.1 == i) (s.getPhys p).skew).map (·.2.2.2)).getD want
    some (d + (want <<< 2) + (one (d != want) <<< 4))
  | .FLT_STATUS => some (setBits own 0 10 s.logicalCount)
  | .FLT_RETIRED => some (setBits own 16 10 s.spareCount)
  | .FLT_REMAP => some (s.remapWord (s.fget F.FLT_REMAP_SEL_TILE))
  | .FLT_UNIT_CTL => some s.unitWord
  | .MEM_STATUS =>
    let adm := ((List.range 40).filter (fun c => (s.getChan c).st == UnitSt.in_)).length
    some (adm + (one s.mu.windowOff <<< 6) + (s.mu.outCh.getD 0 <<< 8) + (one s.mu.copy.isSome <<< 14) +
      (one s.mu.retraining.isSome <<< 15) + ((s.mu.retraining.map (·.1)).getD 0 <<< 16))
  | .MEM_CAPACITY_LO => some (bits s.capacity 0 32)
  | .MEM_CAPACITY_HI => some (bits s.capacity 32 8)
  | .MEM_CH_STATE =>
    some ((s.getChan u).st.code + (one ((s.mu.retraining.map (·.1)) == some u) <<< 3) +
      ((s.mu.offline.filter (fun e => e.1 == u)).length <<< 8))
  | .MEM_PAGE_PROP =>
    match Sparse.find? s.mu.props (s.fget F.MEM_PAGE_PROP_SEL_SLOT) with
    | some (c, pg, cause, _) => some (c + (1 <<< 6) + (pg <<< 8) + (cause <<< 30))
    | none => some 0
  | .MEM_OFF_ENTRY =>
    match s.mu.offline[s.fget F.MEM_OFF_SEL_INDEX]? with
    | some (c, pg) => some (c + (pg <<< 8) + (1 <<< 30))
    | none => some 0
  | .MEM_OFF_COUNT => some s.mu.offline.length
  | .LNK_STATUS =>
    some (s.admittedLinks.length + ((s.admittedLinks.filter (fun l => s.fget F.LNK_LSTATE_LANES l != 0)).length <<< 8))
  | .TWIN_STATUS => some (setBits own 20 4 s.twinLinks.length)
  -- R10, R394: ATTACH reads 1 until the twins are PAIRED
  | .TWIN_CTL => some (setBits own 0 1 (one s.twin.attachSelf))
  | .UPD_STATUS => some ((s.layers.filter (fun e => e.2.pending)).length + ((s.layers.filter (fun e => e.2.awaitWrite)).length <<< 13))
  | .UPD_JOB_CTL => some (setBits own 1 1 (one (s.flag F.UPD_JOB_CTL_EN u && s.fget F.UPD_JOB_CTL_ROOT u == s.me)))
  | .HIF_EVT_HELD => some s.host.waiting.length
  | .ID_BOOT =>
    let groups := (List.range 8).filter (fun g => (List.range 8).all (fun i => (s.getLink (8 * g + i)).firstDone))
    some (setBits (setBits own 2 1 (one (groups.length == 8))) 16 4 groups.length)
  | .ID_REVISION => some (fu.stepping % 256 + ((fu.board % 256) <<< 8))
  | .ID_FUSE =>
    some ((576 - fu.outTiles.length) + ((fu.loom.filter (fun e => !bit e.2 28 && bits e.2 0 28 != 0x0FFF_FFFF)).length <<< 10) +
      (popCount 4 fu.programmed.toNat <<< 20) + (popCount 4 fu.revoked.toNat <<< 24))
  | .ID_TILE_MAP => some (tileMapWord fu (s.fget F.ID_TILE_MAP_SEL_TILE))
  | .SEC_STATUS => some (fu.programmed.toNat + (fu.revoked.toNat <<< 4) + (fu.floor <<< 8))
  | .SEC_SLOT_DIGEST =>
    let d := match s.fget F.SEC_SLOT_SEL_SLOT with | 0 => fu.slot0 | 1 => fu.slot1 | 2 => fu.slot2 | _ => fu.slot3
    some (bits d.toNat (32 * u) 32)
  -- R496, R497: 0 before the package first comes up
  | .SB_RAIL =>
    some (if s.fget F.SB_STATE_UP = 0 && s.fget F.SB_STATE_LAST_STOP = 0 && s.boot.cause = 0 then 0
      else (Config.railReading (s.fget F.SB_RAIL_SEL_RAIL) s.millis).toNat)
  | .SB_CAP => some (s.rd .PWR_CAP 0).toNat
  | .SB_SERIAL_LO => some (s.rd .ID_SERIAL_LO 0).toNat
  | .SB_SERIAL_HI => some (s.rd .ID_SERIAL_HI 0).toNat
  | _ => none

/-- The bits of a register that read as they are: every defined field but the write-only ones (R10, R13). -/
def Reg.readMask (r : Reg) : Nat :=
  r.spec.fields.foldl (fun a f => if f.acc == Acc.wo then a else a ||| (((1 <<< f.width) - 1) <<< f.lo)) 0

/-- R10: what a read of register r of unit u returns. -/
def Hw.regValue (s : Hw) (fu : Fuses) (r : Reg) (u : Nat) : Nat :=
  (((s.view fu r u).getD (s.rd r u).toNat) &&& r.readMask) % 0x1_0000_0000

/-- R10: clears the fields of a register that a read clears. -/
def Hw.clearRc (s : Hw) (r : Reg) (u : Nat) : Hw :=
  let s1 := r.spec.fields.foldl (fun s f => if f.acc == Acc.rc then s.fset ⟨r, f.lo, f.width⟩ 0 u else s) s
  if r.isRouter then { s1 with test := { s1.test with rtrRead := Sparse.put 0 s1.test.rtrRead (regKey r u) s1.test.moved } } else s1

/-- Whether a register is the `_HI` half of a pair. -/
def Reg.isHi (r : Reg) : Bool := Reg.all.any (fun x => x.hiOf == some r)

/-- R8, R10: a 32-bit read of a register: a `_LO` half captures its `_HI`, a `_HI` half with a capture armed returns the
capture, and fields that a read clears are cleared. -/
def Hw.readReg (s : Hw) (fu : Fuses) (a : RegAt) : Hw × Nat :=
  let u := s.unitFor a
  match a.reg.hiOf with
  | some hi =>
    let h : Reg32 := BitVec.ofNat 32 (s.regValue fu hi u)
    ({ s with host := { s.host with armed := Sparse.set s.host.armed (a.pair hi) h } }, s.regValue fu a.reg u)
  | none =>
    match Sparse.find? s.host.armed (a.pair a.reg) with
    | some v => ({ s with host := { s.host with armed := Sparse.erase s.host.armed (a.pair a.reg) } }, v.toNat)
    | none => (s.clearRc a.reg u, s.regValue fu a.reg u)

/-- MSI-X table and PBA (R407): 2,048 entries of 16 B at 0x0F0_0000, pending bits at 0x0F1_0000. -/
def Hw.msixRead (s : Hw) (o : Nat) : Nat :=
  if 0xF0_0000 ≤ o && o < 0xF0_8000 then (Sparse.get (if o % 16 = 12 then 1 else 0) s.host.msix ((o - 0xF0_0000) / 4)).toNat
  else if 0xF1_0000 ≤ o && o < 0xF1_0100 then
    maskOf ((List.range 32).filter (fun i => (Sparse.find? s.host.pba ((o - 0xF1_0000) * 8 + i)).isSome))
  else 0

/-- R9, R13, R445: a 32-bit read at a multiple of 4. -/
def Hw.read32 (s : Hw) (fu : Fuses) (o : Nat) : Hw × Nat :=
  if s.level = 0 && !bareOffset o && o < 0xF0_0000 then (s, 0)
  else if 0xF0_0000 ≤ o && o < tileWindow then (s, s.msixRead o)
  else if s.level = 0 && tileWindow ≤ o then (s, 0)
  else match regAt o with
    | some a => s.readReg fu a
    | none => (s, 0)

/-- R8, R9: a 64-bit read at a multiple of 4: of a pair from one instant, disarming its capture; elsewhere two 32-bit
reads, the lower offset first. -/
def Hw.read64 (s : Hw) (fu : Fuses) (o : Nat) : Hw × Nat :=
  match (regAt o).bind (fun a => a.reg.hiOf.map (fun h => (a, h))) with
  | some (a, hi) =>
    if s.level = 0 && !bareOffset o then (s, 0)
    else
      let u := s.unitFor a
      ({ s with host := { s.host with armed := Sparse.erase s.host.armed (a.pair hi) } },
        s.regValue fu a.reg u + (s.regValue fu hi u <<< 32))
  | none =>
    let r1 := s.read32 fu o
    let r2 := r1.1.read32 fu (o + 4)
    (r2.1, r1.2 + (r2.2 <<< 32))

/-- R8: an access to a pair that is no 32-bit read of a half disarms its capture. -/
def Hw.disarm (s : Hw) (a : RegAt) : Hw :=
  let drop := fun (hi : Reg) => ({ s with host := { s.host with armed := Sparse.erase s.host.armed (a.pair hi) } } : Hw)
  match a.reg.hiOf with
  | some hi => drop hi
  | none => if a.reg.isHi then drop a.reg else s

/-- Delivers a completion to the host. -/
def Hw.reply (s : Hw) (data : List Byte) (poisoned : Bool := false) (status : Nat := 0) : Hw :=
  { s with host := { s.host with resp := some { data := data, poisoned := poisoned, status := status } } }

/-- BAR0 answers: from 120 ms on, while no reset holds the module (R407, R462). -/
def Hw.bar0Open (s : Hw) : Bool := s.boot.phase == Phase.live

/-- A BAR0 read, 32-bit or 64-bit (R9).  Before BAR0 is live the request is not supported (DEDUCED, log 20). -/
def Hw.bar0Read (s : Hw) (fu : Fuses) (o : Nat) (wide : Bool) : Hw :=
  if !s.bar0Open then s.reply [] false 1
  else if wide then let r := s.read64 fu o; r.1.reply (toBytes 8 r.2)
  else let r := s.read32 fu o; r.1.reply (toBytes 4 r.2)

/-- R8: a 32-bit read of a `_LO` register, or a 64-bit read. -/
def execPairLoRead (off : BitVec 28) (wide : Bool) (s : State) : Host.Outcome State Fault Refusal :=
  s.onHw (fun h => h.bar0Read s.fuses off.toNat wide)

/-- R8: a 32-bit read of a `_HI` register. -/
def execPairHiRead (off : BitVec 28) (s : State) : Host.Outcome State Fault Refusal :=
  s.onHw (fun h => h.bar0Read s.fuses off.toNat false)

/-- R10: a 32-bit read of a register with fields that a read clears. -/
def execRcRegisterRead (off : BitVec 28) (s : State) : Host.Outcome State Fault Refusal :=
  s.onHw (fun h => h.bar0Read s.fuses off.toNat false)

/-- R9: an access of another size or alignment: a read returns 0, a write is discarded, and event 0x8020 is raised. -/
def Hw.badAccess (s : Hw) (o size : Nat) (write : Bool) : Hw :=
  if !s.bar0Open then (if write then s else s.reply [] false 1)
  else
    let s1 := (s.bump F.HIF_BAD_ACCESS_COUNT).raise 0x8020 o size
    if write then s1 else s1.reply (toBytes size 0)

def execBadBar0Access (off : BitVec 28) (size : BitVec 13) (write : Bool) (s : State) : Host.Outcome State Fault Refusal :=
  s.onHw (fun h => h.badAccess off.toNat size.toNat write)

end Sys2Proof.Machine
end

