-- ==== Sys2Proof/Machine/Desc.lean ====
section
/-!
DEFINITION. Tensor descriptors and regions (R197 to R213): their fields, the formats by width (R76), the shapes they
present (R204), the ranges they cover (R209, R212), and the checks that creation makes of them.
-/
namespace Sys2Proof.Machine

/-! ### Formats (R76) -/

/-- Bits of an element of a format code. -/
def fmtBits (f : Nat) : Nat :=
  match f with
  | 0 => 32 | 1 => 16 | 2 => 16 | 3 => 8 | 4 => 8 | 5 => 4 | 6 => 8 | 7 => 8 | 8 => 4 | 9 => 4 | 10 => 8
  | _ => 8

/-- INT8, UINT8, INT4, UINT4. -/
def fmtInt (f : Nat) : Bool := 6 ≤ f && f ≤ 9
/-- FP32, BF16, FP16, E4M3, E5M2, E2M1. -/
def fmtFloat (f : Nat) : Bool := f ≤ 5
/-- R79: the element formats that may be block-scaled. -/
def fmtScalable (f : Nat) : Bool := f == 3 || f == 4 || f == 5 || f == 6
/-- R139: the formats of compressed values. -/
def fmtCrow (f : Nat) : Bool := [1, 2, 3, 4, 6, 7, 8, 9].contains f
/-- R84: the formats of a product's operands but FP32. -/
def fmtProduct (f : Nat) : Bool := [1, 2, 3, 4, 5, 6, 7, 8, 9].contains f

/-! ### Fields of a descriptor (R200, R201) -/

namespace Desc

/-- Bits of a descriptor image: byte 0 is bits [7:0]. -/
def field (d : Record64) (lo w : Nat) : Nat := bits d.toNat lo w

def valid (d : Record64) : Bool := bit d.toNat 0
def layout (d : Record64) : Nat := field d 1 3
def format (d : Record64) : Nat := field d 4 4
def rank (d : Record64) : Nat := field d 8 3
def scaled (d : Record64) : Bool := bit d.toNat 11
def scaleAxis (d : Record64) : Nat := field d 12 3
def stash (d : Record64) : Bool := bit d.toNat 15
def idxMode (d : Record64) : Nat := field d 16 2
def pad (d : Record64) : Bool := bit d.toNat 18
def padWrite (d : Record64) : Bool := bit d.toNat 19
def job (d : Record64) : Nat := field d 20 12
def region (d : Record64) : Nat := field d 32 12
def padVal (d : Record64) : Nat := field d 44 16
def base (d : Record64) : Nat := field d 64 40
def scaleDesc (d : Record64) : Nat := field d 104 20
def dimRec (d : Record64) (j : Nat) : Nat := field d (128 + 64 * j) 64
def size (d : Record64) (j : Nat) : Nat := bits (dimRec d j) 0 24 + 1
def stride (d : Record64) (j : Nat) : Int := signed 31 (bits (dimRec d j) 24 31)
def haloLo (d : Record64) (j : Nat) : Nat := bits (dimRec d j) 55 3
def haloHi (d : Record64) (j : Nat) : Nat := bits (dimRec d j) 58 3

/-- The dimensions in use. -/
def dims (d : Record64) : List Nat := List.range (rank d)

/-- R204: the write shape, the core. -/
def writeShape (d : Record64) : List Nat := (dims d).map (size d)
/-- R204: the read shape, core and halo. -/
def readShape (d : Record64) : List Nat := (dims d).map (fun j => haloLo d j + size d j + haloHi d j)
/-- Whether any dimension has a halo. -/
def hasHalo (d : Record64) : Bool := (dims d).any (fun j => haloLo d j != 0 || haloHi d j != 0)

/-- R143, R209: the slot of a panel of a compressed-row matrix, header and dense body rounded up together; its directory; its length. -/
def crowSlot (d : Record64) : Nat := roundUp (32 + ceilDiv (min 64 (size d 0) * size d 1 * fmtBits (format d)) 8) 128
def crowDir (d : Record64) : Nat := roundUp (8 * ceilDiv (size d 0) 64) 128
def crowLen (d : Record64) : Nat := crowDir d + ceilDiv (size d 0) 64 * crowSlot d

/-- R212 step 6: the terms of a dimension. -/
def termLo (d : Record64) (j : Nat) : Int :=
  let a : Int := -(haloLo d j : Int)
  let b : Int := (size d j : Int) - 1 + haloHi d j
  min (a * stride d j) (b * stride d j)
def termHi (d : Record64) (j : Nat) : Int :=
  let a : Int := -(haloLo d j : Int)
  let b : Int := (size d j : Int) - 1 + haloHi d j
  max (a * stride d j) (b * stride d j)

/-- R212 step 6: the first and last byte of a descriptor, as region offsets. -/
def range (d : Record64) : Int × Int :=
  if layout d = 1 then ((base d : Int), (base d : Int) + crowLen d - 1)
  else
    let w : Int := fmtBits (format d)
    let lo := (dims d).foldl (fun a j => a + termLo d j) 0
    let hi := (dims d).foldl (fun a j => a + termHi d j) 0
    ((base d : Int) + (lo * w).fdiv 8, (base d : Int) + -((-((hi + 1) * w)).fdiv 8) - 1)

end Desc

/-! ### Regions (R197) -/

namespace Region

def base (r : BitVec 128) : Nat := bits r.toNat 0 40
def space (r : BitVec 128) : Nat := bits r.toNat 40 2
def module (r : BitVec 128) : Nat := bits r.toNat 42 12
def shared (r : BitVec 128) : Bool := bit r.toNat 54
def size (r : BitVec 128) : Nat := bits r.toNat 64 40
def job (r : BitVec 128) : Nat := bits r.toNat 104 12

end Region

/-- R220: the descriptor table: its first byte and its entries. -/
def Hw.tableBase (s : Hw) : Nat := s.rd64 .STRM_TDESC_BASE_LO .STRM_TDESC_BASE_HI % (1 <<< 40)
def Hw.tableCap (s : Hw) : Nat := s.fget F.STRM_TDESC_CAP_COUNT
/-- Whether a GDDR7 byte lies in the descriptor table. -/
def Hw.inTable (s : Hw) (a : Nat) : Bool := s.tableBase ≤ a && a < s.tableBase + 64 * s.tableCap

/-- R214, R520: the entry of a descriptor identifier as a unit reads it; beyond the table or mapped GDDR7 it has V = 0. -/
def Hw.descEntry (s : Hw) (id : Nat) : Record64 :=
  if id < s.tableCap then BitVec.ofNat 512 (ofBytes (s.peekRun (s.tableBase + 64 * id) 64)) else 0

/-- A region record by identifier. -/
def Hw.regionRec (s : Hw) (id : Nat) : Option (BitVec 128) := Sparse.find? s.regions id

/-- R198: the checks of REGION.CREATE, in the order of its table: the result code and the byte of the failing field. -/
def Hw.regionCheck (s : Hw) (id : Nat) (r : BitVec 128) : Nat × Nat :=
  let b := Region.base r
  let n := Region.size r
  let overlapsOf := fun sp => s.regions.any (fun e => Region.space e.2 == sp && overlaps (b, b + n - 1) (Region.base e.2, Region.base e.2 + Region.size e.2 - 1))
  if b % 128 ≠ 0 then (3, 0)
  else if Region.space r ≠ 3 && Region.module r ≠ 0 then (3, 5)
  else if bits r.toNat 55 9 ≠ 0 then (3, 6)
  else if n % 128 ≠ 0 || n = 0 then (3, 8)
  else if bits r.toNat 116 12 ≠ 0 then (3, 14)
  else if (s.regionRec id).isSome then (8, 0)
  else match Region.space r with
    | 0 =>
      if 0x50_0000_0000 < b + n then (2, 0)
      else if 0 < s.tableCap && overlaps (b, b + n - 1) (s.tableBase, s.tableBase + 64 * s.tableCap - 1) then (2, 0)
      else if overlapsOf 0 then (2, 0)
      else if s.mu.windowOff && windowBase < b + n then (2, 0)
      else (1, 0)
    | 1 =>
      let o := (b - storeBase) % 0x40_0000
      if b < storeBase || storeBase + 0x8000_0000 ≤ b then (2, 0)
      else if 0x2F_0000 < o + n then (2, 0)
      else if overlapsOf 1 then (2, 0)
      else (1, 0)
    | 2 => if 0x2F_0000 < b + n then (2, 0) else (1, 0)
    | _ => if Region.module r = s.me then (2, 0) else (1, 0)

/-- R212 step 2: V and every reserved field are zero and no reserved encoding is used; the byte of the first that fails. -/
def descReserved (d : Record64) : Option Nat :=
  let f := Desc.field d
  if Desc.valid d then some 0
  else if 3 ≤ Desc.layout d then some 0
  else if 11 ≤ Desc.format d then some 0
  else if Desc.rank d = 0 || Desc.rank d = 7 then some 1
  else if !Desc.scaled d && Desc.scaleAxis d ≠ 0 then some 1
  else if Desc.scaled d && Desc.rank d ≤ Desc.scaleAxis d then some 1
  else if f 60 4 ≠ 0 then some 7
  else if !Desc.scaled d && Desc.scaleDesc d ≠ 0 then some 13
  else if f 124 4 ≠ 0 then some 15
  else (List.range 6).findSome? (fun j =>
    if Desc.rank d ≤ j then (if Desc.dimRec d j ≠ 0 then some (16 + 8 * j) else none)
    else if bits (Desc.dimRec d j) 61 3 ≠ 0 then some (23 + 8 * j) else none)

/-- R212: the byte that holds the lowest bit of a halo field that is not zero, the lowest dimension first (DEDUCED, log
64: a field is named by the byte of its lowest bit). -/
def haloField (d : Record64) : Option Nat :=
  (Desc.dims d).findSome? (fun j =>
    if Desc.haloLo d j ≠ 0 then some (22 + 8 * j) else if Desc.haloHi d j ≠ 0 then some (23 + 8 * j) else none)

/-- R208: what a CROW descriptor must satisfy: the byte of the first field, in the order of the rule, that does not. -/
def crowFail (d : Record64) : Option Nat :=
  if Desc.rank d ≠ 2 then some 1
  else if 65536 < Desc.size d 1 then some 24
  else if !fmtCrow (Desc.format d) then some 0
  else if Desc.scaled d || Desc.stash d then some 1
  else if Desc.pad d || Desc.padWrite d then some 2
  else if Desc.padVal d ≠ 0 then some 5
  else if Desc.stride d 0 ≠ 0 then some 19
  else if Desc.stride d 1 ≠ 0 then some 27
  else if Desc.hasHalo d then haloField d
  else if Desc.base d % 128 ≠ 0 then some 8
  else none

/-- R210: what an SP24 descriptor must satisfy: the byte of the first field, in the order of the rule, that does not. -/
def sp24Fail (d : Record64) : Option Nat :=
  if Desc.rank d ≠ 2 then some 1
  else if !fmtProduct (Desc.format d) || (Desc.scaled d && !fmtScalable (Desc.format d)) then some 0
  else if Desc.hasHalo d then haloField d
  else if Desc.padWrite d then some 2
  else none

/-- R203: what a 4-bit descriptor must satisfy: the byte of the first field, in the order of the rule, that does not. -/
def nibbleFail (d : Record64) : Option Nat :=
  let last := Desc.rank d - 1
  if fmtBits (Desc.format d) ≠ 4 then none
  else if Desc.stride d last ≠ 1 then some (19 + 8 * last)
  else if Desc.haloLo d last % 2 ≠ 0 then some (22 + 8 * last)
  else (Desc.dims d).findSome? (fun j => if j ≠ last && Desc.stride d j % 2 ≠ 0 then some (19 + 8 * j) else none)

/-- R212 step 4: the attribute checks in order: the result code (0 where all pass) and the byte. -/
def Hw.descAttrs (s : Hw) (d : Record64) : Nat × Nat :=
  let fm := Desc.format d
  let last := Desc.rank d - 1
  if Desc.layout d = 1 then (match crowFail d with | some o => (3, o) | none => (0, 0))
  else if Desc.layout d = 2 && (sp24Fail d).isSome then (3, (sp24Fail d).getD 0)
  -- R211, R192, R78, R79
  else if Desc.stash d && !((fm == 3 && Desc.scaled d && Desc.scaleAxis d == last) || (fm == 1 && !Desc.scaled d)) then (3, 1)
  else if fm = 5 && !Desc.scaled d then (3, 0)
  else if Desc.scaled d && !fmtScalable fm then (3, 0)
  else
    let scaleFail :=
      if Desc.scaled d then
        let sd := s.descEntry (Desc.scaleDesc d)
        let ax := Desc.scaleAxis d
        let shapeOk := Desc.rank sd == Desc.rank d && !Desc.hasHalo sd &&
          (Desc.dims d).all (fun j => Desc.size sd j == (if j = ax then ceilDiv (Desc.size d j) 32
            else Desc.haloLo d j + Desc.size d j + Desc.haloHi d j))
        if !Desc.valid sd || Desc.format sd ≠ 10 || Desc.layout sd ≠ 0 || Desc.scaled sd then some (3, 13)
        else if Desc.haloLo d ax ≠ 0 then some (4, 22 + 8 * ax)
        else if Desc.haloHi d ax ≠ 0 then some (4, 23 + 8 * ax)
        else if !shapeOk then some (4, 13)
        else if Desc.job sd ≠ Desc.job d then some (2, 13)
        else none
      else none
    match scaleFail with
    | some r => r
    | none =>
      -- R203
      match nibbleFail d with
      | some o => (4, o)
      | none =>
      -- R205
      if (!Desc.pad d || Desc.scaled d) && Desc.padVal d ≠ 0 then (5, 5)
      else (0, 0)

/-- The lowest index whose value no other exceeds, by the order given. -/
def bestDim (d : Record64) (better : Nat → Nat → Bool) : Nat :=
  (Desc.dims d).foldl (fun b j => if better j b then j else b) 0

/-- R212: the checks of TDESC.CREATE in order: the result code, the byte of the failing field, and the range. -/
def Hw.descCheck (s : Hw) (id : Nat) (d : Record64) : MailOp :=
  let r := Desc.range d
  let mk := fun c o => ({ code := c, offset := o, first := r.1, last := r.2, destroy := none } : MailOp)
  if s.tableCap ≤ id || Desc.valid (s.descEntry id) then mk 8 0
  else match descReserved d with
  | some o => mk 3 o
  | none =>
    match s.regionRec (Desc.region d) with
    | none => mk 6 4
    | some g =>
      let a := s.descAttrs d
      if a.1 ≠ 0 then mk a.1 a.2
      else if Desc.job d ≠ Region.job g && !Region.shared g then mk 2 2
      else if r.1 < 0 then mk 2 (16 + 8 * bestDim d (fun j b => decide (Desc.termLo d j < Desc.termLo d b)))
      else if (Region.size g : Int) - 1 < r.2 then
        if (Region.size g : Int) - 1 < Desc.base d || Desc.layout d = 1 then mk 2 8
        else mk 2 (16 + 8 * bestDim d (fun j b => decide (Desc.termHi d b < Desc.termHi d j)))
      else mk 1 0

end Sys2Proof.Machine
end

