-- ==== Sys2Proof/Machine/Numeric.lean ====
section
/-!
DEFINITION. Numbers and arithmetic (R76 to R101): values as exact dyadic numbers, the formats' patterns, rounding, flushing,
saturation, casts, block scales and summation trees.
-/
namespace Sys2Proof.Machine

/-! ### Values -/

/-- A value of any format: a NaN (with the sign that E4M3 and E5M2 conversions keep), an infinity, a signed zero, or
(−1)^neg × m × 2^e with m > 0. -/
inductive FVal where
  | nan (neg : Bool)
  | inf (neg : Bool)
  | zero (neg : Bool)
  | fin (neg : Bool) (m : Nat) (e : Int)
  deriving DecidableEq, Repr

namespace FVal

def neg? : FVal → Bool
  | nan n => n | inf n => n | zero n => n | fin n _ _ => n

def isNan : FVal → Bool
  | nan _ => true
  | _ => false

def isInf : FVal → Bool
  | inf _ => true
  | _ => false

/-- Neither NaN nor infinite. -/
def finite (x : FVal) : Bool := !x.isNan && !x.isInf

/-- Zero of either sign. -/
def isZero : FVal → Bool
  | zero _ => true
  | _ => false

def negate : FVal → FVal
  | nan n => nan n | inf n => inf (!n) | zero n => zero (!n) | fin n m e => fin (!n) m e

def abs : FVal → FVal
  | nan _ => nan false | inf _ => inf false | zero _ => zero false | fin _ m e => fin false m e

/-- The value of an integer. -/
def ofInt (i : Int) : FVal := if i = 0 then zero false else fin (decide (i < 0)) i.natAbs 0

/-- Multiplies by 2^k: exact. -/
def scale (x : FVal) (k : Int) : FVal :=
  match x with
  | fin n m e => fin n m (e + k)
  | y => y

/-- The signed integer multiple of 2^e0 that a finite value is, for an e0 not above its exponent. -/
def at_ (e0 : Int) : FVal → Int
  | fin n m e => let v : Int := ((m <<< (e - e0).toNat : Nat) : Int); if n then -v else v
  | _ => 0

/-- The exact sum; a NaN where the signs of two infinities differ (R89). -/
def addExact (a b : FVal) : FVal :=
  match a, b with
  | nan _, _ => nan false
  | _, nan _ => nan false
  | inf n, inf k => if n = k then inf n else nan false
  | inf n, _ => inf n
  | _, inf n => inf n
  | zero n, zero k => zero (n && k)
  | zero _, y => y
  | x, zero _ => x
  | fin n m e, fin k l f =>
    let e0 := min e f
    let v := (fin n m e).at_ e0 + (fin k l f).at_ e0
    if v = 0 then zero false else fin (decide (v < 0)) v.natAbs e0

/-- The exact product; a NaN for an infinity times zero (R85, R89). -/
def mulExact (a b : FVal) : FVal :=
  let n := xor a.neg? b.neg?
  match a, b with
  | nan _, _ => nan false
  | _, nan _ => nan false
  | inf _, zero _ => nan false
  | zero _, inf _ => nan false
  | inf _, _ => inf n
  | _, inf _ => inf n
  | zero _, _ => zero n
  | _, zero _ => zero n
  | fin _ m e, fin _ l f => fin n (m * l) (e + f)

/-- ⌊log₂⌋ of m × 2^e. -/
def log2 (m : Nat) (e : Int) : Int := (Nat.log2 m : Int) + e

/-- m × 2^e compared with l × 2^f. -/
def magLe (m : Nat) (e : Int) (l : Nat) (f : Int) : Bool :=
  let e0 := min e f
  decide (m <<< (e - e0).toNat ≤ l <<< (f - e0).toNat)

/-- The order of R100 over values that are not NaN: −0 below +0. -/
def le (a b : FVal) : Bool :=
  match a, b with
  | inf true, _ => true
  | _, inf false => true
  | inf false, _ => false
  | _, inf true => false
  | zero n, zero k => n || !k
  | zero _, fin k _ _ => !k
  | fin n _ _, zero _ => n
  | fin n m e, fin k l f =>
    if n then (if k then magLe l f m e else true) else (if k then false else magLe m e l f)
  | _, _ => false

/-- IEEE 754 comparison: −0 = +0; no NaN. -/
def ieeeLe (a b : FVal) : Bool := if a.isZero && b.isZero then true else a.le b

/-- Maximum of R100. -/
def max100 (a b : FVal) : FVal := if a.isNan || b.isNan then nan false else if a.le b then b else a
/-- Minimum of R178. -/
def min100 (a b : FVal) : FVal := if a.isNan || b.isNan then nan false else if a.le b then a else b

end FVal

/-! ### Rounding -/

/-- R93, R95: rounds m × 2^e to p bits, nearest even, as though the exponent were unbounded: the new m and e. -/
def roundNE (p m : Nat) (e : Int) : Nat × Int :=
  let l := Nat.log2 m + 1
  if l ≤ p then (m, e)
  else
    let d := l - p
    let q := m >>> d
    let r := m - q <<< d
    let half := 1 <<< (d - 1)
    let up := half < r || (r == half && q % 2 == 1)
    (q + (if up then 1 else 0), e + d)

/-- R96: the 16 most significant of the d low bits of m. -/
def lost16 (m d : Nat) : Nat :=
  let x := m % (1 <<< d)
  if 16 ≤ d then x >>> (d - 16) else x <<< (16 - d)

/-- R96: stochastic rounding of m × 2^e to p bits with the random value r. -/
def roundSR (p r m : Nat) (e : Int) : Nat × Int :=
  let l := Nat.log2 m + 1
  if l ≤ p then (m, e)
  else
    let d := l - p
    (m >>> d + (if 65536 ≤ lost16 m d + r then 1 else 0), e + d)

/-- Rounds with the cast control's ROUND: none nearest even, or a random value. -/
def roundBy (rnd : Option Nat) (p m : Nat) (e : Int) : Nat × Int :=
  match rnd with
  | none => roundNE p m e
  | some r => roundSR p r m e

/-- Rounds a magnitude to a multiple of 2^u: how many. -/
def roundUnit (rnd : Option Nat) (m : Nat) (e u : Int) : Nat :=
  if u ≤ e then m <<< (e - u).toNat
  else
    let d := (u - e).toNat
    let q := m >>> d
    match rnd with
    | none =>
      let r := m - q <<< d
      let half := 1 <<< (d - 1)
      q + (if half < r || (r == half && q % 2 == 1) then 1 else 0)
    | some r => q + (if 65536 ≤ lost16 m d + r then 1 else 0)

/-- Rounds a value to FP32 and holds it to FP32 range: overflow gives an infinity (R98), a magnitude below the smallest
normal a zero (R93). -/
def FVal.r32 : FVal → FVal
  | .fin n m e =>
    let r := roundNE 24 m e
    let x := FVal.log2 r.1 r.2
    if 128 ≤ x then .inf n else if x < -126 then .zero n else .fin n r.1 r.2
  | .nan _ => .nan false
  | y => y

/-- FP32 addition, subtraction and multiplication (R100, R171). -/
def fadd (a b : FVal) : FVal := (a.addExact b).r32
def fsub (a b : FVal) : FVal := fadd a b.negate
def fmul (a b : FVal) : FVal := (a.mulExact b).r32

/-! ### Patterns (R76) -/

/-- A floating format: exponent bits, mantissa bits. -/
structure FloatFmt where
  eb : Nat
  mb : Nat

/-- The layout of a floating format code; E2M1 apart. -/
def floatFmt (f : Nat) : FloatFmt :=
  match f with
  | 0 => ⟨8, 23⟩ | 1 => ⟨8, 7⟩ | 2 => ⟨5, 10⟩ | 3 => ⟨4, 3⟩ | _ => ⟨5, 2⟩

def FloatFmt.bias (x : FloatFmt) : Int := ((1 <<< (x.eb - 1) : Nat) : Int) - 1

/-- R76, R93: the value of a floating pattern, subnormals read as zeros. -/
def decodeFloat (f p : Nat) : FVal :=
  let x := floatFmt f
  let s := bit p (x.eb + x.mb)
  let ex := bits p x.mb x.eb
  let mt := bits p 0 x.mb
  let top := (1 <<< x.eb) - 1
  if ex = 0 then .zero s
  else if f = 3 then
    if ex = 15 && mt = 7 then .nan s else .fin s (8 + mt) ((ex : Int) - 7 - 3)
  else if ex = top then (if mt = 0 then .inf s else .nan s)
  else .fin s ((1 <<< x.mb) + mt) ((ex : Int) - x.bias - x.mb)

/-- The pattern of a value read by format code (R76, R77, R80), unscaled; E8M0 reads as its power of two. -/
def decodeElem (f p : Nat) : FVal :=
  match f with
  | 5 =>
    let s := bit p 3
    let ex := bits p 1 2
    let mt := bits p 0 1
    if ex = 0 then (if mt = 0 then .zero s else .fin s 1 (-1)) else .fin s (2 + mt) ((ex : Int) - 2)
  | 6 => FVal.ofInt (signed 8 p)
  | 7 => FVal.ofInt ((p % 256 : Nat) : Int)
  | 8 => FVal.ofInt (signed 4 p)
  | 9 => FVal.ofInt ((p % 16 : Nat) : Int)
  | 10 => if p % 256 = 255 then .nan false else .fin false 1 (((p % 256 : Nat) : Int) - 127)
  | _ => decodeFloat f p

/-- R80, R99: the FP32 value of an element under a scale code. -/
def scaledValue (f p code : Nat) : FVal :=
  if code = 255 then .nan false
  else ((decodeElem f p).scale ((code : Int) - 127 - (if f = 6 then 6 else 0))).r32

/-- The canonical NaN of a floating format; E4M3 and E5M2 keep the sign (R99). -/
def nanPattern (f : Nat) (n : Bool) : Nat :=
  match f with
  | 0 => 0x7FC0_0000 | 1 => 0x7FC0 | 2 => 0x7E00
  | 3 => if n then 0xFF else 0x7F
  | _ => if n then 0xFE else 0x7E

def infPattern (f : Nat) : Nat :=
  match f with
  | 0 => 0x7F80_0000 | 1 => 0x7F80 | 2 => 0x7C00 | _ => 0x7C

/-- The largest finite magnitude of a floating format as a pattern. -/
def maxPattern (f : Nat) : Nat :=
  match f with
  | 0 => 0x7F7F_FFFF | 1 => 0x7F7F | 2 => 0x7BFF | 3 => 0x7E | _ => 0x7B

def signBit (f : Nat) (n : Bool) : Nat :=
  if n then (match f with | 0 => 0x8000_0000 | 1 => 0x8000 | 2 => 0x8000 | _ => 0x80) else 0

/-- R95 to R99: a value into FP32, BF16, FP16, E4M3 or E5M2: the pattern, and whether it saturated. -/
def encodeFloat (f : Nat) (rnd : Option Nat) (sat : Bool) (v : FVal) : Nat × Bool :=
  let x := floatFmt f
  let ovf := fun (n : Bool) =>
    if f = 3 then (if sat then (nanPattern 3 n, false) else (signBit f n + maxPattern f, true))
    else if f = 4 then (if sat then (signBit f n + infPattern f, false) else (signBit f n + maxPattern f, true))
    else (signBit f n + infPattern f, false)
  match v with
  | .nan n => (nanPattern f n, false)
  | .inf n => ovf n
  | .zero n => (signBit f n, false)
  | .fin n m e =>
    let r := roundBy rnd (x.mb + 1) m e
    let lg := FVal.log2 r.1 r.2
    if lg < 1 - x.bias then (signBit f n, false)
    else
      let e1 := lg - x.mb
      let q := if r.2 ≤ e1 then r.1 >>> (e1 - r.2).toNat else r.1 <<< (r.2 - e1).toNat
      let p := (((lg + x.bias).toNat) <<< x.mb) + (q - (1 <<< x.mb))
      if maxPattern f < p then ovf n else (signBit f n + p, false)

/-- The least and greatest value of an integer format. -/
def intRange (f : Nat) : Int × Int :=
  match f with
  | 6 => (-128, 127) | 7 => (0, 255) | 8 => (-8, 7) | _ => (0, 15)

/-- R99: a value into an integer range: rounded and saturated; a NaN gives 0; and whether it counts as saturated. -/
def encodeInt (lo hi : Int) (rnd : Option Nat) (v : FVal) : Int × Bool :=
  match v with
  | .nan _ => (0, true)
  | .inf n => (if n then lo else hi, true)
  | .zero _ => (0, false)
  | .fin n m e =>
    let q : Int := (roundUnit rnd m e 0 : Nat)
    let i := if n then -q else q
    if i < lo then (lo, true) else if hi < i then (hi, true) else (i, false)

/-- R94, R98: a value onto E2M1's magnitudes: the pattern, and whether it saturated. -/
def encodeE2M1 (rnd : Option Nat) (v : FVal) : Nat × Bool :=
  let sg := fun (n : Bool) => if n then 8 else 0
  match v with
  | .nan _ => (0, false)
  | .inf n => (sg n + 7, true)
  | .zero n => (sg n, false)
  | .fin n m e =>
    -- spacing 1/2 below 2, 1 below 4, 2 from 4 up
    let u : Int := let l := FVal.log2 m e; if l ≤ 0 then -1 else if l = 1 then 0 else 1
    let k := roundUnit rnd m e u
    -- in halves
    let h := k <<< (u + 1).toNat
    let code := if h ≤ 3 then h else if h = 4 then 4 else if h = 6 then 5 else if h = 8 then 6 else 7
    let above := rnd.isNone && !FVal.magLe m e 6 0
    (sg n + code, decide (12 < h) || above)

/-- R99: a value into E8M0: the power of two at or below the magnitude. DESIGN CHOICE, log 75. -/
def encodeE8M0 (v : FVal) : Nat :=
  match v with
  | .nan _ => 255
  | .inf _ => 254
  | .zero _ => 0
  | .fin _ m e => (clampInt (-127) 127 (FVal.log2 m e) + 127).toNat

/-- R99: a value into an unscaled element format: the pattern and whether it saturated. -/
def castElem (f : Nat) (rnd : Option Nat) (sat : Bool) (v : FVal) : Nat × Bool :=
  match f with
  | 5 => encodeE2M1 rnd v
  | 10 => (encodeE8M0 v, false)
  | _ =>
    if f ≤ 4 then encodeFloat f rnd sat v
    else
      let r := encodeInt (intRange f).1 (intRange f).2 rnd v
      (unsigned (if f ≤ 7 then 8 else 4) r.1, r.2)

/-- The FP32 pattern of a value. -/
def FVal.pat (v : FVal) : BitVec 32 := BitVec.ofNat 32 (encodeFloat 0 none false v).1
/-- The value of an FP32 pattern. -/
def ofPat (p : BitVec 32) : FVal := decodeFloat 0 p.toNat

/-! ### Block scales (R82) -/

/-- R82: the exponent of the largest binade of an element format. -/
def emaxOf (f : Nat) : Int :=
  match f with
  | 3 => 8 | 4 => 15 | 5 => 2 | _ => 0

/-- R82: the scale code of a block of FP32 values, and its power s. -/
def blockScale (emax : Int) (vs : List FVal) : Nat × Int :=
  if vs.any (fun v => !v.finite) then (255, 0)
  else
    let amax := vs.foldl (fun a v => FVal.max100 a v.abs) (.zero false)
    let s := match amax with
      | .fin _ m e => clampInt (-127) 127 (FVal.log2 m e - emax)
      | _ => -127
    ((s + 127).toNat, s)

/-- R82: an element of a block under its scale; casts always saturate, INT8 within ±127. -/
def blockElem (f : Nat) (rnd : Option Nat) (s : Int) (v : FVal) : Nat × Bool :=
  match f with
  | 6 => let r := encodeInt (-127) 127 rnd (v.scale (6 - s)); (unsigned 8 r.1, r.2)
  | _ => castElem f rnd false (v.scale (-s))

/-! ### Stochastic values (R97, R165) -/

/-- The mixing function of R97 and R165. -/
def mix64 (x0 : Nat) : Nat :=
  let m := 1 <<< 64
  let x1 := ((x0 ^^^ (x0 >>> 32)) * 0xB5AD_4ECE_DA1C_E2A9) % m
  let x2 := ((x1 ^^^ (x1 >>> 29)) * 0xE703_7ED1_A0B4_28DB) % m
  x2 ^^^ (x2 >>> 32)

/-- R97: the random value of output element e. -/
def random16 (seed q e : Nat) : Nat :=
  let m := 1 <<< 64
  mix64 ((seed % m) ^^^ ((q * 0x9E37_79B9_7F4A_7C15) % m) ^^^ (e % m)) % 65536

/-- R165: element (k, j) of the projection: ±0.125. -/
def projection (seed k j : Nat) : FVal :=
  .fin (bit (mix64 ((seed % (1 <<< 64)) ^^^ ((k * 64 + j) % (1 <<< 64)))) 63) 1 (-3)

/-! ### Sums -/

/-- One level of a pairwise tree: adjacent results are added in order. -/
def pairLevel {α : Type} (add : α → α → α) : List α → List α
  | a :: b :: l => add a b :: pairLevel add l
  | l => l

/-- n levels. -/
def pairLevels {α : Type} (add : α → α → α) : Nat → List α → List α
  | 0, l => l
  | n + 1, l => pairLevels add n (pairLevel add l)

/-- R100: the 64 lane results combined by the pairwise tree of R88 step 1. -/
def tree64 (add : FVal → FVal → FVal) (l : List FVal) : FVal := (pairLevels add 6 l).headD (.zero false)

/-- R100: a Finisher row reduction: element i goes to lane i mod 64; each lane combines its elements in ascending i. -/
def rowReduce (add : FVal → FVal → FVal) (start : FVal) (xs : List FVal) : FVal :=
  let lanes := (List.range 64).map (fun l =>
    let mine := (List.range (ceilDiv xs.length 64)).filterMap (fun g => if 64 * g + l < xs.length then xs[64 * g + l]? else none)
    match mine with
    | [] => start
    | x :: r => r.foldl add x)
  tree64 add lanes

/-- R100, R180: the sum of a row: a lane without elements holds +0. -/
def rowSum (xs : List FVal) : FVal := rowReduce fadd (.zero false) xs
/-- R100, R180: the maximum of a row: a lane without elements takes no part (it holds −Inf). -/
def rowMax (xs : List FVal) : FVal := rowReduce FVal.max100 (.inf true) xs

/-! ### The accumulator (R88, R89) -/

/-- A value of the accumulator with the outcomes met on the way: overflow, counted underflow. -/
structure AccV where
  v : FVal
  ov : Bool := false
  uf : Bool := false
  deriving DecidableEq, Repr

/-- R88, R89: holds a value to the accumulator's 24 bits and to 2^−511 … 2^512. -/
def AccV.hold (v : FVal) (ov uf : Bool) : AccV :=
  match v with
  | .fin n m e =>
    let r := roundNE 24 m e
    let x := FVal.log2 r.1 r.2
    if 512 ≤ x then ⟨.inf n, true, uf⟩ else if x < -511 then ⟨.zero n, ov, true⟩ else ⟨.fin n r.1 r.2, ov, uf⟩
  | .nan _ => ⟨.nan false, ov, uf⟩
  | y => ⟨y, ov, uf⟩

/-- An addition of the accumulator. -/
def AccV.add (a b : AccV) : AccV := AccV.hold (a.v.addExact b.v) (a.ov || b.ov) (a.uf || b.uf)

/-- R88 step 2: scales a half-sum by a block factor 2^k. -/
def AccV.scale (a : AccV) (k : Int) : AccV := if k = 0 then a else AccV.hold (a.v.scale k) a.ov a.uf

/-- R88 steps 1 to 3: one slice of 64 exact products, its half-sums scaled by 2^k0 and 2^k1. -/
def sliceSum (ps : List FVal) (k0 k1 : Int) : AccV :=
  let halves := pairLevels AccV.add 5 (ps.map (fun v => (⟨v, false, false⟩ : AccV)))
  match halves with
  | [a, b] => AccV.add (a.scale k0) (b.scale k1)
  | l => l.headD ⟨.zero false, false, false⟩

/-- R87: a saturating INT32 sum: the value and whether it saturated. -/
def satInt32 (i : Int) : Int × Bool :=
  if i < -0x8000_0000 then (-0x8000_0000, true) else if 0x7FFF_FFFF < i then (0x7FFF_FFFF, true) else (i, false)

/-- R90: an accumulator drained to FP32: the value, overflow, underflow. -/
def drainValue (sat : Bool) (a : FVal) : FVal × Bool × Bool :=
  match a with
  | .fin n m e =>
    let r := roundNE 24 m e
    let x := FVal.log2 r.1 r.2
    if 128 ≤ x then (if sat then .inf n else .fin n 0xFF_FFFF 104, true, false)
    else if x < -126 then (.zero n, false, true)
    else (.fin n r.1 r.2, false, false)
  | .nan _ => (.nan false, false, false)
  | y => (y, false, false)

/-- R91: the two BF16 parts of an FP32 operand. -/
def splitPair (a : FVal) : FVal × FVal :=
  match a with
  | .fin n m e =>
    let hi := decodeFloat 1 (encodeFloat 1 none false (.fin n m e)).1
    let hi' := if hi.isInf then decodeFloat 1 (signBit 1 n + maxPattern 1) else hi
    (hi', decodeFloat 1 (encodeFloat 1 none false ((FVal.fin n m e).addExact hi'.negate)).1)
  | .nan _ => (.nan false, .zero false)
  | y => (y, .zero false)

end Sys2Proof.Machine
end

