-- ==== Sys2Proof/Machine/Operands.lean ====
section
/-!
DEFINITION. Commands and their operand forms: the fields of a command (R237, R238), descriptors as a command keeps them (R214),
element addressing (R202, R207), reading elements as a unit sees them (R80, R172), writing them through a destination and its
cast control (R95, R97, R206, R517), and the check conditions on operands (R60, R214, R215, R218, R219).
-/
namespace Sys2Proof.Machine

/-! ### The command (R237) -/

namespace Com

def field (c : Record64) (lo w : Nat) : Nat := bits c.toNat lo w

def opcode (c : Record64) : Nat := field c 0 8
def cls (c : Record64) : Nat := field c 8 4
def fence (c : Record64) : Bool := bit c.toNat 12
def breakable (c : Record64) : Bool := bit c.toNat 13
def skip (c : Record64) : Bool := bit c.toNat 14
def tag (c : Record64) : Nat := field c 16 16
def wait (c : Record64) : Nat := field c 32 16
def setsel (c : Record64) : Nat := field c 48 16
/-- Bytes 8 to 11: CAST in [3:0], MODE above. -/
def ctl (c : Record64) : Nat := field c 64 32
def cast (c : Record64) : Nat := field c 64 4
/-- A MODE field by its bits in bytes 8 to 11. -/
def mode (c : Record64) (lo w : Nat) : Nat := bits (ctl c) lo w
def modeBit (c : Record64) (i : Nat) : Bool := bit (ctl c) i
/-- Operand reference OPi. -/
def op (c : Record64) (i : Nat) : Nat := field c (96 + 32 * i) 32
/-- Parameter Pi. -/
def param (c : Record64) (i : Nat) : Nat := field c (288 + 32 * i) 32
/-- Pi and Pi+1 as 64 bits. -/
def param64 (c : Record64) (i : Nat) : Nat := field c (288 + 32 * i) 64

/-- R95: ROUND = stochastic, and SAT. -/
def stoch (c : Record64) : Bool := cast c % 4 == 1
def sat (c : Record64) : Bool := bit (cast c) 2

end Com

/-! ### Operand references (R238) -/

def refKind (r : Nat) : Nat := bits r 30 2
def refId (r : Nat) : Nat := bits r 0 20
def refAdj (r : Nat) : Nat := bits r 20 4

/-- R238: a reference that keeps its reserved bits and encodings clear. -/
def refOk (r : Nat) : Bool :=
  match refKind r with
  | 0 => r == 0
  | 1 => bits r 24 6 == 0 && refAdj r ≤ 8
  | 2 => bits r 4 26 == 0
  | _ => bits r 0 30 == 0

/-- R238: the descriptor identifier of a reference with its counter added. -/
def refDesc (c : StreamCtx) (r : Nat) : Nat :=
  if refAdj r = 0 then refId r else (refId r + (Sparse.get 0 c.counters (refAdj r - 1)).toNat) % 0x10_0000

/-! ### Descriptors as kept (R214) -/

/-- The device address of BASE of a descriptor on tile t (R197, R202). -/
def Hw.descAddr (s : Hw) (t : Nat) (d : Record64) : Nat :=
  let g := (s.regionRec (Desc.region d)).getD 0
  (if Region.space g = 2 then storeAddr t else 0) + Region.base g + Desc.base d

/-- The far module of a descriptor: of a REMOTE region whose module is another (R219). -/
def Hw.descFar (s : Hw) (d : Record64) : Option Nat :=
  let g := (s.regionRec (Desc.region d)).getD 0
  if Region.space g = 3 && Region.module g != s.me then some (Region.module g) else none

/-- R214: a descriptor and its scale descriptor as a command reads them at issue. -/
def Hw.takeOpnd (s : Hw) (t id : Nat) : Opnd :=
  let d := s.descEntry id
  let sc := if Desc.scaled d then s.descEntry (Desc.scaleDesc d) else 0
  { id := id, img := d, addr := s.descAddr t d, far := s.descFar d, scale := sc,
    scaleAddr := if Desc.scaled d then s.descAddr t sc else 0, scaleFar := if Desc.scaled d then s.descFar sc else none }

/-- R214, R219: an operand lies in a REMOTE region: its data, or its scales. -/
def Hw.inRemote (s : Hw) (o : Opnd) : Bool :=
  let remote := fun (d : Record64) => Region.space ((s.regionRec (Desc.region d)).getD 0) == 3
  remote o.img || (Desc.scaled o.img && remote o.scale)

/-- R218: an address as a number that tells modules apart: bit 64 marks one of a far module, its identifier in [63:52]. -/
def devKey (far : Option Nat) (a : Nat) : Nat :=
  match far with
  | none => a
  | some m => (1 <<< 64) + (m <<< 52) + a
/-- The far module of such a number. -/
def keyFar (k : Nat) : Option Nat := if k < 1 <<< 64 then none else some (bits k 52 12)

namespace Opnd

def fmt (o : Opnd) : Nat := Desc.format o.img
def rank (o : Opnd) : Nat := Desc.rank o.img
def scaled (o : Opnd) : Bool := Desc.scaled o.img
def axis (o : Opnd) : Nat := Desc.scaleAxis o.img
def crow (o : Opnd) : Bool := Desc.layout o.img == 1
def sp24 (o : Opnd) : Bool := Desc.layout o.img == 2
def readShape (o : Opnd) : List Nat := Desc.readShape o.img
def writeShape (o : Opnd) : List Nat := Desc.writeShape o.img

/-- The device address of a region offset of the descriptor's region. -/
def atOffset (base : Nat) (d : Record64) (off : Int) : Nat := ((base : Int) - Desc.base d + off).toNat

/-- R212: the byte range, as device addresses. -/
def range (o : Opnd) : Nat × Nat := (atOffset o.addr o.img (Desc.range o.img).1, atOffset o.addr o.img (Desc.range o.img).2)
/-- The byte range of the scale tensor. -/
def scaleRange (o : Opnd) : Nat × Nat :=
  (atOffset o.scaleAddr o.scale (Desc.range o.scale).1, atOffset o.scaleAddr o.scale (Desc.range o.scale).2)
/-- Every range the operand reaches. -/
def ranges (o : Opnd) : List (Nat × Nat) := if o.scaled then [o.range, o.scaleRange] else [o.range]

/-- Data or scales lie on another module. -/
def reachesFar (o : Opnd) : Bool := o.far.isSome || o.scaleFar.isSome
/-- The operand with its addresses told apart by module (R216, R219). -/
def keyed (o : Opnd) : Opnd := { o with addr := devKey o.far o.addr, scaleAddr := devKey o.scaleFar o.scaleAddr }
/-- The ranges on this module. -/
def localRanges (o : Opnd) : List (Nat × Nat) := o.keyed.ranges.filter (fun r => (keyFar r.1).isNone)

end Opnd

/-! ### Indices -/

/-- Every index of a shape in row-major order (R202). -/
def allIndices : List Nat → List (List Nat)
  | [] => [[]]
  | n :: l => (List.range n).flatMap (fun i => (allIndices l).map (fun t => i :: t))

/-- The product of a shape. -/
def volume (l : List Nat) : Nat := l.foldl (· * ·) 1

/-- The row-major linear index. -/
def linear (shape idx : List Nat) : Nat := (shape.zip idx).foldl (fun a p => a * p.1 + p.2) 0

/-- The index of a row-major position. -/
def unlinear : List Nat → Nat → List Nat
  | [], _ => []
  | _ :: l, k => (k / volume l) :: unlinear l (k % volume l)

/-! ### Element addressing (R202) -/

/-- The element offset of core indices. -/
def Desc.elemOff (d : Record64) (idx : List Int) : Int :=
  ((List.range idx.length).zip idx).foldl (fun a p => a + p.2 * Desc.stride d p.1) 0

/-- Core indices of a read-shape index. -/
def Desc.coreOf (d : Record64) (idx : List Nat) : List Int :=
  ((List.range idx.length).zip idx).map (fun p => (p.2 : Int) - Desc.haloLo d p.1)

/-- The first byte of an element, and whether a 4-bit element sits in the upper nibble (R77). -/
def elemPlace (addr : Nat) (d : Record64) (off : Int) : Nat × Bool :=
  let w : Int := fmtBits (Desc.format d)
  (((addr : Int) + (off * w).fdiv 8).toNat, w = 4 && off % 2 == 1)

/-- The stored pattern of an element at an element offset. -/
def Hw.rawElem (s : Hw) (addr : Nat) (d : Record64) (off : Int) : Nat :=
  let p := elemPlace addr d off
  match fmtBits (Desc.format d) with
  | 4 => bits (s.peek p.1).toNat (if p.2 then 4 else 0) 4
  | w => ofBytes (s.peekRun p.1 (w / 8))

namespace Opnd

/-- The stored pattern of the element at core indices. -/
def raw (o : Opnd) (s : Hw) (idx : List Int) : Nat := s.rawElem o.addr o.img (Desc.elemOff o.img idx)

/-- R207: the scale tensor's element offset for core indices: the data's read-shape index, and ⌊i/32⌋ on the scale axis. -/
def scaleOff (o : Opnd) (idx : List Int) : Int :=
  Desc.elemOff o.scale (((List.range idx.length).zip idx).map (fun p =>
    if p.1 = o.axis then p.2 / 32 else p.2 + Desc.haloLo o.img p.1))

/-- The scale code of the element at core indices; 127 (2⁰) for an unscaled operand (R84). -/
def code (o : Opnd) (s : Hw) (idx : List Int) : Nat :=
  if o.scaled then s.rawElem o.scaleAddr o.scale (o.scaleOff idx) else 127

/-- The value of the element as every unit but a loom reads it (R99, R172). -/
def value (o : Opnd) (s : Hw) (idx : List Int) : FVal :=
  if o.scaled then scaledValue o.fmt (o.raw s idx) (o.code s idx) else
    match decodeElem o.fmt (o.raw s idx) with
    | .nan n => .nan n
    | v => v.r32

/-- The value at a read-shape index. -/
def readVal (o : Opnd) (s : Hw) (idx : List Nat) : FVal := o.value s (Desc.coreOf o.img idx)

/-- The INT32 pattern of a list element (R137): format code 0, read as two's complement. -/
def listInt (o : Opnd) (s : Hw) (idx : List Nat) : Int := signed 32 (o.raw s (Desc.coreOf o.img idx))

/-- The values of a list of the operand's read shape in row-major order. -/
def values (o : Opnd) (s : Hw) : List FVal := (allIndices o.readShape).map (o.readVal s)
def ints (o : Opnd) (s : Hw) : List Int := (allIndices o.readShape).map (o.listInt s)

/-- R205: the pad pattern in the descriptor's format. -/
def padPattern (o : Opnd) : Nat :=
  if Desc.pad o.img then
    if fmtInt o.fmt then (castElem o.fmt none false (FVal.ofInt (signed 16 (Desc.padVal o.img)))).1
    else (castElem o.fmt none false (decodeFloat 1 (Desc.padVal o.img))).1
  else 0

/-- R205: the pad value. -/
def padValue (o : Opnd) : FVal := decodeElem o.fmt o.padPattern

/-- R206: the halo positions, as read-shape indices. -/
def haloIndices (o : Opnd) : List (List Nat) :=
  (allIndices o.readShape).filter (fun idx => ((List.range idx.length).zip idx).any (fun p =>
    decide (p.2 < Desc.haloLo o.img p.1) || decide (Desc.haloLo o.img p.1 + Desc.size o.img p.1 ≤ p.2)))

/-- R215: a destination repeats no element by a stride of 0. -/
def distinct (o : Opnd) : Bool := (Desc.dims o.img).all (fun j => Desc.stride o.img j != 0 || Desc.size o.img j == 1)

end Opnd

/-! ### Writing through a destination -/

/-- Puts a pattern at an element offset into the bytes gathered so far; the other nibble of a byte is taken from there, or
from memory. -/
def Hw.putElem (s : Hw) (cells : Sparse Byte) (addr : Nat) (d : Record64) (off : Int) (pat : Nat) : Sparse Byte :=
  let p := elemPlace addr d off
  match fmtBits (Desc.format d) with
  | 4 =>
    let old := ((Sparse.find? cells p.1).getD (s.peek p.1)).toNat
    Sparse.set cells p.1 (BitVec.ofNat 8 (setBits old (if p.2 then 4 else 0) 4 pat))
  | w => (runCells p.1 (toBytes (w / 8) pat)).foldl (fun m e => Sparse.set m e.1 e.2) cells

/-- R77: the unused upper nibble beside the last element of an odd 4-bit dimension, halo included, is written as zero.  (HALO_LO is even,
R203.) -/
def padNibble (s : Hw) (cells : Sparse Byte) (o : Opnd) (idx : List Int) : Sparse Byte :=
  let last := o.rank - 1
  let n := Desc.size o.img last + Desc.haloHi o.img last
  if fmtBits o.fmt = 4 && n % 2 = 1 && nth 0 idx last + 1 = (n : Int) then s.putElem cells o.addr o.img (Desc.elemOff o.img idx + 1) 0
  else cells

/-- How a command writes (R95, R97): its cast control with the sequence number and the seed. -/
structure Writer where
  stoch : Bool
  sat : Bool
  seq : Nat
  seed : Nat
  deriving DecidableEq, Repr

/-- R95: the random value an element of a destination takes: where the command rounds stochastically and the format allows
it. -/
def Writer.rnd (w : Writer) (fmt e : Nat) : Option Nat :=
  if w.stoch && 3 ≤ fmt && fmt ≤ 9 then some (random16 w.seed w.seq e) else none

/-- The writer that converts nothing but FP32 (the statistics of R184, R187, R188). -/
def Writer.plain : Writer := { stoch := false, sat := false, seq := 0, seed := 0 }

/-- R99: writes unscaled elements (core index and value): the bytes, and how many saturated. -/
def Hw.plainCells (s : Hw) (o : Opnd) (w : Writer) (els : List (List Nat × FVal)) : Sparse Byte × Nat :=
  els.foldl (fun (r : Sparse Byte × Nat) e =>
    let c := castElem o.fmt (w.rnd o.fmt (linear o.writeShape e.1)) w.sat e.2
    let cells := s.putElem r.1 o.addr o.img (Desc.elemOff o.img (e.1.map Int.ofNat)) c.1
    (padNibble s cells o (e.1.map Int.ofNat), r.2 + (if c.2 then 1 else 0))) ([], 0)

/-- The scale blocks (index with ⌊i/32⌋ on the scale axis) that a list of core indices touches, in order of first touch. -/
def blocksOf (axis : Nat) (idxs : List (List Nat)) : List (List Nat) :=
  idxs.foldl (fun acc idx => let b := setNth (nth 0 idx axis / 32) idx axis; if acc.contains b then acc else acc ++ [b]) []

/-- R82, R517: writes elements of a block-scaled destination: each block touched is written whole, merged in FP32 with what is
stored, under a new scale.  Answers the bytes, the saturated elements, and the elements of the blocks that were merged. -/
def Hw.scaledCells (s : Hw) (o : Opnd) (w : Writer) (els : List (List Nat × FVal)) : Sparse Byte × Nat × List (List Nat) :=
  let n := Desc.size o.img o.axis
  (blocksOf o.axis (els.map (·.1))).foldl (fun (r : Sparse Byte × Nat × List (List Nat)) b =>
    let k0 := nth 0 b o.axis * 32
    let idxs := (List.range (min 32 (n - k0))).map (fun i => setNth (k0 + i) b o.axis)
    let merged := idxs.map (fun idx => (els.reverse.find? (fun e => e.1 == idx)).map (·.2))
    let vals := (idxs.zip merged).map (fun p => p.2.getD (o.value s (p.1.map Int.ofNat)))
    let sc := blockScale (emaxOf o.fmt) vals
    let cells := (idxs.zip vals).foldl (fun (c : Sparse Byte × Nat) p =>
      let q := if sc.1 = 255 then (0, false) else blockElem o.fmt (w.rnd o.fmt (linear o.writeShape p.1)) sc.2 p.2
      let cs := s.putElem c.1 o.addr o.img (Desc.elemOff o.img (p.1.map Int.ofNat)) q.1
      (padNibble s cs o (p.1.map Int.ofNat), c.2 + (if q.2 then 1 else 0))) (r.1, r.2.1)
    let withScale := s.putElem cells.1 o.scaleAddr o.scale (o.scaleOff ((setNth k0 b o.axis).map Int.ofNat)) sc.1
    let partly := merged.any (fun m => m.isNone)
    (withScale, cells.2, if partly then r.2.2 ++ idxs else r.2.2)) ([], 0, [])

/-- Marks dross at a list of device addresses, an atom once, passing it on (R304). -/
def Hw.passDross (s : Hw) (addrs : List Nat) : Hw :=
  let atoms := addrs.foldl (fun (l : List Nat) a => let k := a / 128 * 128; if l.contains k then l else l ++ [k]) []
  (atoms.foldl (fun s a => s.invertAtom a) s).bump F.FLT_DROSS_PASSED_COUNT 0 atoms.length

/-- The byte an element of an operand lies in. -/
def Opnd.byteAt (o : Opnd) (idx : List Int) : Nat := (elemPlace o.addr o.img (Desc.elemOff o.img idx)).1

/-- Whether an element of the read shape, or its scale, lies in bytes a to b. -/
def Opnd.hits (o : Opnd) (a b : Nat) : Bool :=
  (allIndices o.readShape).any (fun idx =>
    let p := o.byteAt (Desc.coreOf o.img idx)
    decide (p ≤ b) && decide (a < p + (fmtBits o.fmt + 7) / 8))
def Opnd.scaleHits (o : Opnd) (a b : Nat) : Bool :=
  (allIndices (Desc.writeShape o.scale)).any (fun idx =>
    let p := (elemPlace o.scaleAddr o.scale (Desc.elemOff o.scale (idx.map Int.ofNat))).1
    a ≤ p && p ≤ b)

/-- The bytes of this module a unit takes in that reads an operand whole. -/
def Opnd.spans (o : Opnd) : List Span :=
  let d : Span := { lo := o.range.1, hi := o.range.2, hit := if o.crow then fun _ _ => true else o.hits }
  (if o.far.isNone then [d] else []) ++
    (if o.scaled && o.scaleFar.isNone then [{ lo := o.scaleRange.1, hi := o.scaleRange.2, hit := o.scaleHits }] else [])

/-- The byte of an element and the byte of its block's scale. -/
def Opnd.places (o : Opnd) (idx : List Nat) : List Nat :=
  let i := idx.map Int.ofNat
  [o.byteAt i, (elemPlace o.scaleAddr o.scale (o.scaleOff i)).1]

/-- R517: of blocks merged with what is stored, the places of those in which a stored atom is dross. -/
def Hw.storedDross (s : Hw) (o : Opnd) (idxs : List (List Nat)) : List Nat :=
  let key := fun (i : List Nat) => setNth (nth 0 i o.axis / 32) i o.axis
  let bad := (idxs.filter (fun i => (o.places i).any s.drossAt)).map key
  (idxs.filter (fun i => bad.contains (key i))).flatMap o.places

/-- Writes values at core indices of a destination; answers how many elements saturated. -/
def Hw.writeElems (s : Hw) (o : Opnd) (w : Writer) (els : List (List Nat × FVal)) : Hw × Nat :=
  if o.scaled then
    let r := s.scaledCells o w els
    let hit := s.storedDross o r.2.2
    let s1 := s.writeAddrs r.1
    (if hit.isEmpty then s1 else s1.passDross hit, r.2.1)
  else
    let r := s.plainCells o w els
    (s.writeAddrs r.1, r.2)

/-- R517: results that wait for the rest of their scale block: those of `waits`, by linear index, and the new ones, by core index.  The
blocks that are complete, or with `last` all of them, are written; answers the saturated elements and what still waits. -/
def Hw.writeBlocks (s : Hw) (o : Opnd) (w : Writer) (waits : List (Nat × Reg32)) (els : List (List Nat × FVal)) (last : Bool) :
    Hw × Nat × List (Nat × Reg32) :=
  if !o.scaled then let r := s.writeElems o w els; (r.1, r.2, [])
  else
    let all := waits ++ els.map (fun e => (linear o.writeShape e.1, e.2.pat))
    let n := Desc.size o.img o.axis
    let block := fun (i : Nat) => let x := unlinear o.writeShape i; setNth (nth 0 x o.axis / 32) x o.axis
    let whole := fun (i : Nat) =>
      let b := block i
      decide (min 32 (n - nth 0 b o.axis * 32) ≤ ((all.filter (fun e => block e.1 == b)).map (·.1)).eraseDups.length)
    let now := all.filter (fun e => last || whole e.1)
    let r := s.writeElems o w (now.map (fun e => (unlinear o.writeShape e.1, ofPat e.2)))
    (r.1, r.2, if last then [] else all.filter (fun e => !whole e.1))

/-- Writes patterns at core indices of a destination as they are: moved data. -/
def Hw.writeRaw (s : Hw) (o : Opnd) (els : List (List Nat × Nat)) : Hw :=
  s.writeAddrs (els.foldl (fun c e =>
    padNibble s (s.putElem c o.addr o.img (Desc.elemOff o.img (e.1.map Int.ofNat)) e.2) o (e.1.map Int.ofNat)) [])

/-- R206: the halo ring of a destination with PAD_WRITE = 1, over the bytes gathered so far: the pad value, or element 0 under scale
code 0. -/
def Hw.haloCells (s : Hw) (o : Opnd) (cells : Sparse Byte) : Sparse Byte :=
  if Desc.padWrite o.img && !o.crow then
    o.haloIndices.foldl (fun c idx =>
      let core := Desc.coreOf o.img idx
      let c1 := padNibble s (s.putElem c o.addr o.img (Desc.elemOff o.img core) (if o.scaled then 0 else o.padPattern)) o core
      if o.scaled then s.putElem c1 o.scaleAddr o.scale (o.scaleOff core) 0 else c1) cells
  else cells

/-- R206: writes the halo ring. -/
def Hw.writeHalo (s : Hw) (o : Opnd) : Hw := if Desc.padWrite o.img && !o.crow then s.writeAddrs (s.haloCells o []) else s

/-! ### Checks on where an operand lies -/

/-- R60: a range of store offsets of logical tile t lies in a resident partition of stream n. -/
def Hw.storeResident (s : Hw) (n t lo hi : Nat) : Bool :=
  (s.getPhys (s.physOf t)).resident.any (fun r =>
    r.stream == n && r.filled && r.pbase * 4096 ≤ lo && hi < (r.pbase + r.psize) * 4096)

/-- R60, R218, R460: a device range that a command of stream n may touch on this module: mapped GDDR7, or store bytes of an
online tile in a resident partition of the stream. -/
def Hw.reachable (s : Hw) (n : Nat) (r : Nat × Nat) : Bool :=
  if r.1 < storeBase then decide (r.2 < s.capacity)
  else
    let t := (r.1 - storeBase) / 0x40_0000
    let u := (r.2 - storeBase) / 0x40_0000
    t == u && t < 512 && !s.flt.offline.contains t &&
      s.storeResident n t ((r.1 - storeBase) % 0x40_0000) ((r.2 - storeBase) % 0x40_0000)

/-- R345: a device range has lines on channel c. -/
def Hw.onChannel (s : Hw) (c : Nat) (r : Nat × Nat) : Bool :=
  decide (r.1 < 0x50_0000_0000) && (decide (r.1 / 256 + 80 ≤ r.2 / 256) ||
    (List.range (r.2 / 256 + 1 - r.1 / 256)).any (fun i => (s.position ((r.1 / 256 + i) * 256)).1 == c))

/-- R325: the tile's touch log records a destination's whole range; one that has met a 257th entry records nothing more. -/
def Hw.touch (s : Hw) (t : Nat) (o : Opnd) : Hw :=
  let r := Desc.range o.img
  let lo := r.1.toNat
  let hi := r.2.toNat
  let reg := Desc.region o.img
  let job := Desc.job o.img
  let p := s.physOf t
  let x := s.getPhys p
  let near := fun (e : Touch) => !e.frames && e.region == reg && e.job == job && decide (lo ≤ e.hi + 0x1_0000) && decide (e.lo ≤ hi + 0x1_0000)
  if x.touchedAll then s
  else match x.log.findIdx? near with
  | some i =>
    let e := nth { lo := lo, hi := hi, region := reg, job := job, frames := false } x.log i
    s.setPhys p { x with log := setNth { e with lo := min e.lo lo, hi := max e.hi hi } x.log i }
  | none =>
    if x.log.length < 256 then s.setPhys p { x with log := x.log ++ [{ lo := lo, hi := hi, region := reg, job := job, frames := false }] }
    else s.setPhys p { x with touchedAll := true }

end Sys2Proof.Machine
end

