-- ==== Sys2Proof/Machine/Flags.lean ====
section
/-!
DEFINITION. The status of a command (R243, R244), the arithmetic counters and status bits that its results set (R102, R103), and
the trace's path to memory (R509).
-/
namespace Sys2Proof.Machine

/-! ### Status codes (R243) -/

namespace St
abbrev ok : Nat := 0
abbrev range : Nat := 1
abbrev format : Nat := 2
abbrev shape : Nat := 3
abbrev index : Nat := 4
abbrev heddle : Nat := 5
abbrev desc : Nat := 6
abbrev job : Nat := 7
abbrev param : Nat := 8
abbrev carry : Nat := 9
abbrev ov : Nat := 0x10
abbrev uf : Nat := 0x20
abbrev ns : Nat := 0x40
abbrev sa : Nat := 0x80
end St

/-- The CODE of a status word. -/
def statusCode (st : Nat) : Nat := st % 16

/-- Joins the flags of two status words; the first non-zero CODE stands. -/
def joinStatus (a b : Nat) : Nat :=
  (if statusCode a = 0 then statusCode b else statusCode a) + ((a / 16) ||| (b / 16)) * 16

/-! ### Counters of a stream (R102) -/

/-- R102: k elements saturated: counts them; the status bit SA. -/
def Hw.countSat (s : Hw) (n k : Nat) : Hw × Nat :=
  if k = 0 then (s, 0) else (s.bump F.NUM_SATURATED_COUNT n k, St.sa)

/-- R89, R90: elements that overflowed and that were flushed: counts them; OV and UF. -/
def Hw.countOvUf (s : Hw) (n ov uf : Nat) : Hw × Nat :=
  ((s.bump F.NUM_OVERFLOW_COUNT n ov).bump F.NUM_UNDERFLOW_COUNT n uf, (if ov = 0 then 0 else St.ov) + (if uf = 0 then 0 else St.uf))

/-! ### The status accumulator (R244) -/

/-- R244: a completing command's status enters `STRM.STATUS_ACC`; the first failure since the code bits were clear is recorded
and raises event 0xB020. -/
def Hw.accStatus (s : Hw) (n num tag st : Nat) : Hw :=
  let code := statusCode st
  let first := s.fget F.STRM_STATUS_ACC_CODES n == 0
  let s1 := if code = 0 then s else s.fset F.STRM_STATUS_ACC_CODES (s.fget F.STRM_STATUS_ACC_CODES n ||| (1 <<< (code - 1))) n
  let s2 := s1.fset F.STRM_STATUS_ACC_FLAGS (s1.fget F.STRM_STATUS_ACC_FLAGS n ||| bits st 4 4) n
  let s3 := if s2.rd .STRM_STATUS_ACC n = s.rd .STRM_STATUS_ACC n then s2 else s2.shadowTouch n
  if code ≠ 0 && first then
    (((s3.fset F.STRM_ERR_TAG_TAG tag n).fset F.STRM_ERR_TAG_CODE code n).fset F.STRM_ERR_COUNT_ISSUED num n).raise
      0xB020 n (pack2 tag code) { stream := some n, job := some (s.fget F.STRM_JOB_JOB n) }
  else s3

/-! ### Trace (R509) -/

/-- R509, R520: one record leaves the rim buffer for its place in the buffer of 2^LOG2; WRAP wraps it, otherwise FULL stops the
trace; what leads beyond mapped GDDR7 is discarded and counted. -/
def Hw.traceOut (s : Hw) (r : List Byte) : Hw :=
  let n := s.fget F.DBG_TRACE_COUNT_COUNT
  let cap := 1 <<< s.fget F.DBG_TRACE_CTL_LOG2
  if !s.flag F.DBG_TRACE_CTL_WRAP && cap ≤ n then s.bump F.DBG_TRACE_LOST_COUNT
  else
    let a := s.rd64 .DBG_TRACE_BASE_LO .DBG_TRACE_BASE_HI % (1 <<< 40) + 32 * (n % cap)
    if s.capacity < a + 32 then (s.bump F.DBG_TRACE_LOST_COUNT).raiseOnce 0x5051 0 a (a >>> 32)
    else
      let s1 := (s.writeRun a r).fset F.DBG_TRACE_COUNT_COUNT ((n + 1) % 0x1_0000_0000)
      if !s.flag F.DBG_TRACE_CTL_WRAP && cap = n + 1 then (s1.fset F.DBG_TRACE_CTL_FULL 1).fset F.DBG_TRACE_CTL_RUNNING 0 else s1

/-- R509: the rim buffer drains (DESIGN CHOICE, log 2). -/
def Hw.drainTrace (s : Hw) : Hw :=
  s.test.trace.foldl Hw.traceOut { s with test := { s.test with trace := [] } }

/-- R509: a record of a command, for the stream that SRC_CMD selects: KIND 3 issue, 4 completion. -/
def Hw.traceCmd (s : Hw) (kind t q n tag tail : Nat) : Hw :=
  if s.flag F.DBG_TRACE_CTL_SRC_CMD && s.fget F.DBG_TRACE_CTL_STREAM == n then s.trace (s.traceRec kind q t n tag tail) else s

/-! ### Performance counters (R511) -/

/-- R511: k occurrences of an event on a tile for a stream, in the counters whose filters take them. -/
def Hw.pcEvent (s : Hw) (ev t n k : Nat) : Hw :=
  if s.flag F.DBG_PC_CTL_RUN then
    (List.range 8).foldl (fun s i =>
      let admitted := (!s.flag F.DBG_PC_CFG_TILE_EN i || s.fget F.DBG_PC_CFG_TILE i == t) &&
        (!s.flag F.DBG_PC_CFG_STREAM_EN i || s.fget F.DBG_PC_STREAM_STREAM i == n)
      if s.fget F.DBG_PC_CFG_EVENT i = ev && (admitted || ev = 0 || 9 ≤ ev) then
        s.wr64 .DBG_PC_VAL_LO .DBG_PC_VAL_HI ((s.rd64 .DBG_PC_VAL_LO .DBG_PC_VAL_HI i + k) % (1 <<< 64)) i
      else s) s
  else s

/-! ### Perturbation (R503 to R505) -/

/-- R504: whether perturbation unit k delays opportunity n. -/
def Hw.delays (s : Hw) (k n : Nat) : Bool :=
  let prob := s.fget F.TST_PERT_CTL_PROB k
  prob == 0 || decide (bits (mix64 (s.rd64 .TST_PERT_SEED_LO .TST_PERT_SEED_HI k ^^^ n)) 56 8 < prob)

/-- R503, R504: an opportunity of unit `idx` of a KIND: every perturbation unit that acts on it counts it, and counts the hit where
it delays it.  What the delay itself moves is timing (DEDUCED, log 51). DESIGN CHOICE, log 39. -/
def Hw.opportunity (s : Hw) (kind idx t n : Nat) : Hw :=
  if !s.flag F.TST_ARM_ARMED then s
  else
    (List.range 8).foldl (fun s k =>
      if s.flag F.TST_PERT_CTL_EN k && s.fget F.TST_PERT_CTL_KIND k == kind &&
          (s.flag F.TST_PERT_CTL_ALL k || s.fget F.TST_PERT_CTL_INDEX k == idx) then
        let i := Sparse.get 0 s.test.opps (k * 1024 + idx)
        let s1 : Hw := { s with test := { s.test with opps := Sparse.put 0 s.test.opps (k * 1024 + idx) (i + 1) } }
        if s.delays k i then (s1.bump F.TST_PERT_HITS_COUNT k).pcEvent 8 t n (s.fget F.TST_PERT_AMT_CYCLES k) else s1
      else s) s

end Sys2Proof.Machine
end

