-- ==== Sys2Proof/Machine/Layer.lean ====
section
/-!
DEFINITION. The layer table (R267, R268): its entries as an APPLY reads them, the copies an APPLY reads and writes (R281, R282), and
the layer status records (R269).
-/
namespace Sys2Proof.Machine

/-- What an operand position of a command is: absent, read, written, both; the same but optional; a descriptor, slot or
immediate that is read; and the metadata of a 2:4 operand. -/
inductive Role where
  | no | src | dst | both | optSrc | optDst | optBoth | val | posn
  deriving DecidableEq, Repr

/-- A layer entry (R267), as the number its 128 bytes spell. -/
abbrev LayerEnt := BitVec 1024

namespace LayerEnt

def field (e : LayerEnt) (lo w : Nat) : Nat := bits e.toNat lo w
def valid (e : LayerEnt) : Bool := bit e.toNat 0
/-- 0 S, 1 M, 2 A, 3 P. -/
def rule (e : LayerEnt) : Nat := field e 1 2
def priv (e : LayerEnt) : Bool := bit e.toNat 3
def sketch (e : LayerEnt) : Bool := bit e.toNat 4
/-- 0 BF16, 1 FP16, 2 E5M2. -/
def dfmt (e : LayerEnt) : Nat := field e 5 2
def job (e : LayerEnt) : Nat := field e 8 12
def group (e : LayerEnt) : Nat := field e 20 8
def dexp0 (e : LayerEnt) : Int := signed 8 (field e 32 8)
def pevery (e : LayerEnt) : Nat := field e 40 8
def b1 (e : LayerEnt) : FVal := decodeFloat 0 (field e 64 32)
def b2 (e : LayerEnt) : FVal := decodeFloat 0 (field e 96 32)
def eps (e : LayerEnt) : FVal := decodeFloat 0 (field e 128 32)
def lambda (e : LayerEnt) : FVal := decodeFloat 0 (field e 160 32)
def seed (e : LayerEnt) : Nat := field e 192 64
/-- The descriptor words: MASTER 0 and 1, ST1 2 and 3, ST2 4 and 5, ST3 6 and 7, WORK 8 and 9, REM 10, SKETCH 11 and 12. -/
def word (e : LayerEnt) (i : Nat) : Nat := field e (256 + 32 * i) 32
def has (e : LayerEnt) (i : Nat) : Bool := bit (word e i) 31

/-- R267: reserved fields and encodings. -/
def reservedOk (e : LayerEnt) : Bool :=
  valid e && field e 7 1 == 0 && field e 28 4 == 0 && field e 48 16 == 0 && field e 672 352 == 0 && dfmt e != 3 &&
  (List.range 13).all (fun i => bits (word e i) 20 11 == 0 && (has e i || word e i == 0))

/-- R268: the descriptors an entry must and must not name. -/
def presenceOk (e : LayerEnt) (dual : Bool) : Bool :=
  let pair := fun (a b : Nat) (want : Bool) => has e a == want && has e b == (want && dual)
  pair 0 1 true && pair 2 3 true && pair 4 5 (decide (2 ≤ rule e)) && pair 6 7 (rule e == 3) &&
  has e 9 == (has e 8 && dual) && (!sketch e || has e 8) && has e 10 == priv e && pair 11 12 (sketch e)

/-- R268: the ranges of the parameters. -/
def rangesOk (e : LayerEnt) : Bool :=
  let one : FVal := .fin false 1 0
  let unit := fun (v : FVal) => v.finite && (FVal.zero false).ieeeLe v && !(one.ieeeLe v)
  (unit (b1 e) || (rule e == 1 && b1 e == decodeFloat 0 0x3F80_0000)) && unit (b2 e) &&
  (rule e < 2 || ((eps e).finite && (FVal.fin false 1 (-126)).ieeeLe (eps e) && (eps e).ieeeLe one)) &&
  (lambda e).finite && (FVal.zero false).ieeeLe (lambda e) && (rule e != 3 || 1 ≤ pevery e)

end LayerEnt

/-- R267: the layer and the step an APPLY names. -/
def applyLayer (w : Record64) : Nat := Com.param w 0 % 4096
def applyStep (w : Record64) : Nat := Com.param64 w 1

/-- R267, R273, R520: the address of a layer entry, and the entry where it lies in the table and in mapped GDDR7. -/
def Hw.layerAddr (s : Hw) (l : Nat) : Nat := s.rd64 .UPD_LAYER_BASE_LO .UPD_LAYER_BASE_HI % (1 <<< 40) + 128 * l
def Hw.layerEnt (s : Hw) (l : Nat) : Option LayerEnt :=
  if l < s.fget F.UPD_LAYER_COUNT_COUNT && s.layerAddr l + 128 ≤ s.capacity then
    some (BitVec.ofNat 1024 (ofBytes (s.peekRun (s.layerAddr l) 128)))
  else none

def Hw.dual (s : Hw) : Bool := s.flag F.UPD_MODE_DUAL

/-- R267, R268: the entry keeps its rules. -/
def Hw.layerOk (s : Hw) (l : Nat) : Option LayerEnt :=
  (s.layerEnt l).bind (fun e => if LayerEnt.reservedOk e && LayerEnt.presenceOk e s.dual && LayerEnt.rangesOk e then some e else none)

/-! ### The copies (R281, R282) -/

/-- R282: the APPLY is a write APPLY. -/
def Hw.writeApply (s : Hw) (w : Record64) : Bool :=
  let x := s.getLayer (applyLayer w)
  !s.dual && applyStep w == x.last.step && (x.pending || x.awaitWrite || x.mayWrite)

/-- R281, R282: what an APPLY does with descriptor word i of its entry: in dual-copy mode it reads the live copies and writes the
others; in single-copy mode a prepare reads and a write APPLY writes. -/
def layRole (dual live write : Bool) (i : Nat) : Role :=
  let other := if live then i % 2 == 0 else i % 2 == 1
  let sketchOther := if live then i == 11 else i == 12
  if dual then
    if i = 10 then .both
    else if i < 8 then (if other then .dst else .src)
    else if i < 10 then (if other then .dst else .no)
    else if sketchOther then .dst else .no
  else if i < 8 || i = 10 then (if write then .both else .src)
  else if write then .dst else .no

/-- R216, R273: the descriptors a layer entry names, by word, as an APPLY on tile t takes them, with what it does with each. -/
def Hw.layOps (s : Hw) (t : Nat) (w : Record64) : List (Nat × Role × Opnd) :=
  if Com.opcode w = 0x60 then
    match s.layerOk (applyLayer w) with
    | some e => (List.range 13).filterMap (fun i =>
        if LayerEnt.has e i then
          some (i, layRole s.dual (s.getLayer (applyLayer w)).epoch (s.writeApply w) i, s.takeOpnd t (bits (LayerEnt.word e i) 0 20))
        else none)
    | none => []
  else []

/-- The operand of a descriptor word. -/
def layAt (l : List (Nat × Role × Opnd)) (i : Nat) : Option Opnd := (l.find? (fun p => p.1 == i)).map (·.2.2)

/-- R273: whether an APPLY also needs loom A. -/
def Hw.applyLoom (s : Hw) (w : Record64) : Bool :=
  match s.layerOk (applyLayer w) with
  | some e => LayerEnt.rule e == 3 || LayerEnt.sketch e
  | none => false

/-! ### Status records (R269) -/

/-- R269: the 64 bytes of a layer's record; the epoch reads 0.0 in single-copy mode. -/
def Layer.record (dual : Bool) (x : Layer) : List Byte :=
  let b := fun (v : Bool) (i : Nat) => if v then 1 <<< i else 0
  toBytes 4 (if dual && x.epoch then 0x3F80_0000 else 0) ++ toBytes 4 (encodeFloat 0 none false (.fin false 1 x.gexp)).1 ++
  toBytes 1 (unsigned 8 x.gexp) ++ toBytes 1 (unsigned 8 (if x.dexpSet then x.dexp else x.last.dexp)) ++ toBytes 2 (min x.starve 0xFFFF) ++
  toBytes 4 x.last.ratio ++ toBytes 4 x.last.dmax ++ toBytes 4 (b x.pending 0 + b x.awaitWrite 1 + x.last.flags) ++
  toBytes 8 x.lastStep ++ toBytes 8 x.last.step ++ toBytes 24 0

/-- R269, R520: writes a layer's status record where it lies in mapped GDDR7. -/
def Hw.writeLayerRec (s : Hw) (l : Nat) (x : Layer) : Hw :=
  let a := s.rd64 .UPD_LSTAT_BASE_LO .UPD_LSTAT_BASE_HI % (1 <<< 40) + 64 * l
  if a + 64 ≤ s.capacity then s.writeRun a (x.record s.dual) else s.raiseOnce 0x5051 0 a (a >>> 32)

end Sys2Proof.Machine
end

