-- ==== Sys2Proof/Machine/Latch.lean ====
section
/-!
DEFINITION. Latches (R250 to R254, R519): selectors, tile latches, the global latch unit, remote sets, waits and queries, and
the latch records of the links.
-/
namespace Sys2Proof.Machine

/-! ### Selectors (R250) -/

def selScope (x : Nat) : Nat := bits x 14 2
def selClear (x : Nat) : Bool := bit x 13
def selLatch (x : Nat) : Nat := bits x 0 13

/-- R250: a selector that uses no reserved encoding. -/
def selOk (x : Nat) : Bool :=
  match selScope x with
  | 0 => x == 0
  | 1 => selLatch x < 64
  | 2 => selLatch x < 4096
  | _ => true

/-! ### Records -/

/-- Takes the first waiting record of a type from a link's receive side, as the row that applies it does. -/
def Hw.takeRecord (s : Hw) (l type : Nat) : Hw :=
  let x := s.getLink l
  match x.rxRecords.findIdx? (fun r => bits r.toNat 0 8 == type) with
  | some i => s.setLink l { x with rxRecords := x.rxRecords.eraseIdx i }
  | none => s

/-- The body of a latch record: latch, KIND or value, job, and the tag of bytes 10 and 11 (R361). -/
def latchBody (latch : Nat) (b : Bool) (job tag : Nat) : Nat :=
  latch % 4096 + ((if b then 1 else 0) <<< 12) + ((job % 4096) <<< 16) + ((tag % 65536) <<< 32)

/-! ### The latch unit (R252, R254) -/

def Hw.glatch (s : Hw) (n : Nat) : Bool := Sparse.get false s.latches.set n

/-- R252, R254: gives a global latch a value, and answers its watchers with the change: the waits they stand for have then seen either value
(DEDUCED, log 87). -/
def Hw.setGlatch (s : Hw) (n : Nat) (v : Bool) : Hw :=
  let s1 : Hw := { s with latches := { s.latches with set := Sparse.put false s.latches.set n v } }
  if s.glatch n = v then s1
  else (s.latches.watchers.filter (fun w => w.latch == n)).foldl (fun s w =>
    s.routeRecord w.far (ctlRecord 0x04 w.far s.me 16 (latchBody n v 0 w.tag)))
    { s1 with latches := { s1.latches with watchers := s1.latches.watchers.filter (fun w => w.latch != n) } }

/-- R251, R252: a set or clear reaches a global latch: where both reach it in one cycle the set wins, but host writes take effect in the
order they arrive. -/
def Hw.changeGlatch (s : Hw) (n : Nat) (v host : Bool) : Hw :=
  let now := if s.latches.setCycle = s.boot.ticks then s.latches.setNow else []
  if v then
    let s1 := s.setGlatch n true
    { s1 with latches := { s1.latches with setCycle := s.boot.ticks, setNow := (n, host) :: now } }
  else if now.any (fun e => e.1 == n && !(host && e.2)) then s
  else s.setGlatch n false

/-- R252: a global set or clear leaves for the latch unit. -/
def Hw.sendGlatch (s : Hw) (n : Nat) (clear : Bool) : Hw :=
  { s with latches := { s.latches with ops := s.latches.ops ++ [{ latch := n, clear := clear, beat := s.beatNo, cycle := s.beat.cycle }] } }

/-- R252: the host sets or clears the selected latch. -/
def Hw.hostGlatch (s : Hw) (v : Bool) : Hw :=
  if !s.regsLive then s else s.changeGlatch (s.fget F.STRM_GLATCH_SEL_LATCH) v true

/-- R252, R41: an operation on its way reaches the latch unit and takes effect. -/
def Hw.glatchArrive (s : Hw) (i : Nat) : Hw :=
  match s.latches.ops[i]? with
  | none => s
  | some o =>
    ({ s with latches := { s.latches with ops := s.latches.ops.eraseIdx i } } : Hw).changeGlatch o.latch (!o.clear) false

/-! ### Remote latches (R253, R254) -/

/-- R253: the address of an entry of the remote latch map. -/
def Hw.rlatchAddr (s : Hw) (entry : Nat) : Nat := s.rd64 .STRM_RLATCH_BASE_LO .STRM_RLATCH_BASE_HI % (1 <<< 40) + 8 * entry

/-- R253: the remote latch map entry a stream of a job may use: far module, latch; none where it is unusable; and whether it
lies in mapped GDDR7. -/
def Hw.rlatch (s : Hw) (entry job : Nat) : Option (Nat × Nat) × Bool :=
  let a := s.rlatchAddr entry
  if s.fget F.STRM_RLATCH_COUNT_COUNT ≤ entry then (none, true)
  else if s.capacity < a + 8 then (none, false)
  else
    let v := ofBytes (s.peekRun a 8)
    let ok := bit v 36 && bits v 24 12 == job && bits v 12 12 != s.me && bits v 37 27 == 0
    (if ok then some (bits v 12 12, bits v 0 12) else none, true)

/-- R254, R519: sends a remote set or clear as a latch message with a handle of its own. -/
def Hw.sendRemote (s : Hw) (stream entry far latch job : Nat) (clear : Bool) : Hw :=
  let h := s.latches.nextTag % 65536
  let s1 : Hw := { s with latches := { s.latches with nextTag := s.latches.nextTag + 1, handles := Sparse.set s.latches.handles h (stream, entry) } }
  s1.routeRecord far (ctlRecord 0x02 far s.me 16 (latchBody latch clear job h))

/-- R254: sends, or sends again, the query of a standing remote wait. -/
def Hw.sendQuery (s : Hw) (w : RemoteWait) : Hw :=
  s.routeRecord w.far (ctlRecord 0x03 w.far s.me 16 (latchBody w.latch false w.job w.tag))

/-- R254: a remote wait comes to stand: its query leaves. -/
def Hw.openWait (s : Hw) (stream entry far latch job : Nat) (want : Bool) : Hw :=
  if s.latches.waits.any (fun w => w.stream == stream && w.entry == entry && w.want == want) then s
  else
    let w : RemoteWait :=
      { stream := stream, entry := entry, far := far, latch := latch, job := job,
        tag := s.latches.nextTag % 65536, want := want, shown := false, refused := false }
    ({ s with latches := { s.latches with nextTag := s.latches.nextTag + 1, waits := s.latches.waits ++ [w] } } : Hw).sendQuery w

/-- R361, R254: a latch set or clear record is applied. -/
def Hw.latchMessage (s : Hw) (l latch : Nat) (clear : Bool) : Hw := (s.takeRecord l 0x02).changeGlatch latch (!clear) false

/-- R254: a latch query is answered with the latch's state, and then with its next change. -/
def Hw.latchQuery (s : Hw) (l src latch tag : Nat) : Hw :=
  let s1 := s.takeRecord l 0x03
  let w : Watcher := { far := src, latch := latch, tag := tag }
  let ws := s1.latches.watchers.filter (fun x => !(x.far == src && x.tag == tag))
  ({ s1 with latches := { s1.latches with watchers := ws ++ [w] } } : Hw).routeRecord src
    (ctlRecord 0x04 src s.me 16 (latchBody latch (s.glatch latch) 0 tag))

/-- R254: a latch state record reaches the wait whose tag it carries; the first that shows the awaited value satisfies it. -/
def Hw.latchState (s : Hw) (l src latch : Nat) (value : Bool) (tag : Nat) : Hw :=
  let s1 := s.takeRecord l 0x04
  { s1 with latches := { s1.latches with waits := s1.latches.waits.map (fun w =>
      if w.far == src && w.latch == latch && w.tag == tag then { w with shown := w.shown || value == w.want } else w) } }

/-- R519: a refused latch message or query comes back: bit 31 of XFER marks a query, [15:0] its tag; otherwise the handle. -/
def Hw.latchRefused (s : Hw) (xfer : Nat) : Option Hw :=
  if bit xfer 31 then
    match s.latches.waits.find? (fun w => w.tag == bits xfer 0 16) with
    | some w =>
      some (({ s with latches := { s.latches with waits := s.latches.waits.map (fun x => if x.tag == w.tag then { x with refused := true } else x) } } : Hw).raise
        0xB061 w.stream w.entry { stream := some w.stream })
    | none => none
  else
    match Sparse.find? s.latches.handles (bits xfer 0 16) with
    | some (n, e) =>
      if bits xfer 16 16 = 0 then
        some (({ s with latches := { s.latches with handles := Sparse.erase s.latches.handles (bits xfer 0 16) } } : Hw).raise
          0xB061 n e { stream := some n })
      else none
    | none => none

/-- R519: a query that was refused is sent again at every edge window while its wait stands. -/
def Hw.resendQueries (s : Hw) : Hw :=
  (s.latches.waits.filter (fun w => w.refused && !w.shown)).foldl (fun s w => s.sendQuery w) s

def execGlatchSet (s : State) : Host.Outcome State Fault Refusal := s.onHw (fun h => h.hostGlatch true)
def execGlatchClear (s : State) : Host.Outcome State Fault Refusal := s.onHw (fun h => h.hostGlatch false)
def execGlobalLatchArrive (index : BitVec 16) (s : State) : Host.Outcome State Fault Refusal :=
  s.onHw (fun h => h.glatchArrive index.toNat)
def execLatchMessage (link : Fin 64) (src latch : BitVec 12) (clear : Bool) (job : BitVec 12) (handle : BitVec 16) (s : State) :
    Host.Outcome State Fault Refusal :=
  -- the record's origin, job and handle serve a refusal (R519) and change nothing here
  let _ := (src, job, handle)
  s.onHw (fun h => h.latchMessage link.val latch.toNat clear)
def execLatchQuery (link : Fin 64) (src latch job : BitVec 12) (tag : BitVec 16) (s : State) : Host.Outcome State Fault Refusal :=
  let _ := job
  s.onHw (fun h => h.latchQuery link.val src.toNat latch.toNat tag.toNat)
def execLatchState (link : Fin 64) (src latch : BitVec 12) (value : Bool) (tag : BitVec 16) (s : State) :
    Host.Outcome State Fault Refusal :=
  s.onHw (fun h => h.latchState link.val src.toNat latch.toNat value tag.toNat)

end Sys2Proof.Machine
end

