-- ==== Sys2Proof/Machine/Stream.lean ====
section
/-!
DEFINITION. Streams and bolts (R225 to R236), halts (R262), depth shadows (R235) and seeds (R518).
-/
namespace Sys2Proof.Machine

def Hw.tail (s : Hw) (n : Nat) : Nat := s.fget F.STRM_TAIL_COUNT n
def Hw.retired (s : Hw) (n : Nat) : Nat := s.fget F.STRM_RETIRED_COUNT n

/-- R234: the ring's depth. -/
def Hw.depth (s : Hw) (n : Nat) : Nat := (s.tail n + 0x1_0000_0000 - s.retired n) % 0x1_0000_0000

/-- R225: a ring slot's address. -/
def Hw.ringAddr (s : Hw) (n slot : Nat) : Nat :=
  s.rd64 .STRM_RING_BASE_LO .STRM_RING_BASE_HI n % (1 <<< 40) + 64 * (slot % 4096)

/-- R234, R246: k ring slots retire, as far as TAIL allows; the rest retires with later bolts (R249), but in a faulted stream nothing.  A
NOTIFY bolt whose every command has retired raises event 0xB001. -/
def Hw.retireSlots (s : Hw) (n k : Nat) : Hw :=
  let x := s.getStream n
  let want := x.debt + k
  let now := if s.flag F.STRM_STATE_FAULTED n then 0 else min want (s.depth n)
  let s1 := (s.fset F.STRM_RETIRED_COUNT ((s.retired n + now) % 0x1_0000_0000) n).setStream n { x with debt := want - now }
  let r := s1.retired n
  -- counts wrap: a bolt is done when the retired count has reached its end
  let isDone := fun (e : Nat × Nat) => (r + 0x1_0000_0000 - e.1) % 0x1_0000_0000 < 0x8000_0000
  let s2 := s1.setStream n { s1.getStream n with notify := x.notify.filter (fun e => !isDone e) }
  let s3 := if now = 0 then s2 else s2.shadowTouch n
  (x.notify.filter isDone).foldl (fun s e => s.raise 0xB001 n e.2 { stream := some n, job := some (s.fget F.STRM_JOB_JOB n) }) s3

/-! ### Bolts -/

/-- R231: a command record written to window slot i. -/
def Hw.windowSlot (s : Hw) (n i : Nat) (bs : List Byte) : Hw :=
  let x := s.getStream n
  if 4096 - s.depth n ≤ i then s.setStream n { x with discarded := x.discarded ||| (BitVec.ofNat 64 (1 <<< i)) }
  else (s.writeRun (s.ringAddr n (s.tail n + i)) bs).setStream n { x with written := x.written ||| (BitVec.ofNat 64 (1 <<< i)) }

/-- R232: the check a tie-off record fails first: its event code. -/
def Hw.tieOffCheck (s : Hw) (n : Nat) (r : Record64) : Option Nat :=
  let x := s.getStream n
  let count := bits r.toNat 0 7
  let want := (1 <<< count) - 1
  if !s.flag F.STRM_CTL_ENABLE n || s.flag F.STRM_CTL_RESET n then some 0xB007
  else if bits r.toNat 8 24 ≠ 0 || bits r.toNat 64 448 ≠ 0 || count = 0 || 64 < count then some 0xB005
  else if bits r.toNat 32 32 ≠ s.fget F.STRM_SEQ_NEXT n then some 0xB003
  else if 4096 - s.depth n < count || x.discarded.toNat &&& want ≠ 0 then some 0xB002
  else if x.written.toNat &&& want ≠ want then some 0xB004
  else none

/-- R232: a tie-off record accepts the bolt or rejects it; either way the dispatcher forgets what was written. -/
def Hw.tieOff (s : Hw) (n : Nat) (r : Record64) : Hw :=
  let seq := bits r.toNat 32 32
  let count := bits r.toNat 0 7
  let forget := fun (s : Hw) => s.setStream n { s.getStream n with written := 0, discarded := 0 }
  match s.tieOffCheck n r with
  | some code => (forget (s.bump F.STRM_BOLT_REJ_COUNT n)).raise code n seq { stream := some n }
  | none =>
    let s1 := forget s
    let t := (s.tail n + count) % 0x1_0000_0000
    let s2 := (s1.fset F.STRM_TAIL_COUNT t n).fset F.STRM_SEQ_NEXT ((seq + 1) % 0x1_0000_0000) n
    let x := s2.getStream n
    let s3 := s2.setStream n { x with notify := if bit r.toNat 7 then x.notify ++ [(t, seq)] else x.notify, shadowDirty := true }
    s3.retireSlots n 0

/-- One aligned 64-byte record of a write to a stream window (R228). -/
def Hw.windowRecord (s : Hw) (n off : Nat) (bs : List Byte) : Hw :=
  if off < 0x1000 then s.windowSlot n (off / 64) bs
  else if off = 0x1000 then s.tieOff n (BitVec.ofNat 512 (ofBytes bs))
  else s.raise 0xB006 n off { stream := some n }

/-- The 64-byte records of a run of bytes. -/
def records64 : Nat → List Byte → List (List Byte)
  | 0, _ => []
  | k + 1, bs => bs.take 64 :: records64 k (bs.drop 64)

/-- R229: a write to a window; one that covers part of a record is discarded whole.  BARE service discards it (R412). -/
def Hw.windowWrite (s : Hw) (n off : Nat) (bs : List Byte) : Hw :=
  if !s.regsLive then s
  else if off % 64 ≠ 0 || bs.length % 64 ≠ 0 then s.raise 0xB006 n off { stream := some n }
  else
    let rs := records64 (bs.length / 64) bs
    ((List.range rs.length).zip rs).foldl (fun s p => s.windowRecord n (off + 64 * p.1) p.2) s

/-- R231, R415: a poisoned write to BAR2 is discarded. -/
def execStreamWindowWrite (stream : BitVec 16) (off : BitVec 14) (data : List Byte) (poisoned : Bool) (s : State) : Host.Outcome State Fault Refusal :=
  s.onHw (fun h => if poisoned then (if h.boot.phase == Phase.live then h.poisonRx (stream.toNat * 0x4000 + off.toNat) 2 else h) else h.windowWrite stream.toNat off.toNat data)

def execTieOffRecord (stream : BitVec 16) (record : Record64) (s : State) : Host.Outcome State Fault Refusal :=
  s.onHw (fun h => if h.regsLive then h.tieOff stream.toNat record else h)

/-! ### Reset, halt -/

/-- R236 step 4: the stream's state in its home frame is zeroed, wherever that is: on a tile, in the pool, and in a copy being
staged. -/
def Hw.zeroCtx (s : Hw) (n : Nat) : Hw :=
  let f := s.fget F.STRM_FRAME_FRAME n
  if f = 0xF_FFFF then s
  else
    let s1 := s.setCtxOf n StreamCtx.reset
    { s1 with tiles := Sparse.mapVals s1.tiles (fun _ x =>
        match x.staged with
        | some (g, fs) => if g = f then { x with staged := some (g, fs.setCtx n StreamCtx.reset) } else x
        | none => x) }

/-- R236: resets a stream. -/
def Hw.streamReset (s : Hw) (n : Nat) : Hw :=
  -- 1: commands in flight are abandoned, their set selectors not applied
  let c := s.ctxOf n
  let s1 := s.setCtxOf n { c with flight := [] }
  let s2 := match s1.tileOfStream n with
    | some t =>
      let x := s1.getTile t
      let qs := Sparse.mapVals x.queues (fun _ v => if v.bind.stream == n then
        { v with fetched := [], fetchedDross := [] } else v)
      s1.setTile t { x with blocks := x.blocks.filter (fun b => b.stream != n), queues := qs }
    | none => s1
  -- 2, 3
  let s3 := [Reg.STRM_TAIL, .STRM_RETIRED, .STRM_SEQ, .STRM_ERR_TAG, .STRM_ERR_COUNT, .STRM_STATUS_ACC].foldl (fun s r => s.wr r n 0) s2
  let s4 := ((s3.fset F.STRM_STATE_HALTED 0 n).fset F.STRM_STATE_FAULTED 0 n).fset F.STRM_STATE_CAUSE 0 n
  let x := s4.getStream n
  let resident := (s4.tileOfStream n).isSome || s4.fget F.STRM_FRAME_FRAME n == 0xF_FFFF
  let s5 := s4.setStream n { StreamSt.reset with seedPending := x.seedPending, seedOld := x.seedOld, resetPending := !resident, shadowDirty := true }
  let s6 : Hw := { s5 with
    latches := { s5.latches with waits := s5.latches.waits.filter (fun w => w.stream != n) },
    lnk := { s5.lnk with xfers := s5.lnk.xfers.filter (fun e => e.2.stream != n), colls := s5.lnk.colls.filter (fun k => k.stream != n) } }
  -- 4
  if resident then (s6.zeroCtx n).fset F.STRM_CTL_RESET 0 n else s6.fset F.STRM_CTL_RESET 1 n

def execStreamReset (s : State) : Host.Outcome State Fault Refusal :=
  s.onHw (fun h => if h.regsLive then h.streamReset (h.fget F.STRM_SEL_STREAM) else h)

/-- R236: the zeroed state has reached the home frame; RESET clears. -/
def Hw.resetZeroed (s : Hw) (n : Nat) : Hw :=
  let x := s.getStream n
  if x.resetPending then ((s.zeroCtx n).setStream n { x with resetPending := false }).fset F.STRM_CTL_RESET 0 n else s

def execStreamResetZeroed (stream : BitVec 16) (s : State) : Host.Outcome State Fault Refusal :=
  s.onHw (fun h => h.resetZeroed stream.toNat)

/-- R262: ends a halt; the first HALT_NOW match after it is suppressed. -/
def Hw.streamResume (s : Hw) (n : Nat) : Hw :=
  if s.flag F.STRM_STATE_HALTED n then
    ((s.fset F.STRM_STATE_HALTED 0 n).setStream n { s.getStream n with suppress := true, step := false, stepBound := false }).shadowTouch n
  else s

def execStreamResume (s : State) : Host.Outcome State Fault Refusal :=
  s.onHw (fun h => if h.regsLive then h.streamResume (h.fget F.STRM_SEL_STREAM) else h)

/-- R262: lets a stream issue until the edge window that ends its next bound beat. -/
def Hw.streamStep (s : Hw) (n : Nat) : Hw :=
  let s1 := if s.flag F.STRM_STATE_HALTED n then (s.fset F.STRM_STATE_HALTED 0 n).shadowTouch n else s
  s1.setStream n { s1.getStream n with suppress := true, step := true, stepBound := s.flag F.STRM_STATE_BOUND n }

def execStreamStep (s : State) : Host.Outcome State Fault Refusal :=
  s.onHw (fun h => if h.regsLive then h.streamStep (h.fget F.STRM_SEL_STREAM) else h)

/-! ### Shadows and seeds -/

/-- R235: the depth shadow of a stream whose fields changed in the beat before; one that falls due while Bus Master Enable is
clear is not written and not retried (R424). -/
def Hw.depthShadow (s : Hw) (n : Nat) : Hw :=
  let x := s.getStream n
  if x.shadowDue && s.flag F.STRM_CTL_ENABLE n && s.flag F.STRM_CTL_SHADOW_EN n then
    let s1 := s.setStream n { x with shadowDue := false }
    if s.busMaster then
      s1.hostWrite (s.rd64 .STRM_SHADOW_ADDR_LO .STRM_SHADOW_ADDR_HI n)
        (toBytes 4 (s.retired n) ++ toBytes 4 (s.tail n) ++ toBytes 4 (s.rd .STRM_STATUS_ACC n).toNat ++
          toBytes 4 (bits (s.rd .STRM_STATE n).toNat 0 8 + ((s.beatNo % (1 <<< 24)) <<< 8)))
    else s1
  else s

def execDepthShadowWrite (stream : BitVec 16) (s : State) : Host.Outcome State Fault Refusal :=
  s.onHw (fun h => h.depthShadow stream.toNat)

/-- The seed that commands of a stream use now: until its edge, the old one (R518). -/
def Hw.seedOf (s : Hw) (n : Nat) : Nat :=
  if (s.getStream n).seedPending then (s.getStream n).seedOld.toNat else s.rd64 .STRM_SEED_LO .STRM_SEED_HI n

/-- R518: a write of a seed half, or of both; the seed and the zeroed counter are installed at a later edge. -/
def Hw.seedWrite (s : Hw) (n : Nat) (hi wide : Bool) (v : Nat) : Hw :=
  let x := s.getStream n
  let old : BitVec 64 := BitVec.ofNat 64 (s.seedOf n)
  let s1 := s.setStream n { x with seedPending := true, seedOld := old }
  if wide then s1.wr64 .STRM_SEED_LO .STRM_SEED_HI v n
  else if hi then s1.wr .STRM_SEED_HI n (BitVec.ofNat 32 (v % 0x1_0000_0000))
  else s1.wr .STRM_SEED_LO n (BitVec.ofNat 32 (v % 0x1_0000_0000))

def execSeedWrite (hi wide : Bool) (value : BitVec 64) (s : State) : Host.Outcome State Fault Refusal :=
  s.onHw (fun h => if h.regsLive then (h.disarm ⟨.STRM_SEED_LO, 0, 0⟩).seedWrite (h.fget F.STRM_SEL_STREAM) hi wide value.toNat else h)

/-- R518: the edge window that opens a beat in which the stream is bound installs the new seed and zeroes the counter. -/
def Hw.installSeed (s : Hw) (n : Nat) : Hw :=
  let x := s.getStream n
  if x.seedPending then
    (s.setStream n { x with seedPending := false, seedOld := 0 }).setCtxOf n { s.ctxOf n with castSeq := 0 }
  else s

end Sys2Proof.Machine
end

