-- ==== Sys2Proof/Machine/Queue.lean ====
section
/-!
DEFINITION. The queue engine (R237 to R247, R250, R253, R256, R261): a queue's head, the encodings a command must keep, the
conditions to issue, the checks at issue, completion and retirement.
-/
namespace Sys2Proof.Machine

/-! ### Operands by opcode (R239, R240) -/

/-- EW operations with an operand B, and with an operand C (R178). -/
def ewUsesB (op : Nat) : Bool := [1, 2, 3, 4, 5, 6, 7, 9].contains op
def ewUsesC (op : Nat) : Bool := op == 4

/-- R240: the operand positions OP0 to OP5, and at position 6 the reference in P1 of a backward NORM. -/
def roles (w : Record64) : List Role :=
  let acc := Com.modeBit w 4
  match Com.opcode w with
  | 0x10 => [.src, if Com.modeBit w 9 then .no else .src, if acc then .both else .dst, .posn]
  | 0x11 => [.src, .src, .src, .dst, if acc then .both else .dst]
  | 0x12 => [.src, if Com.modeBit w 9 then .no else .src, if acc then .both else .dst, .posn]
  | 0x13 => [.src, .posn]
  | 0x20 => [.src, .src, .dst]
  | 0x21 => [.src, .src, .dst]
  | 0x22 => [.src, .src, .both]
  | 0x23 => [.src, .src, .dst]
  | 0x24 => [.src, .src, .optSrc, .optSrc, .dst]
  | 0x25 => [.src, .src, .dst, .dst, if Com.modeBit w 4 then (if Com.modeBit w 6 then .src else .no) else .both]
  | 0x26 => [.src, .src, .dst, .dst, .dst, .dst]
  | 0x27 => if Com.modeBit w 4 then [.src, .src, .dst, .dst] else [.src, .dst]
  | 0x30 =>
    let op := Com.mode w 4 5
    [.dst, .src, if ewUsesB op then .val else .no, if ewUsesC op then .val else .no,
     if op = 8 && Com.mode w 13 2 ≠ 0 then .dst else .no]
  | 0x31 => [.dst, .src]
  | 0x32 =>
    -- RMS has no β and no dβ
    if Com.modeBit w 5 then [.dst, .src, .src, .optSrc, .src, .optBoth, if acc then .no else .optBoth]
    else [.dst, .src, .dst, .optSrc, if acc then .no else .optSrc]
  | 0x33 => if Com.modeBit w 5 then [.dst, .src, .src] else [.dst, .src, .optSrc, .optDst]
  | 0x34 => [.dst, .src]
  | 0x35 => [.dst, .src]
  | 0x40 => [.dst, .src]
  | 0x50 => [.src, .dst]
  | 0x51 => [.dst, .src]
  | 0x52 => [.src, .dst]
  | 0x53 => [.src, .dst]
  | 0x54 => [.src, .dst]
  | 0x60 => [.src]
  | 0x7B => [.optSrc]
  | _ => []

/-- The role of position i. -/
def roleAt (w : Record64) (i : Nat) : Role := nth Role.no (roles w) i

/-- The reference at position i: OP0 to OP5, or the one in P1 (R240, NORM). -/
def refAt (w : Record64) (i : Nat) : Nat :=
  if i < 6 then Com.op w i
  else if Com.opcode w = 0x32 && Com.modeBit w 5 then Com.param w 1 else 0

/-- R238, R239: a reference is present or absent as its role asks, of a kind the table allows, and keeps its reserved bits. -/
def refRoleOk (r : Role) (x : Nat) : Bool :=
  refOk x && match r with
  | .no => refKind x == 0
  | .src | .dst | .both => refKind x == 1
  | .optSrc | .optDst | .optBoth | .posn => refKind x == 0 || refKind x == 1
  | .val => refKind x != 0

/-- R240, R241: the bits of CTRL that a command uses above CAST. -/
def ctlMask (w : Record64) : Nat :=
  match Com.opcode w with
  | 0x10 => maskOf [4, 5, 6, 7, 8, 9]
  | 0x11 => if Com.modeBit w 13 then maskOf [4, 10, 11, 12, 13] else maskOf [4, 13]
  | 0x12 => maskOf [4, 6, 7, 8, 9, 10, 11, 12]
  | 0x13 => maskOf [7, 8]
  | 0x20 | 0x21 | 0x22 => maskOf [4]
  | 0x23 => maskOf [7, 8, 13, 14, 15]
  | 0x25 => if Com.modeBit w 4 then maskOf [4, 6, 7] else maskOf [4, 5, 7]
  | 0x26 => maskOf [4, 5]
  | 0x27 => if Com.modeBit w 4 then maskOf [4, 5, 7, 8] else maskOf [4, 7, 8]
  | 0x30 => if Com.mode w 4 5 = 8 || Com.mode w 4 5 = 9 then 0x7FF0 else 0x1F0
  | 0x31 => 0xF0
  | 0x32 => maskOf [4, 5]
  | 0x33 => if Com.modeBit w 5 then maskOf [5] else maskOf [5, 6]
  | 0x35 => 0x70
  | 0x50 | 0x51 | 0x53 => maskOf [6]
  | 0x52 | 0x54 => 0x70
  | 0x62 => maskOf [4]
  | 0x70 => 0x770
  | 0x71 => 0x70
  | 0x72 => 0x3FF0
  | 0x73 => if Com.modeBit w 7 then 0x80 else 0xF0
  | 0x74 => 0x70
  | 0x75 => maskOf [4]
  | 0x7B => maskOf [4]
  | _ => 0

def full32 : Nat := 0xFFFF_FFFF

/-- The window words in use for D dimensions (R241). -/
def windowMasks (d : Nat) : List Nat := (List.range 3).map (fun j => if j < d then 0x0FFF_FFFF else 0)

/-- R240: the bits of P0 to P6 that a command uses. -/
def paramMasks (w : Record64) : List Nat :=
  match Com.opcode w with
  | 0x10 => if Com.modeBit w 9 then [0xFFFF] else []
  | 0x11 => if Com.modeBit w 13 then windowMasks (Com.mode w 10 2) else []
  | 0x12 => windowMasks (Com.mode w 10 2) ++ (if Com.modeBit w 9 then [0xFFFF] else [])
  | 0x13 => [0xFFFF]
  | 0x20 | 0x21 | 0x22 => [0x1FF]
  | 0x25 => if Com.modeBit w 4 then (if Com.modeBit w 6 then [full32] else [full32, full32]) else []
  | 0x26 => [full32, full32, full32]
  | 0x27 => if Com.modeBit w 4 then (if Com.modeBit w 5 then [full32, full32] else [full32]) else [full32, full32, full32, full32]
  | 0x30 =>
    let op := Com.mode w 4 5
    [if op = 5 || op = 8 || op = 9 then full32 else 0, if op = 5 then full32 else 0,
     if refKind (Com.op w 2) = 3 then full32 else 0, if refKind (Com.op w 3) = 3 then full32 else 0]
  | 0x32 => if Com.modeBit w 5 then [full32, full32] else [full32]
  | 0x33 => if Com.modeBit w 5 then [] else [full32, if Com.modeBit w 6 then full32 else 0]
  | 0x52 | 0x53 | 0x54 => [0xFFF]
  | 0x60 => [0xFFF, full32, full32]
  | 0x61 => [full32, full32]
  | 0x62 => if Com.modeBit w 4 then [full32, full32, 0xF] else [full32, full32]
  | 0x70 => match Com.mode w 8 3 with
    | 0 => [full32]
    | 1 => [0x7]
    | 2 => [0xF]
    | _ => []
  | 0x71 => [full32]
  | 0x72 =>
    [if Com.mode w 10 2 = 0 then 0x7 else 0xF, match Com.mode w 12 2 with | 0 => 0x7 | 1 => 0xF | _ => full32]
  | 0x73 | 0x74 => [full32]
  | 0x75 | 0x76 => List.replicate 7 full32
  | 0x77 => [0x3F, 0xFFFF]
  | 0x7B => if refKind (Com.op w 0) = 0 then [0xF, full32] else [0xF]
  | 0x80 => [full32, full32]
  | _ => []

/-- The opcodes of the table (R240). -/
def opcodeListed (op : Nat) : Bool :=
  [0x10, 0x11, 0x12, 0x13, 0x20, 0x21, 0x22, 0x23, 0x24, 0x25, 0x26, 0x27, 0x30, 0x31, 0x32, 0x33, 0x34, 0x35, 0x40, 0x50, 0x51,
   0x52, 0x53, 0x54, 0x60, 0x61, 0x62, 0x70, 0x71, 0x72, 0x73, 0x74, 0x75, 0x76, 0x77, 0x78, 0x79, 0x7A, 0x7B, 0x80].contains op

/-- R95: the operand position of the main destination of a command that uses the cast control; APPLY's is its WORK copy. -/
def mainDest (op : Nat) : Option Nat :=
  match op with
  | 0x10 | 0x12 | 0x22 | 0x23 => some 2
  | 0x11 => some 3
  | 0x24 => some 4
  | 0x30 | 0x31 | 0x32 | 0x33 | 0x34 | 0x35 => some 0
  | 0x52 | 0x54 => some 1
  | _ => none

/-- R239 to R241, R248: the reserved values of mode fields and window words. -/
def modeOk (w : Record64) : Bool :=
  let looms := Com.mode w 7 2 != 3
  let window := fun (d : Nat) => (List.range d).all (fun j =>
    let v := Com.param w j
    let reach := (bits v 7 4 + 1) * (bits v 0 3 - 1)
    bits v 0 3 != 0 && decide (bits v 14 7 ≤ reach) && decide (bits v 21 7 ≤ reach))
  match Com.opcode w with
  | 0x10 | 0x13 => looms
  | 0x11 => if Com.modeBit w 13 then Com.mode w 10 2 != 0 && window (Com.mode w 10 2) else true
  | 0x12 => looms && Com.mode w 10 2 != 0 && window (Com.mode w 10 2)
  | 0x23 => looms && Com.mode w 13 3 ≤ 4
  | 0x26 => Com.mode w 4 2 != 3
  | 0x27 => Com.mode w 7 2 ≤ 1
  | 0x30 => Com.mode w 4 5 ≤ 13 && ((Com.mode w 4 5 != 8 && Com.mode w 4 5 != 9) || (Com.mode w 9 4 ≤ 9 && Com.mode w 13 2 != 3))
  | 0x31 => Com.mode w 4 4 ≤ 3
  | 0x35 => Com.mode w 4 3 ≤ 4
  | 0x52 | 0x54 => Com.mode w 4 2 != 3
  | 0x70 => Com.mode w 8 3 ≤ 5
  | 0x72 => Com.mode w 6 3 ≤ 5 && Com.mode w 10 2 ≤ 1 && Com.mode w 12 2 ≤ 2
  | _ => true

/-- The selectors in P0 to P6 of WAIT and SET, two to a word. -/
def paramSelectors (w : Record64) : List Nat :=
  if Com.opcode w = 0x75 || Com.opcode w = 0x76 then
    (List.range 14).map (fun i => bits (Com.param w (i / 2)) (16 * (i % 2)) 16)
  else []

/-- The selectors a command waits on, and those it applies when it completes. -/
def waitSelectors (w : Record64) : List Nat := Com.wait w :: (if Com.opcode w = 0x75 then paramSelectors w else [])
def setSelectors (w : Record64) : List Nat := Com.setsel w :: (if Com.opcode w = 0x76 then paramSelectors w else [])

/-- R14, R95, R239, R250: the encodings of a command: FORMAT where this is false. -/
def formatOk (w : Record64) : Bool :=
  let op := Com.opcode w
  opcodeListed op && Com.cls w + 1 == op / 16 && !bit w.toNat 15 &&
  (waitSelectors w).all selOk && (setSelectors w).all selOk &&
  (if (mainDest op).isSome || op == 0x60 then Com.cast w % 4 ≤ 1 && Com.cast w < 8 else Com.cast w == 0) &&
  Com.ctl w &&& (full32 - ctlMask w - 15) == 0 &&
  (List.range 7).all (fun i => refRoleOk (roleAt w i) (refAt w i)) &&
  (List.range 7).all (fun i => Com.param w i &&& (full32 - nth 0 (paramMasks w) i) == 0) && modeOk w

/-! ### Units (R115, R136, R173, R242) -/

/-- The looms of a LOOMS field. -/
def loomUse (f : Nat) : UnitUse :=
  match f with
  | 0 => .loomA
  | 1 => .loomB
  | _ => .looms

/-- The unit a command occupies until it completes. -/
def unitOf (w : Record64) : UnitUse :=
  match Com.opcode w with
  | 0x10 | 0x12 | 0x13 => loomUse (Com.mode w 7 2)
  | 0x11 => .looms
  | 0x23 | 0x27 => .shuttleLoom (Com.mode w 7 2)
  | 0x20 | 0x21 | 0x22 | 0x24 | 0x25 | 0x26 => .shuttle
  | 0x30 | 0x31 | 0x32 | 0x33 | 0x34 | 0x35 => .finisher
  | 0x40 => .move
  | 0x50 | 0x51 | 0x52 | 0x53 | 0x54 => .link
  | 0x60 => .update
  | _ => .none

/-- R273: the unit a command occupies, with the loom that an APPLY of rule P or with a sketch also needs. -/
def Hw.unitNeed (s : Hw) (w : Record64) : UnitUse :=
  if Com.opcode w = 0x60 && s.applyLoom w then .updateLoom else unitOf w

/-- R242: the parts of a unit are free. -/
def Hw.partsFree (s : Hw) (t : Nat) (u : UnitUse) : Bool := u.parts.all (fun p => (s.busyPart t p).isNone)

/-- R242: the command's unit is free. -/
def Hw.unitFree (s : Hw) (t : Nat) (w : Record64) : Bool := s.partsFree t (s.unitNeed w)

/-! ### A queue's head -/

/-- A command at the head of a queue. -/
structure Head where
  n : Nat
  ctx : StreamCtx
  w : Record64
  dross : Bool
  deriving DecidableEq, Repr

/-- R59: the queue's own partition is resident. -/
def Hw.partitionIn (s : Hw) (t : Nat) (b : Binding) : Bool :=
  b.psize == 0 || (s.getPhys (s.physOf t)).resident.any (fun r =>
    r.stream == b.stream && r.pbase == b.pbase && r.psize == b.psize && r.filled)

/-- The first cycle of the edge window (R37). -/
def Hw.windowEnd (s : Hw) : Int := (s.beatLen : Int) - 1024 + s.trim

/-- R49: the cycle lies in the issue window and within the queue's budget. -/
def Hw.inBudget (s : Hw) (b : Binding) : Bool :=
  decide ((s.beat.cycle : Int) < s.windowEnd) && (b.budget == 0 || decide (s.beat.cycle < b.budget * 64))

/-- R483: the current cycle is open on tile t: power duty does not close it. -/
def Hw.dutyOpen (s : Hw) (t : Nat) : Bool := decide ((s.beat.cycle + (256 - t * 97 % 256)) % 256 < s.fget F.PWR_STATUS_DUTY)

/-- R242, R323: the stream may issue: enabled, no reset pending, neither halted nor faulted, and the module has not drained itself. -/
def Hw.mayIssue (s : Hw) (n : Nat) : Bool :=
  !s.flag F.FLT_STATUS_DRAINED && s.flag F.STRM_CTL_ENABLE n && !s.flag F.STRM_CTL_RESET n && !s.flag F.STRM_STATE_HALTED n && !s.flag F.STRM_STATE_FAULTED n

/-- R319: a tile under observation runs its observation assay in the first 2,048 cycles of a beat. -/
def Hw.observing (s : Hw) (t : Nat) : Bool :=
  let x := s.getPhys (s.physOf t)
  x.observed && x.obsLeft != 0 && decide (x.obsLeft ≤ s.fget F.FLT_OBS_BEATS) && decide (s.beat.cycle < 2048)

/-- R49, R59, R62, R319: the queue's slot runs: its stream's work in flight proceeds, and goes on where it was suspended. -/
def Hw.slotRuns (s : Hw) (t q : Nat) : Bool :=
  let x := s.getTile t
  let v := x.queue q
  s.running && !s.beat.joining && !x.idle && v.bound && !v.spent && s.inBudget v.bind && s.partitionIn t v.bind && !s.observing t

/-- The head of a queue that may issue in this cycle as far as stream, budget and partition go (R242). -/
def Hw.head (s : Hw) (t q : Nat) : Option Head :=
  let x := s.getTile t
  let v := x.queue q
  let n := v.bind.stream
  if s.slotRuns t q && !v.yielded && s.mayIssue n then
    match v.fetched with
    | [] => none
    | w :: _ => some { n := n, ctx := x.fs.ctx n, w := w, dross := v.fetchedDross.headD false }
  else none

/-! ### Waits (R250, R254) -/

/-- R251: the tile latches as a queue sees them in this cycle: a change is seen from the next cycle on. -/
def Hw.latchesSeen (s : Hw) (t : Nat) : BitVec 64 :=
  match (s.getTile t).latchCycle with
  | some (c, was, _) => if c = s.boot.ticks then was else (s.getTile t).fs.latches
  | none => (s.getTile t).fs.latches

/-- R250, R253: one selector is satisfied; a reserved encoding and an unusable remote entry let the command issue and fail. -/
def Hw.selDone (s : Hw) (t n x : Nat) : Bool :=
  if !selOk x then true
  else
    let want := !selClear x
    match selScope x with
    | 0 => true
    | 1 => bit (s.latchesSeen t).toNat (selLatch x) == want
    | 2 => s.glatch (selLatch x) == want
    | _ =>
      match (s.rlatch (selLatch x) (s.fget F.STRM_JOB_JOB n)).1 with
      | none => true
      | some _ => s.latches.waits.any (fun w => w.stream == n && w.entry == selLatch x && w.want == want && w.shown)

/-- R250: the command's wait is satisfied: its wait selector, and for WAIT all of its selectors, or with ANY any one. -/
def Hw.waitDone (s : Hw) (t n : Nat) (w : Record64) : Bool :=
  if Com.opcode w = 0x75 && Com.modeBit w 4 then
    let named := (waitSelectors w).filter (fun x => x != 0)
    named.isEmpty || named.any (s.selDone t n)
  else (waitSelectors w).all (s.selDone t n)

/-- R254: the remote waits of a head that waits: their queries leave. -/
def Hw.openWaits (s : Hw) (t n : Nat) (w : Record64) : Hw :=
  ((waitSelectors w).filter (fun x => selScope x == 3 && selOk x && !(s.selDone t n x))).foldl (fun s x =>
    match (s.rlatch (selLatch x) (s.fget F.STRM_JOB_JOB n)).1 with
    | some (m, l) => s.openWait n (selLatch x) m l (s.fget F.STRM_JOB_JOB n) (!selClear x)
    | none => s) s

/-! ### Hazards (R216, R247) -/

/-- Scalar slots a command reads. -/
def slotsRead (w : Record64) : List Nat :=
  match Com.opcode w with
  | 0x30 => [2, 3].filterMap (fun i => if refKind (Com.op w i) = 2 then some (Com.op w i % 16) else none)
  | 0x70 => if Com.mode w 8 3 = 2 then [Com.param w 0 % 16] else []
  | 0x72 => (if Com.mode w 10 2 = 1 then [Com.param w 0 % 16] else []) ++ (if Com.mode w 12 2 = 1 then [Com.param w 1 % 16] else [])
  | _ => []

/-- The scalar slot a command writes when it completes. -/
def slotWritten (w : Record64) : Option Nat :=
  match Com.opcode w with
  | 0x7B => some (Com.param w 0 % 16)
  | 0x62 => if Com.modeBit w 4 then some (Com.param w 2 % 16) else none
  | _ => none

def isDst : Role → Bool
  | .dst | .both | .optDst | .optBoth => true
  | _ => false
def isSrc : Role → Bool
  | .src | .both | .optSrc | .optBoth | .val | .posn => true
  | _ => false

/-- R214: the descriptors a command names, by position. -/
def Hw.takeOps (s : Hw) (t : Nat) (c : StreamCtx) (w : Record64) : List (Option Opnd) :=
  (List.range 7).map (fun i => if roleAt w i != .no && refKind (refAt w i) == 1 then some (s.takeOpnd t (refDesc c (refAt w i))) else none)

/-- R216: the ranges of the operands whose role passes a test, far modules' among them. -/
def rangesOf (w : Record64) (ops : List (Option Opnd)) (lay : List (Nat × Role × Opnd)) (p : Role → Bool) : List (Nat × Nat) :=
  (List.range 7).flatMap (fun i => match nth none ops i with
    | some o => if p (roleAt w i) && Desc.valid o.img then o.keyed.ranges else []
    | none => []) ++
  lay.flatMap (fun e => if p e.2.1 && Desc.valid e.2.2.img then e.2.2.keyed.ranges else [])

/-- Whether two lists of ranges share a byte. -/
def rangesMeet (a b : List (Nat × Nat)) : Bool := a.any (fun x => b.any (overlaps x))

/-- R216: no earlier command of the stream that has not completed shares a range. -/
def rangesClear (c : StreamCtx) (w : Record64) (ops : List (Option Opnd)) (lay : List (Nat × Role × Opnd)) : Bool :=
  let dst := rangesOf w ops lay isDst
  let all := dst ++ rangesOf w ops lay isSrc
  (c.flight.filter (fun f => f.stage != Stage.completed)).all (fun f => !rangesMeet all f.dests && !rangesMeet dst f.srcs)

/-- R247: no earlier command that writes a slot this one reads is outstanding. -/
def slotsClear (c : StreamCtx) (w : Record64) : Bool :=
  (c.flight.filter (fun f => f.stage != Stage.completed)).all (fun f => match slotWritten f.cmd with
    | some k => !(slotsRead w).contains k
    | none => true)

/-- R242, R248: F = 1 and FENCE wait for every earlier command. -/
def fenceClear (c : StreamCtx) (w : Record64) : Bool :=
  !Com.fence w || c.flight.all (fun f => f.stage == Stage.completed)

/-- Commands of a queue issued and not complete. -/
def Hw.outstanding (s : Hw) (t q : Nat) : Nat := ((s.liveOn t).filter (fun f => f.queue == q && f.tile == t)).length

/-- R282: a write APPLY whose step is not decided waits at the head of its queue. -/
def Hw.writeWaits (s : Hw) (w : Record64) : Bool :=
  Com.opcode w == 0x60 && formatOk w && s.writeApply w && (s.getLayer (applyLayer w)).pending

/-- R64: the first command of a queue's stream that was abandoned, in the slot in which it is issued whole again. -/
def Hw.again (s : Hw) (t q : Nat) : Option (Nat × InFlight) :=
  if s.slotRuns t q then
    let n := (s.getQueue t q).bind.stream
    ((s.ctxOn t n).flight.find? (fun f => f.stage == Stage.again && f.queue == q)).map (fun f => (n, f))
  else none

/-- R242: why a head cannot issue but for its unit (the WHY codes of R264), or 1. -/
def Hw.claimWhy (s : Hw) (t q : Nat) (h : Head) (ops : List (Option Opnd)) : Nat :=
  if !s.waitDone t h.n h.w then 2
  else if !fenceClear h.ctx h.w || !rangesClear h.ctx h.w ops (s.layOps t h.w) || !slotsClear h.ctx h.w || 16 ≤ s.outstanding t q ||
      (s.again t q).isSome || s.writeWaits h.w then 4
  else 1

/-- The descriptors of a head, as far as its encodings are sound. -/
def Hw.opsOf (s : Hw) (t : Nat) (h : Head) : List (Option Opnd) := if formatOk h.w then s.takeOps t h.ctx h.w else []

/-- R115, R136, R173, R242: the unit that a queue asks for in this cycle: an abandoned command's, or its head's where nothing else
holds it. -/
def Hw.claim (s : Hw) (t q : Nat) : UnitUse :=
  match s.again t q with
  | some f => f.2.unit
  | none =>
    match s.head t q with
    | some h => if !h.dross && formatOk h.w && s.claimWhy t q h (s.opsOf t h) == 1 then s.unitNeed h.w else .none
    | none => .none

/-- R115, R136, R173, R242: the parts that the queues below q take in this cycle: the lowest queue number wins a part that is free. -/
def Hw.takenBelow (s : Hw) (t q : Nat) : List Nat :=
  (List.range q).foldl (fun l k =>
    let u := s.claim t k
    if s.partsFree t u && u.parts.all (fun p => !l.contains p) then l ++ u.parts else l) []

/-- R242: the unit is free, and no lower queue of the tile takes it in this cycle. -/
def Hw.unitWon (s : Hw) (t q : Nat) (u : UnitUse) : Bool :=
  s.partsFree t u && u.parts.all (fun p => !(s.takenBelow t q).contains p)

/-- R242: why a head cannot issue (the WHY codes of R264), or 1. -/
def Hw.issueWhy (s : Hw) (t q : Nat) (h : Head) (ops : List (Option Opnd)) : Nat :=
  let why := s.claimWhy t q h ops
  if why ≠ 1 then why else if !s.unitWon t q (s.unitNeed h.w) then 3 else 1

/-! ### Breakpoints (R261, R262, R510) -/

/-- R261: unit k matches the command. -/
def Hw.bpMatch (s : Hw) (k : Nat) (h : Head) : Bool :=
  s.flag F.DBG_BP_CTL_EN k && s.fget F.DBG_BP_CTL_STREAM k == h.n &&
  (if s.flag F.DBG_BP_CTL_ON_COUNT k then s.fget F.DBG_BP_COUNT_ISSUED k == h.ctx.issued.toNat
   else (Com.tag h.w ^^^ s.fget F.DBG_BP_TAG_TAG k) &&& s.fget F.DBG_BP_TAG_MASK k == 0)

/-- R261, R510: a unit that matches sets HIT, raises event 0xB050 and halts its stream now or at the edge. -/
def Hw.bpHit (s : Hw) (k : Nat) (h : Head) : Hw :=
  let s0 := if s.flag F.DBG_TRACE_CTL_START_BP && s.flag F.DBG_TRACE_CTL_EN && !s.flag F.DBG_TRACE_CTL_FULL then s.fset F.DBG_TRACE_CTL_RUNNING 1 else s
  let s1 := (s0.fset F.DBG_BP_CTL_HIT 1 k).raise 0xB050 (pack2 k h.n) (Com.tag h.w) { stream := some h.n }
  let s2 := if s1.flag F.DBG_TRACE_CTL_STOP_BP then s1.fset F.DBG_TRACE_CTL_RUNNING 0 else s1
  if s2.fget F.DBG_BP_CTL_ACTION k = 0 then (s2.fset F.STRM_STATE_HALTED 1 h.n).shadowTouch h.n
  else s2.setStream h.n { s2.getStream h.n with haltEdge := true }

/-- R261, R262: tests the command; answers whether it is halted unissued.  The first HALT_NOW match after a RESUME or STEP is
suppressed. -/
def Hw.breakpoints (s : Hw) (h : Head) : Hw × Bool :=
  let sup := (s.getStream h.n).suppress
  let hits := (List.range 8).filter (fun k => s.bpMatch k h && !(sup && s.fget F.DBG_BP_CTL_ACTION k == 0))
  let s1 := hits.foldl (fun s k => s.bpHit k h) s
  (s1.setStream h.n { s1.getStream h.n with suppress := false }, hits.any (fun k => s.fget F.DBG_BP_CTL_ACTION k == 0))

/-! ### Issue -/

/-- A command as it issues: tile, queue, stream, issue number, the stream's context before it, the record, its descriptors, how
it writes, its ring slots, its remote map entries. -/
structure Cmd where
  t : Nat
  q : Nat
  n : Nat
  num : Nat
  c : StreamCtx
  w : Record64
  ops : List (Option Opnd)
  /-- An APPLY's: the descriptors of its layer entry, by word. -/
  lay : List (Nat × Role × Opnd)
  wr : Writer
  slots : Nat
  remotes : List (Nat × Nat × Nat)
  latched : Nat
  /-- Slots in which it has been abandoned (R64). -/
  abandons : Nat

namespace Cmd
/-- The descriptor at a position; an absent one reads as an invalid record. -/
def o (x : Cmd) (i : Nat) : Opnd :=
  (nth none x.ops i).getD { id := 0, img := 0, addr := 0, far := none, scale := 0, scaleAddr := 0 }
def has (x : Cmd) (i : Nat) : Bool := (nth none x.ops i).isSome
end Cmd

/-- The job of a stream. -/
def Hw.jobOf (s : Hw) (n : Nat) : Nat := s.fget F.STRM_JOB_JOB n

/-- The next position in line. -/
def Pos.next : Pos → Pos
  | .ring k => .ring ((k + 1) % 0x1_0000_0000)
  | .slot k r i => .slot k r (i + 1)

/-- Changes the queue's stream's position and drops what was fetched for the old one. -/
def Hw.jump (s : Hw) (t q n : Nat) (p : Pos) : Hw :=
  let s1 := s.setCtxOn t n { s.ctxOn t n with pos := p }
  s1.modQueue t q (fun v => { v with fetched := [], fetchedDross := [] })

/-- R261: the command leaves the head: the issue count, the position, the cast sequence number, the trace. -/
def Hw.leaveHead (s : Hw) (t q : Nat) (h : Head) : Hw :=
  let c := s.ctxOn t h.n
  let s1 := s.setCtxOn t h.n { c with
    issued := c.issued + 1, pos := c.pos.next,
    castSeq := if Com.stoch h.w then (c.castSeq + 1) % 0x1_0000_0000 else c.castSeq }
  let s2 := s1.modQueue t q (fun v => { v with fetched := v.fetched.drop 1, fetchedDross := v.fetchedDross.drop 1, why := 1 })
  let s4 : Hw := { s2 with latches := { s2.latches with waits := s2.latches.waits.filter (fun w => w.stream != h.n) } }
  let s5 := s4.setStream h.n { s4.getStream h.n with waitBeats := 0 }
  ((s5.traceCmd 3 t q h.n (Com.tag h.w) (Com.opcode h.w + (Com.cls h.w <<< 8))).pcEvent 5 t h.n 1).opportunity 0 t t h.n

/-- The flight entry of a command. -/
def Cmd.entry (x : Cmd) (beat : Nat) (stage : Stage) (unit : UnitUse) : InFlight :=
  { num := x.num, cmd := x.w, tile := x.t, queue := x.q, slots := x.slots, stage := stage, unit := unit, ops := x.ops,
    dests := rangesOf x.w x.ops x.lay isDst, srcs := rangesOf x.w x.ops x.lay isSrc, seq := x.wr.seq, seed := x.wr.seed,
    latched := x.latched, acc := 0, held := [], waits := [], added := [], remotes := x.remotes, abandons := x.abandons, fin := none, blocks := [],
    beat := beat }

/-- The command of a flight entry, to run it or its blocks again. -/
def InFlight.toCmd (f : InFlight) (n : Nat) (c : StreamCtx) : Cmd :=
  { t := f.tile, q := f.queue, n := n, num := f.num, c := c, w := f.cmd, ops := f.ops, lay := [],
    wr := { stoch := Com.stoch f.cmd, sat := Com.sat f.cmd, seq := f.seq, seed := f.seed }, slots := f.slots,
    remotes := f.remotes, latched := f.latched, abandons := f.abandons }

/-- Puts a command in flight, in issue order, unless its stream has faulted meanwhile. -/
def Hw.fly (s : Hw) (x : Cmd) (stage : Stage) (unit : UnitUse) : Hw :=
  if s.flag F.STRM_STATE_FAULTED x.n then s
  else
    let c := s.ctxOn x.t x.n
    let before := c.flight.takeWhile (fun f => decide ((x.num + 0x1_0000_0000 - f.num) % 0x1_0000_0000 < 0x8000_0000))
    s.setCtxOn x.t x.n { c with flight := before ++ x.entry s.beatNo stage unit :: c.flight.drop before.length }

/-- Changes one flight entry of a stream. -/
def Hw.modFlight (s : Hw) (n num : Nat) (f : InFlight → InFlight) : Hw :=
  let c := s.ctxOf n
  s.setCtxOf n { c with flight := c.flight.map (fun e => if e.num = num then f e else e) }

/-! ### Checks at issue (R95, R214, R215, R218, R219, R253) -/

/-- The remote selectors of a command. -/
def remoteSels (w : Record64) : List Nat := (waitSelectors w ++ setSelectors w).filter (fun x => selScope x == 3)

/-- R520: the descriptor table entries of identifiers are read; one beyond mapped GDDR7 raises event 0x5051. -/
def Hw.readTable (s : Hw) (ids : List Nat) : Hw :=
  match List.find? (fun i => i < s.tableCap && decide (s.capacity < s.tableBase + 64 * i + 64)) ids with
  | some i => s.raiseOnce 0x5051 0 (s.tableBase + 64 * i) ((s.tableBase + 64 * i) >>> 32)
  | none => s

/-- R214, R253, R305: the queue engine takes in the structures that a command names, the descriptor table entries first and then
the remote latch map entries, as far as the first that is dross, and answers that one's atom. -/
def Hw.takeNamed (s : Hw) (t : Nat) (h : Head) : Hw × Option Nat :=
  let ids := (s.takeOps t h.ctx h.w).flatMap (fun o => match o with
    | some o => o.id :: (if o.scaled then [Desc.scaleDesc o.img] else [])
    | none => [])
  let descs := (ids.filter (fun i => i < s.tableCap)).map (fun i => (s.tableBase + 64 * i, 64))
  let maps := ((remoteSels h.w).filter (fun x => selLatch x < s.fget F.STRM_RLATCH_COUNT_COUNT)).map (fun x => (s.rlatchAddr (selLatch x), 8))
  (descs ++ maps).foldl (fun (r : Hw × Option Nat) e => if r.2.isSome then r else r.1.takeIn e.1 e.2) (s.readTable ids, none)

/-- R143, R214: where a compressed-row or 2:4 descriptor may be named: compressed-row as a destination of the commands whose outputs are
whole panels: MM, MM2, CONV, GATHER, SPMM, MERGE, MOVE and the collectives. -/
def layoutOk (w : Record64) (i : Nat) (o : Opnd) : Bool :=
  let op := Com.opcode w
  if o.crow then
    (op == 0x23 && i == 0) || op == 0x50 || op == 0x51 ||
    (isDst (roleAt w i) && [0x10, 0x11, 0x12, 0x20, 0x23, 0x24, 0x40, 0x52, 0x53, 0x54].contains op)
  else if o.sp24 then (op == 0x10 && i == 1) || (op == 0x12 && i == 1) || (op == 0x13 && i == 0)
  else true

/-- R95: ROUND = stochastic is allowed for the main destination's format. -/
def castOk (x : Cmd) : Bool :=
  match mainDest (Com.opcode x.w) with
  | some i => !Com.stoch x.w || (3 ≤ (x.o i).fmt && (x.o i).fmt ≤ 9)
  | none => true

/-- The operands of a command with their positions. -/
def Cmd.named (x : Cmd) : List (Nat × Opnd) :=
  (List.range 7).filterMap (fun i => (nth none x.ops i).map (fun o => (i, o)))

/-- The checks that every command passes before its unit's own: the status, and the state with the events they raise. -/
def Hw.commonChecks (s : Hw) (x : Cmd) : Hw × Nat :=
  let who : Who := { kind := 1, unit := x.t, stream := some x.n, job := some (s.jobOf x.n) }
  if !formatOk x.w then (s, St.format)
  else
    match (remoteSels x.w).find? (fun v => ((s.rlatch (selLatch v) (s.jobOf x.n)).1).isNone) with
    | some v =>
      let r := s.rlatch (selLatch v) (s.jobOf x.n)
      let a := s.rlatchAddr (selLatch v)
      let s1 := if r.2 then s else s.raiseOnce 0x5051 0 a (a >>> 32)
      (s1.raise 0xB060 x.n (selLatch v) who, St.param)
    | none =>
      let badDesc := x.named.findSome? (fun p =>
        if !Desc.valid p.2.img then some p.2.id
        else if p.2.scaled && !Desc.valid p.2.scale then some (Desc.scaleDesc p.2.img) else none)
      match badDesc with
      | some d => (s.raise 0xC051 x.n d who, St.desc)
      | none =>
        match x.named.find? (fun p => Desc.job p.2.img != s.jobOf x.n) with
        | some p => (s.raise 0xC052 x.n p.2.id who, St.job)
        | none =>
          if x.named.any (fun p => !layoutOk x.w p.1 p.2) || !castOk x then (s, St.format)
          else if x.named.any (fun p => s.inRemote p.2 && !((Com.opcode x.w == 0x50 || Com.opcode x.w == 0x51) && p.1 == 1)) then (s, St.range)
          else if x.named.any (fun p => p.2.localRanges.any (fun r => !s.reachable x.n r)) then (s, St.range)
          else if x.named.any (fun p => isDst (roleAt x.w p.1) && !p.2.crow && !p.2.distinct) then (s, St.shape)
          else (s, St.ok)

/-- The command at a head, ready to issue. -/
def Hw.cmdOf (s : Hw) (t q : Nat) (h : Head) : Cmd :=
  let job := s.jobOf h.n
  { t := t, q := q, n := h.n, num := h.ctx.issued.toNat, c := h.ctx, w := h.w,
    ops := if formatOk h.w then s.takeOps t h.ctx h.w else [], lay := if formatOk h.w then s.layOps t h.w else [],
    wr := { stoch := Com.stoch h.w, sat := Com.sat h.w, seq := h.ctx.castSeq, seed := s.seedOf h.n },
    slots := match h.ctx.pos with | .ring _ => 1 | .slot _ _ _ => 0,
    remotes := (remoteSels h.w).filterMap (fun v => (s.rlatch (selLatch v) job).1.map (fun m => (selLatch v, m.1, m.2))),
    latched := (s.rd .SHTL_PATH_THR t).toNat + ((s.rd .SHTL_SPLIT_THR t).toNat <<< 32), abandons := 0 }

/-- R64: an abandoned command is issued whole again, once its unit is free, with the copies of its descriptors (R214) and the number, sequence
number and seed of its first issue. DEDUCED, log 69. -/
def Hw.issueAgain (s : Hw) (t q n : Nat) (f : InFlight) (body : Hw → Cmd → Nat → Hw) : Hw :=
  if !s.unitWon t q f.unit then s.modQueue t q (fun v => { v with why := 3 })
  else
    let c := s.ctxOn t n
    let s1 := (s.setCtxOn t n { c with flight := c.flight.filter (fun e => e.num != f.num) }).modQueue t q (fun v => { v with why := 1 })
    body s1 (f.toCmd n c) 0

/-- R305: the queue engine consumes a dross command at a position of a stream.  One of a routine slot has no device address, and event 0x4001
gives a free one (DESIGN CHOICE, log 92). -/
def Hw.consumeCommand (s : Hw) (t n : Nat) (p : Pos) : Hw :=
  match p with
  | .ring k => s.consumeDross n (s.ringAddr n k / 128 * 128) 5 t
  | .slot _ _ _ => ({ s with free := s.free + 1 } : Hw).consumeDross n ((Config.freeWord s.free).toNat % (1 <<< 40)) 5 t

/-- R242, R261, R305, R483: the head of the queue issues if it is a command of the opcode given and may issue, in a cycle that is open on
the tile: its meaning is given the state after the common checks and their status. DEDUCED, log 9. -/
def Hw.issue (s : Hw) (t q : Nat) (sel : Record64 → Bool) (body : Hw → Cmd → Nat → Hw) : Hw :=
  match s.again t q with
  | some f => if !sel f.2.cmd || !s.dutyOpen t then s else s.issueAgain t q f.1 f.2 body
  | none =>
  match s.head t q with
  | none => s
  | some h =>
    if !sel h.w || !s.dutyOpen t then s
    else if h.dross then s.consumeCommand t h.n h.ctx.pos
    else
      let why := s.issueWhy t q h (s.opsOf t h)
      if why ≠ 1 then (s.openWaits t h.n h.w).modQueue t q (fun v => { v with why := why })
      else
        let b := s.breakpoints h
        if b.2 then b.1
        else
          let d := b.1.takeNamed t h
          match d.2 with
          | some a => d.1.consumeDross h.n a 5 t
          | none =>
            let x := d.1.cmdOf t q h
            let r := (d.1.leaveHead t q h).commonChecks x
            body r.1 x r.2

/-! ### Completion and retirement (R243 to R246, R234) -/

/-- Changes the set that holds a stream's home frame: resident or saved. -/
def Hw.modSet (s : Hw) (n : Nat) (f : FrameState → FrameState) : Hw :=
  match s.tileOfStream n with
  | some t => s.modTile t (fun x => { x with fs := f x.fs })
  | none => let k := s.fget F.STRM_FRAME_FRAME n; s.setFrame k (f (s.getFrame k))

/-- R251: sets or clears a tile latch of a stream's set: of a set and a clear in one cycle, from any of its queues, the set wins. -/
def Hw.changeLatch (s : Hw) (n latch : Nat) (clear : Bool) : Hw :=
  let put := fun (l : BitVec 64) => BitVec.ofNat 64 (setBits l.toNat latch 1 (if clear then 0 else 1))
  match s.tileOfStream n with
  | some t => s.modTile t (fun x =>
    let c := match x.latchCycle with
      | some (k, was, sets) => if k = s.boot.ticks then (was, sets) else (x.fs.latches, 0)
      | none => (x.fs.latches, 0)
    if clear && bit c.2.toNat latch then x
    else { x with fs := { x.fs with latches := put x.fs.latches }, latchCycle := some (s.boot.ticks, c.1, if clear then c.2 else put c.2) })
  | none => s.modSet n (fun fs => { fs with latches := put fs.latches })

/-- R250, R251: applies one set selector of a command. -/
def Hw.applySel (s : Hw) (n : Nat) (remotes : List (Nat × Nat × Nat)) (x : Nat) : Hw :=
  match selScope x with
  | 1 => s.changeLatch n (selLatch x) (selClear x)
  | 2 => s.sendGlatch (selLatch x) (selClear x)
  | 3 =>
    match remotes.find? (fun r => r.1 == selLatch x) with
    | some (e, m, l) => s.sendRemote n e m l (s.jobOf n) (selClear x)
    | none => s
  | _ => s

/-- R251: applies a command's set selectors: where a set and a clear meet in one command, the set wins. -/
def Hw.applySets (s : Hw) (n : Nat) (remotes : List (Nat × Nat × Nat)) (w : Record64) : Hw :=
  let xs := (setSelectors w).filter selOk
  (xs.filter selClear ++ xs.filter (fun x => !selClear x)).foldl (fun s x => s.applySel n remotes x) s

/-- R234: the leading completed commands of a stream retire. -/
def Hw.retire (s : Hw) (n : Nat) : Hw :=
  let c := s.ctxOf n
  let donePart := c.flight.takeWhile (fun f => f.stage == Stage.completed)
  let k := donePart.foldl (fun a f => a + f.slots) 0
  let s1 := s.setCtxOf n { c with flight := c.flight.drop donePart.length }
  if k = 0 then s1 else s1.retireSlots n k

/-- R244 to R246: a command of a stream completes with a status. -/
def Hw.complete (s : Hw) (n : Nat) (f : InFlight) (st : Nat) : Hw :=
  let s1 := (s.accStatus n f.num (Com.tag f.cmd) st).traceCmd 4 f.tile f.queue n (Com.tag f.cmd) st
  let bad := statusCode st ≠ 0 && statusCode st ≠ 4
  if bad && s.flag F.STRM_CTL_ERR_FAULT n then (s1.modFlight n f.num (fun e => { e with stage := .completed })).faultStream n 4
  else
    let s2 := (s1.modFlight n f.num (fun e => { e with stage := .completed })).applySets n f.remotes f.cmd
    s2.retire n

/-- A control or debug command: it completes in the cycle it issues. -/
def Hw.completeNow (s : Hw) (x : Cmd) (st : Nat) : Hw :=
  let s1 := s.fly x .running .none
  if s1.flag F.STRM_STATE_FAULTED x.n then s1 else s1.complete x.n (x.entry s1.beatNo .running .none) st

/-- A command whose effect is made: it waits for COMMAND_COMPLETE with its final status. -/
def Hw.done (s : Hw) (x : Cmd) (st : Nat) : Hw := s.fly x (.done st) (s.unitNeed x.w)

/-- A command that is not executed: it takes no unit, and waits for COMMAND_COMPLETE with its final status (R243). -/
def Hw.turned (s : Hw) (x : Cmd) (st : Nat) : Hw := s.fly x (.done st) .none

/-- R136: the Shuttle commands that use the merge buffer. -/
def usesMerge (op : Nat) : Bool := [0x22, 0x23, 0x24, 0x25, 0x26, 0x27].contains op

/-- R63: the carry areas that a command needs and its binding lacks: a loom command needs CL, a Shuttle command that uses the
merge buffer needs CS. -/
def Hw.carryMissing (s : Hw) (x : Cmd) : Bool :=
  let b := (s.getQueue x.t x.q).bind
  (Com.cls x.w == 0 && !b.cl) || (usesMerge (Com.opcode x.w) && !b.cs)

/-- A unit's command: its own checks (0 where they pass), then its effect. -/
def Hw.unitRun (s : Hw) (t q op : Nat) (check : Hw → Cmd → Nat) (run : Hw → Cmd → Hw) : Hw :=
  s.issue t q (fun w => Com.opcode w == op) (fun s x st =>
    if st ≠ 0 then s.turned x st
    else if s.carryMissing x then
      (s.raise 0x1015 x.n (Com.opcode x.w) { kind := 1, unit := x.t, stream := some x.n, job := some (s.jobOf x.n) }).turned x St.carry
    else
      let c := check s x
      if c ≠ 0 then s.turned x c else run s x)

/-- A unit's command whose effect is made at issue, with the status of the result. -/
def Hw.unitCommand (s : Hw) (t q op : Nat) (check : Hw → Cmd → Nat) (run : Hw → Cmd → Hw × Nat) : Hw :=
  s.unitRun t q op check (fun s x => let r := run s x; r.1.done x r.2)

/-- The bytes a unit takes in for a command: every operand it reads. -/
def Cmd.sourceSpans (x : Cmd) : List Span :=
  x.named.flatMap (fun p => if isSrc (roleAt x.w p.1) then p.2.spans else [])

/-- R301, R305: a command's unit takes in spans; where an atom is dross the job is aborted and the command's effect does not
happen. -/
def Hw.consuming (s : Hw) (x : Cmd) (kind : Nat) (spans : List Span) (run : Hw → Hw × Nat) : Hw × Nat :=
  let r := s.consumeBy spans
  match r.2 with
  | some a => (r.1.consumeDross x.n a kind x.t, 0)
  | none => run r.1

/-- The flight entry of a number on a queue of a tile, with its stream: in the resident set, or in a saved one (R65). -/
def Hw.findFlight (s : Hw) (t q num : Nat) : Option (Nat × InFlight) :=
  let look := fun (fs : FrameState) => fs.ctxs.findSome? (fun e =>
    (e.2.flight.find? (fun f => f.tile == t && f.queue == q && f.num == num)).map (fun f => (e.1, f)))
  match look (s.getTile t).fs with
  | some r => some r
  | none => s.frames.findSome? (fun e => look e.2)

/-! ### Fetch (R242, R257, R260, R305) -/

/-- R257: a command of a routine store slot. -/
def Phys.rtnWord (p : Phys) (slot i : Nat) : Record64 := Sparse.get 0 p.rtn (slot * 16 + i)

/-- R225, R227, R520: the commands the ring holds from a count on, at most k. -/
def Hw.ringWords (s : Hw) (n cnt : Nat) : Nat → Hw × List (Record64 × Bool)
  | 0 => (s, [])
  | k + 1 =>
    if (s.tail n + 0x1_0000_0000 - cnt) % 0x1_0000_0000 = 0 || 0x1000 < (s.tail n + 0x1_0000_0000 - cnt) % 0x1_0000_0000 then (s, [])
    else
      let a := s.ringAddr n cnt
      let f := s.fetchGddr a 64
      let w : Record64 := BitVec.ofNat 512 (ofBytes (if f.2.2.isSome then List.replicate 64 0 else f.2.1))
      let d := if f.2.2.isSome then (f.1, none) else f.1.takeIn a 64
      let r := d.1.ringWords n ((cnt + 1) % 0x1_0000_0000) k
      (r.1, (w, d.2.isSome) :: r.2)

/-- A position k commands further on. -/
def Pos.plus : Pos → Nat → Pos
  | .ring c, k => .ring ((c + k) % 0x1_0000_0000)
  | .slot a b i, k => .slot a b (i + k)

/-- R242, R257, R260: a fetch returns for a queue: commands of the ring up to 256, or of the slot; a slot whose RID is not the one
recorded, and a position past its command 15, fault the stream. -/
def Hw.fetchReturn (s : Hw) (t q : Nat) : Hw :=
  let v := s.getQueue t q
  let n := v.bind.stream
  if !v.bound || !s.mayIssue n then s
  else
    let c := s.ctxOn t n
    let who : Who := { kind := 1, unit := t, stream := some n, job := some (s.jobOf n) }
    match c.pos.plus v.fetched.length with
    | .ring k =>
      let r := s.ringWords n k (256 - v.fetched.length)
      r.1.modQueue t q (fun v => { v with fetched := v.fetched ++ r.2.map (·.1), fetchedDross := v.fetchedDross ++ r.2.map (·.2) })
    | .slot k rid i =>
      let p := s.getPhys (s.physOf t)
      let found := Sparse.get 0 p.rid k
      if found ≠ rid then (s.faultStream n 5).raise 0xB043 n (pack2 k found) who
      else if 16 ≤ i then
        if v.fetched.isEmpty then (s.faultStream n 5).raise 0xB045 n (pack2 k i) who else s
      else
        -- R301, R307: the queue engine consumes the commands as it fetches them
        let idx := (List.range 16).filter (fun j => i ≤ j)
        let code := fun (j : Nat) => Sparse.get 0 p.rtnDross (k * 16 + j)
        let bad := idx.filter (fun j => decide (2 ≤ code j))
        let s1 := (s.bump F.FLT_UE_COUNT 0 (bad.foldl (fun a j => a + (code j - 1)) 0)).bump F.FLT_DROSS_MADE_COUNT 0 ((bad.map (· / 2)).eraseDups.length)
        s1.modQueue t q (fun v => { v with
          fetched := v.fetched ++ idx.map (p.rtnWord k),
          fetchedDross := v.fetchedDross ++ idx.map (fun j => code j == 1 || bad.any (fun b => b / 2 == j / 2)) })

def execQueueFetchReturn (tile : Fin 512) (queue : Fin 4) (s : State) : Host.Outcome State Fault Refusal :=
  s.onHw (fun h => h.fetchReturn tile.val queue.val)

end Sys2Proof.Machine
end

