-- ==== Sys2Proof/Machine/Plan.lean ====
section
/-!
DEFINITION. Beat-plan entries (R42 to R48): their fields, the routes' physical paths (R19, R25), and the rules that make an entry
valid.
-/
namespace Sys2Proof.Machine

namespace Entry

/-- n little-endian bytes of the entry at an offset. -/
def num (e : Entry) (off n : Nat) : Nat := ofBytes ((List.range n).map (fun i => Sparse.get 0 e.bytes (off + i)))
/-- n little-endian bytes of its route table. -/
def rnum (e : Entry) (off n : Nat) : Nat := ofBytes ((List.range n).map (fun i => Sparse.get 0 e.routes (off + i)))

/-- R43. -/
def routePtr (e : Entry) : Nat := bits (e.num 0 8) 0 40
def routeCount (e : Entry) : Nat := bits (e.num 8 2) 0 13
/-- R42: bit n of the global rollover mask. -/
def globalMask (e : Entry) (n : Nat) : Bool := bit (Sparse.get 0 e.bytes (0x40 + n / 8)).toNat (n % 8)

/-- R42: the offset of a tile record. -/
def tileOff (t : Nat) : Nat := 0x240 + 64 * t
/-- R44. -/
def frame (e : Entry) (t : Nat) : Nat := bits (e.num (tileOff t) 4) 0 20
def assay (e : Entry) (t : Nat) : Bool := bit (e.num (tileOff t) 4) 20
def latchMask (e : Entry) (t : Nat) : Nat := e.num (tileOff t + 8) 8

/-- R45: the offset of a queue's binding. -/
def bindOff (t q : Nat) : Nat := tileOff t + 16 + 12 * q
/-- R45. -/
def binding (e : Entry) (t q : Nat) : Binding :=
  let o := bindOff t q
  let f := e.num (o + 8) 2
  { stream := e.num o 2, budget := e.num (o + 2) 2, pbase := e.num (o + 4) 2, psize := e.num (o + 6) 2,
    valid := bit f 0, cl := bit f 1, cs := bit f 2 }

/-- R46: a link slot record: stream, start, length. -/
def slotOff (l k : Nat) : Nat := 0x8240 + 128 * l + 8 * k
def slot (e : Entry) (l k : Nat) : Nat × Nat × Nat :=
  let v := e.num (slotOff l k) 8
  (bits v 0 16, bits v 16 16, bits v 32 16)

/-- R47: a route record: source, destination, start, length, stream. -/
def route (e : Entry) (i : Nat) : Nat × Nat × Nat × Nat × Nat :=
  let v := e.rnum (16 * i) 8
  (bits v 0 9, bits v 9 9, bits v 18 16, bits v 34 16, e.rnum (16 * i + 8) 2)

end Entry

/-! ### R48 -/

/-- The lowest of the offsets given. -/
def lowest (l : List Nat) : Option Nat := l.foldl (fun a x => match a with | none => some x | some y => some (min x y)) none

/-- R48: the failing offsets of a binding within its tile record. -/
def bindFails (e : Entry) (t q w : Nat) : List Nat :=
  let o := Entry.bindOff t q
  let b := e.binding t q
  let f := e.num (o + 8) 2
  (if bits f 3 13 ≠ 0 then [o + 8] else []) ++
  (if e.num (o + 10) 2 ≠ 0 then [o + 10] else []) ++
  (if b.valid then
    (if w < b.budget then [o + 2] else []) ++
    (if 752 < b.pbase + b.psize then [o + 4] else []) ++
    (if b.psize < (if b.cl then 11 else 0) + (if b.cs then 16 else 0) then [o + 6] else [])
  else
    (if b.stream ≠ 0 then [o] else []) ++ (if b.budget ≠ 0 then [o + 2] else []) ++ (if b.pbase ≠ 0 then [o + 4] else []) ++
    (if b.psize ≠ 0 then [o + 6] else []) ++ (if b.cl || b.cs then [o + 8] else []))

/-- R48: the failing offsets of a tile record. DESIGN CHOICE, log 74. -/
def tileFails (e : Entry) (t w frames : Nat) : List Nat :=
  let o := Entry.tileOff t
  let fr := e.frame t
  let qs := [0, 1, 2, 3]
  let bs := qs.map (e.binding t)
  (if bits (e.num o 4) 21 11 ≠ 0 then [o + 2] else []) ++
  (if fr ≠ 0xF_FFFF && frames ≤ fr then [o] else []) ++
  (if e.assay t && fr ≠ 0xF_FFFF then [o + 2] else []) ++
  (if e.num (o + 4) 4 ≠ 0 then [o + 4] else []) ++
  (if fr = 0xF_FFFF then (qs.filter (fun q => (e.binding t q).valid)).map (fun q => Entry.bindOff t q + 8) else []) ++
  qs.flatMap (fun q => bindFails e t q w) ++
  -- no stream bound twice: the later binding fails
  (qs.filter (fun q => (e.binding t q).valid && (qs.any (fun p => p < q && (e.binding t p).valid && (e.binding t p).stream == (e.binding t q).stream)))).map
    (Entry.bindOff t) ++
  -- partitions do not overlap: the later one fails
  (qs.filter (fun q => qs.any (fun p => decide (p < q) &&
    (nth Binding.none bs p).valid && (nth Binding.none bs q).valid && 0 < (nth Binding.none bs p).psize && 0 < (nth Binding.none bs q).psize &&
    overlaps ((nth Binding.none bs p).pbase, (nth Binding.none bs p).pbase + (nth Binding.none bs p).psize - 1)
      ((nth Binding.none bs q).pbase, (nth Binding.none bs q).pbase + (nth Binding.none bs q).psize - 1)))).map
    (fun q => Entry.bindOff t q + 4)

/-- R48: the failing offsets of a link's slots. -/
def linkFails (e : Entry) (l w : Nat) : List Nat :=
  ((List.range 16).foldl (fun (r : List Nat × Nat) k =>
    let s := e.slot l k
    let o := Entry.slotOff l k
    let res := if bits (e.num o 8) 48 16 ≠ 0 then [o + 6] else []
    if s.2.2 = 0 then (r.1 ++ res, r.2)
    else
      let bad := if s.2.1 < r.2 then [o + 2] else if w < s.2.1 + s.2.2 then [o + 4] else []
      (r.1 ++ res ++ bad, max r.2 (s.2.1 + s.2.2))) ([], 0)).1

/-- R48: the failing offsets of a route, from 0x1_0000. -/
def routeFails (e : Entry) (i w : Nat) : List Nat :=
  let o := 0x1_0000 + 16 * i
  let v := e.rnum (16 * i) 8
  let r := e.route i
  (if bits v 50 14 ≠ 0 then [o + 6] else []) ++ (if r.2.2.2.1 = 0 then [o + 4] else []) ++
  (if w < r.2.2.1 + r.2.2.2.1 then [o + 2] else []) ++ (if e.rnum (16 * i + 10) 6 ≠ 0 then [o + 10] else [])

/-- R48: a frame that appears in two tile records fails at the later one. -/
def frameFails (e : Entry) (tiles : List Nat) : List Nat :=
  (tiles.foldl (fun (r : List Nat × List Nat) t =>
    let f := e.frame t
    if f = 0xF_FFFF then r else if r.2.contains f then (r.1 ++ [Entry.tileOff t], r.2) else (r.1, f :: r.2)) ([], [])).1

/-- The tiles whose records of an entry count: not those offline (R322), nor in WARM service those not admitted (R54). -/
def Hw.planTiles (s : Hw) : List Nat := (List.range 512).filter (fun t => (s.level = 2 || s.admitted t) && !s.flt.offline.contains t)

/-- R48: every failing offset of a fetched entry. -/
def Hw.entryFails (s : Hw) (e : Entry) : List Nat :=
  let w := s.windowUnits
  let header := (if bits (e.num 0 8) 40 24 ≠ 0 then [5] else []) ++ (if bits (e.num 8 2) 13 3 ≠ 0 then [9] else []) ++
    (if e.routePtr % 128 ≠ 0 then [0] else []) ++ (if 4096 < e.routeCount then [8] else [])
  let rest := if (List.range 54).any (fun i => Sparse.get 0 e.bytes (10 + i) != 0) then [10] else []
  let tiles := s.planTiles
  header ++ rest ++ tiles.flatMap (fun t => tileFails e t w (s.fget F.BEAT_FRAME_COUNT_COUNT)) ++ frameFails e tiles ++
  (List.range 64).flatMap (fun l => linkFails e l w) ++
  (List.range (min 4096 e.routeCount)).flatMap (fun i => routeFails e i w)

/-! ### Fetching an entry (R42, R53, R307, R520) -/

/-- The bytes of a run that are not zero. -/
def nonzero (bs : List Byte) : Sparse Byte := (runCells 0 bs).filter (fun e => e.2 != 0)

/-- Fetches entry i of the plan at a base: the entry, the first failing offset (a dross atom makes its place one, R307), and whether
dross was met. -/
def Hw.fetchEntry (s : Hw) (base i : Nat) : Hw × Entry × Option Nat × Bool :=
  let a := base + 0x1_0000 * i
  if s.capacity < a + 0xA240 then (s.raiseOnce 0x5051 0 a (a >>> 32), Entry.empty, some 0, false)
  else
    let e0 : Entry := { bytes := nonzero (s.peekRun a 0xA240), routes := [] }
    let n := min 4096 e0.routeCount * 16
    let p := e0.routePtr
    let e : Entry := { e0 with routes := nonzero (s.peekRun p (min n (s.capacity - p))) }
    let unmappedAt := if n = 0 then none else if s.capacity < p + n then some (0x1_0000 + (s.capacity - p)) else none
    let s1 := match unmappedAt with
      | some _ => s.raiseOnce 0x5051 0 (max p s.capacity) (max p s.capacity >>> 32)
      | none => s
    let c := s1.consume [(a, a + 0xA23F)]
    let r := if n = 0 then (c.1, none) else c.1.consume [(p, p + n - 1)]
    let bad := (c.2.map (fun x => max x a - a)).toList ++ (r.2.map (fun x => 0x1_0000 + (max x p - p))).toList
    (r.1, e, lowest (s1.entryFails e ++ unmappedAt.toList ++ bad), !bad.isEmpty)

/-! ### Physical paths (R19, R22, R25) -/

/-- R19: a physical tile's column and row in the mesh of 36 × 16. -/
def meshCol (p : Nat) : Nat := physDie p % 4 * 9 + physCol p
def meshRow (p : Nat) : Nat := physDie p / 4 * 8 + physRow p

/-- The hops of a route in dimension order, along the row and then down the column: (column, row, direction). -/
def hopsOf (a b : Nat) : List (Nat × Nat × Nat) :=
  let x0 := meshCol a
  let x1 := meshCol b
  let y0 := meshRow a
  let y1 := meshRow b
  (if x0 ≤ x1 then (List.range (x1 - x0)).map (fun i => (x0 + i, y0, 0)) else (List.range (x0 - x1)).map (fun i => (x0 - i, y0, 1))) ++
  (if y0 ≤ y1 then (List.range (y1 - y0)).map (fun i => (x1, y0 + i, 2)) else (List.range (y0 - y1)).map (fun i => (x1, y0 - i, 3)))

/-- R25: the routes of an entry that stay on the scheduled plane, and those demoted: a route that needs a hop in a slot an
earlier route of the table holds travels on the open plane.  Routes that name an offline tile are not installed (R322). DESIGN CHOICE, log 73. -/
def Hw.expandRoutes (s : Hw) (e : Entry) : List Nat × List Nat :=
  let hops := fun i => let r := e.route i; hopsOf (s.physOf r.1) (s.physOf r.2.1)
  let span := fun i => let r := e.route i; (r.2.2.1, r.2.2.1 + r.2.2.2.1 - 1)
  let live := (List.range (min 4096 e.routeCount)).filter (fun i =>
    let r := e.route i; !s.flt.offline.contains r.1 && !s.flt.offline.contains r.2.1)
  live.foldl (fun (k : List Nat × List Nat) i =>
    let clash := k.1.any (fun j => overlaps (span i) (span j) && (hops i).any (fun h => (hops j).contains h))
    if clash then (k.1, k.2 ++ [i]) else (k.1 ++ [i], k.2)) ([], [])

end Sys2Proof.Machine
end

