-- ==== Sys2Proof/Machine/Control.lean ====
section
/-!
DEFINITION. Control and debug commands (R247 to R249, R257, R260), deadlock (R255) and the wait
watchdog (R256).
-/
namespace Sys2Proof.Machine

/-- A control command: its effect, then its completion in the same cycle (R242).  A command that breaks R239 or another common
rule completes with that status and has no effect. -/
def Hw.control (s : Hw) (t q op : Nat) (run : Hw → Cmd → Hw × Nat) : Hw :=
  s.issue t q (fun w => Com.opcode w == op) (fun s x st =>
    if st ≠ 0 then s.completeNow x st
    else let r := run s x; r.1.completeNow x r.2)

/-- A counter, and a counter's new value. -/
def StreamCtx.counter (c : StreamCtx) (k : Nat) : Reg32 := Sparse.get 0 c.counters k
def Hw.setCounter (s : Hw) (x : Cmd) (k : Nat) (v : Reg32) : Hw :=
  let c := s.ctxOn x.t x.n
  s.setCtxOn x.t x.n { c with counters := Sparse.put 0 c.counters k v }

/-- A scalar slot: 32 bits and whether it is FP32 (R247). -/
def StreamCtx.slotOf (c : StreamCtx) (k : Nat) : Reg32 × Bool := Sparse.get (0, false) c.slots k

/-! ### SETC, ADDC, CMP -/

/-- R248: SETC's value. -/
def setcValue (s : Hw) (x : Cmd) : Reg32 :=
  let p := Com.param x.w 0
  match Com.mode x.w 8 3 with
  | 0 => BitVec.ofNat 32 p
  | 1 => (s.ctxOn x.t x.n).counter p
  | 2 => ((s.ctxOn x.t x.n).slotOf p).1
  | 3 => BitVec.ofNat 32 x.t
  | 4 => BitVec.ofNat 32 (s.beatNo % 0x1_0000_0000)
  | _ => BitVec.ofNat 32 x.num

def execSetc (tile : Fin 512) (queue : Fin 4) (s : State) : Host.Outcome State Fault Refusal :=
  s.onHw (fun h => h.control tile.val queue.val 0x70 (fun h x => (h.setCounter x (Com.mode x.w 4 3) (setcValue h x), 0)))

def execAddc (tile : Fin 512) (queue : Fin 4) (s : State) : Host.Outcome State Fault Refusal :=
  s.onHw (fun h => h.control tile.val queue.val 0x71 (fun h x =>
    let k := Com.mode x.w 4 3
    (h.setCounter x k ((h.ctxOn x.t x.n).counter k + BitVec.ofNat 32 (Com.param x.w 0)), 0)))

/-- R248: one side of CMP: its 32 bits and whether they are FP32. -/
def cmpSide (c : StreamCtx) (kind p : Nat) (fp : Bool) : Reg32 × Bool :=
  match kind with
  | 0 => (c.counter p, false)
  | 1 => c.slotOf p
  | _ => (BitVec.ofNat 32 p, fp)

/-- R248: a relation over integers. -/
def relInt (rel : Nat) (a b : Int) : Bool :=
  match rel with
  | 0 => decide (a = b) | 1 => decide (a ≠ b) | 2 => decide (a < b) | 3 => decide (a ≤ b) | 4 => decide (b < a) | _ => decide (b ≤ a)

/-- R248: a relation over FP32 values: IEEE 754, −0 = +0; a NaN makes every relation false but NE. -/
def relFp (rel : Nat) (a b : FVal) : Bool :=
  if a.isNan || b.isNan then rel == 1
  else
    let le := a.ieeeLe b
    let ge := b.ieeeLe a
    match rel with
    | 0 => le && ge | 1 => !(le && ge) | 2 => le && !ge | 3 => le | 4 => ge && !le | _ => ge

/-- R248: CMP. -/
def cmpResult (c : StreamCtx) (w : Record64) : Bool :=
  let fp := Com.modeBit w 9
  let a := cmpSide c (Com.mode w 10 2) (Com.param w 0) fp
  let b := cmpSide c (Com.mode w 12 2) (Com.param w 1) fp
  let val := fun (v : Reg32 × Bool) => if v.2 then decodeFloat 0 v.1.toNat else (FVal.ofInt v.1.toInt).r32
  if fp then relFp (Com.mode w 6 3) (val a) (val b) else relInt (Com.mode w 6 3) a.1.toInt b.1.toInt

def execCmp (tile : Fin 512) (queue : Fin 4) (s : State) : Host.Outcome State Fault Refusal :=
  s.onHw (fun h => h.control tile.val queue.val 0x72 (fun h x =>
    let c := h.ctxOn x.t x.n
    let k := Com.mode x.w 4 2
    (h.setCtxOn x.t x.n { c with comps := BitVec.ofNat 4 (setBits c.comps.toNat k 1 (if cmpResult c x.w then 1 else 0)) }, 0)))

/-! ### Branches (R249) -/

/-- R249: a taken branch inside a routine: to command i of the slot, or the stream faults with event 0xB045. -/
def Hw.branchSlot (s : Hw) (x : Cmd) (slot rid : Nat) (target : Int) : Hw :=
  if 0 ≤ target && target ≤ 15 then s.jump x.t x.q x.n (.slot slot rid target.toNat)
  else (s.faultStream x.n 5).raise 0xB045 x.n (pack2 slot (unsigned 16 target)) { kind := 1, unit := x.t, stream := some x.n }

/-- R249: a taken branch in the ring skips commands, which retire with the branch. -/
def Hw.branchRing (s : Hw) (x : Cmd) (k off : Nat) : Hw :=
  let s1 := s.setCtxOn x.t x.n { s.ctxOn x.t x.n with pos := .ring ((k + off) % 0x1_0000_0000) }
  s1.modQueue x.t x.q (fun v => { v with fetched := v.fetched.drop (off - 1), fetchedDross := v.fetchedDross.drop (off - 1) })

/-- R248: BR is taken. -/
def brTaken (c : StreamCtx) (w : Record64) : Bool :=
  Com.modeBit w 7 || (bit c.comps.toNat (Com.mode w 4 2) == !(Com.modeBit w 6))

/-- R248, R249: BR. -/
def Hw.branch (s : Hw) (t q : Nat) : Hw :=
  s.issue t q (fun w => Com.opcode w == 0x73) (fun s x st =>
    if st ≠ 0 then s.completeNow x st
    else
      let off := Com.param x.w 0
      let taken := brTaken x.c x.w
      match x.c.pos with
      | .ring k =>
        if off = 0 || 4095 < off then s.completeNow x St.param
        else if taken then (s.branchRing x k off).completeNow { x with slots := off } 0
        else s.completeNow x 0
      | .slot sl rid i =>
        if taken then (s.branchSlot x sl rid ((i : Int) + signed 32 off)).completeNow x 0 else s.completeNow x 0)

def execBr (tile : Fin 512) (queue : Fin 4) (s : State) : Host.Outcome State Fault Refusal :=
  s.onHw (fun h => h.branch tile.val queue.val)

/-- R248, R249: LOOP; in the ring it completes with PARAM and changes no counter. -/
def execLoop (tile : Fin 512) (queue : Fin 4) (s : State) : Host.Outcome State Fault Refusal :=
  s.onHw (fun h => h.control tile.val queue.val 0x74 (fun h x =>
    match x.c.pos with
    | .ring _ => (h, St.param)
    | .slot sl rid i =>
      let k := Com.mode x.w 4 3
      let v := (h.ctxOn x.t x.n).counter k - 1
      let h1 := h.setCounter x k v
      (if v = 0 then h1 else h1.branchSlot x sl rid ((i : Int) + signed 32 (Com.param x.w 0)), 0)))

/-! ### WAIT, SET, YIELD, FENCE, MARK -/

/-- R250: WAIT issues once its selectors are satisfied and does nothing more. -/
def execWait (tile : Fin 512) (queue : Fin 4) (s : State) : Host.Outcome State Fault Refusal :=
  s.onHw (fun h => h.control tile.val queue.val 0x75 (fun h _ => (h, 0)))

/-- R245: SET applies its set selector and its further ones at completion. -/
def execSet (tile : Fin 512) (queue : Fin 4) (s : State) : Host.Outcome State Fault Refusal :=
  s.onHw (fun h => h.control tile.val queue.val 0x76 (fun h _ => (h, 0)))

/-- R49, R248: the queue idles for the rest of its slot. -/
def execYield (tile : Fin 512) (queue : Fin 4) (s : State) : Host.Outcome State Fault Refusal :=
  s.onHw (fun h => h.control tile.val queue.val 0x79 (fun h x => (h.modQueue x.t x.q (fun v => { v with yielded := true, why := 6 }), 0)))

/-- R248: FENCE completes at once where nothing earlier is outstanding; otherwise it stays in flight until then. -/
def execFence (tile : Fin 512) (queue : Fin 4) (s : State) : Host.Outcome State Fault Refusal :=
  s.onHw (fun h => h.issue tile.val queue.val (fun w => Com.opcode w == 0x7A) (fun h x st =>
    if st ≠ 0 then h.completeNow x st
    else if (h.ctxOn x.t x.n).flight.all (fun f => f.stage == Stage.completed) then h.completeNow x 0
    else h.fly x .running .none))

/-- R248, R509: MARK writes its tag and P0–P1 to the trace, whose rim buffer drains. -/
def execMark (tile : Fin 512) (queue : Fin 4) (s : State) : Host.Outcome State Fault Refusal :=
  s.onHw (fun h => h.control tile.val queue.val 0x80 (fun h x =>
    (if h.flag F.DBG_TRACE_CTL_SRC_MARK then
      (h.trace (h.traceRec 1 x.q x.t x.n (Com.tag x.w) (Com.param64 x.w 0))).drainTrace else h, 0)))

/-! ### CALL, RET (R257, R260) -/

/-- R257: CALL. -/
def Hw.call (s : Hw) (x : Cmd) : Hw :=
  let c := s.ctxOn x.t x.n
  let slot := Com.param x.w 0
  let found := Sparse.get 0 (s.getPhys (s.physOf x.t)).rid slot
  let who : Who := { kind := 1, unit := x.t, stream := some x.n, job := some (s.jobOf x.n) }
  if 4 ≤ c.stack.length then (s.faultStream x.n 6).raise 0xB044 x.n (Com.tag x.w) who
  else if found ≠ Com.param x.w 1 then (s.faultStream x.n 5).raise 0xB043 x.n (pack2 slot found) who
  else (s.setCtxOn x.t x.n { c with stack := c.pos :: c.stack }).jump x.t x.q x.n (.slot slot found 0)

def execCall (tile : Fin 512) (queue : Fin 4) (s : State) : Host.Outcome State Fault Refusal :=
  s.onHw (fun h => h.control tile.val queue.val 0x77 (fun h x => (h.call x, 0)))

/-- R257, R260: RET; a return to a slot whose RID is not the recorded one faults the stream. -/
def Hw.ret (s : Hw) (x : Cmd) : Hw :=
  let c := s.ctxOn x.t x.n
  let who : Who := { kind := 1, unit := x.t, stream := some x.n, job := some (s.jobOf x.n) }
  match c.stack with
  | [] => (s.faultStream x.n 6).raise 0xB044 x.n (Com.tag x.w) who
  | p :: rest =>
    let go := (s.setCtxOn x.t x.n { c with stack := rest }).jump x.t x.q x.n p
    match p with
    | .ring _ => go
    | .slot k rid _ =>
      let found := Sparse.get 0 (s.getPhys (s.physOf x.t)).rid k
      if found = rid then go else (s.faultStream x.n 5).raise 0xB043 x.n (pack2 k found) who

def execRet (tile : Fin 512) (queue : Fin 4) (s : State) : Host.Outcome State Fault Refusal :=
  s.onHw (fun h => h.control tile.val queue.val 0x78 (fun h x => (h.ret x, 0)))

/-! ### SCALAR.LOAD -/

/-- Writes a scalar slot. -/
def Hw.setSlot (s : Hw) (n k : Nat) (v : Reg32) (fp : Bool) : Hw :=
  let c := s.ctxOf n
  s.setCtxOf n { c with slots := Sparse.put (0, false) c.slots k (v, fp) }

/-- R248: the slot value of an element under INT = 1, and whether it counts as saturated. -/
def scalarInt (o : Opnd) (s : Hw) (idx : List Int) : Int × Bool :=
  if fmtInt o.fmt && !o.scaled then
    (match decodeElem o.fmt (o.raw s idx) with
      | .fin n m e => let v : Int := (m <<< e.toNat : Nat); if n then -v else v
      | _ => 0, false)
  else encodeInt (-0x8000_0000) 0x7FFF_FFFF none (o.value s idx)

/-- R247, R248: SCALAR.LOAD.  With OP0 absent it writes P1 and completes at once; otherwise the element is read, and the slot is
written when the command completes.  The value waits in the flight entry: its 32 bits and the type in bit 32. -/
def Hw.scalarLoad (s : Hw) (t q : Nat) : Hw :=
  s.issue t q (fun w => Com.opcode w == 0x7B) (fun s x st =>
    if st ≠ 0 then s.completeNow x st
    else if !x.has 0 then (s.setSlot x.n (Com.param x.w 0) (BitVec.ofNat 32 (Com.param x.w 1)) (!Com.modeBit x.w 4)).completeNow x 0
    else if (x.o 0).fmt = 10 then s.turned x St.format
    else
      let o := x.o 0
      let idx : List Int := List.replicate o.rank 0
      let b := o.byteAt idx
      let sb := if o.scaled then [((elemPlace o.scaleAddr o.scale (o.scaleOff idx)).1, (elemPlace o.scaleAddr o.scale (o.scaleOff idx)).1)] else []
      let r := s.consume ((b, b + (fmtBits o.fmt + 7) / 8 - 1) :: sb)
      match r.2 with
      | some a => r.1.consumeDross x.n a 5 x.t
      | none =>
        let s1 := r.1
        if Com.modeBit x.w 4 then
          let v := scalarInt o s1 idx
          let c := s1.countSat x.n (if v.2 then 1 else 0)
          c.1.done { x with latched := unsigned 32 v.1 } c.2
        else s1.done { x with latched := (o.value s1 idx).pat.toNat + (1 <<< 32) } 0)

def execScalarLoad (tile : Fin 512) (queue : Fin 4) (s : State) : Host.Outcome State Fault Refusal :=
  s.onHw (fun h => h.scalarLoad tile.val queue.val)

/-! ### Deadlock and watchdog (R255, R256) -/

/-- The command at the head of a bound queue, whatever stops it. -/
def Hw.rawHead (s : Hw) (t q : Nat) : Option (Nat × Record64) :=
  let v := s.getQueue t q
  if v.bound then v.fetched.head?.map (fun w => (v.bind.stream, w)) else none

/-- R255: a head waits on tile-latch selectors alone. -/
def Hw.waitsOnTile (s : Hw) (t n : Nat) (w : Record64) : Bool :=
  !s.waitDone t n w && ((waitSelectors w).filter (fun x => !(s.selDone t n x))).all (fun x => selScope x == 1)

/-- R255: what a set selector does to a tile latch, if it names one: latch and cleared. -/
def tileSets (w : Record64) : List (Nat × Bool) :=
  ((setSelectors w).filter (fun x => selScope x == 1)).map (fun x => (selLatch x, selClear x))

/-- R255: the queues that hold commands, and whether their tile is deadlocked. -/
def Hw.deadlockMask (s : Hw) (t : Nat) : Nat :=
  let qs := (List.range 4).filter (fun q => (s.rawHead t q).isSome)
  let waiting := qs.all (fun q =>
    let v := s.getQueue t q
    match s.rawHead t q with
    | some (n, w) => s.mayIssue n && !v.spent && !v.yielded && s.inBudget v.bind && s.waitsOnTile t n w
    | none => true)
  let wants := qs.flatMap (fun q => match s.rawHead t q with
    | some (n, w) => ((waitSelectors w).filter (fun x => selScope x == 1 && !(s.selDone t n x))).map (fun x => (selLatch x, selClear x))
    | none => [])
  let relieved := (s.liveOn t).any (fun f => (tileSets f.cmd).any (fun p => wants.contains p))
  let rollover := wants.any (fun p => p.2 && bit (s.beat.cur.latchMask t) p.1)
  if qs.isEmpty || !waiting || relieved || rollover then 0 else maskOf qs

/-- R255: a deadlock is declared: its streams are faulted. -/
def Hw.deadlock (s : Hw) (t : Nat) : Hw :=
  let m := s.deadlockMask t
  if m = 0 then s
  else
    let s1 := (s.raise 0xB010 t m { kind := 1, unit := t }).bump F.STRM_DEADLOCKS_COUNT
    let s2 := s1.bump F.TILE_DEADLOCKS_COUNT t
    (bitList 4 m).foldl (fun s q => s.faultStream (s.getQueue t q).bind.stream 1) s2

def execDeadlockDetected (tile : Fin 512) (s : State) : Host.Outcome State Fault Refusal := s.onHw (fun h => h.deadlock tile.val)

/-- R256: the first global or remote selector a stream's head waits on, on the tile and queue it is bound to. DEDUCED, log 17. -/
def Hw.watchedSel (s : Hw) (n : Nat) : Option Nat :=
  if !s.mayIssue n then none
  else match s.tileOfStream n with
  | none => none
  | some t =>
    (List.range 4).findSome? (fun q => match s.rawHead t q with
      | some (m, w) =>
        if m = n && !s.waitDone t n w then (waitSelectors w).find? (fun x => 2 ≤ selScope x && !(s.selDone t n x)) else none
      | none => none)

/-- R256: the watchdog of a stream expires. -/
def Hw.watchdog (s : Hw) (n : Nat) : Hw :=
  let limit := s.fget F.STRM_WAIT_LIMIT_BEATS
  let x := s.getStream n
  match s.watchedSel n with
  | none => s
  | some sel =>
    if limit = 0 || x.waitBeats < limit then s
    else
      let s1 := s.raise 0xB011 n sel { stream := some n, job := some (s.jobOf n) }
      if s.flag F.STRM_CTL_WDOG_FAULT n then s1.faultStream n 2 else s1.setStream n { s1.getStream n with waitBeats := 0 }

def execWaitWatchdogExpired (stream : BitVec 16) (s : State) : Host.Outcome State Fault Refusal :=
  s.onHw (fun h => h.watchdog stream.toNat)

end Sys2Proof.Machine
end

