-- ==== Sys2Proof/Machine/Crow.lean ====
section
/-!
DEFINITION. Compressed-row panels (R138 to R143, R208, R209): the decoder's check pass and the encoder.
-/
namespace Sys2Proof.Machine

/-- R141: a stored pattern that is +0 or −0. -/
def zeroPat (fmt p : Nat) : Bool :=
  if fmtInt fmt then p % (1 <<< fmtBits fmt) == 0 else p % (1 <<< (fmtBits fmt - 1)) == 0

/-- Values packed in storage order, a 4-bit value in the lower nibble first (R77). -/
def packValues (w : Nat) : List Nat → List Byte
  | [] => []
  | [p] => if w = 4 then [BitVec.ofNat 8 (p % 16)] else toBytes (w / 8) p
  | p :: q :: l => if w = 4 then BitVec.ofNat 8 (p % 16 + 16 * (q % 16)) :: packValues w l else toBytes (w / 8) p ++ packValues w (q :: l)

/-- Value i of a packed run of bytes. -/
def unpackValue (w : Nat) (bs : List Byte) (i : Nat) : Nat :=
  if w = 4 then bits (nth 0 bs (i / 2)).toNat (4 * (i % 2)) 4 else ofBytes ((bs.drop (i * (w / 8))).take (w / 8))

/-- What a panel's non-zeros give (R139, R141). -/
structure PanelStats where
  nnz : Nat
  union : Nat
  peel : Nat
  heavyNnz : Nat
  heavyRow : Nat
  dens : Nat
  ucode : Nat
  deriving DecidableEq, Repr

/-- R141: the density code, and the union code. -/
def densCode (nnz rows cols : Nat) : Nat := min 255 (ceilDiv (256 * nnz) (rows * cols))
def unionCode (u cols : Nat) : Nat := min 255 (ceilDiv (256 * u) cols)

/-- The distinct numbers of a list, ascending. -/
def sortedUnion (l : List Nat) : List Nat := (l.foldl (fun (m : Sparse Unit) k => Sparse.set m k ()) []).map (·.1)

/-- R139, R141: the header fields that the columns of each row's non-zeros give. -/
def panelStats (rows cols : Nat) (idx : List (List Nat)) : PanelStats :=
  let nnz := idx.foldl (fun a r => a + r.length) 0
  let best := ((List.range idx.length).zip idx).foldl (fun (b : Nat × Nat) p => if b.2 < p.2.length then (p.1, p.2.length) else b) (0, 0)
  let u := (sortedUnion idx.flatten).length
  let peel := (sortedUnion ((((List.range idx.length).zip idx).filter (fun p => p.1 != best.1)).flatMap (·.2))).length
  { nnz := nnz, union := u, peel := peel, heavyNnz := best.2, heavyRow := best.1, dens := densCode nnz rows cols, ucode := unionCode u cols }

/-- A decoded panel: its format, whether its body is dense, its rows and columns, the header's NNZ and codes, and each row's
stored values as (column, pattern), ascending. -/
structure Panel where
  fmt : Nat
  dense : Bool
  rows : Nat
  cols : Nat
  st : PanelStats
  data : List (List (Nat × Nat))
  deriving DecidableEq, Repr

/-- R138: a directory entry: OFFSET and LEN. -/
def Hw.panelDir (s : Hw) (o : Opnd) (p : Nat) : Nat × Nat :=
  let v := ofBytes (s.peekRun (o.addr + 8 * p) 8)
  (bits v 0 40, bits v 40 24)

/-- Panels of a compressed-row descriptor, and the rows of panel p. -/
def Opnd.panels (o : Opnd) : Nat := ceilDiv (Desc.size o.img 0) 64
def Opnd.panelRows (o : Opnd) (p : Nat) : Nat := min 64 (Desc.size o.img 0 - 64 * p)

/-- R140: bytes of a compressed and of a dense body. -/
def crowBody (nnz w : Nat) : Nat := 260 + 2 * nnz + ceilDiv (nnz * w) 8
def denseBody (rows cols w : Nat) : Nat := ceilDiv (rows * cols * w) 8

/-- R139: the reserved fields of a header are zero. -/
def headerReservedOk (h : Nat) : Bool :=
  bits h 12 20 == 0 && bits h 49 15 == 0 && bits h 87 9 == 0 && bits h 113 15 == 0 && bits h 145 15 == 0 && bits h 183 9 == 0 && bits h 208 48 == 0

/-- R142, R208, R209: the check pass over panel p: the panel, or none where the decoder refuses it. -/
def Hw.decodePanel (s : Hw) (o : Opnd) (p : Nat) : Option Panel :=
  let dir := s.panelDir o p
  let rows := o.panelRows p
  let cols := Desc.size o.img 1
  let w := fmtBits o.fmt
  if Desc.crowLen o.img < dir.1 + dir.2 || dir.2 < 32 then none
  else
    let a := o.addr + dir.1
    let h := ofBytes (s.peekRun a 32)
    let st : PanelStats :=
      { nnz := bits h 64 23, union := bits h 96 17, peel := bits h 128 17, heavyNnz := bits h 160 17, heavyRow := bits h 177 6,
        dens := bits h 192 8, ucode := bits h 200 8 }
    if !headerReservedOk h || bits h 0 4 ≠ o.fmt || bits h 5 7 ≠ rows || bits h 32 17 ≠ cols then none
    else if bit h 4 then
      if dir.2 < 32 + denseBody rows cols w || st.union ≠ 0 || st.peel ≠ 0 || st.heavyNnz ≠ 0 || st.heavyRow ≠ 0 || st.ucode ≠ 0 then none
      else
        let vs := s.peekRun (a + 32) (denseBody rows cols w)
        some { fmt := o.fmt, dense := true, rows := rows, cols := cols, st := st,
               data := (List.range rows).map (fun r => (List.range cols).map (fun c => (c, unpackValue w vs (r * cols + c)))) }
    else if dir.2 < 32 + crowBody st.nnz w then none
    else
      let ptr := (List.range 65).map (fun i => ofBytes (s.peekRun (a + 32 + 4 * i) 4))
      let rising := (List.range 64).all (fun i => decide (nth 0 ptr i ≤ nth 0 ptr (i + 1)))
      if nth 0 ptr 0 ≠ 0 || nth 0 ptr 64 ≠ st.nnz || !rising then none
      else
        let idx := (List.range st.nnz).map (fun i => ofBytes (s.peekRun (a + 292 + 2 * i) 2))
        let vs := s.peekRun (a + 292 + 2 * st.nnz) (ceilDiv (st.nnz * w) 8)
        let all := (List.range 64).map (fun r => (List.range (nth 0 ptr (r + 1) - nth 0 ptr r)).map (fun i =>
          (nth 0 idx (nth 0 ptr r + i), unpackValue w vs (nth 0 ptr r + i))))
        let data := all.take rows
        let ascending := all.all (fun r => (r.zip (r.drop 1)).all (fun q => decide (q.1.1 < q.2.1)) && r.all (fun e => decide (e.1 < cols)))
        if !ascending || (all.drop rows).any (fun r => !r.isEmpty) || panelStats rows cols (data.map (fun r => r.map (·.1))) ≠ st then none
        else some { fmt := o.fmt, dense := false, rows := rows, cols := cols, st := st, data := data }

/-- R139 to R141, R143: the encoder's bytes for a panel of rows of patterns. -/
def encodePanel (fmt cols : Nat) (rows : List (List Nat)) : List Byte :=
  let w := fmtBits fmt
  let nz := rows.map (fun r => ((List.range r.length).zip r).filter (fun e => !zeroPat fmt e.2))
  let st := panelStats rows.length cols (nz.map (fun r => r.map (·.1)))
  let small := crowBody st.nnz w < denseBody rows.length cols w
  let head := fun (dense : Nat) (u peel hn hr uc : Nat) =>
    toBytes 4 (fmt + (dense <<< 4) + (rows.length <<< 5)) ++ toBytes 4 cols ++ toBytes 4 st.nnz ++ toBytes 4 u ++ toBytes 4 peel ++
      toBytes 4 (hn + (hr <<< 17)) ++ toBytes 1 st.dens ++ toBytes 1 uc ++ toBytes 6 0
  if small then
    let ptr := (List.range 65).map (fun i => (nz.take i).foldl (fun a r => a + r.length) 0)
    head 0 st.union st.peel st.heavyNnz st.heavyRow st.ucode ++ ptr.flatMap (toBytes 4) ++
      nz.flatten.flatMap (fun e => toBytes 2 e.1) ++ packValues w (nz.flatten.map (·.2))
  else head 1 0 0 0 0 0 ++ packValues w rows.flatten

/-- R143: the encoder writes panel p of a destination and its directory entry. -/
def Hw.writePanel (s : Hw) (o : Opnd) (p : Nat) (rows : List (List Nat)) : Hw :=
  let bs := encodePanel o.fmt (Desc.size o.img 1) rows
  let off := Desc.crowDir o.img + p * Desc.crowSlot o.img
  (s.writeRun (o.addr + off) bs).writeRun (o.addr + 8 * p) (toBytes 8 (off + (bs.length <<< 40)))

/-- R143, R303: a panel that cannot be formed: every atom of its slot is dross (DEDUCED, log 32). -/
def Hw.failPanel (s : Hw) (o : Opnd) (p : Nat) : Hw :=
  let a := o.addr + Desc.crowDir o.img + p * Desc.crowSlot o.img
  (atomsOf a (a + Desc.crowSlot o.img - 1)).foldl (fun s b => s.markDross b) s

/-- R143: a compressed-row destination is written whole, panel by panel, with the patterns given in row-major order. -/
def Hw.writePanels (s : Hw) (o : Opnd) (pats : List Nat) : Hw :=
  let k := Desc.size o.img 1
  (List.range o.panels).foldl (fun s p =>
    s.writePanel o p ((List.range (o.panelRows p)).map (fun r => (pats.drop ((64 * p + r) * k)).take k))) s

/-- R95, R143, R517: a destination is written whole, with the values given in row-major order: through the encoder, or element by
element.  Answers how many saturated. -/
def Hw.writeTensor (s : Hw) (o : Opnd) (w : Writer) (vals : List FVal) : Hw × Nat :=
  let els := (List.range vals.length).zip vals
  if o.crow then
    let cs := els.map (fun e => castElem o.fmt (w.rnd o.fmt e.1) w.sat e.2)
    (s.writePanels o (cs.map (·.1)), (cs.filter (·.2)).length)
  else s.writeElems o w (els.map (fun e => (unlinear o.writeShape e.1, e.2)))

/-- The bytes that the decoder takes in of a compressed-row operand: its directory, and every panel that lies in its range. -/
def Hw.panelSpans (s : Hw) (o : Opnd) : List Span :=
  { lo := o.addr, hi := o.addr + 8 * o.panels - 1 } ::
    (List.range o.panels).filterMap (fun p =>
      let d := s.panelDir o p
      if d.2 = 0 || Desc.crowLen o.img < d.1 + d.2 then none else some { lo := o.addr + d.1, hi := o.addr + d.1 + d.2 - 1 })

end Sys2Proof.Machine
end

