-- ==== Sys2Proof/Machine/Product.lean ====
section
/-!
DEFINITION. The loom's product (R84 to R91, R104 to R106, R124, R125, R194): operand elements as the feeders and heddles see
them, the accumulators of an output block, and the block's checksum (R127, R128).
-/
namespace Sys2Proof.Machine

/-! ### Elements -/

/-- An element at a loom: its unscaled value, the scale code of its block (none for an unscaled operand), and the exponent of
its block factor (R88 step 2). -/
structure LEl where
  v : FVal
  code : Option Nat
  k : Int
  /-- Made by the feeder: it lies in no scale block. -/
  made : Bool := false

/-- The zero that the feeder supplies (R114). -/
def LEl.zero : LEl := { v := .zero false, code := none, k := 0, made := true }

/-- R88 step 2: an element of a format under an optional scale code. -/
def LEl.of (fmt p : Nat) (code : Option Nat) : LEl :=
  { v := decodeElem fmt p, code := code,
    k := match code with | none => 0 | some c => (c : Int) - (if fmt = 6 then 133 else 127) }

namespace Opnd

/-- R194: what a loom sees of an operand's format: a stash reads as BF16, unscaled. -/
def loomFmt (o : Opnd) : Nat := if Desc.stash o.img then 1 else o.fmt
def loomScaled (o : Opnd) : Bool := !Desc.stash o.img && o.scaled

/-- An element at core indices as a loom's feeder reads it. -/
def loomAt (o : Opnd) (s : Hw) (idx : List Int) : LEl :=
  if Desc.stash o.img then
    if o.scaled then { v := decodeFloat 1 (encodeFloat 1 none false (o.value s idx)).1, code := none, k := 0 }
    else LEl.of o.fmt (o.raw s idx) none
  else LEl.of o.fmt (o.raw s idx) (if o.scaled then some (o.code s idx) else none)

/-- The element at a read-shape index. -/
def loomRead (o : Opnd) (s : Hw) (idx : List Nat) : LEl := o.loomAt s (Desc.coreOf o.img idx)

/-- R114: rows and columns of an operand folded to a matrix: the last dimension, and all before it. -/
def foldRows (shape : List Nat) : Nat := volume shape.dropLast
def foldCols (shape : List Nat) : Nat := shape.getLastD 1

/-- The element of the folded matrix. -/
def loomMat (o : Opnd) (s : Hw) (i j : Nat) : LEl := o.loomRead s (unlinear o.readShape.dropLast i ++ [j])

end Opnd

/-! ### A product -/

/-- A product of a moving operand, m rows of k elements, with a stationary operand of `rows` heddle rows and n columns.  For a
2:4 stationary operand `pos` gives a heddle row's position in its group of four (R124, R125). -/
structure Prod where
  m : Nat
  n : Nat
  k : Nat
  rows : Nat
  a : Nat → Nat → LEl
  b : Nat → Nat → LEl
  pos : Nat → Nat → Option Nat
  int : Bool
  aPair : Bool
  bPair : Bool
  /-- The operands are block-scaled integers, whose slice sums are exact (R88). -/
  ints : Bool := false

namespace Prod

/-- Whether the stationary operand is 2:4. -/
def sp (p : Prod) : Bool := (p.pos 0 0).isSome

/-- R91: the passes of a slice: which part of each operand it multiplies: 0 all of it, 1 high, 2 low. -/
def passes (p : Prod) : List (Nat × Nat) :=
  match p.aPair, p.bPair with
  | true, true => [(1, 2), (2, 1), (1, 1)]
  | true, false => [(2, 0), (1, 0)]
  | false, true => [(0, 2), (0, 1)]
  | false, false => [(0, 0)]

/-- A part of an element. -/
def part (i : Nat) (v : FVal) : FVal :=
  match i with | 0 => v | 1 => (splitPair v).1 | _ => (splitPair v).2

/-- Slices of the contraction. -/
def slices (p : Prod) : Nat := ceilDiv p.rows 64

/-- The moving index that heddle row r of column n meets. -/
def moving (p : Prod) (r n : Nat) : Nat := match p.pos r n with | none => r | some j => 4 * (r / 2) + j

def elemA (p : Prod) (m i : Nat) : LEl := if i < p.k then p.a m i else LEl.zero
def elemB (p : Prod) (r n : Nat) : LEl := if r < p.rows then p.b r n else LEl.zero

/-- R85: one exact product; of integers it is an integer, whose zero has no sign (R88). -/
def term (p : Prod) (ps : Nat × Nat) (m n r : Nat) : FVal :=
  let v := if r < p.rows then (part ps.1 (p.elemA m (p.moving r n)).v).mulExact (part ps.2 (p.elemB r n).v) else .zero false
  if p.ints && v.isZero then .zero false else v

/-- The moving indices and the heddle rows of half h of slice j. -/
def movHalf (p : Prod) (j h : Nat) : List Nat :=
  (if p.sp then (List.range 64).map (fun i => 128 * j + 64 * h + i) else (List.range 32).map (fun i => 64 * j + 32 * h + i)).filter (fun i => decide (i < p.k))
def rowHalf (p : Prod) (j h : Nat) : List Nat := ((List.range 32).map (fun i => 64 * j + 32 * h + i)).filter (fun i => decide (i < p.rows))

end Prod

/-- R88 step 2: the block factor of a half-sum for one operand: NaN where a scale code of it is 0xFF, one power of two, or
several scale blocks. -/
inductive HalfK where
  | nan
  | one (k : Int)
  | several (codes : List Nat)

def halfK (es : List LEl) : HalfK :=
  if es.any (fun e => e.code == some 255) then .nan
  else match es.filter (fun e => !e.made) with
    | [] => .one 0
    | e :: l => if l.all (fun f => f.code == e.code) then .one e.k else .several ((e :: l).map (fun f => f.code.getD 127))

/-- Scales a half-sum by one operand's factor where it is not a power of two. -/
def HalfK.other (h : HalfK) (a : AccV) : AccV :=
  match h with
  | .nan => ⟨.nan false, a.ov, a.uf⟩
  | .one _ => a
  | .several cs => ⟨ofPat (Config.mixedScale cs a.v.pat), a.ov, a.uf⟩
def HalfK.exp (h : HalfK) : Int := match h with | .one k => k | _ => 0

/-- R88 step 2: a half-sum multiplied by the product of the operands' block factors. -/
def scaleHalf (ka kb : HalfK) (a : AccV) : AccV := kb.other (ka.other (a.scale (ka.exp + kb.exp)))

/-- R88 steps 1 to 3: 64 values summed, the half-sums changed by the functions given. -/
def sumHalves (vs : List AccV) (f : Nat → AccV → AccV) : AccV :=
  match pairLevels AccV.add 5 vs with
  | [a, b] => AccV.add (f 0 a) (f 1 b)
  | l => l.headD ⟨.zero false, false, false⟩

def accOf (v : FVal) : AccV := ⟨v, false, false⟩

namespace Prod

/-- R88, R91: accumulator (m, n): slices ascending, passes in order; the first sum is written, later ones are added. -/
def accum (p : Prod) (m n : Nat) : AccV :=
  let sums := (List.range p.slices).flatMap (fun j => p.passes.map (fun ps =>
    sumHalves ((List.range 64).map (fun r => accOf (p.term ps m n (64 * j + r)))) (fun h =>
      scaleHalf (halfK ((p.movHalf j h).map (p.a m))) (halfK ((p.rowHalf j h).map (fun r => p.b r n))))))
  match sums with
  | [] => accOf (.zero false)
  | x :: l => l.foldl AccV.add x

/-- The integer an integer element is. -/
def intOf (e : LEl) : Int := e.v.at_ 0

/-- R87: accumulator (m, n) of an unscaled integer product, and whether it saturated. -/
def accumInt (p : Prod) (m n : Nat) : Int × Bool :=
  (List.range p.slices).foldl (fun (a : Int × Bool) j =>
    let x := (List.range 64).foldl (fun x r =>
      let q := 64 * j + r
      if q < p.rows then x + intOf (p.elemA m (p.moving q n)) * intOf (p.elemB q n) else x) (0 : Int)
    let y := satInt32 (a.1 + x)
    (y.1, a.2 || y.2)) (0, false)

end Prod

/-- An accumulator of an output block: floating, or INT32 with its saturation. -/
structure AccEl where
  f : AccV
  i : Int
  sat : Bool

/-- The accumulator, with what a fault of the hardware left in it, if anything. -/
def Prod.element (p : Prod) (m n : Nat) (fault : Option (BitVec 32)) : AccEl :=
  if p.int then
    let x := p.accumInt m n
    match fault with
    | some v => { f := accOf (.zero false), i := v.toInt, sat := false }
    | none => { f := accOf (.zero false), i := x.1, sat := x.2 }
  else
    match fault with
    | some v => { f := accOf (ofPat v), i := 0, sat := false }
    | none => { f := p.accum m n, i := 0, sat := false }

/-! ### The checksum (R127, R128) -/

/-- The pairwise tree of R88 step 1 in the accumulator's precision. -/
def accTree (l : List AccV) : AccV := (pairLevels AccV.add 6 l).headD (accOf (.zero false))

namespace Prod

/-- R127: a sum (or absolute sum) that the checksum column holds, over the columns from n0, of one part, block scales applied: of heddle
row q; of a 2:4 operand, of the values of q's group of four that stand at position j of it: each column has at most one, in one of the
group's two heddle rows (DEDUCED, log 33). -/
def rowsum (p : Prod) (pb : Nat) (abs : Bool) (n0 cols q : Nat) (j : Option Nat) : AccV :=
  let at_ := fun (c : Nat) => if j.isNone then some q else [2 * (q / 2), 2 * (q / 2) + 1].find? (fun r => p.pos r (n0 + c) == j)
  accTree ((List.range 64).map (fun c =>
    match if c < cols then at_ c else none with
    | some r =>
      let e := p.elemB r (n0 + c)
      let v := part pb e.v
      (halfK [e]).other ((AccV.hold (if abs then v.abs else v) false false).scale (halfK [e]).exp)
    | none => accOf (.zero false)))

/-- R127: what cell q of the checksum column adds to C (or to B): the moving element times the row sum; for a 2:4 operand, whose sums
stand two to a cell, the two products of positions 0 and 1 of the group in its even cell, of 2 and 3 in its odd one. -/
def chkTerm (p : Prod) (ps : Nat × Nat) (abs : Bool) (m n0 cols q : Nat) : AccV :=
  let one := fun (i : Nat) (j : Option Nat) =>
    let v := part ps.1 (p.elemA m i).v
    AccV.hold ((if abs then v.abs else v).mulExact (p.rowsum ps.2 abs n0 cols q j).v) false false
  if p.rows ≤ q then accOf (.zero false)
  else if p.sp then
    let j := 2 * (q % 2)
    AccV.add (one (4 * (q / 2) + j) (some j)) (one (4 * (q / 2) + j + 1) (some (j + 1)))
  else one q none

/-- R127: C, or B, of moving row m. -/
def chk (p : Prod) (abs : Bool) (m n0 cols : Nat) : AccV :=
  let sums := (List.range p.slices).flatMap (fun j => p.passes.map (fun ps =>
    sumHalves ((List.range 64).map (fun r => p.chkTerm ps abs m n0 cols (64 * j + r))) (fun h =>
      scaleHalf (halfK ((p.movHalf j h).map (p.a m))) (.one 0))))
  match sums with
  | [] => accOf (.zero false)
  | x :: l => l.foldl AccV.add x

/-- R127: the exact C of an integer row. -/
def chkInt (p : Prod) (m n0 cols : Nat) : Int :=
  (List.range p.rows).foldl (fun x q =>
    (List.range cols).foldl (fun x c => x + intOf (p.elemA m (p.moving q (n0 + c))) * intOf (p.elemB q (n0 + c))) x) 0

/-- R128: the tolerance: f × bracket × 2⁻²⁴ × B + 2⁻⁵⁰⁰. -/
def tolerance (p : Prod) (f : Nat) (b : FVal) : FVal :=
  let s := ceilDiv p.k 64
  let br := if p.aPair || p.bPair then 6 * s + 30 else 2 * s + 20
  ((FVal.ofInt (f * br : Nat)).mulExact ((FVal.fin false 1 (-24)).mulExact b)).addExact (.fin false 1 (-500))

end Prod

/-- R128: what a row's check gives: not checked, passed (floating: |C − T| and the tolerance), or failed. -/
inductive RowCheck where
  | skipped
  | passed (ratio : Option (FVal × FVal))
  | failed

/-- R128: the check of moving row m with its accumulators. -/
def Prod.checkRow (p : Prod) (f : Nat) (m n0 cols : Nat) (accs : List AccEl) : RowCheck :=
  if p.int then
    if accs.any (·.sat) then .skipped
    else if accs.foldl (fun a e => a + e.i) 0 = p.chkInt m n0 cols then .passed none else .failed
  else
    let c := (p.chk false m n0 cols).v
    if accs.any (fun e => !e.f.v.finite) || !c.finite then .skipped
    else
      let t := (accTree ((accs.map (fun e => accOf e.f.v)) ++ List.replicate (64 - accs.length) (accOf (.zero false)))).v
      let d := (c.addExact t.negate).abs
      let tol := p.tolerance f (p.chk true m n0 cols).v
      if d.ieeeLe tol then .passed (some (d, tol)) else .failed

/-- The FP32 quotient of two positive numbers, rounded to nearest even. -/
def divFp32 (a b : FVal) : FVal :=
  match a, b with
  | .fin _ m e, .fin _ l f =>
    let up := 30 + Nat.log2 l
    let q := (m <<< up) / l
    let st := if (m <<< up) % l = 0 then 0 else 1
    (FVal.fin false (2 * q + st) (e - f - up - 1)).r32
  | _, _ => .zero false

/-! ### Stationary operands -/

/-- A stationary operand as a matrix of heddle rows. -/
structure Stat where
  rows : Nat
  cols : Nat
  fmt : Nat
  scaled : Bool
  axis : Nat
  sp : Bool
  el : Nat → Nat → LEl
  pos : Nat → Nat → Option Nat

/-- R210: the position of stored row q of column n in a metadata tensor. -/
def posIn (o : Opnd) (s : Hw) (q n : Nat) : Nat := bits (o.raw s [(q / 4 : Nat), (n : Int)]) (2 * (q % 4)) 2

/-- A descriptor of rank 2 as a stationary operand, with its metadata descriptor if it is 2:4. -/
def statOf (s : Hw) (o : Opnd) (md : Opnd) : Stat :=
  { rows := Opnd.foldRows o.readShape, cols := Opnd.foldCols o.readShape, fmt := o.loomFmt, scaled := o.loomScaled, axis := o.axis,
    sp := o.sp24, el := o.loomMat s, pos := fun q n => if o.sp24 then some (posIn md s q n) else none }

/-- R104: slice j of a product's stationary operand over the columns from n0, as a heddle bank holds it: by heddle row and column, or in
transposed reading (R106) turned; of a compensated pair its high part, the last that is loaded (R91). -/
def Prod.bank (p : Prod) (fmt : Nat) (turned : Bool) (n0 cols j : Nat) : Heddle :=
  let rows := min 64 (p.rows - 64 * j)
  let cell := fun (q n : Nat) => if turned then n * 64 + q else q * 64 + n
  let cells := if turned then (List.range cols).flatMap (fun n => (List.range rows).map (fun q => (q, n)))
    else (List.range rows).flatMap (fun q => (List.range cols).map (fun n => (q, n)))
  let el := fun (c : Nat × Nat) => p.elemB (64 * j + c.1) (n0 + c.2)
  let f := if fmt = 0 then 1 else fmt
  { stream := 0, tag := 0, fmt := f, sp24 := p.sp, scaleAxis := if cells.any (fun c => (el c).code.isSome) then some 0 else none,
    rows := if turned then cols else rows, cols := if turned then rows else cols,
    elems := (cells.map (fun c => (cell c.1 c.2, (castElem f none false (Prod.part (if fmt = 0 then 1 else 0) (el c).v)).1))).filter (fun e => e.2 != 0),
    scales := (cells.filter (fun c => c.1 % 32 == 0)).filterMap (fun c => match (el c).code with
      | some k => if k = 0 then none else some (c.1 / 32 * 64 + c.2, k)
      | none => none),
    posn := if p.sp then (cells.map (fun c => (cell c.1 c.2, (p.pos (64 * j + c.1) (n0 + c.2)).getD 0))).filter (fun e => e.2 != 0) else [] }

/-- A pinned block as a stationary operand. -/
def Heddle.stat (h : Heddle) : Stat :=
  { rows := h.rows, cols := h.cols, fmt := h.fmt, scaled := h.scaleAxis.isSome, axis := h.scaleAxis.getD 0, sp := h.sp24,
    el := fun q n => LEl.of h.fmt (Sparse.get 0 h.elems (q * 64 + n)) (h.scaleAxis.map (fun ax =>
      Sparse.get 0 h.scales (if ax = 0 then q / 32 * 64 + n else q * 64 + n / 32))),
    pos := fun q n => if h.sp24 then some (Sparse.get 0 h.posn (q * 64 + n)) else none }

/-- R106: an operand in transposed reading. -/
def Stat.transposed (b : Stat) : Stat :=
  { rows := b.cols, cols := b.rows, fmt := b.fmt, scaled := b.scaled, axis := 1 - b.axis, sp := b.sp, el := fun q n => b.el n q, pos := fun _ _ => none }

/-- R109: what a heddle load keeps of a block: stash elements as they were expanded. -/
def heddleOf (s : Hw) (o md : Opnd) (stream tag : Nat) : Heddle :=
  let rows := Opnd.foldRows o.readShape
  let cols := Opnd.foldCols o.readShape
  let cells := (List.range rows).flatMap (fun q => (List.range cols).map (fun n => (q, n)))
  let pat := fun (q n : Nat) =>
    if Desc.stash o.img && o.scaled then (encodeFloat 1 none false (o.loomMat s q n).v).1 else o.raw s (Desc.coreOf o.img [q, n])
  let keep := fun (f : Nat → Nat → Nat) (key : Nat → Nat → Nat) => cells.foldl (fun m c => Sparse.put 0 m (key c.1 c.2) (f c.1 c.2)) []
  { stream := stream, tag := tag, fmt := o.loomFmt, sp24 := o.sp24, scaleAxis := if o.loomScaled then some o.axis else none,
    rows := rows, cols := cols, elems := keep pat (fun q n => q * 64 + n),
    scales := if o.loomScaled then
        keep (fun q n => o.code s (Desc.coreOf o.img [q, n])) (fun q n => if o.axis = 0 then q / 32 * 64 + n else q * 64 + n / 32)
      else [],
    posn := if o.sp24 then keep (posIn md s) (fun q n => q * 64 + n) else [] }

/-! ### Format checks (R81, R84, R106, R126) -/

/-- R84: a format a product multiplies. -/
def fmtLoom (f : Nat) : Bool := f ≤ 9

/-- R84: the classes of a moving format and a stationary one, each scaled or not, agree. -/
def classOk (fa : Nat) (sa : Bool) (fb : Nat) (sb : Bool) : Bool :=
  fmtLoom fa && fmtLoom fb && fmtInt fa == fmtInt fb && (!(sa || sb) || !fmtInt fa || (fa == 6 && fb == 6))

/-- R84, R88: the product accumulates in INT32: unscaled integers. -/
def intProduct (fa : Nat) (sa sb : Bool) : Bool := fmtInt fa && !sa && !sb

/-- R124, R126, R210: the metadata descriptor of a 2:4 operand: STRIDED UINT8, unscaled, of the shape R210 gives. -/
def metaOk (o md : Opnd) : Bool :=
  !md.crow && !md.sp24 && md.fmt == 7 && !md.scaled &&
  md.writeShape == [ceilDiv (nth 0 o.readShape 0) 4, nth 0 o.readShape 1]

/-- R124, R126: the positions of every group ascend. -/
def groupsOk (s : Hw) (o md : Opnd) : Bool :=
  (List.range (nth 0 o.readShape 1)).all (fun n => (List.range (nth 0 o.readShape 0 / 2)).all (fun g =>
    decide (posIn md s (2 * g) n < posIn md s (2 * g + 1) n)))

end Sys2Proof.Machine
end

