-- ==== Sys2Proof/Machine/Spmm.lean ====
section
/-!
DEFINITION. Sparse products (R144 to R151): the path of a panel, the merge lanes, and the loom's product for a panel.
-/
namespace Sys2Proof.Machine

/-- R147: the path of a panel: 0 dense, 1 condensed, 2 merge, 3 hybrid. -/
def pathOf (x : Cmd) (p : Panel) : Nat :=
  if p.dense then 0
  else match Com.mode x.w 13 3 with
    | 1 => 0
    | 2 => 1
    | 3 => 2
    | 4 => 3
    | _ =>
      if p.st.dens ≤ bits x.latched 8 8 && p.st.nnz < 64 * ceilDiv p.st.union 64 then 2
      else if p.st.ucode ≤ bits x.latched 0 8 then 1
      else if ceilDiv (256 * p.st.peel) p.cols ≤ bits x.latched 16 8 && 64 * ceilDiv p.st.heavyNnz 64 + 32 < 64 * ceilDiv p.cols 64 then 3
      else 0

/-- A row cut into runs of n. -/
def cut {α : Type} (n : Nat) (l : List α) : List (List α) := (List.range (ceilDiv l.length n)).map (fun i => (l.drop (i * n)).take n)

/-- R149: the pieces of a row of a merge panel. -/
def mergePieces (x : Cmd) (p : Panel) (r : Nat) : List (List (Nat × Nat)) :=
  let l := nth [] p.data r
  let f := bits x.latched 32 4
  let mu := ceilDiv p.st.nnz p.rows
  if l.isEmpty then [] else if f ≠ 0 && f * mu < l.length then cut (max mu (ceilDiv l.length 64)) l else [l]

/-- R150: the pieces of a hybrid panel's heavy row. -/
def heavyPieces (p : Panel) : List (List (Nat × Nat)) := cut (ceilDiv p.st.heavyNnz 64) (nth [] p.data p.st.heavyRow)

/-- R150: rows of a panel that are split. -/
def splitRows (x : Cmd) (p : Panel) : Nat :=
  match pathOf x p with
  | 2 => ((List.range p.rows).filter (fun r => 1 < (mergePieces x p r).length)).length
  | 3 => if 1 < (heavyPieces p).length then 1 else 0
  | _ => 0

/-- The first of a list combined with the rest. -/
def sumFirst {α : Type} (add : α → α → α) (d : α) : List α → α
  | [] => d
  | a :: l => l.foldl add a

/-- R87, R146: a saturating INT32 addition with the saturation met so far. -/
def addSat (a b : Int × Bool) : Int × Bool := let r := satInt32 (a.1 + b.1); (r.1, a.2 || b.2 || r.2)

/-- R145, R146, R150: the merge lanes' sum of a row's pieces against a column of B: FP32, or INT32 for an integer panel with
whether it saturated. -/
def mergeSum (fmt : Nat) (pieces : List (List (Nat × Nat))) (b : Nat → FVal) : FVal × Bool :=
  if fmtInt fmt then
    let one := fun (e : Nat × Nat) => satInt32 ((decodeElem fmt e.2).at_ 0 * (b e.1).at_ 0)
    let r := sumFirst addSat (0, false) (pieces.map (fun l => sumFirst addSat (0, false) (l.map one)))
    (FVal.ofInt r.1, r.2)
  else
    (sumFirst fadd (.zero false) (pieces.map (fun l => sumFirst fadd (.zero false) (l.map (fun e => fmul (decodeElem fmt e.2) (b e.1))))), false)

/-- R82, R87: an integer result on its way to its destination: exact for an unscaled integer format, else rounded to FP32, from which R82
quantises too. DEDUCED, log 76. -/
def intResult (o : Opnd) (v : FVal) : FVal := if fmtInt o.fmt && !o.scaled then v else v.r32

/-- Element (k, n) of B. -/
def spmmB (s : Hw) (x : Cmd) (k n : Nat) : FVal := decodeElem (x.o 1).fmt ((x.o 1).raw s (Desc.coreOf (x.o 1).img [k, n]))

/-- R145: the columns that a panel's loom product runs over. -/
def loomColumns (x : Cmd) (p : Panel) : List Nat :=
  match pathOf x p with
  | 1 => sortedUnion (p.data.flatMap (fun r => r.map (·.1)))
  | 3 => sortedUnion ((((List.range p.rows).zip p.data).filter (fun e => e.1 != p.st.heavyRow)).flatMap (fun e => e.2.map (·.1)))
  | _ => List.range p.cols

/-- R145: the loom's product for a panel. -/
def spmmProd (s : Hw) (x : Cmd) (p : Panel) : Prod :=
  let cols := loomColumns x p
  { m := p.rows, n := Desc.size (x.o 2).img 1, k := cols.length, rows := cols.length,
    a := fun m i =>
      match (nth [] p.data m).find? (fun e => e.1 == nth 0 cols i) with
      | some e => LEl.of p.fmt e.2 none
      | none => LEl.zero,
    b := fun q n => { v := spmmB s x (nth 0 cols q) n, code := none, k := 0 },
    pos := fun _ _ => none, int := fmtInt p.fmt, aPair := false, bPair := false }

/-- R144: the conditions on SPMM's operands. -/
def spmmCheck (x : Cmd) : Nat :=
  let a := x.o 0
  let b := x.o 1
  let c := x.o 2
  if !a.crow then St.format
  else if b.scaled || c.fmt = 10 || (if fmtInt a.fmt then !fmtInt b.fmt else !([1, 2, 3, 4].contains b.fmt)) then St.format
  else if b.rank ≠ 2 || c.rank ≠ 2 then St.shape
  else if Desc.stride b.img 1 ≠ 1 then St.shape
  else if nth 0 b.readShape 0 ≠ Desc.size a.img 1 || c.writeShape ≠ [Desc.size a.img 0, nth 0 b.readShape 1] then St.shape
  else St.ok

end Sys2Proof.Machine
end

