-- ==== Sys2Proof/Machine/Flit.lean ====
section
/-!
DEFINITION. Flits and records of the links (R359 to R368, R375, R379): their bytes, their routes, and how data are cut into
flits.
-/
namespace Sys2Proof.Machine

/-! ### Atoms of a flit (R359, R379) -/

/-- The bytes of a flit's atoms, 128 each; bytes outside the valid ones are free (DESIGN CHOICE, log 40). -/
def Flit.atomBytes (f : Flit) : List (List Byte) :=
  let fill := fun (from_ n : Nat) => (List.range n).map (fun i => Config.flitFill (from_ + i))
  let m := f.off + f.data.length
  cut 128 (fill 0 f.off ++ f.data ++ fill m (ceilDiv m 128 * 128 - m))

/-- R379: an atom's elided form: its bitmap, then its non-zero elements, padded to a multiple of 8 B. -/
def elidedForm (ew : Nat) (a : List Byte) : List Byte :=
  let els := cut ew a
  let on := els.map (fun e => e.any (fun b => b != 0))
  let body := ((els.zip on).filter (·.2)).flatMap (·.1)
  let map := maskOf ((List.range els.length).filter (fun i => nth false on i))
  toBytes (128 / ew / 8) map ++ body ++ List.replicate (roundUp body.length 8 - body.length) 0

/-- R379: an atom travels elided if its format has 8 or 16 bits, it holds no dross, and that saves an eighth of 144 B. -/
def elides (ew : Nat) (dross : Bool) (a : List Byte) : Bool := ew != 0 && !dross && decide ((elidedForm ew a).length ≤ 120)

/-- An atom's place in the data area: elided, or 128 B of data and 16 check bytes (R300, R302). -/
def atomArea (ew : Nat) (dross : Bool) (a : List Byte) : List Byte :=
  if elides ew dross a then elidedForm ew a
  else a ++ (cut 8 a).map (fun w => BitVec.ofNat 8 (if dross then 255 - checkByte (ofBytes w) else checkByte (ofBytes w)))

/-- R379: the ELIDE map of a flit. -/
def Flit.elide (f : Flit) : Nat :=
  maskOf ((List.range f.atomBytes.length).filter (fun i => elides f.ew (bit f.dross i) (nth [] f.atomBytes i)))

/-- Flits that carry data as atoms; a long control message carries its message, a read request nothing. -/
def Flit.hasAtoms (f : Flit) : Bool := f.cls != 1 && f.kind != 1

/-- R359: the data area; bytes that no atom or message fills are free (DESIGN CHOICE, log 40). -/
def Flit.area (f : Flit) : List Byte :=
  let body :=
    if f.hasAtoms then ((List.range f.atomBytes.length).map (fun i => atomArea f.ew (bit f.dross i) (nth [] f.atomBytes i))).flatten
    else f.data
  (body ++ (List.range (1152 - body.length)).map (fun i => Config.flitFill (2048 + i))).take 1152

/-- What a sender says in every flit of its own state (R359). -/
structure LinkSays where
  seq : Nat
  ack : Nat
  nready : Bool
  nack : Bool
  hold : Bool
  credits : Nat

/-- R359: bytes 0 to 47.  A read request of compressed row data sets bit 0 of ELIDE (DESIGN CHOICE, log 86). -/
def Flit.header (f : Flit) (y : LinkSays) : List Byte :=
  let one := fun (b : Bool) => if b then 1 else 0
  toBytes 2 y.seq ++ toBytes 2 y.ack ++
    toBytes 1 (f.cls + (one y.nready <<< 2) + (one y.nack <<< 3) + (one f.drossForm <<< 4) + (one y.hold <<< 5)) ++ toBytes 1 f.kind ++
    toBytes 1 (if f.hasAtoms then f.atomBytes.length else 0) ++ toBytes 1 f.hops ++ toBytes 8 f.addr ++ toBytes 2 f.stream ++
    toBytes 2 f.job ++ toBytes 2 f.src ++ toBytes 2 y.credits ++ toBytes 4 f.xfer ++ toBytes 2 f.off ++ toBytes 2 f.len ++
    toBytes 2 (if f.hasAtoms then f.elide else if f.crow then 1 else 0) ++ toBytes 1 f.ew ++ toBytes 13 0

/-- R359, R361, R381: the 1,280 bytes on the wire. -/
def Flit.bytes (f : Flit) (y : LinkSays) (recs : List (BitVec 128)) : List Byte :=
  let h := f.header y
  let ctl := (recs.take 5).flatMap (fun r => toBytes 16 r.toNat) ++ List.replicate (80 - 16 * min 5 recs.length) 0
  h ++ ctl ++ (if f.drossForm then (List.replicate 10 h).flatten ++ List.replicate 32 0 ++ (List.replicate 13 h).flatten ++ List.replicate 16 0
    else f.area)

def Flit.idle : Flit :=
  { cls := 0, kind := 0, hops := 0, addr := 0, stream := 0, job := 0, src := 0, dst := 0, xfer := 0, off := 0, len := 0, ew := 0, data := [],
    dross := 0, drossForm := false }

/-! ### Reading a flit -/

/-- R359: the reserved fields of a header are zero. -/
def headerZero (w : Nat) : Bool :=
  bits w 38 2 == 0 && bits w 53 3 == 0 && bits w 61 3 == 0 && bits w 156 4 == 0 && bits w 172 4 == 0 && bits w 231 9 == 0 &&
  bits w 252 4 == 0 && bits w 274 6 == 0 && bits w 280 104 == 0

/-- The atoms of a data area: what is left of the area, the atoms left to read, and their number. -/
def readAtoms (ew elide : Nat) : Nat → Nat → List Byte → List (List Byte × Bool)
  | 0, _, _ => []
  | n + 1, i, bs =>
    if bit elide i && ew ≠ 0 then
      let m := 128 / ew / 8
      let map := ofBytes (bs.take m)
      let els := (List.range (128 / ew)).foldl (fun (r : List Byte × Nat) k =>
        if bit map k then (r.1 ++ ((bs.drop (m + r.2)).take ew), r.2 + ew) else (r.1 ++ List.replicate ew 0, r.2)) ([], 0)
      (els.1, false) :: readAtoms ew elide n (i + 1) (bs.drop (m + roundUp els.2 8))
    else
      let data := bs.take 128
      let ws := (cut 8 data).zip ((bs.drop 128).take 16)
      let syn := ws.map (fun p => readSyndrome ((checkByte (ofBytes p.1)) ^^^ p.2.toNat))
      let bad := syn.any (fun y => y == Syndrome.dross || y == Syndrome.uncorrectable)
      let good := (ws.zip syn).flatMap (fun p => toBytes 8 (correctedWord (ofBytes p.1.1) p.2))
      (good, bad) :: readAtoms ew elide n (i + 1) (bs.drop 144)

/-- A flit from its header (as a number) and its data area. -/
def flitOf (me : Nat) (w : Nat) (area : List Byte) : Flit :=
  let cls := bits w 32 2
  let kind := bits w 40 8
  let addr := bits w 64 64
  let src := bits w 160 12
  let off := bits w 224 7
  let len := bits w 240 12
  let ew := bits w 272 2
  let form := bit w 36
  let at_ := if cls = 1 || kind = 1 || form then [] else readAtoms (if ew = 1 then 1 else if ew = 2 then 2 else 0) (bits w 256 16) (bits w 48 5) 0 area
  { cls := cls, kind := kind, hops := if cls = 1 then bits addr 24 5 else bits w 56 5, addr := addr, stream := bits w 128 16, job := bits w 144 12,
    src := if cls = 1 then bits addr 12 12 else src,
    dst := if cls = 1 then bits addr 0 12 else if kind = 2 then src else if kind = 3 then me else bits addr 52 12,
    xfer := bits w 192 32, off := off, len := len, ew := ew,
    data := if cls = 1 then area else ((at_.flatMap (·.1)).drop off).take len,
    dross := if form then (1 <<< 17) - 1 else maskOf ((List.range at_.length).filter (fun i => (nth ([], false) at_ i).2)),
    drossForm := form, crow := kind == 1 && cls != 1 && bit w 256 }

/-! ### Routes (R364, R366, R367) -/

/-- R71: a link's partner is of this module's beat group, which the module has not left. -/
def Hw.groupShared (s : Hw) (l : Nat) : Bool :=
  let g := s.fget F.BEAT_GROUP_GROUP_ID
  !s.beat.outside && g != 0xFFF && (s.getLink l).identity.any (fun i => i.2.1 == g)

/-- A flit leaves for its module: over the link the hash picks among the usable ones; scheduled data waits there for its stream's
slot while the partner is in the module's beat group in FULL service, and travels as dynamic class otherwise (R54, R71). -/
def Hw.sendFlit (s : Hw) (f : Flit) (sched : Bool) : Hw :=
  match s.routeOf f.dst f.xfer f.addr with
  | some l =>
    let x := s.getLink l
    if f.cls = 1 then s.setLink l { x with long := x.long ++ [f] }
    else if sched && s.level == 2 && s.groupShared l then s.setLink l { x with sched := x.sched ++ [{ f with cls := 2 }] }
    else s.setLink l { x with dyn := x.dyn ++ [{ f with cls := 3 }] }
  | none =>
    let f' := if f.cls = 1 then f else { f with cls := 3 }
    { s with lnk := { s.lnk with noRoute := s.lnk.noRoute ++ [(f', s.beatNo, none)] } }

/-- R366: traffic that waits for a route is routed again; what waits for one link goes when that link is admitted. -/
def Hw.routeWaiting (s : Hw) : Hw :=
  let ready := fun (dst : Nat) (pin : Option Nat) => match pin with
    | some l => s.linkUp l
    | none => !(s.routeLinks dst).isEmpty
  let fl := s.lnk.noRoute.filter (fun e => ready e.1.dst e.2.2)
  let rc := s.lnk.noRouteRec.filter (fun e => ready e.2.1 e.2.2.2)
  let s1 : Hw := { s with lnk := { s.lnk with
    noRoute := s.lnk.noRoute.filter (fun e => !ready e.1.dst e.2.2), noRouteRec := s.lnk.noRouteRec.filter (fun e => !ready e.2.1 e.2.2.2) } }
  let s2 := fl.foldl (fun s e => match e.2.2 with
    | some l =>
      let x := s.getLink l
      if e.1.cls = 1 then s.setLink l { x with long := x.long ++ [e.1] } else s.setLink l { x with dyn := x.dyn ++ [e.1] }
    | none => s.sendFlit e.1 false) s1
  rc.foldl (fun s e => match e.2.2.2 with
    | some l => s.sendRecord l e.1
    | none => s.routeRecord e.2.1 e.1) s2

/-- R361: the refusal record for a flit or record of module src: reason, XFER. -/
def refusalBody (xfer reason : Nat) : Nat := xfer % (1 <<< 32) + ((reason % 256) <<< 32)

/-- R362: sends a long control message. -/
def Hw.sendLong (s : Hw) (dst kind : Nat) (msg : List Byte) : Hw :=
  let f : Flit := { Flit.idle with
    cls := 1, kind := kind, hops := 16, addr := dst + (s.me <<< 12) + (16 <<< 24), src := s.me, dst := dst, data := msg, len := msg.length }
  s.sendFlit f false

/-! ### Cutting data into flits (R359, R369, R379) -/

/-- The contiguous runs of a rising list of bytes. -/
def runsOf : Sparse Byte → List (Nat × List Byte)
  | [] => []
  | (a, b) :: l =>
    match runsOf l with
    | (c, bs) :: r => if c = a + 1 then (a, b :: bs) :: r else (a, [b]) :: (c, bs) :: r
    | [] => [(a, [b])]

/-- How many bytes of a run, from address a on, one flit takes: whole atoms, at most 16 and 1,152 B of data area. -/
def flitTake (ew : Nat) (dross : Nat → Bool) (a : Nat) (bs : List Byte) : Nat :=
  let at_ := ({ Flit.idle with off := a % 128, data := bs.take 2048 } : Flit).atomBytes.take 16
  let r := (List.range at_.length).foldl (fun (r : Nat × Nat × Bool) i =>
    let n := (atomArea ew (dross (a / 128 + i)) (nth [] at_ i)).length
    if r.2.2 && r.1 + n ≤ 1152 then (r.1 + n, i + 1, true) else (r.1, r.2.1, false)) (0, 0, true)
  min bs.length (r.2.1 * 128 - a % 128)

/-- A run cut into flits: address and bytes of each.  The fuel is the run's length. -/
def cutRun (ew : Nat) (dross : Nat → Bool) : Nat → Nat → List Byte → List (Nat × List Byte)
  | 0, _, _ => []
  | n + 1, a, bs =>
    if bs.isEmpty then []
    else
      let k := max 1 (flitTake ew dross a bs)
      (a, bs.take k) :: cutRun ew dross n (a + k) (bs.drop k)

/-- R379: the element width for elision of a format, while elision is enabled. -/
def Hw.elisionWidth (s : Hw) (fmt : Nat) : Nat :=
  if !s.flag F.LNK_CTL_ELIDE then 0 else match fmtBits fmt with | 8 => 1 | 16 => 2 | _ => 0

/-- The dross mask of the atoms from an address on. -/
def drossMask (dross : Nat → Bool) (a n : Nat) : Nat :=
  maskOf ((List.range (ceilDiv (a % 128 + n) 128)).filter (fun i => dross (a / 128 + i)))

end Sys2Proof.Machine
end

