-- ==== Sys2Proof/Machine/Loom.lean ====
section
/-!
DEFINITION. The looms (R104 to R134): MM, MM2, CONV and HEDDLE.LOAD, SPMM's panels on the looms, output blocks from their drain
to their release, and the checksum repeat (R129, R311, R312).
-/
namespace Sys2Proof.Machine

/-! ### The window expander (R118 to R121, R241) -/

/-- A window word. -/
structure Win where
  k : Nat
  stride : Nat
  dil : Nat
  indil : Nat
  lo : Nat
  hi : Nat

def winOf (v : Nat) : Win :=
  { k := bits v 0 3, stride := bits v 3 4 + 1, dil := bits v 7 4 + 1, indil := bits v 11 3 + 1, lo := bits v 14 7, hi := bits v 21 7 }

/-- The windows of a CONV, or of an MM2 with XWIN. -/
def winsOf (w : Record64) : List Win := (List.range (Com.mode w 10 2)).map (fun j => winOf (Com.param w j))

/-- R119: the output extent over an input extent; 0 or less where no position fits. -/
def Win.extent (v : Win) (d : Nat) : Int :=
  (((v.indil * (d - 1) + 1 + v.lo + v.hi : Nat) : Int) - (v.dil * (v.k - 1) : Nat) - 1).fdiv v.stride + 1

/-- An input of the window expander: batches, spatial extents, channels. -/
structure WinIn where
  o : Opnd
  wins : List Win
  flip : Bool

namespace WinIn

def d (v : WinIn) : Nat := v.wins.length
def batched (v : WinIn) : Bool := v.o.rank == v.d + 2
def shape (v : WinIn) : List Nat := v.o.readShape
def batch (v : WinIn) : List Nat := if v.batched then v.shape.take 1 else []
def space (v : WinIn) : List Nat := (v.shape.drop v.batch.length).dropLast
def chans (v : WinIn) : Nat := v.shape.getLastD 1
/-- R119: the output extents. -/
def out (v : WinIn) : List Int := (v.wins.zip v.space).map (fun p => p.1.extent p.2)
def outN (v : WinIn) : List Nat := v.out.map Int.toNat
/-- R121: taps, and the contraction length. -/
def kernel (v : WinIn) : List Nat := v.wins.map (·.k)
def depth (v : WinIn) : Nat := volume v.kernel * v.chans
/-- Output positions. -/
def positions (v : WinIn) : Nat := volume v.batch * volume v.outN

/-- R119 to R121: element k of the moving row of output position m. -/
def elem (v : WinIn) (s : Hw) (m k : Nat) : LEl :=
  let pos := unlinear (v.batch ++ v.outN) m
  let o := pos.drop v.batch.length
  let t := unlinear v.kernel (k / v.chans)
  let p := ((v.wins.zip o).zip t).map (fun q =>
    let w := q.1.1
    let tt := if v.flip then w.k - 1 - q.2 else q.2
    ((q.1.2 * w.stride + tt * w.dil : Nat) : Int) - w.lo)
  let outside := ((v.wins.zip v.space).zip p).any (fun q => decide (q.2 < 0) || decide (((q.1.1.indil * (q.1.2 - 1) : Nat) : Int) < q.2))
  let implied := (v.wins.zip p).any (fun q => q.2 % q.1.indil != 0)
  if outside then { v := v.o.padValue, code := none, k := 0, made := true }
  else if implied then LEl.zero
  else v.o.loomRead s (pos.take v.batch.length ++ (v.wins.zip p).map (fun q => (q.2 / q.1.indil).toNat) ++ [k % v.chans])

/-- R118: the ranks of the input fit the window. -/
def rankOk (v : WinIn) : Bool := v.o.rank == v.d + 1 || v.o.rank == v.d + 2

end WinIn

/-- The window input of a command. -/
def winIn (x : Cmd) (i : Nat) : WinIn :=
  { o := x.o i, wins := winsOf x.w, flip := Com.modeBit x.w 12 }

/-! ### Looms of a command, and its stationary operands -/

/-- The looms of a LOOMS field: false for loom A. -/
def loomsOf (f : Nat) : List Bool := match f with | 0 => [false] | 1 => [true] | _ => [false, true]

def loomNo (b : Bool) : Nat := if b then 1 else 0

/-- R109: the block pinned in a loom of a tile. -/
def Hw.heddle (s : Hw) (t : Nat) (b : Bool) : Option Heddle := Sparse.find? (s.getTile t).fs.heddles (loomNo b)

/-- The pin tag that a command names. -/
def pinTag (w : Record64) : Nat := (if Com.opcode w = 0x12 then Com.param w 3 else Com.param w 0) % 65536

/-- R121: a weight [K₁ … K_d][C_in][C_out] as a matrix in the contraction order; with TB, [K₁ … K_d][C_out][C_in]. -/
def convStat (s : Hw) (x : Cmd) : Stat :=
  let o := x.o 1
  if o.sp24 then statOf s o (x.o 3)
  else
    let sh := o.readShape
    let taps := volume (sh.dropLast.dropLast)
    let u := nth 0 sh (o.rank - 2)
    let v := nth 0 sh (o.rank - 1)
    let tb := Com.modeBit x.w 6
    { rows := taps * (if tb then v else u), cols := if tb then u else v, fmt := o.loomFmt, scaled := o.loomScaled,
      axis := if o.axis + 2 = o.rank then 0 else 1, sp := false,
      el := fun q n =>
        let c := if tb then v else u
        o.loomRead s (unlinear sh.dropLast.dropLast (q / c) ++ (if tb then [n, q % c] else [q % c, n])),
      pos := fun _ _ => none }

/-- The stationary operand of MM or CONV on a loom, as the product reads it: heddle rows along the contraction. -/
def stationary (s : Hw) (x : Cmd) (b : Bool) : Stat :=
  let st :=
    if Com.modeBit x.w 9 then
      match s.heddle x.t b with
      | some h => if Com.modeBit x.w 6 then h.stat.transposed else h.stat
      | none => Heddle.stat { stream := 0, tag := 0, fmt := 1, sp24 := false, scaleAxis := none, rows := 0, cols := 0, elems := [], scales := [], posn := [] }
    else if Com.opcode x.w = 0x12 then convStat s x
    else
      let st := statOf s (x.o 1) (x.o 3)
      if Com.modeBit x.w 6 then st.transposed else st
  st

/-- R109: every named loom holds a block pinned by the stream under the tag. -/
def Hw.pinsHeld (s : Hw) (x : Cmd) : Bool :=
  (loomsOf (Com.mode x.w 7 2)).all (fun b => match s.heddle x.t b with
    | some h => h.stream == x.n && h.tag == pinTag x.w
    | none => false)

/-! ### Checks (R81, R84, R106, R109, R111, R114, R116, R119, R126) -/

/-- The 2:4 metadata of the stationary descriptor at position i is present exactly when it is SP24, and fits it. -/
def metaCheck (s : Hw) (x : Cmd) (i m : Nat) : Bool :=
  if x.has i && (x.o i).sp24 then x.has m && metaOk (x.o i) (x.o m) && groupsOk s (x.o i) (x.o m) else !x.has m

/-- R81, R84, R106, R126: the formats of a moving operand (format, scaled, scaled along the contraction) and a stationary one. -/
def productOk (fa : Nat) (sa alongA : Bool) (st : Stat) (transposed : Bool) : Bool :=
  classOk fa sa st.fmt st.scaled && (!sa || alongA) && (!st.scaled || (!transposed && st.axis == 0)) &&
    (!st.sp || (!transposed && fa != 0 && st.fmt != 0))

/-- R124: heddle rows of a contraction of length k. -/
def heddleRows (sp : Bool) (k : Nat) : Nat := if sp then 2 * ceilDiv k 4 else k

/-- R111: an ACC destination is FP32. -/
def accOk (o : Opnd) (acc : Bool) : Bool := !acc || (o.fmt == 0 && !o.scaled)

/-- R114: M and K of MM's moving operand. -/
def mmMK (x : Cmd) : Nat × Nat :=
  let sh := (x.o 0).readShape
  if Com.modeBit x.w 5 then (nth 0 sh 1, nth 0 sh 0) else (Opnd.foldRows sh, Opnd.foldCols sh)

/-- R114, R78, R81: the status that keeps an MM from being executed; an E8M0 destination is none (DEDUCED, log 78). -/
def mmCheck (s : Hw) (x : Cmd) : Nat :=
  let a := x.o 0
  let c := x.o 2
  let ta := Com.modeBit x.w 5
  let tb := Com.modeBit x.w 6
  let pinned := Com.modeBit x.w 9
  if a.rank < 2 || (ta && a.rank ≠ 2) || c.rank < 2 || (!pinned && (x.o 1).rank ≠ 2) then St.shape
  else if pinned && !s.pinsHeld x then St.heddle
  else
    let sts := (loomsOf (Com.mode x.w 7 2)).map (stationary s x)
    let along := a.axis == (if ta then 0 else a.rank - 1)
    if c.fmt = 10 || !accOk c (Com.modeBit x.w 4) || !metaCheck s x 1 3 || (tb && x.has 1 && (x.o 1).sp24) ||
        !sts.all (fun st => productOk a.loomFmt a.loomScaled along st tb) then St.format
    else
      let mk := mmMK x
      if Opnd.foldRows c.writeShape ≠ mk.1 || !sts.all (fun st => st.rows == heddleRows st.sp mk.2 && st.cols == Opnd.foldCols c.writeShape) then St.shape
      else St.ok

def convCheck (s : Hw) (x : Cmd) : Nat :=
  let v := winIn x 0
  let y := x.o 2
  let tb := Com.modeBit x.w 6
  let pinned := Com.modeBit x.w 9
  if !v.rankOk || y.rank ≠ v.o.rank || (!pinned && !((x.o 1).sp24 && (x.o 1).rank == 2) && (x.o 1).rank ≠ v.d + 2) then St.shape
  else if pinned && !s.pinsHeld x then St.heddle
  else
    let sts := (loomsOf (Com.mode x.w 7 2)).map (stationary s x)
    if y.fmt = 10 || !accOk y (Com.modeBit x.w 4) || !metaCheck s x 1 3 || (tb && x.has 1 && (x.o 1).sp24) ||
        !sts.all (fun st => productOk v.o.loomFmt v.o.loomScaled (v.o.axis + 1 == v.o.rank) st tb) then St.format
    else if v.out.any (fun e => decide (e < 1)) || y.writeShape ≠ v.batch ++ v.outN ++ [y.writeShape.getLastD 1] then St.shape
    else if !pinned && !(x.o 1).sp24 && (x.o 1).readShape.dropLast.dropLast ≠ v.kernel then St.shape
    else if !sts.all (fun st => st.rows == heddleRows st.sp v.depth && st.cols == Opnd.foldCols y.writeShape) then St.shape
    else St.ok

/-- R116, R123: MM2's sizes: M, N and K. -/
def mm2MNK (x : Cmd) : Nat × Nat × Nat :=
  let dy := (x.o 0).readShape
  (Opnd.foldRows dy, Opnd.foldCols dy, if Com.modeBit x.w 13 then (winIn x 2).depth else Opnd.foldCols (x.o 2).readShape)

/-- R81, R116, R123: the status that keeps an MM2 from being executed.  Of a block-scaled X only one of rank 2, scaled along its rows and
without a window, is taken (DEDUCED, log 77). -/
def mm2Check (_s : Hw) (x : Cmd) : Nat :=
  let dy := x.o 0
  let w := x.o 1
  let xx := x.o 2
  let win := Com.modeBit x.w 13
  if x.named.any (fun p => decide (p.2.rank < 2)) || (win && !(winIn x 2).rankOk) then St.shape
  else if !classOk dy.loomFmt dy.loomScaled w.loomFmt w.loomScaled || !classOk dy.loomFmt dy.loomScaled xx.loomFmt xx.loomScaled ||
      dy.loomScaled || w.loomScaled || (xx.loomScaled && (win || xx.axis ≠ 0 || xx.rank ≠ 2)) || (x.o 3).fmt = 10 || (x.o 4).fmt = 10 ||
      !accOk (x.o 4) (Com.modeBit x.w 4) then St.format
  else
    let z := mm2MNK x
    let xRows := if win then (winIn x 2).positions else Opnd.foldRows xx.readShape
    if 64 < z.2.1 || (win && (winIn x 2).out.any (fun e => decide (e < 1))) || xRows ≠ z.1 ||
        Opnd.foldRows w.readShape ≠ z.2.2 || Opnd.foldCols w.readShape ≠ z.2.1 ||
        Opnd.foldRows (x.o 3).writeShape ≠ z.1 || Opnd.foldCols (x.o 3).writeShape ≠ z.2.2 ||
        Opnd.foldRows (x.o 4).writeShape ≠ z.2.2 || Opnd.foldCols (x.o 4).writeShape ≠ z.2.1 then St.shape
    else St.ok

/-- R109, R240: the block of HEDDLE.LOAD is at most 64 × 64. -/
def heddleCheck (s : Hw) (x : Cmd) : Nat :=
  let o := x.o 0
  if o.rank ≠ 2 || o.readShape.any (fun n => decide (64 < n)) || (o.sp24 && nth 0 o.readShape 0 % 2 = 1) then St.shape
  else if !fmtLoom o.loomFmt || !metaCheck s x 0 1 || (o.sp24 && o.fmt = 0) then St.format
  else St.ok

/-! ### Output blocks -/

/-- An output block: its product, its rows and columns there, its destination, and for a hybrid panel the row that the merge
lanes give. -/
structure Block where
  p : Prod
  m0 : Nat
  mb : Nat
  n0 : Nat
  nb : Nat
  dst : Nat
  acc : Bool
  idx : Nat → Nat → List Nat
  heavy : Option (Nat × (Nat → FVal × Bool))

/-- R114: block number `index` of a product in row-major block order. -/
def cutBlock (p : Prod) (index dst : Nat) (acc : Bool) (idx : Nat → Nat → List Nat) : Block :=
  let nbk := ceilDiv p.n 64
  let m0 := 64 * (index / nbk)
  let n0 := 64 * (index % nbk)
  { p := p, m0 := m0, mb := min 64 (p.m - m0), n0 := n0, nb := min 64 (p.n - n0), dst := dst, acc := acc, idx := idx, heavy := none }

/-- A product of a moving operand with a stationary one. -/
def prodOf (m n k : Nat) (fa : Nat) (sa : Bool) (a : Nat → Nat → LEl) (st : Stat) : Prod :=
  { m := m, n := n, k := k, rows := st.rows, a := a, b := st.el, pos := st.pos, int := intProduct fa sa st.scaled, aPair := fa == 0, bPair := st.fmt == 0,
    ints := fmtInt fa }

/-- The folded index of a destination. -/
def foldedIdx (o : Opnd) (m n : Nat) : List Nat := unlinear o.writeShape.dropLast m ++ [n]

/-- MM2's two products: dX on loom A, dW on loom B. -/
def mm2Prod (s : Hw) (x : Cmd) (b : Bool) : Prod :=
  let z := mm2MNK x
  let dy := x.o 0
  if b then
    let xx := x.o 2
    let st : Stat :=
      { rows := z.1, cols := z.2.1, fmt := dy.loomFmt, scaled := false, axis := 0, sp := false, el := dy.loomMat s, pos := fun _ _ => none }
    prodOf z.2.2 z.2.1 z.1 xx.loomFmt xx.loomScaled
      (fun k m => if Com.modeBit x.w 13 then (winIn x 2).elem s m k else xx.loomMat s m k) st
  else
    let w := x.o 1
    let st : Stat :=
      { rows := z.2.1, cols := z.2.2, fmt := w.loomFmt, scaled := false, axis := 0, sp := false, el := fun q n => w.loomMat s n q, pos := fun _ _ => none }
    prodOf z.1 z.2.2 z.2.1 dy.loomFmt false (dy.loomMat s) st

/-- The output block of a command by its number and loom; none where SPMM's panel is refused. -/
def blockOf (s : Hw) (x : Cmd) (index : Nat) (b : Bool) : Option Block :=
  match Com.opcode x.w with
  | 0x10 =>
    let a := x.o 0
    let mk := mmMK x
    let st := stationary s x b
    some (cutBlock (prodOf mk.1 st.cols mk.2 a.loomFmt a.loomScaled
      (fun m k => if Com.modeBit x.w 5 then a.loomMat s k m else a.loomMat s m k) st) index 2 (Com.modeBit x.w 4) (foldedIdx (x.o 2)))
  | 0x12 =>
    let v := winIn x 0
    let st := stationary s x b
    some (cutBlock (prodOf v.positions st.cols v.depth v.o.loomFmt v.o.loomScaled (v.elem s) st) index 2 (Com.modeBit x.w 4) (foldedIdx (x.o 2)))
  | 0x11 =>
    if b then some (cutBlock (mm2Prod s x true) index 4 (Com.modeBit x.w 4) (foldedIdx (x.o 4)))
    else
      -- R117: dX block (i, kb) is number kb × MB + i
      let p := mm2Prod s x false
      let mbk := ceilDiv p.m 64
      some (cutBlock p (index % mbk * ceilDiv p.n 64 + index / mbk) 3 false (foldedIdx (x.o 3)))
  | 0x23 =>
    let nbk := ceilDiv (Desc.size (x.o 2).img 1) 64
    let pn := index / nbk
    (s.decodePanel (x.o 0) pn).map (fun p =>
      let blk := cutBlock (spmmProd s x p) (index % nbk) 2 false (fun m n => [64 * pn + m, n])
      if pathOf x p = 3 then
        { blk with heavy := some (p.st.heavyRow, fun n => mergeSum p.fmt (heavyPieces p) (fun k => spmmB s x k n)) }
      else blk)
  | _ => none

/-- R90: a scale code of 0xFF contributes to a block. -/
def Block.nanScale (k : Block) : Bool :=
  (List.range k.mb).any (fun m => (List.range k.p.k).any (fun i => (k.p.a (k.m0 + m) i).code == some 255)) ||
  (List.range k.p.rows).any (fun q => (List.range k.nb).any (fun n => (k.p.b q (k.n0 + n)).code == some 255))

/-- The accumulators of a block, row by row, with what faults left in some (row × 64 + column, FP32 or INT32 pattern). -/
def Block.accs (k : Block) (faults : List (BitVec 12 × BitVec 32)) : List (List AccEl) :=
  (List.range k.mb).map (fun m => (List.range k.nb).map (fun n =>
    k.p.element (k.m0 + m) (k.n0 + n) ((faults.find? (fun f => f.1.toNat == m * 64 + n)).map (·.2))))

/-- R128: the checks of a block's rows. -/
def Block.checks (k : Block) (f : Nat) (accs : List (List AccEl)) : List RowCheck :=
  ((List.range k.mb).zip accs).map (fun r => k.p.checkRow f (k.m0 + r.1) k.n0 k.nb r.2)

/-- What an accumulator gives at the drain: the value, and whether it overflowed, underflowed and saturated in INT32. -/
structure Drained where
  v : FVal
  ov : Bool
  uf : Bool
  isat : Bool

/-- R87, R89, R90: an accumulator at the drain. -/
def Block.drained (k : Block) (x : Cmd) (nan : Bool) (m n : Nat) (e : AccEl) : Drained :=
  let plain : Drained :=
    if k.p.int then { v := intResult (x.o k.dst) (FVal.ofInt e.i), ov := false, uf := false, isat := e.sat }
    else if nan then { v := .nan false, ov := e.f.ov, uf := e.f.uf, isat := false }
    else
      let d := drainValue (Com.sat x.w) e.f.v
      { v := d.1, ov := e.f.ov || d.2.1, uf := e.f.uf || d.2.2, isat := false }
  match k.heavy with
  | some (h, g) =>
    if h = k.m0 + m then
      let r := g (k.n0 + n)
      { v := if k.p.int then intResult (x.o k.dst) r.1 else r.1, ov := false, uf := false, isat := r.2 }
    else plain
  | none => plain

/-- R143: the panel of a compressed-row destination that a block lies in, and the key of one of the panel's blocks. -/
def Block.panel (k : Block) : Nat := nth 0 (k.idx k.m0 k.n0) 0 / 64
def Block.key (k : Block) (o : Opnd) (nb : Nat) : Nat := (k.dst <<< 32) + k.panel * ceilDiv (Desc.size o.img 1) 64 + nb

/-- R517: the results of a command for a destination that wait for the rest of their scale blocks. -/
def Hw.waiting (s : Hw) (x : Cmd) (dst : Nat) : List (Nat × Reg32) :=
  (((s.ctxOf x.n).flight.filter (fun f => f.num == x.num)).flatMap (·.waits)).filterMap (fun e => if e.1 = dst then some e.2 else none)

def Hw.setWaiting (s : Hw) (x : Cmd) (dst : Nat) (l : List (Nat × Reg32)) : Hw :=
  s.modFlight x.n x.num (fun f => { f with waits := f.waits.filter (fun e => e.1 != dst) ++ l.map (fun e => (dst, e)) })

/-- R110, R111, R143, R517: the values of a released block are cast and written; of a compressed-row destination they are kept until
the panel is whole, of a block-scaled one until their scale blocks are.  Answers the status bits. -/
def Hw.releaseBlock (s : Hw) (x : Cmd) (k : Block) (accs : List (List AccEl)) : Hw × Nat :=
  let o := x.o k.dst
  let nan := k.nanScale
  let els := ((List.range k.mb).zip accs).flatMap (fun r => ((List.range k.nb).zip r.2).map (fun e =>
    (k.idx (k.m0 + r.1) (k.n0 + e.1), k.drained x nan r.1 e.1 e.2)))
  let vals := els.map (fun e => (e.1, if k.acc then fadd (o.value s (e.1.map Int.ofNat)) e.2.v else e.2.v))
  let c1 := s.countOvUf x.n (els.filter (fun e => e.2.ov)).length (els.filter (fun e => e.2.uf)).length
  let isat := (els.filter (fun e => e.2.isat)).length
  let s1 := c1.1.bump F.NUM_INT_SAT_COUNT x.n isat
  let s2 := if nan then s1.bump F.NUM_NAN_SCALE_COUNT x.n else s1
  let st := c1.2 ||| (if isat = 0 then 0 else St.ov) ||| (if nan then St.ns else 0)
  if o.crow then
    let cs := vals.map (fun e => castElem o.fmt (x.wr.rnd o.fmt (linear o.writeShape e.1)) x.wr.sat e.2)
    let r := s2.countSat x.n (cs.filter (·.2)).length
    (r.1.modFlight x.n x.num (fun f => { f with held := Sparse.set f.held (k.key o (k.n0 / 64)) (cs.map (·.1)) }), st ||| r.2)
  else
    let w := s2.writeBlocks o x.wr (s2.waiting x k.dst) vals false
    let r := (w.1.setWaiting x k.dst w.2.2).countSat x.n w.2.1
    (r.1.touch x.t o, st ||| r.2)

/-- R303: the atoms of a failed block's destination are dross. -/
def Hw.failBlock (s : Hw) (x : Cmd) (k : Block) : Hw :=
  let o := x.o k.dst
  if o.crow then s.modFlight x.n x.num (fun f => { f with held := Sparse.set f.held (k.key o (k.n0 / 64)) [] })
  else
    let idxs := (List.range k.mb).flatMap (fun m => (List.range k.nb).map (fun n => (k.idx (k.m0 + m) (k.n0 + n)).map Int.ofNat))
    let addrs := idxs.map o.byteAt ++ (if o.scaled then idxs.map (fun i => (elemPlace o.scaleAddr o.scale (o.scaleOff i)).1) else [])
    let atoms := addrs.foldl (fun (m : Sparse Unit) a => Sparse.set m (a / 128 * 128) ()) []
    (atoms.foldl (fun s a => s.markDross a.1) s).touch x.t o

/-- R143: a panel of a compressed-row destination is written once every one of its blocks has been released, or lost where one
has failed. -/
def Hw.formPanel (s : Hw) (x : Cmd) (k : Block) : Hw :=
  let o := x.o k.dst
  if !o.crow then s
  else
    let nbk := ceilDiv (Desc.size o.img 1) 64
    match (s.ctxOf x.n).flight.find? (fun f => f.num == x.num) with
    | none => s
    | some f =>
      let parts := (List.range nbk).map (fun i => Sparse.find? f.held (k.key o i))
      if parts.any (fun p => p.isNone) then s
      else
        let got := parts.filterMap id
        let s1 := if got.any (fun l => l.isEmpty) then s.failPanel o k.panel
          else s.writePanel o k.panel ((List.range k.mb).map (fun m => ((List.range nbk).zip got).flatMap (fun g =>
            let nb := min 64 (Desc.size o.img 1 - 64 * g.1)
            (g.2.drop (m * nb)).take nb)))
        let other := fun (e : Nat × List Nat) => decide (e.1 < k.key o 0) || decide (k.key o 0 + nbk ≤ e.1)
        (s1.touch x.t o).modFlight x.n x.num (fun f => { f with held := List.filter other f.held })

/-- R517: with a command's last block, what still waits for the rest of its scale block (which a failed block of the command, R303, does
not give) is merged and written. -/
def Hw.flushWaiting (s : Hw) (x : Cmd) : Hw :=
  x.named.foldl (fun s p =>
    if (s.waiting x p.1).isEmpty then s
    else
      let w := s.writeBlocks p.2 x.wr (s.waiting x p.1) [] true
      let r := (w.1.setWaiting x p.1 []).countSat x.n w.2.1
      r.1.modFlight x.n x.num (fun f => { f with acc := joinStatus f.acc r.2 })) s

/-- A block leaves its loom; with a command's last block its halo is written (R206) and its status is final. -/
def Hw.blockGone (s : Hw) (x : Cmd) (index st : Nat) (b : Bool) (k : Block) : Hw :=
  let s1 := (s.modFlight x.n x.num (fun f => { f with acc := joinStatus f.acc st })).formPanel x k
  let s2 := s1.modTile x.t (fun v => { v with blocks := v.blocks.filter (fun e => !(e.stream == x.n && e.num == x.num && e.index == index && e.loomB == b)) })
  if (s2.getTile x.t).blocks.any (fun e => e.stream == x.n && e.num == x.num) then s2
  else
    let dsts := x.named.filter (fun p => isDst (roleAt x.w p.1))
    (dsts.foldl (fun s p => s.writeHalo p.2) (s2.flushWaiting x)).modFlight x.n x.num (fun f => { f with stage := .done f.acc })

/-- R62, R262: a suspended command goes on in its stream's slot once its unit is free. -/
def Hw.resumes (s : Hw) (t n : Nat) (f : InFlight) : Bool :=
  f.stage == Stage.carried && s.slotRuns t f.queue && (s.getQueue t f.queue).bind.stream == n && s.unitWon t f.queue f.unit

/-- The first output block of a loom that waits for its drain (or, held, for its repeat), with its command, which runs. -/
def Hw.firstBlock (s : Hw) (t : Nat) (b held : Bool) : Option (LoomBlock × Cmd) :=
  ((s.getTile t).blocks.filter (fun e => e.loomB == b && e.held == held)).findSome? (fun e =>
    let c := s.ctxOn t e.stream
    match c.flight.find? (fun f => f.num == e.num && ((f.stage == Stage.running && s.slotRuns t f.queue) || s.resumes t e.stream f)) with
    | none => none
    | some f => some (e, f.toCmd e.stream c))

/-- A command whose block is at hand runs again if it was suspended. -/
def Hw.wake (s : Hw) (x : Cmd) : Hw :=
  s.modFlight x.n x.num (fun f => if f.stage == Stage.carried then { f with stage := .running } else f)

/-- R104, R108, R110: by the drain of a block, the slices of its stationary operand have been loaded one after another, each into the shadow
bank that then became the active one; a pinned block stays.  The next block's load, which may have begun, is made at its own drain. DESIGN CHOICE, log 84. -/
def Hw.loadHeddles (s : Hw) (x : Cmd) (k : Block) (b : Bool) : Hw :=
  let op := Com.opcode x.w
  -- R117: MM2 loads its W block once for each k-block
  if ((op = 0x10 || op = 0x12) && Com.modeBit x.w 9) || (op = 0x11 && !b && k.m0 ≠ 0) then s
  else
    let turned := if op = 0x11 then !b else (op == 0x10 || op == 0x12) && Com.modeBit x.w 6
    let fmt := if op = 0x11 && b then (x.o 0).loomFmt else (x.o 1).loomFmt
    let n := k.p.slices
    s.modTile x.t (fun v => { v with fs :=
      ((List.range n).drop (n - 2)).foldl (fun fs j => fs.load (loomNo b) (k.p.bank fmt turned k.n0 k.nb j)) v.fs })

/-- R128, R129: whether a block passes: every checked row, and no injected failure (R506); with the checks. -/
def Hw.checkBlock (s : Hw) (t : Nat) (b : Bool) (k : Block) (accs : List (List AccEl)) : Hw × Bool × List RowCheck :=
  let f := s.forced 2 (fun j => j.idx == t && j.loom == loomNo b)
  let cs := k.checks (s.fget F.FLT_ABFT_TOL_FACTOR) accs
  (f.1, !f.2 && cs.all (fun c => match c with | .failed => false | _ => true), cs)

/-- R128, R134: counts the rows not checked and keeps the largest ratio of the passing rows. -/
def Hw.noteChecks (s : Hw) (t : Nat) (cs : List RowCheck) : Hw :=
  let skipped := (cs.filter (fun c => match c with | .skipped => true | _ => false)).length
  let s1 := s.bump F.LOOM_CHK_SKIPPED_COUNT t skipped
  cs.foldl (fun s c => match c with
    | .passed (some (d, tol)) =>
      let r := divFp32 d tol
      if r.ieeeLe (ofPat (s.rd .LOOM_CHK_WORST t)) then s else s.wr .LOOM_CHK_WORST t r.pat
    | _ => s) s1

/-- R311: a confirmed failure of a block. -/
def Hw.repeatFailed (s : Hw) (x : Cmd) (index : Nat) (b : Bool) (k : Block) : Hw :=
  let s1 := ((s.failBlock x k).bump F.FLT_REPEAT_FAILS_COUNT).raise 0x4011 (pack2 x.t (loomNo b)) (Com.tag x.w)
    { kind := 1, unit := x.t, stream := some x.n, job := some (s.jobOf x.n) }
  (s1.confirmedFailure (s1.physOf x.t) 0 0).blockGone x index 0 b k

/-- R112, R128, R129: the next output block of a loom drains: it is released, held for its repeat, or (S = 1, except on a tile under
observation, R319) failed. -/
def Hw.blockDrain (s : Hw) (t : Nat) (b : Bool) (faults : List (BitVec 12 × BitVec 32)) : Hw :=
  match s.firstBlock t b false with
  | none => s
  | some (e, x) =>
    let s := s.wake x
    match blockOf s x e.index b with
    | none => s
    | some k =>
      let accs := k.accs faults
      let c := (s.loadHeddles x k b).checkBlock t b k accs
      let s1 := (c.1.noteChecks t c.2.2).bump (if b then F.LOOM_BLOCKS_B_COUNT else F.LOOM_BLOCKS_A_COUNT) t
      if c.2.1 then
        let r := (s1.bump F.LOOM_CHK_PASS_COUNT t).releaseBlock x k accs
        r.1.blockGone x e.index r.2 b k
      else
        let s2 := s1.bump F.LOOM_CHK_MISMATCH_COUNT t
        if Com.skip x.w && !(s2.getPhys (s2.physOf t)).observed then s2.repeatFailed x e.index b k
        else s2.modTile t (fun v => { v with blocks := v.blocks.map (fun f => if f == e then { f with held := true } else f) })

def execLoomBlockDrain (tile : Fin 512) (loomB : Bool) (faults : List (BitVec 12 × BitVec 32)) (s : State) : Host.Outcome State Fault Refusal :=
  s.onHw (fun h => h.blockDrain tile.val loomB faults)

/-- R129, R311: the repeat of a loom's held block ends: a pass releases the repeat's result as a transient, a failure is
confirmed.  `LOOM.BLOCKS_A` and `_B` have counted the block at its first drain. DESIGN CHOICE, log 80. -/
def Hw.repeatDone (s : Hw) (t : Nat) (b : Bool) (faults : List (BitVec 12 × BitVec 32)) : Hw :=
  match s.firstBlock t b true with
  | none => s
  | some (e, x) =>
    let s := s.wake x
    match blockOf s x e.index b with
    | none => s
    | some k =>
      let accs := k.accs faults
      let c := (s.loadHeddles x k b).checkBlock t b k accs
      let s0 := c.1.noteChecks t c.2.2
      if c.2.1 then
        let r := s0.releaseBlock x k accs
        let s1 := r.1.raise 0x4010 (pack2 t (loomNo b)) (Com.tag x.w) { kind := 1, unit := t, stream := some x.n, job := some (s.jobOf x.n) }
        (s1.transient (s1.physOf t)).blockGone x e.index r.2 b k
      else s0.repeatFailed x e.index b k

def execChecksumRepeatDone (tile : Fin 512) (loomB : Bool) (faults : List (BitVec 12 × BitVec 32)) (s : State) :
    Host.Outcome State Fault Refusal :=
  s.onHw (fun h => h.repeatDone tile.val loomB faults)

/-! ### Issue -/

/-- R114, R115: the output blocks of a product of mbk × nbk blocks on the looms named: m-block major; with AB, m-blocks 2i and
2i + 1 of one n-block together. -/
def orderBlocks (f mbk nbk : Nat) : List (Nat × Bool) :=
  match f with
  | 0 => (List.range (mbk * nbk)).map (fun i => (i, false))
  | 1 => (List.range (mbk * nbk)).map (fun i => (i, true))
  | _ => (List.range (ceilDiv mbk 2)).flatMap (fun i => (List.range nbk).flatMap (fun n =>
      (2 * i * nbk + n, false) :: (if 2 * i + 1 < mbk then [((2 * i + 1) * nbk + n, true)] else [])))

/-- R117: MM2's blocks: for each k-block, its dX blocks on loom A, then its dW block on loom B. -/
def mm2Blocks (x : Cmd) : List (Nat × Bool) :=
  let z := mm2MNK x
  (List.range (ceilDiv z.2.2 64)).flatMap (fun kb =>
    ((List.range (ceilDiv z.1 64)).map (fun i => (kb * ceilDiv z.1 64 + i, false))) ++ [(kb, true)])

/-- Any load into a loom's active bank removes its pin (R109). -/
def Hw.unpin (s : Hw) (t : Nat) (looms : List Bool) : Hw :=
  s.modTile t (fun v => { v with fs := { v.fs with heddles := looms.foldl (fun m b => Sparse.erase m (loomNo b)) v.fs.heddles } })

/-- A command's output blocks wait in its looms. -/
def Hw.queueBlocks (s : Hw) (x : Cmd) (l : List (Nat × Bool)) : Hw :=
  (s.modFlight x.n x.num (fun f => { f with blocks := l })).modTile x.t (fun v => { v with blocks := v.blocks ++ l.map (fun e => { stream := x.n, num := x.num, index := e.1, loomB := e.2, held := false }) })

/-- R304: a loom command takes in its operands, and its blocks run. -/
def Hw.startProduct (s : Hw) (x : Cmd) (looms : List Bool) (l : List (Nat × Bool)) : Hw :=
  let r := s.consumeBy x.sourceSpans
  match r.2 with
  | some a => r.1.consumeDross x.n a 0 x.t
  | none => ((if looms.isEmpty then r.1 else r.1.unpin x.t looms).fly x .running (unitOf x.w)).queueBlocks x l

def Hw.mm (s : Hw) (t q : Nat) : Hw :=
  s.unitRun t q 0x10 mmCheck (fun s x =>
    let f := Com.mode x.w 7 2
    let c := x.o 2
    s.startProduct x (if Com.modeBit x.w 9 then [] else loomsOf f)
      (orderBlocks f (ceilDiv (Opnd.foldRows c.writeShape) 64) (ceilDiv (Opnd.foldCols c.writeShape) 64)))

def execMm (tile : Fin 512) (queue : Fin 4) (s : State) : Host.Outcome State Fault Refusal := s.onHw (fun h => h.mm tile.val queue.val)

def Hw.conv (s : Hw) (t q : Nat) : Hw :=
  s.unitRun t q 0x12 convCheck (fun s x =>
    let f := Com.mode x.w 7 2
    let c := x.o 2
    s.startProduct x (if Com.modeBit x.w 9 then [] else loomsOf f)
      (orderBlocks f (ceilDiv (Opnd.foldRows c.writeShape) 64) (ceilDiv (Opnd.foldCols c.writeShape) 64)))

def execConv (tile : Fin 512) (queue : Fin 4) (s : State) : Host.Outcome State Fault Refusal := s.onHw (fun h => h.conv tile.val queue.val)

def Hw.mm2 (s : Hw) (t q : Nat) : Hw :=
  s.unitRun t q 0x11 mm2Check (fun s x => s.startProduct x [false, true] (mm2Blocks x))

def execMm2 (tile : Fin 512) (queue : Fin 4) (s : State) : Host.Outcome State Fault Refusal := s.onHw (fun h => h.mm2 tile.val queue.val)

/-- R109: HEDDLE.LOAD pins the block in the looms it names. -/
def Hw.heddleLoad (s : Hw) (t q : Nat) : Hw :=
  s.unitCommand t q 0x13 heddleCheck (fun s x => s.consuming x 0 x.sourceSpans (fun s =>
    let h := heddleOf s (x.o 0) (x.o 1) x.n (pinTag x.w)
    (s.modTile x.t (fun v => { v with fs := (loomsOf (Com.mode x.w 7 2)).foldl (fun fs b =>
      { fs.load (loomNo b) { h with stream := 0, tag := 0 } with heddles := Sparse.set fs.heddles (loomNo b) h }) v.fs }), 0)))

def execHeddleLoad (tile : Fin 512) (queue : Fin 4) (s : State) : Host.Outcome State Fault Refusal :=
  s.onHw (fun h => h.heddleLoad tile.val queue.val)

end Sys2Proof.Machine
end

