-- ==== Sys2Proof/Machine/Shuttle.lean ====
section
/-!
DEFINITION. The Shuttle (R135 to R170): GATHER, SCATTER, SCATTER_ADD, SPMM, MERGE, SORT, ROUTE and SKETCH; and the movement of
elements that MOVE and the copies share (R195, R240, R304, R517).
-/
namespace Sys2Proof.Machine

/-! ### Moving elements -/

/-- The bytes that a list of elements (core indices) of an operand lies in, with their scales. -/
def Opnd.elemSpans (o : Opnd) (idxs : List (List Int)) : List Span :=
  let d : Span :=
    { lo := o.range.1, hi := o.range.2,
      hit := fun a b => idxs.any (fun i => let p := o.byteAt i; decide (p ≤ b) && decide (a < p + (fmtBits o.fmt + 7) / 8)) }
  if o.scaled then
    [d, { lo := o.scaleRange.1, hi := o.scaleRange.2,
          hit := fun a b => idxs.any (fun i => let p := (elemPlace o.scaleAddr o.scale (o.scaleOff i)).1; a ≤ p && p ≤ b) }]
  else [d]

/-- Whether an element, or its scale, reads as dross. -/
def Opnd.dross (o : Opnd) (s : Hw) (i : List Int) : Bool :=
  s.drossAt (o.byteAt i) || (o.scaled && s.drossAt ((elemPlace o.scaleAddr o.scale (o.scaleOff i)).1))

/-- R195, R304, R517: elements move from a source (core index; none: a zero) to a destination's core index.  Unscaled ones move
as stored.  A scale block whose elements all arrive under one code moves with that code, its elements and its scale each
passing on their own dross; any other is merged under R517, and passes dross on whole.  Answers how many elements saturated. -/
def Hw.moveElems (s : Hw) (src dst : Opnd) (pairs : List (Option (List Int) × List Nat)) : Hw × Nat :=
  if dst.scaled then
    let n := Desc.size dst.img dst.axis
    let blocks := (blocksOf dst.axis (pairs.map (·.2))).map (fun b =>
      let k0 := nth 0 b dst.axis * 32
      let idxs := (List.range (min 32 (n - k0))).map (fun i => setNth (k0 + i) b dst.axis)
      (k0, b, idxs, idxs.map (fun i => pairs.reverse.find? (fun p => p.2 == i))))
    let w := blocks.foldl (fun (r : Hw × Nat × List Nat) q =>
      let (k0, b, idxs, got) := q
      let froms := got.map (fun g => match g with | some (some i, _) => some i | _ => none)
      let codes := froms.map (fun f => f.map (fun i => src.code s i))
      let scaleBad := froms.any (fun f => f.any (fun i => s.drossAt (elemPlace src.scaleAddr src.scale (src.scaleOff i)).1))
      if codes.all (fun c => c.isSome && c == codes.headD none) then
        let cells := (idxs.zip froms).foldl (fun c p =>
          padNibble r.1 (r.1.putElem c dst.addr dst.img (Desc.elemOff dst.img (p.1.map Int.ofNat)) (src.raw s (p.2.getD []))) dst
            (p.1.map Int.ofNat)) []
        let at_ := (elemPlace dst.scaleAddr dst.scale (dst.scaleOff ((setNth k0 b dst.axis).map Int.ofNat))).1
        (r.1.writeAddrs (r.1.putElem cells dst.scaleAddr dst.scale (dst.scaleOff ((setNth k0 b dst.axis).map Int.ofNat)) ((codes.headD none).getD 0)),
          r.2.1, r.2.2 ++ ((idxs.zip froms).filter (fun p => p.2.any (fun i => s.drossAt (src.byteAt i)))).map (fun p => dst.byteAt (p.1.map Int.ofNat)) ++
            (if scaleBad then [at_] else []))
      else
        let c := r.1.scaledCells dst Writer.plain ((idxs.zip got).filterMap (fun p => p.2.map (fun g =>
          (p.1, match g.1 with | some i => src.value s i | none => .zero false))))
        let bad := scaleBad || froms.any (fun f => f.any (fun i => s.drossAt (src.byteAt i)))
        (r.1.writeAddrs c.1, r.2.1 + c.2.1, r.2.2 ++ (if bad then idxs.flatMap dst.places else s.storedDross dst c.2.2))) (s, 0, [])
    (if w.2.2.isEmpty then w.1 else w.1.passDross w.2.2, w.2.1)
  else
    let w := s.writeRaw dst (pairs.map (fun p => (p.2, match p.1 with | some i => src.raw s i | none => 0)))
    let hit := (pairs.filter (fun p => p.1.any (fun i => src.dross s i))).map (fun p => dst.byteAt (p.2.map Int.ofNat))
    (if hit.isEmpty then w else w.passDross hit, 0)

/-- R143, R304: elements move to a compressed-row destination through the encoder, panel by panel; `src_` says where the element of an index
comes from (none: a zero); a panel that takes in dross is dross whole. -/
def Hw.movePanels (s : Hw) (src dst : Opnd) (src_ : List Nat → Option (List Int)) : Hw :=
  (List.range dst.panels).foldl (fun t p =>
    let rows := (List.range (dst.panelRows p)).map (fun r => (List.range (Desc.size dst.img 1)).map (fun c => src_ [64 * p + r, c]))
    let w := t.writePanel dst p (rows.map (fun r => r.map (fun i => match i with | some i => src.raw s i | none => 0)))
    if rows.any (fun r => r.any (fun i => i.any (src.dross s))) then
      let base := dst.addr + Desc.crowDir dst.img + p * Desc.crowSlot dst.img
      w.passDross (atomsOf base (base + Desc.crowSlot dst.img - 1))
    else w) s

/-- What a Shuttle or move command leaves on its destinations: halo rings (R206) and the touch log (R325). -/
def Hw.leaveDests (s : Hw) (x : Cmd) : Hw :=
  (x.named.filter (fun p => isDst (roleAt x.w p.1))).foldl (fun s p => (s.writeHalo p.2).touch x.t p.2) s

/-! ### Lists (R137, R160) -/

/-- R137: a list operand is unscaled, with format code 0. DEDUCED, log 81. -/
def listOk (o : Opnd) : Bool := o.fmt == 0 && !o.scaled

/-- Row-major order with element stride 1 from dimension `lo` inwards, over the sizes given. -/
def contiguous (o : Opnd) (shape : List Nat) (lo : Nat) : Bool :=
  (List.range shape.length).all (fun j => j < lo || nth 0 shape j ≤ 1 || Desc.stride o.img j == ((volume (shape.drop (j + 1)) : Nat) : Int))

/-- The coordinates of one entry after IDX_MODE (R158): them, or none where the entry is zero-filled or skipped; whether it was
clamped; and its first coordinate that FAULT or WRAP reports. -/
structure Coord where
  at_ : Option (List Nat)
  clamped : Bool
  report : Option Int

def coordOf (mode : Nat) (sizes : List Nat) (c : List Int) : Coord :=
  let one := (c.zip sizes).map (fun (p : Int × Nat) =>
    if 0 ≤ p.1 && p.1 < (p.2 : Int) then (some p.1.toNat, false)
    else if mode = 3 && p.1 < 0 && 0 ≤ p.1 + (p.2 : Int) then (some (p.1 + (p.2 : Int)).toNat, false)
    else if mode = 1 then (some (if p.1 < 0 then 0 else p.2 - 1), true)
    else (none, false))
  let dead := one.any (fun o => o.1.isNone)
  { at_ := if dead then none else some (one.map (fun o => o.1.getD 0)), clamped := !dead && one.any (·.2),
    report := if dead && (mode = 0 || mode = 3) then ((c.zip one).find? (fun p => p.2.1.isNone)).map (·.1) else none }

/-- R158, R159: counts the bad entries of a list (position and coordinates) and reports the first: INDEX with event 0xC001. -/
def Hw.noteCoords (s : Hw) (x : Cmd) (l : List (Nat × Coord)) : Hw × Nat :=
  let s1 := s.bump F.SHTL_IDX_BAD_COUNT x.t (l.filter (fun e => e.2.at_.isNone || e.2.clamped)).length
  match l.find? (fun e => e.2.report.isSome) with
  | some e =>
    (s1.raise 0xC001 e.1 (unsigned 32 (e.2.report.getD 0)) { kind := 1, unit := x.t, stream := some x.n, job := some (s.jobOf x.n) }, St.index)
  | none => (s1, 0)

/-- R160: segment j of an offset list over a packed dimension of length p: its positions, or none if it is bad. -/
def segment (off : List Int) (p j : Nat) : Option (List Nat) :=
  let a := nth 0 off j
  let b := nth 0 off (j + 1)
  if b < a || a < 0 || (p : Int) < b then none else some ((List.range (b - a).toNat).map (fun i => a.toNat + i))

/-- R160: the first bad segment raises event 0xC002; status INDEX. -/
def Hw.noteSegments (s : Hw) (x : Cmd) (segs : List (Option (List Nat))) : Hw × Nat :=
  match segs.findIdx? (fun g => g.isNone) with
  | some j => (s.raise 0xC002 j (Com.tag x.w) { kind := 1, unit := x.t, stream := some x.n, job := some (s.jobOf x.n) }, St.index)
  | none => (s, 0)

/-! ### GATHER, SCATTER, SCATTER_ADD (R152 to R159) -/

/-- The shape of an indexed command: positions of its indexed operand and its dense one. -/
structure Indexed where
  ind : Opnd
  dense : Opnd
  list : Opnd
  coord : Nat
  blk : Nat
  gather : Bool

def indexedOf (x : Cmd) : Indexed :=
  let g := Com.opcode x.w == 0x20
  { ind := if g then x.o 0 else x.o 2, dense := if g then x.o 2 else x.o 0, list := x.o 1, coord := if Com.modeBit x.w 4 then 2 else 1,
    blk := Com.param x.w 0, gather := g }

namespace Indexed

def indShape (v : Indexed) : List Nat := if v.gather then v.ind.readShape else v.ind.writeShape
def denseShape (v : Indexed) : List Nat := if v.gather then v.dense.writeShape else v.dense.readShape
def rows (v : Indexed) : Nat := v.indShape.headD 1
/-- R152: elements of a row; blocks of a row. -/
def w (v : Indexed) : Nat := volume v.indShape.tail
def nblk (v : Indexed) : Nat := ceilDiv v.w v.blk
def listLen (v : Indexed) : Nat := volume v.list.readShape
def entries (v : Indexed) : Nat := v.listLen / v.coord
/-- Dense elements of an entry. -/
def chunk (v : Indexed) : Nat := if v.coord = 1 then v.w else v.blk

/-- R137, R152: the conditions. -/
def check (v : Indexed) : Nat :=
  if !listOk v.list then St.format
  else if v.blk = 0 || 256 < v.blk || v.dense.fmt ≠ v.ind.fmt || v.dense.scaled != v.ind.scaled || v.listLen % v.coord ≠ 0 ||
      (fmtBits v.ind.fmt = 4 && (v.w % 2 = 1 || v.blk % 2 = 1)) || volume v.denseShape ≠ v.entries * v.chunk ||
      !contiguous v.ind v.indShape 1 || !(v.dense.crow || contiguous v.dense v.denseShape 0) ||
      (v.dense.crow && v.coord = 2 && v.w % v.blk ≠ 0) then St.shape
  else St.ok

/-- The coordinates of every entry, in list order. -/
def raw (v : Indexed) (s : Hw) : List (List Int) := cut v.coord (v.list.ints s)
def sizes (v : Indexed) : List Nat := if v.coord = 1 then [v.rows] else [v.rows, v.nblk]

/-- The blocks of an entry: row, first element in the row, elements, and offset in the entry's dense data. -/
def blocks (v : Indexed) (c : List Nat) : List (Nat × Nat × Nat × Nat) :=
  let r := nth 0 c 0
  if v.coord = 1 then (List.range v.nblk).map (fun b => (r, b * v.blk, min v.blk (v.w - b * v.blk), b * v.blk))
  else
    let st := nth 0 c 1 * v.blk
    [(r, st, min v.blk (v.w - st), 0)]

/-- The index of an element of a row of the indexed operand, and of the dense one. -/
def indIdx (v : Indexed) (r j : Nat) : List Nat := r :: unlinear v.indShape.tail j
def denseIdx (v : Indexed) (k : Nat) : List Nat := unlinear v.denseShape k

def indCore (v : Indexed) (r j : Nat) : List Int := if v.gather then Desc.coreOf v.ind.img (v.indIdx r j) else (v.indIdx r j).map Int.ofNat
def denseCore (v : Indexed) (k : Nat) : List Int := if v.gather then (v.denseIdx k).map Int.ofNat else Desc.coreOf v.dense.img (v.denseIdx k)

end Indexed

/-- The list is taken in: every entry with its coordinates. -/
def Indexed.coords (v : Indexed) (s : Hw) : List (Nat × Coord) :=
  let r := v.raw s
  (List.range r.length).zip (r.map (coordOf (Desc.idxMode v.ind.img) v.sizes))

/-- Windows of 64 entries (R153). -/
def windows {α : Type} (l : List α) : List (List α) := cut 64 l

/-- R153, R154, R158: one window of GATHER: each distinct coordinate is fetched once, which saves one fetch of a row or block for each
later entry that names it; bad entries are written as zeros. -/
def Hw.gatherWindow (s : Hw) (x : Cmd) (v : Indexed) (raw : List (List Int)) (win : List (Nat × Coord)) : Hw × Nat :=
  let pairs := win.flatMap (fun e => match e.2.at_ with
    | some c => (v.blocks c).flatMap (fun b => (List.range b.2.2.1).map (fun j =>
        (some (v.indCore b.1 (b.2.1 + j)), v.denseIdx (e.1 * v.chunk + b.2.2.2 + j))))
    | none => (List.range v.chunk).map (fun j => (none, v.denseIdx (e.1 * v.chunk + j))))
  let good := win.filter (fun e => e.2.at_.isSome)
  let first := good.filter (fun e => !(good.any (fun f => decide (f.1 < e.1) && nth [] raw f.1 == nth [] raw e.1)))
  let count := fun (l : List (Nat × Coord)) => l.foldl (fun a e => a + (v.blocks (e.2.at_.getD [])).length) 0
  let s1 := (s.consumeBy (v.ind.elemSpans (pairs.filterMap (·.1)))).1
  let r := if v.dense.crow then (s1, 0) else s1.moveElems v.ind v.dense pairs
  ((r.1.bump F.SHTL_GATHERED_COUNT x.t (count first)).bump F.SHTL_DEDUP_COUNT x.t (good.length - first.length), r.2)

/-- R153, R155: one window of SCATTER: of several writes of a block only the last is made. -/
def Hw.scatterWindow (s : Hw) (x : Cmd) (v : Indexed) (win : List (Nat × Coord)) : Hw × Nat :=
  let all := win.flatMap (fun e => match e.2.at_ with | some c => (v.blocks c).map (fun b => (e.1, b)) | none => [])
  let numbered := (List.range all.length).zip all
  let kept := numbered.filter (fun p => !(numbered.any (fun q => decide (p.1 < q.1) && q.2.2.1 == p.2.2.1 && q.2.2.2.1 == p.2.2.2.1)))
  let pairs := kept.flatMap (fun p => (List.range p.2.2.2.2.1).map (fun j =>
    (some (v.denseCore (p.2.1 * v.chunk + p.2.2.2.2.2 + j)), v.indIdx p.2.2.1 (p.2.2.2.1 + j))))
  let s1 := (s.consumeBy (v.dense.elemSpans (pairs.filterMap (·.1)))).1
  let r := s1.moveElems v.dense v.ind pairs
  (r.1.bump F.SHTL_SCATTERED_COUNT x.t kept.length, r.2)

/-- R152 to R159: GATHER and SCATTER: the list is consumed, the data is passed on. -/
def Hw.runIndexed (s : Hw) (x : Cmd) (f : Hw → Indexed → List (List Int) → List (Nat × Coord) → Hw × Nat) : Hw × Nat :=
  let v := indexedOf x
  s.consuming x 1 v.list.spans (fun s =>
    let cs := v.coords s
    let raw := v.raw s
    let n := s.noteCoords x cs
    let r := (windows cs).foldl (fun (r : Hw × Nat) w => let z := f r.1 v raw w; (z.1, r.2 + z.2)) (n.1, 0)
    let s1 := if v.gather && v.dense.crow then
        r.1.movePanels v.ind v.dense (fun i =>
          let k := linear v.denseShape i
          ((cs[k / v.chunk]?).bind (fun e => e.2.at_)).map (fun c =>
            v.indCore (nth 0 c 0) ((if v.coord = 1 then 0 else nth 0 c 1 * v.blk) + k % v.chunk)))
      else r.1
    let c := s1.countSat x.n r.2
    (c.1.leaveDests x, n.2 + c.2))

def execGather (tile : Fin 512) (queue : Fin 4) (s : State) : Host.Outcome State Fault Refusal :=
  s.onHw (fun h => h.unitCommand tile.val queue.val 0x20 (fun _ x => (indexedOf x).check)
    (fun s x => s.runIndexed x (fun s v raw w => s.gatherWindow x v raw w)))

def execScatter (tile : Fin 512) (queue : Fin 4) (s : State) : Host.Outcome State Fault Refusal :=
  s.onHw (fun h => h.unitCommand tile.val queue.val 0x21 (fun _ x => (indexedOf x).check)
    (fun s x => s.runIndexed x (fun s v _ w => s.scatterWindow x v w)))

/-- R156: a line of the merge buffer: its block (row, first element), its values, and the list position of its latest
contribution. -/
structure Line where
  row : Nat
  first : Nat
  vals : List FVal
  last : Nat

/-- R156: values of a line are INT32 for unscaled integer formats. -/
def lineInt (o : Opnd) : Bool := fmtInt o.fmt && !o.scaled

/-- R156: one contribution to one value. -/
def lineAdd (int : Bool) (a b : FVal) : FVal := if int then FVal.ofInt (satInt32 (a.at_ 0 + b.at_ 0)).1 else fadd a b

/-- R156, R517: lines are written back through the cast control, a scale block that several of them cover once. -/
def Hw.writeLines (s : Hw) (x : Cmd) (v : Indexed) (ls : List Line) : Hw × Nat :=
  let r := s.writeElems v.ind x.wr (ls.flatMap (fun l => (List.range l.vals.length).zip l.vals |>.map (fun p => (v.indIdx l.row (l.first + p.1), p.2))))
  (r.1.bump F.SHTL_SCATTERED_COUNT x.t ls.length, r.2)

/-- R156: lines that a queue's 64 KiB holds. -/
def lineCap (blk : Nat) : Nat := 65536 / roundUp (4 * blk) 128

/-- R153, R156: one contribution (list position, block, and its values, read with its window's); of two lines whose latest contribution is
one entry, the one made first is written back first. DESIGN CHOICE, log 82. -/
def Hw.contribute (r : Hw × Nat × List Line) (x : Cmd) (v : Indexed) (e : Nat) (b : Nat × Nat × Nat × Nat) (vals : List FVal) : Hw × Nat × List Line :=
  let (s, sat, lines) := r
  match lines.find? (fun l => l.row == b.1 && l.first == b.2.1) with
  | some l =>
    let l' : Line := { l with vals := (l.vals.zip vals).map (fun p => lineAdd (lineInt v.ind) p.1 p.2), last := e }
    (s, sat, lines.map (fun k => if k.row == l.row && k.first == l.first then l' else k))
  | none =>
    let (s1, sat1, lines1) :=
      if lineCap v.blk ≤ lines.length then
        let old := lines.foldl (fun (o : Option Line) l => match o with
          | some k => if l.last < k.last then some l else some k
          | none => some l) none
        match old with
        | some l =>
          let w := s.writeLines x v [l]
          (w.1.bump F.SHTL_MERGE_EVICT_COUNT x.t, sat + w.2, lines.filter (fun k => !(k.row == l.row && k.first == l.first)))
        | none => (s, sat, lines)
      else (s, sat, lines)
    let cur := (List.range b.2.2.1).map (fun j => v.ind.value s1 ((v.indIdx b.1 (b.2.1 + j)).map Int.ofNat))
    (s1, sat1, lines1 ++ [{ row := b.1, first := b.2.1, vals := (cur.zip vals).map (fun p => lineAdd (lineInt v.ind) p.1 p.2), last := e }])

/-- The device range of a block of an indexed destination. -/
def Indexed.blockRange (v : Indexed) (b : Nat × Nat × Nat × Nat) : Nat × Nat :=
  (v.ind.byteAt ((v.indIdx b.1 b.2.1).map Int.ofNat),
    v.ind.byteAt ((v.indIdx b.1 (b.2.1 + b.2.2.1 - 1)).map Int.ofNat) + (fmtBits v.ind.fmt + 7) / 8 - 1)

/-- The commands in flight anywhere on the module, with their streams. -/
def Hw.flights (s : Hw) : List (Nat × InFlight) :=
  let of := fun (fs : FrameState) => fs.ctxs.flatMap (fun e => e.2.flight.map (fun f => (e.1, f)))
  s.tiles.flatMap (fun e => of e.2.fs) ++ s.frames.flatMap (fun e => of e.2)

/-- R157: a SCATTER_ADD that starts before another one whose blocks overlap its own has completed: which of the contributions to the
shared blocks are lost is open, so their bytes are free (DESIGN CHOICE, log 83). -/
def Hw.loseShared (s : Hw) (x : Cmd) (mine : List (Nat × Nat)) : Hw :=
  let theirs := s.flights.flatMap (fun e => if e.2.stage == Stage.completed || (e.1 == x.n && e.2.num == x.num) then [] else e.2.added)
  let hit := mine.filter (fun r => theirs.any (overlaps r))
  let cells := hit.foldl (fun (m : Sparse Byte) r => (List.range (r.2 + 1 - r.1)).foldl (fun m i =>
    Sparse.set m (r.1 + i) (Config.freeByte s.free (r.1 + i))) m) []
  if hit.isEmpty then s else { (s.writeAddrs cells) with free := s.free + 1 }

/-- R153, R156: SCATTER_ADD. -/
def Hw.runScatterAdd (s : Hw) (x : Cmd) : Hw × Nat :=
  let v := indexedOf x
  s.consuming x 1 v.list.spans (fun s =>
    let cs := v.coords s
    let of := fun (l : List (Nat × Coord)) => l.flatMap (fun e => match e.2.at_ with | some c => (v.blocks c).map (fun b => (e.1, b)) | none => [])
    let blocks := of cs
    let dSpans := v.dense.elemSpans (blocks.flatMap (fun b => (List.range b.2.2.2.1).map (fun j => v.denseCore (b.1 * v.chunk + b.2.2.2.2 + j))))
    let iSpans := v.ind.elemSpans (blocks.flatMap (fun b => (List.range b.2.2.2.1).map (fun j => (v.indIdx b.2.1 (b.2.2.1 + j)).map Int.ofNat)))
    s.consuming x 1 (dSpans ++ iSpans) (fun s =>
      let n := s.noteCoords x cs
      let r := (windows cs).foldl (fun (r : Hw × Nat × List Line) win =>
        let got := (of win).map (fun b => (b, (List.range b.2.2.2.1).map (fun j => v.dense.value r.1 (v.denseCore (b.1 * v.chunk + b.2.2.2.2 + j)))))
        got.foldl (fun r g => Hw.contribute r x v g.1.1 g.1.2 g.2) r) (n.1, 0, [])
      let w := r.1.writeLines x v r.2.2
      let c := w.1.countSat x.n (r.2.1 + w.2)
      ((c.1.loseShared x (blocks.map (fun b => v.blockRange b.2))).leaveDests x, n.2 + c.2)))

/-- R157: the blocks that a SCATTER_ADD adds into, kept while it is in flight. -/
def addedBy (s : Hw) (x : Cmd) : List (Nat × Nat) :=
  let v := indexedOf x
  (v.coords s).flatMap (fun e => match e.2.at_ with | some c => (v.blocks c).map v.blockRange | none => [])

def execScatterAdd (tile : Fin 512) (queue : Fin 4) (s : State) : Host.Outcome State Fault Refusal :=
  s.onHw (fun h => h.unitRun tile.val queue.val 0x22
    (fun _ x => if (x.o 2).fmt = 10 then St.format else (indexedOf x).check)
    (fun s x =>
      let r := s.runScatterAdd x
      (r.1.done x r.2).modFlight x.n x.num (fun f => { f with added := addedBy s x })))

/-! ### SPMM (R144 to R151) -/

/-- R145, R150: a panel on the merge path: its rows of C are written. -/
def Hw.mergePanel (s : Hw) (x : Cmd) (pn : Nat) (p : Panel) : Hw × Nat :=
  let o := x.o 2
  let n := Desc.size o.img 1
  let cells := (List.range p.rows).map (fun r =>
    let pieces := mergePieces x p r
    (List.range n).map (fun c => mergeSum p.fmt pieces (fun k => spmmB s x k c)))
  let isat := (cells.flatten.filter (·.2)).length
  let val := fun (v : FVal) => if fmtInt p.fmt then intResult o v else v
  let s1 := s.bump F.NUM_INT_SAT_COUNT x.n isat
  let ov := if isat = 0 then 0 else St.ov
  if o.crow then
    let pats := (List.range p.rows).zip cells |>.map (fun r => (List.range n).zip r.2 |>.map (fun (c : Nat × FVal × Bool) =>
      castElem o.fmt (x.wr.rnd o.fmt (linear o.writeShape [64 * pn + r.1, c.1])) x.wr.sat (val c.2.1)))
    let c := (s1.writePanel o pn (pats.map (fun r => r.map (·.1)))).countSat x.n (pats.flatten.filter (·.2)).length
    (c.1, ov ||| c.2)
  else
    let w := s1.writeElems o x.wr ((List.range p.rows).zip cells |>.flatMap (fun r => (List.range n).zip r.2 |>.map (fun c =>
      ([64 * pn + r.1, c.1], val c.2.1))))
    let c := w.1.countSat x.n w.2
    (c.1, ov ||| c.2)

/-- R169: counts a panel's path and its split rows. -/
def Hw.countPath (s : Hw) (x : Cmd) (p : Panel) : Hw :=
  let f := match pathOf x p with | 0 => F.NUM_PATH_DENSE_COUNT | 1 => F.NUM_PATH_COND_COUNT | 2 => F.NUM_PATH_MERGE_COUNT | _ => F.NUM_PATH_HYBRID_COUNT
  (s.bump f x.n).bump F.NUM_PATH_SPLIT_COUNT x.n (splitRows x p)

/-- R151: panels by path, for event 0xC030, and that the command was executed; kept above the thresholds that it latched. -/
def pathCounts (x : Cmd) (ps : List Panel) : Nat :=
  let n := fun (k : Nat) => min 255 (ps.filter (fun p => pathOf x p == k)).length
  n 0 + (n 1 <<< 8) + (n 2 <<< 16) + (n 3 <<< 24) + (1 <<< 32)

/-- R142 to R151: SPMM: every panel is checked; refused ones leave their rows, merge panels are computed, the others become
output blocks in the looms. -/
def Hw.startSpmm (s : Hw) (x : Cmd) : Hw :=
  let c := s.consumeBy (s.panelSpans (x.o 0) ++ (x.o 1).spans)
  match c.2 with
  | some a => c.1.consumeDross x.n a 1 x.t
  | none =>
    let s0 := c.1
    let f := Com.mode x.w 7 2
    let panels := (List.range (x.o 0).panels).map (fun i => (i, s0.decodePanel (x.o 0) i))
    let refused := panels.filter (fun p => p.2.isNone)
    let s1 := s0.bump F.SHTL_PANEL_ERR_COUNT x.t refused.length
    let s2 := match refused with
      | [] => s1
      | p :: _ => s1.raise 0xC010 p.1 (Com.tag x.w) { kind := 1, unit := x.t, stream := some x.n, job := some (s.jobOf x.n) }
    let good := panels.filterMap (fun p => p.2.map (fun v => (p.1, v)))
    let s3 := good.foldl (fun s p => s.countPath x p.2) s2
    let merged := good.filter (fun p => pathOf x p.2 == 2)
    let m := merged.foldl (fun (r : Hw × Nat) p => let z := r.1.mergePanel x p.1 p.2; (z.1, r.2 ||| z.2)) (s3, 0)
    let nbk := ceilDiv (Desc.size (x.o 2).img 1) 64
    let blocks := (good.filter (fun p => pathOf x p.2 != 2)).flatMap (fun p => (List.range nbk).map (fun j =>
      (p.1 * nbk + j, if f = 0 then false else if f = 1 then true else j % 2 == 1)))
    let st := m.2 + (if refused.isEmpty then 0 else St.format)
    let x' := { x with latched := x.latched % (1 <<< 64) + (pathCounts x (good.map (·.2)) <<< 64) }
    if blocks.isEmpty then (m.1.leaveDests x).done x' st
    else
      let s4 := (m.1.unpin x.t (loomsOf f)).fly x' .running (unitOf x.w)
      (s4.modFlight x.n x.num (fun e => { e with acc := st })).queueBlocks x blocks

def execSpmm (tile : Fin 512) (queue : Fin 4) (s : State) : Host.Outcome State Fault Refusal :=
  s.onHw (fun h => h.unitRun tile.val queue.val 0x23 (fun _ x => spmmCheck x) (fun s x => s.startSpmm x))

/-! ### MERGE (R161) -/

/-- Positions of MERGE's packed dimension, and its row. -/
def mergeP (x : Cmd) : Nat := if x.has 2 then volume (x.o 2).readShape else (x.o 0).readShape.headD 1
def mergeW (x : Cmd) : Nat := volume (x.o 0).readShape.tail
def mergeS (x : Cmd) : Nat := volume (x.o 1).readShape - 1

def mergeCheck (x : Cmd) : Nat :=
  let src := x.o 0
  let dst := x.o 4
  if !listOk (x.o 1) || (x.has 2 && !listOk (x.o 2)) || (x.has 3 && !listOk (x.o 3)) || dst.fmt = 10 then St.format
  else if 16384 < mergeW x || !contiguous src src.readShape 1 || volume dst.writeShape ≠ mergeS x * mergeW x ||
      (x.has 3 && volume (x.o 3).readShape ≠ mergeP x) then St.shape
  else St.ok

/-- R161: each segment's weighted sum of rows, in ascending e. -/
def Hw.runMerge (s : Hw) (x : Cmd) : Hw × Nat :=
  let src := x.o 0
  let dst := x.o 4
  let lists := (x.o 1).spans ++ (if x.has 2 then (x.o 2).spans else []) ++ (if x.has 3 then (x.o 3).spans else [])
  s.consuming x 1 lists (fun s =>
    let off := (x.o 1).ints s
    let segs := (List.range (mergeS x)).map (segment off (mergeP x))
    let idx := if x.has 2 then (x.o 2).ints s else (List.range (mergeP x)).map Int.ofNat
    let wts := if x.has 3 then (x.o 3).values s else []
    let rows := src.readShape.headD 1
    let used := (segs.filterMap id).flatten
    let cs := used.map (fun e => (e, coordOf (Desc.idxMode src.img) [rows] [nth 0 idx e]))
    let rowOf := fun (e : Nat) => ((cs.find? (fun c => c.1 == e)).bind (fun c => c.2.at_)).map (fun l => nth 0 l 0)
    let fetched := used.filterMap rowOf
    let w := mergeW x
    let core := fun (r j : Nat) => Desc.coreOf src.img (r :: unlinear src.readShape.tail j)
    s.consuming x 1 (src.elemSpans ((sortedUnion fetched).flatMap (fun r => (List.range w).map (core r)))) (fun s =>
      let n1 := s.noteSegments x segs
      let n2 := n1.1.noteCoords x ((sortedUnion used).filterMap (fun e => cs.find? (fun c => c.1 == e)))
      let term := fun (e j : Nat) => match rowOf e with
        | some r => if x.has 3 then fmul (nth (.zero false) wts e) (src.value s (core r j)) else src.value s (core r j)
        | none => FVal.zero false
      let els := (List.range segs.length).flatMap (fun g =>
        let es := (nth none segs g).getD []
        (List.range w).map (fun j => sumFirst fadd (.zero false) (es.map (fun e => term e j))))
      let r := (n2.1.bump F.SHTL_GATHERED_COUNT x.t fetched.length).writeTensor dst x.wr els
      let c := r.1.countSat x.n r.2
      (c.1.leaveDests x, (if n1.2 = 0 then n2.2 else n1.2) + c.2)))

def execMerge (tile : Fin 512) (queue : Fin 4) (s : State) : Host.Outcome State Fault Refusal :=
  s.onHw (fun h => h.unitCommand tile.val queue.val 0x24 (fun _ x => mergeCheck x) (fun s x => s.runMerge x))

/-! ### SORT (R162) -/

/-- A sort key: INT32, or FP32 in the order of R162. -/
inductive Key where
  | int (i : Int)
  | fp (v : FVal)

/-- R162: −Inf < … < −0 < +0 < … < +Inf < NaN. -/
def Key.le : Key → Key → Bool
  | .int a, .int b => decide (a ≤ b)
  | .fp a, .fp b => if b.isNan then true else if a.isNan then false else a.le b
  | _, _ => true

def Key.pattern : Key → Nat
  | .int i => unsigned 32 i
  | .fp v => v.pat.toNat

/-- The lowest key (R162). -/
def Key.lowest (fp : Bool) : Key := if fp then .fp (.inf true) else .int (-0x8000_0000)

/-- A stable insertion: before the first element that is strictly after it in the order. -/
def insertStable {α : Type} (before : α → α → Bool) (x : α) : List α → List α
  | [] => [x]
  | y :: l => if before x y && !before y x then x :: y :: l else y :: insertStable before x l

/-- A stable sort. -/
def sortStable {α : Type} (before : α → α → Bool) (l : List α) : List α := l.foldl (fun acc x => insertStable before x acc) []

/-- Pairs of a key and a payload, ascending or descending, stable. -/
def sortPairs (desc : Bool) (l : List (Key × Int)) : List (Key × Int) :=
  sortStable (fun a b => if desc then b.1.le a.1 else a.1.le b.1) l

/-- The keys of SORT. -/
def sortKeys (s : Hw) (x : Cmd) : List Key :=
  if Com.modeBit x.w 7 then ((x.o 0).values s).map Key.fp else ((x.o 0).ints s).map Key.int

/-- TOPK's rows (R162): runs of ROWLEN, or the segments of the offset list. -/
def sortRows (s : Hw) (x : Cmd) : List (Option (List Nat)) :=
  let n := volume (x.o 0).readShape
  if Com.modeBit x.w 6 then (List.range (volume (x.o 4).readShape - 1)).map (segment ((x.o 4).ints s) n)
  else (cut (Com.param x.w 1) (List.range n)).map some

def sortRowCount (x : Cmd) : Nat :=
  if Com.modeBit x.w 6 then volume (x.o 4).readShape - 1 else volume (x.o 0).readShape / Com.param x.w 1

def sortCheck (x : Cmd) : Nat :=
  let n := volume (x.o 0).readShape
  let topk := Com.modeBit x.w 4
  let k := Com.param x.w 0
  if topk && (k < 1 || 64 < k || (!Com.modeBit x.w 6 && Com.param x.w 1 = 0)) then St.param
  else if x.named.any (fun p => !listOk p.2) then St.format
  else if volume (x.o 1).readShape ≠ n then St.shape
  else
    let out := if topk then sortRowCount x * k else n
    if volume (x.o 2).writeShape ≠ out || volume (x.o 3).writeShape ≠ out then St.shape
    else if topk then (if !Com.modeBit x.w 6 && n % Com.param x.w 1 ≠ 0 then St.shape else St.ok)
    else if 65536 < n || volume (x.o 4).writeShape ≠ n then St.shape
    else St.ok

/-- Writes a list of 32-bit patterns through a descriptor in row-major order. -/
def Hw.writeList (s : Hw) (o : Opnd) (l : List Nat) : Hw :=
  s.writeRaw o ((List.range l.length).zip l |>.map (fun p => (unlinear o.writeShape p.1, p.2)))

/-- R162: what the elements of a scratch tensor hold afterwards is open: free bytes (DESIGN CHOICE, log 10). -/
def Hw.clobber (s : Hw) (o : Opnd) : Hw :=
  let pat := fun (i : List Nat) =>
    let a := o.byteAt (i.map Int.ofNat)
    ofBytes ((List.range (fmtBits o.fmt / 8)).map (fun j => Config.freeByte s.free (a + j)))
  { (s.writeRaw o ((allIndices o.writeShape).map (fun i => (i, pat i)))) with free := s.free + 1 }

def Hw.runSort (s : Hw) (x : Cmd) : Hw × Nat :=
  let topk := Com.modeBit x.w 4
  let seg := topk && Com.modeBit x.w 6
  s.consuming x 1 ((x.o 0).spans ++ (x.o 1).spans ++ (if seg then (x.o 4).spans else [])) (fun s =>
    let pairs := (sortKeys s x).zip ((x.o 1).ints s)
    if topk then
      let rows := sortRows s x
      let n := s.noteSegments x rows
      let k := Com.param x.w 0
      let low := Key.lowest (Com.modeBit x.w 7)
      let out := rows.flatMap (fun r => match r with
        | some l => ((((sortPairs true (l.map (fun i => nth (low, -1) pairs i))).take k) ++ List.replicate k (low, -1)).take k).map (fun (p : Key × Int) => (p.1.pattern, unsigned 32 p.2))
        | none => List.replicate k (0, 0))
      (((n.1.writeList (x.o 2) (out.map (·.1))).writeList (x.o 3) (out.map (·.2))).leaveDests x, n.2)
    else
      let out := sortPairs (Com.modeBit x.w 5) pairs
      let s1 := s.clobber (x.o 4)
      (((s1.writeList (x.o 2) (out.map (fun p => p.1.pattern))).writeList (x.o 3) (out.map (fun p => unsigned 32 p.2))).leaveDests x, 0))

def execSort (tile : Fin 512) (queue : Fin 4) (s : State) : Host.Outcome State Fault Refusal :=
  s.onHw (fun h => h.unitCommand tile.val queue.val 0x25 (fun _ x => sortCheck x) (fun s x => s.runSort x))

/-! ### ROUTE (R163, R164) -/

/-- FP32 division, rounded to nearest even (R101). -/
def fdiv (a b : FVal) : FVal :=
  let n := a.neg? != b.neg?
  match a, b with
  | .nan _, _ => .nan false
  | _, .nan _ => .nan false
  | .inf _, .inf _ => .nan false
  | .inf _, _ => .inf n
  | _, .inf _ => .zero n
  | .zero _, .zero _ => .nan false
  | .zero _, _ => .zero n
  | _, .zero _ => .inf n
  | .fin _ m e, .fin _ l f => let q := divFp32 (.fin false m e) (.fin false l f); if n then q.negate else q

def routeCheck (x : Cmd) : Nat :=
  let k := Com.param x.w 0
  let e := Com.param x.w 1
  let cap := Com.param x.w 2
  let n := volume (x.o 0).readShape
  if k < 1 || 8 < k || e < 1 || 4096 < e || cap < 1 || 0x10_0000 < cap then St.param
  else if x.named.any (fun p => !listOk p.2) then St.format
  else if 0x10_0000 < n || n % k ≠ 0 || volume (x.o 1).readShape ≠ n || volume (x.o 2).writeShape ≠ e + 2 ||
      volume (x.o 3).writeShape ≠ n || volume (x.o 4).writeShape ≠ n || volume (x.o 5).writeShape ≠ n then St.shape
  else St.ok

/-- R163: the entries in priority order: slot by slot, and within a slot in token order. -/
def priority (n k : Nat) : List Nat := (List.range k).flatMap (fun j => (List.range (n / k)).map (fun t => t * k + j))

/-- R163: the buckets (entry positions by expert, the spill bucket at E) and the entries that overflow. -/
def routeBuckets (choice : Nat → Option Nat) (e cap policy : Nat) (order : List Nat) : Sparse (List Nat) × List Nat :=
  order.foldl (fun (r : Sparse (List Nat) × List Nat) p =>
    match choice p with
    | none => r
    | some c =>
      let b := Sparse.get [] r.1 c
      if b.length < cap then (Sparse.set r.1 c (b ++ [p]), r.2)
      else (if policy = 2 then Sparse.set r.1 e (Sparse.get [] r.1 e ++ [p]) else r.1, r.2 ++ [p])) ([], [])

def Hw.runRoute (s : Hw) (x : Cmd) : Hw × Nat :=
  let k := Com.param x.w 0
  let e := Com.param x.w 1
  let policy := Com.mode x.w 4 2
  s.consuming x 1 ((x.o 0).spans ++ (x.o 1).spans) (fun s =>
    let ch := (x.o 0).ints s
    let n := ch.length
    let cs := ch.map (fun c => coordOf (Desc.idxMode (x.o 0).img) [e] [c])
    let c := s.noteCoords x ((List.range n).zip cs)
    let choice := fun (p : Nat) => ((cs[p]?).bind (fun v => v.at_)).map (fun l => nth 0 l 0)
    let bk := routeBuckets choice e (Com.param x.w 2) policy (priority n k)
    let lists := (List.range (e + 1)).map (fun i => Sparse.get [] bk.1 i)
    let placed := lists.flatten
    let offs := (List.range (e + 2)).map (fun i => (lists.take i).foldl (fun a l => a + l.length) 0)
    let disp := placed.map (fun p => p / k) ++ List.replicate (n - placed.length) 0xFFFF_FFFF
    let ret := (List.range n).map (fun p => (placed.findIdx? (fun q => q == p)).getD 0xFFFF_FFFF)
    let g := (x.o 1).values s
    let isIn := fun (p : Nat) => placed.contains p
    let gates := (List.range n).map (fun p =>
      if !isIn p then FVal.zero false
      else if policy = 1 then
        let t := p / k
        fdiv (nth (.zero false) g p) (sumFirst fadd (.zero false) ((((List.range k).map (fun j => t * k + j)).filter isIn).map (nth (.zero false) g)))
      else nth (.zero false) g p)
    let s1 := (((c.1.writeList (x.o 2) offs).writeList (x.o 3) disp).writeList (x.o 4) ret).writeList (x.o 5) (gates.map (fun v => v.pat.toNat))
    let s2 := s1.leaveDests x
    let ovf := bk.2.length
    (if ovf = 0 then s2 else (s2.bump F.SHTL_ROUTE_OVF_COUNT x.t ovf).raise 0xC040 (Com.tag x.w) ovf
      { kind := 1, unit := x.t, stream := some x.n, job := some (s.jobOf x.n) }, c.2))

def execRoute (tile : Fin 512) (queue : Fin 4) (s : State) : Host.Outcome State Fault Refusal :=
  s.onHw (fun h => h.unitCommand tile.val queue.val 0x26 (fun _ x => routeCheck x) (fun s x => s.runRoute x))

/-! ### SKETCH (R165 to R167) -/

/-- R165: bytes of a sketch of n rows, and the first byte of its rows. -/
def sketchRows (n : Nat) : Nat := roundUp (64 + 4 * n) 128
def sketchLen (n : Nat) : Nat := sketchRows n + 32 * n

/-- R166: the product of a row of k elements with the projection. -/
def projProd (seed k : Nat) (fmt : Nat) (row : Nat → LEl) : Prod :=
  { m := 1, n := 64, k := k, rows := k, a := fun _ i => row i, b := fun q n => { v := projection seed q n, code := none, k := 0 },
    pos := fun _ _ => none, int := false, aPair := fmt == 0, bPair := false }

/-- R166: the 64 projections of a row of k elements, drained to FP32. -/
def project (seed k : Nat) (fmt : Nat) (row : Nat → LEl) : List FVal :=
  (List.range 64).map (fun j => (drainValue false ((projProd seed k fmt row).accum 0 j).v).1)

/-- R166, R167: a quotient rounded once, to nearest even, into INT4. -/
def quotInt4 (a b : FVal) : Int :=
  match a, b with
  | .fin n m e, .fin k l f =>
    let e0 := min e f
    let num := m <<< (e - e0).toNat
    let den := l <<< (f - e0).toNat
    let q := num / den
    let r := num - q * den
    let i := q + (if den < 2 * r || (2 * r == den && q % 2 == 1) then 1 else 0)
    if n != k then max (-8) (-(i : Int)) else min 7 (i : Int)
  | _, _ => (encodeInt (-8) 7 none (fdiv a b)).1

/-- R166: the scale of a projected row, and its INT4 elements. -/
def quantRow (z : List FVal) : FVal × List Int :=
  let sc := fdiv (z.foldl (fun a v => FVal.max100 a v.abs) (.zero false)) (FVal.ofInt 7)
  (sc, z.map (fun v => if sc.isZero then 0 else quotInt4 v sc))

/-- R165, R166: the bytes of a sketch of a weight of n rows of k elements: header and row scales, and the rows. -/
def sketchBytes (seed step k n fmt : Nat) (w : Nat → Nat → LEl) : List Byte × List Byte :=
  let rows := (List.range n).map (fun i => quantRow (project seed k fmt (w i)))
  (toBytes 8 seed ++ toBytes 4 k ++ toBytes 4 n ++ toBytes 8 step ++ toBytes 40 0 ++ rows.flatMap (fun r => toBytes 4 r.1.pat.toNat),
    rows.flatMap (fun r => packValues 4 (r.2.map (unsigned 4))))

/-- R81, R84, R166, R167: a weight or a query that SKETCH projects. -/
def sketchIn (o : Opnd) : Nat :=
  if o.rank < 2 then St.shape
  else if !fmtFloat o.loomFmt || (o.loomScaled && o.axis + 1 ≠ o.rank) then St.format
  else St.ok

/-- Bytes that a sketch descriptor covers without gaps. -/
def sketchRoom (o : Opnd) (shape : List Nat) : Nat := if contiguous o shape 0 then volume shape * fmtBits o.fmt / 8 else 0

/-- R165: K and N of the header of a stored sketch, and its seed. -/
def sketchHead (s : Hw) (o : Opnd) : Nat × Nat × Nat :=
  (ofBytes (s.peekRun (o.addr + 8) 4), ofBytes (s.peekRun (o.addr + 12) 4), ofBytes (s.peekRun o.addr 8))

def sketchCheck (s : Hw) (x : Cmd) : Nat :=
  let a := x.o 0
  if Com.modeBit x.w 4 then
    let k := Com.param x.w 0
    let t := Opnd.foldRows a.readShape
    if k < 1 || 1024 < k || (Com.modeBit x.w 5 && (decodeFloat 0 (Com.param x.w 1)).isNan) then St.param
    else if sketchIn a ≠ 0 then sketchIn a
    else if !listOk (x.o 2) || !listOk (x.o 3) then St.format
    else
      let h := sketchHead s (x.o 1)
      if sketchRoom (x.o 1) (x.o 1).readShape < 64 || h.1 ≠ Opnd.foldCols a.readShape || sketchRoom (x.o 1) (x.o 1).readShape < sketchLen h.2.1 ||
          volume (x.o 2).writeShape ≠ t * k || volume (x.o 3).writeShape ≠ t then St.shape
      else St.ok
  else if sketchIn a ≠ 0 then sketchIn a
  else if sketchRoom (x.o 1) (x.o 1).writeShape < sketchLen (Opnd.foldRows a.readShape) then St.shape
  else St.ok

/-- R165, R166: writes a sketch at a device address. -/
def Hw.writeSketch (s : Hw) (a seed step k n fmt : Nat) (w : Nat → Nat → LEl) : Hw :=
  let b := sketchBytes seed step k n fmt w
  (s.writeRun a b.1).writeRun (a + sketchRows n) b.2

/-- R166: BUILD. -/
def Hw.sketchBuild (s : Hw) (x : Cmd) : Hw × Nat :=
  let o := x.o 0
  let s1 := s.writeSketch (x.o 1).addr (Com.param64 x.w 0) (Com.param64 x.w 2) (Opnd.foldCols o.readShape) (Opnd.foldRows o.readShape) o.loomFmt (o.loomMat s)
  (s1.leaveDests x, 0)

/-- R167: the outputs selected for scores by index: TOPK, or THRESH with a least score. -/
def selectScores (scores : List FVal) (kSel : Nat) (tau : Option FVal) : List Nat :=
  let l := (List.range scores.length).zip scores
  let cand := match tau with | some t => l.filter (fun e => t.ieeeLe e.2) | none => l
  let best := (sortStable (fun (a b : Nat × FVal) => (Key.fp b.2).le (Key.fp a.2)) cand).take kSel
  sortedUnion (best.map (·.1))

/-- R167: SCORE. -/
def Hw.sketchScore (s : Hw) (x : Cmd) : Hw × Nat :=
  let q := x.o 0
  let sk := x.o 1
  let (k, n, seed) := sketchHead s sk
  let kSel := Com.param x.w 0
  let tau := if Com.modeBit x.w 5 then some (decodeFloat 0 (Com.param x.w 1)) else none
  let scale := fun (i : Nat) => decodeFloat 0 (ofBytes (s.peekRun (sk.addr + 64 + 4 * i) 4))
  let elem := fun (i j : Nat) => signed 4 (unpackValue 4 (s.peekRun (sk.addr + sketchRows n + 32 * i) 32) j)
  let sel := (List.range (Opnd.foldRows q.readShape)).map (fun t =>
    let y := project seed k q.loomFmt (q.loomMat s t)
    if y.any (fun v => !v.finite) then []
    else
      let z := quantRow y
      selectScores ((List.range n).map (fun i =>
        fmul (fmul z.1 (scale i)) (FVal.ofInt ((List.range 64).zip z.2 |>.foldl (fun a p => a + elem i p.1 * p.2) 0)).r32)) kSel tau)
  let s1 := s.writeList (x.o 2) (sel.flatMap (fun l => l ++ List.replicate (kSel - l.length) 0xFFFF_FFFF))
  let s2 := s1.writeList (x.o 3) (sel.map (fun l => l.length))
  ((s2.bump F.SHTL_SKETCH_SEL_COUNT x.t (sel.foldl (fun a l => a + l.length) 0)).leaveDests x, 0)

/-- R104, R109: stationary blocks are loaded into looms of a tile one after another, which removes their pins. -/
def Hw.loadLooms (s : Hw) (t : Nat) (looms : List Bool) (hs : List Heddle) : Hw :=
  if hs.isEmpty then s
  else (s.unpin t looms).modTile t (fun v => { v with fs := looms.foldl (fun fs b => hs.foldl (fun fs h => fs.load (loomNo b) h) fs) v.fs })

/-- R166: the last two slices of a projection of k columns, as the heddle banks hold them. -/
def projBanks (seed k fmt : Nat) : List Heddle :=
  let p := projProd seed k fmt (fun _ => LEl.zero)
  ((List.range p.slices).drop (p.slices - 2)).map (p.bank 1 false 0 64)

/-- R104, R109, R166: SKETCH loads the projection into its looms. -/
def Hw.loadProjection (s : Hw) (x : Cmd) : Hw :=
  let q := x.o 0
  let k := Opnd.foldCols q.readShape
  let seed := if Com.modeBit x.w 4 then (sketchHead s (x.o 1)).2.2 else Com.param64 x.w 0
  s.loadLooms x.t (loomsOf (Com.mode x.w 7 2)) (projBanks seed k q.loomFmt)

def execSketch (tile : Fin 512) (queue : Fin 4) (s : State) : Host.Outcome State Fault Refusal :=
  s.onHw (fun h => h.unitCommand tile.val queue.val 0x27 sketchCheck (fun s x =>
    s.consuming x 1 x.sourceSpans (fun s =>
      let s1 := s.loadProjection x
      if Com.modeBit x.w 4 then s1.sketchScore x else s1.sketchBuild x)))

/-! ### MOVE (R240, R304) -/

def moveCheck (x : Cmd) : Nat :=
  let d := x.o 0
  let a := x.o 1
  if a.fmt ≠ d.fmt || a.scaled != d.scaled then St.format
  else if a.readShape ≠ d.writeShape then St.shape
  else St.ok

/-- R240, R304: MOVE copies a source to a destination of the same format; dross is passed on.  A compressed-row destination
goes through the encoder (R143). -/
def Hw.runMove (s : Hw) (x : Cmd) : Hw × Nat :=
  let d := x.o 0
  let a := x.o 1
  let s0 := (s.consumeBy a.spans).1
  if d.crow then ((s0.movePanels a d (fun i => some (Desc.coreOf a.img i))).leaveDests x, 0)
  else
    let r := s0.moveElems a d ((allIndices d.writeShape).map (fun i => (some (Desc.coreOf a.img i), i)))
    let c := r.1.countSat x.n r.2
    (c.1.leaveDests x, c.2)

def execMove (tile : Fin 512) (queue : Fin 4) (s : State) : Host.Outcome State Fault Refusal :=
  s.onHw (fun h => h.unitCommand tile.val queue.val 0x40 (fun _ x => moveCheck x) (fun s x => s.runMove x))

end Sys2Proof.Machine
end

