-- ==== Sys2Proof/Machine/Transfer.lean ====
section
/-!
DEFINITION. Remote access (R219, R369 to R371, R378): PUT and GET, and what arrives for them: write data, read requests, read
responses, acknowledges and refusals.
-/
namespace Sys2Proof.Machine

/-! ### The bytes of a transfer -/

def putRun (m : Sparse Nat) (p q n : Nat) : Sparse Nat := (List.range n).foldl (fun m k => Sparse.set m (p + k) (q + k)) m

/-- R240, R369: the element bytes of a destination of the same shape and format, with the source byte of each. -/
def elemMap (src dst : Opnd) : Sparse Nat :=
  let w := max 1 (fmtBits dst.fmt / 8)
  (allIndices dst.writeShape).foldl (fun m i => putRun m (dst.byteAt (i.map Int.ofNat)) (src.byteAt (Desc.coreOf src.img i)) w) []

/-- The scale codes of a block-scaled destination, with the source byte of each. -/
def scaleMap (src dst : Opnd) : Sparse Nat :=
  if dst.scaled then
    (allIndices dst.writeShape).foldl (fun m i =>
      putRun m (elemPlace dst.scaleAddr dst.scale (dst.scaleOff (i.map Int.ofNat))).1
        (elemPlace src.scaleAddr src.scale (src.scaleOff (Desc.coreOf src.img i))).1 1) []
  else []

/-- R77: the bytes whose upper nibble lies beyond an odd dimension of a 4-bit destination. -/
def oddBytes (o : Opnd) : List Nat :=
  let last := o.rank - 1
  let n := Desc.size o.img last
  if fmtBits o.fmt = 4 && n % 2 = 1 then
    ((allIndices o.writeShape).filter (fun i => nth 0 i last + 1 == n)).map (fun i => o.byteAt (i.map Int.ofNat))
  else []

/-- R77, R206: a byte as a transfer writes it: beside the last element of an odd 4-bit dimension the unused upper nibble is zero, and one
that belongs to the halo stays as it is.  A flit has no finer mask than a byte: what it brings there is free (DESIGN CHOICE, log 85). -/
def Hw.oddByte (s : Hw) (o : Opnd) (odd : List Nat) (a : Nat) (b : Byte) : Byte :=
  if odd.contains a then
    (b &&& 0x0F) ||| (if Desc.haloHi o.img (o.rank - 1) = 0 then 0
      else if (keyFar a).isNone then s.peek a &&& 0xF0 else Config.freeByte s.free a &&& 0xF0)
  else b

/-- R378: the panels of a compressed row operand that lie in its range: OFFSET and LEN, from the directory at a local address. -/
def Hw.panelsAt (s : Hw) (o : Opnd) (dir : Nat) : List (Nat × Nat) :=
  ((List.range o.panels).map (fun p => let v := ofBytes (s.peekRun (dir + 8 * p) 8); (bits v 0 40, bits v 40 24))).filter
    (fun d => d.2 != 0 && decide (d.1 + d.2 ≤ Desc.crowLen o.img))

/-- R378: the bytes that move between two compressed row operands of one module: destination byte and source byte. -/
def Hw.panelMap (s : Hw) (src dst : Opnd) : Sparse Nat :=
  (s.panelsAt src src.addr).foldl (fun m d => (List.range d.2).foldl (fun m k => Sparse.set m (dst.addr + d.1 + k) (src.addr + d.1 + k)) m)
    ((List.range (8 * dst.panels)).map (fun k => (dst.addr + k, src.addr + k)))

/-- The data bytes that move: destination byte and source byte. -/
def Hw.dataMap (s : Hw) (src dst : Opnd) : Sparse Nat := if dst.crow then s.panelMap src dst else elemMap src dst

/-- A transfer's bytes: its data, then its scale codes. -/
def Hw.transferMaps (s : Hw) (src dst : Opnd) : List (Sparse Nat) := [s.dataMap src dst, scaleMap src dst]

/-- The source bytes of a transfer as the link unit takes them in. -/
def Hw.transferSpans (s : Hw) (src : Opnd) : List Span := if src.crow then s.panelSpans src else src.spans

/-- The atoms (by number) of destination bytes that a dross source byte feeds. -/
def Hw.fedDross (s : Hw) (m : Sparse Nat) : List Nat := sortedUnion ((m.filter (fun e => s.drossAt e.2)).map (fun e => e.1 / 128))

/-! ### Transfers under way -/

/-- A new transfer and its tag: at least 0x1_0000 and below 2³¹, so that a refusal tells it from a latch message (DESIGN CHOICE, log 41). -/
def Hw.newXfer (s : Hw) (x : Xfer) : Hw × Nat :=
  let id := 0x1_0000 + s.lnk.nextXfer % 0x7FFF_0000
  ({ s with lnk := { s.lnk with nextXfer := s.lnk.nextXfer + 1, xfers := Sparse.set s.lnk.xfers id x } }, id)

/-- A link command's status becomes final. -/
def Hw.finishFlight (s : Hw) (n num st : Nat) : Hw :=
  s.modFlight n num (fun f => match f.stage with
    | .running => { f with stage := .done (joinStatus f.acc st) }
    | .carried => { f with stage := .done (joinStatus f.acc st) }
    | _ => f)

/-- The destination of a GET under way. -/
def Hw.getDest (s : Hw) (x : Xfer) : Option Opnd :=
  if x.get then ((s.ctxOf x.stream).flight.find? (fun f => f.num == x.num)).bind (fun f => nth none f.ops 0) else none

/-- R369: k bytes of a transfer are delivered; with the last, and a GET's halo ring after it (R206), its command has nothing left to do. -/
def Hw.countXfer (s : Hw) (id k : Nat) : Hw :=
  match Sparse.find? s.lnk.xfers id with
  | none => s
  | some x =>
    let y := { x with acked := x.acked + k }
    if y.total ≤ y.acked && y.panels.isNone then
      let s1 := match s.getDest x with
        | some o => s.writeHalo o
        | none => s
      ({ s1 with lnk := { s1.lnk with xfers := Sparse.erase s1.lnk.xfers id } } : Hw).finishFlight x.stream x.num 0
    else { s with lnk := { s.lnk with xfers := Sparse.set s.lnk.xfers id y } }

/-- The header of a flit that a command of a stream sends to a far address. -/
def Hw.flitFor (s : Hw) (n id kind far a : Nat) : Flit :=
  { Flit.idle with
    cls := 3, kind := kind, hops := 16, addr := (far <<< 52) + a / 128 * 128, stream := n, job := s.jobOf n, src := s.me, dst := far, xfer := id,
    off := a % 128 }

/-- R369: the write flits of a run of bytes. -/
def Hw.sendRun (s : Hw) (n id kind far ew : Nat) (dross : List Nat) (sched : Bool) (run : Nat × List Byte) : Hw :=
  (cutRun ew dross.contains run.2.length run.1 run.2).foldl (fun s p =>
    s.sendFlit { s.flitFor n id kind far p.1 with len := p.2.length, ew := ew, data := p.2, dross := drossMask dross.contains p.1 p.2.length } sched) s

/-- R369: the write flits of bytes of far modules, by device address with its module. -/
def Hw.sendCells (s : Hw) (n id kind ew : Nat) (dross : List Nat) (sched : Bool) (cells : Sparse Byte) : Hw :=
  (runsOf cells).foldl (fun s p =>
    let bad := (dross.filter (fun d => keyFar (d * 128) == keyFar p.1)).map (· % (1 <<< 33))
    s.sendRun n id kind ((keyFar p.1).getD 0) ew bad sched (bits p.1 0 40, p.2)) s

/-- R369: stretches of at most 2,048 B, from a far address to a local one. -/
def cutStretch (f l n : Nat) : List (Nat × Nat × Nat) := (List.range (ceilDiv n 2048)).map (fun i => (f + 2048 * i, l + 2048 * i, min 2048 (n - 2048 * i)))

/-- The stretches of a byte map: device address with its module, local address, length. -/
def stretches (m : Sparse Nat) : List (Nat × Nat × Nat) :=
  (m.foldl (fun (r : List (Nat × Nat × Nat)) e => match r with
    | (f, l, n) :: t => if e.1 = l + n && e.2 % (1 <<< 64) = f + n then (f, l, n + 1) :: t else (e.2 % (1 <<< 64), e.1, 1) :: r
    | [] => [(e.2 % (1 <<< 64), e.1, 1)]) []).reverse.flatMap (fun p => cutStretch p.1 p.2.1 p.2.2)

/-- R369: the read requests of a GET, with the width its data may be elided under (R379) and whether it asks for compressed rows (R378). -/
def Hw.sendReads (s : Hw) (n id ew : Nat) (crow sched : Bool) (parts : List (Nat × Nat × Nat)) : Hw :=
  parts.foldl (fun s p => s.sendFlit { s.flitFor n id 1 (bits p.1 52 12) (bits p.1 0 40) with len := p.2.2, ew := ew, crow := crow } sched) s

/-! ### PUT and GET -/

/-- R219, R369, R378: OP0 is the local operand, OP1 the remote one. -/
def transferCheck (x : Cmd) : Nat :=
  let src := if Com.opcode x.w = 0x50 then x.o 0 else x.o 1
  let dst := if Com.opcode x.w = 0x50 then x.o 1 else x.o 0
  if src.crow != dst.crow then St.format
  else if src.fmt ≠ dst.fmt || src.scaled != dst.scaled || (src.scaled && src.axis ≠ dst.axis) || src.readShape ≠ dst.writeShape then St.shape
  else St.ok

/-- The bytes of a map that go to this module: written, and dross passed on. -/
def Hw.moveHere (s : Hw) (dst : Opnd) (m : Sparse Nat) : Hw :=
  let odd := oddBytes dst
  (s.writeAddrs (m.map (fun e => (e.1, s.oddByte dst odd e.1 (s.peek e.2))))).passDross ((s.fedDross m).map (· * 128))

/-- Both operands on this module: the bytes move inside it, dross with them (R219, R304). -/
def Hw.localTransfer (s : Hw) (x : Cmd) (src dst : Opnd) : Hw :=
  let s1 := (s.consumeBy (s.transferSpans src)).1
  (((s1.transferMaps src dst).foldl (fun s m => s.moveHere dst m) s1).leaveDests x).done x 0

/-- R206, R369: PUT: the link unit takes the source in and sends it, dross as dross, with the halo ring of the destination. -/
def Hw.farPut (s : Hw) (x : Cmd) (src dst0 : Opnd) : Hw :=
  let dst := dst0.keyed
  let s0 := (s.consumeBy (s.transferSpans src)).1
  let s1 : Hw := { s0 with free := s0.free + 1 }
  let ms := s1.transferMaps src dst
  let odd := oddBytes dst
  let bytes := fun (m : Sparse Nat) => m.map (fun e => (e.1, s0.oddByte dst odd e.1 (s1.peek e.2)))
  let whole := s1.haloCells dst (ms.foldl (fun c m => (bytes m).foldl (fun c e => Sparse.set c e.1 e.2) c) [])
  let scales := fun (k : Nat) => dst.scaled && decide (dst.scaleRange.1 ≤ k) && decide (k ≤ dst.scaleRange.2)
  let away := whole.filter (fun e => (keyFar e.1).isSome)
  let dross := ms.flatMap s1.fedDross
  let sched := !Com.modeBit x.w 6
  let r := s1.newXfer { stream := x.n, num := x.num, get := false, total := away.length, acked := 0, parts := [], panels := none, sched := sched }
  let near := whole.filter (fun e => (keyFar e.1).isNone)
  let s2 := (r.1.writeAddrs near).passDross ((dross.filter (fun a => (keyFar (a * 128)).isNone)).map (· * 128))
  let s3 := (s2.touch x.t dst0).fly x .running .link
  let s4 := s3.sendCells x.n r.2 (if dst.crow then 4 else 0) (s3.elisionWidth dst.fmt) dross sched (away.filter (fun e => !scales e.1))
  s4.sendCells x.n r.2 0 (s4.elisionWidth 10) dross sched (away.filter (fun e => scales e.1))

/-- R369: PUT. -/
def Hw.startPut (s : Hw) (x : Cmd) : Hw :=
  if (x.o 1).reachesFar then s.farPut x (x.o 0) (x.o 1) else s.localTransfer x (x.o 0) (x.o 1)

def execPut (tile : Fin 512) (queue : Fin 4) (s : State) : Host.Outcome State Fault Refusal :=
  s.onHw (fun h => h.unitRun tile.val queue.val 0x50 (fun _ x => transferCheck x) (fun s x => s.startPut x))

/-- R369: GET: the link unit asks for the source; of compressed rows, for the directory first (R378).  The halo ring follows the last
byte (R206). -/
def Hw.farGet (s : Hw) (x : Cmd) (src0 dst : Opnd) : Hw :=
  let src := src0.keyed
  let s0 := (s.consumeBy (s.transferSpans src0)).1
  let ms := if dst.crow then [] else s0.transferMaps src dst
  let here := ms.map (fun m => m.filter (fun e => (keyFar e.2).isNone))
  let away := ms.map (fun m => stretches (m.filter (fun e => (keyFar e.2).isSome)))
  let parts := if dst.crow then cutStretch (src.addr % (1 <<< 64)) dst.addr (8 * dst.panels) else away.flatten
  let sched := !Com.modeBit x.w 6
  let r := s0.newXfer { stream := x.n, num := x.num, get := true, total := parts.foldl (fun a p => a + p.2.2) 0, acked := 0, parts := parts,
                        panels := if dst.crow then some (src, dst) else none, sched := sched }
  let s1 := ((here.foldl (fun s m => s.moveHere dst m) r.1).touch x.t dst).fly x .running .link
  let ew := fun (f : Nat) => match fmtBits f with | 8 => 1 | 16 => 2 | _ => 0
  if dst.crow then s1.sendReads x.n r.2 (ew dst.fmt) true sched parts
  else (s1.sendReads x.n r.2 (ew dst.fmt) false sched (nth [] away 0)).sendReads x.n r.2 (ew 10) false sched (nth [] away 1)

/-- R369: GET. -/
def Hw.startGet (s : Hw) (x : Cmd) : Hw :=
  if (x.o 1).reachesFar then s.farGet x (x.o 1) (x.o 0) else s.localTransfer x (x.o 1) (x.o 0)

def execGet (tile : Fin 512) (queue : Fin 4) (s : State) : Host.Outcome State Fault Refusal :=
  s.onHw (fun h => h.unitRun tile.val queue.val 0x51 (fun _ x => transferCheck x) (fun s x => s.startGet x))

/-! ### Arriving accesses (R370) -/

/-- R370: the bytes lie in one GDDR7 or STORE region of the job, or a SHARED one; store bytes also in a resident partition of a
stream of the job on that tile. -/
def Hw.farAllowed (s : Hw) (job addr n : Nat) : Bool :=
  let lo := bits addr 0 40
  let hi := lo + n - 1
  let region := s.regions.any (fun e =>
    Region.space e.2 ≤ 1 && Region.base e.2 ≤ lo && hi < Region.base e.2 + Region.size e.2 && (Region.job e.2 == job || Region.shared e.2))
  let t := (lo - storeBase) / 0x40_0000
  let o := (lo - storeBase) % 0x40_0000
  bits addr 40 12 == 0 && 0 < n && region &&
    (decide (lo < storeBase) || (!s.flt.offline.contains t && (s.getPhys (s.physOf t)).resident.any (fun r =>
      r.filled && s.jobOf r.stream == job && decide (r.pbase * 4096 ≤ o) && decide (o + n ≤ (r.pbase + r.psize) * 4096))))

/-- R370: an arriving access is refused: event 0x6041, the count, and a refusal record to its origin. -/
def Hw.refuseAccess (s : Hw) (src xfer addr : Nat) : Hw :=
  ((s.bump F.LNK_REFUSED_COUNT).raise 0x6041 src addr { kind := 4 }).routeRecord src (ctlRecord 0x07 src s.me 16 (refusalBody xfer 1))

/-- R400: what the donor of a re-seed sends passes the guard of the manifest ranges. -/
def Hw.unguarded (s : Hw) (f : Hw → Hw) : Hw :=
  let s1 := f { s with twin := { s.twin with manifest := [] } }
  { s1 with twin := { s1.twin with manifest := s.twin.manifest } }

/-- R368, R381, R400: data of a re-seed's copy (bit 30 of XFER clear) or of a mirrored write goes to the same addresses, dross with it, once; a
dross form carries none and makes its atoms dross. -/
def Hw.arriveSeed (s : Hw) (xfer addr len : Nat) (data : Option (List Byte)) (dross : Nat) : Hw :=
  if s.lnk.seen.contains (s.twinId, xfer, addr) then s
  else
    let a := bits addr 0 40
    let at_ := ((List.range (ceilDiv (a % 128 + len) 128)).filter (bit dross)).map (fun i => (a / 128 + i) * 128)
    let s2 := s.unguarded (fun s => match data with
      | some bs => (s.writeRun a bs).passDross at_
      | none => at_.foldl (fun s b => s.markDross b) s)
    let s3 : Hw := { s2 with lnk := { s2.lnk with seen := (s.twinId, xfer, addr) :: s2.lnk.seen } }
    if bit xfer 30 then s3
    else s3.wr64 .TWIN_SEED_POS_LO .TWIN_SEED_POS_HI (s3.rd64 .TWIN_SEED_POS_LO .TWIN_SEED_POS_HI + len)

/-- R368, R370, R371: arriving write data: discarded if accepted already, refused, or written with its dross and acknowledged.  `len` is
the number of bytes; a dross form carries no data (R381). -/
def Hw.arriveWrite (s : Hw) (src job xfer addr len : Nat) (data : Option (List Byte)) (dross : Nat) : Hw :=
  if s.fget F.TWIN_STATUS_STATE == 4 && src == s.twinId && bit xfer 31 then s.arriveSeed xfer addr len data dross
  else if s.lnk.seen.contains (src, xfer, addr) then s
  else if !s.farAllowed job addr len then s.refuseAccess src xfer addr
  else
    let a := bits addr 0 40
    let s1 := match data with | some bs => s.writeRun a bs | none => s
    let bad := (List.range (ceilDiv (a % 128 + len) 128)).filter (bit dross)
    let at_ := bad.map (fun i => (a / 128 + i) * 128)
    let s2 := if data.isSome then s1.passDross at_ else at_.foldl (fun s b => s.markDross b) s1
    ({ s2 with lnk := { s2.lnk with seen := (src, xfer, addr) :: s2.lnk.seen } } : Hw).routeRecord src
      (ctlRecord 0x06 src s.me 16 (xfer % (1 <<< 32) + (len <<< 32)))

/-- R370, R371, R378, R379: an arriving read request: refused, or answered with the data as this module's link unit takes it in, elided by the
width the request gives.  Compressed row data goes in flits of KIND 4 addressed to the module that asks (DESIGN CHOICE, log 86). -/
def Hw.arriveRead (s : Hw) (src stream job xfer addr len ew : Nat) (crow : Bool) : Hw :=
  if !s.farAllowed job addr len then s.refuseAccess src xfer addr
  else
    let a := bits addr 0 40
    let s1 := (s.consume [(a, a + len - 1)]).1
    let bs := s1.peekRun a len
    let dross := fun (k : Nat) => s1.drossAt (k * 128)
    let width := if s.flag F.LNK_CTL_ELIDE && ew ≤ 2 then ew else 0
    (cutRun width dross len a bs).foldl (fun s p =>
      s.sendFlit { Flit.idle with
        cls := 3, kind := if crow then 4 else 2, hops := 16, addr := ((if crow then src else s.me) <<< 52) + p.1 / 128 * 128, stream := stream, job := job,
        src := src, dst := src, xfer := xfer, off := p.1 % 128, len := p.2.length, ew := width, data := p.2,
        dross := drossMask dross p.1 p.2.length } false) s1

/-- R378: the directory of a compressed row GET has arrived: its panels are asked for. -/
def Hw.requestPanels (s : Hw) (id : Nat) : Hw :=
  match Sparse.find? s.lnk.xfers id with
  | none => s
  | some x =>
    match x.panels with
    | none => s
    | some (src, dst) =>
      if x.acked < x.total then s
      else
        let parts := (s.panelsAt dst dst.addr).flatMap (fun d => cutStretch (src.addr % (1 <<< 64) + d.1) (dst.addr + d.1) d.2)
        let y := { x with panels := none, parts := parts, total := x.total + parts.foldl (fun a p => a + p.2.2) 0 }
        let s1 : Hw := { s with lnk := { s.lnk with xfers := Sparse.set s.lnk.xfers id y } }
        (s1.sendReads x.stream id (match fmtBits dst.fmt with | 8 => 1 | 16 => 2 | _ => 0) true x.sched parts).countXfer id 0

/-- R369, R371: arriving read-response data: the bytes go where the GET wants those of that far address (DEDUCED, log 42). -/
def Hw.arriveResponse (s : Hw) (xfer addr len : Nat) (data : Option (List Byte)) (dross : Nat) : Hw :=
  match Sparse.find? s.lnk.xfers xfer with
  | none => s
  | some x =>
    let a := bits addr 0 40
    match x.parts.find? (fun p => x.get && (bits addr 52 12 == s.me || bits addr 52 12 == bits p.1 52 12) && decide (bits p.1 0 40 ≤ a) &&
        decide (a + len ≤ bits p.1 0 40 + p.2.2)) with
    | none => s
    | some p =>
      if s.lnk.seen.contains (s.me, xfer, addr) then s
      else
        let l := p.2.1 + (a - bits p.1 0 40)
        let cells := fun (bs : List Byte) => match s.getDest x with
          | some o => let odd := oddBytes o; (runCells l bs).map (fun (e : Nat × Byte) => (e.1, s.oddByte o odd e.1 e.2))
          | none => runCells l bs
        let s1 := match data with
          | some bs => s.writeAddrs (cells bs)
          | none => s
        -- the atoms of the destination that the dross atoms of the flit reach
        let hit := (List.range len).filter (fun i => bit dross ((a % 128 + i) / 128))
        let at_ := sortedUnion (hit.map (fun i => (l + i) / 128 * 128))
        let s2 := if data.isSome then s1.passDross at_ else at_.foldl (fun s b => s.markDross b) s1
        let s3 : Hw := { s2 with lnk := { s2.lnk with seen := (s.me, xfer, addr) :: s2.lnk.seen } }
        (s3.countXfer xfer len).requestPanels xfer

/-! ### The rows -/

/-- R364, R365: takes the first waiting flit of a kind from a link's receive buffers: HOLD falls at 16, a dynamic flit frees a
credit. -/
def Hw.takeFlit (s : Hw) (l kind : Nat) : Hw :=
  let x := s.getLink l
  match x.rxSched.findIdx? (fun f => f.kind == kind) with
  | some i =>
    let r := x.rxSched.eraseIdx i
    s.setLink l { x with rxSched := r, hold := x.hold && decide (16 < r.length) }
  | none =>
    match x.rxDyn.findIdx? (fun f => f.kind == kind) with
    | some i => s.setLink l { x with rxDyn := x.rxDyn.eraseIdx i, freed := x.freed + 1 }
    | none => s

/-- R362: takes the first waiting long control message of a kind. -/
def Hw.takeLong (s : Hw) (l kind : Nat) : Hw :=
  let x := s.getLink l
  match x.rxLong.findIdx? (fun f => f.kind == kind) with
  | some i => s.setLink l { x with rxLong := x.rxLong.eraseIdx i }
  | none => s

def execWriteData (link : Fin 64) (src stream job : BitVec 16) (xfer : BitVec 32) (addr : BitVec 64) (data : List Byte) (dross : BitVec 17) (s : State) :
    Host.Outcome State Fault Refusal :=
  let _ := stream
  s.onHw (fun h => (h.takeFlit link.val 0).arriveWrite src.toNat job.toNat xfer.toNat addr.toNat data.length (some data) dross.toNat)

/-- R378: arriving compressed row data: that of a GET of this module goes where the GET wants it, other data is written like any other. -/
def Hw.arriveCrow (s : Hw) (src job xfer addr len : Nat) (data : Option (List Byte)) (dross : Nat) : Hw :=
  if src == s.me && (Sparse.find? s.lnk.xfers xfer).isSome then s.arriveResponse xfer addr len data dross else s.arriveWrite src job xfer addr len data dross

/-- R378. -/
def execCrowWriteData (link : Fin 64) (src stream job : BitVec 16) (xfer : BitVec 32) (addr : BitVec 64) (data : List Byte) (dross : BitVec 17)
    (s : State) : Host.Outcome State Fault Refusal :=
  let _ := stream
  s.onHw (fun h => (h.takeFlit link.val 4).arriveCrow src.toNat job.toNat xfer.toNat addr.toNat data.length (some data) dross.toNat)

def execReadRequest (link : Fin 64) (src stream job : BitVec 16) (xfer : BitVec 32) (addr : BitVec 64)
    (len : BitVec 12 × BitVec 2 × Bool) (s : State) : Host.Outcome State Fault Refusal :=
  s.onHw (fun h => (h.takeFlit link.val 1).arriveRead src.toNat stream.toNat job.toNat xfer.toNat addr.toNat len.1.toNat len.2.1.toNat len.2.2)

def execReadResponse (link : Fin 64) (xfer : BitVec 32) (addr : BitVec 64) (data : List Byte) (dross : BitVec 17) (s : State) :
    Host.Outcome State Fault Refusal :=
  s.onHw (fun h => (h.takeFlit link.val 2).arriveResponse xfer.toNat addr.toNat data.length (some data) dross.toNat)

/-- R369: a write acknowledge counts towards a PUT. -/
def execWriteAcknowledge (link : Fin 64) (xfer : BitVec 32) (bytes : BitVec 32) (s : State) : Host.Outcome State Fault Refusal :=
  s.onHw (fun h => (h.takeRecord link.val 0x06).countXfer xfer.toNat bytes.toNat)

end Sys2Proof.Machine
end

