-- ==== Sys2Proof/Machine/Function.lean ====
section
/-!
DEFINITION. The Finisher's function unit (R178, R181, R182): reciprocal and roots, logarithm, exponential and the functions of
ACT.  The spec bounds their errors and states no pattern: the value is free within the bound (DESIGN CHOICE, log 14).  Each bound is tested
against an approximation of the exact value that is far closer than one ulp.
-/
namespace Sys2Proof.Machine

/-! ### The function unit (R178, R181) -/

/-- The FP32 neighbours: a candidate result within one ulp of an exact one is kept, any other gives way to the truncated
result.  `within c` says whether the pattern c errs by at most one ulp. -/
def oneUlp (code : Nat) (x : FVal) (truncated : FVal) (within : FVal → Bool) : FVal :=
  let c := ofPat (Config.functionUnit code x.pat 0)
  if c.finite && !c.isZero && c.neg? == truncated.neg? && within c then c else truncated

/-- ⌊n / d⌋ scaled to 24 significant bits: the truncated quotient of two positive numbers m × 2^e / (l × 2^f). -/
def divTrunc (m : Nat) (e : Int) (l : Nat) (f : Int) : Nat × Int :=
  let up := 26 + Nat.log2 l
  let q := (m <<< up) / l
  let d := Nat.log2 q - 23
  (q >>> d, e - f - up + d)

/-- R178: RECIP: 1 / a; 1/±0 = ±Inf.  Within one ulp: |c × a − 1| ≤ ulp(c) × a. -/
def fRecip (a : FVal) : FVal :=
  match a with
  | .nan _ => .nan false
  | .inf n => .zero n
  | .zero n => .inf n
  | .fin n m e =>
    let q := divTrunc 1 0 m e
    let t : FVal := .fin n q.1 q.2
    let ulp : FVal := .fin false 1 q.2
    (oneUlp 0x0A a t (fun c =>
      let err := (((c.abs).mulExact (.fin false m e)).addExact (.fin true 1 0)).abs
      err.le (ulp.mulExact (.fin false m e)))).r32

/-- The truncated square root of m × 2^e to 24 bits. -/
def sqrtTrunc (m : Nat) (e : Int) : Nat × Int :=
  -- shift so that the exponent is even and the root has at least 24 bits
  let k := 52 + (e % 2).toNat
  let r := Nat.sqrt (m <<< k)
  let d := Nat.log2 r - 23
  (r >>> d, (e - k) / 2 + d)

/-- R178: SQRT. -/
def fSqrt (a : FVal) : FVal :=
  match a with
  | .nan _ => .nan false
  | .inf n => if n then .nan false else .inf false
  | .zero n => .zero n
  | .fin true _ _ => .nan false
  | .fin false m e =>
    let q := sqrtTrunc m e
    let t : FVal := .fin false q.1 q.2
    let ulp : FVal := .fin false 1 q.2
    (oneUlp 0x0C a t (fun c =>
      let lo := c.addExact ulp.negate
      let hi := c.addExact ulp
      (lo.mulExact lo).le a && a.le (hi.mulExact hi))).r32

/-- R178: RSQRT; a value below −0 gives NaN. -/
def fRsqrt (a : FVal) : FVal :=
  match a with
  | .nan _ => .nan false
  | .inf n => if n then .nan false else .zero false
  | .zero n => .inf n
  | .fin true _ _ => .nan false
  | .fin false m e =>
    -- 1/√a = √(1/a): the quotient with 80 bits, then the root
    let up := 160 + Nat.log2 m
    let q := sqrtTrunc ((1 <<< up) / m) (-(up : Int) - e)
    let t : FVal := .fin false q.1 q.2
    let ulp : FVal := .fin false 1 q.2
    let oneV : FVal := .fin false 1 0
    (oneUlp 0x0B a t (fun c =>
      let lo := c.addExact ulp.negate
      let hi := c.addExact ulp
      ((lo.mulExact lo).mulExact a).le oneV && oneV.le ((hi.mulExact hi).mulExact a))).r32

/-! ### Exact values, closely -/

/-- The value of a fixed-point number with p fraction bits. -/
def ofFix (p : Nat) (i : Int) : FVal := (FVal.ofInt i).scale (-(p : Int))

/-- A value as a fixed-point number with p fraction bits, truncated. -/
def FVal.fix (p : Nat) : FVal → Int
  | .fin n m e =>
    let k := e + p
    let v : Int := ((if k < 0 then m >>> (-k).toNat else m <<< k.toNat : Nat) : Int)
    if n then -v else v
  | _ => 0

/-- The quotient of two values, to at least 256 bits. -/
def FVal.quot (a b : FVal) : FVal :=
  match a, b with
  | .fin n m e, .fin k l f =>
    let up := 256 + Nat.log2 l
    .fin (xor n k) ((m <<< up) / l) (e - f - up)
  | x, _ => x

/-- ln 2 × 2^512. -/
def ln2Fix : Nat :=
  0xb17217f7d1cf79abc9e3b39803f2f6af40f343267298b62d8a0d175b8baafa2be7b876206debac98559552fb4afa1b10ed2eae35c138214427573b291169b825

/-- 1/√(2π) × 2^512. -/
def normFix : Nat :=
  0x662114cf50d942343f2cf1402eae38bfd3829f30512706d8c0471b4802639d2e9df8ac55447d3db723f5d3abb374e88deb14277970be1513278e993445f08cff

/-- Σ of a power series at p fraction bits: each term is the one before it times x over the next divisor. -/
def seriesSum (p : Nat) (x : Int) (divisor : Nat → Nat) : Nat → Nat → Int → Int → Int
  | 0, _, _, acc => acc
  | n + 1, k, term, acc =>
    let next := (term * x) / ((1 <<< p : Nat) : Int) / (divisor k : Int)
    seriesSum p x divisor n (k + 1) next (acc + next)

/-- e^x, for a magnitude below 256. -/
def expNear (x : FVal) : FVal :=
  let p := 512
  let f := x.fix p
  let k := f / (ln2Fix : Int)
  let one : Int := ((1 <<< p : Nat) : Int)
  (ofFix p (seriesSum p (f - k * ln2Fix) id 96 1 one one)).scale k

/-- e^x − 1, for a magnitude below 256 that is not zero: without cancellation. -/
def expm1Near (x : FVal) : FVal :=
  if x.abs.le (.fin false 1 (-2)) then
    let f := x.fix 512
    ofFix 512 (seriesSum 512 f (fun k => k + 1) 96 1 f f)
  else (expNear x).addExact (.fin true 1 0)

/-- Σ z^(2k+1) / (2k+1), doubled: ln ((1 + z) / (1 − z)). -/
def atanhSum (p : Nat) (z2 : Int) : Nat → Nat → Int → Int → Int
  | 0, _, _, acc => 2 * acc
  | n + 1, k, pow, acc =>
    let next := (pow * z2) / ((1 <<< p : Nat) : Int)
    atanhSum p z2 n (k + 1) next (acc + pow / (2 * k + 1 : Nat))

/-- ln (a/b) for 1/2 ≤ a/b ≤ 2. -/
def lnRatio (a b : Nat) : FVal :=
  let p := 512
  let z : Int := (((a : Int) - (b : Int)) * ((1 <<< p : Nat) : Int)) / ((a + b : Nat) : Int)
  ofFix p (atanhSum p (z * z / ((1 <<< p : Nat) : Int)) 96 0 z 0)

/-- ln of a positive value. -/
def lnNear (m : Nat) (e : Int) : FVal :=
  let l := Nat.log2 m
  (lnRatio m (1 <<< l)).addExact (ofFix 512 ((l + e) * (ln2Fix : Int)))

/-- ln (1 + E) for 0 < E ≤ 1. -/
def log1pNear (x : FVal) : FVal :=
  let z := (x.quot (x.addExact (.fin false 2 0))).fix 512
  ofFix 512 (atanhSum 512 (z * z / ((1 <<< 512 : Nat) : Int)) 160 0 z 0)

/-- σ(x) = 1 / (1 + e^−x), for a magnitude below 128. -/
def sigmoidNear (x : FVal) : FVal :=
  let u := expNear x.abs.negate
  let d := u.addExact (.fin false 1 0)
  if x.neg? then u.quot d else (FVal.fin false 1 0).quot d

/-- tanh of a magnitude below 64 that is not zero. -/
def tanhNear (x : FVal) : FVal :=
  let u := expm1Near (x.abs.scale 1)
  let t := u.quot (u.addExact (.fin false 2 0))
  if x.neg? then t.negate else t

/-- φ(x), the standard normal density, for a magnitude below 16. -/
def densityNear (x : FVal) : FVal :=
  (ofFix 512 normFix).mulExact (expNear ((x.mulExact x).negate.scale (-1)))

/-- Φ(x) = ½ + φ(x) Σ x^(2k+1) / (1 · 3 ⋯ (2k+1)), for a magnitude below 16. -/
def cumulNear (x : FVal) : FVal :=
  let p := 512
  let f := x.fix p
  let sum := seriesSum p (f * f / ((1 <<< p : Nat) : Int)) (fun k => 2 * k + 1) 640 1 f f
  (FVal.fin false 1 (-1)).addExact ((densityNear x).mulExact (ofFix p sum))

/-! ### Values free within a bound (DESIGN CHOICE, log 14) -/

/-- The rounding unit of a value's binade. -/
def ulpOf : FVal → FVal
  | .fin _ m e => .fin false 1 (FVal.log2 m e - 23)
  | _ => .zero false

/-- A function's FP32 result: free within k ulp of the exact value t, or within `room` where that is larger; the candidate
of the function unit where it lies there, t rounded where it does not. -/
def bounded (code : Nat) (x y : FVal) (k : Nat) (room t : FVal) : FVal :=
  let c := ofPat (Config.functionUnit code x.pat y.pat)
  let reach := ((FVal.fin false k 0).mulExact (ulpOf t)).max100 room
  if c.finite && (c.addExact t.negate).abs.le reach && (!c.isZero || c.neg? == t.neg?) then c else t.r32

/-- The least magnitude from which a function's value is its limit to FP32. -/
def far128 (x : FVal) : Bool := (FVal.fin false 1 7).le x.abs

/-- R178: LOG, within 2 ulp. -/
def fLog (a : FVal) : FVal :=
  match a with
  | .nan _ => .nan false
  | .inf n => if n then .nan false else .inf false
  | .zero _ => .inf true
  | .fin true _ _ => .nan false
  | .fin false m e => if m == 1 <<< Nat.log2 m && (Nat.log2 m : Int) + e == 0 then .zero false
    else bounded 0x0D a (.zero false) 2 (.zero false) (lnNear m e)

/-- R181, R182: EXP, within 2 ulp. -/
def fExp (a : FVal) : FVal :=
  match a with
  | .nan _ => .nan false
  | .inf n => if n then .zero false else .inf false
  | x => if far128 x then (if x.neg? then .zero false else .inf false) else bounded 0x15 x (.zero false) 2 (.zero false) (expNear x)

/-- α × expm1(x), within 2 ulp (R181: ELU; SOFTPLUS's derivative with α = 1). -/
def fExpm1 (code : Nat) (alpha a : FVal) : FVal :=
  match a with
  | .nan _ => .nan false
  | .inf n => if n then alpha.negate else fmul alpha (.inf false)
  | .zero n => fmul alpha (.zero n)
  | x =>
    if alpha.isZero || !alpha.finite then fmul alpha x
    else if far128 x && !x.neg? then fmul alpha (.inf false)
    else bounded code x alpha 2 (.zero false) (alpha.mulExact (if far128 x then .fin true 1 0 else expm1Near x))

/-- R181, R182: SIGMOID, within 2 ulp. -/
def fSigmoid (a : FVal) : FVal :=
  match a with
  | .nan _ => .nan false
  | .inf n => if n then .zero false else .fin false 1 0
  | x => if far128 x && x.neg? then .zero false
    else bounded 0x13 x (.zero false) 2 (.zero false) (if far128 x then .fin false 1 0 else sigmoidNear x)

/-- R181, R182: TANH, within 2 ulp. -/
def fTanh (a : FVal) : FVal :=
  match a with
  | .nan _ => .nan false
  | .inf n => .fin n 1 0
  | .zero n => .zero n
  | x => bounded 0x14 x (.zero false) 2 (.zero false) (if (FVal.fin false 1 6).le x.abs then .fin x.neg? 1 0 else tanhNear x)

/-- R181, R182: SOFTPLUS, within 3 ulp. -/
def fSoftplus (a : FVal) : FVal :=
  match a with
  | .nan _ => .nan false
  | .inf n => if n then .zero false else .inf false
  | x =>
    if far128 x && x.neg? then .zero false
    else
      let u := log1pNear (expNear x.abs.negate)
      bounded 0x16 x (.zero false) 3 (.zero false) (if far128 x then x else if x.neg? then u else x.addExact u)

/-- 2^k. -/
def powOf2 (k : Int) : FVal := .fin false 1 k

/-- R181, R182: GELU, within 4 ulp or 2^−120. -/
def fGelu (a : FVal) : FVal :=
  match a with
  | .nan _ => .nan false
  | .inf n => if n then .zero true else .inf false
  | x =>
    let t := if (powOf2 4).le x.abs then (if x.neg? then .fin true 1 (-185) else x) else x.mulExact (cumulNear x)
    bounded 0x18 x (.zero false) 4 (powOf2 (-120)) t

/-- R181, R182: GELU's derivative, within 6 ulp or 2^−24. -/
def fGeluDeriv (a : FVal) : FVal :=
  match a with
  | .nan _ => .nan false
  | .inf _ => .zero false
  | x =>
    let t := if (powOf2 4).le x.abs then (if x.neg? then .fin true 1 (-180) else .fin false 1 0)
      else (cumulNear x).addExact (x.mulExact (densityNear x))
    bounded 0x28 x (.zero false) 6 (powOf2 (-24)) t

/-- R181, R182: SILU, within 3 ulp. -/
def fSilu (a : FVal) : FVal :=
  match a with
  | .nan _ => .nan false
  | .inf n => if n then .zero true else .inf false
  | x => if far128 x && x.neg? then .zero true
    else bounded 0x19 x (.zero false) 3 (.zero false) (if far128 x then x else x.mulExact (sigmoidNear x))

/-- R181, R182: SILU's derivative, within 5 ulp or 2^−24. -/
def fSiluDeriv (a : FVal) : FVal :=
  match a with
  | .nan _ => .nan false
  | .inf n => if n then .zero false else .fin false 1 0
  | x =>
    let t := if far128 x then (if x.neg? then .fin true 1 (-170) else .fin false 1 0)
      else (sigmoidNear x).mulExact ((FVal.fin false 1 0).addExact (x.mulExact (sigmoidNear x.negate)))
    bounded 0x29 x (.zero false) 5 (powOf2 (-24)) t

end Sys2Proof.Machine
end

