-- ==== Sys2Proof/Machine/Update.lean ====
section
/-!
DEFINITION. The update engine (R267 to R287, R395): APPLY, its prepares and its writes, and step sizes.
-/
namespace Sys2Proof.Machine

/-! ### Digests (R395) -/

/-- R395: the block digest of 64-bit words under a salt and an index. -/
def blockDigest (salt index : Nat) (ws : List Nat) : Nat :=
  let m := 1 <<< 64
  let x := ws.foldl (fun x w =>
    let y := ((x ^^^ w) * 0xB5AD_4ECE_DA1C_E2A9) % m
    y ^^^ (y >>> 29)) ((salt ^^^ (index * 0x9E37_79B9_7F4A_7C15)) % m)
  let z := ((x ^^^ (x >>> 32)) * 0xE703_7ED1_A0B4_28DB) % m
  z ^^^ (z >>> 32)

/-- Pairs of 32-bit patterns as 64-bit words; the last is padded with zero bits. -/
def pairWords : List Nat → List Nat
  | a :: b :: l => (a + (b <<< 32)) :: pairWords l
  | [a] => [a]
  | [] => []

/-- R281, R395: the digest of the new master: its 32-element blocks along the last dimension, summed. -/
def masterDigest (layer last : Nat) (ws : List Nat) : Nat :=
  let rows := cut last ws
  let blocks := rows.flatMap (cut 32)
  ((List.range blocks.length).zip blocks).foldl (fun a p => (a + blockDigest layer p.1 (pairWords p.2)) % (1 <<< 64)) 0

/-! ### Rounds open (R289) -/

def Hw.roundOpen (s : Hw) (j : Nat) : Bool := s.flag F.UPD_JOB_OUTCOME_ROUND_OPEN j
def Hw.readySent (s : Hw) (j : Nat) : Bool := s.flag F.UPD_JOB_OUTCOME_READY_SENT j
def Hw.lastStep (s : Hw) (j : Nat) : Nat := s.rd64 .UPD_JOB_STEP_LO .UPD_JOB_STEP_HI j
def Hw.jobT (s : Hw) (j : Nat) : Nat := s.rd64 .UPD_JOB_T_LO .UPD_JOB_T_HI j
/-- R288: this module is the root of the job's enabled record. -/
def Hw.rootHere (s : Hw) (j : Nat) : Bool := s.flag F.UPD_JOB_CTL_EN j && s.fget F.UPD_JOB_CTL_ROOT j == s.me

/-- R291, R397: the root's round for a step opens, if none is open; stand-ins in force then hold for it.  Where both modules of a pair stand in,
as after a DETACH, neither is absent and each counts for itself (DEDUCED, log 98). -/
def Hw.openRoot (s : Hw) (j step : Nat) : Hw :=
  let x := s.getJob j
  let fresh := match x.lastDecision with | none => true | some d => decide (d.step < step)
  if s.rootHere j && x.rootStep == 0 && fresh then
    let holds := x.standIns.filter (fun e => match e.2 with | none => true | some k => k != 0 && decide (step < k))
    s.setJob j { x with msgs := [], rootStep := step, rootAge := 0,
                        standing := (holds.map (·.1)).filter (fun m => !holds.any (fun e => e.1 == m ^^^ 1)),
                        standIns := x.standIns.filter (fun e => match e.2 with | none => true | some k => k != 0 && decide (step < k)) }
  else s

/-- R289: a round opens with the first APPLY or READY of a step above the job's last decided one. -/
def Hw.openRound (s : Hw) (j step : Nat) : Hw :=
  if s.level == 2 && !s.roundOpen j && s.lastStep j < step && step < 0xFFFF_FFFF_FFFF_FFFF then
    let s1 := (s.fset F.UPD_JOB_OUTCOME_ROUND_OPEN 1 j).fset F.UPD_JOB_OUTCOME_READY_SENT 0 j
    let s2 := s1.modJob j (fun x => { x with
      step := step, age := 0, sentAge := 0, ready := 0, refused := false, stale := false, nonfinite := false, digest := 0, layers := 0,
      groups := [], staleGroups := [] })
    s2.openRoot j step
  else s

/-- R271: a group is found stale: the round is stale, and event 0x3004 is raised once for the group. -/
def Hw.groupStale (s : Hw) (j g step : Nat) : Hw :=
  let x := s.getJob j
  if !s.roundOpen j then s
  else
    let s1 := if x.staleGroups.contains g then s else s.raise 0x3004 g step { kind := 4, job := some j }
    let s2 := if x.stale then s1 else s1.bump F.UPD_STALE_COUNT
    s2.modJob j (fun x => { x with stale := true, staleGroups := if x.staleGroups.contains g then x.staleGroups else x.staleGroups ++ [g] })

/-- R270: the value, the tag and the write count of a step-size group. -/
def Hw.stepTag (s : Hw) (g : Nat) : Nat := s.rd64 .UPD_STEPTAG_LO .UPD_STEPTAG_HI g
def Hw.stepValue (s : Hw) (g : Nat) : FVal := ofPat (s.rd .UPD_STEPSIZE g)

/-- R270: a write of a group's value sets its tag to all ones and counts. -/
def Hw.stepsizeWrite (s : Hw) (g v : Nat) : Hw :=
  ((s.wr .UPD_STEPSIZE g (BitVec.ofNat 32 v)).wr64 .UPD_STEPTAG_LO .UPD_STEPTAG_HI 0xFFFF_FFFF_FFFF_FFFF g).fset F.UPD_STEPGEN_GEN
    (s.fget F.UPD_STEPGEN_GEN g + 1) g

def execStepsizeWrite (group : BitVec 8) (value : BitVec 32) (s : State) : Host.Outcome State Fault Refusal :=
  s.onHw (fun h => if h.regsLive then h.stepsizeWrite group.toNat value.toNat else h)

/-! ### The checks of APPLY (R268, R273) -/

/-- What an APPLY works on: its layer, its entry and the entry's operands. -/
structure ApplyJob where
  l : Nat
  e : LayerEnt
  lay : List (Nat × Role × Opnd)
  /-- The live copies are the B copies. -/
  live : Bool
  dual : Bool

namespace ApplyJob

def none' : Opnd := { id := 0, img := 0, addr := 0, far := none, scale := 0, scaleAddr := 0 }
def op (a : ApplyJob) (i : Nat) : Opnd := (layAt a.lay i).getD none'
/-- A copy of a pair of words: the live one, and the one written. -/
def cur (a : ApplyJob) (i : Nat) : Opnd := a.op (if a.live then i + 1 else i)
def out (a : ApplyJob) (i : Nat) : Opnd := if a.dual then a.op (if a.live then i else i + 1) else a.op i
def has (a : ApplyJob) (i : Nat) : Bool := LayerEnt.has a.e i
def shape (a : ApplyJob) : List Nat := (a.op 0).writeShape

/-- R268: FP32, unscaled. -/
def fp32 (o : Opnd) : Bool := o.fmt == 0 && !o.scaled

/-- R95, R214, R268: the formats. -/
def formatsOk (a : ApplyJob) (x : Cmd) : Bool :=
  let g := x.o 0
  let work := fun (i : Nat) => !a.has i || (
    1 ≤ (a.op i).fmt && (a.op i).fmt ≤ 9 && (!(a.op i).scaled || (a.op i).axis + 1 == (a.op i).rank) &&
    (!Com.stoch x.w || (3 ≤ (a.op i).fmt && (a.op i).fmt ≤ 9)) && (!LayerEnt.sketch a.e || sketchIn (a.op i) != St.format))
  fmtFloat g.fmt && (a.has 8 || Com.cast x.w == 0) && a.lay.all (fun p => !p.2.2.crow && !p.2.2.sp24) &&
  (List.range 8).all (fun i => !a.has i || fp32 (a.op i)) && work 8 && work 9 &&
  (!a.has 9 || ((a.op 8).fmt == (a.op 9).fmt && (a.op 8).scaled == (a.op 9).scaled)) &&
  (!a.has 12 || ((a.op 11).fmt == (a.op 12).fmt && (a.op 11).scaled == (a.op 12).scaled)) &&
  (!a.has 10 || ((a.op 10).fmt == 1 && !(a.op 10).scaled))

/-- R268: the shapes. -/
def shapesOk (a : ApplyJob) (x : Cmd) : Bool :=
  let m := a.shape
  let p := LayerEnt.rule a.e == 3
  let grams := [nth 0 m 0 / 64, nth 0 m 1 / 64, 64, 64]
  let same := fun (i : Nat) (sh : List Nat) => !a.has i || (a.op i).writeShape == sh
  let room := fun (i : Nat) => !a.has i || decide (sketchLen (Opnd.foldRows m) ≤ sketchRoom (a.op i) (a.op i).writeShape)
  (x.o 0).readShape == m && (List.range 4).all (fun i => same i m) && same 4 (if p then grams else m) && same 5 (if p then grams else m) &&
  same 6 grams && same 7 grams && same 8 m && same 9 m && same 10 m && room 11 && room 12 && same 12 (a.op 11).writeShape &&
  (!p || (m.length == 2 && m.all (fun n => n % 64 == 0))) && (!LayerEnt.sketch a.e || m.length == 2) &&
  a.lay.all (fun q => !isDst q.2.1 || q.2.2.distinct)

end ApplyJob

/-- R214, R273: the conditions of R273 up to the shapes, in its order: the state, and the status. -/
def Hw.applyChecks (s : Hw) (x : Cmd) (a : ApplyJob) : Hw × Nat :=
  let who : Who := { kind := 1, unit := x.t, stream := some x.n, job := some (s.jobOf x.n) }
  let bad := a.lay.findSome? (fun p =>
    if !Desc.valid p.2.2.img then some p.2.2.id
    else if p.2.2.scaled && !Desc.valid p.2.2.scale then some (Desc.scaleDesc p.2.2.img) else none)
  match bad with
  | some d => (s.raise 0xC051 x.n d who, St.desc)
  | none =>
    if LayerEnt.job a.e ≠ s.jobOf x.n then (s, St.job)
    else match a.lay.find? (fun p => Desc.job p.2.2.img != s.jobOf x.n) with
      | some p => (s.raise 0xC052 x.n p.2.2.id who, St.job)
      | none =>
        if !a.formatsOk x then (s, St.format)
        else if a.lay.any (fun p => s.inRemote p.2.2 || p.2.2.ranges.any (fun r => !s.reachable x.n r)) then
          (s, St.range)
        else if !a.shapesOk x then (s, St.shape)
        else (s, St.ok)

/-- R271, R273: the conditions that a write APPLY is not held to. -/
def Hw.applyRound (s : Hw) (x : Cmd) (a : ApplyJob) : Hw × Nat :=
  let j := s.jobOf x.n
  let step := applyStep x.w
  let y := s.getLayer a.l
  let g := LayerEnt.group a.e
  if s.roundOpen j && (s.getJob j).step == step && s.readySent j then
    (s.raise 0x3005 a.l step { kind := 1, unit := x.t, stream := some x.n, job := some j }, St.param)
  else if !s.roundOpen j || (s.getJob j).step ≠ step || y.pending || y.awaitWrite then (s, St.param)
  else if s.stepTag g ≠ step || !(s.stepValue g).finite then
    let y1 := { y with last := { y.last with flags := 0x40 } }
    (((s.groupStale j g step).setLayer a.l y1).writeLayerRec a.l y1, St.param)
  else
    (s.modJob j (fun z => { z with groups := if z.groups.any (fun e => e.1 == g) then z.groups else z.groups ++ [(g, s.fget F.UPD_STEPGEN_GEN g)] }), St.ok)

/-! ### The rules (R274 to R280) -/

/-- An element of an update: its index in the master, the live master, gradient and state, and what the rule makes of them. -/
structure UpdEl where
  idx : List Nat
  w : FVal
  g : FVal
  m : FVal
  v : FVal
  rem : FVal

/-- The result of an element: d, d̂, the new master, state and remainder; whether the delta was flushed or saturated. -/
structure NewEl where
  idx : List Nat
  d : FVal
  dh : FVal
  w : FVal
  m : FVal
  v : FVal
  rem : FVal
  flushed : Bool
  saturated : Bool

/-- R275: sign(c); of a NaN a NaN. -/
def signOf (c : FVal) : FVal := if c.isNan then .nan false else if c.isZero then .zero false else .fin c.neg? 1 0

/-- R278: a delta in the layer's delta format at an exponent: d̂, flushed, saturated. -/
def quantDelta (dfmt : Nat) (dexp : Int) (d : FVal) : FVal × Bool × Bool :=
  let f := if dfmt = 0 then 1 else if dfmt = 1 then 2 else 4
  let k : Int := if dfmt = 0 then 0 else dexp
  let e := encodeFloat f none false (d.scale (-k))
  let q := decodeFloat f e.1
  let sat := dfmt != 0 && !d.isNan && (q.isInf || e.2)
  let q1 := if sat then decodeFloat f (signBit f d.neg? + maxPattern f) else q
  ((q1.scale k).r32, d.finite && !d.isZero && q1.isZero, sat)

/-- R278, R280: from d to the new master and remainder. -/
def settle (e : LayerEnt) (dexp : Int) (x : UpdEl) (m v d : FVal) : NewEl :=
  if LayerEnt.priv e then
    let t := fadd d x.rem
    let w' := fadd x.w t
    let r := fsub t (fsub w' x.w)
    { idx := x.idx, d := d, dh := d, w := w', m := m, v := v, rem := decodeFloat 1 (encodeFloat 1 none false r).1, flushed := false, saturated := false }
  else
    let q := quantDelta (LayerEnt.dfmt e) dexp d
    { idx := x.idx, d := d, dh := q.1, w := fadd x.w q.1, m := m, v := v, rem := x.rem, flushed := q.2.1, saturated := q.2.2 }

def oneFp : FVal := .fin false 1 0

/-- R275: rules S, M and A: the new state and d of an element. -/
def ruleEl (e : LayerEnt) (eta rc1 rc2 : FVal) (x : UpdEl) : FVal × FVal × FVal :=
  let b1 := LayerEnt.b1 e
  let b2 := LayerEnt.b2 e
  let c1 := fsub oneFp b1
  let c2 := fsub oneFp b2
  let lw := fmul (LayerEnt.lambda e) x.w
  let step := fun (u : FVal) => (fmul eta (fadd u lw)).negate
  match LayerEnt.rule e with
  | 0 =>
    let c := fadd (fmul b1 x.m) (fmul c1 x.g)
    (fadd (fmul b2 x.m) (fmul c2 x.g), x.v, step (signOf c))
  | 1 =>
    let m := fadd (fmul b1 x.m) x.g
    (m, x.v, step m)
  | _ =>
    let m := fadd (fmul b1 x.m) (fmul c1 x.g)
    let v := fadd (fmul b2 x.v) (fmul (fmul c2 x.g) x.g)
    (m, v, step (fmul (fmul m rc1) (fRecip (fadd (fSqrt (fmul v rc2)) (LayerEnt.eps e)))))

/-- R275: rule A's bias correction for β at update counter T; of a difference of exactly 1 it is 1, as R275 says for b1 = 0. -/
def biasCorr (t : Nat) (b : FVal) : FVal :=
  let d := fsub oneFp (fExp (fmul ((FVal.ofInt ((t + 1 : Nat) : Int)).r32) (fLog b)))
  if d = oneFp then oneFp else fRecip d

/-! ### Rule P (R276, R277) -/

/-- A 64 × 64 matrix of FP32 values, by rows. -/
abbrev Mat := List (List FVal)

namespace Mat

def at_ (a : Mat) (i j : Nat) : FVal := nth (.zero false) (nth [] a i) j
def make (f : Nat → Nat → FVal) : Mat := (List.range 64).map (fun i => (List.range 64).map (f i))
def zip (f : FVal → FVal → FVal) (a b : Mat) : Mat := (List.zip a b).map (fun p => (List.zip p.1 p.2).map (fun q => f q.1 q.2))
def ident : Mat := make (fun i j => if i = j then oneFp else .zero false)
def each (f : FVal → FVal) (a : Mat) : Mat := a.map (fun r => r.map f)
def transpose (a : Mat) : Mat := make (fun i j => a.at_ j i)

/-- R91, R276: a product in compensated pairs. -/
def prod (a b : Mat) : Prod :=
  { m := 64, n := 64, k := 64, rows := 64, a := fun i k => { v := a.at_ i k, code := none, k := 0 },
    b := fun k j => { v := b.at_ k j, code := none, k := 0 }, pos := fun _ _ => none, int := false, aPair := true, bPair := true }

/-- The product drained to FP32. -/
def mul (a b : Mat) : Mat := make (fun i j => (drainValue false ((prod a b).accum i j).v).1)

/-- R104: a stationary operand as a heddle bank holds it. -/
def bank (b : Mat) : Heddle := (prod b b).bank 0 false 0 64 0

/-- R277: the mean of the diagonal. -/
def mu (a : Mat) : FVal := fmul ((List.range 64).foldl (fun x i => if i = 0 then a.at_ 0 0 else fadd x (a.at_ i i)) (.zero false)) (.fin false 1 (-6))

/-- R277: a Cholesky factorisation, column by column (left-looking, sums in ascending order; DEDUCED, log 46): whether every pivot holds. -/
def cholesky (a : Mat) (limit : FVal) : Bool :=
  ((List.range 64).foldl (fun (r : Option (List (List FVal))) j =>
    match r with
    | none => none
    | some cols =>
      -- cols: the columns found, ascending; the column j of what is left
      let col := (List.range 64).map (fun i => cols.foldl (fun x c => fsub x (fmul (nth (.zero false) c i) (nth (.zero false) c j))) (a.at_ i j))
      let piv := nth (.zero false) col j
      if !piv.finite || !(limit.ieeeLe piv) then none
      else
        let d := fSqrt piv
        some (cols ++ [(List.range 64).map (fun i => if i < j then .zero false else if i = j then d else fdiv (nth (.zero false) col i) d)])) (some [])).isSome

/-- R277: coupled Newton iterations: the two matrices after them. -/
def newton : Nat → Mat → Mat → Mat × Mat
  | 0, x, mm => (x, mm)
  | n + 1, x, mm =>
    let tt := each (fun v => fmul v (.fin false 1 (-2))) (zip fsub (each (fmul (FVal.ofInt 5)) ident) mm)
    let t2 := mul tt tt
    newton n (mul x tt) (mul (mul t2 t2) mm)

/-- R277: the root of a matrix, with the last block its products load (R104), or none where the block falls back. -/
def root (a : Mat) (eps : FVal) : Option (Mat × Mat) :=
  let u := a.mu
  if !u.finite || u.isZero || u.neg? then none
  else
    let limit := fmul (.fin false 1 (-24)) u
    let zs := [.zero false, fmul eps u, fmul (fmul (FVal.ofInt 10) eps) u, fmul (fmul (FVal.ofInt 100) eps) u]
    match zs.find? (fun z => (zip fadd a (each (fmul z) ident)).cholesky limit) with
    | none => none
    | some z =>
      let x0 := zip fadd a (each (fmul z) ident)
      let c := fSqrt (fSqrt (fSqrt (rowSum (x0.flatMap (fun r => r.map (fun v => fmul v v))))))
      let x := each (fmul (fRecip c)) ident
      let mm := each (fmul (fRecip (fmul (fmul (fmul c c) c) c))) x0
      -- the sixteenth iteration's last product is stationary in the matrix the fifteenth left
      let n := newton 15 x mm
      some ((newton 1 n.1 n.2).1, n.2)

end Mat

/-- What a prepare computes (R274 to R281): the elements in the order of R279, the new Gram matrices and preconditioners by block,
the blocks that fell back, the last two blocks that rule P loads into loom A, and the gradient's findings. -/
structure Computed where
  els : List NewEl
  grams : List (Nat × Mat × Mat)
  fallback : List Nat
  loads : List Mat
  nonfinite : Nat
  sat : Nat
  zero : Bool

/-- R274: the gradient as rule and flags use it: by master index, its value after 2^−GEXP; its non-finite and saturated blocks, and
whether all are zero. -/
def Hw.gradient (s : Hw) (g : Opnd) (gexp : Int) : (List Nat → FVal) × Nat × Nat × Bool :=
  let val := fun (i : List Nat) => ((g.readVal s i).scale (-gexp)).r32
  let ax := if g.scaled then g.axis else g.rank - 1
  let top := fun (i : List Nat) =>
    let p := g.raw s (Desc.coreOf g.img i) % 128
    (g.fmt == 3 && p == 0x7E) || (g.fmt == 4 && p == 0x7B)
  let idxs := allIndices g.readShape
  let blocks := blocksOf ax idxs
  let inBlock := fun (b : List Nat) => idxs.filter (fun i => setNth (nth 0 i ax / 32) i ax == b)
  (val, (blocks.filter (fun b => (inBlock b).any (fun i => !(val i).finite))).length,
    (blocks.filter (fun b => (inBlock b).any top)).length, idxs.all (fun i => (val i).isZero))

/-- R279: the order of a prepare: row-major, under rule P in row-major block order. -/
def applyOrder (e : LayerEnt) (shape : List Nat) : List (List Nat) :=
  if LayerEnt.rule e = 3 then
    (List.range (nth 0 shape 0 / 64)).flatMap (fun bi => (List.range (nth 0 shape 1 / 64)).flatMap (fun bj =>
      (List.range 64).flatMap (fun i => (List.range 64).map (fun j => [64 * bi + i, 64 * bj + j]))))
  else allIndices shape

/-- A block of rule P by its number. -/
def blockAt (shape : List Nat) (b : Nat) : Nat × Nat := (b / (nth 0 shape 1 / 64), b % (nth 0 shape 1 / 64))

/-- R276, R277: rule P of block b: the new elements, the new matrices, whether the block fell back, and the last two blocks it loads. -/
def Hw.ruleP (s : Hw) (a : ApplyJob) (r : Prepared) (eta : FVal) (el : List Nat → UpdEl) (b : Nat) :
    List NewEl × (Nat × Mat × Mat) × Bool × List Mat :=
  let e := a.e
  let (bi, bj) := blockAt a.shape b
  let x := fun (i j : Nat) => el [64 * bi + i, 64 * bj + j]
  let c1 := fsub oneFp (LayerEnt.b1 e)
  let c2 := fsub oneFp (LayerEnt.b2 e)
  let gm := Mat.make (fun i j => (x i j).g)
  let mNew := Mat.make (fun i j => fadd (fmul (LayerEnt.b1 e) (x i j).m) (fmul c1 (x i j).g))
  let stored := fun (o : Opnd) => Mat.make (fun i j => o.value s [(bi : Int), (bj : Int), (i : Int), (j : Int)])
  let gram := Mat.zip (fun l v => fadd (fmul (LayerEnt.b2 e) l) (fmul c2 v)) (stored (a.cur 4)) (gm.mul gm.transpose)
  let pOld := stored (a.cur 6)
  let again := r.t % LayerEnt.pevery e == 0
  let found := if again then gram.root (LayerEnt.eps e) else none
  let pr := if again then found.map (·.1) else some pOld
  let pUse := pr.getD Mat.ident
  let u := pUse.mul mNew
  let els := (List.range 64).flatMap (fun i => (List.range 64).map (fun j =>
    let q := x i j
    let d := (fmul eta (fadd (u.at_ i j) (fmul (LayerEnt.lambda e) q.w))).negate
    settle e r.dexp q (mNew.at_ i j) q.v d))
  (els, (b, gram, pr.getD pOld), pr.isNone, [(found.map (·.2)).getD gm.transpose, mNew])

/-- R274 to R280: everything a prepare computes, from the recorded values and the live state. -/
def Hw.computeApply (s : Hw) (a : ApplyJob) (g : Opnd) (r : Prepared) : Computed :=
  let e := a.e
  let (gv, nonf, sat, zero) := s.gradient g r.gexp
  let eta := ofPat (BitVec.ofNat 32 r.eta)
  let at_ := fun (o : Opnd) (i : List Nat) => o.value s (i.map Int.ofNat)
  let el := fun (i : List Nat) =>
    ({ idx := i, w := at_ (a.cur 0) i, g := gv i, m := at_ (a.cur 2) i, v := if LayerEnt.rule e = 2 then at_ (a.cur 4) i else .zero false,
       rem := if LayerEnt.priv e then at_ (a.op 10) i else .zero false } : UpdEl)
  if LayerEnt.rule e = 3 then
    let bs := (List.range (volume a.shape / 4096)).map (s.ruleP a r eta el)
    { els := bs.flatMap (·.1), grams := bs.map (·.2.1), fallback := (bs.filter (·.2.2.1)).map (·.2.1.1), loads := (bs.getLast?.map (·.2.2.2)).getD [], nonfinite := nonf, sat := sat, zero := zero }
  else
    let rc1 := if LayerEnt.rule e = 2 then biasCorr r.t (LayerEnt.b1 e) else .zero false
    let rc2 := if LayerEnt.rule e = 2 then biasCorr r.t (LayerEnt.b2 e) else .zero false
    { els := (applyOrder e a.shape).map (fun i =>
        let x := el i
        let n := ruleEl e eta rc1 rc2 x
        settle e r.dexp x n.1 n.2.1 n.2.2),
      grams := [], fallback := [], loads := [], nonfinite := nonf, sat := sat, zero := zero }

/-! ### Writing (R281, R282) -/

/-- R280, R281: rem′ by element. -/
def Computed.rems (c : Computed) : List (List Nat × FVal) := c.els.map (fun q => (q.idx, q.rem))

/-- R281: the bytes of rem′ of a dual-copy prepare: the one REM is live, and nothing that the live copies hold changes before the decision
(DEDUCED, log 89). -/
def Hw.remCells (s : Hw) (a : ApplyJob) (c : Computed) : Sparse Byte :=
  if a.dual && LayerEnt.priv a.e then s.haloCells (a.op 10) (s.plainCells (a.op 10) Writer.plain c.rems).1 else []

/-- R281, R282: writes the new state; the Finisher casts WORK under the command's cast control, and the sketch is built from it.
Answers the status of the cast. -/
def Hw.writeUpdate (s : Hw) (x : Cmd) (a : ApplyJob) (c : Computed) : Hw × Nat :=
  let e := a.e
  let grams := fun (f : Nat × Mat × Mat → Mat) => c.grams.flatMap (fun q =>
    let (bi, bj) := blockAt a.shape q.1
    (List.range 64).flatMap (fun i => (List.range 64).map (fun j => ([bi, bj, i, j], (f q).at_ i j))))
  let put := fun (s : Hw) (o : Opnd) (l : List (List Nat × FVal)) => (s.writeElems o Writer.plain l).1
  let s1 := put s (a.out 0) (c.els.map (fun q => (q.idx, q.w)))
  let s2 := put s1 (a.out 2) (c.els.map (fun q => (q.idx, q.m)))
  let s3 :=
    if LayerEnt.rule e = 2 then put s2 (a.out 4) (c.els.map (fun q => (q.idx, q.v)))
    else if LayerEnt.rule e = 3 then put (put s2 (a.out 4) (grams (·.2.1))) (a.out 6) (grams (·.2.2))
    else s2
  let s4 := if LayerEnt.priv e && !a.dual then put s3 (a.op 10) c.rems else s3
  let r5 := if a.has 8 then
      let w := s4.writeElems (a.out 8) x.wr (c.els.map (fun q => (q.idx, q.w)))
      w.1.countSat x.n w.2
    else (s4, 0)
  let s6 :=
    if LayerEnt.sketch e then
      let o := a.out 8
      let sh := a.shape
      let src := { o with img := o.img }
      let s5 := r5.1.loadLooms x.t [false] (projBanks (LayerEnt.seed e) (Opnd.foldCols sh) o.loomFmt)
      s5.writeSketch (a.out 11).addr (LayerEnt.seed e) (applyStep x.w) (Opnd.foldCols sh) (Opnd.foldRows sh) o.loomFmt
        (fun i j => src.loomAt s5 [(i : Int), (j : Int)])
    else r5.1
  ((a.lay.filter (fun p => isDst p.2.1)).foldl (fun s p =>
    (if a.dual && p.1 == 10 then s else s.writeHalo p.2.2).touch x.t p.2.2) s6, r5.2)

/-! ### The watches (R278, R284) -/

/-- R284: the update-to-weight ratio. -/
def ratioOf (c : Computed) (ws : List FVal) : FVal :=
  let norm := fun (l : List FVal) => fSqrt (rowSum (l.map (fun v => fmul v v)))
  let nu := norm (c.els.map (·.dh))
  let de := norm ws
  if de.isZero then (if nu.isZero then .zero false else if nu.isNan then .nan false else .inf false) else fdiv nu de

/-- R278: the successor exponent: of an infinite DMAX the highest, of a NaN a free one. -/
def dexpNext (dmax : FVal) (free : Nat) : Option Int :=
  match dmax with
  | .zero _ => none
  | .inf _ => some 127
  | .nan _ => some (signed 8 free)
  | .fin _ m e => some (clampInt (-128) 127 (FVal.log2 m e - 13))

/-- R274, R277, R278, R284: the counters and events of a prepare. -/
def Hw.reportApply (s : Hw) (x : Cmd) (a : ApplyJob) (c : Computed) (ratio : FVal) : Hw :=
  let who : Who := { kind := 1, unit := x.t, stream := some x.n, job := some (s.jobOf x.n) }
  let s1 := ((s.bump F.UPD_DELTA_FLUSH_COUNT 0 (c.els.filter (·.flushed)).length).bump F.UPD_DELTA_SAT_COUNT 0 (c.els.filter (·.saturated)).length).bump
    F.UPD_P_FALLBACK_COUNT 0 c.fallback.length
  let s2 := if c.nonfinite = 0 then s1 else (s1.bump F.NUM_NONFINITE_COUNT).raise 0x2013 a.l (applyStep x.w) who
  let s3 := if c.sat = 0 then s2 else (s2.bump F.NUM_GRAD_SAT_COUNT 0 c.sat).raise 0x2012 a.l c.sat who
  let s4 := match c.fallback with
    | [] => s3
    | b :: _ => s3.raise 0x3021 a.l b who
  let evt := fun (s : Hw) (code : Nat) => (s.raise code a.l ratio.pat.toNat who).bump F.NUM_RATIO_EVENTS_COUNT
  if s4.flag F.NUM_WATCH_CTL_RATIO_EVT then
    let hi := ofPat (s4.rd .NUM_RATIO_HI 0)
    let lo := ofPat (s4.rd .NUM_RATIO_LO 0)
    let above := !ratio.isNan && !hi.isNan && !(ratio.ieeeLe hi)
    let below := !ratio.isNan && !lo.isNan && !(lo.ieeeLe ratio)
    let s5 := if !hi.isZero && above then evt s4 0x2020 else s4
    if !lo.isZero && below then evt s5 0x2021 else s5
  else s4

/-- The spans that the update engine takes in: the gradient, and the entry's operands that it reads. -/
def applySpans (x : Cmd) (lay : List (Nat × Role × Opnd)) : List Span :=
  x.sourceSpans ++ lay.flatMap (fun p => if isSrc p.2.1 then p.2.2.spans else [])

/-- R273 to R281: a prepare. -/
def Hw.prepare (s : Hw) (x : Cmd) (a : ApplyJob) : Hw :=
  let y := s.getLayer a.l
  let j := s.jobOf x.n
  let r0 : Prepared := { Prepared.none with
    step := applyStep x.w, job := j, eta := (s.rd .UPD_STEPSIZE (LayerEnt.group a.e)).toNat, dexp := if y.dexpSet then y.dexp else LayerEnt.dexp0 a.e,
    gexp := y.gexp, t := s.jobT j }
  let c := s.computeApply a (x.o 0) r0
  let dmax := rowMax (c.els.map (fun q => q.d.abs))
  let ratio := ratioOf c ((applyOrder a.e a.shape).map (fun i => (a.cur 0).value s (i.map Int.ofNat)))
  let free := (Config.freeWord s.free).toNat
  let flags := (if c.nonfinite = 0 then 0 else 4) + (if c.sat = 0 then 0 else 8) + (if c.zero then 16 else 0) + (if c.fallback.isEmpty then 0 else 32)
  let byRow := (allIndices a.shape).map (fun i => match c.els.find? (fun q => q.idx == i) with | some q => q.w.pat.toNat | none => 0)
  let r : Prepared := { r0 with
    ratio := ratio.pat.toNat, dmax := dmax.pat.toNat, flags := flags, fallback := c.fallback,
    dexpNext := if s.flag F.NUM_WATCH_CTL_DEXP_AUTO then dexpNext dmax free else none,
    digest := masterDigest a.l (a.shape.getLastD 1) byRow, rem := s.remCells a c }
  let s1 := ({ s with free := s.free + 1 } : Hw).loadLooms x.t [false] (c.loads.map Mat.bank)
  let w := if a.dual then s1.writeUpdate x a c else (s1, 0)
  let s2 := w.1.reportApply x a c ratio
  (s2.modLayer a.l (fun y => { y with prep := some r })).done { x with latched := 1 } w.2

/-- R282: the write APPLY of a COMMIT: the prepare again, from the recorded values, written in place. -/
def Hw.writeAgain (s : Hw) (x : Cmd) (a : ApplyJob) : Hw :=
  let c := s.computeApply a (x.o 0) (s.getLayer a.l).last
  let w := (s.loadLooms x.t [false] (c.loads.map Mat.bank)).writeUpdate x a c
  w.1.done { x with latched := 2 } w.2

/-- R273: APPLY past the common checks. -/
def Hw.apply (s : Hw) (x : Cmd) : Hw :=
  let l := applyLayer x.w
  let write := s.writeApply x.w
  -- R305: the update engine takes in the entry and the descriptor table entries it names
  let ids := x.lay.flatMap (fun p => p.2.2.id :: (if p.2.2.scaled then [Desc.scaleDesc p.2.2.img] else []))
  let entry := if (s.layerEnt l).isSome then [(s.layerAddr l, s.layerAddr l + 127)] else []
  let tabs := (ids.filter (fun i => i < s.tableCap)).map (fun i => (s.tableBase + 64 * i, s.tableBase + 64 * i + 63))
  -- R520: an entry beyond mapped GDDR7
  let s0 := if l < s.fget F.UPD_LAYER_COUNT_COUNT && (s.layerEnt l).isNone then s.raiseOnce 0x5051 0 (s.layerAddr l) (s.layerAddr l >>> 32) else s
  let d := (s0.readTable ids).consume (entry ++ tabs)
  match d.2 with
  | some at_ => d.1.consumeDross x.n at_ 4 x.t
  | none =>
    let s1 := d.1
    match s1.layerOk l with
    | none => s1.turned x St.param
    | some e =>
      let a : ApplyJob := { l := l, e := e, lay := x.lay, live := s1.dual && (s1.getLayer l).epoch, dual := s1.dual }
      let c := s1.applyChecks x a
      if c.2 ≠ 0 then c.1.turned x c.2
      else
        let k := if write then (c.1, 0) else c.1.applyRound x a
        if k.2 ≠ 0 then k.1.turned x k.2
        else if write && (k.1.getLayer l).mayWrite then k.1.done { x with latched := 3 } 0
        else
          let g := k.1.consumeBy (applySpans x x.lay)
          match g.2 with
          | some at_ => g.1.consumeDross x.n at_ 4 x.t
          | none => if write then g.1.writeAgain x a else g.1.prepare x a

/-- R273, R282, R289, R459: APPLY. -/
def Hw.runApply (s : Hw) (t q : Nat) : Hw :=
  s.issue t q (fun w => Com.opcode w == 0x60) (fun s x st =>
    let x0 := { x with latched := 0 }
    if s.level ≠ 2 then s.turned x0 (if st = 0 then St.param else st)
    else
      let s1 := if s.writeApply x.w then s else s.openRound (s.jobOf x.n) (applyStep x.w)
      if st ≠ 0 then s1.turned x0 st else s1.apply x0)

def execApply (tile : Fin 512) (queue : Fin 4) (s : State) : Host.Outcome State Fault Refusal :=
  s.onHw (fun h => h.runApply tile.val queue.val)

/-! ### Completion of APPLY -/

/-- R273, R281, R289: an APPLY that completes with a status: a prepare's record is installed and reported to its round, while that is open
(a round that has ended meanwhile leaves nothing pending), a write clears the wait for it, and a refusal marks the open round. -/
def Hw.applyCompletes (s : Hw) (n : Nat) (f : InFlight) (st : Nat) : Hw :=
  let l := applyLayer f.cmd
  let j := s.jobOf n
  let y := s.getLayer l
  match f.latched with
  | 1 =>
    match y.prep with
    | none => s
    | some r =>
      let live := s.roundOpen j && (s.getJob j).step == r.step
      let y1 := { y with prep := none, last := if live then r else { r with rem := [] }, pending := live, mayWrite := !live && !s.dual }
      let s1 := (s.setLayer l y1).writeLayerRec l y1
      let code := if bit r.flags 4 then 2 else if bit r.flags 3 then 3 else 1
      if live then
        s1.modJob j (fun z => { z with
          digest := (z.digest + r.digest) % (1 <<< 64), nonfinite := z.nonfinite || bit r.flags 2,
          layers := BitVec.ofNat 8192 (setBits z.layers.toNat (2 * l) 2 code) })
      else s1
  | 2 =>
    let y1 := { y with awaitWrite := false }
    (s.setLayer l y1).writeLayerRec l y1
  | 3 => s.setLayer l { y with mayWrite := false }
  | _ => if statusCode st ≠ 0 && s.roundOpen j && !s.writeApply f.cmd then s.modJob j (fun z => { z with refused := true }) else s

end Sys2Proof.Machine
end

