-- ==== Sys2Proof/Machine/Commit.lean ====
section
/-!
DEFINITION. The commit (R285 to R296, R396, R397): rounds, READY, the root's decision, its application, COMMIT_WAIT.
-/
namespace Sys2Proof.Machine

/-! ### Divergence (R396) -/

def commitWho (j : Nat) : Who := { kind := 4, job := some j }

/-- R394, R396: a divergence record: the module raises 0x7003, and a paired one enters DIVERGED. -/
def Hw.divergenceIn (s : Hw) (j step : Nat) : Hw :=
  let s1 := s.raise 0x7003 (s.me / 2 * 2) step (commitWho j)
  if s1.fget F.TWIN_STATUS_STATE = 3 then s1.fset F.TWIN_STATUS_STATE 6 else s1

/-- R396: the root's twin unit compares the digests of a pair that differ. -/
def Hw.divergePair (s : Hw) (j step m : Nat) : Hw :=
  let s1 := (s.bump F.TWIN_DIVERGED_COUNT).raise 0x7003 m step (commitWho j)
  [m, m + 1].foldl (fun s d =>
    if d = s.me then s.divergenceIn j step else s.routeRecord d (ctlRecord 0x0D d s.me 16 (j + ((step % (1 <<< 64)) <<< 16)))) s1

/-- R396: every pair of modules is compared; a round with a pair of which one module alone sent READY is unchecked. -/
def Hw.compareDigests (s : Hw) (j step : Nat) (ms : List ReadyMsg) : Hw :=
  let pairs := ms.foldl (fun l m => if l.contains (m.src / 2) then l else l ++ [m.src / 2]) []
  let get := fun (k : Nat) => ms.find? (fun m => m.src == k)
  let lone := pairs.any (fun p => (get (2 * p)).isNone || (get (2 * p + 1)).isNone)
  let s1 := if lone then s.bump F.TWIN_UNCHECKED_COUNT else s
  pairs.foldl (fun s p => match get (2 * p), get (2 * p + 1) with
    | some a, some b => if a.digest = b.digest then s else s.divergePair j step (2 * p)
    | _, _ => s) s1

/-! ### What a decision does to the layers (R278, R285 to R287, R293) -/

/-- A layer's two bits of a layer map or an exponent map. -/
def mapCode (m : BitVec 8192) (l : Nat) : Nat := bits m.toNat (2 * l) 2

/-- The layers that some module of a decision applied. -/
def Decision.applied (d : Decision) : List Nat :=
  (List.range 4096).filter (fun l => d.layers.any (fun m => mapCode m.layers l != 0))

/-- R285: every module that applied the layer reported ZERO. -/
def Decision.allZero (d : Decision) (l : Nat) : Bool := d.layers.all (fun m => mapCode m.layers l == 0 || mapCode m.layers l == 2)

/-- R285: the starvation count that the limit has been reached with, where a COMMIT takes a layer's count there. -/
def Hw.starved (s : Hw) (d : Decision) (l : Nat) : Option Nat :=
  let n := (s.getLayer l).starve + 1
  if d.allZero l && s.fget F.NUM_STARVE_LIMIT_STEPS != 0 && s.fget F.NUM_STARVE_LIMIT_STEPS ≤ n then some n else none

/-- R285, R286: the exponent map of a COMMIT. -/
def Hw.exponents (s : Hw) (d : Decision) : BitVec 8192 :=
  BitVec.ofNat 8192 (d.applied.foldl (fun m l =>
    let sat := d.layers.any (fun x => mapCode x.layers l == 3)
    let c := if sat && s.flag F.NUM_WATCH_CTL_SAT_RAISE then 2
      else if (s.starved d l).isSome && s.flag F.NUM_WATCH_CTL_BOOST then 1 else 0
    setBits m (2 * l) 2 c) 0)

/-- R287: a layer's GEXP after the exponent map, before and after the clamp. -/
def gexpAfter (d : Decision) (l : Nat) (x : Layer) : Int × Int :=
  let g := match mapCode d.exps l with | 1 => x.gexp + 4 | 2 => x.gexp - 1 | _ => x.gexp
  (g, clampInt (-32) 32 g)

/-- R278, R285, R287, R293: a layer once a decision has taken effect: every pending layer of the job stops being pending. -/
def Hw.layerAfter (s : Hw) (j : Nat) (d : Decision) (l : Nat) : Layer :=
  let x := s.getLayer l
  let x1 :=
    if x.pending && x.last.job == j then
      let y := { x with pending := false, lastStep := d.step, last := { x.last with rem := [] } }
      if d.outcome = 1 && x.last.step == d.step then
        let z := if s.dual then { y with epoch := !x.epoch } else { y with awaitWrite := true }
        match x.last.dexpNext with
        | some e => { z with dexp := e, dexpSet := true }
        | none => z
      else { y with mayWrite := !s.dual }
    else x
  if d.outcome = 1 then
    let x2 := { x1 with gexp := (gexpAfter d l x).2 }
    if s.rootHere j && d.layers.any (fun m => mapCode m.layers l != 0) then
      { x2 with starve := if (s.starved d l).isSome || !d.allZero l then 0 else x.starve + 1 }
    else x2
  else x1

/-- The layers a decision changes on this module. -/
def Hw.layersOf (s : Hw) (j : Nat) (d : Decision) : List Nat :=
  (List.range 4096).filter (fun l =>
    let x := s.getLayer l
    (x.pending && x.last.job == j) || (d.outcome == 1 && (mapCode d.exps l != 0 ||
      (s.rootHere j && d.layers.any (fun m => mapCode m.layers l != 0)))))

/-- R292: a decision has arrived: the records show what the edge window will install. -/
def Hw.decisionArrives (s : Hw) (j : Nat) (d : Decision) : Hw :=
  let s1 := (s.layersOf j d).foldl (fun s l => s.writeLayerRec l (s.layerAfter j d l)) s
  s1.modJob j (fun x => { x with due := some d })

/-- R281, R293: what a layer's decision leaves of its remainder: with a COMMIT of a dual-copy prepare, rem′ (DEDUCED, log 89). -/
def Hw.commitRem (s : Hw) (j : Nat) (d : Decision) (x : Layer) : Hw :=
  if d.outcome = 1 && x.pending && x.last.job == j && x.last.step == d.step then s.writeAddrs x.last.rem else s

/-- R293: a decision takes effect at step 2 of an edge window. -/
def Hw.applyDecision (s : Hw) (j : Nat) (d : Decision) : Hw :=
  let ls := s.layersOf j d
  let s1 := ls.foldl (fun (r : Hw) l =>
    let y := s.layerAfter j d l
    let g := gexpAfter d l (s.getLayer l)
    let root := s.rootHere j && d.outcome == 1
    let r1 := match (if root && d.layers.any (fun m => mapCode m.layers l != 0) then s.starved d l else none) with
      | some n => (r.raise 0x2010 l n (commitWho j)).bump F.NUM_STARVE_EVENTS_COUNT
      | none => r
    let r2 := if root && g.1 ≠ g.2 then r1.raise 0x2011 l (unsigned 32 g.2) (commitWho j) else r1
    ((r2.commitRem j d (s.getLayer l)).setLayer l y).writeLayerRec l y) s
  let s2 := if d.outcome = 1 then s1.wr64 .UPD_JOB_T_LO .UPD_JOB_T_HI ((s1.jobT j + 1) % (1 <<< 64)) j else s1
  let s3 := s2.raise (0x3000 + d.outcome) j d.step (commitWho j)
  let s4 := s3.bump (if d.outcome = 1 then F.UPD_COMMITS_COUNT else if d.outcome = 2 then F.UPD_SKIPS_COUNT else F.UPD_ABORTS_COUNT)
  let s5 := (((s4.wr64 .UPD_JOB_STEP_LO .UPD_JOB_STEP_HI d.step j).fset F.UPD_JOB_OUTCOME_LAST d.outcome j).fset F.UPD_JOB_OUTCOME_ROUND_OPEN 0 j).fset
    F.UPD_JOB_OUTCOME_READY_SENT 0 j
  s5.modJob j (fun x => { x with due := none, abortDue := false })

/-- A local ABORT of the open round (R295, R305). -/
def Hw.abortDecision (s : Hw) (j : Nat) : Decision :=
  { step := (s.getJob j).step, outcome := 3, group := 0, flip := 0, exps := 0, layers := [], beat := s.beatNo, cycle := s.beat.cycle }

/-- R295, R305: the module's open round ends in ABORT now; a root answers later messages of the step with it. -/
def Hw.abortRound' (s : Hw) (j : Nat) : Hw :=
  let d := s.abortDecision j
  let s1 := s.applyDecision j d
  if s1.rootHere j then s1.modJob j (fun x => { x with lastDecision := some d, past := x.past ++ [d], rootStep := 0, msgs := [] }) else s1

/-! ### The root (R290 to R292) -/

/-- R359, R362: a decision on the wire (DESIGN CHOICE, log 47). -/
def decisionBytes (j : Nat) (d : Decision) : List Byte :=
  toBytes 2 j ++ toBytes 1 d.outcome ++ toBytes 1 0 ++ toBytes 2 d.group ++ toBytes 2 0 ++ toBytes 8 d.step ++ toBytes 8 d.flip ++ toBytes 8 0 ++
  toBytes 1024 d.exps.toNat

/-- R290: the messages held, those of stand-ins counted twice. -/
def Job.held (x : Job) : Nat := x.msgs.length + (x.msgs.filter (fun m => x.standing.contains m.src)).length

/-- R290: the outcome of a round, with its event. -/
def Hw.outcomeOf (s : Hw) (j : Nat) : Hw × Nat :=
  let x := s.getJob j
  let shards := s.fget F.UPD_JOB_SHARDS_SHARDS j
  let t := s.jobT j
  if x.held < shards then (s.raise 0x3010 j (shards - x.held) (commitWho j), 3)
  else match x.msgs.find? (fun m => m.t != t) with
    | some m => (s.raise 0x3011 j m.src (commitWho j), 3)
    | none =>
      if x.msgs.any (fun m => bit m.votes 1 || bit m.votes 2) then (s, 3)
      else if x.msgs.any (fun m => bit m.votes 0) then (s, 2) else (s, 1)

/-- R290 to R292: the root decides its round, sends the decision to every module that sent READY, and takes it itself. -/
def Hw.decide' (s : Hw) (j : Nat) : Hw :=
  let x := s.getJob j
  let o := s.outcomeOf j
  let lead := o.1.fget F.UPD_COMMIT_TIMEOUT_FLIP_LEAD
  let d0 : Decision :=
    { step := x.rootStep, outcome := o.2, group := o.1.fget F.BEAT_GROUP_GROUP_ID, flip := if lead = 0 then 0 else o.1.beatNo + lead, exps := 0,
      layers := x.msgs, beat := o.1.beatNo, cycle := o.1.beat.cycle }
  let d := if o.2 = 1 then { d0 with exps := o.1.exponents d0 } else d0
  let s1 := o.1.compareDigests j x.rootStep x.msgs
  let s2 := s1.modJob j (fun y => { y with lastDecision := some d, past := y.past ++ [d], rootStep := 0, rootAge := 0, msgs := [], standing := [] })
  let s3 := (x.msgs.filter (fun m => m.src != s.me)).foldl (fun s m => s.sendLong m.src 0x11 (decisionBytes j d)) s2
  s3.decisionArrives j d

/-- R290, R291, R397: a READY message reaches the root; one of a step that the root has decided is answered with that decision. -/
def Hw.readyIn (s : Hw) (src j step : Nat) (m : ReadyMsg) : Hw :=
  if !s.rootHere j then s
  else
    let late := s.raise 0x3014 j src (commitWho j)
    let before := match (s.getJob j).lastDecision with | some d => decide (step ≤ d.step) | none => decide (step ≤ s.lastStep j)
    if before then
      match List.find? (fun d => d.step == step) (s.getJob j).past with
      | some d => if src ≠ s.me then late.sendLong src 0x11 (decisionBytes j d) else late
      | none => late
    else
      let s1 := s.openRoot j step
      let x := s1.getJob j
      if x.rootStep ≠ step then s1
      else if x.msgs.any (fun e => e.src == src) || x.standing.contains (src ^^^ 1) then s1.raise 0x3014 j src (commitWho j)
      else
        let s2 := s1.modJob j (fun y => { y with msgs := y.msgs ++ [m] })
        if s2.fget F.UPD_JOB_SHARDS_SHARDS j ≤ (s2.getJob j).held then s2.decide' j else s2

def execReadyMessage (link : Fin 64) (src job : BitVec 12) (step t : BitVec 64) (votes : BitVec 3) (digest : BitVec 64) (layers : BitVec 8192) (s : State) :
    Host.Outcome State Fault Refusal :=
  s.onHw (fun h => (h.takeLong link.val 0x10).readyIn src.toNat job.toNat step.toNat
    { src := src.toNat, t := t.toNat, votes := votes.toNat, digest := digest.toNat, layers := layers })

/-- R291: the root's timeout. -/
def Hw.rootTimeout (s : Hw) (j : Nat) : Hw :=
  let x := s.getJob j
  if s.rootHere j && x.rootStep != 0 && s.fget F.UPD_COMMIT_TIMEOUT_BEATS ≤ x.rootAge then s.decide' j else s

def execRootCommitTimeout (job : BitVec 12) (s : State) : Host.Outcome State Fault Refusal := s.onHw (fun h => h.rootTimeout job.toNat)

/-! ### The module's READY (R271, R289) -/

/-- R359, R362: a READY message on the wire (DESIGN CHOICE, log 47). -/
def readyBytes (j step : Nat) (m : ReadyMsg) : List Byte :=
  toBytes 2 j ++ toBytes 1 m.votes ++ toBytes 5 0 ++ toBytes 8 step ++ toBytes 8 m.t ++ toBytes 8 m.digest ++ toBytes 1024 m.layers.toNat

/-- R271, R289: the module checks its groups again and sends its READY message to the root. -/
def Hw.sendReady (s : Hw) (j : Nat) : Hw :=
  let step := (s.getJob j).step
  let s1 := (s.getJob j).groups.foldl (fun s g =>
    if s.stepTag g.1 == step && s.fget F.UPD_STEPGEN_GEN g.1 == g.2 then s else s.groupStale j g.1 step) s
  let x := s1.getJob j
  let one := fun (b : Bool) (i : Nat) => if b then 1 <<< i else 0
  let m : ReadyMsg :=
    { src := s1.me, t := s1.jobT j, votes := one x.nonfinite 0 + one x.stale 1 + one x.refused 2, digest := x.digest, layers := x.layers }
  let s2 := (s1.fset F.UPD_JOB_OUTCOME_READY_SENT 1 j).setJob j { x with sentAge := 0 }
  let root := s2.fget F.UPD_JOB_CTL_ROOT j
  if root = s2.me then s2.readyIn s2.me j step m else s2.sendLong root 0x10 (readyBytes j step m)

/-- R323: a module that drains itself, or has drained. -/
def Hw.draining (s : Hw) : Bool := s.flag F.FLT_STATUS_DRAINING || s.flag F.FLT_STATUS_DRAINED

/-- R282, R289: an APPLY of the job's round is in flight on some tile; a write APPLY (latched 2 or 3) counts in no round. -/
def Hw.applying (s : Hw) (j : Nat) : Bool :=
  let busy := fun (fs : FrameState) => fs.ctxs.any (fun e => s.jobOf e.1 == j && e.2.flight.any (fun f =>
    Com.opcode f.cmd == 0x60 && f.stage != Stage.completed && applyStep f.cmd == (s.getJob j).step && decide (f.latched ≤ 1)))
  s.tiles.any (fun e => busy e.2.fs) || s.frames.any (fun e => busy e.2)

/-- R289: the module sends READY. -/
def Hw.readySend (s : Hw) (j : Nat) : Hw :=
  if s.flag F.UPD_JOB_CTL_EN j && s.roundOpen j && !s.readySent j && !s.draining && s.fget F.UPD_JOB_SHARDS_LOCAL j ≤ (s.getJob j).ready && !s.applying j then
    s.sendReady j
  else s

def execReadyMessageSend (job : BitVec 12) (s : State) : Host.Outcome State Fault Refusal := s.onHw (fun h => h.readySend job.toNat)

/-- R289: READY short of LOCAL commands at the timeout. -/
def Hw.readyShort (s : Hw) (j : Nat) : Hw :=
  let x := s.getJob j
  if s.flag F.UPD_JOB_CTL_EN j && s.roundOpen j && !s.readySent j && !s.draining && s.fget F.UPD_COMMIT_TIMEOUT_BEATS ≤ x.age &&
      decide (x.ready < s.fget F.UPD_JOB_SHARDS_LOCAL j) then
    ((s.raise 0x3015 j x.ready (commitWho j)).modJob j (fun y => { y with refused := true })).sendReady j
  else s

def execReadyShortTimeout (job : BitVec 12) (s : State) : Host.Outcome State Fault Refusal := s.onHw (fun h => h.readyShort job.toNat)

/-- R292: a decision is received for the round whose READY the module sent. -/
def Hw.decisionIn (s : Hw) (j step outcome group flip : Nat) (exps : BitVec 8192) : Hw :=
  let x := s.getJob j
  if s.roundOpen j && s.readySent j && x.step == step && x.due.isNone && 1 ≤ outcome then
    s.decisionArrives j
      { step := step, outcome := outcome, group := group, flip := flip, exps := exps, layers := [], beat := s.beatNo, cycle := s.beat.cycle }
  else s

def execDecision (link : Fin 64) (job : BitVec 12) (step : BitVec 64) (outcome : BitVec 2) (group : BitVec 12) (flip : BitVec 64) (exps : BitVec 8192)
    (s : State) : Host.Outcome State Fault Refusal :=
  s.onHw (fun h => (h.takeLong link.val 0x11).decisionIn job.toNat step.toNat outcome.toNat group.toNat flip.toNat exps)

/-- R295: no decision after `UPD.COMMIT_TIMEOUT` + 4 edge windows. -/
def Hw.decisionTimeout (s : Hw) (j : Nat) : Hw :=
  let x := s.getJob j
  if s.roundOpen j && s.readySent j && x.due.isNone && s.fget F.UPD_COMMIT_TIMEOUT_BEATS + 4 ≤ x.sentAge then
    (s.raise 0x3013 j x.step (commitWho j)).abortRound' j
  else s

def execDecisionTimeoutAbort (job : BitVec 12) (s : State) : Host.Outcome State Fault Refusal := s.onHw (fun h => h.decisionTimeout job.toNat)

/-! ### Edge windows (R289, R291 to R295) -/

/-- R292: the cycles from a decision's arrival to the start of this beat's edge window are at least 2,048; those of beats in between
count whole. -/
def Hw.decisionSettled (s : Hw) (d : Decision) : Bool :=
  if d.beat < s.beatNo then true else decide ((d.cycle : Int) + 2048 ≤ s.windowEnd)

/-- R292, R293: the decision that waits is applied in this edge window if it is due; a module in no beat group, or that has left its own
(R71, R468), follows no flip beat. -/
def Hw.applyDue (s : Hw) (j : Nat) : Hw :=
  match (s.getJob j).due with
  | none => s
  | some d =>
    let own := s.flag F.BEAT_STATUS_GROUPED && d.group == s.fget F.BEAT_GROUP_GROUP_ID && d.group != 0xFFF && d.flip != 0
    if !s.decisionSettled d || (own && decide (s.beatNo + 1 < d.flip)) then s
    else
      let s1 := if own && d.flip < s.beatNo + 1 then s.raise 0x3012 j (s.beatNo + 1 - d.flip) (commitWho j) else s
      s1.applyDecision j d

/-- R289, R291, R295: an edge window passes for a job's round. -/
def Job.pass (x : Job) (isOpen sent : Bool) : Job :=
  { x with age := if isOpen then x.age + 1 else x.age, sentAge := if isOpen && sent && x.due.isNone then x.sentAge + 1 else x.sentAge,
           rootAge := if x.rootStep = 0 then x.rootAge else x.rootAge + 1 }

/-- R39 step 2: the commit unit in an edge window: the rounds age, aborts and decisions that are due take effect. -/
def Hw.commitEdge (s : Hw) : Hw :=
  (s.jobs.map (·.1)).foldl (fun s j =>
    let s1 := s.modJob j (fun x => x.pass (s.roundOpen j) (s.readySent j))
    if (s1.getJob j).abortDue then
      if s1.roundOpen j then s1.abortRound' j else s1.modJob j (fun x => { x with abortDue := false })
    else s1.applyDue j) s

/-- R294: at cycle 0 the waits for steps that are decided end. -/
def Hw.releaseWait (s : Hw) (n : Nat) (f : InFlight) : InFlight :=
  let j := s.jobOf n
  let step := Com.param64 f.cmd 0
  if Com.opcode f.cmd == 0x62 && (f.stage == Stage.running || f.stage == Stage.carried) && step ≤ s.lastStep j then
    { f with stage := .done 0, latched := if step = s.lastStep j then s.fget F.UPD_JOB_OUTCOME_LAST j else 0 }
  else f

def Hw.releaseWaits (s : Hw) : Hw :=
  let one := fun (fs : FrameState) => { fs with ctxs := Sparse.mapVals fs.ctxs (fun n c => { c with flight := c.flight.map (s.releaseWait n) }) }
  { s with tiles := Sparse.mapVals s.tiles (fun _ x => { x with fs := one x.fs }), frames := Sparse.mapVals s.frames (fun _ fs => one fs) }

/-! ### READY and COMMIT_WAIT (R289, R294) -/

/-- R289: READY: it opens the round, whether or not the job's record is enabled, and is counted when it completes. -/
def Hw.runReady (s : Hw) (t q : Nat) : Hw :=
  s.issue t q (fun w => Com.opcode w == 0x61) (fun s x st =>
    if st ≠ 0 then s.turned x st
    else
      let j := s.jobOf x.n
      (s.openRound j (Com.param64 x.w 0)).done x 0)

def execReady (tile : Fin 512) (queue : Fin 4) (s : State) : Host.Outcome State Fault Refusal :=
  s.onHw (fun h => h.runReady tile.val queue.val)

/-- R289, R459: the status of a READY that completes now, and the state that has counted it. -/
def Hw.readyCompletes (s : Hw) (n : Nat) (f : InFlight) : Hw × Nat :=
  let j := s.jobOf n
  if s.level == 2 && s.flag F.UPD_JOB_CTL_EN j && s.roundOpen j && (s.getJob j).step == Com.param64 f.cmd 0 && !s.readySent j then
    (s.modJob j (fun x => { x with ready := x.ready + 1 }), 0)
  else (s, St.param)

/-- R294: COMMIT_WAIT. -/
def Hw.commitWait (s : Hw) (t q : Nat) : Hw :=
  s.issue t q (fun w => Com.opcode w == 0x62) (fun s x st =>
    if st ≠ 0 then s.turned x st
    else
      let j := s.jobOf x.n
      let step := Com.param64 x.w 0
      if step = s.lastStep j then s.done { x with latched := s.fget F.UPD_JOB_OUTCOME_LAST j } 0
      else if step < s.lastStep j then s.done { x with latched := 0 } 0
      else s.fly x .running .none)

def execCommitWait (tile : Fin 512) (queue : Fin 4) (s : State) : Host.Outcome State Fault Refusal :=
  s.onHw (fun h => h.commitWait tile.val queue.val)

end Sys2Proof.Machine
end

