-- ==== Sys2Proof/Machine/Complete.lean ====
section
/-!
DEFINITION. COMMAND_COMPLETE (R243 to R245, R248).
-/
namespace Sys2Proof.Machine

/-- R345: the channel that retrains holds accesses of a command in flight. -/
def Hw.heldByChannel (s : Hw) (f : InFlight) : Bool :=
  match s.mu.retraining with
  | some r => (f.srcs ++ f.dests).any (s.onChannel r.1)
  | none => false

/-- R62, R65, R345: a command in flight may complete: no access of its is held, its queue's slot runs, and one that was suspended finds its
unit free; link commands go on outside it. -/
def Hw.mayComplete (s : Hw) (t n : Nat) (f : InFlight) : Bool :=
  !s.heldByChannel f && (f.unit == UnitUse.link ||
  (s.slotRuns t f.queue && (s.getQueue t f.queue).bind.stream == n && (!f.stage.away || s.unitWon t f.queue f.unit)))

/-- R248: while the first command in flight of a stream is a FENCE that nothing earlier holds up, it completes in its queue's slot. -/
def Hw.completeFences (s : Hw) (n : Nat) : Nat → Hw
  | 0 => s
  | k + 1 =>
    match (s.ctxOf n).flight with
    | [] => s
    | f :: _ =>
      if f.stage == Stage.running && Com.opcode f.cmd == 0x7A && s.mayComplete f.tile n f then (s.complete n f 0).completeFences n k else s

/-- R243 to R245: a command with its final status completes: it applies its sets and writes its scalar slot. -/
def Hw.closeFlight (s : Hw) (t n : Nat) (f : InFlight) (st0 : Nat) : Hw :=
  let r := if Com.opcode f.cmd = 0x61 && st0 = 0 then s.readyCompletes n f
    else if Com.opcode f.cmd = 0x60 then (s.applyCompletes n f st0, st0) else (s, st0)
  let s := r.1
  let st := r.2
  let s1 := if (Com.opcode f.cmd = 0x7B || Com.opcode f.cmd = 0x62) && statusCode st = 0 then
      (match slotWritten f.cmd with
        | some k => s.setSlot n k (BitVec.ofNat 32 f.latched) (bit f.latched 32)
        | none => s)
    else s
  let s2 := s1.complete n f st
  -- R151: with PATH = AUTO the fractions of the paths are reported as the command completes
  let s3 := if Com.opcode f.cmd = 0x23 && Com.mode f.cmd 13 3 = 0 && bit f.latched 96 then
      s2.raise 0xC030 (Com.tag f.cmd) (bits f.latched 64 32) { kind := 1, unit := t, stream := some n, job := some (s.jobOf n) }
    else s2
  s3.completeFences n 16

/-- R62, R243 to R245: a command whose status is final completes, in a slot of its stream.  A command with a
reserved opcode at the head of the queue issues and completes with FORMAT (R239). -/
def Hw.commandComplete (s : Hw) (t q num : Nat) : Hw :=
  match s.findFlight t q num with
  | some (n, f) =>
    if !s.mayComplete t n f then s
    else match f.stage with
    | .done st | .held st => s.closeFlight t n f st
    | _ => s.completeFences n 16
  | none =>
    match s.head t q with
    | some h =>
      if h.ctx.issued.toNat = num && !opcodeListed (Com.opcode h.w) then
        s.issue t q (fun w => !opcodeListed (Com.opcode w)) (fun s x st => s.completeNow x st)
      else s
    | none => s

def execCommandComplete (tile : Fin 512) (queue : Fin 4) (num : BitVec 32) (s : State) : Host.Outcome State Fault Refusal :=
  s.onHw (fun h => h.commandComplete tile.val queue.val num.toNat)

end Sys2Proof.Machine
end

