-- ==== Sys2Proof/Machine/Finisher.lean ====
section
/-!
DEFINITION. The Finisher (R171 to R193): EW with ACT and ACT_BWD, ROW, NORM, SMAX, CAST and SCALE.
-/
namespace Sys2Proof.Machine

/-! ### Checks shared by the Finisher's commands -/

/-- R172, R190: no E8M0 operand but the destination of SCALE or CAST; a block-scaled destination has its scale axis last. -/
def finFormatOk (x : Cmd) : Bool :=
  x.named.all (fun p =>
    (p.2.fmt != 10 || (p.1 == 0 && (Com.opcode x.w == 0x34 || Com.opcode x.w == 0x35))) &&
    (!(isDst (roleAt x.w p.1)) || !p.2.scaled || p.2.axis + 1 == p.2.rank))

/-- R174: the row length of a shape. -/
def rowLen (shape : List Nat) : Nat := shape.getLastD 1

/-- R179: how an operand's shape meets a destination's: the operand's index for a destination index. -/
inductive Bcast where
  | same | row | colLast | colDrop | single
  deriving DecidableEq, Repr

/-- R179: the first of the shapes that fits, in the rule's order. -/
def bcastOf (shape ds : List Nat) : Option Bcast :=
  if shape = ds then some .same
  else if shape = [rowLen ds] then some .row
  else if shape = ds.dropLast ++ [1] then some .colLast
  else if shape = ds.dropLast && 2 ≤ shape.length then some .colDrop
  else if shape.all (fun n => n == 1) then some .single
  else none

/-- The operand's index. -/
def Bcast.index (b : Bcast) (rank : Nat) (idx : List Nat) : List Nat :=
  match b with
  | .same => idx
  | .row => [idx.getLastD 0]
  | .colLast => idx.dropLast ++ [0]
  | .colDrop => idx.dropLast
  | .single => List.replicate rank 0

/-- R178, R179: the value of a slot or an immediate in place of an operand. -/
def valOf (x : Cmd) (i : Nat) : FVal :=
  let r := Com.op x.w i
  if refKind r = 2 then
    let v := x.c.slotOf (r % 16)
    if v.2 then decodeFloat 0 v.1.toNat else (FVal.ofInt v.1.toInt).r32
  else decodeFloat 0 (Com.param x.w i)

/-- An operand's value at a destination index: a descriptor broadcast by R179, a slot or an immediate. -/
def operandAt (s : Hw) (x : Cmd) (i : Nat) (ds idx : List Nat) : FVal :=
  if x.has i then
    match bcastOf (x.o i).readShape ds with
    | some b => (x.o i).readVal s (b.index (x.o i).rank idx)
    | none => .zero false
  else valOf x i

/-! ### Rows and groups (R174, R175) -/

/-- The groups of 64 of a row of n elements. -/
def groupsOf (n : Nat) : List (List Nat) :=
  (List.range (ceilDiv n 64)).map (fun g => (List.range (min 64 (n - 64 * g))).map (fun i => 64 * g + i))

/-- R175: the pass that writes: rows ascending, groups ascending; a group's operands are read before its elements are written.
`f` gives an element's value from the state, the row number and the destination index. -/
def Hw.writePass (s : Hw) (o : Opnd) (w : Writer) (row : List Nat) (f : Hw → List Nat → FVal) : Hw × Nat :=
  (groupsOf (rowLen o.writeShape)).foldl (fun (r : Hw × Nat) g =>
    let els := g.map (fun i => (row ++ [i], f r.1 (row ++ [i])))
    let z := r.1.writeElems o w els
    (z.1, r.2 + z.2)) (s, 0)

/-- The rows of a shape: the indices of the dimensions before the last, in row-major order. -/
def rowsOf (shape : List Nat) : List (List Nat) := allIndices shape.dropLast

/-- R193, R196: the atoms a command writes to a stash descriptor. -/
def stashAtoms (o : Opnd) : Nat :=
  if Desc.stash o.img then
    ((allIndices o.writeShape).foldl (fun (l : List Nat) idx =>
      let a := o.byteAt (idx.map Int.ofNat) / 128
      if l.contains a then l else a :: l) []).length
  else 0

/-- What every Finisher command leaves: halo rings, the touch log, its counters, and the status of its saturations. DEDUCED, log 88. -/
def Hw.finish (s : Hw) (x : Cmd) (sat rows : Nat) : Hw × Nat :=
  let dsts := x.named.filter (fun p => isDst (roleAt x.w p.1))
  let s1 := dsts.foldl (fun s p => (s.writeHalo p.2).touch x.t p.2) s
  -- SCALE writes no elements (R191)
  let els := if Com.opcode x.w = 0x35 then 0 else dsts.foldl (fun a p => a + volume p.2.writeShape) 0
  let atoms := dsts.foldl (fun a p => a + stashAtoms p.2) 0
  let s2 := ((s1.bump F.FIN_ELEMENTS_COUNT x.t (ceilDiv els 64)).bump F.FIN_ROWS_COUNT x.t rows).bump F.FIN_STASH_ATOMS_COUNT x.t atoms
  s2.countSat x.n sat

/-- A Finisher command: its checks, then its effect unless it consumes dross.  R174: the rows are the destination's, but for ROW. -/
def Hw.finisher (s : Hw) (t q op : Nat) (check : Cmd → Nat) (run : Hw → Cmd → Hw × Nat) : Hw :=
  s.unitCommand t q op
    (fun _ x => if !finFormatOk x then St.format
      else if op != 0x31 && decide (262_144 < rowLen (x.o 0).writeShape) then St.shape else check x)
    (fun s x => s.consuming x 2 x.sourceSpans (fun s => run s x))

/-! ### Activations (R181 to R183) -/

def oneF : FVal := .fin false 1 0

/-- R181, R182: f(x). -/
def actF (func : Nat) (alpha x : FVal) : FVal :=
  if x.isNan then .nan false
  else
    let pos := !x.isZero && !x.neg?
    match func with
    | 0 => x
    | 1 => if pos then x else .zero false
    | 2 => if pos then x else fmul alpha x
    | 3 => fSigmoid x
    | 4 => fTanh x
    | 5 => fExp x
    | 6 => fSoftplus x
    | 7 => if pos then x else fExpm1 0x17 alpha x
    | 8 => fGelu x
    | _ => fSilu x

/-- R181: f′ from the output y. -/
def actDerivOut (func : Nat) (alpha y : FVal) : FVal :=
  if y.isNan then .nan false
  else
    let pos := !y.isZero && !y.neg?
    match func with
    | 0 => oneF
    | 1 => if pos then oneF else .zero false
    | 2 => if pos then oneF else alpha
    | 3 => fmul y (fsub oneF y)
    | 4 => fsub oneF (fmul y y)
    | 5 => y
    | 6 => (fExpm1 0x20 oneF y.negate).negate
    | _ => if pos then oneF else fadd y alpha

/-- R181 to R183: f′ where operand A holds the input x. -/
def actDerivIn (func : Nat) (alpha x : FVal) : FVal :=
  if x.isNan then .nan false
  else match func with
    | 8 => fGeluDeriv x
    | 9 => fSiluDeriv x
    | _ => actDerivOut func alpha (actF func alpha x)

/-! ### EW (R178, R179, R183) -/

/-- The operation, FUNC, SAVE or FROM, α and β of an EW. -/
def ewOp (w : Record64) : Nat := Com.mode w 4 5
def ewFunc (w : Record64) : Nat := Com.mode w 9 4
def ewSave (w : Record64) : Nat := Com.mode w 13 2
def ewAlpha (w : Record64) : FVal := decodeFloat 0 (Com.param w 0)
def ewBeta (w : Record64) : FVal := decodeFloat 0 (Com.param w 1)

/-- R178: the FP32 result of an element. -/
def ewValue (w : Record64) (a b c : FVal) : FVal :=
  match ewOp w with
  | 0 => a
  | 1 => fadd a b
  | 2 => fsub a b
  | 3 => fmul a b
  | 4 => fadd (fmul a b) c
  | 5 => fadd (fmul (ewAlpha w) a) (fmul (ewBeta w) b)
  | 6 => a.max100 b
  | 7 => a.min100 b
  | 8 => actF (ewFunc w) (ewAlpha w) a
  | 9 => fmul b (if ewSave w = 1 then actDerivOut (ewFunc w) (ewAlpha w) a else actDerivIn (ewFunc w) (ewAlpha w) a)
  | 10 => fRecip a
  | 11 => fRsqrt a
  | 12 => fSqrt a
  | _ => fLog a

/-- R183: the parameters of ACT and ACT_BWD. -/
def actParamOk (w : Record64) : Bool :=
  let a := ewAlpha w
  let within := fun (hi : Nat) => (FVal.fin false 1 (-16)).le a && a.le (.fin false hi 0)
  !a.isNan && !((ewFunc w == 8 || ewFunc w == 9) && ewSave w == 1) && (ewFunc w != 2 || within 1) && (ewFunc w != 7 || within 16) &&
  !(ewOp w == 9 && ewSave w == 0)

/-- R178, R179, R183: the checks of EW. -/
def ewCheck (x : Cmd) : Nat :=
  let ds := (x.o 0).writeShape
  let fits := fun i => !x.has i || (bcastOf (x.o i).readShape ds).isSome
  if (x.o 1).readShape ≠ ds || !fits 2 || !fits 3 || (x.has 4 && (x.o 4).writeShape ≠ ds) then St.shape
  else if (ewOp x.w = 8 || ewOp x.w = 9) && !actParamOk x.w then St.param
  else St.ok

/-- R175, R178, R183: EW: each group is read, then written to the destination and, for SAVE, to the second one. -/
def Hw.runEw (s : Hw) (x : Cmd) : Hw × Nat :=
  let ds := (x.o 0).writeShape
  let val := fun (s : Hw) idx =>
    ewValue x.w (operandAt s x 1 ds idx) (if ewUsesB (ewOp x.w) then operandAt s x 2 ds idx else .zero false)
      (if ewUsesC (ewOp x.w) then operandAt s x 3 ds idx else .zero false)
  let r := (rowsOf ds).foldl (fun (r : Hw × Nat) row =>
    (groupsOf (rowLen ds)).foldl (fun (r : Hw × Nat) g =>
      let idxs := g.map (fun i => row ++ [i])
      let ys := idxs.map (fun idx => (idx, val r.1 idx))
      let saved := if ewSave x.w = 1 then ys else idxs.map (fun idx => (idx, operandAt r.1 x 1 ds idx))
      let z := r.1.writeElems (x.o 0) x.wr ys
      let z2 := if x.has 4 then z.1.writeElems (x.o 4) x.wr saved else (z.1, 0)
      (z2.1, r.2 + z.2 + z2.2)) r) (s, 0)
  r.1.finish x r.2 0

def execEw (tile : Fin 512) (queue : Fin 4) (s : State) : Host.Outcome State Fault Refusal :=
  s.onHw (fun h => h.finisher tile.val queue.val 0x30 ewCheck Hw.runEw)

/-! ### ROW (R180) -/

/-- R180: the shape of ROW's destination. -/
def rowDest (shape : List Nat) : List Nat := if shape.length ≤ 1 then [1] else shape.dropLast

/-- R180: the reduction of a row. -/
def rowResult (op : Nat) (xs : List FVal) : FVal :=
  match op with
  | 0 => rowSum xs
  | 1 => rowMax xs
  | 2 => rowSum (xs.map (fun v => fmul v v))
  | _ => rowMax (xs.map FVal.abs)

def rowCheck (x : Cmd) : Nat :=
  let sh := (x.o 1).readShape
  if (x.o 0).writeShape ≠ rowDest sh || 262_144 < rowLen sh then St.shape else St.ok

def Hw.runRow (s : Hw) (x : Cmd) : Hw × Nat :=
  let sh := (x.o 1).readShape
  let rows := rowsOf sh
  let r := rows.foldl (fun (r : Hw × Nat × List (Nat × Reg32)) row =>
    let xs := (List.range (rowLen sh)).map (fun i => (x.o 1).readVal r.1 (row ++ [i]))
    let z := r.1.writeBlocks (x.o 0) x.wr r.2.2 [(if row.isEmpty then [0] else row, rowResult (Com.mode x.w 4 4) xs)] false
    (z.1, r.2.1 + z.2.1, z.2.2)) (s, 0, [])
  r.1.finish x r.2.1 rows.length

def execRow (tile : Fin 512) (queue : Fin 4) (s : State) : Host.Outcome State Fault Refusal :=
  s.onHw (fun h => h.finisher tile.val queue.val 0x31 rowCheck Hw.runRow)

/-! ### SMAX (R184 to R186) -/

/-- R184, R187: a statistics operand: FP32, unscaled, two values a row. -/
def statsFormatOk (o : Opnd) : Bool := o.fmt == 0 && !o.scaled
def statsShape (ds : List Nat) : List Nat := ds.dropLast ++ [2]

def smaxCheck (x : Cmd) : Nat :=
  let ds := (x.o 0).writeShape
  if Com.modeBit x.w 5 then (if (x.o 1).readShape ≠ ds || (x.o 2).readShape ≠ ds then St.shape else St.ok)
  else if (x.has 2 && !fmtFloat (x.o 2).fmt) || (x.has 3 && !statsFormatOk (x.o 3)) then St.format
  else if (x.o 1).readShape ≠ ds || (x.has 2 && (bcastOf (x.o 2).readShape ds).isNone) ||
      (x.has 3 && (x.o 3).writeShape ≠ statsShape ds) then St.shape
  else St.ok

/-- R184: z of one element of row r. -/
def smaxZ (s : Hw) (x : Cmd) (ds : List Nat) (r : Nat) (idx : List Nat) : FVal :=
  let i := idx.getLastD 0
  let z := fmul ((x.o 1).readVal s idx) (decodeFloat 0 (Com.param x.w 0))
  let z1 := if x.has 2 then fadd z (operandAt s x 2 ds idx) else z
  if Com.modeBit x.w 6 && decide ((i : Int) > (r : Int) + signed 32 (Com.param x.w 1)) then .inf true else z1

/-- R184, R185: one forward row. -/
def Hw.smaxRow (s : Hw) (x : Cmd) (r : Nat) (row : List Nat) : Hw × Nat :=
  let ds := (x.o 0).writeShape
  let n := rowLen ds
  let idxs := (List.range n).map (fun i => row ++ [i])
  let mx := rowMax (idxs.map (smaxZ s x ds r))
  let sum := rowSum (idxs.map (fun idx => fExp (fsub (smaxZ s x ds r idx) mx)))
  let inv := fRecip sum
  let empty := mx == .inf true
  let bad := mx.isNan || mx == .inf false
  let z := s.writePass (x.o 0) x.wr row (fun s idx =>
    if empty then .zero false else if bad then .nan false else fmul (fExp (fsub (smaxZ s x ds r idx) mx)) inv)
  let s1 := if empty then z.1.bump F.FIN_SMAX_EMPTY_COUNT x.t else if bad then z.1.bump F.FIN_NAN_ROWS_COUNT x.t else z.1
  let s2 := if x.has 3 then (s1.writeElems (x.o 3) Writer.plain [(row ++ [0], mx), (row ++ [1], sum)]).1 else s1
  (s2, z.2)

/-- R186: one backward row. -/
def Hw.smaxBackRow (s : Hw) (x : Cmd) (row : List Nat) : Hw × Nat :=
  let n := rowLen (x.o 0).writeShape
  let y := fun (s : Hw) idx => (x.o 1).readVal s idx
  let dy := fun (s : Hw) idx => (x.o 2).readVal s idx
  let c := rowSum ((List.range n).map (fun i => fmul (dy s (row ++ [i])) (y s (row ++ [i]))))
  s.writePass (x.o 0) x.wr row (fun s idx => fmul (y s idx) (fsub (dy s idx) c))

def Hw.runSmax (s : Hw) (x : Cmd) : Hw × Nat :=
  let rows := rowsOf (x.o 0).writeShape
  let r := ((List.range rows.length).zip rows).foldl (fun (r : Hw × Nat) p =>
    let z := if Com.modeBit x.w 5 then r.1.smaxBackRow x p.2 else r.1.smaxRow x p.1 p.2
    (z.1, r.2 + z.2)) (s, 0)
  r.1.finish x r.2 rows.length

def execSmax (tile : Fin 512) (queue : Fin 4) (s : State) : Host.Outcome State Fault Refusal :=
  s.onHw (fun h => h.finisher tile.val queue.val 0x33 smaxCheck Hw.runSmax)

/-! ### NORM (R187 to R189) -/

/-- R187: ε lies in 2^−126 to 1. -/
def epsOk (w : Record64) : Bool :=
  let e := decodeFloat 0 (Com.param w 0)
  !e.isNan && (FVal.fin false 1 (-126)).le e && e.le oneF

/-- A row vector of the destination's row length. -/
def rowVector (shape ds : List Nat) : Bool := shape == [rowLen ds]

def normCheck (x : Cmd) : Nat :=
  let ds := (x.o 0).writeShape
  if Com.modeBit x.w 5 then
    if !statsFormatOk (x.o 2) || (x.has 3 && !fmtFloat (x.o 3).fmt) || (x.has 5 && !statsFormatOk (x.o 5)) ||
        (x.has 6 && !statsFormatOk (x.o 6)) || (x.has 5 && !rowVector (x.o 5).writeShape ds) ||
        (x.has 6 && !rowVector (x.o 6).writeShape ds) then St.format
    else if (x.o 1).readShape ≠ ds || (x.o 4).readShape ≠ ds || (x.o 2).readShape ≠ statsShape ds ||
        (x.has 3 && !rowVector (x.o 3).readShape ds) then St.shape
    else if !epsOk x.w then St.param else St.ok
  else if !statsFormatOk (x.o 2) || (x.has 3 && !fmtFloat (x.o 3).fmt) || (x.has 4 && !fmtFloat (x.o 4).fmt) then St.format
  else if (x.o 1).readShape ≠ ds || (x.o 2).writeShape ≠ statsShape ds || (x.has 3 && !rowVector (x.o 3).readShape ds) ||
      (x.has 4 && !rowVector (x.o 4).readShape ds) then St.shape
  else if !epsOk x.w then St.param else St.ok

/-- A row vector's element, or its default. -/
def vecAt (s : Hw) (x : Cmd) (k : Nat) (d : FVal) (idx : List Nat) : FVal :=
  if x.has k then (x.o k).readVal s [idx.getLastD 0] else d

/-- R187, R189: one forward row; RMS where MODE bit 4 is set. -/
def Hw.normRow (s : Hw) (x : Cmd) (row : List Nat) : Hw × Nat :=
  let n := rowLen (x.o 0).writeShape
  let rms := Com.modeBit x.w 4
  let invN := fRecip (FVal.ofInt n).r32
  let eps := decodeFloat 0 (Com.param x.w 0)
  let xs := (List.range n).map (fun i => (x.o 1).readVal s (row ++ [i]))
  let mu := if rms then .zero false else fmul (rowSum xs) invN
  let var := if rms then fmul (rowSum (xs.map (fun v => fmul v v))) invN
    else fmul (rowSum (xs.map (fun v => fmul (fsub v mu) (fsub v mu)))) invN
  let r := fRsqrt (fadd var eps)
  let bad := mu.isNan || r.isNan || r == .inf false
  let z := s.writePass (x.o 0) x.wr row (fun s idx =>
    let v := (x.o 1).readVal s idx
    let g := vecAt s x 3 oneF idx
    let b := vecAt s x 4 (.zero false) idx
    if bad then .nan false
    else if rms then fmul (fmul v r) g
    else fadd (fmul (fmul (fsub v mu) r) g) b)
  let s1 := if bad then z.1.bump F.FIN_NAN_ROWS_COUNT x.t else z.1
  ((s1.writeElems (x.o 2) Writer.plain [(row ++ [0], mu), (row ++ [1], r)]).1, z.2)

/-- R188, R189: one backward row. -/
def Hw.normBackRow (s : Hw) (x : Cmd) (row : List Nat) : Hw × Nat :=
  let n := rowLen (x.o 0).writeShape
  let rms := Com.modeBit x.w 4
  let invN := fRecip (FVal.ofInt n).r32
  let mu := (x.o 2).readVal s (row ++ [0])
  let r := (x.o 2).readVal s (row ++ [1])
  let bad := mu.isNan || r.isNan || r == .inf false
  let xAt := fun (s : Hw) idx => (x.o 1).readVal s idx
  let dy := fun (s : Hw) idx => (x.o 4).readVal s idx
  let gh := fun (s : Hw) idx => fmul (dy s idx) (vecAt s x 3 oneF idx)
  let xh := fun (s : Hw) idx => fmul (fsub (xAt s idx) mu) r
  let idxs := (List.range n).map (fun i => row ++ [i])
  let a := rowSum (idxs.map (gh s))
  let bb := if rms then rowSum (idxs.map (fun idx => fmul (gh s idx) (xAt s idx))) else rowSum (idxs.map (fun idx => fmul (gh s idx) (xh s idx)))
  let k := fmul (fmul (fmul r r) r) (fmul bb invN)
  let dx := fun (s : Hw) idx =>
    if bad then .nan false
    else if rms then fsub (fmul (gh s idx) r) (fmul (xAt s idx) k)
    else fmul (fsub (gh s idx) (fmul (fadd a (fmul (xh s idx) bb)) invN)) r
  let dg := fun (s : Hw) idx => if bad then .nan false else if rms then fmul (dy s idx) (fmul (xAt s idx) r) else fmul (dy s idx) (xh s idx)
  let db := fun (s : Hw) idx => if bad then .nan false else dy s idx
  let z := (groupsOf n).foldl (fun (q : Hw × Nat) g =>
    let is := g.map (fun i => row ++ [i])
    let e0 := is.map (fun idx => (idx, dx q.1 idx))
    let eg := is.map (fun idx => ([idx.getLastD 0], fadd ((x.o 5).value q.1 [Int.ofNat (idx.getLastD 0)]) (dg q.1 idx)))
    let eb := is.map (fun idx => ([idx.getLastD 0], fadd ((x.o 6).value q.1 [Int.ofNat (idx.getLastD 0)]) (db q.1 idx)))
    let w0 := q.1.writeElems (x.o 0) x.wr e0
    let w1 := if x.has 5 then (w0.1.writeElems (x.o 5) Writer.plain eg).1 else w0.1
    let w2 := if x.has 6 then (w1.writeElems (x.o 6) Writer.plain eb).1 else w1
    (w2, q.2 + w0.2)) (s, 0)
  (if bad then z.1.bump F.FIN_NAN_ROWS_COUNT x.t else z.1, z.2)

def Hw.runNorm (s : Hw) (x : Cmd) : Hw × Nat :=
  let rows := rowsOf (x.o 0).writeShape
  let r := rows.foldl (fun (r : Hw × Nat) row =>
    let z := if Com.modeBit x.w 5 then r.1.normBackRow x row else r.1.normRow x row
    (z.1, r.2 + z.2)) (s, 0)
  r.1.finish x r.2 rows.length

def execNorm (tile : Fin 512) (queue : Fin 4) (s : State) : Host.Outcome State Fault Refusal :=
  s.onHw (fun h => h.finisher tile.val queue.val 0x32 normCheck Hw.runNorm)

/-! ### CAST, SCALE (R190, R191) -/

def castCheck (x : Cmd) : Nat := if (x.o 1).readShape ≠ (x.o 0).writeShape then St.shape else St.ok

def Hw.runCast (s : Hw) (x : Cmd) : Hw × Nat :=
  let r := (rowsOf (x.o 0).writeShape).foldl (fun (r : Hw × Nat) row =>
    let z := r.1.writePass (x.o 0) x.wr row (fun s idx => (x.o 1).readVal s idx)
    (z.1, r.2 + z.2)) (s, 0)
  r.1.finish x r.2 0

def execCast (tile : Fin 512) (queue : Fin 4) (s : State) : Host.Outcome State Fault Refusal :=
  s.onHw (fun h => h.finisher tile.val queue.val 0x34 castCheck Hw.runCast)

/-- R191: the emax of EFMT. -/
def efmtMax (k : Nat) : Int :=
  match k with
  | 0 => 8 | 1 => 15 | 2 => 2 | _ => 0

def scaleCheck (x : Cmd) : Nat :=
  let sh := (x.o 1).readShape
  if (x.o 0).fmt ≠ 10 then St.format
  else if (x.o 0).writeShape ≠ sh.dropLast ++ [ceilDiv (rowLen sh) 32] then St.shape else St.ok

/-- R175, R191: one E8M0 code per block of 32 elements along the last dimension, two blocks, a group, at a time. -/
def Hw.runScale (s : Hw) (x : Cmd) : Hw × Nat :=
  let sh := (x.o 1).readShape
  let n := rowLen sh
  let s1 := (rowsOf sh).foldl (fun s row =>
    (List.range (ceilDiv n 64)).foldl (fun s g =>
      let code := fun (b : Nat) =>
        let vs := (List.range (min 32 (n - 32 * b))).map (fun i => (x.o 1).readVal s (row ++ [32 * b + i]))
        (row ++ [b], (blockScale (efmtMax (Com.mode x.w 4 3)) vs).1)
      s.writeRaw (x.o 0) (([2 * g, 2 * g + 1].filter (fun b => 32 * b < n)).map code)) s) s
  s1.finish x 0 0

def execScale (tile : Fin 512) (queue : Fin 4) (s : State) : Host.Outcome State Fault Refusal :=
  s.onHw (fun h => h.finisher tile.val queue.val 0x35 scaleCheck Hw.runScale)

end Sys2Proof.Machine
end

