-- ==== Sys2Proof/Machine/Fleet.lean ====
section
/-!
DEFINITION. Fleet patterns (R32, R315): the third kind of program, which the last part of a full assay runs in a tile's assay scratch.
-/
namespace Sys2Proof.Machine

/-- R313: the assay scratch: its store offset and its bytes. -/
def scratchBase : Nat := 0x2F_C000
def scratchLen : Nat := 0x4000

/-- R315: a fleet pattern: its header, its descriptors and its commands. -/
structure Fleet where
  id : Nat
  cycles : Nat
  seed : Nat
  digest : Nat
  descs : List Record64
  cmds : List Record64
  deriving DecidableEq, Repr

/-- R315, R437: the pattern that lies at an offset of a set. -/
def fleetAt (set : Sparse Byte) (a : Nat) : Fleet :=
  let num := fun (o n : Nat) => ofBytes ((List.range n).map (fun i => Sparse.get 0 set (a + o + i)))
  let nd := num 2 1
  { id := num 0 2, cycles := num 4 4, seed := num 8 8, digest := num 16 8,
    descs := (List.range nd).map (fun i => BitVec.ofNat 512 (num (64 + 64 * i) 64)),
    cmds := (List.range (num 3 1)).map (fun i => BitVec.ofNat 512 (num (64 * (1 + nd + i)) 64)) }

/-- R437: the patterns of a set, back to back from an offset on. -/
def fleets (set : Sparse Byte) (a : Nat) : Nat → List Fleet
  | 0 => []
  | k + 1 => let f := fleetAt set a; f :: fleets set (a + 64 * (1 + f.descs.length + f.cmds.length)) k

/-- R165, R315: the scratch as a seed fills it: 64-bit word k is the generator's value for k. DEDUCED, log 93. -/
def scratchFill (seed : Nat) : List Byte :=
  (List.range (scratchLen / 8)).flatMap (fun k => toBytes 8 (mix64 ((seed % (1 <<< 64)) ^^^ k)))

/-- R315, R395: the sum of the block digests of a scratch's atoms. -/
def scratchDigest (id : Nat) (bs : List Byte) : Nat :=
  (List.range 128).foldl (fun a i =>
    (a + blockDigest id i ((List.range 16).map (fun j => ofBytes ((bs.drop (128 * i + 8 * j)).take 8)))) % (1 <<< 64)) 0

/-- R315: a pattern's descriptor as it lies in the scratch: of the pattern's own job and of the scratch's region. -/
def fleetDesc (d : Record64) : Record64 := BitVec.ofNat 512 (setBits d.toNat 20 24 0x1_000)

/-- R315: the cells of a run of bytes, as memory lists them. -/
def cellsOf (a : Nat) (bs : List Byte) : List Host.Cell := ((runCells a bs).filter (fun e => e.2 != 0)).map (fun e => (e.1, e.2))

/-- R315: the bench on which a pattern runs: a tile in service whose queue 0 runs the pattern as a stream of its own, whose descriptors lie
in a LOCAL region of 16 KiB over the scratch, and which reaches nothing else. DEDUCED, log 93. -/
def fleetBench (free : Nat) (f : Fleet) : Hw :=
  let r := State.reset.hw
  let b : Binding :=
    { stream := 0, budget := 0, pbase := scratchBase / 4096, psize := scratchLen / 4096, valid := true, cl := true, cs := true }
  let v : QueueState := { QueueState.reset with bound := true, bind := b }
  let i : Resident := { stream := 0, pbase := b.pbase, psize := b.psize, backing := 0, filled := true }
  let p : Phys := { Phys.reset with st := .in_, loomOkA := true, loomOkB := true, resident := [i] }
  let cells := cellsOf 0 (f.cmds.flatMap (fun w => toBytes 64 w.toNat)) ++
    cellsOf 0x1_0000 (f.descs.flatMap (fun d => toBytes 64 (fleetDesc d).toNat)) ++
    cellsOf (storeKey (homePhys 0) scratchBase) (scratchFill f.seed)
  let g : BitVec 128 := BitVec.ofNat 128 (scratchBase + (2 <<< 40) + (scratchLen <<< 64))
  let s : Hw :=
    { r with mem := { Mem.reset with cells := cells }, tiles := Sparse.set [] 0 { Tile.reset with frame := some 0, queues := Sparse.set [] 0 v },
             phys := Sparse.set [] (homePhys 0) p, regions := Sparse.set [] 1 g, flt := { r.flt with offline := [], remap := [] },
             mu := { r.mu with mapped := true }, boot := { r.boot with ticks := 1 }, free := free }
  let s1 := ((((s.fset F.BEAT_STATUS_RUN 1).fset F.PWR_STATUS_DUTY 256).fset F.STRM_CTL_ENABLE 1).fset F.STRM_FRAME_FRAME 0).fset F.STRM_TAIL_COUNT f.cmds.length
  (s1.wr64 .STRM_TDESC_BASE_LO .STRM_TDESC_BASE_HI 0x1_0000).fset F.STRM_TDESC_CAP_COUNT f.descs.length

/-- R315: a pattern's command issues: of the loom, Shuttle, Finisher, move and control classes, and of no other. -/
def execFleet (w : Record64) (s : State) : Host.Outcome State Fault Refusal :=
  match Com.opcode w with
  | 0x10 => execMm 0 0 s
  | 0x11 => execMm2 0 0 s
  | 0x12 => execConv 0 0 s
  | 0x13 => execHeddleLoad 0 0 s
  | 0x20 => execGather 0 0 s
  | 0x21 => execScatter 0 0 s
  | 0x22 => execScatterAdd 0 0 s
  | 0x23 => execSpmm 0 0 s
  | 0x24 => execMerge 0 0 s
  | 0x25 => execSort 0 0 s
  | 0x26 => execRoute 0 0 s
  | 0x27 => execSketch 0 0 s
  | 0x30 => execEw 0 0 s
  | 0x31 => execRow 0 0 s
  | 0x32 => execNorm 0 0 s
  | 0x33 => execSmax 0 0 s
  | 0x34 => execCast 0 0 s
  | 0x35 => execScale 0 0 s
  | 0x40 => execMove 0 0 s
  | 0x70 => execSetc 0 0 s
  | 0x71 => execAddc 0 0 s
  | 0x72 => execCmp 0 0 s
  | 0x73 => execBr 0 0 s
  | 0x74 => execLoop 0 0 s
  | 0x75 => execWait 0 0 s
  | 0x76 => execSet 0 0 s
  | 0x77 => execCall 0 0 s
  | 0x78 => execRet 0 0 s
  | 0x79 => execYield 0 0 s
  | 0x7A => execFence 0 0 s
  | 0x7B => execScalarLoad 0 0 s
  | _ => .next s

/-- A meaning's effect on the bench. -/
def Hw.onBench (s : Hw) (f : State → Host.Outcome State Fault Refusal) : Hw :=
  match f { State.reset with hw := s } with
  | .next t => t.hw
  | _ => s

/-- R315: a cycle of the bench: a fetch, an issue, a drain of each loom and of its held block, and the completions. -/
def Hw.benchCycle (s : Hw) : Hw :=
  let s1 := if (s.getQueue 0 0).fetched.isEmpty then s.fetchReturn 0 0 else s
  let s2 := match (s1.getQueue 0 0).fetched with
    | w :: _ => s1.onBench (execFleet w)
    | [] => s1
  let s3 := [false, true].foldl (fun s b => (s.blockDrain 0 b []).repeatDone 0 b []) s2
  let s4 := ((s3.ctxOf 0).flight.map (·.num) ++ [(s3.ctxOf 0).issued.toNat]).foldl (fun s k => s.commandComplete 0 0 k) s3
  { s4 with boot := { s4.boot with ticks := s4.boot.ticks + 1 } }

/-- R315: the pattern has completed: nothing more issues and nothing is in flight. -/
def Hw.benchDone (s : Hw) (f : Fleet) : Bool :=
  (s.ctxOf 0).pos == .ring f.cmds.length && (s.ctxOf 0).flight.isEmpty && !s.flag F.STRM_STATE_FAULTED

/-- R315: runs the bench for as many cycles as are left; answers whether the pattern completed. -/
def Hw.benchRun (s : Hw) (f : Fleet) : Nat → Hw × Bool
  | 0 => (s, s.benchDone f)
  | k + 1 => if s.benchDone f then (s, true) else s.benchCycle.benchRun f k

/-- R315: runs one pattern on physical tile p: the scratch holds what it leaves; it passes when it completes within CYCLES and the digest
of the scratch is DIGEST. -/
def Hw.runFleet (s : Hw) (p : Nat) (f : Fleet) : Hw × Bool :=
  let r := (fleetBench s.free f).benchRun f f.cycles
  let bs := (List.range scratchLen).map (fun i => r.1.mem.goodByte (storeKey (homePhys 0) (scratchBase + i)))
  (({ s with free := r.1.free } : Hw).writeKeys (runCells (storeKey p scratchBase) bs), r.2 && scratchDigest f.id bs == f.digest)

/-- R313: the built-in unit patterns run in the assay scratch, and leave free bytes there. -/
def Hw.usesScratch (s : Hw) (p : Nat) : Hw :=
  { s with mem := s.mem.setFree (storeKey p scratchBase) (storeKey p scratchBase + scratchLen - 1) s.free, free := s.free + 1 }

/-- R315: runs the patterns of the set that a tile's assay began with; answers whether all of them pass. -/
def Hw.runFleets (s : Hw) (p : Nat) : Hw × Bool :=
  let x := s.getPhys p
  (fleets x.set 8 x.setCount).foldl (fun r f => let d := r.1.runFleet p f; (d.1, r.2 && d.2)) (s, true)

end Sys2Proof.Machine
end

