-- ==== Sys2Proof/Machine/Collective.lean ====
section
/-!
DEFINITION. Collectives (R373 to R377): groups, the ring of participants, and what arrives for them; refusals (R361, R366) and
unreachable destinations.
-/
namespace Sys2Proof.Machine

/-! ### Groups (R373) -/

structure Group where
  job : Nat
  p : Nat
  first : Nat
  here : Nat
  next : Nat
  streams : List Nat
  deriving DecidableEq, Repr

/-- R373, R520: a group's record as the link unit reads it; none where it is beyond the table or mapped GDDR7, or not valid. DEDUCED, log 59. -/
def Hw.groupRec (s : Hw) (g : Nat) : Hw × Option Group :=
  if s.fget F.LNK_GROUP_COUNT_COUNT ≤ g then (s, none)
  else
    let r := s.fetchGddr (s.rd64 .LNK_GROUP_BASE_LO .LNK_GROUP_BASE_HI % (1 <<< 40) + 256 * g) 256
    let v := ofBytes r.2.1
    let here := bits v 48 7
    let p := bits v 16 13
    if r.2.2.isSome || !bit v 15 || p = 0 || here = 0 then (r.1, none)
    else
      (r.1, some { job := bits v 0 12, p := p, first := bits v 32 12, here := min 64 here, next := bits v 64 12,
                   streams := (List.range (min 64 here)).map (fun i => bits v (256 + 16 * i) 16) })

/-- The ranks of a module's participants. -/
def Group.ranks (g : Group) : List Nat := (List.range g.here).map (fun i => (g.first + i) % g.p)
/-- The rank a stream has. -/
def Group.rankOf (g : Group) (n : Nat) : Option Nat := (g.streams.findIdx? (· == n)).map (fun i => (g.first + i) % g.p)
/-- R376: the next rank, and the one before. -/
def Group.after (g : Group) (r : Nat) : Nat := (r + 1) % g.p
def Group.before (g : Group) (r : Nat) : Nat := (r + g.p - 1) % g.p

/-! ### A participant's command (R374, R375) -/

/-- 0 REDUCE, 1 REDUCE_SCATTER, 2 ALLGATHER. -/
def collKind (w : Record64) : Nat := match Com.opcode w with | 0x52 => 0 | 0x54 => 1 | _ => 2

/-- Elements of the source; of a full chunk; of chunk c (DEDUCED, log 43). -/
def collN (x : Cmd) : Nat := volume (x.o 0).readShape
def chunkSize (x : Cmd) (p : Nat) : Nat :=
  match collKind x.w with | 0 => ceilDiv (collN x) p | 1 => collN x / p | _ => collN x
def chunkElems (x : Cmd) (p c : Nat) : Nat :=
  if collKind x.w = 0 then min (chunkSize x p) (collN x - c * chunkSize x p) else chunkSize x p

/-- R376: data travel in the destination's format. -/
def collFmt (x : Cmd) : Nat := (x.o 1).fmt

/-- R376: how many elements of a chunk travel as one unit, and its bytes: for a block-scaled destination 32, after the byte of their scale
(DESIGN CHOICE, log 79). -/
def travelUnit (x : Cmd) : Nat × Nat := if (x.o 1).scaled then (32, 1 + 4 * fmtBits (collFmt x)) else (1, fmtBits (collFmt x) / 8)

/-- R376: the bytes in which n elements of a chunk travel. -/
def travelBytes (x : Cmd) (n : Nat) : Nat := ceilDiv (n * fmtBits (collFmt x)) 8 + (if (x.o 1).scaled then ceilDiv n 32 else 0)
def chunkBytes (x : Cmd) (p c : Nat) : Nat := travelBytes x (chunkElems x p c)

/-- R375: the XFER word of a command's flits. -/
def collWord (x : Cmd) (p : Nat) : Nat :=
  (x.o 0).fmt + (Com.mode x.w 4 2 <<< 4) + (collKind x.w <<< 6) + ((ceilDiv (travelBytes x (chunkSize x p)) 128 % (1 <<< 24)) <<< 8)

/-- R373, R374: the status that keeps a collective from being executed. -/
def collCheck (s : Hw) (x : Cmd) : Nat :=
  match (s.groupRec (Com.param x.w 0)).2 with
  | none => St.param
  | some g =>
    let src := x.o 0
    let dst := x.o 1
    let d0 := src.readShape.headD 1
    let want := match collKind x.w with
      | 0 => some src.readShape
      | 1 => if d0 % g.p = 0 then some (d0 / g.p :: src.readShape.tail) else none
      | _ => some (d0 * g.p :: src.readShape.tail)
    if g.job ≠ s.jobOf x.n then St.job
    else if (g.rankOf x.n).isNone then St.param
    else if src.scaled || src.fmt = 5 || src.fmt = 10 || dst.fmt = 10 || (collKind x.w = 2 && (dst.fmt ≠ src.fmt || dst.scaled)) then St.format
    else if want ≠ some dst.writeShape then St.shape
    else St.ok

/-- Own contribution: element k of chunk c. -/
def ownValue (s : Hw) (x : Cmd) (p c k : Nat) : FVal := (x.o 0).readVal s (unlinear (x.o 0).readShape (c * chunkSize x p + k))

/-- R374: the destination's linear index of element k of chunk c. -/
def destIndex (x : Cmd) (p c k : Nat) : Nat := if collKind x.w = 1 then k else c * chunkSize x p + k

/-- R376: combines a partial and a contribution. -/
def combine (x : Cmd) (a b : FVal) : FVal :=
  match Com.mode x.w 4 2 with
  | 1 => a.max100 b
  | 2 => a.min100 b
  | _ => if fmtInt (x.o 0).fmt && !(x.o 1).scaled && a.finite && b.finite then lineAdd true a b else fadd a b

/-- R82, R95, R376: converts values of chunk c from element k on to the format they travel in: their bytes, and how many saturated. -/
def collCast (x : Cmd) (p c k : Nat) (vs : List FVal) : List Byte × Nat :=
  let f := collFmt x
  let rnd := fun (q : Nat) => x.wr.rnd f (destIndex x p c (k + q))
  let at_ := (List.range vs.length).zip vs
  if (x.o 1).scaled then
    (cut 32 at_).foldl (fun (r : List Byte × Nat) b =>
      let sc := blockScale (emaxOf f) (b.map (·.2))
      let l := b.map (fun q => if sc.1 = 255 then (0, false) else blockElem f (rnd q.1) sc.2 q.2)
      (r.1 ++ toBytes 1 sc.1 ++ packValues (fmtBits f) (l.map (·.1)), r.2 + (l.filter (·.2)).length)) ([], 0)
  else
    let l := at_.map (fun q => castElem f (rnd q.1) x.wr.sat q.2)
    (packValues (fmtBits f) (l.map (·.1)), (l.filter (·.2)).length)

/-- R376: n elements that travel in bytes: each one's pattern, and above it in [15:8] the code of its scale. -/
def collCodes (x : Cmd) (n : Nat) (bs : List Byte) : List Nat :=
  let w := fmtBits (collFmt x)
  if (x.o 1).scaled then
    (List.range n).map (fun i =>
      let b := bs.drop (i / 32 * (1 + 4 * w))
      unpackValue w (b.drop 1) (i % 32) + ((b.headD 0).toNat <<< 8))
  else (List.range n).map (unpackValue w bs)

/-- R80, R376: the value of an element that travels. -/
def collValue (x : Cmd) (c : Nat) : FVal :=
  if (x.o 1).scaled then scaledValue (collFmt x) (c % 256) (c / 256 % 256) else decodeElem (collFmt x) c

/-- R143, R517: a destination whose elements are written together as its command completes: block-scaled, or compressed-row. -/
def collHolds (x : Cmd) : Bool := (x.o 1).scaled || (x.o 1).crow

/-- Writes what travelled of chunk c, from element k on, into the destination, or holds it until all of it is there (R143, R517); dross with
it, as bit 31. -/
def Hw.collWrite (s : Hw) (x : Cmd) (p c k : Nat) (codes : List Nat) (dross : List Nat) : Hw :=
  let at_ := (List.range codes.length).zip codes |>.map (fun (q : Nat × Nat) => (destIndex x p c (k + q.1), q.2, dross.contains q.1))
  if collHolds x then
    s.modFlight x.n x.num (fun f => { f with waits := f.waits ++ at_.map (fun q => (1, q.1, BitVec.ofNat 32 (q.2.1 + (if q.2.2 then 1 <<< 31 else 0)))) })
  else s.writeRaw (x.o 1) (at_.map (fun q => (unlinear (x.o 1).writeShape q.1, q.2.1)))

/-- Adds to a participant's status, with the saturations counted (R102). -/
def Hw.collSat (s : Hw) (x : Cmd) (k : Nat) : Hw :=
  let r := s.countSat x.n k
  r.1.modFlight x.n x.num (fun f => { f with acc := joinStatus f.acc r.2 })

/-! ### Sending (R375, R376) -/

/-- Data for the next rank: flits to its module, or, on this module, what to deliver there. -/
def Hw.collSend (s : Hw) (x : Cmd) (g : Group) (k : Coll) (pieces : List Flit) : Hw × List (Nat × Flit) :=
  let r := g.after k.rank
  if g.ranks.contains r then (s, pieces.map (fun f => (r, f)))
  else (pieces.foldl (fun s f => s.sendFlit f (!Com.modeBit x.w 6)) s, [])

/-- A flit of a participant: chunk, offset, bytes, dross mask. -/
def Hw.collFlit (s : Hw) (x : Cmd) (g : Group) (k : Coll) (c off : Nat) (bs : List Byte) (len dross : Nat) (form : Bool) : Flit :=
  { Flit.idle with
    cls := 3, kind := 3, hops := 16, addr := k.group + ((k.inst % 256) <<< 12) + (c <<< 20) + (off <<< 32), stream := x.n, job := s.jobOf x.n, src := s.me,
    dst := g.next, xfer := k.word, off := off % 128, len := len, ew := s.elisionWidth (collFmt x), data := bs, dross := dross, drossForm := form }

/-- A chunk's bytes cut into flits: address and bytes of each; block-scaled ones hold whole units.  The fuel is their number. -/
def collCut (x : Cmd) (ew : Nat) (dross : Nat → Bool) : Nat → Nat → List Byte → List (Nat × List Byte)
  | 0, _, _ => []
  | n + 1, a, bs =>
    if !(x.o 1).scaled then cutRun ew dross (n + 1) a bs
    else if bs.isEmpty then []
    else
      let k := (1024 - a % 128) / (travelUnit x).2 * (travelUnit x).2
      (a, bs.take k) :: collCut x ew dross n (a + k) (bs.drop k)

/-- A whole chunk as flits. -/
def Hw.collChunk (s : Hw) (x : Cmd) (g : Group) (k : Coll) (c : Nat) (bs : List Byte) (dross : Nat → Bool) : List Flit :=
  (collCut x (s.elisionWidth (collFmt x)) dross bs.length 0 bs).map (fun q => s.collFlit x g k c q.1 q.2 q.2.length (drossMask dross q.1 q.2.length) false)

/-! ### Completion and failure (R374, R377) -/

/-- Whether a flit is one of a participant's. -/
def Coll.owns (k : Coll) (me : Nat) (f : Flit) : Bool :=
  f.kind == 3 && f.cls != 1 && f.src == me && f.stream == k.stream && f.xfer == k.word && bits f.addr 0 12 == k.group && bits f.addr 12 8 == k.inst % 256

/-- A flit of a participant is not acknowledged yet. -/
def Hw.collUnsent (s : Hw) (k : Coll) : Bool :=
  s.links.any (fun e => e.2.sched.any (k.owns s.me) || e.2.dyn.any (k.owns s.me) || e.2.replay.any (fun r => k.owns s.me r.flit)) ||
  s.lnk.noRoute.any (fun e => k.owns s.me e.1)

def Hw.dropColl (s : Hw) (k : Coll) : Hw :=
  { s with lnk := { s.lnk with colls := s.lnk.colls.filter (fun c => !(c.group == k.group && c.rank == k.rank && c.inst == k.inst)) } }

/-- A participant's command ends with a status. -/
def Hw.endColl (s : Hw) (k : Coll) (st : Nat) : Hw := (s.dropColl k).finishFlight k.stream k.num st

/-- R143, R304, R517: a participant's destination is written with what its command has held for it. -/
def Hw.collStore (s : Hw) (k : Coll) : Hw :=
  match (s.ctxOf k.stream).flight.find? (fun e => e.num == k.num) with
  | none => s
  | some fl =>
    let x := fl.toCmd k.stream (s.ctxOf k.stream)
    let dst := x.o 1
    let idx := fun (i : Nat) => unlinear dst.writeShape i
    let bad := (fl.waits.filter (fun e => bit e.2.2.toNat 31)).map (·.2.1)
    if !collHolds x || fl.waits.isEmpty then s
    else if dst.crow then
      let m := fl.waits.foldl (fun (m : Sparse Nat) e => Sparse.set m e.2.1 (bits e.2.2.toNat 0 16)) []
      let s1 := s.writePanels dst ((List.range (volume dst.writeShape)).map (fun i => Sparse.get 0 m i))
      let per := 64 * Desc.size dst.img 1
      (bad.map (· / per)).eraseDups.foldl (fun s p =>
        let base := dst.addr + Desc.crowDir dst.img + p * Desc.crowSlot dst.img
        s.passDross (atomsOf base (base + Desc.crowSlot dst.img - 1))) s1
    else
      let r := s.writeElems dst Writer.plain (fl.waits.map (fun e => (idx e.2.1, collValue x (bits e.2.2.toNat 0 16))))
      let s1 := r.1.collSat x r.2
      if bad.isEmpty then s1 else s1.passDross (bad.flatMap (fun i => dst.places (idx i)))

/-- R206: the halo ring of a participant's destination, after the last core write. -/
def Hw.collRing (s : Hw) (k : Coll) : Hw :=
  match (s.ctxOf k.stream).flight.find? (fun e => e.num == k.num) with
  | none => s
  | some fl => s.writeHalo ((fl.toCmd k.stream (s.ctxOf k.stream)).o 1)

/-- R374: participants whose destination is written and whose every flit is acknowledged complete. -/
def Hw.settleColls (s : Hw) : Hw :=
  (s.lnk.colls.filter (fun k => k.expect == 0 && !s.collUnsent k)).foldl (fun s k => ((s.collStore k).collRing k).endColl k 0) s

/-- Next instance of a rank on a group (R375). -/
def Hw.nextInst (s : Hw) (g r : Nat) : Nat := Sparse.get 0 s.lnk.instNo (g * 4096 + r)

/-- An instance number (modulo 256) that a rank has not issued yet. -/
def Hw.instAhead (s : Hw) (g r inst : Nat) : Bool := (inst % 256 + 256 - s.nextInst g r % 256) % 256 < 128

/-- R377: an abort of an instance reaches this module: its participants complete with SHAPE, those that have not issued it will;
the record goes on round the ring unless everyone here knew. -/
def Hw.abortRound (s : Hw) (gi inst : Nat) (own : Bool) : Hw :=
  match s.groupRec gi with
  | (s0, none) => s0
  | (s0, some g) =>
    let live := s0.lnk.colls.filter (fun k => k.group == gi && k.inst % 256 == inst % 256)
    let new := g.ranks.filter (fun r => s0.instAhead gi r inst && !s0.lnk.abortedColls.contains (gi, inst % 256, r))
    if !own && live.isEmpty && new.isEmpty then s0
    else
      let s1 := live.foldl (fun s k => s.endColl k St.shape) s0
      let s2 : Hw := { s1 with lnk := { s1.lnk with abortedColls := s1.lnk.abortedColls ++ new.map (fun r => (gi, inst % 256, r)) } }
      if g.next = s2.me then s2 else s2.routeRecord g.next (ctlRecord 0x09 g.next s2.me 16 (gi + ((inst % 256) <<< 16)))

/-! ### Arriving data (R376) -/

/-- What a flit carries in elements of chunk c: first element and number. -/
def flitElems (x : Cmd) (p c off len : Nat) : Nat × Nat :=
  let w := fmtBits (collFmt x)
  let u := travelUnit x
  if (x.o 1).scaled then
    let k := off / u.2 * 32
    (k, min (len / u.2 * 32 + (len % u.2 - 1) * 8 / w) (chunkElems x p c - k))
  else
    let k := off * 8 / w
    (k, min (len * 8 / w) (chunkElems x p c - k))

/-- The atom of a flit's data area in which element i that it carries lies. -/
def travelAtom (x : Cmd) (off i : Nat) : Nat :=
  let w := fmtBits (collFmt x)
  (off % 128 + (if (x.o 1).scaled then i / 32 * (travelUnit x).2 + 1 + i % 32 * w / 8 else i * w / 8)) / 128

/-- R304, R376: distribution: the chunk's data go into the destination unchanged, dross included. -/
def Hw.collPlace (s : Hw) (x : Cmd) (p c off : Nat) (f : Flit) : Hw :=
  let e := flitElems x p c off f.len
  let dst := x.o 1
  let hit := (List.range e.2).filter (fun i => f.drossForm || bit f.dross (travelAtom x off i))
  if collHolds x then s.collWrite x p c e.1 (if f.drossForm then List.replicate e.2 0 else collCodes x e.2 f.data) hit
  else
    let byteOf := fun (i : Nat) => dst.byteAt ((unlinear dst.writeShape (destIndex x p c (e.1 + i))).map Int.ofNat)
    let r := if f.drossForm then s else s.collWrite x p c e.1 (collCodes x e.2 f.data) []
    if hit.isEmpty then r
    else if f.drossForm then (sortedUnion (hit.map (fun i => byteOf i / 128 * 128))).foldl (fun s a => s.markDross a) r
    else r.passDross (hit.map byteOf)

/-- R376: reduction: the arriving partial first, the own contribution second. -/
def Hw.collReduce (s : Hw) (x : Cmd) (g : Group) (k : Coll) (c off : Nat) (f : Flit) : Hw × List (Nat × Flit) :=
  let e := flitElems x g.p c off f.len
  let vs := ((List.range e.2).zip (collCodes x e.2 f.data)).map (fun q => combine x (collValue x q.2) (ownValue s x g.p c (e.1 + q.1)))
  let q := collCast x g.p c e.1 vs
  let s1 := s.collSat x q.2
  let on := [s1.collFlit x g k c off q.1 q.1.length 0 false]
  if c = k.rank then
    let s2 := s1.collWrite x g.p c e.1 (collCodes x e.2 q.1) []
    if collKind x.w = 0 then s2.collSend x g k on else (s2, [])
  else s1.collSend x g k on

/-- R368, R376: the phase in which a flit of chunk c arrives at a participant: 0 reduction, 1 distribution; of a REDUCE, data of one
place in a chunk arrive twice where the ring passes both phases.  Once a link has failed, a flit with the bytes that the reduction took
counts as sent again. DEDUCED, log 44. -/
def collPhase (x : Cmd) (g : Group) (k : Coll) (c off : Nat) (bs : List Byte) : Nat :=
  match collKind x.w with
  | 2 => 1
  | 1 => 0
  | _ =>
    if c = k.rank then 0 else if c = g.before k.rank then 1
    else if k.got.any (fun e => e.1 == 0 && e.2.1 == c && e.2.2.1 == off) && !(k.failed && k.took.contains (c, off, bs)) then 1 else 0

/-- R377: a participant's command does not match what arrives: event 0x6030, status SHAPE, and the abort goes round the ring. -/
def Hw.collMismatch (s : Hw) (k : Coll) : Hw :=
  ((s.raise 0x6030 k.group k.inst { kind := 4 }).endColl k St.shape).abortRound k.group k.inst true

/-- R368, R377: a flit of an instance that its rank does not have under way: one that the rank has yet to issue waits for it; one of an
instance that has ended is discarded; any other does not match the command that the rank has under way. DEDUCED, log 95. -/
def Hw.collStray (s : Hw) (gi inst r : Nat) (f : Flit) : Hw :=
  if s.instAhead gi r inst then
    if s.lnk.abortedColls.contains (gi, inst, r) then s else { s with lnk := { s.lnk with early := s.lnk.early ++ [(r, f)] } }
  else if decide ((s.nextInst gi r + 256 - inst) % 256 ≤ s.nextInst gi r) then s
  else match s.lnk.colls.find? (fun k => k.group == gi && k.rank == r) with
    | some k => s.collMismatch k
    | none => s

/-- R376, R377: a flit for a rank of this module; what is to be delivered to further ranks here. -/
def Hw.collDeliver (s : Hw) (r : Nat) (f : Flit) : Hw × List (Nat × Flit) :=
  let gi := bits f.addr 0 12
  let inst := bits f.addr 12 8
  let c := bits f.addr 20 12
  let off := bits f.addr 32 32
  match s.lnk.colls.find? (fun k => k.group == gi && k.rank == r && k.inst % 256 == inst) with
  | none => (s.collStray gi inst r f, [])
  | some k =>
    match (s.ctxOf k.stream).flight.find? (fun e => e.num == k.num), (s.groupRec gi).2 with
    | some fl, some g =>
      let x := fl.toCmd k.stream (s.ctxOf k.stream)
      if f.xfer ≠ k.word then (s.collMismatch k, [])
      else
        let ph := collPhase x g k c off f.data
        if k.got.any (fun e => e.1 == ph && e.2.1 == c && e.2.2.1 == off) then (s, [])
        else if ph = 0 && (f.drossForm || f.dross ≠ 0) then
          let e := flitElems x g.p c off f.len
          ((s.dropColl k).consumeDross k.stream ((x.o 1).byteAt ((unlinear (x.o 1).writeShape (destIndex x g.p c e.1)).map Int.ofNat) / 128 * 128) 3 fl.tile, [])
        else
          let k' := { k with
            got := (ph, c, off, f.len) :: k.got, expect := k.expect - f.len,
            took := if ph = 0 && collKind x.w = 0 then (c, off, f.data) :: k.took else k.took }
          let s1 : Hw := { s with lnk := { s.lnk with colls := s.lnk.colls.map (fun z => if z.group == k.group && z.rank == k.rank && z.inst == k.inst then k' else z) } }
          if ph = 0 then s1.collReduce x g k' c off f
          else
            let s2 := s1.collPlace x g.p c off f
            if g.after r = c then (s2, []) else s2.collSend x g k' [s2.collFlit x g k' c off f.data f.len f.dross f.drossForm]
    | _, _ => (s.dropColl k, [])

/-- Deliveries on this module until none is left; the fuel bounds the hops. -/
def Hw.collRun : Nat → Hw → List (Nat × Flit) → Hw
  | 0, s, _ => s
  | n + 1, s, l =>
    match l with
    | [] => s
    | (r, f) :: rest => let d := s.collDeliver r f; Hw.collRun n d.1 (d.2 ++ rest)

/-- R376: deliveries: each passes at most the 64 participants of the module, in two phases. -/
def Hw.collDeliverAll (s : Hw) (l : List (Nat × Flit)) : Hw := (Hw.collRun (l.length * 130) s l).settleColls

/-! ### Issue (R374 to R376) -/

/-- R376: the bytes that arrive at a rank. -/
def collExpect (x : Cmd) (g : Group) (r : Nat) : Nat :=
  let others := (List.range g.p).filter (· != r)
  let sum := fun (l : List Nat) => l.foldl (fun a c => a + chunkBytes x g.p c) 0
  let red := sum ((List.range g.p).filter (· != g.before r))
  match collKind x.w with | 2 => sum others | 1 => if g.p = 1 then 0 else red | _ => if g.p = 1 then 0 else red + sum others

/-- R376: what a participant sends first. -/
def Hw.collFirst (s : Hw) (x : Cmd) (g : Group) (k : Coll) : Hw × List (Nat × Flit) :=
  if collKind x.w = 2 then
    let w := fmtBits (collFmt x)
    let src := x.o 0
    let idxs := (allIndices src.readShape).map (Desc.coreOf src.img)
    let bs := packValues w (idxs.map (src.raw s))
    let bad := sortedUnion (((List.range idxs.length).filter (fun i => src.dross s (nth [] idxs i))).map (fun i => i * w / 8 / 128))
    let fl := s.collChunk x g k k.rank bs bad.contains
    let s1 := fl.foldl (fun s f => s.collPlace x g.p k.rank (bits f.addr 32 32) f) s
    if g.p = 1 then (s1, []) else s1.collSend x g k fl
  else
    let c := g.before k.rank
    let vs := (List.range (chunkElems x g.p c)).map (ownValue s x g.p c)
    let q := collCast x g.p c 0 vs
    let s1 := s.collSat x q.2
    if g.p = 1 then (s1.collWrite x g.p c 0 (collCodes x vs.length q.1) [], [])
    else s1.collSend x g k (s1.collChunk x g k c q.1 (fun _ => false))

/-- R374 to R377: a participant issues. -/
def Hw.startColl (s : Hw) (x : Cmd) : Hw :=
  match (s.groupRec (Com.param x.w 0)).2 with
  | none => s.turned x St.param
  | some g =>
    let gi := Com.param x.w 0
    let r := (g.rankOf x.n).getD 0
    let inst := s.nextInst gi r
    let s1 : Hw := { s with lnk := { s.lnk with instNo := Sparse.set s.lnk.instNo (gi * 4096 + r) (inst + 1) } }
    if s1.lnk.abortedColls.contains (gi, inst % 256, r) then
      ({ s1 with lnk := { s1.lnk with abortedColls := s1.lnk.abortedColls.filter (· != (gi, inst % 256, r)) } } : Hw).turned x St.shape
    else
      let e := s1.consumeBy x.sourceSpans
      match (if collKind x.w = 2 then none else e.2) with
      | some a => e.1.consumeDross x.n a 3 x.t
      | none =>
        let k : Coll :=
          { group := gi, inst := inst, rank := r, stream := x.n, num := x.num, word := collWord x g.p, expect := collExpect x g r, beat := e.1.beatNo,
            warned := false, got := [], took := [], failed := false }
        let s2 := (e.1.touch x.t (x.o 1)).fly x .running .link
        let s3 : Hw := { s2 with lnk := { s2.lnk with colls := s2.lnk.colls ++ [k] } }
        let d := s3.collFirst x g k
        let mine := fun (z : Nat × Flit) => z.1 == r && bits z.2.addr 0 12 == gi && bits z.2.addr 12 8 == inst % 256
        let s4 : Hw := { d.1 with lnk := { d.1.lnk with early := d.1.lnk.early.filter (fun z => !mine z) } }
        s4.collDeliverAll (d.2 ++ d.1.lnk.early.filter mine)

/-- R373, R374: a collective command; a record that lies beyond mapped GDDR7 raises event 0x5051 (R520). -/
def Hw.collCommand (s : Hw) (t q op : Nat) : Hw :=
  s.issue t q (fun w => Com.opcode w == op) (fun s x st =>
    if st ≠ 0 then s.turned x st
    else
      let c := collCheck s x
      if c ≠ 0 then ((s.groupRec (Com.param x.w 0)).1).turned x c else s.startColl x)

def execReduce (tile : Fin 512) (queue : Fin 4) (s : State) : Host.Outcome State Fault Refusal :=
  s.onHw (fun h => h.collCommand tile.val queue.val 0x52)
def execAllgather (tile : Fin 512) (queue : Fin 4) (s : State) : Host.Outcome State Fault Refusal :=
  s.onHw (fun h => h.collCommand tile.val queue.val 0x53)
def execReduceScatter (tile : Fin 512) (queue : Fin 4) (s : State) : Host.Outcome State Fault Refusal :=
  s.onHw (fun h => h.collCommand tile.val queue.val 0x54)

/-- R376: collective data from the module before: for this module's first participant. -/
def Hw.arriveColl (s : Hw) (f : Flit) : Hw :=
  match s.groupRec (bits f.addr 0 12) with
  | (s0, none) => s0
  | (s0, some g) => s0.collDeliverAll [(g.first % g.p, f)]

def execCollectiveData (link : Fin 64) (job src : BitVec 12) (addr : BitVec 64) (xfer : BitVec 32) (data : List Byte) (dross : BitVec 17) (s : State) :
    Host.Outcome State Fault Refusal :=
  s.onHw (fun h => (h.takeFlit link.val 3).arriveColl { Flit.idle with
    cls := 3, kind := 3, addr := addr.toNat, job := job.toNat, src := src.toNat, dst := h.me, xfer := xfer.toNat, off := bits addr.toNat 32 7,
    len := data.length, data := data, dross := dross.toNat })

def execCollectiveAbort (link : Fin 64) (group inst : BitVec 12) (s : State) : Host.Outcome State Fault Refusal :=
  s.onHw (fun h => (h.takeRecord link.val 0x09).abortRound group.toNat inst.toNat false)

/-- R377: a collective incomplete for `LNK.COLL_LIMIT` beats raises event 0x6031 once. -/
def Hw.collTimeout (s : Hw) (g n : Nat) : Hw :=
  let limit := s.fget F.LNK_COLL_LIMIT_BEATS
  let late := fun (k : Coll) => k.group == g && k.stream == n && !k.warned && limit != 0 && decide (k.beat + limit ≤ s.beatNo)
  if s.lnk.colls.any late then
    ({ s with lnk := { s.lnk with colls := s.lnk.colls.map (fun k => if late k then { k with warned := true } else k) } } : Hw).raise
      0x6031 g n { kind := 4, job := some (s.jobOf n), stream := some n }
  else s

def execCollectiveTimeout (group : BitVec 12) (stream : BitVec 16) (s : State) : Host.Outcome State Fault Refusal :=
  s.onHw (fun h => h.collTimeout group.toNat stream.toNat)

/-! ### Refusals (R361, R366, R519) -/

/-- R361, R519: a refusal comes back: the transfer's command completes with RANGE, or a collective's, or a latch message is
reported. -/
def Hw.refused (s : Hw) (xfer : Nat) : Hw :=
  match Sparse.find? s.lnk.xfers xfer with
  | some x => ({ s with lnk := { s.lnk with xfers := Sparse.erase s.lnk.xfers xfer } } : Hw).finishFlight x.stream x.num St.range
  | none =>
    match s.latchRefused xfer with
    | some t => t
    | none =>
      match s.lnk.colls.find? (fun k => k.word == xfer) with
      | some k => s.endColl k St.range
      | none => s

def execRefusal (link : Fin 64) (xfer : BitVec 32) (reason : BitVec 8) (s : State) : Host.Outcome State Fault Refusal :=
  let _ := reason
  s.onHw (fun h => (h.takeRecord link.val 0x07).refused xfer.toNat)

/-- Sends a refusal to the origin of a flit, or takes it here where this module is the origin. -/
def Hw.refuseTo (s : Hw) (src xfer reason : Nat) : Hw :=
  if src = s.me then s.refused xfer else s.routeRecord src (ctlRecord 0x07 src s.me 16 (refusalBody xfer reason))

/-- R519: the XFER of a refusal of a latch record. -/
def latchXfer (r : BitVec 128) : Nat := bits r.toNat 80 16 + (if bits r.toNat 0 8 = 3 then 1 <<< 31 else 0)

/-- The stream of a latch record that is this module's own; a record carries no stream, so another module's reads 0 (DESIGN CHOICE, log 65). -/
def Hw.latchStream (s : Hw) (r : BitVec 128) : Nat :=
  let tag := bits r.toNat 80 16
  if bits r.toNat 24 12 ≠ s.me then 0
  else if bits r.toNat 0 8 = 3 then ((s.latches.waits.find? (fun w => w.tag == tag)).map (·.stream)).getD 0
  else if bits r.toNat 0 8 = 2 then ((Sparse.find? s.latches.handles tag).map (·.1)).getD 0
  else 0

/-- R366: a flit or record that has waited `LNK.UNREACH_LIMIT` beats for a route is refused. -/
def Hw.unreachable (s : Hw) (i : Nat) : Hw :=
  let limit := s.fget F.LNK_COLL_LIMIT_UNREACH_LIMIT
  match s.lnk.noRoute[i]? with
  | some (f, b, _) =>
    if s.beatNo < b + limit then s
    else
      let s1 : Hw := { s with lnk := { s.lnk with noRoute := s.lnk.noRoute.eraseIdx i } }
      let s2 := (s1.bump F.LNK_UNREACH_COUNT).raise 0x6040 f.dst f.stream { kind := 4 }
      if f.cls = 1 then s2 else s2.refuseTo f.src f.xfer 2
  | none =>
    let j := i - s.lnk.noRoute.length
    match s.lnk.noRouteRec[j]? with
    | some (r, dst, b, _) =>
      if s.beatNo < b + limit then s
      else
        let s1 : Hw := { s with lnk := { s.lnk with noRouteRec := s.lnk.noRouteRec.eraseIdx j } }
        let s2 := (s1.bump F.LNK_UNREACH_COUNT).raise 0x6040 dst (s.latchStream r) { kind := 4 }
        if bits r.toNat 0 8 = 2 || bits r.toNat 0 8 = 3 then s2.refuseTo (bits r.toNat 24 12) (latchXfer r) 2 else s2
    | none => s

def execUnreachableRefuse (index : BitVec 16) (s : State) : Host.Outcome State Fault Refusal := s.onHw (fun h => h.unreachable index.toNat)

end Sys2Proof.Machine
end

