-- ==== Sys2Proof/Machine/Links.lean ====
section
/-!
DEFINITION. The links themselves (R356 to R368, R380 to R386): sending and receiving flits, replay and dross form, lanes, training,
admission and rerouting.
-/
namespace Sys2Proof.Machine

/-- LSTATE.STATE: 0 DOWN, 1 TRAINING, 2 ADMITTED, 3 DRAINING. -/
def Hw.lstate (s : Hw) (l : Nat) : Nat := s.fget F.LNK_LSTATE_STATE l

def linkWho (l : Nat) : Who := { kind := 3, unit := l }

/-- R361: the identity record: module, beat group, buffer size, ADMIT; an empty one before the cast of an image has given the identifier (R466). -/
def Hw.identityRec (s : Hw) (up : Bool) : BitVec 128 :=
  if !s.boot.imageValid then 0
  else ctlRecord 0x08 0xFFF s.me 16 (s.me + (s.fget F.BEAT_GROUP_GROUP_ID <<< 16) + ((Config.dynBuffer % 65536) <<< 32) + ((if up then 1 else 0) <<< 48))

/-! ### Leaving the admitted state (R368, R383) -/

/-- A record that is for the neighbour alone: a marker, an abort, or one addressed to 0xFFF. -/
def recordLocal (r : BitVec 128) : Bool := bits r.toNat 0 8 == 1 || bits r.toNat 0 8 == 5 || bits r.toNat 8 12 == 0xFFF

/-- R392: a twin message for the neighbour that any twin link may carry: attach, detach and re-seed records. -/
def recordTwin (r : BitVec 128) : Bool := bits r.toNat 8 12 == 0xFFF && (bits r.toNat 0 8 == 0x0B || bits r.toNat 0 8 == 0x0E)

/-- R400: a flit of a re-seed, which only twin links carry (R390). -/
def Flit.seeds (f : Flit) : Bool := f.cls == 3 && f.kind == 0 && bit f.xfer 31

/-- R400: the flits of one 2 KiB range all use one twin link. -/
def Hw.seedLink (s : Hw) (a : Nat) : Option Nat := s.twinLinks[(a / 2048) % s.twinLinks.length]?

/-- R366, R390, R392: a flit goes over its route, what the twin alone is sent over twin links; where none is counted, it waits for the link it
was to leave by. -/
def Hw.resendFlit (s : Hw) (l : Nat) (f : Flit) : Hw :=
  let twin := f.cls == 1 && f.dst == 0xFFF
  if !twin && !f.seeds then s.sendFlit f false
  else match (if twin then s.twinLinks.head? else s.seedLink (bits f.addr 0 40)) with
    | some k => s.modLink k (fun x => if twin then { x with long := x.long ++ [f] } else { x with dyn := x.dyn ++ [f] })
    | none => { s with lnk := { s.lnk with noRoute := s.lnk.noRoute ++ [(f, s.beatNo, some l)] } }

/-- `Hw.resendFlit` for a record. -/
def Hw.resendRecord (s : Hw) (l : Nat) (r : BitVec 128) : Hw :=
  if !recordTwin r then s.routeRecord (bits r.toNat 8 12) r
  else match s.twinLinks.head? with
    | some k => s.sendRecord k r
    | none => { s with lnk := { s.lnk with noRouteRec := s.lnk.noRouteRec ++ [(r, 0xFFF, s.beatNo, some l)] } }

/-- R368: what a link's replay buffer holds goes over other links, as dynamic class; with `LNK.CTL.REROUTE` = 0 it waits for this link.  What
the link had still to send is routed like any other traffic (R366). -/
def Hw.rerouteLink (s : Hw) (l : Nat) (replay : List Replay) (recs : List (BitVec 128)) (flits : List Flit) : Hw :=
  let far := fun (r : BitVec 128) => recordTwin r || !recordLocal r
  let sent := (replay.map (·.flit)).filter (fun f => f.cls != 0)
  let told := (replay.flatMap (·.records)).filter far
  let send := fun (s : Hw) (fl : List Flit) (rs : List (BitVec 128)) =>
    rs.foldl (fun s r => s.resendRecord l r) (fl.foldl (fun s f => s.resendFlit l f) s)
  if s.flag F.LNK_CTL_REROUTE then (send s (sent ++ flits) (told ++ recs.filter far)).bump F.LNK_REROUTED_COUNT l replay.length
  else
    let s1 : Hw := { s with lnk := { s.lnk with
      noRoute := s.lnk.noRoute ++ sent.map (fun f => ((if f.cls = 2 then { f with cls := 3 } else f), s.beatNo, some l)),
      noRouteRec := s.lnk.noRouteRec ++ told.map (fun r => (r, bits r.toNat 8 12, s.beatNo, some l)) } }
    send s1 flits (recs.filter far)

/-- A record without its hops left. -/
def noHops (r : BitVec 128) : BitVec 128 := BitVec.ofNat 128 (setBits r.toNat 40 8 0)

/-- A long message without its hops left. -/
def Flit.noHops (f : Flit) : Flit := { f with hops := 0, addr := setBits f.addr 24 5 0 }

/-- R368: what the partner of a link that fails may send again: the records and long messages taken in from it, which come without their
hops; the participants of collectives note it. -/
def Hw.doubtLink (s : Hw) (l : Nat) : Hw :=
  let had := (s.getLink l).taken
  { s with lnk := { s.lnk with
    doubt := s.lnk.doubt ++ ((had.flatMap (·.2.1)).filter (fun r => recordTwin r || !recordLocal r)).map (fun r => (Sys2Proof.Machine.noHops r, s.beatNo)),
    doubtLong := s.lnk.doubtLong ++ (had.filterMap (·.2.2)).map (fun f => (f.noHops, s.beatNo)),
    colls := s.lnk.colls.map (fun k => { k with failed := true }) } }

/-- A link's queues and its replay buffer are emptied, its protocol state starts afresh, and its traffic is rerouted. -/
def Hw.linkStop (s : Hw) (l : Nat) (st : Nat) : Hw :=
  let x := s.getLink l
  let y := { x with
    trained := false, txSeq := 0, rxSeq := 0, replay := [], credits := 0, freed := 0, partnerHold := false, nack := false,
    records := [], long := [], sched := [], dyn := [], identity := none, peerReady := false, replaysWindow := 0, replayBeats := [],
    bad0 := 0, bad1 := 0, taken := [] }
  (((s.doubtLink l).setLink l y).fset F.LNK_LSTATE_STATE st l).rerouteLink l x.replay x.records (x.long ++ x.sched ++ x.dyn)

/-- R449: a link that trains takes the bit of `TWIN.LINKS` that a re-cast left for it. -/
def Hw.takeTwinBit (s : Hw) (l : Nat) : Hw :=
  match (s.getLink l).newTwin with
  | none => s
  | some b =>
    (s.wr64 .TWIN_LINKS_LO .TWIN_LINKS_HI (setBits (s.rd64 .TWIN_LINKS_LO .TWIN_LINKS_HI) l 1 (one b))).modLink l (fun x => { x with newTwin := none })

/-- R383: a link leaves the admitted state with a cause and trains again. -/
def Hw.linkFail (s : Hw) (l cause : Nat) : Hw :=
  if s.lstate l = 2 then (((s.linkStop l 1).takeTwinBit l).bump F.LNK_RETRAINS_COUNT l).raise 0x6002 l cause (linkWho l)
  else if s.lstate l = 3 then s.linkStop l 0
  else s

/-! ### Replay and dross form (R380, R381) -/

/-- R380, R381: the first flit that no ACK covers has failed: it and those after it are to be resent.  At its 9th failure, that of its
8th resend, it takes dross form; when that has failed 8 times the link fails. -/
def Hw.failReplay (s : Hw) (l : Nat) : Hw :=
  let x := s.getLink l
  match x.replay with
  | [] => s
  | e :: rest =>
    if e.resend then s
    else
      let k := e.fails + 1
      let e' := { e with fails := k, resend := true, flit := if k = 9 then { e.flit with drossForm := true } else e.flit }
      let s1 := s.setLink l { x with replay := e' :: rest.map (fun r => { r with resend := true }) }
      let s2 := if k = 9 then (s1.bump F.LNK_DROSS_FORM_COUNT l).raise 0x6010 l e.seq (linkWho l) else s1
      if 17 ≤ k then s2.linkFail l 2 else s2

def execReplayTimeout (link : Fin 64) (s : State) : Host.Outcome State Fault Refusal := s.onHw (fun h => h.failReplay link.val)

/-! ### Sending (R360, R363 to R365) -/

/-- R363: a marker carries how many cycles after its edge the flit starts, also where the flit is resent; after the beat it marks, those of the
beats between count whole, without trim (DEDUCED, log 94). -/
def Hw.stampRecord (s : Hw) (r : BitVec 128) : BitVec 128 :=
  if bits r.toNat 0 8 = 1 then
    BitVec.ofNat 128 (setBits r.toNat 48 16 (min ((s.beatNo - bits r.toNat 64 64) * s.beatLen + s.beat.cycle) 65535))
  else r

/-- R46: the stream whose slot the cycle lies in on a link, if one's does; FULL service alone has slots (R54), towards a module of the same
beat group (R71). -/
def Hw.slotStream (s : Hw) (l : Nat) : Option Nat :=
  if s.level ≠ 2 || !s.running || !s.groupShared l then none
  else
    ((List.range 16).find? (fun k =>
      let v := s.beat.cur.slot l k
      v.2.2 != 0 && decide (v.2.1 * 64 ≤ s.beat.cycle) && decide (s.beat.cycle < (v.2.1 + v.2.2) * 64) && decide ((s.beat.cycle : Int) < s.windowEnd))).map
      (fun k => (s.beat.cur.slot l k).1)

/-- What a link chooses for a flit time (R360). -/
inductive Choice where
  | resend (i : Nat)
  | long
  | sched (i : Nat)
  | dyn
  | idle
  deriving DecidableEq, Repr

def Hw.choose (s : Hw) (l : Nat) : Choice :=
  let x := s.getLink l
  let slot := (s.slotStream l).bind (fun n => x.sched.findIdx? (fun f => f.stream == n))
  match x.replay.findIdx? (fun r => r.resend) with
  | some i => .resend i
  | none =>
    if s.lstate l ≠ 2 || 256 ≤ x.replay.length then .idle
    else if !x.long.isEmpty then .long
    else match slot with
      | some i => if x.partnerHold then (if !x.dyn.isEmpty && 0 < x.credits then .dyn else .idle) else .sched i
      | none => if !x.dyn.isEmpty && 0 < x.credits then .dyn else .idle

/-- R506: an injection of KIND 4 takes the first data flit sent after GO, and makes each of its transmissions uncorrectable. -/
def Hw.hitWire (s : Hw) (l seq : Nat) (data : Bool) : Hw × Bool :=
  match s.test.inj with
  | some j =>
    if j.kind == 4 && j.idx == l && j.left != 0 && ((j.seq == none && data) || j.seq == some seq) then
      ({ s with test := { s.test with inj := some { j with left := j.left - 1, seq := some seq } } }, true)
    else (s, false)
  | none => (s, false)

/-- R364: whether HOLD alone keeps a link from sending scheduled data in this flit time. -/
def Hw.slotLost (s : Hw) (l : Nat) : Bool :=
  match s.choose l with
  | .dyn | .idle => s.lstate l == 2 && (s.getLink l).replay.length < 256 && (s.getLink l).partnerHold &&
      ((s.slotStream l).bind (fun n => (s.getLink l).sched.findIdx? (fun f => f.stream == n))).isSome
  | _ => false

/-- R71, R364: a link gets the scheduled data that its flit time may carry: outside its slots' beat group all of it travels as dynamic class; in a
slot of a stream it sends that stream's data whose route leads over it, also what waits at a link that has no slot for the stream. -/
def Hw.readySched (s : Hw) (l : Nat) : Hw :=
  let x := s.getLink l
  if !s.groupShared l || s.level ≠ 2 then
    if x.sched.isEmpty then s else s.setLink l { x with sched := [], dyn := x.dyn ++ x.sched.map (fun f => { f with cls := 3 }) }
  else
    match s.slotStream l with
    | none => s
    | some n =>
      if x.sched.any (fun f => f.stream == n) then s
      else
        let idle := fun (k : Nat) => k != l && (List.range 16).all (fun i => (s.beat.cur.slot k i).2.2 == 0 || (s.beat.cur.slot k i).1 != n)
        match List.find? (fun (e : Nat × Link) => idle e.1 && e.2.sched.any (fun f => f.stream == n && (s.routeLinks f.dst).contains l)) s.links with
        | none => s
        | some (k, y) =>
          match y.sched.findIdx? (fun f => f.stream == n && (s.routeLinks f.dst).contains l) with
          | none => s
          | some i => (s.setLink k { y with sched := y.sched.eraseIdx i }).setLink l { x with sched := x.sched ++ (y.sched[i]?).toList }

/-- Puts a flit on the wire with what the sender says of itself; the credits freed are returned with it. -/
def Hw.putWire (s : Hw) (l seq : Nat) (f : Flit) (recs : List (BitVec 128)) : Hw :=
  let x := s.getLink l
  let own : LinkSays :=
    { seq := seq, ack := x.rxSeq, nready := s.lstate l != 2 && s.lstate l != 3, nack := x.nack, hold := x.hold, credits := x.freed % 65536 }
  let h := s.hitWire l seq (2 ≤ f.cls)
  let h1 := if f.cls = 0 then h.1 else (h.1.bump F.LNK_TX_FLITS_COUNT l).pcEvent 11 0 0 1
  h1.setLink l { h1.getLink l with freed := 0, wire := f.bytes own recs, wireBad := h.2 }

/-- R360, R380, R381: a new flit: its number, its place in the replay buffer, its elided atoms counted; one that came in dross form, or took it
on a link that failed, goes in dross form. -/
def Hw.putNew (s : Hw) (l : Nat) (f : Flit) : Hw :=
  let x := s.getLink l
  let seq := (x.txSeq + 1) % 65536
  let recs := (x.records.take 5).map s.stampRecord
  let s0 := if 2 ≤ f.cls then s.opportunity 4 l 0 f.stream else s
  let s1 := (if f.drossForm then (s0.bump F.LNK_DROSS_FORM_COUNT l).raise 0x6010 l seq (linkWho l) else s0).setLink l { x with
    txSeq := seq, records := x.records.drop 5, replay := x.replay ++ [{ seq := seq, fails := 0, resend := false, flit := f, records := recs, ack := x.rxSeq }] }
  (s1.putWire l seq f recs).bump F.LNK_ELIDED_COUNT l (if 2 ≤ f.cls && f.hasAtoms && !f.drossForm then popCount 16 f.elide else 0)

/-- R400: a write flit of a re-seed, for n bytes at an address. -/
def Hw.seedFlit (s : Hw) (a n : Nat) (mirror : Bool) : Flit :=
  { Flit.idle with
    cls := 3, kind := 0, hops := 16, addr := (s.twinId <<< 52) + a / 128 * 128, src := s.me, dst := s.twinId,
    xfer := (1 <<< 31) + (if mirror then 1 <<< 30 else 0) + s.lnk.nextXfer % (1 <<< 30), off := a % 128, len := n, data := s.peekRun a n,
    dross := drossMask (fun k => s.drossAt (k * 128)) a n }

/-- R400: the address of a position of a manifest, and the bytes left of its range. -/
def manifestAt : List (Nat × Nat) → Nat → Option (Nat × Nat)
  | [], _ => none
  | (b, n) :: l, q => if q < n then some (b + q, n - q) else manifestAt l (q - n)

/-- R400: a donor's twin link with nothing dynamic to send takes the next flit of the re-seed that is its own: mirrored ones first. -/
def Hw.seedRefill (s : Hw) (l : Nat) : Hw :=
  let x := s.getLink l
  if s.fget F.TWIN_STATUS_STATE ≠ 5 || !x.dyn.isEmpty || !s.twinLinks.contains l then s
  else
    let push := fun (s : Hw) (f : Flit) =>
      ({ s with lnk := { s.lnk with nextXfer := s.lnk.nextXfer + 1 } } : Hw).modLink l (fun y => { y with dyn := y.dyn ++ [f] })
    match s.twin.mirror.find? (fun a => s.seedLink a == some l) with
    | some a =>
      let s1 := (push s (s.seedFlit a 128 true)).bump F.TWIN_MIRRORED_COUNT
      { s1 with twin := { s1.twin with mirror := s1.twin.mirror.filter (· != a) } }
    | none =>
      match manifestAt s.twin.manifest s.twin.copied with
      | some (a, rest) =>
        if s.seedLink a ≠ some l then s
        else
          let n := min rest (1024 - a % 1024)
          let s1 := (s.consume [(a, a + n - 1)]).1
          let s2 := push s1 (s1.seedFlit a n false)
          ({ s2 with twin := { s2.twin with copied := s2.twin.copied + n } } : Hw).wr64 .TWIN_SEED_POS_LO .TWIN_SEED_POS_HI (s2.twin.copied + n)
      | none => s

/-- R383: the replays of the last 1,024 beats. -/
def Hw.ageReplays (s : Hw) (l : Nat) : Hw :=
  let x := s.getLink l
  let kept := x.replayBeats.filter (fun e => decide (s.beatNo < e.1 + 1024))
  if kept.length = x.replayBeats.length then s
  else s.setLink l { x with replayBeats := kept, replaysWindow := kept.foldl (fun a e => a + e.2) 0 }

/-- R383: one replay more in this beat. -/
def countReplay (beat : Nat) : List (Nat × Nat) → List (Nat × Nat)
  | [] => [(beat, 1)]
  | [e] => if e.1 = beat then [(beat, e.2 + 1)] else [e, (beat, 1)]
  | e :: l => e :: countReplay beat l

/-- R360: one flit time of a link whose PHY is trained. -/
def Hw.flitTime (s0 : Hw) (l : Nat) : Hw :=
  if !(s0.getLink l).trained then s0
  else
  let s := ((s0.ageReplays l).seedRefill l).readySched l
  let x := s.getLink l
  if s.lstate l ≠ 2 && s.lstate l ≠ 3 then s.putWire l x.txSeq Flit.idle [s.identityRec false]
  else
    let s1 := if s.slotLost l then s.bump F.LNK_SCHED_HOLD_COUNT l else s
    match s1.choose l with
    | .resend i =>
      match x.replay[i]? with
      | some e =>
        -- R363, R391: the records of the edge ride in the first flit after it, also in one that is resent, where a record's place is free
        let mark := (x.records.takeWhile edgeRecord).take (5 - e.records.length)
        let recs := (mark ++ e.records).map s1.stampRecord
        let s2 := s1.setLink l { x with
          records := x.records.drop mark.length,
          replay := setNth { e with resend := false, records := recs, ack := x.rxSeq } x.replay i,
          replaysWindow := x.replaysWindow + 1, replayBeats := countReplay s1.beatNo x.replayBeats }
        (s2.putWire l e.seq e.flit recs).bump F.LNK_REPLAYS_COUNT l
      | none => s1
    | .long =>
      match x.long with
      | f :: rest => (s1.setLink l { x with long := rest }).putNew l f
      | [] => s1
    | .sched i =>
      match x.sched[i]? with
      | some f => (s1.setLink l { x with sched := x.sched.eraseIdx i }).putNew l f
      | none => s1
    | .dyn =>
      match x.dyn with
      | f :: rest => (s1.setLink l { x with dyn := rest, credits := x.credits - 1 }).putNew l f
      | [] => s1
    | .idle =>
      let recs := (x.records.take 5).map s1.stampRecord
      (s1.setLink l { x with records := x.records.drop 5 }).putWire l x.txSeq Flit.idle recs

def execFlitTime (link : Fin 64) (s : State) : Host.Outcome State Fault Refusal := s.onHw (fun h => h.flitTime link.val)

/-! ### Receiving (R364 to R368, R380, R381, R386) -/

/-- R381: the header of a flit as the receiver obtains it: its bytes as a number; none where it cannot be used. -/
def headerOf (b : List Byte) (bad0 bad1 : Bool) : Option Nat :=
  let at_ := fun (o : Nat) => (b.drop o).take 48
  let form := fun (w : Nat) => bit w 36
  let h0 := ofBytes (at_ 0)
  let copies1 := (List.range 13).map (fun i => at_ (640 + 48 * i))
  if !bad0 then (if !bad1 || form h0 then some h0 else none)
  else if !bad1 then
    let h1 := at_ 640
    if form (ofBytes h1) && copies1.all (· == h1) then some (ofBytes h1) else none
  else
    let copies := (List.range 10).map (fun i => at_ (128 + 48 * i)) ++ copies1
    let vote := (List.range 48).map (fun k =>
      let vs := copies.map (fun c => nth 0 c k)
      vs.find? (fun v => decide (12 ≤ (vs.filter (· == v)).length)))
    if vote.all (·.isSome) then
      let h := ofBytes (vote.map (·.getD 0))
      if form h then some h else none
    else none

/-- R367: a flit or record with no hops left is refused: event 0x6042, the count, and a refusal to its origin. -/
def Hw.hopLimit (s : Hw) (src dst : Nat) (xfer : Option Nat) : Hw :=
  let s1 := (s.bump F.LNK_UNREACH_COUNT).raise 0x6042 src dst { kind := 4 }
  match xfer with
  | some x => s1.refuseTo src x 3
  | none => s1

/-- R368: a record that has been taken in already, over a link that has failed since: its like comes again within the beats that it may wait for
a route. DEDUCED, log 94. -/
def Hw.doubted (s : Hw) (r : BitVec 128) : Bool :=
  (recordTwin r || !recordLocal r) && s.lnk.doubt.any (fun e => e.1 == noHops r && decide (s.beatNo ≤ e.2 + s.fget F.LNK_COLL_LIMIT_UNREACH_LIMIT))

/-- `Hw.doubted` for a long message. -/
def Hw.doubtedLong (s : Hw) (f : Flit) : Bool :=
  s.lnk.doubtLong.any (fun e => e.1 == f.noHops && decide (s.beatNo ≤ e.2 + s.fget F.LNK_COLL_LIMIT_UNREACH_LIMIT))

/-- R361, R367: a record received: for this module it waits to be applied; else it goes on; one already applied is discarded (R368).  One of a
reserved type (R361, R392) is dropped (DESIGN CHOICE, log 97). -/
def Hw.takeInRecord (s : Hw) (l : Nat) (r : BitVec 128) : Hw :=
  let v := r.toNat
  let t := bits v 0 8
  if t = 0 || 0x0F ≤ t then s
  else if s.doubted r then { s with lnk := { s.lnk with doubt := s.lnk.doubt.eraseP (fun e => e.1 == noHops r) } }
  else if recordLocal r || bits v 8 12 = s.me then
    let x := s.getLink l
    s.setLink l { x with rxRecords := x.rxRecords ++ [r] }
  else if bits v 40 8 = 0 then s.hopLimit (bits v 24 12) (bits v 8 12) (if t = 2 || t = 3 then some (latchXfer r) else none)
  else s.routeRecord (bits v 8 12) (BitVec.ofNat 128 (setBits v 40 8 (bits v 40 8 - 1)))

/-- R364, R367, R381: a flit accepted: for this module into its receive buffer, or, in dross form, its atoms marked at once; else it
goes on as dynamic class.  A long message has no atoms: in dross form it is lost; one of a reserved kind (R362, R392) is dropped (DESIGN
CHOICE, log 97). -/
def Hw.takeInFlit (s0 : Hw) (l : Nat) (f : Flit) : Hw :=
  let s := if f.drossForm then (s0.bump F.LNK_DROSS_FORM_COUNT l).raise 0x6011 l f.addr (linkWho l) else s0
  let free := fun (s : Hw) => if f.cls = 3 then s.setLink l { s.getLink l with freed := (s.getLink l).freed + 1 } else s
  let here := f.dst == s.me || (f.cls == 1 && f.dst == 0xFFF)
  if f.cls = 1 && (f.drossForm || f.kind < 0x10 || 0x14 ≤ f.kind) then s
  else if f.cls = 1 && s.doubtedLong f then { s with lnk := { s.lnk with doubtLong := s.lnk.doubtLong.eraseP (fun e => e.1 == f.noHops) } }
  else if !here then
    if f.hops = 0 then free (s.hopLimit f.src f.dst (if f.cls = 1 then none else some f.xfer))
    else
      let g := { f with hops := f.hops - 1, addr := if f.cls = 1 then setBits f.addr 24 5 (f.hops - 1) else f.addr, cls := if f.cls = 1 then 1 else 3 }
      free (s.sendFlit g false)
  else if f.drossForm && f.kind ≠ 1 && f.cls ≠ 1 then
    let s1 := free s
    match f.kind with
    | 2 => s1.arriveResponse f.xfer (f.addr + f.off) f.len none f.dross
    | 3 => s1.arriveColl f
    | 4 => s1.arriveCrow f.src f.job f.xfer (f.addr + f.off) f.len none f.dross
    | _ => s1.arriveWrite f.src f.job f.xfer (f.addr + f.off) f.len none f.dross
  else
    let x := s.getLink l
    match f.cls with
    | 1 => s.setLink l { x with rxLong := x.rxLong ++ [f] }
    | 2 => s.setLink l { x with rxSched := x.rxSched ++ [f], hold := x.hold || decide (48 ≤ x.rxSched.length + 1) }
    | _ => s.setLink l { x with rxDyn := x.rxDyn ++ [f] }

/-- Whether sequence number a is covered by b (both wrap at 16 bits). -/
def seqCovers (b a : Nat) : Bool := (b + 65536 - a) % 65536 < 32768

/-- R364, R365, R380: what a good flit's header says of the sender. -/
def Hw.takeInHeader (s : Hw) (l w : Nat) : Hw :=
  let x := s.getLink l
  -- what the flits that the partner acknowledges told it of this side's own ACK
  let known := (x.replay.filter (fun r => seqCovers (bits w 16 16) r.seq)).map (·.ack)
  let y := { x with
    taken := x.taken.filter (fun e => !known.any (fun a => seqCovers a e.1)),
    replay := x.replay.filter (fun r => !seqCovers (bits w 16 16) r.seq), partnerHold := bit w 37, credits := x.credits + bits w 176 16 }
  let s1 := (s.setLink l y).settleColls
  if bit w 35 then s1.failReplay l else s1

/-- R363, R368, R391: a flit that has been accepted already comes again: only a beat marker that it did not carry before, and a hello, count. -/
def Hw.takeInAgain (s : Hw) (l : Nat) (recs : List (BitVec 128)) : Hw :=
  let had := fun (r : BitVec 128) => bits r.toNat 0 8 == 1 && (s.beat.marker.any (fun m => m.1 == bits r.toNat 64 64) ||
    (s.getLink l).rxRecords.any (fun q => bits q.toNat 0 8 == 1 && bits q.toNat 64 64 == bits r.toNat 64 64))
  (recs.filter (fun r => edgeRecord r && !had r)).foldl (fun s r => s.takeInRecord l r) s

/-- R380, R381, R386: a flit arrives.  While a sequenced flit is missing every later one is discarded, an idle one too, whose SEQ tells that
one is; what a header says of the sender counts all the same (DEDUCED, log 94). -/
def Hw.flitReceived (s : Hw) (l : Nat) (flit : BitVec 10240) (bad0 bad1 : Bool) (corrected : Nat) : Hw :=
  let x := s.getLink l
  if !x.trained then s
  else
    let s1 := (s.bump F.LNK_FEC_CORR_COUNT l corrected).bump F.LNK_FEC_UNCORR_COUNT l ((if bad0 then 1 else 0) + (if bad1 then 1 else 0))
    let s2 := s1.setLink l { x with bad0 := if bad0 then x.bad0 + 1 else 0, bad1 := if bad1 then x.bad1 + 1 else 0 }
    let b := toBytes 1280 flit.toNat
    let up := s.lstate l = 2 || s.lstate l = 3
    let missing := fun (s : Hw) => if up then s.setLink l { s.getLink l with nack := true } else s
    match headerOf b bad0 bad1 with
    | none => missing s2
    | some w =>
      if !headerZero w then missing s2
      else
        let recs := if bad0 then [] else (List.range 5).map (fun i => BitVec.ofNat 128 (ofBytes ((b.drop (48 + 16 * i)).take 16)))
        let s3 := s2.setLink l { s2.getLink l with peerReady := (s2.getLink l).peerReady || !bit w 34 }
        let cls := bits w 32 2
        if !up then
          -- R386: before admission every other flit is dropped
          if cls ≠ 0 then s3.bump F.LNK_NREADY_DROP_COUNT l else recs.foldl (fun s r => s.takeInRecord l r) s3
        else
          let s4 := s3.takeInHeader l w
          let z := s4.getLink l
          if !z.trained then s4
          else if cls = 0 then
            if bits w 0 16 = z.rxSeq then recs.foldl (fun s r => s.takeInRecord l r) (s4.setLink l { z with nack := false }) else missing s4
          else if bits w 0 16 = (z.rxSeq + 1) % 65536 then
            let f := flitOf s.me w (b.drop 128)
            let had := (bits w 0 16, recs.filter (fun r => bits r.toNat 0 8 != 0), if f.cls = 1 then some f else none)
            let s5 := (s4.setLink l { z with
              rxSeq := bits w 0 16, nack := false, taken := (z.taken ++ [had]).drop (z.taken.length + 1 - 256) }).bump F.LNK_RX_FLITS_COUNT l
            (recs.foldl (fun s r => s.takeInRecord l r) s5).takeInFlit l f
          else if seqCovers z.rxSeq (bits w 0 16) then s4.takeInAgain l recs
          else missing s4

def execFlitReceived (link : Fin 64) (flit : BitVec 10240) (bad0 bad1 : Bool) (corrected : BitVec 5) (s : State) : Host.Outcome State Fault Refusal :=
  s.onHw (fun h => h.flitReceived link.val flit bad0 bad1 corrected.toNat)

/-! ### Lanes (R382) and retraining (R383) -/

/-- R382: the link goes on with one lane; flits in flight are resent. -/
def Hw.downshift (s : Hw) (l : Nat) (lane1 : Bool) : Hw :=
  let x := s.getLink l
  let s1 := s.setLink l { x with replay := x.replay.map (fun r => { r with resend := true }), bad0 := 0, bad1 := 0 }
  (s1.fset F.LNK_LSTATE_LANES (if lane1 then 1 else 2) l).raise 0x6020 l (if lane1 then 1 else 0) (linkWho l)

/-- R382, R383: a lane, or both, lose lock; on one lane already, the loss of that lane loses both. -/
def Hw.lockLost (s : Hw) (l : Nat) (lane1 both : Bool) : Hw :=
  let lanes := s.fget F.LNK_LSTATE_LANES l
  if s.lstate l ≠ 2 && s.lstate l ≠ 3 then s
  else if both then s.linkFail l 1
  else if lanes = 0 then s.downshift l lane1
  else if lanes = (if lane1 then 2 else 1) then s.linkFail l 1
  else s

def execLaneLockLost (link : Fin 64) (lane1 both : Bool) (s : State) : Host.Outcome State Fault Refusal :=
  s.onHw (fun h => h.lockLost link.val lane1 both)

/-- R382: 32 uncorrectable codewords in a row on one lane while the other has carried no such run. -/
def Hw.badLane (s : Hw) (l : Nat) (lane1 : Bool) : Hw :=
  let x := s.getLink l
  let due := if lane1 then decide (32 ≤ x.bad1 ∧ x.bad0 < 32) else decide (32 ≤ x.bad0 ∧ x.bad1 < 32)
  if due && s.fget F.LNK_LSTATE_LANES l = 0 && (s.lstate l = 2 || s.lstate l = 3) then s.downshift l lane1 else s

def execLaneDownshift (link : Fin 64) (lane1 : Bool) (s : State) : Host.Outcome State Fault Refusal := s.onHw (fun h => h.badLane link.val lane1)

/-- R383: replays within 1,024 beats have reached `LNK.RETRAIN_THR`. -/
def Hw.replayThreshold (s : Hw) (l : Nat) : Hw :=
  if s.lstate l = 2 && decide (s.fget F.LNK_RETRAIN_THR_COUNT ≤ (s.getLink l).replaysWindow) then s.linkFail l 0 else s

def execLinkRetrain (link : Fin 64) (s : State) : Host.Outcome State Fault Refusal := s.onHw (fun h => h.replayThreshold link.val)

/-! ### Training and admission (R385, R386) -/

/-- The core is out of reset, so links can train; with an invalid image they no longer do (R463). -/
def Hw.coreUp (s : Hw) : Bool := s.boot.phase == Phase.fuses || ((s.boot.phase == Phase.imaged || s.boot.phase == Phase.live) && s.boot.imageValid)

/-- A link that is down, not in training, and not shut down by the host starts to train. -/
def Hw.startTraining (s : Hw) (l : Nat) : Hw :=
  let x := s.getLink l
  if s.lstate l = 0 && !x.disable && (x.st == UnitSt.in_ || x.st == UnitSt.assaying) then (s.takeTwinBit l).fset F.LNK_LSTATE_STATE 1 l else s

/-- R385: training group g starts at (30 + 25 g) ms. -/
def Hw.trainingGroup (s : Hw) (g : Nat) : Hw :=
  if !s.coreUp then s
  else (List.range 8).foldl (fun s i => s.startTraining (8 * g + i)) (s.atMs (30 + 25 * g))

def execLinkTrainingStart (group : Fin 8) (s : State) : Host.Outcome State Fault Refusal := s.onHw (fun h => h.trainingGroup group.val)

/-- R385, R383: a training ends: with its lanes and delay, or down, which event 0x6003 reports once after each admission. DEDUCED, log 58. -/
def Hw.trainingDone (s : Hw) (l : Nat) (good : Bool) (lanes delay : Nat) : Hw :=
  let x := s.getLink l
  if s.lstate l ≠ 1 || x.trained then s
  else if good then
    let s1 := s.setLink l { x with trained := true, firstDone := true, txSeq := 0, rxSeq := 0 }
    (s1.fset F.LNK_LSTATE_LANES lanes l).fset F.LNK_DELAY_CYCLES delay l
  else
    let s1 := (s.setLink l { x with firstDone := true, reported := true, attempts := x.attempts + 1 }).fset F.LNK_LSTATE_STATE 0 l
    if x.reported then s1 else s1.raise 0x6003 l (x.attempts + 1) (linkWho l)

def execLinkTrainingDone (link : Fin 64) (good : Bool) (lanes : Fin 3) (delay : BitVec 16) (s : State) : Host.Outcome State Fault Refusal :=
  s.onHw (fun h => h.trainingDone link.val good lanes.val delay.toNat)

/-- R383: a down link tries again. -/
def execLinkRetry (link : Fin 64) (s : State) : Host.Outcome State Fault Refusal :=
  s.onHw (fun h => if h.coreUp then h.startTraining link.val else h)

/-- R386, R383: an identity record gives the partner. -/
def Hw.identityIn (s : Hw) (l m g buf : Nat) (admits : Bool) : Hw :=
  let s0 := s.takeRecord l 0x08
  let x := s0.getLink l
  if !x.trained then s0
  else
    let s1 := ((s0.setLink l { x with identity := some (m, g, buf), peerReady := x.peerReady || admits }).fset F.LNK_LSTATE_PEER_VALID 1 l).fset F.LNK_LSTATE_PEER m l
    match x.lastPeer with
    | some p => if p ≠ m && x.identity.isNone then s1.raise 0x6050 l m (linkWho l) else s1
    | none => s1

def execIdentity (link : Fin 64) (module group : BitVec 12) (buffer : BitVec 16) (admits : Bool) (s : State) : Host.Outcome State Fault Refusal :=
  s.onHw (fun h => h.identityIn link.val module.toNat group.toNat buffer.toNat admits)

/-- R386, R365, R466: the link is admitted, once the module has its identifier: the partner's buffer is the credit, waiting traffic is routed
again. -/
def Hw.admitLink (s : Hw) (l : Nat) : Hw :=
  let x := s.getLink l
  match x.identity with
  | none => s
  | some (m, _, buf) =>
    if !s.boot.imageValid || !x.trained || s.lstate l ≠ 1 || !x.peerReady then s
    else
      let s1 := s.setLink l { x with
        credits := buf, lastPeer := some m, attempts := 0, reported := false, replaysWindow := 0, replayBeats := [],
        returning := x.returning || x.st == UnitSt.assaying, records := [s.identityRec true] }
      let s2 := (s1.fset F.LNK_LSTATE_STATE 2 l).raise 0x6001 l m (linkWho l)
      -- R390: a twin link admitted to another module
      let mine := bit (s.rd64 .TWIN_LINKS_LO .TWIN_LINKS_HI) l
      (if mine && m ≠ s.twinId && s.fget F.TWIN_STATUS_STATE ≠ 0 then s2.raise 0x7011 l m (linkWho l) else s2).routeWaiting

def execLinkAdmit (link : Fin 64) (s : State) : Host.Outcome State Fault Refusal := s.onHw (fun h => h.admitLink link.val)

end Sys2Proof.Machine
end

