-- ==== Sys2Proof/Machine/Faults.lean ====
section
/-!
DEFINITION. Fault handling (R304 to R333): abort messages, store corrections, assay, tithes, observation, and units taken out and
brought back.
-/
namespace Sys2Proof.Machine

def tileWho (s : Hw) (p : Nat) : Who := { kind := 1, unit := s.tileName p }

/-! ### Abort messages (R306) -/

/-- R306: cycles of the running clock as units of 1,024 FULL-service cycles, rounded up. -/
def Hw.lifeUnits (s : Hw) (cycles : Nat) : Nat := ceilDiv (cycles * (if s.boot.full then 1 else 2)) 1024

/-- R305 steps 1 and 4, R306: applies an abort message to the job's streams on this module, if it has any. -/
def Hw.applyAbort (s : Hw) (j origin beat : Nat) : Hw :=
  if (s.streamsOfJob j).isEmpty then s
  else
    let s1 := (s.faultJob j).raise 0x4002 origin beat { kind := 4, job := some j }
    (s1.modJob j (fun x => { x with abortDue := true })).bump F.FLT_JOB_ABORTS_COUNT

/-- R306: a job abort message arrives on link l: dropped when it has been seen within the last 64 beats, applied while its life is
above 0, and forwarded on every other admitted link.  The time it spends in the module is less than a unit and counts as one
(DEDUCED, log 49). -/
def Hw.jobAbort (s0 : Hw) (l j origin seq beat life hops : Nat) : Hw :=
  let s := s0.takeRecord l 0x05
  let fresh := s.lnk.aborts.filter (fun e => s.beatNo < e.2.2 + 64)
  if fresh.any (fun e => e.1 == origin && e.2.1 == seq) then s
  else
    let left := life - s.lifeUnits (s.delayCycles (s.fget F.LNK_DELAY_CYCLES l))
    let s1 : Hw := { s with lnk := { s.lnk with aborts := (origin, seq, s.beatNo) :: fresh } }
    let s2 := if left = 0 then s1 else s1.applyAbort j origin beat
    if left ≤ 1 || hops = 0 then s2
    else
      let body := j + (seq <<< 16) + (beat <<< 32) + ((left - 1) <<< 64)
      (s2.admittedLinks.filter (fun k => k != l)).foldl (fun s k => s.sendRecord k (ctlRecord 0x05 0xFFF origin (hops - 1) body)) s2

def execJobAbort (link : Fin 64) (job origin : BitVec 12) (seq : BitVec 16) (beat : BitVec 32) (life : BitVec 16) (hops : BitVec 5) (s : State) :
    Host.Outcome State Fault Refusal :=
  s.onHw (fun h => h.jobAbort link.val job.toNat origin.toNat seq.toNat beat.toNat life.toNat hops.toNat)

/-! ### Store corrections (R310) -/

/-- R301: the word rewritten corrected; a word without a single-bit error stays as it is. -/
def Mem.correctWord (m : Mem) (w : Nat) : Mem :=
  match m.syndrome w with
  | .dataBit i => (m.putByte (w * 8 + i / 8) (m.goodByte (w * 8 + i / 8))).putSyn w 0
  | .checkBit _ => m.putSyn w 0
  | _ => m

/-- R310: the store of tile p writes the corrected word at a store offset back, unless a write has replaced it, and the
correction is counted. -/
def Hw.writeBack (s : Hw) (p off : Nat) : Hw :=
  let x := s.getPhys p
  if x.writeback.contains off then
    let s1 := s.setPhys p { x with writeback := x.writeback.filter (fun o => o != off) }
    let w := storeKey p off / 8
    if s.mem.singleBit w then ({ s1 with mem := s1.mem.correctWord w } : Hw).storeCorrection p else s1
  else s

def execStoreCorrectionWriteback (phys : Fin 576) (word : BitVec 19) (s : State) : Host.Outcome State Fault Refusal :=
  s.onHw (fun h => h.writeBack phys.val (word.toNat * 8))

/-! ### Assay (R313 to R318) -/

/-- R437: the fleet pattern set in force: bytes of the ASSAY section's body, with patterns from byte 8. -/
def Hw.patternBytes (s : Hw) (a n : Nat) : Nat := ofBytes ((List.range n).map (fun i => Sparse.get 0 s.flt.patterns (a + i)))

/-- R315: the CYCLES of the patterns from an offset of the set on. -/
def Hw.patternCycles (s : Hw) (a : Nat) : Nat → Nat
  | 0 => 0
  | k + 1 => s.patternBytes (a + 4) 4 + s.patternCycles (a + 64 * (1 + s.patternBytes (a + 2) 1 + s.patternBytes (a + 3) 1)) k

/-- R316: the beats a full assay needs: its cycles over the issue window without trim. -/
def Hw.assayBeats (s : Hw) : Nat :=
  ceilDiv (40_960 + s.patternCycles 8 (s.fget F.FLT_ASSAY_SET_COUNT)) (max 1 (s.windowUnits * 64))

/-- R316: assay runs on a physical tile in this beat: on a tile given to assay, a free spare, a returning tile. -/
def Hw.assayOn (s : Hw) (p : Nat) : Bool :=
  let x := s.getPhys p
  s.running && match x.st with
  | .spare | .assaying => true
  | .in_ | .draining => (s.logicalOf p).any (fun t => (s.getTile t).assay)
  | _ => false

/-- The words of a physical tile's store that have an error, between two store offsets. -/
def Hw.storeErrors (s : Hw) (p lo hi : Nat) : List Nat :=
  (s.mem.syn.filter (fun e => decide (storeKey p lo ≤ e.1 * 8) && decide (e.1 * 8 < storeKey p hi))).map (·.1)

/-- R303, R310, R313: the march over a stretch of a store reports words with a single-bit error, and marks the atoms of
uncorrectable ones as dross; answers whether it met one. -/
def Hw.march (s : Hw) (p lo hi : Nat) : Hw × Bool :=
  let es := s.storeErrors p lo hi
  let offs := (es.filter s.mem.singleBit).map (fun w => w * 8 - storeKey p 0)
  let bad := es.filter (fun w => s.mem.syndrome w == .uncorrectable)
  let s1 := s.modPhys p (fun x => { x with writeback := offs.foldl (fun l o => if l.contains o then l else l ++ [o]) x.writeback })
  let s2 := bad.foldl (fun s w => if s.mem.syndrome w == .uncorrectable then
    ({ s with mem := s.mem.markDross (w * 8) } : Hw).bump F.FLT_DROSS_MADE_COUNT else s) s1
  (s2, !bad.isEmpty)

/-- R314: notes that tile p has produced a digest on both its looms for a seed index; three tiles confirm a reference. -/
def Hw.noteDigest (s : Hw) (p seed d : Nat) : Hw :=
  let seen := if s.flt.seenRefs.contains (seed, d, p) then s.flt.seenRefs else s.flt.seenRefs ++ [(seed, d, p)]
  let n := (seen.filter (fun e => e.1 == seed && e.2.1 == d)).length
  let refs := if 3 ≤ n && (Sparse.find? s.flt.refs seed).isNone then Sparse.set s.flt.refs seed d else s.flt.refs
  { s with flt := { s.flt with seenRefs := seen, refs := refs } }

/-- R317: a confirmed failure of an assay part. -/
def Hw.assayConfirmed (s : Hw) (p part : Nat) : Hw := (s.bump F.FLT_ASSAY_FAIL_COUNT).confirmedFailure p 1 part

/-- R330: the outcome of a returning tile's assay. -/
def Hw.returnDone (s : Hw) (p : Nat) (good : Bool) : Hw :=
  let x := s.getPhys p
  if good then s.setPhys p { x with returning := true }
  else (s.setPhys p { x with st := .out, disable := false, observed := false, obsLeft := 0, fails := 0, part := 6 }).raise 0x4053 0 p (tileWho s p)

/-- R313, R317, R325: a full assay ends.  One that passes counts and clears the touch log. -/
def Hw.assayEnds (s : Hw) (p : Nat) : Hw :=
  let x := s.getPhys p
  let s1 := s.setPhys p { x with part := 6, rerun := false, assayBad := false, set := [] }
  let s2 :=
    if x.assayBad then s1
    else (s1.modPhys p (fun x => { x with log := [], touchedAll := false, lastPass := s.beatNo, since := 0, tithe := 0 })).bump F.FLT_ASSAY_PASS_COUNT
  if x.st = .assaying then s2.returnDone p (!x.assayBad) else s2

/-- R313: the assay goes on to its next part; without fleet patterns the queue engine's is the last. -/
def Hw.nextPart (s : Hw) (p : Nat) : Hw :=
  let x := s.getPhys p
  let last := x.part = 5 ∨ (x.part = 4 ∧ x.setCount = 0)
  if last then s.assayEnds p else s.setPhys p { x with part := x.part + 1, rerun := false }

/-- R506: whether a run of a part on a tile is forced to fail. -/
def Hw.forcedPart (s : Hw) (p part : Nat) : Hw × Bool :=
  match s.logicalOf p with
  | some t => s.forced 3 (fun j => j.idx == t && j.part == part)
  | none => (s, false)

/-- R314, R317: a part of a full assay ends: it passes, is run again, or fails as confirmed. -/
def Hw.assayPart (s : Hw) (p : Nat) (good : Bool) (a b : Nat) : Hw :=
  let x := s.getPhys p
  if !s.assayOn p || 6 ≤ x.part then s
  else
    let f := s.forcedPart p x.part
    let m := if x.part = 1 then f.1.march p 0 0x30_0000 else (f.1, false)
    let g := if x.part = 2 then (m.1.usesScratch p, true) else if x.part = 5 then m.1.runFleets p else (m.1, true)
    let ref := (Sparse.find? s.flt.refs x.seed).all (fun r => r == a)
    let ok := good && !f.2 && !m.2 && g.2 && (x.part != 0 || (a == b && ref))
    let s1 := if x.part = 0 && good && !f.2 && a = b then g.1.noteDigest p x.seed a else g.1
    if ok then (if x.rerun then s1.transient p else s1).nextPart p
    else if x.rerun || m.2 then
      ((s1.modPhys p (fun x => { x with assayBad := true })).assayConfirmed p x.part).nextPart p
    else s1.modPhys p (fun x => { x with rerun := true })

def execAssayPartDone (phys : Fin 576) (good : Bool) (digestA digestB : BitVec 64) (s : State) : Host.Outcome State Fault Refusal :=
  s.onHw (fun h => h.assayPart phys.val good digestA.toNat digestB.toNat)

/-- R318: a tile about to pass its assay period is given k assay beats from the next edge window on. -/
def Hw.imposeTithe (s : Hw) (t : Nat) : Hw :=
  let p := s.physOf t
  let x := s.getPhys p
  let k := s.assayBeats
  if s.running && s.admitted t && x.tithe = 0 && decide (s.fget F.FLT_ASSAY_PERIOD_BEATS ≤ x.since + 1 + k) then
    (s.setPhys p { x with tithe := k }).raise 0x4020 t k (tileWho s p)
  else s

def execTitheImposed (tile : Fin 512) (s : State) : Host.Outcome State Fault Refusal := s.onHw (fun h => h.imposeTithe tile.val)

/-! ### Observation (R319, R320) -/

/-- R317, R319: a run of the first or second part (i) of an observation assay, `part` of the full assay: one that fails is run again at once,
with the next outcome; the bits of `again` are those that run again now. -/
def Hw.observationPart (s : Hw) (p i part again : Nat) (good bad : Bool) : Hw :=
  if again ≠ 0 && !bit again i then s
  else
    let f := s.forcedPart p part
    if bad then f.1.assayConfirmed p part
    else if good && !f.2 then (if again = 0 then f.1 else f.1.transient p)
    else if again ≠ 0 then f.1.assayConfirmed p part
    else f.1.modPhys p (fun x => { x with obsRerun := x.obsRerun + (1 <<< i) })

/-- R317, R319: the observation assay of a beat ends: the loom cross-compare, then a slice of the part that put the tile under
observation; where one has failed, its run again ends.  A slice of the march is 128 KiB of the store. -/
def Hw.observationAssay (s : Hw) (p : Nat) (goodCross goodPart : Bool) : Hw :=
  let x := s.getPhys p
  let again := x.obsRerun
  if s.running && x.observed && (x.st.serves || x.st == UnitSt.spare) then
    let s0 := s.setPhys p { x with obsSlice := if again = 0 then x.obsSlice + 1 else x.obsSlice, obsRerun := 0 }
    if x.obsPart = 0 then s0.observationPart p 0 0 again (goodCross && goodPart) false
    else
      let s1 := s0.observationPart p 0 0 again goodCross false
      let k := x.obsSlice % 24
      let m := if x.obsPart = 1 && again = 0 then s1.march p (k * 0x2_0000) ((k + 1) * 0x2_0000) else (s1, false)
      m.1.observationPart p 1 x.obsPart again goodPart m.2
  else s

def execObservationAssayDone (phys : Fin 576) (goodCross goodPart : Bool) (s : State) : Host.Outcome State Fault Refusal :=
  s.onHw (fun h => h.observationAssay phys.val goodCross goodPart)

/-- R320: an observation window ends. -/
def Hw.observationEnds (s : Hw) (p : Nat) : Hw :=
  let x := s.getPhys p
  if x.observed && x.obsLeft = 0 && !x.retireDue then
    if x.fails = 0 then (s.setPhys p { x with observed := false, obsFurther := false }).raise 0x4023 (s.tileName p) 0 (tileWho s p)
    else if x.obsFurther then s.setPhys p { x with retireDue := true }
    else (s.setPhys p { x with obsFurther := true, obsLeft := s.fget F.FLT_OBS_BEATS, fails := 0 }).raise
      0x4024 (s.tileName p) x.fails (tileWho s p)
  else s

def execObservationWindowEnd (phys : Fin 576) (s : State) : Host.Outcome State Fault Refusal := s.onHw (fun h => h.observationEnds phys.val)

/-! ### Accesses of GDDR7 (R340, R341, R345) -/

/-- R341: the words of an atom as an access that has used its replays up last delivered them: their syndromes are free (DESIGN CHOICE, log 91). -/
def Hw.lastArrived (s : Hw) (a : Nat) : List (Nat × Syndrome) :=
  ((List.range 16).map (fun i => (a / 8 + i, readSyndrome (Config.freeByte s.free i).toNat))).filter (fun e => e.2 != .clean)

/-- R340, R341, R353, R520: an access to the atom that holds an address completes, after some replays.  Each replay counts; a write that has
used them all up stores the atom as dross; a read forwards its words as they are, or last arrived, to the unit that asked for them. -/
def Hw.accessNow (s0 : Hw) (x : HeldAccess) : Hw :=
  let a := x.addr / 128 * 128
  match s0.place a with
  | .gddr _ =>
    let s := s0.pcEvent (if x.write then 10 else 9) 0 0 1
    let c := (s.position a).1
    let n := min x.replays (s.fget F.MEM_REPLAY_MAX_TRIES)
    let s1 := (s.bump F.MEM_CH_REPLAY_COUNT c n).noteErrs c n
    let out := x.exhausted && n = s.fget F.MEM_REPLAY_MAX_TRIES
    if x.write then
      if out then (({ s1 with mem := s1.mem.markDross a } : Hw).bump F.FLT_DROSS_MADE_COUNT).raise 0x5012 a (a >>> 32) (chanWho c) else s1
    else
      let s2 := s1.opportunity 3 c 0 0
      let es := if out then s2.lastArrived a else s2.withSyn (s2.atomErrors a)
      let s3 : Hw := if out then { s2 with free := s2.free + 1 } else s2
      let bad := (es.filter (fun e => e.2 == .uncorrectable)).map (·.1)
      let mu := s3.mu
      ({ s3 with mu := { mu with forwarded := mu.forwarded ++ bad, served := if es.isEmpty || mu.served.contains a then mu.served else mu.served ++ [a] } }
        : Hw).accountWords a es 0x5011
  | .store _ _ _ => s0
  | .offlined ch p => s0.offAccess ch p
  | .unmapped => s0.raiseOnce 0x5051 0 a (a >>> 32)

/-- R345: the controller of the channel that retrains holds the accesses to an address. -/
def Hw.channelHeld (s : Hw) (a : Nat) : Bool :=
  match s.mu.retraining, s.place a with
  | some r, .gddr _ => (s.position a).1 == r.1
  | _, _ => false

/-- R340, R341, R345: an access completes, unless its channel retrains, which holds it. -/
def Hw.accessDone (s : Hw) (addr : Nat) (write : Bool) (replays : Nat) (exhausted : Bool) : Hw :=
  let x : HeldAccess := { addr := addr, write := write, replays := replays, exhausted := exhausted }
  if s.channelHeld (addr / 128 * 128) then { s with mu := { s.mu with heldAcc := s.mu.heldAcc ++ [x] } } else s.accessNow x

/-- R345: a retraining has ended: the accesses held are served in their order of arrival, and a copy that waited begins. -/
def Hw.serveHeld (s : Hw) : Hw :=
  if s.mu.retraining.isSome then s
  else s.mu.heldAcc.foldl Hw.accessNow ({ s with mu := { s.mu with heldAcc := [] } } : Hw)

/-! ### Units out and back (R327 to R330) -/

/-- A unit's place in its event record. -/
def Hw.unitWho (s : Hw) (kind i : Nat) : Who := if kind = 0 then tileWho s i else { kind := kind + 1, unit := i }

/-- The numbers of units of a kind. -/
def unitCount (kind : Nat) : Nat := if kind = 0 then 576 else if kind = 1 then 40 else if kind = 2 then 64 else 0

/-- The state and the flags of a unit: state, pending re-enable, DISABLE, ENABLE. -/
def Hw.setUnit (s : Hw) (kind i : Nat) (st : UnitSt) (pend dis en : Bool) : Hw :=
  match kind with
  | 0 => s.modPhys i (fun x => { x with st := st, pendingEn := pend, disable := dis, enable := en })
  | 1 => s.modChan i (fun x => { x with st := st, pendingEn := pend, disable := dis, enable := en })
  | _ => s.modLink i (fun x => { x with st := st, pendingEn := pend, disable := dis, enable := en })

def Hw.unitPending (s : Hw) (kind i : Nat) : Bool :=
  match kind with
  | 0 => (s.getPhys i).pendingEn
  | 1 => (s.getChan i).pendingEn
  | _ => (s.getLink i).pendingEn

def Hw.unitEnable (s : Hw) (kind i : Nat) : Bool :=
  match kind with
  | 0 => (s.getPhys i).enable
  | 1 => (s.getChan i).enable
  | _ => (s.getLink i).enable

/-- R328: a unit enters OUT with its drain complete: event 0x4050. -/
def Hw.shutDown (s : Hw) (kind i : Nat) : Hw :=
  (s.setUnit kind i .out (s.unitPending kind i) false false).raise 0x4050 kind i (s.unitWho kind i)

/-- R348: why a DISABLE of channel c is refused; 0 where it is not. -/
def Hw.channelRefusal (s : Hw) : Nat :=
  let window := fun (lo len : Nat) => 0 < len && overlaps (lo, lo + len - 1) (windowBase, 0x4F_FFFF_FFFF)
  let table := s.tableBase
  if s.mu.outCh.isSome || s.mu.windowOff || s.mu.copy.isSome then 1
  else if s.regions.any (fun e => Region.space e.2 == 0 && window (Region.base e.2) (Region.size e.2)) then 2
  else if window table (64 * s.tableCap) then 3
  else 0

/-- R352: the proposals of a channel that begins a retirement copy are withdrawn: event 0x5042, reason 2. -/
def Hw.withdrawProposals (s : Hw) (c : Nat) : Hw :=
  (s.mu.props.filter (fun e => e.2.1 == c)).foldl (fun s e =>
    ({ s with mu := { s.mu with props := Sparse.erase s.mu.props e.1 } } : Hw).raise 0x5042 e.1 2 { kind := 2, unit := c }) s

/-- R345, R349, R350: a copy that waits begins once no channel retrains; a retirement copy raises event 0x5030 (DEDUCED, log 90). -/
def Hw.startCopy (s : Hw) : Hw :=
  match s.mu.copyDue with
  | none => s
  | some back =>
    if s.mu.retraining.isSome || s.mu.copy.isSome then s
    else
      let s1 : Hw := { s with mu := { s.mu with copy := some back, copyDue := none, copyRow := 0 } }
      let c := s.mu.outCh.getD 0
      if back then s1 else s1.raise 0x5030 c 0 (chanWho c)

/-- R348, R349: a DISABLE of a channel in service. -/
def Hw.disableChannel (s : Hw) (c : Nat) : Hw :=
  let r := s.channelRefusal
  if r ≠ 0 then s.raise 0x5032 c r { kind := 2, unit := c }
  else
    let s1 := (s.setUnit 1 c .draining false true false).withdrawProposals c
    ({ s1 with mu := { s1.mu with outCh := some c, copyDue := some false } } : Hw).startCopy

/-- R384: a DISABLE of a link: an admitted one takes no new flits and sends what its replay buffer holds; training ends at once. -/
def Hw.disableLink (s : Hw) (l : Nat) : Hw :=
  if s.lstate l = 2 then
    let s1 := s.setUnit 2 l .draining false true false
    let x := s1.getLink l
    let s2 := (s1.setLink l { x with records := x.records.filter recordLocal, long := [], sched := [], dyn := [] }).fset F.LNK_LSTATE_STATE 3 l
    s2.rerouteLink l [] x.records (x.long ++ x.sched ++ x.dyn)
  else (s.linkStop l 0).shutDown 2 l

/-- R328, R329: DISABLE of a unit.  One that is out of service already is left as it is (DEDUCED, log 50). -/
def Hw.disableUnit (s : Hw) (kind i : Nat) : Hw :=
  if unitCount kind ≤ i then s
  else
    let st := s.unitSt kind i
    if s.unitPending kind i then (s.setUnit kind i st false (st == .draining) false).raise 0x4054 kind i (s.unitWho kind i)
    else
      match st with
      | .in_ =>
        match kind with
        | 0 =>
          match s.logicalOf i with
          | some t =>
            let s1 := s.setUnit 0 i .draining false true false
            { s1 with flt := { s1.flt with wanted := s1.flt.wanted ++ [(t, i)] } }
          | none => s.shutDown 0 i
        | 1 => s.disableChannel i
        | _ => s.disableLink i
      | .spare => s.shutDown kind i
      | .assaying =>
        match kind with
        | 0 => (s.modPhys i (fun x => { x with returning := false, part := 6 })).shutDown 0 i
        | 1 =>
          let s1 := s.modChan i (fun x => { x with returning := false, due := none })
          let r := if (s1.mu.retraining.map (·.1)) = some i then none else s1.mu.retraining
          (({ s1 with mu := { s1.mu with copy := none, copyDue := none, outCh := some i, retraining := r } } : Hw).shutDown 1 i).serveHeld
        | _ => ((s.modLink i (fun x => { x with returning := false })).linkStop i 0).shutDown 2 i
      | _ => s

def execUnitDisable (s : State) : Host.Outcome State Fault Refusal :=
  s.onHw (fun h => if h.regsLive then h.disableUnit (h.fget F.FLT_UNIT_SEL_KIND) (h.fget F.FLT_UNIT_SEL_INDEX) else h)

/-- R329, R330: ENABLE of a unit. -/
def Hw.enableUnit (s : Hw) (kind i : Nat) : Hw :=
  if unitCount kind ≤ i then s
  else
    let st := s.unitSt kind i
    if (st = .out || st = .retired) && !s.unitPending kind i then s.setUnit kind i st false false true
    else if st = .draining && !s.unitPending kind i then (s.setUnit kind i st true true false).raise 0x4051 kind i (s.unitWho kind i)
    else s.raise 0x4055 kind (pack2 i st.code) (s.unitWho kind i)

def execUnitEnable (s : State) : Host.Outcome State Fault Refusal :=
  s.onHw (fun h => if h.regsLive then h.enableUnit (h.fget F.FLT_UNIT_SEL_KIND) (h.fget F.FLT_UNIT_SEL_INDEX) else h)

/-- R328: the drain of a unit is over: a tile holds no logical identifier, a channel's copy has ended, a link's replay buffer is
empty. -/
def Hw.drained (s : Hw) (kind i : Nat) : Bool :=
  match kind with
  | 0 => (s.logicalOf i).isNone
  | 1 => s.mu.copy.isNone && s.mu.windowOff && s.mu.outCh == some i
  | _ => (s.getLink i).replay.isEmpty

/-- R328: a unit's drain completes. -/
def Hw.drainCompletes (s : Hw) (kind i : Nat) : Hw :=
  if i < unitCount kind && s.unitSt kind i == .draining && s.drained kind i then
    (if kind = 2 then s.linkStop i 0 else s).shutDown kind i
  else s

def execUnitDrainComplete (kind : Fin 3) (index : BitVec 10) (s : State) : Host.Outcome State Fault Refusal :=
  s.onHw (fun h => h.drainCompletes kind.val index.toNat)

/-- R330, R350, R384: a returning unit's assay ends.  A channel that passes begins its return copy; a link passes by its
admission. -/
def Hw.returnAssay (s : Hw) (kind i : Nat) (good : Bool) : Hw :=
  if unitCount kind ≤ i || s.unitSt kind i != .assaying then s
  else
    match kind with
    | 0 =>
      if (s.getPhys i).returning then s
      else (s.modPhys i (fun x => { x with assayBad := !good })).assayEnds i
    | 1 =>
      if good then
        -- R350: training, the test, and then the copy
        if (s.mu.retraining.map (·.1)) = some i || (s.getChan i).due.isSome || s.mu.copy.isSome || s.mu.copyDue.isSome then s
        else ({ s with mu := { s.mu with copyDue := some true } } : Hw).startCopy
      else
        let r := if (s.mu.retraining.map (·.1)) = some i then none else s.mu.retraining
        (({ (s.modChan i (fun x => { x with st := .out, due := none })) with mu := { s.mu with retraining := r } } : Hw).raise 0x4053 1 i
          (s.unitWho 1 i)).serveHeld
    | _ =>
      if good then (if s.lstate i = 2 then s.modLink i (fun x => { x with returning := true }) else s)
      else ((s.linkStop i 0).modLink i (fun x => { x with st := .out, returning := false })).raise 0x4053 2 i (s.unitWho 2 i)

def execUnitReturnAssayDone (kind : Fin 3) (index : BitVec 10) (good : Bool) (s : State) : Host.Outcome State Fault Refusal :=
  s.onHw (fun h => h.returnAssay kind.val index.toNat good)

end Sys2Proof.Machine
end

