-- ==== Sys2Proof/Machine/Beat.lean ====
section
/-!
DEFINITION. The beat controller between edge windows: plan entries and plan switches (R50 to R54), frame staging (R55 to R57), partitions
(R59), budgets, suspension and carry (R49, R62 to R66), and beat groups (R67 to R73).
-/
namespace Sys2Proof.Machine

def Hw.modBeat (s : Hw) (f : Beat → Beat) : Hw := { s with beat := f s.beat }

def beatWho : Who := { kind := 4 }

/-! ### The incoming entry (R50 to R54) -/

/-- The frame field that means no set (R44). -/
def noFrame : Nat := 0xF_FFFF

def Hw.planBase (s : Hw) : Nat := s.rd64 .BEAT_CUR_BASE_LO .BEAT_CUR_BASE_HI % (1 <<< 40) / 0x1_0000 * 0x1_0000
def Hw.nextBase (s : Hw) : Nat := s.rd64 .BEAT_NEXT_BASE_LO .BEAT_NEXT_BASE_HI % (1 <<< 40) / 0x1_0000 * 0x1_0000
def Hw.planLen (s : Hw) : Nat := s.fget F.BEAT_CUR_LEN_LEN

/-- Cycles from now until the edge window that begins a beat starts: this beat's window, and whole beats without trim. -/
def Hw.cyclesTo (s : Hw) (at_ : Nat) : Int :=
  s.windowEnd - s.beat.cycle + ((at_ : Int) - s.beatNo - 1) * s.beatLen

/-- R50: the cycles between GO and the edge window of this beat. -/
def Hw.sinceGo (s : Hw) : Int :=
  match s.beat.pendingGo with
  | some c => ((s.test.moved : Int) - c) + s.windowEnd - s.beat.cycle
  | none => 0

/-- R50: the edge window that ends this beat is the one a pending switch names. -/
def Hw.switchNamed (s : Hw) : Bool :=
  s.beat.pendingGo.isSome &&
    (if s.beat.switchAt = 0 then decide (8192 ≤ s.sinceGo) else s.beat.switchAt == s.beatNo + 1)

/-- A validated switch happens at the edge window that ends this beat. -/
def Hw.switchDue (s : Hw) : Bool := s.switchNamed && s.beat.start.isSome

/-- The entry of the beat to come, as far as it is known: the switch's start entry, the successor, or the current entry held. -/
def Hw.incoming (s : Hw) : Option Entry :=
  if s.switchDue then s.beat.start
  else if s.planLen = 0 then none
  else if s.beat.nextBad then some s.beat.cur
  else s.beat.next

/-- The frame an entry gives a tile: none on an offline tile (R322), on one not admitted in WARM service (R54), and in a tithe
(R318). -/
def Hw.frameFor (s : Hw) (e : Entry) (t : Nat) : Option Nat :=
  let f := e.frame t
  if f = noFrame || s.flt.offline.contains t || (s.level != 2 && !s.admitted t) || (s.getPhys (s.physOf t)).tithe != 0 then none else some f

/-- R53: the next entry is fetched and checked; one that fails is held, with events 0x1024 and, for dross, 0x4003. -/
def Hw.planFetched (s : Hw) : Hw :=
  if !s.running || s.planLen = 0 || s.beat.next.isSome || s.beat.nextBad then s
  else
    let i := (s.fget F.BEAT_ENTRY_INDEX + 1) % s.planLen
    let r := s.fetchEntry s.planBase i
    match r.2.2.1 with
    | none => r.1.modBeat (fun b => { b with next := some r.2.1 })
    | some off =>
      let s1 := ((r.1.modBeat (fun b => { b with nextBad := true })).bump F.BEAT_HELD_COUNT).raise 0x1024 i off beatWho
      if r.2.2.2 then s1.raise 0x4003 i s.planBase beatWho else s1

def execPlanEntryFetched (s : State) : Host.Outcome State Fault Refusal := s.onHw Hw.planFetched

/-! ### Plan switches (R50 to R52, R54) -/

/-- A switch request ends without a switch: RESULT, and GO clears. -/
def Hw.endSwitch (s : Hw) (result : Nat) : Hw :=
  ((s.modBeat (fun b => { b with pendingGo := none, start := none, switchAt := 0 })).fset F.BEAT_PLAN_NEXT_GO 0).fset
    F.BEAT_PLAN_NEXT_RESULT result

/-- R50, R51: a switch is refused: 2 INVALID, 3 LATE. -/
def Hw.refuseSwitch (s : Hw) (result off : Nat) : Hw := (s.endSwitch result).raise 0x1021 result off beatWho

/-- R51, R54: why GO is refused on the registers alone; 0 where it is not. -/
def Hw.goRefusal (s : Hw) : Nat :=
  let len := s.fget F.BEAT_NEXT_LEN_LEN
  let at_ := s.rd64 .BEAT_NEXT_AT_LO .BEAT_NEXT_AT_HI
  if len = 0 || 4096 < len || len ≤ s.fget F.BEAT_NEXT_LEN_START || (s.level = 1 && at_ ≠ 0) then 2
  else if at_ ≠ 0 && decide (s.cyclesTo at_ < 8192) then 3
  else 0

/-- R50, R460: GO. -/
def Hw.planGo (s : Hw) : Hw :=
  if !s.regsLive || s.flag F.BEAT_PLAN_NEXT_GO then s
  else if s.capacity = 0 then s.raise 0x8053 0x4_002C 0 beatWho
  else
    let r := s.goRefusal
    if r ≠ 0 then s.refuseSwitch r 0xFFFF
    else (s.fset F.BEAT_PLAN_NEXT_GO 1).modBeat (fun b => { b with
      pendingGo := some s.test.moved, start := none, switchAt := s.rd64 .BEAT_NEXT_AT_LO .BEAT_NEXT_AT_HI })

def execPlanNextGo (s : State) : Host.Outcome State Fault Refusal := s.onHw Hw.planGo

/-- R52: CANCEL. -/
def Hw.planCancel (s : Hw) : Hw :=
  if !s.regsLive || s.beat.pendingGo.isNone then s
  else if 3 < s.beat.edge.step && s.beat.edge.sw then s.raise 0x1023 s.beatNo 0 beatWho
  else s.endSwitch 4

def execPlanNextCancel (s : State) : Host.Outcome State Fault Refusal := s.onHw Hw.planCancel

/-- R51: less than 8,192 cycles are left before the edge window that begins the beat a pending switch names. -/
def Hw.switchTooLate (s : Hw) : Bool := s.beat.switchAt != 0 && decide (s.cyclesTo s.beat.switchAt < 8192)

/-- R50, R51: the start entry has been fetched. -/
def Hw.startFetched (s : Hw) : Hw :=
  if s.beat.pendingGo.isNone || s.beat.start.isSome then s
  else if s.switchTooLate then s.refuseSwitch 3 0xFFFF
  else
    let i := s.fget F.BEAT_NEXT_LEN_START
    let r := s.fetchEntry s.nextBase i
    match r.2.2.1 with
    | none => r.1.modBeat (fun b => { b with start := some r.2.1 })
    | some off =>
      let s1 := r.1.refuseSwitch 2 off
      if r.2.2.2 then s1.raise 0x4003 i s.nextBase beatWho else s1

def execPlanStartEntryValidated (s : State) : Host.Outcome State Fault Refusal := s.onHw Hw.startFetched

/-- R51: the start entry is not validated 8,192 cycles before the edge window that begins the beat named. -/
def Hw.switchLate (s : Hw) : Hw :=
  if s.beat.pendingGo.isSome && s.beat.start.isNone && s.switchTooLate then s.refuseSwitch 3 0xFFFF else s

def execPlanSwitchLate (s : State) : Host.Outcome State Fault Refusal := s.onHw Hw.switchLate

/-! ### Frames (R55 to R57) -/

/-- R55: the first and last state byte of a frame. -/
def Hw.frameState (s : Hw) (f : Nat) : Nat × Nat := (s.frameAddr f + 0x40, s.frameAddr f + 0x603F)

/-- R55, R520: a frame as it is read for staging.  One that lies beyond mapped GDDR7 reads as an empty set, as does one whose state bytes
were written since the Totha saved it (DESIGN CHOICE, log 52).  Answers the set, the first atom that the restore will find to be dross, and
the uncorrectable words it will count; the dross atoms passed on are counted (R304). -/
def Hw.readFrame (s : Hw) (f : Nat) : Hw × FrameState × Option Nat × Nat :=
  let a := s.frameAddr f
  if s.capacity < a + 0x8000 then (s.raiseOnce 0x5051 0 a (a >>> 32), FrameState.empty, none, 0)
  else
    let r := s.frameState f
    let ws := s.errorWords r.1 r.2
    let ue := ws.filter (fun w => s.mem.syndrome w == .uncorrectable)
    let dross := ((ws.filter (fun w => s.mem.syndrome w == .dross)).map (fun w => w * 8 / 128 * 128)).eraseDups
    let off := if s.mu.offline.isEmpty then [] else (atomsOf r.1 r.2).filter s.isOffline
    let bad := List.find? (fun k => off.contains k || dross.contains k || ue.any (fun w => w * 8 / 128 * 128 == k)) (atomsOf r.1 r.2)
    let written := s.mem.cells.any (fun e => decide (r.1 ≤ e.1) && decide (e.1 ≤ r.2))
    let s1 := (s.accountRun r.1 (r.2 + 1 - r.1)).bump F.FLT_DROSS_PASSED_COUNT 0 (dross.length + off.length)
    (off.foldl (fun s k => s.offAccess (s.position k).1 ((s.position k).2 / 8)) s1, if written then FrameState.empty else s.getFrame f, bad, ue.length)

/-- A frame's state is in the pool: it is resident nowhere, and no tile has still to write it back. -/
def Hw.inPool (s : Hw) (f : Nat) : Bool := s.tiles.all (fun e => e.2.frame != some f && e.2.writeBack != some f)

/-- R56: a frame of mapped GDDR7 that another tile holds resident. -/
def Hw.heldElsewhere (s : Hw) (t f : Nat) : Bool :=
  decide (s.frameAddr f + 0x8000 ≤ s.capacity) && s.tiles.any (fun e => e.1 != t && e.2.frame == some f)

/-- R57: the incoming frame of a tile is copied into its staging area; dross passes (R304).  One that another tile still holds is taken
over from it at the edge (DEDUCED, log 18); one that waits to be written back is not staged. -/
def Hw.stageFrame (s : Hw) (t : Nat) : Hw :=
  match s.incoming.bind (fun e => s.frameFor e t) with
  | none => s
  | some f =>
    if (s.getTile t).frame == some f then s
    else if s.heldElsewhere t f then s.modTile t (fun x => { x with staged := some (f, FrameState.empty), stagedDross := none, stagedUe := 0 })
    else if !s.inPool f then s
    else
      let r := s.readFrame f
      r.1.modTile t (fun x => { x with staged := some (f, r.2.1), stagedDross := r.2.2.1, stagedUe := r.2.2.2 })

/-- R57, R520: the frame saved in the last edge window is written back.  How its bytes hold the state is not given: they are free (DESIGN CHOICE, log 52).
A save into unmapped GDDR7 is discarded, and so is one that a re-seed guards (R400). -/
def Hw.frameBack (s : Hw) (t : Nat) : Hw :=
  match (s.getTile t).writeBack with
  | none => s
  | some f =>
    let s1 := s.modTile t (fun x => { x with writeBack := none })
    let a := s.frameAddr f
    let r := s.frameState f
    if s.capacity < a + 0x8000 then (s1.setFrame f FrameState.empty).raiseOnce 0x5051 0 a (a >>> 32)
    else if s.seedGuard r.1 || s.seedGuard r.2 then (s1.setFrame f FrameState.empty).raiseOnce 0x7022 0 a (a >>> 32) { kind := 4 }
    else ({ s1 with mem := s1.mem.setFree r.1 r.2 s1.free, free := s1.free + 1 } : Hw).noteMirror (atomsOf r.1 r.2)

def execFrameStaged (tile : Fin 512) (back : Bool) (s : State) : Host.Outcome State Fault Refusal :=
  s.onHw (fun h => if !h.running then h else if back then h.frameBack tile.val else h.stageFrame tile.val)

/-! ### Partitions (R59) -/

/-- The dross atoms within n bytes at a key, as offsets from it. -/
def Mem.drossIn (m : Mem) (a n : Nat) : List Nat :=
  (m.errors a n).foldl (fun (l : List Nat) w =>
    let o := w * 8 / 128 * 128 - a
    if m.syndrome w == .dross && !l.contains o then l ++ [o] else l) []

/-- R59, R520: spills n bytes of a store, from a key, to a backing address in GDDR7. -/
def Hw.spillRun (s : Hw) (k g n : Nat) : Hw :=
  let fits := min n (s.capacity - g)
  let s0 := if fits < n then s.raiseOnce 0x5051 0 (max g s.capacity) (max g s.capacity >>> 32) else s
  let s1 := s0.bump F.FLT_DROSS_PASSED_COUNT 0 (s.mem.drossIn k fits).length
  if fits = 0 then s1
  else if g % 8 = 0 && s1.mu.offline.isEmpty && s1.fget F.TWIN_STATUS_STATE != 4 then
    ({ s1 with mem := s1.mem.copyRun k g fits } : Hw).noteMirror (atomsOf g (g + fits - 1))
  else
    let byte := fun (i : Nat) => if g % 8 = 0 then s.mem.byte (k + i) else s.mem.goodByte (k + i)
    let s2 := s1.writeAddrs ((List.range fits).map (fun i => (g + i, byte i)))
    (s.mem.errors k fits).foldl (fun s w =>
      let a := g + (w * 8 - k)
      if g % 8 = 0 then
        match s.place a with
        | .gddr a => if s.seedGuard a then s else { s with mem := s.mem.putSyn (a / 8) (Sparse.get 0 s.mem.syn w).toNat }
        | _ => s
      else match s.mem.syndrome w with
        | .dross | .uncorrectable => (s.invertAtom a).invertAtom (a + 7)
        | _ => s) s2

/-- R59, R353, R520: fills n bytes of a store, at a key, from a backing address. -/
def Hw.fillRun (s : Hw) (k g n : Nat) : Hw :=
  let fits := min n (s.capacity - g)
  let s0 := if fits < n then s.raiseOnce 0x5051 0 (max g s.capacity) (max g s.capacity >>> 32) else s
  let m0 := s0.mem.zeroRun k n
  let m1 :=
    if g % 8 = 0 then m0.copyRun g k fits
    else
      let m2 := (m0.busy g fits).foldl (fun (r : Mem) i => r.putByte (k + i) (m0.goodByte (g + i))) m0
      (m0.errors g fits).foldl (fun (r : Mem) w => match m0.syndrome w with
        | .dross | .uncorrectable => (r.markDross (k + (w * 8 - g))).markDross (k + (w * 8 + 7 - g))
        | _ => r) m2
  let s1 := (({ s0 with mem := m1 } : Hw).bump F.FLT_DROSS_PASSED_COUNT 0 (s.mem.drossIn g fits).length).accountRun g fits
  if s1.mu.offline.isEmpty then s1
  else
    (atomsOf g (g + fits - 1)).foldl (fun s a =>
      if s.isOffline a then
        let s2 := (s.offAccess (s.position a).1 ((s.position a).2 / 8)).bump F.FLT_DROSS_PASSED_COUNT
        { s2 with mem := (s2.mem.markDross (k + (max a g - g))).markDross (k + (min (a + 127) (g + fits - 1) - g)) }
      else s) s1

/-- R59: spills a resident partition of a physical tile; one with no backing is discarded. -/
def Hw.spill (s : Hw) (p : Nat) (r : Resident) : Hw :=
  let s1 := s.modPhys p (fun x => { x with resident := x.resident.filter (fun e => e != r) })
  if r.backing = 0 || !r.filled then s1 else s1.spillRun (storeKey p (r.pbase * 4096)) r.backing (r.psize * 4096)

/-- R59: the incoming partition of a queue becomes resident: it is filled from its backing, or with zeros. -/
def Hw.partitionFilled (s : Hw) (t q : Nat) : Hw :=
  let b := (s.getQueue t q).bind
  let p := s.physOf t
  match (s.getPhys p).resident.find? (fun r => r.stream == b.stream && r.pbase == b.pbase && r.psize == b.psize && !r.filled) with
  | none => s
  | some r =>
    let k := storeKey p (r.pbase * 4096)
    let n := r.psize * 4096
    let s1 := if r.backing = 0 then { s with mem := s.mem.zeroRun k n } else s.fillRun k r.backing n
    s1.modPhys p (fun x => { x with resident := x.resident.map (fun e => if e == r then { e with filled := true } else e) })

def execPartitionFilled (tile : Fin 512) (queue : Fin 4) (s : State) : Host.Outcome State Fault Refusal :=
  s.onHw (fun h => if h.running then h.partitionFilled tile.val queue.val else h)

/-- R520: the read of a frame's backing addresses, beyond mapped GDDR7 with event 0x5051. -/
def Hw.backingRead (s : Hw) (f : Nat) : Hw :=
  let a := s.frameAddr f
  if s.capacity < a + 0x8000 then s.raiseOnce 0x5051 0 a (a >>> 32) else s

/-- R55: the backing address of a queue's partition in a frame; 0 where the frame lies beyond mapped GDDR7. -/
def Hw.backingOf (s : Hw) (f q : Nat) : Nat :=
  if s.capacity < s.frameAddr f + 0x8000 then 0 else ofBytes (s.peekRun (s.frameAddr f + 8 * q) 8) % (1 <<< 40)

/-- R59: at cycle 0 of a beat the resident partitions that give way on a tile are spilled; the incoming ones that are not resident wait
for their fill. -/
def Hw.placePartitions (s : Hw) (t : Nat) : Hw :=
  match (s.getTile t).frame with
  | none => s
  | some f =>
    let p := s.physOf t
    let qs := [0, 1, 2, 3].filter (fun q => (s.getQueue t q).bound && (s.getQueue t q).bind.psize != 0)
    let bs := qs.map (fun q => (q, (s.getQueue t q).bind))
    let same := fun (r : Resident) (b : Binding) => r.stream == b.stream && r.pbase == b.pbase && r.psize == b.psize
    let goes := fun (r : Resident) => !bs.any (fun e => same r e.2) && bs.any (fun e => r.stream == e.2.stream ||
      overlaps (r.pbase, r.pbase + r.psize - 1) (e.2.pbase, e.2.pbase + e.2.psize - 1))
    let s1 := ((s.getPhys p).resident.filter goes).foldl (fun s r => s.spill p r) s
    let new := (bs.filter (fun e => !(s1.getPhys p).resident.any (fun r => same r e.2))).map (fun e =>
      ({ stream := e.2.stream, pbase := e.2.pbase, psize := e.2.psize, backing := s1.backingOf f e.1, filled := false } : Resident))
    (if new.isEmpty then s1 else s1.backingRead f).modPhys p (fun x => { x with resident := x.resident ++ new })

/-! ### Suspension and carry (R49, R62 to R66) -/

/-- R64: commands that are suspended whatever their flag B. -/
def alwaysSplit (op : Nat) : Bool := [0x22, 0x24, 0x60, 0x52, 0x54, 0x71].contains op

/-- R63: the carry areas of a binding, as store offsets of their first byte and their lengths: the loom's in the top 44 KiB of the partition,
the Shuttle's in the 64 KiB below that, or in the top 64 KiB where there is no loom's. -/
def Binding.loomCarry (b : Binding) : Nat × Nat := ((b.pbase + b.psize) * 4096 - 0xB000, 0xB000)
def Binding.shuttleCarry (b : Binding) : Nat × Nat :=
  ((b.pbase + b.psize) * 4096 - (if b.cl then 0xB000 else 0) - 0x1_0000, 0x1_0000)

/-- R40: a unit writes its carry: how the bytes hold it is not given; they are free (DESIGN CHOICE, log 70). -/
def Hw.writeCarry (s : Hw) (t : Nat) (area : Nat × Nat) : Hw :=
  let k := storeKey (s.physOf t) area.1
  { s with mem := s.mem.setFree k (k + area.2 - 1) s.free, free := s.free + 1 }

/-- R40, R63: what the units of a suspended command write at their safe point: accumulators, exponents and checksum column of a loom, and
live merge lines of the Shuttle. -/
def Hw.carryOut (s : Hw) (t : Nat) (f : InFlight) : Hw :=
  let b := (s.getQueue t f.queue).bind
  let s1 := if b.cl && f.stage == Stage.running && f.unit.parts.any (fun p => p < 2) then s.writeCarry t b.loomCarry else s
  if b.cs && usesMerge (Com.opcode f.cmd) then s1.writeCarry t b.shuttleCarry else s1

/-- R177: what a suspended Finisher command keeps in tile state: in which pass and group it stopped, and with which sums, the model of
whole commands leaves free (DESIGN CHOICE, log 70). -/
def Hw.finHold (s : Hw) (f : InFlight) : Hw × Option (Nat × Nat × Nat) :=
  if f.unit == UnitUse.finisher then
    ({ s with free := s.free + 1 }, some ((Config.freeWord s.free).toNat % finPasses f.cmd, (Config.freeWord s.free).toNat / 4, s.free))
  else (s, none)

/-- Commands whose output blocks are released one by one: with the last of them nothing is left to suspend. -/
def byBlocks (op : Nat) : Bool := [0x10, 0x11, 0x12, 0x23].contains op

/-- R62, R64: an executing command of a queue at a safe point: it is suspended, with its carry written, or abandoned to be issued whole again;
the third slot running in which it is abandoned faults its stream. -/
def Hw.suspendOne (s : Hw) (t n : Nat) (f : InFlight) : Hw :=
  let op := Com.opcode f.cmd
  let whole := match f.stage with | .done _ => byBlocks op | _ => false
  if whole || Com.breakable f.cmd || alwaysSplit op then
    let h := (if whole then s else s.carryOut t f).finHold f
    h.1.modFlight n f.num (fun e => { e with fin := h.2, stage := match e.stage with | .done st => .held st | _ => .carried })
  else if f.abandons = 2 then (s.faultStream n 3).raise 0x1016 n (Com.tag f.cmd) { kind := 1, unit := t, stream := some n, job := some (s.jobOf n) }
  else
    (s.modFlight n f.num (fun e => { e with stage := .again, abandons := e.abandons + 1 })).modTile t (fun x => { x with
      blocks := x.blocks.filter (fun b => !(b.stream == n && b.num == f.num)) })

/-- R62, R65: a queue stops issuing: the commands that execute in units of the tile reach a safe point; link commands are suspended in the
link unit alone.  A command that stayed suspended all through the slot has not been abandoned in it. -/
def Hw.suspendQueue (s : Hw) (t q : Nat) : Hw :=
  let n := (s.getQueue t q).bind.stream
  let fl := (s.ctxOn t n).flight.filter (fun f => f.tile == t && f.queue == q && f.unit.inTile)
  let s1 := (fl.filter (fun f => f.stage.away)).foldl (fun s f => s.modFlight n f.num (fun e => { e with abandons := 0 })) s
  (fl.filter (fun f => !f.stage.away && f.stage != Stage.completed)).foldl (fun s f => s.suspendOne t n f) s1

/-- R66: the stream has work that is not complete at the end of its slot. -/
def Hw.carriesWork (s : Hw) (t n : Nat) : Bool :=
  let c := s.ctxOn t n
  s.depth n != 0 || c.flight.any (fun f => f.stage != Stage.completed) || !c.stack.isEmpty ||
  (match c.pos with | .ring _ => false | .slot _ _ _ => true)

/-- R66: a slot of the stream bound to a queue ends; one ended by YIELD does not count. -/
def Hw.endSlot (s : Hw) (t q : Nat) : Hw :=
  let v := s.getQueue t q
  let n := v.bind.stream
  let k := (s.getStream n).carriedRun + 1
  if v.yielded || !s.carriesWork t n then s.modStream n (fun x => { x with carriedRun := 0 })
  else
    let s1 := (s.bump F.BEAT_OVERRUN_CARRIES n).modStream n (fun x => { x with carriedRun := k })
    let run := s.fget F.BEAT_CARRY_EVT_RUN
    if run ≠ 0 && k % run = 0 then s1.raise 0x1010 n k { kind := 1, unit := t, stream := some n, job := some (s.jobOf n) } else s1

/-- R49: a queue's budget has run out. -/
def Hw.budgetOut (s : Hw) (t q : Nat) : Hw :=
  let v := s.getQueue t q
  if s.running && v.bound && !v.spent && v.bind.budget ≠ 0 && decide (v.bind.budget * 64 ≤ s.beat.cycle) && decide ((s.beat.cycle : Int) < s.windowEnd) then
    (((s.suspendQueue t q).endSlot t q).modQueue t q (fun v => { v with spent := true, why := 5 }))
  else s

def execBudgetExhausted (tile : Fin 512) (queue : Fin 4) (s : State) : Host.Outcome State Fault Refusal :=
  s.onHw (fun h => h.budgetOut tile.val queue.val)

/-! ### Beat groups (R67 to R73) -/

/-- R363: a marker of this module's group. -/
def Hw.markerRec (s : Hw) (master beat : Nat) : BitVec 128 :=
  BitVec.ofNat 128 (1 + (s.fget F.BEAT_GROUP_GROUP_ID <<< 8) + ((master % 4096) <<< 24) + (s.fget F.BEAT_LEN_LOG2 <<< 40) + ((beat % (1 <<< 64)) <<< 64))

/-- A phase taken modulo the beat, to the nearest. -/
def wrapPhase (len : Nat) (e : Int) : Int :=
  let r := e % len
  if (len : Int) < 2 * r then r - len else r

/-- R68: the phase error of a marker that arrives now: own edge less upstream edge. -/
def Hw.phaseError (s : Hw) (l offset : Nat) : Int :=
  wrapPhase s.beatLen ((s.delayCycles (s.fget F.LNK_DELAY_CYCLES l) : Int) + offset - s.beat.cycle)

/-- The hops from the master: 1 behind it, else free within the field's 2 to 8 (DESIGN CHOICE, log 53). -/
def Hw.depthFrom (s : Hw) (l master : Nat) : Hw :=
  if s.flag F.LNK_LSTATE_PEER_VALID l && s.fget F.LNK_LSTATE_PEER l = master then s.fset F.BEAT_GROUP_DEPTH 1
  else if 2 ≤ s.fget F.BEAT_GROUP_DEPTH then s
  else ({ s with free := s.free + 1 } : Hw).fset F.BEAT_GROUP_DEPTH (2 + (Config.freeWord s.free).toNat % 7)

/-- R73: a master that the backup has succeeded joins as a member: it leaves its own beat and rejoins by trim (R72). -/
def Hw.stepDown (s : Hw) : Hw :=
  ((s.modBeat (fun b => { b with outside := true, rejoining := true })).fset F.BEAT_STATUS_MASTER 0).fset F.BEAT_STATUS_GROUPED 0

/-- R67 to R73: a beat marker arrives.  One of another group or length is ignored with event 0x1044, and so, without one, is a marker of a module
that is neither the master nor the backup.  The module takes markers from
its primary link, or from the secondary when R71 says so, or from either before it has joined and outside the group.  The first marker of a
first join starts the beat at the upstream edge. DEDUCED, log 37. -/
def Hw.beatMarker (s0 : Hw) (l group master log2 offset beat : Nat) : Hw :=
  let s := s0.takeRecord l 0x01
  if !s.running then s
  else if s.fget F.BEAT_GROUP_GROUP_ID = 0xFFF || group ≠ s.fget F.BEAT_GROUP_GROUP_ID || log2 ≠ s.fget F.BEAT_LEN_LOG2 then s.raise 0x1044 l group { kind := 3, unit := l }
  else
    let prim := l == s.fget F.BEAT_UPLINK_PRIMARY
    let sec := l == s.fget F.BEAT_UPLINK_SECONDARY
    let down := s.flag F.BEAT_STATUS_MASTER && s.me == s.beat.master && master == s.beat.backup && master != s.me
    if (s.flag F.BEAT_STATUS_MASTER && !down) || !(prim || sec) || !(master == s.beat.master || master == s.beat.backup) then s
    else
      let s1 := (if down then s.stepDown else s).modBeat (fun b => { b with gotPrimary := b.gotPrimary || prim, gotAny := true, gotMaster := b.gotMaster || master == s.fget F.BEAT_GROUP_MASTER })
      let s2 := if prim && s1.flag F.BEAT_UPLINK_ON_SECONDARY then s1.fset F.BEAT_UPLINK_ON_SECONDARY 0 else s1
      let taken := prim || s2.flag F.BEAT_UPLINK_ON_SECONDARY || !s2.flag F.BEAT_STATUS_GROUPED
      if !taken then s2
      else
        let s3 := (s2.modBeat (fun b => { b with
          phase := some (s.phaseError l offset), marker := some (beat, master, l), gotMaster := true,
          cycle := if b.joining && b.marker.isNone then min (s.delayCycles (s.fget F.LNK_DELAY_CYCLES l) + offset) s.windowEnd.toNat else b.cycle,
          rejoining := b.rejoining || b.outside })).fset F.BEAT_GROUP_MASTER master
        let s4 := s3.depthFrom l master
        if s4.level = 2 && s4.flag F.BEAT_STATUS_GROUPED then
          (s4.admittedLinks.filter (fun k => k != s4.fget F.BEAT_UPLINK_PRIMARY && k != s4.fget F.BEAT_UPLINK_SECONDARY)).foldl
            (fun s k => s.sendRecord k (s.markerRec master beat)) s4
        else s4

def execBeatMarker (link : Fin 64) (group master : BitVec 12) (log2 : BitVec 5) (offset : BitVec 16) (beat : BitVec 64) (s : State) :
    Host.Outcome State Fault Refusal :=
  s.onHw (fun h => h.beatMarker link.val group.toNat master.toNat log2.toNat offset.toNat beat.toNat)

/-- A member of a beat group that follows its markers. -/
def Hw.follows (s : Hw) : Bool := s.running && s.flag F.BEAT_STATUS_GROUPED && !s.flag F.BEAT_STATUS_MASTER

/-- R71: 4 consecutive beats without a marker on the primary link. -/
def Hw.primaryLoss (s : Hw) : Hw :=
  if s.follows && !s.flag F.BEAT_UPLINK_ON_SECONDARY && 4 ≤ s.beat.missPrimary then
    (s.fset F.BEAT_UPLINK_ON_SECONDARY 1).raise 0x1042 (s.fget F.BEAT_UPLINK_SECONDARY) 0 beatWho
  else s

def execMarkerPrimaryLoss (s : State) : Host.Outcome State Fault Refusal := s.onHw Hw.primaryLoss

/-- R71: `BEAT.HOLDOVER` beats without a marker on either link: the module leaves its group. -/
def Hw.leaveGroup (s : Hw) : Hw :=
  if s.follows && decide (s.fget F.BEAT_HOLDOVER_BEATS ≤ s.beat.missAny) then
    (((s.modBeat (fun b => { b with outside := true, rejoining := false, phase := none })).fset F.BEAT_STATUS_GROUPED 0).fset
      F.BEAT_STATUS_HOLDOVER 0).raise 0x1041 s.beatNo 0 beatWho
  else s

def execLeaveBeatGroup (s : State) : Host.Outcome State Fault Refusal := s.onHw Hw.leaveGroup

/-- The module becomes the master of its group (R73, R469). -/
def Hw.becomeMaster (s : Hw) : Hw :=
  ((((s.modBeat (fun b => { b with joining := false, rejoining := false, outside := false, phase := none })).fset F.BEAT_STATUS_MASTER 1).fset
    F.BEAT_STATUS_GROUPED 1).fset F.BEAT_STATUS_HOLDOVER 0).fset F.BEAT_GROUP_MASTER s.me |>.fset F.BEAT_GROUP_DEPTH 0

/-- R73: 8 consecutive beats without a marker from the master: the backup master takes over. -/
def Hw.takeOver (s : Hw) : Hw :=
  if s.follows && s.beat.backup == s.me && 8 ≤ s.beat.missMaster then s.becomeMaster.raise 0x1043 s.beatNo s.me beatWho else s

def execBackupMasterTakeover (s : State) : Host.Outcome State Fault Refusal := s.onHw Hw.takeOver

end Sys2Proof.Machine
end

