-- ==== Sys2Proof/Machine/Routine.lean ====
section
/-!
DEFINITION. The routine store (R257 to R259): loads, their arrival, held loads and installation.
-/
namespace Sys2Proof.Machine

/-- The slot a position lies in. -/
def Pos.slot? : Pos → Option Nat
  | .ring _ => none
  | .slot k _ _ => some k

/-- R258: a queue of the tile is inside a slot: it executes or fetches from it, or its stack holds a return position in it. -/
def Hw.inside (s : Hw) (t k : Nat) : Bool :=
  (List.range 4).any (fun q =>
    let v := s.getQueue t q
    let c := s.ctxOn t v.bind.stream
    v.bound && (c.pos.slot? == some k || c.stack.any (fun p => p.slot? == some k)))

/-- R257: the commands of an image of 1 KiB. -/
def imageWords : Nat → List Byte → List Record64
  | 0, _ => []
  | n + 1, bs => BitVec.ofNat 512 (ofBytes (bs.take 64)) :: imageWords n (bs.drop 64)

/-- R257, R258: installs an image in a slot of a tile: the generation counts it, event 0xB040. -/
def Hw.installRoutine (s : Hw) (t : Nat) (r : RtnLoad) : Hw :=
  let p := s.physOf t
  let x := s.getPhys p
  let idx := List.range 16
  let rtn := idx.foldl (fun m i => Sparse.put 0 m (r.slot * 16 + i) (nth 0 r.words i)) x.rtn
  let dr := idx.foldl (fun m i => Sparse.put 0 m (r.slot * 16 + i) (nth 0 r.dross i)) x.rtnDross
  let s1 := s.setPhys p { x with
    rtn := rtn, rtnDross := dr, rid := Sparse.put 0 x.rid r.slot r.rid,
    gen := Sparse.put 0 x.gen r.slot ((Sparse.get 0 x.gen r.slot + 1) % 0x1_0000) }
  s1.raise 0xB040 t (pack2 r.slot r.rid) { kind := 1, unit := t }

/-- R259: the outcome of a load: `TILE.RTN_LOAD_CTL` or, for a broadcast, its GO once no tile has a load outstanding. -/
def Hw.loadResult (s : Hw) (t : Nat) (bcast : Bool) (result : Nat) : Hw :=
  if bcast then
    if s.phys.any (fun e => e.2.loads.any (·.bcast)) then s else s.fset F.STRM_RTN_BCAST_CTL_GO 0
  else (s.fset F.TILE_RTN_LOAD_CTL_RESULT result t).fset F.TILE_RTN_LOAD_CTL_GO 0 t

/-- R258: a load starts through the tile's registers. -/
def Hw.routineLoad (s : Hw) (t : Nat) : Hw :=
  if !s.regsLive || s.flag F.TILE_RTN_LOAD_CTL_GO t then s
  else
    let r : RtnLoad :=
      { slot := s.fget F.TILE_RTN_LOAD_SLOT_SLOT t, rid := s.fget F.TILE_RTN_LOAD_SLOT_RID t,
        src := s.rd64 .TILE_RTN_LOAD_SRC_LO .TILE_RTN_LOAD_SRC_HI t % (1 <<< 40), bcast := false, words := [], dross := [] }
    ((s.fset F.TILE_RTN_LOAD_CTL_GO 1 t).fset F.TILE_RTN_LOAD_CTL_RESULT 0 t).modPhys (s.physOf t) (fun x => { x with loads := x.loads ++ [r] })

def execRoutineLoad (tile : Fin 512) (s : State) : Host.Outcome State Fault Refusal := s.onHw (fun h => h.routineLoad tile.val)

/-- R258: a load of one slot starts on every admitted tile. -/
def Hw.routineBcast (s : Hw) : Hw :=
  if !s.regsLive || s.flag F.STRM_RTN_BCAST_CTL_GO then s
  else
    let r : RtnLoad :=
      { slot := s.fget F.STRM_RTN_BCAST_SLOT_SLOT, rid := s.fget F.STRM_RTN_BCAST_SLOT_RID,
        src := s.rd64 .STRM_RTN_BCAST_SRC_LO .STRM_RTN_BCAST_SRC_HI % (1 <<< 40), bcast := true, words := [], dross := [] }
    let ts := (List.range 512).filter s.admitted
    if ts.isEmpty then s
    else ts.foldl (fun s t => s.modPhys (s.physOf t) (fun x => { x with loads := x.loads ++ [r] })) (s.fset F.STRM_RTN_BCAST_CTL_GO 1)

def execRoutineBcastLoad (s : State) : Host.Outcome State Fault Refusal := s.onHw Hw.routineBcast

/-- R258, R259: an image reaches a tile: it is installed at once, held, put in place of a held one, or refused. -/
def Hw.imageIn (s : Hw) (t : Nat) (r : RtnLoad) : Hw :=
  let p := s.physOf t
  let x := s.getPhys p
  let others := x.held.filter (fun h => h.slot != r.slot)
  let replaces := decide (others.length < x.held.length)
  let told := fun (h : Hw) => if replaces then h.raise 0xB041 t r.slot { kind := 1, unit := t } else h
  if !s.inside t r.slot then
    ((told (s.setPhys p { x with held := others })).installRoutine t r).loadResult t r.bcast 1
  else if replaces then (told (s.setPhys p { x with held := others ++ [r] })).loadResult t r.bcast 2
  else if 4 ≤ x.held.length then (s.raise 0xB042 t r.slot { kind := 1, unit := t }).loadResult t r.bcast 3
  else (s.setPhys p { x with held := x.held ++ [r] }).loadResult t r.bcast 2

/-- R307: how the words of an image of 1 KiB stand in GDDR7, command by command: 1 in a dross atom or an offlined line (R353), n + 1 with n
uncorrectable words. -/
def Hw.imageCodes (s : Hw) (a : Nat) : List Nat :=
  (List.range 16).map (fun j =>
    let lo := a + 64 * j
    if s.drossAt lo then 1
    else
      let n := ((s.errorWords lo (lo + 63)).filter (fun w => s.mem.syndrome w == .uncorrectable && s.wordAddr { lo := lo, hi := lo + 63 } w / 64 * 64 == lo)).length
      if n = 0 then 0 else n + 1)

/-- R258, R307, R340, R520: an image arrives from GDDR7, with its check bits as they are. -/
def Hw.routineArrived (s : Hw) (t i : Nat) : Hw :=
  let p := s.physOf t
  match (s.getPhys p).loads[i]? with
  | none => s
  | some r0 =>
    let f := s.fetchGddr r0.src 1024
    let words := imageWords 16 (if f.2.2.isSome then List.replicate 1024 0 else f.2.1)
    let codes := if f.2.2.isSome then [] else f.1.imageCodes r0.src
    let off := if f.2.2.isSome || s.mu.offline.isEmpty then [] else (atomsOf r0.src (r0.src + 1023)).filter s.isOffline
    let s1 := if f.2.2.isSome then f.1 else f.1.accountRun r0.src 1024
    let s2 := off.foldl (fun s a => s.offAccess (s.position a).1 ((s.position a).2 / 8)) s1
    (s2.modPhys p (fun x => { x with loads := x.loads.eraseIdx i })).imageIn t { r0 with words := words, dross := codes }

def execRoutineImageArrived (tile : Fin 512) (index : BitVec 8) (s : State) : Host.Outcome State Fault Refusal :=
  s.onHw (fun h => h.routineArrived tile.val index.toNat)

/-- R258: step 6 of the edge window on a tile: held loads of slots no queue is inside are installed. -/
def Hw.admitRoutines (s : Hw) (t : Nat) : Hw :=
  let p := s.physOf t
  ((s.getPhys p).held.filter (fun r => !s.inside t r.slot)).foldl (fun s r =>
    (s.modPhys p (fun x => { x with held := x.held.filter (fun h => h.slot != r.slot) })).installRoutine t r) s

end Sys2Proof.Machine
end

