-- ==== Sys2Proof/Machine/Image.lean ====
section
/-!
DEFINITION. The Burkarok container (R433 to R438), its check (R439), and the cast of its sections (R436, R437, R443, R449, R450).  A
container is read through a function from its byte offsets, which stands for the flash or for the staging area.
-/
namespace Sys2Proof.Machine

/-- A container's source. -/
abbrev Src := Nat → Byte

namespace Src
def num (g : Src) (o n : Nat) : Nat := ofBytes ((List.range n).map (fun i => g (o + i)))
def bytes (g : Src) (o n : Nat) : List Byte := (List.range n).map (fun i => g (o + i))
/-- The first byte of a stretch that is not zero. -/
def firstNonzero (g : Src) (o n : Nat) : Option Nat := ((List.range n).find? (fun i => g (o + i) != 0)).map (o + ·)

/-! ### Header and section table (R433, R434) -/

def count (g : Src) : Nat := g.num 6 2
def len (g : Src) : Nat := g.num 8 4
def svn (g : Src) : Nat := g.num 12 4
def gen (g : Src) : Nat := g.num 16 4
/-- A pattern container. -/
def patterns (g : Src) : Bool := bit (g.num 20 4) 0
end Src

/-- A section: its place in the table, TYPE, OFFSET and LEN. -/
structure Sect where
  at_ : Nat
  type : Nat
  off : Nat
  len : Nat
  deriving DecidableEq, Repr

namespace Src
def sects (g : Src) : List Sect :=
  (List.range (min 16 g.count)).map (fun i => let o := 64 + 16 * i; { at_ := o, type := g.num o 1, off := g.num (o + 4) 4, len := g.num (o + 8) 4 })
def sectOf (g : Src) (type : Nat) : Option Sect := g.sects.find? (fun e => e.type == type)
end Src

/-- Numbers of the sections of a container (R434). -/
def sectTypes : List Nat := [1, 2, 3, 4, 5, 6, 7, 8, 9, 10, 11, 15]

/-! ### The check of R439 -/

/-- Check 1: the first failing byte of the header. -/
def headerFail (g : Src) : Option Nat :=
  if g.bytes 0 4 ≠ [0x42, 0x52, 0x4B, 0x31] then some 0
  else if g.num 4 2 ≠ 1 then some 4
  else if g.len < 512 || 16_777_216 < g.len then some 8
  else none

/-- Check 2, R435: the failing bytes of one section table entry, after the entries before it. -/
def entryFails (g : Src) (before : List Sect) (e : Sect) (last : Bool) : List Nat :=
  let stop := before.foldl (fun a x => max a (x.off + x.len)) 512
  (if !sectTypes.contains e.type || before.any (fun x => x.type == e.type) then [e.at_] else []) ++
  (g.firstNonzero (e.at_ + 1) 3).toList ++
  (if e.off % 256 ≠ 0 || e.off < stop then [e.at_ + 4] else []) ++
  (if g.len < e.off + e.len then [e.at_ + 8] else []) ++
  (if (e.type = 15 && (!last || e.off + e.len ≠ g.len || e.len ≠ 5280)) || (e.type = 10 && e.len ≠ 8192) then [e.at_ + 8] else []) ++
  (if last && e.type ≠ 15 then [e.at_] else []) ++
  (g.firstNonzero (e.at_ + 12) 4).toList ++
  (if g.patterns && e.type ≠ 9 && e.type ≠ 15 then [e.at_] else [])

/-- The reserved fields of the signature section (R438). -/
def sigFails (g : Src) (o : Nat) : List Nat :=
  (if 4 ≤ (g o).toNat then [o] else []) ++ (g.firstNonzero (o + 1) 15).toList ++ (g.firstNonzero (o + 5277) 3).toList

/-- The entries with those before each, and whether it is the last. -/
def withBefore (l : List Sect) : List (List Sect × Sect × Bool) :=
  (List.range l.length).filterMap (fun i => l[i]?.map (fun e => (l.take i, e, i + 1 == l.length)))

/-- Check 2, R435: the first failing byte of the layout; for a section that is missing, none names a field. -/
def layoutFail (g : Src) : Option (Option Nat) :=
  let es := g.sects
  let fails := (if g.count = 0 || 16 < g.count then [6] else []) ++ (if g.num 20 4 ≠ 0 && g.num 20 4 ≠ 1 then [20] else []) ++
    (g.firstNonzero 32 32).toList ++ (g.firstNonzero (64 + 16 * min 16 g.count) (256 - 16 * min 16 g.count)).toList ++
    (g.firstNonzero 320 192).toList ++ (withBefore es).flatMap (fun p => entryFails g p.1 p.2.1 p.2.2) ++
    (match g.sectOf 15 with | some e => if e.len = 5280 then sigFails g e.off else [] | none => [])
  let need := if g.patterns then [9, 15] else [1, 3, 15]
  match fails.foldl (fun (a : Option Nat) x => match a with | none => some x | some y => some (min x y)) none with
  | some o => some (some o)
  | none => if need.any (fun t => (g.sectOf t).isNone) then some none else none

/-- The key digest of a signer slot. -/
def Fuses.digest (fu : Fuses) (k : Nat) : Nat := (match k with | 0 => fu.slot0 | 1 => fu.slot1 | 2 => fu.slot2 | _ => fu.slot3).toNat

/-- R440, R441: a signer slot is programmed and not revoked. -/
def Fuses.usable (fu : Fuses) (k : Nat) : Bool := bit fu.programmed.toNat k && !bit fu.revoked.toNat k

/-- The context strings of R437, R438, R441 and R454: "HER-BRK-" and three letters. -/
def context (a b c : Nat) : List Byte := [72, 69, 82, 45, 66, 82, 75, 45, BitVec.ofNat 8 a, BitVec.ofNat 8 b, BitVec.ofNat 8 c]

/-- R438: the image digest: SHAKE256 of 64 bytes over what lies before the signature, with the certificate read as zeros. -/
def imageDigest (g : Src) : List Byte :=
  match g.sectOf 15 with
  | none => []
  | some e =>
    let c := g.sectOf 10
    Config.shake256 ((List.range e.off).map (fun i => match c with
      | some x => if x.off ≤ i && i < x.off + x.len then 0 else g i
      | none => g i)) 64

/-- Check 3: the first failing byte of the signer. -/
def signerFail (fu : Fuses) (g : Src) (o : Nat) : Option Nat :=
  let k := (g o).toNat % 4
  if !fu.usable k then some o
  else if ofBytes (Config.shake256 (g.bytes (o + 16) 1952) 32) ≠ fu.digest k then some (o + 16)
  else none

/-- Check 4. -/
def signatureFail (g : Src) (o : Nat) : Option Nat :=
  if Config.mldsaVerify (g.bytes (o + 16) 1952) (imageDigest g) (context 73 77 71) (g.bytes (o + 1968) 3309) then none else some (o + 1968)

/-! ### Register records (R436) -/

/-- The section that casts a register's P fields (the names in brackets in the register tables). -/
def castSect (r : Reg) : Nat :=
  match r with
  | .MEM_RATE | .MEM_SCRUB_RATE | .MEM_RETRAIN_THR | .MEM_REPLAY_MAX | .MEM_PAGE_CE_LIMIT => 2
  | .LNK_MODULE | .LNK_RETRAIN_THR | .LNK_RETRY | .LNK_COLL_LIMIT | .LNK_CTL | .LNK_RT_MASK_LO | .LNK_RT_MASK_HI
  | .LNK_RT_ALT_LO | .LNK_RT_ALT_HI | .TWIN_LINKS_LO | .TWIN_LINKS_HI | .TWIN_LOSS => 3
  | .BEAT_LEN | .BEAT_GROUP | .BEAT_UPLINK | .BEAT_HOLDOVER | .BEAT_CARRY_EVT | .STRM_WAIT_LIMIT => 4
  | .NUM_RATIO_LO | .NUM_RATIO_HI | .NUM_STARVE_LIMIT | .NUM_WATCH_CTL | .SHTL_PATH_THR | .SHTL_SPLIT_THR => 5
  | .UPD_MODE | .UPD_COMMIT_TIMEOUT => 6
  | .FLT_ABFT_TOL | .FLT_ASSAY_PERIOD | .FLT_OBS | .FLT_TRANSIENT_LIMIT | .FLT_CE_LIMIT | .FLT_DRAIN_LIMIT | .PAT_LOG_MASK
  | .TST_PERMIT => 7
  | .PWR_CAP | .PWR_DUTY_MIN => 8
  | _ => 0

/-- The selector registers (names that end in _SEL) with the block each lies in: its BAR0 offset over 64 KiB, or for a tile register its
offset over 4 KiB. -/
def selectors : List Reg :=
  [.BEAT_OVR_SEL, .NUM_ARITH_SEL, .NUM_PATH_SEL, .STRM_GLATCH_SEL, .UPD_JOB_SEL, .FLT_REMAP_SEL, .FLT_UNIT_SEL,
   .MEM_CH_SEL, .MEM_PAGE_PROP_SEL, .MEM_OFF_SEL, .LNK_RT_SEL, .TST_PERT_SEL]

/-- The block of a register. -/
def Reg.block (r : Reg) : Nat := match r.spec.space with | .tile => 0x100_0000 + r.spec.off / 0x1000 | _ => r.spec.off / 0x1_0000

/-- A register is a selector in a block that the section casts. -/
def selectorFor (sect : Nat) (r : Reg) : Bool :=
  selectors.contains r && Reg.all.any (fun x => castSect x == sect && x.block == r.block)

/-- The range that a field's register table gives its values. -/
def fieldRange (r : Reg) (lo : Nat) : Option (Nat × Nat) :=
  match r, lo with
  | .BEAT_LEN, _ => some (12, 22)
  | .FLT_ABFT_TOL, _ => some (1, 255)
  | .FLT_ASSAY_PERIOD, _ => some (16, 255)
  | .FLT_OBS, 16 => some (1, 15)
  | .MEM_RATE, _ => some (28, 40)
  | .MEM_REPLAY_MAX, _ => some (1, 7)
  | .MEM_CH_SEL, _ => some (0, 39)
  | .MEM_OFF_SEL, _ => some (0, 10_239)
  | .FLT_UNIT_SEL, 0 => some (0, 2)
  | .LNK_RETRY, _ => some (100, 60_000)
  | .LNK_COLL_LIMIT, 8 => some (1, 255)
  | .TWIN_LOSS, _ => some (1, 255)
  | .PWR_CAP, _ => some (1500, 4200)
  | .PWR_DUTY_MIN, _ => some (16, 256)
  | _, _ => none

def inRange (r : Reg) (lo v : Nat) : Bool := match fieldRange r lo with | some (a, b) => a ≤ v && v ≤ b | none => true

/-- R331: the index of `FLT.UNIT_SEL` names a unit of its kind. -/
def unitNamed (r : Reg) (v : Nat) : Bool :=
  r != .FLT_UNIT_SEL || decide (bits v 8 10 < (match bits v 0 2 with | 0 => 576 | 1 => 40 | _ => 64))

/-- A register record: offset, ALL_TILES, value. -/
abbrev CastRec := Nat × Bool × Nat

/-- The records of a section. -/
def Src.records (g : Src) (e : Sect) : List CastRec :=
  (List.range (e.len / 8)).map (fun i => let v := g.num (e.off + 8 * i) 8; (bits v 0 28, bit v 28, bits v 32 32))

/-- The failing byte of a record of a section, from its start. -/
def recordFail (sect : Nat) (v : Nat) : Option Nat :=
  let o := bits v 0 28
  match regAt o with
  | none => some 0
  | some a =>
    let isSel := selectorFor sect a.reg
    if !isSel && castSect a.reg ≠ sect then some 0
    else if bit v 28 && !(tileWindow ≤ o && o < tileWindow + tileWindowSize) then some 0
    else if bits v 29 3 ≠ 0 then some 3
    else if unitNamed a.reg (bits v 32 32) && (a.reg.spec.fields.filter (fun f => isSel || f.kind == ResetKind.cast)).all (fun f => inRange a.reg f.lo (bits v (32 + f.lo) f.width)) then none
    else some 4

/-! ### Section bodies (R437, check 6) -/

/-- The fleet patterns of a set of n, from a byte of the body: their offsets, and where they end. -/
def patternOffsets (g : Src) : Nat → Nat → List Nat × Nat
  | 0, a => ([], a)
  | k + 1, a =>
    let r := patternOffsets g k (a + 64 * (1 + g.num (a + 2) 1 + g.num (a + 3) 1))
    (a :: r.1, r.2)

/-- R315, R437: the failing bytes of an ASSAY section. -/
def assayFails (g : Src) (e : Sect) : List Nat :=
  let n := g.num e.off 4
  if n = 0 || 32 < n then [e.off]
  else
    let r := patternOffsets g n (e.off + 8)
    (g.firstNonzero (e.off + 4) 4).toList ++
    r.1.flatMap (fun a =>
      (if 16 < g.num (a + 2) 1 then [a + 2] else []) ++ (if g.num (a + 3) 1 = 0 || 64 < g.num (a + 3) 1 then [a + 3] else []) ++
      (if g.num (a + 4) 4 = 0 || 16_384 < g.num (a + 4) 4 then [a + 4] else []) ++ (g.firstNonzero (a + 24) 40).toList) ++
    (if e.off + e.len < r.2 then [e.at_ + 8] else []) ++
    (if 16_384 < r.1.foldl (fun c a => c + g.num (a + 4) 4) 0 then [e.off + 12] else [])

/-- R437: the failing bytes of a ROUTINE section. -/
def routineFails (g : Src) (e : Sect) : List Nat :=
  let n := e.len / 1032
  let slot := fun (i : Nat) => g.num (e.off + 1032 * i) 1
  (if e.len % 1032 ≠ 0 || 64 < n then [e.at_ + 8] else []) ++
  (List.range n).flatMap (fun i =>
    let a := e.off + 1032 * i
    (if 64 ≤ slot i || (List.range i).any (fun j => slot j == slot i) then [a] else []) ++ (g.firstNonzero (a + 1) 1).toList ++
    (if g.num (a + 2) 2 = 0 then [a + 2] else []) ++ (g.firstNonzero (a + 4) 4).toList)

/-- Check 6: the failing bytes of a section. -/
def bodyFails (fu : Fuses) (g : Src) (e : Sect) : List Nat :=
  match e.type with
  | 1 => (if e.len < 256 || 4096 < e.len then [e.at_ + 8] else []) ++ (if g.num e.off 1 ≠ fu.stepping % 256 then [e.off] else [])
  | 9 => assayFails g e
  | 10 | 15 => []
  | 11 => routineFails g e
  | t =>
    (if e.len % 8 ≠ 0 || 65_536 * 8 < e.len then [e.at_ + 8] else []) ++
    (List.range (e.len / 8)).filterMap (fun i => (recordFail t (g.num (e.off + 8 * i) 8)).map (fun k => e.off + 8 * i + k))

/-- R439: the reason a container fails and the first failing byte; the byte is none where the failure names no field. -/
def containerFail (fu : Fuses) (g : Src) : Option (Nat × Option Nat) :=
  match headerFail g with
  | some o => some (1, some o)
  | none =>
    match layoutFail g with
    | some o => some (2, o)
    | none =>
      match g.sectOf 15 with
      | none => some (2, none)
      | some e =>
        match signerFail fu g e.off with
        | some o => some (3, some o)
        | none =>
          match signatureFail g e.off with
          | some o => some (4, some o)
          | none =>
            if g.svn < fu.floor then some (5, some 12)
            else ((g.sects.flatMap (bodyFails fu g)).foldl (fun (a : Option Nat) x => match a with | none => some x | some y => some (min x y)) none).map
              (fun o => (6, some o))

/-! ### The device and its certificate (R444, R452) -/

/-- A string of exactly n bytes, as the standards fix its length. -/
def fixLen (n : Nat) (l : List Byte) : List Byte := (l ++ List.replicate n 0).take n

/-- R452: the device's public key, 1,952 bytes, and identifier, 32 bytes. -/
def Fuses.publicKey (fu : Fuses) : List Byte := fixLen 1952 (Config.mldsaPublicKey fu.seed)
def Fuses.deviceId (fu : Fuses) : List Byte := fixLen 32 (Config.shake256 fu.publicKey 32)

/-- R444: why a certificate, as 8,192 bytes at an offset, is not held; 0 where it is. -/
def certReason (fu : Fuses) (g : Src) (o : Nat) : Nat :=
  let k := (g (o + 4)).toNat
  if g.bytes o 4 ≠ [0x42, 0x52, 0x43, 0x31] || g.bytes (o + 8) 32 ≠ fu.deviceId then 2
  else if 2 ≤ k || !fu.usable k || ofBytes (Config.shake256 (g.bytes (o + 64) 1952) 32) ≠ fu.digest k then 3
  else if Config.mldsaVerify (g.bytes (o + 64) 1952) (Config.shake256 (g.bytes o 2016) 64) (context 67 82 84) (g.bytes (o + 2016) 3309) then 0
  else 4

/-! ### Casting (R436, R450) -/

/-- R436: one record of a section writes the P fields of its register, or moves the cast's own selection. -/
def Hw.castRec (s : Hw) (r : CastRec) : Hw :=
  match regAt r.1 with
  | none => s
  | some a =>
    let units := if r.2.1 then List.range 512 else [s.unitFor a]
    let fields := a.reg.spec.fields.filter (fun f => selectors.contains a.reg || f.kind == ResetKind.cast)
    units.foldl (fun s u => fields.foldl (fun s f => s.fset ⟨a.reg, f.lo, f.width⟩ (bits r.2.2 f.lo f.width) u) s) s

/-- R499: FLOOR follows the duty in force and `PWR.DUTY_MIN`. -/
def Hw.floorBit (s : Hw) : Hw := s.fflag F.PWR_STATUS_FLOOR (s.fget F.PWR_STATUS_DUTY == s.fget F.PWR_DUTY_MIN_DUTY)

/-- R436: the records of a section apply in order, from the selections at reset; the selectors that software reads stay as they are. -/
def Hw.castRecords (s : Hw) (rs : List CastRec) : Hw :=
  let s1 := selectors.foldl (fun s r => s.wr r 0 (r.resetAt 0)) s
  let s2 := (rs.foldl Hw.castRec s1).floorBit
  selectors.foldl (fun h r => h.wr r 0 (s.rd r 0)) s2

/-- The bytes of a stretch that are not zero, from offset 0. -/
def sparseOf (bs : List Byte) : Sparse Byte := (runCells 0 bs).filter (fun e => e.2 != 0)

/-- R315, R331: a fleet pattern set takes effect. -/
def Hw.installPatterns (s : Hw) (body : Sparse Byte) (count : Nat) : Hw :=
  ((({ s with flt := { s.flt with patterns := body, nextPatterns := none } } : Hw).fset F.FLT_ASSAY_SET_GEN
    ((s.fget F.FLT_ASSAY_SET_GEN + 1) % 0x1_0000)).fset F.FLT_ASSAY_SET_COUNT count)

/-- R437: the entries of a ROUTINE section: slot, RID, image. -/
def Src.routines (g : Src) (e : Sect) : List RtnLoad :=
  (List.range (e.len / 1032)).map (fun i =>
    let a := e.off + 1032 * i
    { slot := g.num a 1 % 64, rid := g.num (a + 2) 2, src := 0, bcast := true, words := imageWords 16 (g.bytes (a + 8) 1024),
      dross := [] })

/-- R344, R449: a re-cast of MEM retrains every channel; one whose rate it changes takes the new rate as it retrains. -/
def Hw.deferRates (old s : Hw) : Hw :=
  if !s.pat.recastTypes.contains 2 then s
  else (List.range 40).foldl (fun h c =>
    let r := s.fget F.MEM_RATE_GBPS c
    let was := old.fget F.MEM_RATE_GBPS c
    let h1 := if r = was then h else h.fset F.MEM_RATE_GBPS was c
    if (s.getChan c).st == .in_ then h1.modChan c (fun x => { x with newRate := if r = was then none else some r, due := some 1 })
    else if r = was then h1 else h1.modChan c (fun x => { x with newRate := some r })) s

/-- R449: bits of `TWIN.LINKS` that a re-cast changes for admitted links wait for their next training. -/
def Hw.deferTwin (old s : Hw) : Hw :=
  let a := old.rd64 .TWIN_LINKS_LO .TWIN_LINKS_HI
  let b := s.rd64 .TWIN_LINKS_LO .TWIN_LINKS_HI
  if a = b then s
  else s.admittedLinks.foldl (fun h l =>
    if bit a l = bit b l then h
    else (h.wr64 .TWIN_LINKS_LO .TWIN_LINKS_HI (setBits (h.rd64 .TWIN_LINKS_LO .TWIN_LINKS_HI) l 1 (one (bit a l)))).modLink l
      (fun x => { x with newTwin := some (bit b l) })) s

/-- R297: a round is open on the module, or a layer is pending or awaits its write, so `UPD.MODE` does not change. DEDUCED, log 30. -/
def Hw.modeLocked (s : Hw) : Bool := (s.jobs.map (·.1)).any s.roundOpen || s.layers.any (fun e => e.2.pending || e.2.awaitWrite)

/-- R450: the records that wait take effect together. -/
def Hw.recastRecords (s : Hw) : Hw :=
  let ofMode := fun (r : CastRec) => (regAt r.1).any (fun a => a.reg == Reg.UPD_MODE)
  let rs := s.pat.recast.map (fun e => ((e.1, e.2.1, e.2.2.1) : CastRec))
  if rs.isEmpty then s
  else if s.modeLocked then
    let h := (s.deferTwin (s.deferRates (s.castRecords (rs.filter (fun r => !ofMode r))))).routeWaiting
    if rs.any ofMode then h.raise 0x3006 0x7_0000 0 { kind := 4 } else h
  else (s.deferTwin (s.deferRates (s.castRecords rs))).routeWaiting

/-- A PAT operation ends with a result: `PAT.RESULT`, and GO, BUSY and LOCKED clear. -/
def Hw.patResult (s : Hw) (code reason off : Nat) : Hw :=
  let s1 : Hw := { s with pat := { s.pat with op := none, staged := [] } }
  [F.PAT_RECAST_GO, F.PAT_FLASH_GO, F.PAT_STATUS_BUSY, F.PAT_STATUS_LOCKED].foldl (fun s f => s.fset f 0)
    (((s1.fset F.PAT_RESULT_CODE code).fset F.PAT_RESULT_REASON reason).fset F.PAT_RESULT_OFFSET off)

/-- R450: the records of a re-cast take effect at offset 0 of an edge window, and the operation completes with OK and event 0x9013; a fleet
pattern set takes effect there too (R315). -/
def Hw.recastEdge (s : Hw) : Hw :=
  let s1 := s.recastRecords
  let s2 := match s1.flt.nextPatterns with | some p => s1.installPatterns p.1 p.2 | none => s1
  let types := s.pat.recastTypes
  let s3 := types.foldl (fun s t => s.raise 0x9013 t s.beatNo { kind := 4 }) { s2 with pat := { s2.pat with recast := [], recastTypes := [] } }
  match s3.pat.op with
  | some o =>
    if o.recast && types.contains o.sect then
      let s4 := s3.patResult 1 0 0
      if o.op = 4 then s4.raise 0x9010 4 (s4.rd .PAT_RESULT 0).toNat { kind := 4 } else s4
    else s3
  | none => s3

end Sys2Proof.Machine
end

