-- ==== Sys2Proof/Machine/Memory.lean ====
section
/-!
DEFINITION. The memory group controllers (R334 to R353): accounting of accesses, scrubs, retraining, the retirement and return of a
channel, and offlined pages.
-/
namespace Sys2Proof.Machine

def execGddr7AccessComplete (addr : BitVec 40) (write : Bool) (replays : BitVec 3) (exhausted : Bool) (s : State) :
    Host.Outcome State Fault Refusal :=
  s.onHw (fun h => h.accessDone addr.toNat write replays.toNat exhausted)

/-! ### Scrubs (R342, R343) -/

/-- R342: the first queued atom of a channel is rewritten: the words that still carry a single-bit error are corrected.  A channel in
retraining holds the rewrite (R345). -/
def Hw.demandScrub (s : Hw) (c : Nat) : Hw :=
  match (if (s.mu.retraining.map (·.1)) = some c then [] else (s.getChan c).scrubQ) with
  | [] => s
  | a :: rest =>
    let s1 := s.modChan c (fun x => { x with scrubQ := rest })
    { s1 with mem := (s.atomErrors a).foldl Mem.correctWord s1.mem }

def execDemandScrubRewrite (channel : Fin 40) (s : State) : Host.Outcome State Fault Refusal := s.onHw (fun h => h.demandScrub channel.val)

/-- R338, R347: the address of the line at a position of a channel, if a mapped line stands there. -/
def Hw.lineAt (s : Hw) (c q : Nat) : Option Nat :=
  match (if s.mu.windowOff then s.mu.outCh.filter (fun o => s.rehomed o 0) else none) with
  | none => if lineAddr c q < s.capacity then some (lineAddr c q) else none
  | some o =>
    if c = o then none
    else if q < windowRow then some (lineAddr c q)
    else
      let k := (q - windowRow) * 39 + (if c < o then c else c - 1)
      if k < windowRow then some (lineAddr o k) else none

/-- R301, R343, R351: an atom that the patrol scrub has read; one already dross is left as it is.  Corrected words count for their page in
this pass, which is proposed as the count reaches the limit. -/
def Hw.scrubAtom (s : Hw) (c page a : Nat) : Hw :=
  if s.mem.atomDross a then s
  else
    let es := s.withSyn (s.atomErrors a)
    let n := (es.filter (·.2.single)).length
    let s1 := (s.accountWords a es 0x5010).bump F.FLT_UE_COUNT 0 (es.filter (fun e => e.2 == .uncorrectable)).length
    if n = 0 then s1
    else
      let k := c * 0x40_0000 + page
      let m := Sparse.get 0 s1.mu.pageCe k
      let s2 : Hw := { s1 with mu := { s1.mu with pageCe := Sparse.put 0 s1.mu.pageCe k (m + n) } }
      let limit := max 1 (s.fget F.MEM_PAGE_CE_LIMIT_COUNT)
      if m < limit && limit ≤ m + n then s2.propose c page 0 else s2

/-- R343: the patrol scrub takes the next position, in ascending row and then channel, and reads its line unless it is to be
skipped; it stands still at rate 0 and during a copy. -/
def Hw.patrol (s : Hw) : Hw :=
  if s.fget F.MEM_SCRUB_RATE_RATE = 0 || s.mu.copy.isSome || s.capacity = 0 then s
  else
    let c := s.mu.scrubCh
    let q := s.fget F.MEM_SCRUB_POS_ROW
    let skip := (s.mu.retraining.map (·.1)) == some c || s.mu.offline.contains (c, q / 8)
    let s1 :=
      match (if skip then none else s.lineAt c q) with
      | some a => (s.scrubAtom c (q / 8) a).scrubAtom c (q / 8) (a + 128)
      | none => s
    if c + 1 < 40 then { s1 with mu := { s1.mu with scrubCh := c + 1 } }
    else if q + 1 < 0x200_0000 then ({ s1 with mu := { s1.mu with scrubCh := 0 } } : Hw).fset F.MEM_SCRUB_POS_ROW (q + 1)
    else (({ s1 with mu := { s1.mu with scrubCh := 0, pageCe := [] } } : Hw).fset F.MEM_SCRUB_POS_ROW 0).bump F.MEM_SCRUB_PASS_COUNT

def execPatrolScrub (s : State) : Host.Outcome State Fault Refusal := s.onHw Hw.patrol

/-! ### Retraining (R344 to R346) -/

/-- R344: what counts towards the threshold now. -/
def Hw.errCount (s : Hw) (c : Nat) : Nat :=
  ((s.getChan c).errs.filter (fun e => decide (s.beatNo < e.1 + 1024))).foldl (fun a e => a + e.2) 0

/-- R344: a channel's last retraining ended within the hold-off. -/
def Hw.heldOff (s : Hw) (c : Nat) : Bool :=
  match (s.getChan c).lastRetrain with
  | some b => decide (s.beatNo < b + 1024 * s.fget F.MEM_RETRAIN_THR_HOLDOFF)
  | none => false

/-- R345: a channel whose retraining is due and can be done: it is in service, or returns. -/
def Hw.retrainWaits (s : Hw) (c : Nat) : Bool :=
  let x := s.getChan c
  match x.due with
  | some k => x.st == .in_ || (x.st == .assaying && k == 2)
  | none => false

/-- R344, R345: a channel begins retraining for the cause that is due, or for its errors; one that must wait is due. -/
def Hw.retrainStart (s : Hw) (c : Nat) : Hw :=
  let x := s.getChan c
  let n := s.errCount c
  match (match x.due with | some k => some k | none => if s.fget F.MEM_RETRAIN_THR_COUNT ≤ n then some 0 else none) with
  | none => s
  | some cause =>
    if !(x.st == .in_ || (x.st == .assaying && cause = 2)) then s
    else if x.due.isNone && s.heldOff c then s.raise 0x5023 c n (chanWho c)
    else if s.mu.retraining.isSome || s.mu.copy.isSome || s.mu.copyDue.isSome || (List.range c).any s.retrainWaits then
      s.setChan c { x with due := some cause }
    else
      let s1 := s.setChan c { x with due := none, errs := [] }
      ({ s1 with mu := { s1.mu with retraining := some (c, cause) } } : Hw).raise 0x5020 c cause (chanWho c)

def execChannelRetrainStart (channel : Fin 40) (s : State) : Host.Outcome State Fault Refusal := s.onHw (fun h => h.retrainStart channel.val)

/-- R345, R449: the retraining in progress completes: the held accesses are served and the channel takes a new rate. -/
def Hw.retrainDone (s : Hw) (us : Nat) : Hw :=
  match s.mu.retraining with
  | none => s
  | some (c, _) =>
    let x := s.getChan c
    let s1 := ({ s with mu := { s.mu with retraining := none } } : Hw).setChan c { x with lastRetrain := some s.beatNo, newRate := none, errs := [] }
    let s2 := match x.newRate with | some r => s1.fset F.MEM_RATE_GBPS r c | none => s1
    ((s2.bump F.MEM_CH_RETRAINS_COUNT c).raise 0x5021 c us (chanWho c)).serveHeld.startCopy

def execChannelRetrainDone (micros : BitVec 12) (s : State) : Host.Outcome State Fault Refusal := s.onHw (fun h => h.retrainDone micros.toNat)

/-- R346, R350: the retraining in progress fails: the previous values are restored and the channel stays in service; a return
fails with it. -/
def Hw.retrainTimeout (s : Hw) (us : Nat) : Hw :=
  match s.mu.retraining with
  | none => s
  | some (c, cause) =>
    let x := s.getChan c
    let s1 := ({ s with mu := { s.mu with retraining := none } } : Hw).setChan c { x with lastRetrain := some s.beatNo, newRate := none, errs := [] }
    let s2 := ((s1.bump F.MEM_CH_RETRAINS_COUNT c).raise 0x5022 c us (chanWho c)).serveHeld
    (if cause = 2 then s2.returnAssay 1 c false else s2).startCopy

def execChannelRetrainTimeout (micros : BitVec 12) (s : State) : Host.Outcome State Fault Refusal :=
  s.onHw (fun h => h.retrainTimeout micros.toNat)

/-! ### Copies (R349, R350) -/

/-- R303, R349: the uncorrectable words of channel c's lines, of the rows from lo to below hi, make the atoms a copy writes dross. -/
def Hw.copyDross (s : Hw) (c lo hi : Nat) : Hw :=
  let ws := ((s.mem.syn.filter (fun e => decide (e.1 * 8 < windowBase) && channelOf (e.1 * 8) == c && decide (lo ≤ rowOf (e.1 * 8)) &&
    decide (rowOf (e.1 * 8) < hi))).map (·.1)).filter (fun w => s.mem.syndrome w == .uncorrectable)
  ws.foldl (fun s w => if s.mem.syndrome w == .uncorrectable then
    ({ s with mem := s.mem.markDross (w * 8) } : Hw).bump F.FLT_DROSS_MADE_COUNT else s) s

/-- R347, R349, R350: the copy in progress moves the next line of the channel out of the map; a retirement's new home is a line of the window,
which is mapped until the copy ends. -/
def Hw.copyLine (s : Hw) : Hw :=
  match s.mu.copy, s.mu.outCh with
  | some back, some c =>
    let q := s.mu.copyRow
    if windowRow ≤ q then s
    else
      let s1 := s.copyDross c q (q + 1)
      let k := q % 39
      let home := lineAddr (if k < c then k else k + 1) (windowRow + q / 39)
      { s1 with mem := if back then s1.mem else s1.mem.copyRun (lineAddr c q) home 256, mu := { s1.mu with copyRow := q + 1 } }
  | _, _ => s

/-- R349: the pace of a copy, up to the channel's bandwidth, is not given: in each cycle it may move a line (DESIGN CHOICE, log 90). -/
def Hw.copyTick (s : Hw) : Hw :=
  if s.mu.copy.isSome then
    let s1 : Hw := { s with free := s.free + 1 }
    if (Config.freeWord s.free).toNat % 2 = 1 then s1.copyLine else s1
  else s

/-- R349: the retirement copy ends: the window becomes unmapped. -/
def Hw.retirementDone (s : Hw) : Hw :=
  match s.mu.copy, s.mu.outCh with
  | some false, some c =>
    let s1 := s.copyDross c s.mu.copyRow windowRow
    let s2 : Hw := { s1 with mu := { s1.mu with copy := none, windowOff := true, offline := s1.mu.offline.filter (fun e => e.1 != c) } }
    s2.raise 0x5031 c (windowBase >>> 20) (chanWho c)
  | _, _ => s

def execRetirementCopyDone (s : State) : Host.Outcome State Fault Refusal := s.onHw Hw.retirementDone

/-- R350: the return copy ends: every re-homed line is back, and the channel enters IN at the next edge window. -/
def Hw.returnCopied (s : Hw) : Hw :=
  match s.mu.copy, s.mu.outCh with
  | some true, some c =>
    let s1 := (s.copyDross c s.mu.copyRow windowRow).modChan c (fun x => { x with returning := true })
    { s1 with mu := { s1.mu with copy := none } }
  | _, _ => s

def execReturnCopyDone (s : State) : Host.Outcome State Fault Refusal := s.onHw Hw.returnCopied

/-- R330, R350, step 7: a channel whose return is complete enters IN: the window becomes mapped, with contents that are undefined. -/
def Hw.channelReturns (s : Hw) (c : Nat) : Hw :=
  if (s.getChan c).returning then
    let s1 := s.modChan c (fun x => { x with st := .in_, returning := false, pendingEn := false, enable := false, disable := false })
    let s2 : Hw := { s1 with
      mu := { s1.mu with windowOff := false, outCh := none }, mem := s1.mem.setFree windowBase 0x4F_FFFF_FFFF s1.free, free := s1.free + 1 }
    (s2.raise 0x5033 c 0 (chanWho c)).raise 0x4052 1 c (chanWho c)
  else s

/-! ### Pages (R352) -/

/-- R352: ACCEPT of a proposal: refused where the channel's entries, with the pages accepted and still to be offlined, are 256. -/
def Hw.pageAccept (s : Hw) (k : Nat) : Hw :=
  match Sparse.find? s.mu.props k with
  | some (c, page, cause, _) =>
    let waiting := (s.mu.props.filter (fun e => e.2.1 == c && e.2.2.2.2 && e.1 != k)).length
    if 256 ≤ (s.mu.offline.filter (fun e => e.1 == c)).length + waiting then
      ({ s with mu := { s.mu with props := Sparse.erase s.mu.props k } } : Hw).raise 0x5042 k 1 (chanWho c)
    else { s with mu := { s.mu with props := Sparse.set s.mu.props k (c, page, cause, true) } }
  | none => s

def execPageAccept (slot : BitVec 4) (s : State) : Host.Outcome State Fault Refusal :=
  s.onHw (fun h => if h.regsLive then h.pageAccept slot.toNat else h)

/-- R352: DECLINE of a proposal; one that has been accepted stands. -/
def Hw.pageDecline (s : Hw) (k : Nat) : Hw :=
  match Sparse.find? s.mu.props k with
  | some (c, _, _, false) => ({ s with mu := { s.mu with props := Sparse.erase s.mu.props k } } : Hw).raise 0x5042 k 0 (chanWho c)
  | _ => s

def execPageDecline (slot : BitVec 4) (s : State) : Host.Outcome State Fault Refusal :=
  s.onHw (fun h => if h.regsLive then h.pageDecline slot.toNat else h)

/-- R352: the accesses of an accepted page have ended: it takes an entry of the offline table. -/
def Hw.pageOfflined (s : Hw) (k : Nat) : Hw :=
  match Sparse.find? s.mu.props k with
  | some (c, page, _, true) =>
    ({ s with mu := { s.mu with props := Sparse.erase s.mu.props k, offline := s.mu.offline ++ [(c, page)] } } : Hw).raise 0x5041 c page (chanWho c)
  | _ => s

def execPageOfflined (slot : BitVec 4) (s : State) : Host.Outcome State Fault Refusal := s.onHw (fun h => h.pageOfflined slot.toNat)

end Sys2Proof.Machine
end

