-- ==== Sys2Proof/Machine/TestDebug.lean ====
section
/-!
DEFINITION. The TST block (R501 to R508) and the counters' controls (R511).
-/
namespace Sys2Proof.Machine

def armKey : Nat := 0x5453

/-- R501: an arming write. -/
def Hw.testArm (s : Hw) (key : Nat) : Hw :=
  if key ≠ armKey || !s.flag F.TST_PERMIT_ALLOW || s.level = 0 then s.raise 0x4074 0xE_0004 (1 + (key <<< 16))
  else s.fset F.TST_ARM_PENDING 1

def execTestArm (key : BitVec 16) (s : State) : Host.Outcome State Fault Refusal :=
  s.onHw (fun h => if h.bar0Open then h.testArm key.toNat else h)

/-- R502: withdraws an injection that waits for its opportunity. -/
def Hw.withdrawInjection (s : Hw) : Hw :=
  match s.test.inj with
  | some _ => (({ s with test := { s.test with inj := none } } : Hw).fset F.TST_INJ_CTL_RESULT 3).fset F.TST_INJ_CTL_GO 0
  | none => s

/-- R502: a disarming write. -/
def Hw.testDisarm (s : Hw) (key : Nat) : Hw :=
  if key ≠ armKey then s.raise 0x4074 0xE_0004 (2 + (key <<< 16))
  else
    let s1 := ((List.range 8).foldl (fun s k => s.fset F.TST_PERT_CTL_EN 0 k) s).withdrawInjection
    ((s1.fset F.TST_ARM_ARMED 0).fset F.TST_ARM_PENDING 0).raise 0x4071 s.beatNo (one s.test.inj.isSome)

def execTestDisarm (key : BitVec 16) (s : State) : Host.Outcome State Fault Refusal :=
  s.onHw (fun h => if h.regsLive then h.testDisarm key.toNat else h)

/-- R501, step 7: a pending arm takes effect. -/
def Hw.armEdge (s : Hw) : Hw :=
  if s.flag F.TST_ARM_PENDING then ((s.fset F.TST_ARM_PENDING 0).fset F.TST_ARM_ARMED 1).raise 0x4070 s.beatNo 0 else s

/-! ### Injection (R506 to R508) -/

/-- `TST.INJ_ADDR`. -/
def Hw.injAddr (s : Hw) : Nat := s.rd64 .TST_INJ_ADDR_LO .TST_INJ_ADDR_HI % (1 <<< 40)

/-- R412, R508: an address an injection may name. -/
def Hw.injMapped (s : Hw) (a : Nat) : Bool :=
  match s.place a with
  | .gddr _ => true
  | .offlined _ _ => true
  | .store _ _ off => off < 0x2F_0000
  | .unmapped => false

/-- R506, R508: why an injection of a kind is refused; 0 where it is not.  A COUNT of 0 lies outside its range (DEDUCED, log 51). -/
def Hw.injRefusal (s : Hw) (kind : Nat) : Nat :=
  let idx := s.fget F.TST_INJ_CTL_INDEX
  let part := s.fget F.TST_INJ_CTL_PART
  if !s.flag F.TST_ARM_ARMED then 1
  else if 4 < kind then 2
  else if 2 ≤ kind && s.fget F.TST_INJ_CTL_COUNT = 0 then 2
  else if kind = 3 && (6 ≤ part || (part = 5 && s.fget F.FLT_ASSAY_SET_COUNT = 0)) then 2
  else if kind ≤ 1 && !s.injMapped s.injAddr then 3
  else if (kind = 2 || kind = 3) && !s.admitted idx then 4
  else if kind = 2 && !s.loomOk (s.physOf idx) (s.flag F.TST_INJ_CTL_LOOM) then 4
  else if kind = 4 && !(idx < 64 && s.linkUp idx) then 4
  else 0

/-- R506: GO of an injection, with its KIND. -/
def Hw.inject (s : Hw) (kind : Nat) : Hw :=
  if !s.regsLive then s
  else if s.flag F.TST_INJ_CTL_GO then (s.fset F.TST_INJ_CTL_KIND kind).raise 0x4073 kind 0
  else
    let s1 := (s.fset F.TST_INJ_CTL_KIND kind).fset F.TST_INJ_CTL_RESULT 0
    let r := s1.injRefusal kind
    if r ≠ 0 then (s1.fset F.TST_INJ_CTL_RESULT 2).raise 0x4073 kind r
    else
      let j : Injection :=
        { kind := kind, idx := s.fget F.TST_INJ_CTL_INDEX, loom := s.fget F.TST_INJ_CTL_LOOM, part := s.fget F.TST_INJ_CTL_PART,
          left := if 2 ≤ kind then s.fget F.TST_INJ_CTL_COUNT else 0, addr := s.injAddr, seq := none }
      ({ s1 with test := { s1.test with inj := some j } } : Hw).fset F.TST_INJ_CTL_GO 1

def execInjectFlip (s : State) : Host.Outcome State Fault Refusal := s.onHw (fun h => h.inject 0)
def execInjectDross (s : State) : Host.Outcome State Fault Refusal := s.onHw (fun h => h.inject 1)
def execInjectChecksum (s : State) : Host.Outcome State Fault Refusal := s.onHw (fun h => h.inject 2)
def execInjectAssay (s : State) : Host.Outcome State Fault Refusal := s.onHw (fun h => h.inject 3)
def execInjectLink (s : State) : Host.Outcome State Fault Refusal := s.onHw (fun h => h.inject 4)

/-- R506: the word at a memory key with data bits and check bits flipped; the syndrome moves by the check byte of the flipped
bits and by the flipped check bits (R300). -/
def Mem.flip (m : Mem) (w mask check : Nat) : Mem :=
  let m1 := (List.range 8).foldl (fun m i => m.putByte (w * 8 + i) (m.byte (w * 8 + i) ^^^ BitVec.ofNat 8 (bits mask (8 * i) 8))) m
  m1.putSyn w ((Sparse.get 0 m.syn w).toNat ^^^ checkByte mask ^^^ check)

/-- R506: the memory after the write of a FLIP or DROSS injection at a memory key. -/
def Hw.injected (s : Hw) (j : Injection) (k : Nat) : Mem :=
  if j.kind = 1 then s.mem.markDross k else s.mem.flip (k / 8) (s.rd64 .TST_INJ_MASK_LO .TST_INJ_MASK_HI) (s.fget F.TST_INJ_CHECK_MASK)

/-- R303, R400, R507: the write of a FLIP or DROSS injection, which no lock and no re-seed holds off; a donor mirrors it, and dross it makes
counts.  A place that leads nowhere by now keeps nothing. DEDUCED, log 96. -/
def Hw.injWrite (s : Hw) (j : Injection) : Hw :=
  let s1 := if j.kind = 1 && s.leads j.addr then s.bump F.FLT_DROSS_MADE_COUNT else s
  match s.place j.addr with
  | .gddr k => ({ s1 with mem := s.injected j k } : Hw).noteMirror [k]
  | .store k _ _ => { s1 with mem := s.injected j k }
  | .offlined ch p => s1.offAccess ch p
  | .unmapped => s1

/-- R506, R507: an injection's write is made, or its last forced failure has happened.  The write waits while its channel retrains (R345). -/
def Hw.injectionMade (s : Hw) : Hw :=
  match s.test.inj with
  | none => s
  | some j =>
    if j.left ≠ 0 || (j.kind ≤ 1 && s.channelHeld (j.addr / 128 * 128)) then s
    else
      let s1 := if j.kind ≤ 1 then s.injWrite j else s
      let s2 : Hw := { s1 with test := { s1.test with inj := none } }
      (((s2.fset F.TST_INJ_CTL_RESULT 1).fset F.TST_INJ_CTL_GO 0).bump F.TST_INJ_DONE_COUNT).raise 0x4072 j.kind (if j.kind ≤ 1 then j.addr else j.idx)

def execInjectionMade (s : State) : Host.Outcome State Fault Refusal := s.onHw Hw.injectionMade

/-! ### Counters (R511) -/

/-- R511: RUN starts or stops all eight counters. -/
def Hw.pcRun (s : Hw) (run : Bool) : Hw := if s.regsLive then s.fflag F.DBG_PC_CTL_RUN run else s

def execPcRun (run : Bool) (s : State) : Host.Outcome State Fault Refusal := s.onHw (fun h => h.pcRun run)

/-- R511: CLEAR zeroes all eight counters, and RUN is written with it. -/
def Hw.pcClear (s : Hw) (run : Bool) : Hw :=
  if s.regsLive then ((List.range 8).foldl (fun s k => s.wr64 .DBG_PC_VAL_LO .DBG_PC_VAL_HI 0 k) s).fflag F.DBG_PC_CTL_RUN run else s

def execPcClear (run : Bool) (s : State) : Host.Outcome State Fault Refusal := s.onHw (fun h => h.pcClear run)

end Sys2Proof.Machine
end

