-- ==== Sys2Proof/Machine/Tick.lean ====
section
/-!
DEFINITION. What passes with the clock when no command is given (DESIGN CHOICE, log 2), and the counters that count cycles (R66, R511).
-/
namespace Sys2Proof.Machine

/-! ### Counters of cycles -/

/-- R66, R511: the head of a queue waits on a latch for k cycles of its slot. -/
def Hw.blockedCycles (s : Hw) (t q k : Nat) : Hw :=
  match s.head t q with
  | none => s
  | some h =>
    if s.waitDone t h.n h.w then s
    else
      let b := (s.getQueue t q).bind
      let stop := min s.windowEnd.toNat (if b.budget = 0 then s.windowEnd.toNat else b.budget * 64)
      let n := min k (stop - s.beat.cycle)
      let r := (s.getStream h.n).bubbleRem + n
      (((s.bump F.BEAT_BUBBLE_UNITS h.n (r / 64)).setStream h.n { s.getStream h.n with bubbleRem := r % 64 }).pcEvent 6 t h.n n)

/-- R134, R168, R196: of k cycles in which a unit is busy, those that a counter of its counts: a free number of at most k (DESIGN
CHOICE, log 38). -/
def Hw.stallCycles (s : Hw) (t k : Nat) (f : Fld) : Hw :=
  ({ s with free := s.free + 1 } : Hw).bump f t ((Config.contention (regKey f.reg t) s.free).toNat % (k + 1))

/-- R511, R134, R168, R196: the units of a tile that are busy for k cycles. -/
def Hw.busyCycles (s : Hw) (t k : Nat) : Hw :=
  let stream := fun (f : InFlight) => (s.getQueue t f.queue).bind.stream
  let loom := match s.busyPart t 0 with | some f => some f | none => s.busyPart t 1
  let s1 := match loom with
    | some f => ((s.pcEvent 1 t (stream f) k).stallCycles t k F.LOOM_HEDDLE_STALL_CYCLES).stallCycles t k F.LOOM_FEED_STALL_CYCLES
    | none => s
  let s2 := match s.busyPart t 2 with
    | some f => ((s1.pcEvent 2 t (stream f) k).stallCycles t k F.SHTL_FETCH_STALL_CYCLES).stallCycles t k F.SHTL_LANE_BUSY_CYCLES
    | none => s1
  match s.busyPart t 3 with
  | some f => ((s2.pcEvent 3 t (stream f) k).bump F.FIN_BUSY_CYCLES_CYCLES t k).stallCycles t k F.FIN_STORE_STALL_CYCLES
  | none => s2

/-- R483, R511: the tiles on which power duty closes the current cycle of the issue window; the cycle has no stream. -/
def Hw.closedCycles (s : Hw) (k : Nat) : Hw :=
  if 256 ≤ s.fget F.PWR_STATUS_DUTY || !decide ((s.beat.cycle : Int) < s.windowEnd) then s
  else (List.range 512).foldl (fun s t => if s.dutyOpen t then s else s.pcEvent 7 t 0x1_0000 k) s

/-- R511: event 4, the cycles that requests of the tile stores waited for a bank: a free number (DESIGN CHOICE, log 38). -/
def Hw.bankWaits (s : Hw) : Hw :=
  if s.flag F.DBG_PC_CTL_RUN then
    (List.range 8).foldl (fun s i =>
      if s.fget F.DBG_PC_CFG_EVENT i = 4 then
        ({ s with free := s.free + 1 } : Hw).wr64 .DBG_PC_VAL_LO .DBG_PC_VAL_HI
          ((s.rd64 .DBG_PC_VAL_LO .DBG_PC_VAL_HI i + (Config.contention (regKey .DBG_PC_VAL_LO i) s.free).toNat) % (1 <<< 64)) i
      else s) s
  else s

/-- R503, R504, R511: opportunities at the tile stores, the routers and the Shuttles' fetches, which a model of whole commands does not show: what
a perturbation unit of such a KIND hits is a free number, and so is what event 8 counts for it (DESIGN CHOICE, log 38). -/
def Hw.perturbWaits (s : Hw) (k : Nat) : Hw :=
  let hits := (List.range 8).filter (fun i => s.flag F.TST_PERT_CTL_EN i && [1, 2, 5].contains (s.fget F.TST_PERT_CTL_KIND i))
  if k = 0 || !s.flag F.TST_ARM_ARMED || hits.isEmpty then s
  else
    let s1 := hits.foldl (fun s i =>
      ({ s with free := s.free + 1 } : Hw).bump F.TST_PERT_HITS_COUNT i (Config.contention (regKey .TST_PERT_HITS i) s.free).toNat) s
    if s.flag F.DBG_PC_CTL_RUN then
      (List.range 8).foldl (fun s i =>
        if s.fget F.DBG_PC_CFG_EVENT i = 8 then
          ({ s with free := s.free + 1 } : Hw).wr64 .DBG_PC_VAL_LO .DBG_PC_VAL_HI
            ((s.rd64 .DBG_PC_VAL_LO .DBG_PC_VAL_HI i + (Config.contention (regKey .DBG_PC_VAL_LO i) s.free).toNat) % (1 <<< 64)) i
        else s) s1
    else s1

/-- R37: the periods of k that can pass in this beat: while beats run, the clock stands at the beat's end until the end of the edge window is
commanded. -/
def Hw.passable (s : Hw) (k : Nat) : Nat := if s.running then min k (s.windowEnd + 1024 - s.beat.cycle).toNat else k

/-- R4, R5, R511: k periods of the arithmetic clock pass within a beat. -/
def Hw.clock (s : Hw) (k0 : Nat) : Hw :=
  let k := s.passable k0
  let s1 : Hw := { s with
    boot := { s.boot with ticks := s.boot.ticks + (if s.boot.full then k else 2 * k) },
    test := { s.test with moved := s.test.moved + k } }
  let s2 :=
    if s1.running then
      let ts := s1.tiles.map (·.1)
      let s3 := ts.foldl (fun s t => [0, 1, 2, 3].foldl (fun s q => s.blockedCycles t q k) s) s1
      ((ts.foldl (fun s t => s.busyCycles t k) s3).closedCycles k).bankWaits
    else s1
  let s4 := (s2.perturbWaits k).pcEvent 0 0 0 k
  if s4.running then
    { s4 with beat := { s4.beat with cycle := s4.beat.cycle + k } }
  else s4


end Sys2Proof.Machine
end

