-- ==== Sys2Proof/Machine/Twin.lean ====
section
/-!
DEFINITION. The twin unit (R389 to R404): hellos, attaching, standing in, re-seeding and handover.
-/
namespace Sys2Proof.Machine

def Hw.twinState (s : Hw) : Nat := s.fget F.TWIN_STATUS_STATE
def Hw.setTwin (s : Hw) (st : Nat) : Hw := s.fset F.TWIN_STATUS_STATE st
def Hw.modTwin (s : Hw) (f : Twin → Twin) : Hw := { s with twin := f s.twin }
def twinWho : Who := { kind := 4 }

/-- R392: a twin record leaves on a twin link, for the neighbour. -/
def Hw.sendTwin (s : Hw) (type body : Nat) : Hw :=
  match s.twinLinks.head? with
  | some l => s.sendRecord l (ctlRecord type 0xFFF s.me 16 body)
  | none => s

/-- R392: a long twin message. -/
def Hw.sendTwinLong (s : Hw) (kind : Nat) (msg : List Byte) : Hw :=
  match s.twinLinks.head? with
  | some l =>
    let f : Flit := { Flit.idle with
      cls := 1, kind := kind, hops := 16, addr := 0xFFF + (s.me <<< 12) + (16 <<< 24), src := s.me, dst := 0xFFF, data := msg, len := msg.length }
    s.modLink l (fun x => { x with long := x.long ++ [f] })
  | none => s

/-- Jobs whose commit record is enabled. -/
def Hw.enabledJobs (s : Hw) : List Nat := (List.range 4096).filter (fun j => s.flag F.UPD_JOB_CTL_EN j)

/-! ### Standing in (R397, R401) -/

/-- R397, R401: a stand-in or a withdrawal reaches the root of a job. -/
def Hw.standInAt (s : Hw) (src : Nat) (withdraw : Bool) (j joinStep : Nat) : Hw :=
  if !s.rootHere j then s
  else
    let x := s.getJob j
    let others := x.standIns.filter (fun e => e.1 != src)
    let s1 := s.raise (if withdraw then 0x7031 else 0x7030) src j (commitWho j)
    s1.setJob j { x with standIns :=
      if !withdraw then others ++ [(src, none)]
      else if joinStep = 0 || !x.standIns.any (fun e => e.1 == src) then others
      else others ++ [(src, some joinStep)] }

/-- R397: the record to the root of every job whose commit record is enabled. -/
def Hw.sendStandIns (s : Hw) (withdraw : Bool) (step : Nat → Nat) : Hw :=
  s.enabledJobs.foldl (fun s j =>
    let root := s.fget F.UPD_JOB_CTL_ROOT j
    if root = s.me then s.standInAt s.me withdraw j (step j)
    else s.routeRecord root (ctlRecord 0x0C root s.me 16 ((if withdraw then 2 else 1) + (j <<< 16) + ((step j % (1 <<< 48)) <<< 32)))) s

/-- Takes the first waiting record of a type from any link. -/
def Hw.takeAnyRecord (s : Hw) (type : Nat) : Hw :=
  match (List.range 64).find? (fun l => (s.getLink l).rxRecords.any (fun r => bits r.toNat 0 8 == type)) with
  | some l => s.takeRecord l type
  | none => s

def execStandIn (src : BitVec 12) (withdraw : Bool) (job : BitVec 12) (joinStep : BitVec 48) (s : State) : Host.Outcome State Fault Refusal :=
  s.onHw (fun h => (h.takeAnyRecord 0x0C).standInAt src.toNat withdraw job.toNat joinStep.toNat)

/-! ### States (R391, R393, R394) -/

/-- R394: both modules have set ATTACH. -/
def Hw.tryPair (s : Hw) : Hw :=
  if s.twinState = 2 && s.twin.attachSelf && s.twin.attachPeer then
    (((s.setTwin 3).fset F.TWIN_STATUS_LIVE 1).modTwin (fun x => { x with attachSelf := false, attachPeer := false })).raise 0x7001 s.twinId 0 twinWho
  else s

/-- R394, R397: PAIRED or DIVERGED is left for LINKED. -/
def Hw.unpair (s : Hw) (reason : Nat) : Hw :=
  if s.twinState = 3 || s.twinState = 6 then
    let s1 := ((s.setTwin 2).modTwin (fun x => { x with attachSelf := false, attachPeer := false })).raise 0x7005 s.twinId reason twinWho
    if s.flag F.TWIN_STATUS_LIVE then s1.sendStandIns false (fun _ => 0) else s1
  else s

/-- R391, R394: a hello from the twin. -/
def Hw.hello (s : Hw) (l st : Nat) (live : Bool) : Hw :=
  let s1 := s.takeRecord l 0x0A
  if s1.twinState = 0 || !s1.twinLinks.contains l then s1
  else
    let s2 := s1.modTwin (fun x => { x with lastHello := some s.beatNo, peerState := st, peerLive := live })
    if s2.twinState = 1 && s2.level = 2 then
      let s3 := (s2.setTwin 2).raise 0x7004 s.twinId (if live then 1 else 0) twinWho
      -- an ATTACH set while the twin could not be reached is told to it now
      (if s3.twin.attachSelf then s3.sendTwin 0x0B 1 else s3).tryPair
    else s2

def execHello (link : Fin 64) (state : BitVec 3) (live : Bool) (beat : BitVec 64) (s : State) : Host.Outcome State Fault Refusal :=
  -- the sender's beat number is told, and changes nothing
  let _ := beat
  s.onHw (fun h => h.hello link.val state.toNat live)

/-- R391: a hello has arrived within the last `TWIN.LOSS` beats. -/
def Hw.twinReachable (s : Hw) : Bool :=
  match s.twin.lastHello with
  | some b => decide (s.beatNo < b + s.fget F.TWIN_LOSS_BEATS)
  | none => false

/-- Bytes as MiB in an event. -/
def mib (n : Nat) : Nat := n / 0x10_0000

/-- R394, R397, R402: the twin is unreachable. -/
def Hw.twinLost (s : Hw) : Hw :=
  let st := s.twinState
  if st = 0 || st = 1 || s.twinReachable then s
  else
    let s1 := (s.setTwin 1).raise 0x7002 s.twinId s.beatNo twinWho
    let s2 := if st = 4 || st = 5 then s1.raise 0x7021 s.twinId (mib (s.rd64 .TWIN_SEED_POS_LO .TWIN_SEED_POS_HI)) twinWho else s1
    let s3 := (s2.modTwin (fun _ => Twin.reset)).fset F.TWIN_CTL_RESEED 0
    if (st = 3 || st = 6) && s.flag F.TWIN_STATUS_LIVE then s3.sendStandIns false (fun _ => 0) else s3

def execTwinUnreachable (s : State) : Host.Outcome State Fault Refusal := s.onHw Hw.twinLost

/-- R394: ATTACH; a module that is PAIRED has attached already. -/
def Hw.attach (s : Hw) : Hw :=
  if !s.regsLive || s.twinState = 0 || s.twinState = 3 then s
  else ((s.modTwin (fun x => { x with attachSelf := true })).sendTwin 0x0B 1).tryPair

def execAttach (s : State) : Host.Outcome State Fault Refusal := s.onHw Hw.attach

/-- R394: DETACH. -/
def Hw.detach (s : Hw) : Hw :=
  if s.regsLive && (s.twinState = 3 || s.twinState = 6) then (s.sendTwin 0x0B 2).unpair 0 else s

def execDetach (s : State) : Host.Outcome State Fault Refusal := s.onHw Hw.detach

/-- R394: an attach or detach record. -/
def Hw.attachRecord (s : Hw) (l : Nat) (detach : Bool) (reason : Nat) : Hw :=
  let s1 := s.takeRecord l 0x0B
  if s1.twinState = 0 then s1
  else if detach then s1.unpair reason
  else (s1.modTwin (fun x => { x with attachPeer := true })).tryPair

def execAttachDetachRecord (link : Fin 64) (detach : Bool) (reason : BitVec 8) (s : State) : Host.Outcome State Fault Refusal :=
  s.onHw (fun h => h.attachRecord link.val detach reason.toNat)

def execDivergence (link : Fin 64) (job : BitVec 12) (step : BitVec 64) (s : State) : Host.Outcome State Fault Refusal :=
  s.onHw (fun h => (h.takeRecord link.val 0x0D).divergenceIn job.toNat step.toNat)

/-! ### Re-seeding (R398 to R402) -/

/-- R399: a manifest entry as its two words. -/
def entryRange (e : BitVec 128) : Nat × Nat := (bits e.toNat 0 64, bits e.toNat 64 64)

/-- R399: the manifest is valid. -/
def Hw.manifestOk (s : Hw) (m : List (Nat × Nat)) : Bool :=
  m.all (fun r => r.1 % 256 == 0 && r.2 % 256 == 0 && r.2 != 0 && r.1 + r.2 ≤ s.capacity) &&
  (List.range m.length).all (fun i => (List.range i).all (fun k =>
    let a := nth (0, 0) m i
    let b := nth (0, 0) m k
    decide (a.1 + a.2 ≤ b.1) || decide (b.1 + b.2 ≤ a.1)))

/-- R399, R520: the entries of this module's own manifest; a count of 0 names the whole mapped GDDR7. -/
def Hw.ownManifest (s : Hw) : List (BitVec 128) :=
  let n := s.fget F.TWIN_MAN_COUNT_COUNT
  let b := s.rd64 .TWIN_MAN_BASE_LO .TWIN_MAN_BASE_HI % (1 <<< 40)
  if n = 0 then [BitVec.ofNat 128 (s.capacity <<< 64)]
  else (List.range n).map (fun i => BitVec.ofNat 128 (if b + 16 * i + 16 ≤ s.capacity then ofBytes (s.peekRun (b + 16 * i) 16) else 0))

/-- R403: a join step written while the module is SEEDING is sent to the donor. -/
def Hw.joinStepWritten (s : Hw) : Hw :=
  if s.twinState = 4 then s.sendTwin 0x0E (5 + ((s.rd64 .TWIN_JOIN_STEP_LO .TWIN_JOIN_STEP_HI) <<< 16)) else s

/-- What a request says of its sender in byte 7 (DESIGN CHOICE, log 48): the capacity in [1:0], `UPD.MODE.DUAL` in [2], STATE in [5:3]. -/
def Hw.seedInfo (s : Hw) : Nat :=
  (if s.capacity = 0 then 0 else if s.mu.windowOff then 1 else 2) + (if s.dual then 4 else 0) + (s.twinState <<< 3)

def Hw.joinStepReg (s : Hw) : Nat := s.rd64 .TWIN_JOIN_STEP_LO .TWIN_JOIN_STEP_HI

/-- R398: RESEED: the request, then the manifest, 64 entries a message; a last message of fewer than 64 ends it (DESIGN CHOICE, log 48).  A module
that is ALONE reaches no twin to refuse it, so it refuses itself with reason 1 (DEDUCED, log 66).  RESEED reads 1 until the request is
answered, or the twin is lost (R10). -/
def Hw.reseed (s : Hw) : Hw :=
  if !s.regsLive || s.twinState = 0 then s
  else if s.twinState = 1 then s.raise 0x7023 s.twinId 1 twinWho
  else
    let es := s.ownManifest
    let groups := cut 64 es
    let all := if es.length % 64 = 0 then groups ++ [[]] else groups
    let s1 := (s.modTwin (fun x => { x with manifest := es.map entryRange })).sendTwin 0x0E (1 + (s.seedInfo <<< 8) + ((s.joinStepReg % (1 <<< 64)) <<< 16))
    all.foldl (fun s g => s.sendTwinLong 0x12 (toBytes 1 g.length ++ toBytes 15 0 ++ g.flatMap (fun e => toBytes 16 e.toNat)))
      (s1.fset F.TWIN_CTL_RESEED 1)

def execReseed (s : State) : Host.Outcome State Fault Refusal := s.onHw Hw.reseed

/-- Bytes of a manifest. -/
def manifestBytes (m : List (Nat × Nat)) : Nat := m.foldl (fun a r => a + r.2) 0

/-- R398: the donor's judgement of a request with its whole manifest: 0, or the reason. -/
def Hw.seedReason (s : Hw) (info : Nat) (m : List (Nat × Nat)) : Nat :=
  let free := fun (st : Nat) => st == 2 || st == 6
  if !free s.twinState || !s.flag F.TWIN_STATUS_LIVE || !free (bits info 3 3) then 1
  else if !s.manifestOk m then 2
  else if bits s.seedInfo 0 2 ≠ bits info 0 2 then 3
  else if bit s.seedInfo 2 != bit info 2 then 4
  else 0

/-- R398 to R400: a manifest message reaches the donor; with the last one the request is accepted or refused. -/
def Hw.manifestIn (s : Hw) (l : Nat) (es : List (BitVec 128)) : Hw :=
  let s1 := s.takeLong l 0x12
  match s1.twin.requested with
  | none => s1
  | some (step, info) =>
    let m := s1.twin.manifest ++ es.map entryRange
    if es.length = 64 then s1.modTwin (fun x => { x with manifest := m })
    else
      let why := s1.seedReason info m
      if why ≠ 0 then (s1.modTwin (fun x => { x with requested := none, manifest := [] })).sendTwin 0x0E (3 + (why <<< 8))
      else
        let s2 := s1.modTwin (fun x => { x with
          requested := none, manifest := m, copied := 0, copyDone := false, handedOver := false, joinStep := step, warned := false, mirror := [] })
        (((s2.setTwin 5).wr64 .TWIN_SEED_POS_LO .TWIN_SEED_POS_HI 0).sendTwin 0x0E 2).raise 0x7020 s.twinId (mib (manifestBytes m)) twinWho

def execManifest (link : Fin 64) (entries : List (BitVec 128)) (s : State) : Host.Outcome State Fault Refusal :=
  s.onHw (fun h => h.manifestIn link.val entries)

/-- R401: the re-seed is complete: both modules are PAIRED; the donor's withdrawals leave. -/
def Hw.seedComplete (s : Hw) : Hw :=
  let s1 := ((s.setTwin 3).fset F.TWIN_STATUS_LIVE 1).raise 0x7001 s.twinId 0 twinWho
  s1.modTwin (fun x => { Twin.reset with lastHello := x.lastHello, peerState := x.peerState, peerLive := x.peerLive })

/-- R398, R401: a re-seed record: 1 request, 2 accept, 3 refuse, 4 complete, 5 join. -/
def Hw.reseedRecord (s : Hw) (l op reason step : Nat) : Hw :=
  -- R10: the answer to a request completes RESEED
  let s1 := if op = 2 || op = 3 then (s.takeRecord l 0x0E).fset F.TWIN_CTL_RESEED 0 else s.takeRecord l 0x0E
  let st := s1.twinState
  if st = 0 then s1
  else match op with
    | 1 => if st = 5 || st = 4 then s1.sendTwin 0x0E (3 + (1 <<< 8))
      else s1.modTwin (fun x => { x with requested := some (step, reason), manifest := [] })
    | 2 =>
      if st = 2 || st = 6 then
        ((((s1.setTwin 4).fset F.TWIN_STATUS_LIVE 0).wr64 .TWIN_SEED_POS_LO .TWIN_SEED_POS_HI 0).modTwin (fun x => { x with handover := none })).raise
          0x7020 s.twinId (mib (manifestBytes s1.twin.manifest)) twinWho
      else s1
    | 3 => s1.raise 0x7023 s.twinId reason twinWho
    | 4 =>
      if st = 5 && s1.twin.handedOver then
        let j := s1.fget F.TWIN_JOIN_JOB_JOB
        let k := s1.twin.joinStep
        (s1.seedComplete).sendStandIns true (fun i => if i = j then k else 0)
      else s1
    | 5 => if st = 5 then s1.modTwin (fun x => { x with joinStep := step, warned := false }) else s1
    | _ => s1

def execReseedRecord (link : Fin 64) (op reason : BitVec 8) (joinStep : BitVec 64) (s : State) : Host.Outcome State Fault Refusal :=
  s.onHw (fun h => h.reseedRecord link.val op.toNat reason.toNat joinStep.toNat)

/-- R401: the copy is complete; where the join step has passed meanwhile the handover waits, with event 0x7025. -/
def Hw.copyComplete (s : Hw) : Hw :=
  if s.twinState = 5 && !s.twin.copyDone && s.twin.copied = manifestBytes s.twin.manifest then
    let j := s.fget F.TWIN_JOIN_JOB_JOB
    let s1 := s.modTwin (fun x => { x with copyDone := true })
    if s.twin.joinStep ≠ 0 && s.twin.joinStep ≤ s.lastStep j then
      (s1.modTwin (fun x => { x with warned := true })).raise 0x7025 j (s.lastStep j) (commitWho j)
    else s1
  else s

def execReseedCopyDone (s : State) : Host.Outcome State Fault Refusal := s.onHw Hw.copyComplete

/-- R392, R401: the handover message of this module: its jobs and its layers. -/
def Hw.handoverOut (s : Hw) : HandoverMsg :=
  { jobs := s.enabledJobs.map (fun j => (j, s.jobT j, s.lastStep j)),
    layers := s.layers.map (fun e => (e.1, e.2.epoch, unsigned 8 e.2.gexp, unsigned 8 (if e.2.dexpSet then e.2.dexp else e.2.last.dexp))),
    ended := true, beat := s.beatNo, cycle := s.beat.cycle }

/-- R401: the donor may hand over now: no round is open, no layer pending or awaiting its write, and the join step is next. -/
def Hw.mayHandOver (s : Hw) : Bool :=
  s.twinState == 5 && s.twin.copyDone && !s.twin.handedOver && s.twin.mirror.isEmpty &&
  s.jobs.all (fun e => !s.roundOpen e.1) && s.layers.all (fun e => !e.2.pending && !e.2.awaitWrite) &&
  (s.twin.joinStep == 0 || s.lastStep (s.fget F.TWIN_JOIN_JOB_JOB) + 1 == s.twin.joinStep)

/-- R401: the handover leaves, in messages of at most 32 jobs and 64 layers, the last of which has fewer of both (DESIGN CHOICE, log 48). -/
def Hw.sendHandover (s : Hw) : Hw :=
  let m := s.handoverOut
  let js := cut 32 m.jobs
  let ls := cut 64 m.layers
  let n := max (m.jobs.length / 32) (m.layers.length / 64) + 1
  (List.range n).foldl (fun s i =>
    let j := nth [] js i
    let l := nth [] ls i
    s.sendTwinLong 0x13 (toBytes 2 j.length ++ toBytes 2 l.length ++ toBytes 12 0 ++
      j.flatMap (fun e => toBytes 2 e.1 ++ toBytes 6 0 ++ toBytes 8 e.2.1 ++ toBytes 8 e.2.2) ++
      l.flatMap (fun e => toBytes 2 (e.1 + (if e.2.1 then 1 <<< 12 else 0)) ++ toBytes 1 e.2.2.1 ++ toBytes 1 e.2.2.2)))
    (s.modTwin (fun x => { x with handedOver := true }))

/-- R401: the receiver installs a handover. -/
def Hw.installHandover (s : Hw) (m : HandoverMsg) : Hw :=
  let s1 := m.jobs.foldl (fun s e =>
    (s.wr64 .UPD_JOB_T_LO .UPD_JOB_T_HI e.2.1 e.1).wr64 .UPD_JOB_STEP_LO .UPD_JOB_STEP_HI e.2.2 e.1) s
  let s2 := m.layers.foldl (fun s e =>
    s.modLayer e.1 (fun x => { x with epoch := e.2.1, gexp := signed 8 e.2.2.1, dexp := signed 8 e.2.2.2, dexpSet := true })) s1
  let j := s2.fget F.TWIN_JOIN_JOB_JOB
  ((s2.raise 0x7024 j s2.joinStepReg (commitWho j)).sendTwin 0x0E 4).seedComplete

/-- R401: a handover message is received; several make up one, which the first with room left ends (DESIGN CHOICE, log 48). -/
def Hw.handoverIn (s : Hw) (l : Nat) (jobs : List (Nat × Nat × Nat)) (layers : List (Nat × Bool × Nat × Nat)) : Hw :=
  let s1 := s.takeLong l 0x13
  if s1.twinState ≠ 4 then s1
  else s1.modTwin (fun x =>
    let old := x.handover.getD { jobs := [], layers := [], ended := false, beat := 0, cycle := 0 }
    { x with handover := some {
      jobs := old.jobs ++ jobs, layers := old.layers ++ layers, ended := decide (jobs.length < 32 ∧ layers.length < 64), beat := s.beatNo, cycle := s.beat.cycle } })

def execHandover (link : Fin 64) (jobs : List (BitVec 12 × BitVec 64 × BitVec 64)) (layers : List (BitVec 12 × Bool × BitVec 8 × BitVec 8)) (s : State) :
    Host.Outcome State Fault Refusal :=
  s.onHw (fun h => h.handoverIn link.val (jobs.map (fun e => (e.1.toNat, e.2.1.toNat, e.2.2.toNat)))
    (layers.map (fun e => (e.1.toNat, e.2.1, e.2.2.1.toNat, e.2.2.2.toNat))))

/-- R39 step 2, R401: the twin unit in an edge window: a donor hands over, a receiver installs what arrived 2,048 cycles before. -/
def Hw.twinEdge (s : Hw) : Hw :=
  let s1 := if s.mayHandOver then s.sendHandover else s
  match s1.twin.handover with
  | some m =>
    if s1.twinState = 4 && m.ended && (decide (m.beat < s1.beatNo) || decide ((m.cycle : Int) + 2048 ≤ s1.windowEnd)) then
      (s1.modTwin (fun x => { x with handover := none })).installHandover m
    else s1
  | none => s1

/-- R391: the hello of the beat that begins, on every counted twin link. -/
def Hw.sendHellos (s : Hw) : Hw :=
  if s.twinState = 0 || s.level ≠ 2 then s
  else s.twinLinks.foldl (fun s l => s.sendRecord l (ctlRecord 0x0A 0xFFF s.me 16
    (s.twinState + (if s.flag F.TWIN_STATUS_LIVE then 8 else 0) + (s.beatNo <<< 16)))) s

end Sys2Proof.Machine
end

