-- ==== Sys2Proof/Machine/Edge.lean ====
section
/-!
DEFINITION. The edge window (R37 to R41, R53, R56 to R61, R66, R68, R72, R316 to R330): one command runs its steps in order.
-/
namespace Sys2Proof.Machine

/-- The tiles that hold anything. -/
def Hw.heldTiles (s : Hw) : List Nat := s.tiles.map (·.1)

/-- The queues bound in this beat: tile and queue. -/
def Hw.boundQueues (s : Hw) : List (Nat × Nat) :=
  s.heldTiles.flatMap (fun t => ([0, 1, 2, 3].filter (fun q => (s.getQueue t q).bound)).map (fun q => (t, q)))

/-! ### Quiesce (R39, R40, R262, R323) -/

/-- R261, R262: a stream bound in the ending beat halts at the edge where HALT_EDGE or STEP asks for it. -/
def Hw.haltAtEdge (s : Hw) (n : Nat) (bound : Bool) : Hw :=
  let x := s.getStream n
  if x.haltEdge || (x.step && (x.stepBound || bound)) then
    ((s.setStream n { x with haltEdge := false, step := false, stepBound := false }).fset F.STRM_STATE_HALTED 1 n).shadowTouch n
  else s

/-- R323, R394: self-drain: once every round with a READY sent has its decision, every bound stream halts, and event 0x4041; the twin unit tells
the twin, which leaves PAIRED (DEDUCED, log 98). -/
def Hw.drainEdge (s : Hw) : Hw :=
  if s.flag F.FLT_STATUS_DRAINING && !s.flag F.FLT_STATUS_DRAINED && !(s.jobs.map (·.1)).any (fun j => s.roundOpen j && s.readySent j) then
    let s1 := s.boundQueues.foldl (fun s p =>
      let n := (s.getQueue p.1 p.2).bind.stream
      (s.fset F.STRM_STATE_HALTED 1 n).shadowTouch n) s
    let s2 := ((s1.fset F.FLT_STATUS_DRAINING 0).fset F.FLT_STATUS_DRAINED 1).raise 0x4041 s.beatNo 0 beatWho
    if s.twinState = 0 then s2 else s2.sendTwin 0x0B (2 + (1 <<< 8))
  else s

/-- R39: every unit reaches a safe point: the slots that have not ended with their budget end. -/
def Hw.quiesce (s : Hw) : Hw :=
  let s1 := (s.boundQueues.filter (fun p => !(s.getQueue p.1 p.2).spent)).foldl (fun s p => (s.suspendQueue p.1 p.2).endSlot p.1 p.2) s
  let bound := s.boundQueues.map (fun p => (s.getQueue p.1 p.2).bind.stream)
  let s2 := (s1.streams.map (·.1)).foldl (fun s n => s.haltAtEdge n (bound.contains n)) s1
  let s3 := bound.foldl (fun s n =>
    if (s.watchedSel n).isSome then s.modStream n (fun x => { x with waitBeats := x.waitBeats + 1 }) else s) s2
  s3.drainEdge

/-! ### Step 1: latch rollover (R41) -/

def Hw.rollover (s : Hw) : Hw :=
  let e := s.beat.cur
  let s1 : Hw := { s with tiles := Sparse.mapVals s.tiles (fun t x =>
    if x.frame.isSome then { x with fs := { x.fs with latches := x.fs.latches &&& ~~~(BitVec.ofNat 64 (e.latchMask t)) }, latchCycle := none } else x) }
  ((s.latches.set.map (·.1)).filter e.globalMask).foldl (fun s n => s.setGlatch n false) s1

/-! ### Step 3: frames (R56 to R58, R61) -/

/-- R321, R322, R328: the tiles whose physical tile leaves service in this edge window: logical tile, physical tile, and whether the Totha
retires it. DESIGN CHOICE, log 72. -/
def Hw.leaving (s : Hw) : List (Nat × Nat × Bool) :=
  let hard := (List.range 512).filterMap (fun t =>
    let p := s.physOf t
    if !s.flt.offline.contains t && (s.getPhys p).retireDue && (s.getPhys p).st.serves then some (t, p, true) else none)
  hard ++ (s.flt.wanted.filter (fun w => s.physOf w.1 == w.2 && !s.flt.offline.contains w.1 && (s.getPhys w.2).st == UnitSt.draining &&
    !hard.any (fun h => h.1 == w.1))).map (fun w => (w.1, w.2, false))

/-- R21, R321: the free spare of a die for the place of physical tile p: one that has passed a full assay within the period and is not taken
already, in the same row or else the nearest, the lower row (and then the lower number) winning a tie. -/
def Hw.chooseSpare (s : Hw) (p : Nat) (taken : List Nat := []) : Option Nat :=
  let free := ((List.range 72).map (fun i => physDie p * 72 + i)).filter (fun q =>
    (s.getPhys q).st == UnitSt.spare && !(s.getPhys q).retireDue && !taken.contains q &&
    decide ((s.getPhys q).since ≤ s.fget F.FLT_ASSAY_PERIOD_BEATS))
  let dist := fun (q : Nat) => (if physRow p ≤ physRow q then physRow q - physRow p else physRow p - physRow q) * 8 + physRow q
  free.foldl (fun (b : Option Nat) q => match b with
    | none => some q
    | some r => if dist q < dist r then some q else some r) none

/-- R21: the tiles that leave, each with its spare. -/
def Hw.assign (s : Hw) : List Leave :=
  s.leaving.foldl (fun (l : List Leave) w =>
    l ++ [{ tile := w.1, phys := w.2.1, hard := w.2.2, spare := s.chooseSpare w.2.1 (l.filterMap (·.spare)) }]) []

/-- R325: a tile's log records a frame it saved. -/
def Hw.touchFrame (s : Hw) (p f : Nat) : Hw :=
  s.modPhys p (fun x =>
    if x.touchedAll then x
    else match x.log.findIdx? (·.frames) with
    | some i => let e := nth { lo := f, hi := f, region := 0, job := 0, frames := true } x.log i
                { x with log := setNth { e with lo := min e.lo f, hi := max e.hi f } x.log i }
    | none => if x.log.length < 256 then { x with log := x.log ++ [{ lo := f, hi := f, region := 0, job := 0, frames := true }] }
              else { x with touchedAll := true })

/-- R56: saves the set resident on a tile into its frame. -/
def Hw.saveFrame (s : Hw) (t : Nat) : Hw :=
  let x := s.getTile t
  match x.frame with
  | none => s
  | some f =>
    ((s.setFrame f { x.fs with blocks := x.blocks }).setTile t { x with
      frame := none, fs := FrameState.empty, blocks := [], writeBack := some f, queues := [], latchCycle := none }).touchFrame (s.physOf t) f

/-- R59, R214: an operand of a command that resumes on another tile stands in that tile's store. -/
def Hw.rebase (s : Hw) (t : Nat) (o : Opnd) : Opnd :=
  { o with addr := s.descAddr t o.img, scaleAddr := if o.scaled then s.descAddr t o.scale else o.scaleAddr }

/-- R56: a command in flight on the tile and queue its stream is bound to now. -/
def Hw.moveFlight (s : Hw) (t : Nat) (q : Option Nat) (f : InFlight) : InFlight :=
  let ops := if f.tile = t then f.ops else f.ops.map (fun o => o.map (s.rebase t))
  let again := f.tile ≠ t
  { f with tile := t, queue := q.getD f.queue, ops := ops,
           dests := if again then rangesOf f.cmd ops [] isDst else f.dests, srcs := if again then rangesOf f.cmd ops [] isSrc else f.srcs }

/-- R56: a staged set becomes resident.  An output block whose command has completed or been abandoned meanwhile is gone. -/
def Hw.restoreFrame (s : Hw) (t f : Nat) (fs : FrameState) (e : Entry) : Hw :=
  let queueOf := fun (n : Nat) => [0, 1, 2, 3].find? (fun q => (e.binding t q).valid && (e.binding t q).stream == n)
  let fs1 := { fs with ctxs := Sparse.mapVals fs.ctxs (fun n c => { c with flight := c.flight.map (s.moveFlight t (queueOf n)) }), blocks := [] }
  let live := fs.blocks.filter (fun b => (fs.ctx b.stream).flight.any (fun g => g.num == b.num && g.stage != Stage.completed))
  (s.setFrame f FrameState.empty).setTile t { s.getTile t with frame := some f, fs := fs1, blocks := live, idle := false, staged := none, stagedDross := none, stagedUe := 0 }

/-- The streams whose home frame is f. -/
def Hw.streamsOfFrame (s : Hw) (f : Nat) : List Nat :=
  ((s.regs.filter (fun e => e.1 % 512 == Reg.STRM_FRAME.ctorIdx)).map (fun e => e.1 / 512)).filter (fun n => s.fget F.STRM_FRAME_FRAME n == f)

/-- R56, R58, R307: an incoming frame is restored, or the tile stays idle for the beat: the frame is not staged (event 0x1012), or it is
dross, which its streams consume.  A frame saved by another tile in this step moves with the set saved (DEDUCED, log 18). -/
def Hw.takeFrame (s : Hw) (t f : Nat) (e : Entry) : Hw :=
  let x := s.getTile t
  let idle := fun (s : Hw) => s.modTile t (fun x => { x with idle := true, staged := none, stagedDross := none, stagedUe := 0 })
  let late := ((idle s).bump F.BEAT_STATE_LATE_COUNT).raise 0x1012 t f { kind := 1, unit := t }
  match x.staged with
  | some (g, fs) =>
    if g ≠ f || s.heldElsewhere t f then late
    else match x.stagedDross with
      | some a => (s.streamsOfFrame f).foldl (fun s n => s.consumeDross n a 6 t) ((idle s).bump F.FLT_UE_COUNT 0 x.stagedUe)
      | none =>
        let moved := decide (s.frameAddr f + 0x8000 ≤ s.capacity) && s.tiles.any (fun e => e.2.writeBack == some f)
        s.restoreFrame t f (if moved then s.getFrame f else fs) e
  | none => late

/-- R61: a remapped tile stays idle for the beat: event 0x1012 and the count, made in step 3. -/
def Hw.remapLate (s : Hw) (inc : Option Entry) (w : Leave) : Hw :=
  match w.spare, inc.bind (fun e => s.frameFor e w.tile) with
  | some _, some f => (s.bump F.BEAT_STATE_LATE_COUNT).raise 0x1012 w.tile f { kind := 1, unit := w.tile }
  | _, _ => s

/-- R56, R58, R61: step 3: the sets that leave are saved, and the incoming frames restored; a tile that step 4 is to remap stays idle. -/
def Hw.swaps (s : Hw) (inc : Option Entry) (ws : List Leave) : Hw :=
  let gone := ws.map (·.tile)
  let want := fun (t : Nat) => inc.bind (fun e => s.frameFor e t)
  let outs := s.heldTiles.filter (fun t => (s.getTile t).frame.isSome && (gone.contains t || want t != (s.getTile t).frame))
  let s1 := outs.foldl Hw.saveFrame s
  let ins := (List.range 512).filter (fun t => (want t).isSome && !gone.contains t && want t != (s1.getTile t).frame)
  let s2 := ins.foldl (fun s t => match inc, want t with | some e, some f => s.takeFrame t f e | _, _ => s) s1
  let stay := s2.heldTiles.filter (fun t => !ins.contains t)
  let s3 := stay.foldl (fun s t => s.modTile t (fun x => { x with idle := gone.contains t, staged := none, stagedDross := none, stagedUe := 0 })) s2
  ws.foldl (fun s w => s.remapLate inc w) s3

/-! ### Step 4: remaps (R21, R24, R320 to R323, R328, R330) -/

/-- `FLT.RETIRED`: retirements and offlines since reset. DEDUCED, log 68. -/
def Hw.countRetired (s : Hw) : Hw := s.fset F.FLT_RETIRED_COUNT (min 1023 (s.fget F.FLT_RETIRED_COUNT + 1))

/-- R59, R61: the old store spills its resident partitions. -/
def Hw.spillAll (s : Hw) (p : Nat) : Hw := (s.getPhys p).resident.foldl (fun s r => s.spill p r) s

/-- R35: the Totha has retired a tile that the host was shutting down: a re-enable that waits is refused with event 0x4055 and not held, and
the shut-down is over with event 0x4050. DEDUCED, log 56. -/
def Hw.overtaken (s : Hw) (p : Nat) : Hw :=
  let x := s.getPhys p
  let who : Who := { kind := 1, unit := s.tileName p }
  let s1 := s.modPhys p (fun x => { x with pendingEn := false, enable := false, disable := false })
  let s2 := if x.disable then s1.raise 0x4050 0 p who else s1
  if x.pendingEn || x.enable then s2.raise 0x4055 0 (pack2 p UnitSt.retired.code) who else s2

/-- R321, R322, R328: a logical tile leaves its physical tile: a spare takes its place, or it goes offline.  A tile that the host shuts down
is no retirement (DEDUCED, log 56). -/
def Hw.replaceTile (s : Hw) (w : Leave) : Hw :=
  let t := w.tile
  let p := w.phys
  let s0 := (s.spillAll p).modPhys p (fun x => { x with
    st := if w.hard then .retired else x.st, retireDue := false, observed := false, obsLeft := 0, fails := 0, tithe := 0, part := 6 })
  let s1 := if w.hard then s0.overtaken p else s0
  match w.spare with
  | some q =>
    let s2 := s1.modPhys q (fun x => { x with st := .in_, part := 6 })
    let s3 : Hw := { s2 with flt := { s2.flt with remap := Sparse.set s2.flt.remap t q } }
    if w.hard then s3.countRetired.raise 0x4025 t (pack2 p q) { kind := 1, unit := t } else s3
  | none =>
    (({ s1 with flt := { s1.flt with offline := s1.flt.offline ++ [t] } } : Hw).countRetired).raise 0x4026 t (physDie p) { kind := 1, unit := t }

/-- R330: a tile that passed its return assay enters service: for the lowest offline logical tile of its die, or as a spare. -/
def Hw.tileReturns (s : Hw) (p : Nat) : Hw :=
  let offs := (List.range 512).filter (fun t => s.flt.offline.contains t && tileDie t == physDie p)
  let s1 := s.modPhys p (fun x => { x with
    st := if offs.isEmpty then .spare else .in_, returning := false, pendingEn := false, enable := false, disable := false, part := 6 })
  let s2 : Hw := match offs.head? with
    | some t => { s1 with flt := { s1.flt with offline := s1.flt.offline.filter (fun k => k != t), remap := Sparse.set s1.flt.remap t p } }
    | none => s1
  s2.raise 0x4052 0 p (tileWho s2 p)

/-- R322: bindings to offline tiles are ignored: the beat counts, and event 0x4028 names each frame once. -/
def Hw.offlineBinds (s : Hw) (inc : Option Entry) : Hw :=
  match inc with
  | none => s
  | some e =>
    let hits := s.flt.offline.filter (fun t => e.frame t != noFrame)
    let s1 := if hits.isEmpty then s else s.bump F.FLT_OFFLINE_BINDS_COUNT
    hits.foldl (fun s t =>
      let f := e.frame t
      if s.flt.reported.contains f then s
      else ({ s with flt := { s.flt with reported := s.flt.reported ++ [f] } } : Hw).raise 0x4028 f t { kind := 1, unit := t }) s1

/-- R323: the drain limit. -/
def Hw.drainLimit (s : Hw) : Hw :=
  let lim := s.fget F.FLT_DRAIN_LIMIT_COUNT
  let n := s.fget F.FLT_RETIRED_COUNT
  if lim ≠ 0 && lim < n && !s.flag F.FLT_STATUS_DRAINING && !s.flag F.FLT_STATUS_DRAINED then
    (s.fset F.FLT_STATUS_DRAINING 1).raise 0x4040 n 0 beatWho
  else s

/-- R464: the start-up assay's tiles are admitted, each as the logical tile whose place it holds, or as a spare. -/
def Hw.admitPassed (s : Hw) : Hw :=
  let s1 := s.boot.passed.foldl (fun s p => s.modPhys p (fun x => { x with
    st := if (s.logicalOf p).isSome then .in_ else .spare, since := 0, lastPass := s.beatNo, loomOkA := true, loomOkB := true, part := 6 })) s
  { s1 with boot := { s1.boot with passed := [] } }

/-- R464: after the last wave each logical tile whose place FAILED goes to a free spare of its die, or offline (R322). -/
def Hw.placeFailed (s : Hw) : Hw :=
  if s.fget F.ID_BOOT_TILE_WAVES = 9 && !s.boot.placed then
    let bad := (List.range 512).filter (fun t => !s.flt.offline.contains t && (s.getPhys (s.physOf t)).st == UnitSt.failed)
    let s1 := bad.foldl (fun s t =>
      match s.chooseSpare (s.physOf t) with
      | some q =>
        let s2 := s.modPhys q (fun x => { x with st := .in_ })
        { s2 with flt := { s2.flt with remap := Sparse.set s2.flt.remap t q } }
      | none =>
        (({ s with flt := { s.flt with offline := s.flt.offline ++ [t] } } : Hw).countRetired).raise 0x4026 t (tileDie t) { kind := 1, unit := t }) s
    ({ s1 with boot := { s1.boot with placed := true } } : Hw).fset F.ID_BOOT_TILES_DONE 1
  else s

/-- R24: the remap of this edge window: the tiles that leave and those that return take effect together, or, held, all wait for the next edge
window with the tiles on their old positions. -/
def Hw.remapAll (s : Hw) (ws : List Leave) (held : Bool) : Hw :=
  if held then { s with flt := { s.flt with deferred := ws.map (·.tile) } }
  else
    let s1 := ws.foldl Hw.replaceTile s
    let back := (s1.phys.filter (fun e => e.2.returning)).map (·.1)
    back.foldl Hw.tileReturns { s1 with flt := { s1.flt with wanted := [], deferred := [] } }

/-- R24, R34: step 4. -/
def Hw.remaps (s : Hw) (inc : Option Entry) (ws : List Leave) (held : Bool) : Hw :=
  let s1 := s.admitPassed.placeFailed.remapAll ws held
  let dead := (s1.phys.filter (fun e => e.2.retireDue && e.2.st == UnitSt.spare)).map (·.1)
  let s2 := dead.foldl (fun s p => ((s.modPhys p (fun x => { x with
    st := .retired, retireDue := false, observed := false, obsLeft := 0, fails := 0, part := 6 })).overtaken p).countRetired) s1
  (s2.offlineBinds inc).drainLimit

/-! ### Step 5: the plan, bindings and trim (R25, R50, R53, R68, R72, R226) -/

/-- R50, R53: the plan switches, or its index advances; a held entry repeats. -/
def Hw.advancePlan (s : Hw) (inc : Option Entry) (sw : Bool) : Hw :=
  let e := inc.getD Entry.empty
  if sw then
    let k := s.fget F.BEAT_NEXT_LEN_START
    let s1 := (((s.wr64 .BEAT_CUR_BASE_LO .BEAT_CUR_BASE_HI s.nextBase).fset F.BEAT_CUR_LEN_LEN (s.fget F.BEAT_NEXT_LEN_LEN)).fset
      F.BEAT_ENTRY_INDEX k).fset F.BEAT_STATUS_HELD 0
    ((s1.endSwitch 1).modBeat (fun b => { b with cur := e, curIdx := k, next := none, nextBad := false })).raise 0x1020 (s.beatNo + 1) k beatWho
  else if s.planLen = 0 then s
  else
    let k := (s.fget F.BEAT_ENTRY_INDEX + 1) % s.planLen
    ((s.fset F.BEAT_ENTRY_INDEX k).fflag F.BEAT_STATUS_HELD s.beat.nextBad).modBeat (fun b => { b with
      cur := e, curIdx := if b.nextBad then b.curIdx else k, next := none, nextBad := false })

/-- R25, R47: the routes of the entry in force. -/
def Hw.installRoutes (s : Hw) : Hw :=
  let e := s.beat.cur
  let r := s.expandRoutes e
  let s1 := s.modBeat (fun b => { b with routes := r.1.map (fun i => (i, e.rnum (16 * i) 10)) })
  r.2.foldl (fun s i => (s.bump F.BEAT_DEMOTED_COUNT).raise 0x1031 s.beat.curIdx i beatWho) s1

/-- R226: a queue's binding for the beat: it takes effect where the resident frame is the stream's home frame. -/
def Hw.bindQueue (s : Hw) (t q : Nat) (b : Binding) : Hw :=
  let old := s.getQueue t q
  let f := (s.getTile t).frame.getD noFrame
  let home := s.fget F.STRM_FRAME_FRAME b.stream == f
  let bound := b.valid && home
  let keep := bound && old.bound && old.bind.stream == b.stream
  let v : QueueState := {
    bind := b, bound := bound, fetched := if keep then old.fetched else [], fetchedDross := if keep then old.fetchedDross else [],
    spent := false, yielded := false, why := 0 }
  let s1 := s.setQueue t q v
  if b.valid && !home then s1.raise 0xB030 b.stream (t + (f <<< 9)) { kind := 1, unit := t, stream := some b.stream, job := some (s.jobOf b.stream) }
  else if bound then
    let s2 := if s1.flag F.STRM_STATE_BOUND b.stream then s1 else (s1.fset F.STRM_STATE_BOUND 1 b.stream).shadowTouch b.stream
    (s2.fset F.STRM_STATE_TILE t b.stream).fset F.STRM_STATE_QUEUE q b.stream
  else s1

/-- R45, R226: the bindings of the beat to come, on every tile that holds its entry's set. -/
def Hw.bindAll (s : Hw) (inc : Option Entry) : Hw :=
  let before := (s.regs.filter (fun e => e.1 % 512 == Reg.STRM_STATE.ctorIdx && e.2.toNat.testBit 0)).map (fun e => e.1 / 512)
  let live := fun (s : Hw) (t : Nat) => match inc with
    | some e => (s.getTile t).frame.isSome && !(s.getTile t).idle && s.frameFor e t == (s.getTile t).frame
    | none => false
  let s1 := s.heldTiles.foldl (fun s t =>
    if live s t then [0, 1, 2, 3].foldl (fun s q => s.bindQueue t q ((inc.getD Entry.empty).binding t q)) s
    else s.modTile t (fun x => { x with queues := [] })) s
  let now := s1.boundQueues.map (fun p => (s1.getQueue p.1 p.2).bind.stream)
  (before.filter (fun n => !now.contains n)).foldl (fun s n => (s.fset F.STRM_STATE_BOUND 0 n).shadowTouch n) s1

/-- The signed half of an error and the frequency estimate, rounded to an integer: −(err/2 + freq/16). -/
def trimOf (err freq16 : Int) : Int :=
  let v := -(8 * err + freq16)
  let q := v / 16
  let r := v - q * 16
  let n := if r < 8 then q else if 8 < r then q + 1 else if Config.tieUp v then q + 1 else q
  max (-8) (min 8 n)

/-- A signed value in a field of w bits, saturating. -/
def satField (w : Nat) (v : Int) : Nat :=
  let m : Int := 1 <<< (w - 1)
  ((max (-m) (min (m - 1) v)) % (1 <<< w)).toNat

/-- R68, R71 to R73: what the beat controller does about its group at step 5: the trim of the next beat, the beat number it takes, and the
beats without markers.  Answers the state, the trim and the number of the beat to come. -/
def Hw.groupEdge (s : Hw) : Hw × Int × Nat :=
  let b := s.beat
  let miss := fun (got : Bool) (n : Nat) => if got then 0 else n + 1
  let s1 := s.modBeat (fun b => { b with
    missPrimary := miss b.gotPrimary b.missPrimary, missAny := miss b.gotAny b.missAny, missMaster := miss b.gotMaster b.missMaster,
    gotPrimary := false, gotAny := false, gotMaster := false, phase := none })
  let s2 := match b.phase with | some e => s1.fset F.BEAT_TRIM_PHASE (satField 16 e) | none => s1
  let n := s.beatNo + 1
  let join := fun (s : Hw) (m : Nat) =>
    ((s.modBeat (fun b => { b with joining := false, rejoining := false, outside := false, missPrimary := 0, missAny := 0, missMaster := 0 })).fset
      F.BEAT_STATUS_GROUPED 1).raise 0x1040 m (s.fget F.BEAT_GROUP_DEPTH) beatWho
  if b.joining then
    match b.marker with
    | some m => (join s2 (m.1 + 1), 0, m.1 + 1)
    | none => (s2, 0, n)
  else if b.rejoining && s.level = 2 then
    match b.phase, b.marker with
    | some e, some m => if -21 ≤ e && e ≤ 21 then (join s2 (m.1 + 1), 0, m.1 + 1) else (s2, (if 0 < e then -8 else 8), n)
    | _, _ => (s2, 0, n)
  else if s.follows then
    let s3 := s2.fflag F.BEAT_STATUS_HOLDOVER (!b.gotAny)
    match b.phase with
    | some e => (s3.modBeat (fun b => { b with freq16 := b.freq16 + e }), trimOf e (b.freq16 + e), n)
    | none => (s3, trimOf 0 b.freq16, n)
  else (s2, 0, n)

/-! ### Step 7: returns and enables (R329, R330, R501) -/

/-- R330: a link that was admitted again returns. -/
def Hw.linkReturns (s : Hw) (l : Nat) : Hw :=
  if (s.getLink l).returning then
    (s.modLink l (fun x => { x with st := .in_, returning := false, pendingEn := false, enable := false, disable := false })).raise 0x4052 2 l (linkWho l)
  else s

/-- R316: a full assay begins on a physical tile. -/
def Hw.beginAssay (s : Hw) (p : Nat) : Hw :=
  s.modPhys p (fun x => { x with part := 0, rerun := false, assayBad := false, seed := s.beatNo % 256, setCount := s.fget F.FLT_ASSAY_SET_COUNT, set := s.flt.patterns })

/-- R329, R330: the return of a unit starts whose ENABLE waits and that is out of service. -/
def Hw.startReturn (s : Hw) (kind i : Nat) : Hw :=
  let st := s.unitSt kind i
  if (st = .out || st = .retired) && (s.unitPending kind i || s.unitEnable kind i) then
    let s1 := s.setUnit kind i .assaying false false false
    match kind with
    -- R314, R316: the assay begins in the next beat, with that beat's seed
    | 0 => s1.modPhys i (fun x => { x with returning := false, part := 6 })
    | 1 => s1.modChan i (fun x => { x with returning := false, due := some 2 })
    | _ => (s1.modLink i (fun x => { x with returning := false })).startTraining i
  else s

/-- Step 7. -/
def Hw.enables (s : Hw) : Hw :=
  let ps := s.phys.map (·.1)
  let cs := s.chans.map (·.1)
  let ls := s.links.map (·.1)
  let s1 := cs.foldl Hw.channelReturns s
  let s2 := ls.foldl Hw.linkReturns s1
  let s3 := ps.foldl (fun s p => s.startReturn 0 p) s2
  let s4 := cs.foldl (fun s c => s.startReturn 1 c) s3
  (ls.foldl (fun s l => s.startReturn 2 l) s4).armEdge

/-! ### Cycle 0 of the next beat -/

/-- R316, R318, R319: what a beat means for assay: the tiles given to it, the tithes used up, the beats counted. -/
def Hw.assayBeat (s : Hw) (inc : Option Entry) : Hw :=
  let given := fun (t : Nat) => s.admitted t && ((s.getPhys (s.physOf t)).tithe != 0 ||
    (match inc with | some e => e.frame t == noFrame | none => false))
  let tithed := (List.range 512).filter (fun t => s.admitted t && (s.getPhys (s.physOf t)).tithe != 0)
  let s1 := (List.range 512).foldl (fun s t =>
    if given t != (s.getTile t).assay then s.modTile t (fun x => { x with assay := given t }) else s) s
  let s2 := s1.bump F.FLT_TITHES_COUNT 0 tithed.length
  let s3 := tithed.foldl (fun s t => s.modPhys (s.physOf t) (fun x => { x with tithe := x.tithe - 1 })) s2
  (s3.phys.map (·.1)).foldl (fun s p =>
    let s4 := s.modPhys p (fun x => { x with
      since := if x.st.serves || x.st == UnitSt.spare then x.since + 1 else x.since,
      obsLeft := if x.observed then x.obsLeft - 1 else x.obsLeft })
    if s4.assayOn p && (s4.getPhys p).part = 6 && !(s4.getPhys p).returning then s4.beginAssay p else s4) s3

/-- R67: the master sends its marker at the start of the beat. -/
def Hw.sendMarkers (s : Hw) : Hw :=
  if s.flag F.BEAT_STATUS_MASTER && s.level = 2 then s.admittedLinks.foldl (fun s l => s.sendRecord l (s.markerRec s.me s.beatNo)) s else s

/-- R235: the shadows that fall due. -/
def Hw.shadowsDue (s : Hw) : Hw :=
  { s with streams := s.streams.map (fun e => (e.1, { e.2 with shadowDue := e.2.shadowDirty, shadowDirty := false })) }

/-- R38, R39, R59: the next beat begins. DESIGN CHOICE, log 71: BEAT.TRIM shows the trim of the beat that begins. -/
def Hw.beginBeat (s : Hw) (inc : Option Entry) (trim : Int) (n : Nat) : Hw :=
  let s1 : Hw := { s with host := { s.host with once := [] } }
  let s2 := ((s1.fset F.BEAT_TRIM_TRIM (satField 5 (max (-8) (min 8 trim)))).wr64 .BEAT_COUNT_LO .BEAT_COUNT_HI (n % (1 <<< 64))).modBeat (fun b => { b with
    cycle := 0, edge := EdgeRun.none })
  let s3 := s2.heldTiles.foldl Hw.placePartitions s2
  let s4 := (s3.boundQueues.map (fun p => (s3.getQueue p.1 p.2).bind.stream)).foldl Hw.installSeed s3
  let s5 := (s4.assayBeat inc).releaseWaits.resendQueries.sendMarkers.sendHellos
  s5.shadowsDue.drainTrace

/-- R24, R61: whether this edge window's remap is deferred: where tiles leave or return, a free choice (DESIGN CHOICE, log 57).  A tile whose
remap is deferred again has its frame restored on its old position. -/
def Hw.remapHeld (s : Hw) (ws : List Leave) : Hw × Bool :=
  if ws.isEmpty && !s.phys.any (fun e => e.2.returning) then (s, false)
  else ({ s with free := s.free + 1 }, Config.remapHeld s.free)

/-! ### The window (R37, R39) -/

/-- R39: the offset at which a step begins: quiesce, and steps 1 to 7. -/
def edgeOffset (i : Nat) : Nat := nth 1024 [0, 320, 336, 400, 656, 784, 944, 1008] i

/-- R39: what the Totha does in a step. -/
def Hw.edgeBody (s : Hw) (i : Nat) : Hw :=
  let e := s.beat.edge
  match i with
  | 0 =>
    -- a fetch of the next entry that has not been reported has ended with the issue window
    let s1 := if s.switchNamed && s.beat.switchAt ≠ 0 && s.beat.start.isNone then s.refuseSwitch 3 0xFFFF else s
    s1.planFetched.recastEdge.quiesce
  | 1 => s.rollover
  | 2 => s.commitEdge.twinEdge
  | 3 =>
    let ws := s.admitPassed.placeFailed.assign
    let r := s.remapHeld ws
    (r.1.swaps s.incoming (if r.2 then ws.filter (fun w => !s.flt.deferred.contains w.tile) else ws)).modBeat (fun b => { b with
      edge := { b.edge with inc := s.incoming, sw := s.switchDue, leave := ws, held := r.2 } })
  | 4 => s.remaps e.inc e.leave e.held
  | 5 =>
    let g := (((s.advancePlan e.inc e.sw).installRoutes).bindAll e.inc).groupEdge
    g.1.modBeat (fun b => { b with edge := { b.edge with trim := g.2.1, number := g.2.2 } })
  | 6 => ((List.range 512).filter (fun t => !(s.getPhys (s.physOf t)).held.isEmpty)).foldl Hw.admitRoutines s
  | _ => s.enables

/-- R39, R509: step i begins at its offset; the trace records it. DESIGN CHOICE, log 8. -/
def Hw.edgeStep (s : Hw) (i : Nat) : Hw :=
  let s1 := s.clock (s.windowEnd + edgeOffset i - s.beat.cycle).toNat
  let s2 := s1.modBeat (fun b => { b with edge := { b.edge with step := i + 1 } })
  (if i ≠ 0 && s2.flag F.DBG_TRACE_CTL_SRC_EDGE then s2.trace (s2.traceRec 5 i 0 0 0 s2.beatNo) else s2).edgeBody i

/-- R37, R39: the step of the edge window that is due in this cycle takes place. -/
def Hw.edgeDue (s : Hw) : Hw :=
  let i := s.beat.edge.step
  if s.running && decide (i < 8) && decide (s.windowEnd + edgeOffset i ≤ s.beat.cycle) then s.edgeStep i else s

/-- R4, R5, R39, R511: one period of the arithmetic clock passes.  The cycle of the beat advances while beats run, through the edge window
with its steps, and stands at the beat's last cycle until the window's end is commanded; before beats run only the time since the origin
moves. -/
def Hw.tick (s : Hw) : Hw :=
  match s.boot.phase with
  | .off => s
  | _ => (s.clock 1).copyTick.edgeDue.drainTrace

/-- A step on an empty queue. -/
def tick (s : State) : Host.Outcome State Fault Refusal := s.onHw Hw.tick

/-- R39: the edge window: the rest of the issue window passes, the steps that have not begun take place, and the next beat begins. -/
def Hw.edgeWindow (s : Hw) : Hw :=
  if !s.running then s
  else
    let s1 := ((List.range 8).filter (fun i => decide (s.beat.edge.step ≤ i))).foldl Hw.edgeStep s
    let s2 := s1.clock (s1.windowEnd + 1024 - s1.beat.cycle).toNat
    s2.beginBeat s2.beat.edge.inc s2.beat.edge.trim s2.beat.edge.number

def execEdgeWindow (s : State) : Host.Outcome State Fault Refusal := s.onHw Hw.edgeWindow

end Sys2Proof.Machine
end

