-- ==== Sys2Proof/Machine/HostIf.lean ====
section
/-!
DEFINITION. The host interface (R405 to R426, R470): configuration space, BAR4, events and MSI-X, copy queues, host reset.
-/
namespace Sys2Proof.Machine

/-! ### MSI-X (R407, R420) -/

def Hw.modHost (s : Hw) (f : HostIf → HostIf) : Hw := { s with host := f s.host }

/-- A dword of the MSI-X table: only the mask bit of a vector control is set after reset. -/
def Hw.msixDword (s : Hw) (i : Nat) : Nat := (Sparse.get (if i % 4 = 3 then 1 else 0) s.host.msix i).toNat

/-- MSI-X Enable and Function Mask of the message control word. -/
def Hw.msixOn (s : Hw) : Bool := bit (Sparse.get 0 s.host.cfg 20).toNat 31
def Hw.msixMasked (s : Hw) (v : Nat) : Bool := bit (Sparse.get 0 s.host.cfg 20).toNat 30 || bit (s.msixDword (4 * v + 3)) 0

/-- The message of a vector: a write of the table's data to the table's address. DEDUCED, log 55. -/
def Hw.sendMsix (s : Hw) (v : Nat) : Hw :=
  (s.hostWrite (s.msixDword (4 * v) + (s.msixDword (4 * v + 1) <<< 32)) (toBytes 4 (s.msixDword (4 * v + 2)))).modHost (fun h => { h with
    sentMsgs := Sparse.put 0 h.sentMsgs v (Sparse.get 0 h.sentMsgs v + 1), pba := Sparse.erase h.pba v })

/-- Pending vectors that are masked no longer send their messages. -/
def Hw.unmaskMsix (s : Hw) : Hw :=
  if s.msixOn && s.busMaster then (s.host.pba.map (·.1)).foldl (fun s v => if s.msixMasked v then s else s.sendMsix v) s else s

/-- R420: a message of a vector falls due once COUNT records are pending, or TIME µs after the first. -/
def Hw.msixDue (s : Hw) (v : Nat) : Bool :=
  match Sparse.find? s.host.pendingMsgs v with
  | none => false
  | some (n, t) =>
    max 1 (s.fget F.HIF_EVT_MOD_COUNT) ≤ n ||
      (s.fget F.HIF_EVT_MOD_TIME != 0 && t + s.fget F.HIF_EVT_MOD_TIME * 1050 ≤ s.boot.ticks)

/-- R420: the message is sent, or sets its pending bit where it is masked. -/
def Hw.msixMessage (s : Hw) (v : Nat) : Hw :=
  if s.msixDue v && s.msixOn && s.busMaster then
    let s1 := s.modHost (fun h => { h with pendingMsgs := Sparse.erase h.pendingMsgs v })
    if s.msixMasked v then s1.modHost (fun h => { h with pba := Sparse.set h.pba v 1 }) else s1.sendMsix v
  else s

def execMsixMessage (vector : BitVec 11) (s : State) : Host.Outcome State Fault Refusal := s.onHw (fun h => h.msixMessage vector.toNat)

/-- A write of the MSI-X table; of a vector control only the mask is kept.  The PBA ignores writes. -/
def Hw.msixWrite (s : Hw) (o v : Nat) : Hw :=
  if 0xF0_0000 ≤ o && o < 0xF0_8000 then
    let i := (o - 0xF0_0000) / 4
    let d : Reg32 := if i % 4 = 3 then 1 else 0
    let x := BitVec.ofNat 32 (if i % 4 = 3 then v % 2 else v % 0x1_0000_0000)
    (s.modHost (fun h => { h with msix := Sparse.put d h.msix i x })).unmaskMsix
  else s

/-! ### Configuration space (R405 to R407, R410) -/

/-- Capabilities at their places (PRESUMED, log 60): dword, capability identifier (16 bits and version for the extended ones) and the next place. -/
def cfgCaps : List (Nat × Nat) :=
  [(16, 0x0003_5001), (20, 0x07FF_7011), (28, 0x0002_0010),
   (64, 0x1482_0001), (82, 0x1581_0003), (86, 0x1701_0015), (92, 0x1801_0019), (96, 0x1901_0025), (100, 0x1B01_0026), (108, 0x1D01_002A),
   (116, 0x1E01_0031), (120, 0x0001_0027)]

/-- The bits of a configuration dword that a write sets. DEDUCED, log 21. -/
def Hw.cfgMask (s : Hw) (d : Nat) : Nat :=
  match d with
  | 1 => 0x0546
  | 4 => 0xF000_0000
  | 6 => 0xC000_0000
  | 5 | 7 => 0xFFFF_FFFF
  | 9 => 0xFFFF_FFFF - ((1 <<< (s.fget F.HIF_BAR4_SIZE_LOG2 - 32)) - 1)
  | 17 => 0x3
  | 20 => 0xC000_0000
  | 30 => 0x7FFF
  | 66 | 67 => 0xFFFF_FFFF
  | _ => 0

/-- What a configuration read returns. -/
def Hw.cfgRead (s : Hw) (fu : Fuses) (d : Nat) : Nat :=
  let own := (Sparse.get 0 s.host.cfg d).toNat &&& s.cfgMask d
  match d with
  | 0 | 11 => 0x0320_1DF8
  | 1 => own + 0x0010_0000
  | 2 => 0x1200_0000 + fu.stepping % 256
  | 4 => own + 0x4
  | 6 => own + 0xC
  | 8 => 0xC
  | 13 => 0x40
  | 17 => own + 0x8
  | 20 => own + 0x07FF_7011
  | 21 => 0x00F0_0000
  | 22 => 0x00F1_0000
  | 65 => one s.host.aerPoison <<< 12
  | 83 => (s.rd .ID_SERIAL_LO 0).toNat
  | 84 => (s.rd .ID_SERIAL_HI 0).toNat
  | 87 => 0x00FF_0000
  | 88 => 0x24 + ((s.fget F.HIF_BAR4_SIZE_LOG2 - 20) <<< 8)
  | _ => ((cfgCaps.find? (fun e => e.1 == d)).map (·.2)).getD own

/-- What a configuration write does: R410: the Resizable BAR capability sets the size of BAR4. -/
def Hw.cfgWrite (s : Hw) (d v : Nat) : Hw :=
  match d with
  | 65 => s.modHost (fun h => { h with aerPoison := h.aerPoison && !bit v 12 })
  | 88 => let n := bits v 8 6 + 20; if 32 ≤ n && n ≤ 39 then s.fset F.HIF_BAR4_SIZE_LOG2 n else s
  | _ => (s.modHost (fun h => { h with cfg := Sparse.put 0 h.cfg d (BitVec.ofNat 32 (v &&& s.cfgMask d)) })).unmaskMsix

/-- R407, R470: a configuration request is answered with Retry Status before 120 ms. -/
def Hw.configRequest (s : Hw) (fu : Fuses) (write : Bool) (d v : Nat) : Hw :=
  if !s.host.linkUp then s
  else if !s.bar0Open then s.reply [] false 2
  else if write then (s.cfgWrite d v).reply []
  else s.reply (toBytes 4 (s.cfgRead fu d))

def execConfigRequest (write : Bool) (dword : BitVec 10) (value : BitVec 32) (s : State) : Host.Outcome State Fault Refusal :=
  s.onHw (fun h => h.configRequest s.fuses write dword.toNat value.toNat)

/-! ### The host link (R408, R470) -/

/-- R470: training begins at the later of 30 ms and the deassertion of PERST#. -/
def Hw.pcieTrainingStart (s : Hw) : Hw :=
  match s.boot.phase with
  | .off | .sequencing | .reset | .stopped => s
  | _ => ({ s.atMs 30 with boot := { (s.atMs 30).boot with perst := false } } : Hw).modHost (fun h => { h with training := true })

def execPcieTrainingStart (s : State) : Host.Outcome State Fault Refusal := s.onHw Hw.pcieTrainingStart

/-- R408: the link is up at a speed (1 to 6) and width; FLIT mode is always in use at 64 GT/s (R405). -/
def Hw.pcieLinkTrained (s : Hw) (speed width : Nat) (flit : Bool) : Hw :=
  if !s.host.training then s
  else
    let s1 := s.wr .HIF_LINK 0 (BitVec.ofNat 32 (speed + (width <<< 3) + (one (flit || speed == 6) <<< 8)))
    let s2 := s1.modHost (fun h => { h with linkUp := true, lastLink := (speed, width) })
    if s.host.lastLink = (0, 0) || s.host.lastLink = (speed, width) then s2 else s2.raise 0x8001 speed width

def execPcieLinkTrained (speed : BitVec 3) (width : BitVec 5) (flitMode : Bool) (s : State) : Host.Outcome State Fault Refusal :=
  s.onHw (fun h => h.pcieLinkTrained speed.toNat width.toNat flitMode)

/-! ### Events (R416 to R420) -/

/-- R417: the 32 bytes of record i of a ring of 2^log2. -/
def EventRec.toBytes (e : EventRec) (i phase : Nat) (lost : Bool) : List Byte :=
  Machine.toBytes 2 e.code ++
  Machine.toBytes 2 (phase + (one lost <<< 1) + (one e.job.isSome <<< 2) + (one e.stream.isSome <<< 3) + (one e.early <<< 4)) ++
  Machine.toBytes 2 (e.job.getD 0 % 4096) ++ Machine.toBytes 2 (e.unit % 1024 + (e.kind <<< 12)) ++
  Machine.toBytes 8 (e.cycle % (1 <<< 22) + ((e.beat % (1 <<< 42)) <<< 22)) ++ Machine.toBytes 4 (e.stream.getD 0 % 0x1_0000) ++
  Machine.toBytes 4 e.arg0 ++ Machine.toBytes 4 e.arg1 ++ Machine.toBytes 4 i

/-- R419: the ring has room: it is not full. -/
def Hw.ringRoom (s : Hw) : Bool :=
  decide ((s.fget F.HIF_EVT_PROD_COUNT + 0x1_0000_0000 - s.fget F.HIF_EVT_CONS_COUNT) % 0x1_0000_0000 < 1 <<< s.fget F.HIF_EVT_CTL_LOG2)

/-- R420, R429: the vector of an event; the copy queues' own for 0x8030 and 0x8031. -/
def Hw.vectorOf (s : Hw) (e : EventRec) : Nat :=
  if e.code = 0x8030 || e.code = 0x8031 then s.fget F.HIF_COPY_CFG_VECTOR e.arg0 else s.fget F.HIF_EVT_VEC_VECTOR (e.code / 4096 - 1)

/-- R416 to R420: the oldest waiting record is written, where the ring has room and is enabled and Bus Master Enable is set with the link up;
after dropped events it carries LOST, and event 0x8010 follows. -/
def Hw.eventRecordWrite (s : Hw) : Hw :=
  match s.host.waiting with
  | [] => s
  | e :: rest =>
    if s.flag F.HIF_EVT_CTL_EN && s.busMaster && s.ringRoom then
      let i := s.fget F.HIF_EVT_PROD_COUNT
      let log2 := s.fget F.HIF_EVT_CTL_LOG2
      let lost := s.host.dropped
      let s1 := s.hostWrite (s.rd64 .HIF_EVT_BASE_LO .HIF_EVT_BASE_HI + 32 * (i % (1 <<< log2)))
        (e.toBytes i (1 - (i >>> log2) % 2) (lost != 0))
      let v := s.vectorOf e
      let p := (Sparse.find? s.host.pendingMsgs v).getD (0, s.boot.ticks)
      let s2 := (s1.fset F.HIF_EVT_PROD_COUNT ((i + 1) % 0x1_0000_0000)).modHost (fun h => { h with
        waiting := rest, dropped := 0, pendingMsgs := Sparse.set h.pendingMsgs v (p.1 + 1, p.2) })
      if lost = 0 then s2 else s2.raise 0x8010 lost 0
    else s

def execEventRecordWrite (s : State) : Host.Outcome State Fault Refusal := s.onHw Hw.eventRecordWrite

/-! ### BAR4 (R411 to R415) -/

/-- Where a BAR4 offset leads: a device address, a byte of the BARE staging area, the window of a retired channel (R348), nothing. -/
inductive Aperture where
  | dev (a : Nat)
  | stage (k : Nat)
  | window (a : Nat)
  | unmapped
  deriving DecidableEq, Repr

def Hw.bar4Size (s : Hw) : Nat := 1 <<< s.fget F.HIF_BAR4_SIZE_LOG2

/-- R411, R412, R445. -/
def Hw.bar4At (s : Hw) (o : Nat) : Aperture :=
  let low := s.bar4Size - 0x8000_0000
  if s.level = 0 then (if s.mu.stagingCh.isSome && o < 0x101_0000 then .stage o else .unmapped)
  else if o < low then
    let a := s.rd64 .HIF_BAR4_BASE_LO .HIF_BAR4_BASE_HI + o
    if a < s.capacity then .dev a
    else if s.mu.mapped && s.mu.windowOff && a < 0x50_0000_0000 then .window a
    else .unmapped
  else
    let t := (o - low) / 0x40_0000
    let x := (o - low) % 0x40_0000
    if x < 0x2F_0000 && !s.flt.offline.contains t then .dev (storeAddr t + x) else .unmapped

def Hw.bar4All (s : Hw) (o n : Nat) : List (Nat × Aperture) := (List.range n).map (fun i => (i, s.bar4At (o + i)))

/-- R348, R412: an access that reaches the window, or unmapped bytes, is counted and reported. -/
def Hw.bar4Count (s : Hw) (o : Nat) (l : List (Nat × Aperture)) : Hw :=
  let s1 := if l.any (fun e => e.2 == .unmapped) then (s.bump F.HIF_UNMAPPED_COUNT).raiseOnce 0x8021 0 o (o >>> 32) else s
  match l.findSome? (fun e => match e.2 with | .window a => some a | _ => none) with
  | some a => (s1.bump F.MEM_WINDOW_ACCESS_COUNT).raise 0x5050 a (a >>> 32)
  | none => s1

/-- A byte as the host reads it. -/
def Hw.apertureByte (s : Hw) (p : Aperture) : Byte :=
  match p with
  | .dev a => s.peek a
  | .stage k => s.mem.goodByte k
  | _ => 0

/-- R301: the host takes in the words that bytes lie in; answers the first atom of theirs that is dross. -/
def Hw.apertureTake (s : Hw) (l : List Aperture) : Hw × Option Nat :=
  let devs := l.filterMap (fun p => match p with | .dev a => some (a / 128) | _ => none)
  let keys := l.filterMap (fun p => match p with | .stage k => some (k / 8) | _ => none)
  let r := devs.eraseDups.foldl (fun (r : Hw × Option Nat) a =>
    let lo := (List.find? (fun p => match p with | .dev b => b / 128 == a | _ => false) l).map (fun p => match p with | .dev b => b | _ => 0)
    let hi := (List.find? (fun p => match p with | .dev b => b / 128 == a | _ => false) l.reverse).map (fun p => match p with | .dev b => b | _ => 0)
    let c := r.1.consume [(lo.getD 0, hi.getD 0)]
    -- R309: an access that touches a dross atom, whichever of its words
    let bad := c.2.isSome || c.1.drossAt (a * 128)
    (c.1, if r.2.isSome then r.2 else if bad then some (a * 128) else none)) (s, none)
  let s1 := r.1.takeWords ((keys.eraseDups).filter (fun w => r.1.mem.syndrome w != .clean))
  let bad := (keys.map (fun w => w / 16 * 128)).find? (fun k => s1.mem.atomDross k)
  (s1, if r.2.isSome then r.2 else bad)

/-- R309, R414: data with the poisoned attribute. -/
def Hw.poisonTx (s : Hw) (a : Nat) : Hw := (s.bump F.HIF_POISON_TX_COUNT).raise 0x4004 a (a >>> 32)

/-- R411, R412, R309: a host read. -/
def Hw.bar4Read (s : Hw) (o n : Nat) : Hw :=
  if !s.bar0Open || s.bar4Size < o + n then s.reply [] false 1
  else
    let l := s.bar4All o n
    let s1 := s.bar4Count o l
    let r := s1.apertureTake (l.map (·.2))
    let data := l.map (fun e => r.1.apertureByte e.2)
    match r.2 with
    | some a => (r.1.poisonTx a).reply data true
    | none => r.1.reply data

def execBar4Read (off : BitVec 40) (len : BitVec 13) (s : State) : Host.Outcome State Fault Refusal :=
  s.onHw (fun h => h.bar4Read off.toNat len.toNat)

/-- R220: a host write into the descriptor table is discarded with event 0xC050. -/
def Hw.tableDrop (s : Hw) (a : Nat) : Hw := (s.bump F.STRM_TABLE_DROP_COUNT).raise 0xC050 a (a >>> 32)

/-- R220, R446: writes bytes of the host at device addresses. -/
def Hw.hostToDev (s : Hw) (c : Sparse Byte) : Hw :=
  let ok := c.filter (fun e => !s.inTable e.1)
  let s1 := match List.find? (fun e => s.inTable e.1) c with | some e => s.tableDrop e.1 | none => s
  s1.writeAddrs ok

/-- R445, R446: writes bytes at memory keys of the BARE staging area. -/
def Hw.stageWrite (s : Hw) (c : Sparse Byte) : Hw :=
  match List.find? (fun e => s.lockedAt e.1) c with
  | some e => (s.stageDrop e.1).writeKeys (c.filter (fun e => !s.lockedAt e.1))
  | none => s.writeKeys c

/-- R412, R413, R415: a host write; a poisoned one makes dross of every atom that it touches. DEDUCED, log 26. -/
def Hw.bar4Write (s : Hw) (o : Nat) (data : List Byte) (poisoned : Bool) : Hw :=
  if !s.bar0Open || s.bar4Size < o + data.length then s
  else
    let l := s.bar4All o data.length
    let s1 := s.bar4Count o l
    let devs := ((l.zip data).filterMap (fun p => match p.1.2 with | .dev a => some (a, p.2) | _ => none) : Sparse Byte)
    let keys := ((l.zip data).filterMap (fun p => match p.1.2 with | .stage k => some (k, p.2) | _ => none) : Sparse Byte)
    let s2 := if devs.isEmpty then s1 else s1.hostToDev devs
    let s3 := if keys.isEmpty then s2 else s2.stageWrite keys
    if poisoned then
      let atoms := ((devs.filter (fun e => !s1.inTable e.1 && !s1.lockedAt e.1)).map (fun e => e.1 / 128 * 128)).eraseDups
      let s4 := atoms.foldl Hw.markDross s3
      let marks := ((keys.filter (fun e => !s1.lockedAt e.1)).map (fun e => e.1 / 128 * 128)).eraseDups
      (marks.foldl (fun s k => ({ s with mem := s.mem.markDross k } : Hw).bump F.FLT_DROSS_MADE_COUNT) s4).poisonRx o 4
    else s3

def execBar4Write (off : BitVec 40) (data : List Byte) (poisoned : Bool) (s : State) : Host.Outcome State Fault Refusal :=
  s.onHw (fun h => h.bar4Write off.toNat data poisoned)

/-- R414: the new value of an AtomicOp of a width in bits: 0 FetchAdd, 1 Swap, 2 CAS; none where nothing is written. -/
def atomicValue (op w old a b : Nat) : Option Nat :=
  match op with
  | 0 => some ((old + a) % (1 <<< w))
  | 1 => some (a % (1 <<< w))
  | _ => if old = a % (1 <<< w) then some (b % (1 <<< w)) else none

/-- R414: an AtomicOp. -/
def Hw.bar4Atomic (s : Hw) (o op log2 a b : Nat) : Hw :=
  let n := 1 <<< log2
  if !s.bar0Open || s.bar4Size < o + n then s.reply [] false 1
  else
    let p := s.bar4At o
    let s1 := s.bar4Count o [(0, p)]
    let target := match p with | .dev x => if x < storeBase then some p else none | .stage _ => some p | _ => none
    match target with
    | none => s1.reply [] false 1
    | some p =>
      if (n ≠ 4 && n ≠ 8) || o % n ≠ 0 then s1.reply [] false 1
      else
        let at_ := fun (i : Nat) => match p with | .dev x => Aperture.dev (x + i) | .stage k => .stage (k + i) | _ => .unmapped
        let r := s1.apertureTake ((List.range n).map at_)
        let s2 := r.1
        let old := ofBytes ((List.range n).map (fun i => s2.apertureByte (at_ i)))
        let dross : Bool := match p with
          | .dev x => (match s2.place x with | .gddr k => s2.mem.syndrome (k / 8) == .dross | .offlined _ _ => true | _ => false)
          | .stage k => s2.mem.syndrome (k / 8) == .dross
          | _ => false
        let where_ := match p with | .dev x => x | .stage k => k | _ => 0
        if dross then (s2.poisonTx where_).reply (toBytes n old) true
        else
          match atomicValue op (8 * n) old a b with
          | none => s2.reply (toBytes n old)
          | some v =>
            let c := runCells where_ (toBytes n v)
            (match p with | .stage _ => s2.stageWrite c | _ => s2.hostToDev c).reply (toBytes n old)

def execBar4Atomic (off : BitVec 40) (op : Fin 3) (log2size : Fin 5) (a b : BitVec 64) (s : State) : Host.Outcome State Fault Refusal :=
  s.onHw (fun h => h.bar4Atomic off.toNat op.val log2size.val a.toNat b.toNat)

/-! ### Copy queues (R421 to R423) -/

/-- R421: the fields of a copy descriptor. -/
def copyJobOf (d : BitVec 256) : CopyJob :=
  { host := bits d.toNat 0 64, dev := bits d.toNat 64 40, len := bits d.toNat 128 32, toHost := bit d.toNat 160, notify := bit d.toNat 161,
    setsel := bits d.toNat 176 16, tag := bits d.toNat 192 16, failed := 0 }

/-- R423: all of a run of device bytes is mapped, and none of it lies in the descriptor table. -/
def Hw.copyMapped (s : Hw) (a n : Nat) : Bool :=
  if s.level = 0 then s.mu.stagingCh.isSome && decide (a + n ≤ 0x101_0000)
  else
    let store := storeBase ≤ a && (a - storeBase) / 0x40_0000 < 512 && (a - storeBase) % 0x40_0000 + n ≤ 0x2F_0000 &&
      !s.flt.offline.contains ((a - storeBase) / 0x40_0000)
    let table := s.tableCap != 0 && overlaps (a, a + n - 1) (s.tableBase, s.tableBase + 64 * s.tableCap - 1)
    (a + n ≤ s.capacity || store) && !table

/-- R423: why a descriptor fails before its data moves; 0 where it does not. -/
def Hw.copyFail (s : Hw) (d : BitVec 256) : Nat :=
  let j := copyJobOf d
  if bits d.toNat 104 24 ≠ 0 || bits d.toNat 162 14 ≠ 0 || bits d.toNat 208 48 ≠ 0 then 1
  else if j.host % 128 ≠ 0 || j.dev % 128 ≠ 0 || j.len % 128 ≠ 0 || j.len = 0 || 0x8000_0000 < j.len then 1
  else if !selOk j.setsel || (selScope j.setsel ≠ 0 && selScope j.setsel ≠ 2) then 1
  else if !s.copyMapped j.dev j.len then 2
  else 0

def Hw.setCopy (s : Hw) (q : Nat) (j : Option CopyJob) : Hw :=
  s.modHost (fun h => { h with copies := match j with | some j => Sparse.set h.copies q j | none => Sparse.erase h.copies q })

/-- R423: a queue halts at a descriptor. -/
def Hw.copyHalt (s : Hw) (q : Nat) (j : CopyJob) (reason : Nat) : Hw :=
  (((s.setCopy q (some { j with failed := reason })).fset F.HIF_COPY_CTL_HALTED 1 q).fset F.HIF_COPY_CTL_REASON reason q).raise
    0x8031 q (pack2 j.tag reason)

/-- R421, R422, R424: the queue may work: enabled, not halted, and Bus Master Enable set with the link up. -/
def Hw.copyLive (s : Hw) (q : Nat) : Bool :=
  s.bar0Open && s.flag F.HIF_COPY_CTL_EN q && !s.flag F.HIF_COPY_CTL_HALTED q && s.busMaster

/-- R422: a queue takes up the descriptor at its head, as read from the host. -/
def Hw.copyStart (s : Hw) (q : Nat) (d : BitVec 256) (readOk : Bool) : Hw :=
  if s.copyLive q && s.fget F.HIF_COPY_HEAD_COUNT q ≠ s.fget F.HIF_COPY_TAIL_COUNT q && (Sparse.find? s.host.copies q).isNone then
    let j := copyJobOf d
    let r := if readOk then s.copyFail d else 3
    if r = 0 then s.setCopy q (some j) else s.copyHalt q (if readOk then j else { j with tag := 0 }) r
  else s

def execCopyDescriptorStart (queue : Fin 4) (desc : BitVec 256) (readOk : Bool) (s : State) : Host.Outcome State Fault Refusal :=
  s.onHw (fun h => h.copyStart queue.val desc readOk)

/-- R422: the head moves past a descriptor. -/
def Hw.copyNext (s : Hw) (q : Nat) : Hw :=
  (s.setCopy q none).fset F.HIF_COPY_HEAD_COUNT ((s.fget F.HIF_COPY_HEAD_COUNT q + 1) % 0x1_0000_0000) q

/-- R422: the selector of a descriptor, then the head, then NOTIFY's event. -/
def Hw.copyEnd (s : Hw) (q : Nat) (j : CopyJob) : Hw :=
  let s1 := if selScope j.setsel = 2 then s.sendGlatch (selLatch j.setsel) (selClear j.setsel) else s
  let s2 := s1.copyNext q
  if j.notify then s2.raise 0x8030 q j.tag else s2

/-- R422, R424: the data of a descriptor moves: `data` is what the host's memory holds, for a copy to the module. DEDUCED, log 27. -/
def Hw.hostCopyDone (s : Hw) (q : Nat) (data : List Byte) (readOk : Bool) : Hw :=
  match Sparse.find? s.host.copies q with
  | none => s
  | some j =>
    if !s.copyLive q then s
    else if !s.copyMapped j.dev j.len then s.copyHalt q j 2
    else if j.toHost then
      let l := (List.range j.len).map (fun i => if s.level = 0 then Aperture.stage (j.dev + i) else .dev (j.dev + i))
      let r := s.apertureTake l
      let s1 := r.1.hostWrite j.host (l.map r.1.apertureByte)
      (match r.2 with | some a => s1.raise 0x4004 a (a >>> 32) | none => s1).copyEnd q j
    else if !readOk then s.copyHalt q j 3
    else if data.length ≠ j.len then s
    else (if s.level = 0 then s.stageWrite (runCells j.dev data) else s.hostToDev (runCells j.dev data)).copyEnd q j

def execCopyDescriptorComplete (queue : Fin 4) (data : List Byte) (readOk : Bool) (s : State) : Host.Outcome State Fault Refusal :=
  s.onHw (fun h => h.hostCopyDone queue.val data readOk)

/-- R423: RESUME retires the failed descriptor of the selected queue without its selector. -/
def Hw.copyResume (s : Hw) : Hw :=
  let q := s.fget F.HIF_COPY_SEL_QUEUE
  if s.bar0Open && s.flag F.HIF_COPY_CTL_HALTED q then
    ((s.fset F.HIF_COPY_CTL_HALTED 0 q).fset F.HIF_COPY_CTL_REASON 0 q).copyNext q
  else s

def execCopyResume (s : State) : Host.Outcome State Fault Refusal := s.onHw Hw.copyResume

/-! ### Host reset (R425, R426) -/

/-- The registers of a stream that a host reset returns to their reset values: offsets 0x004 to 0x04C of the STRM block. -/
def streamReg (r : Reg) : Bool :=
  r.spec.space == .bar0 && decide (0x5_0004 ≤ r.spec.off) && decide (r.spec.off ≤ 0x5_004C)

/-- The registers that a host reset returns to their reset values. -/
def hostResetReg (r : Reg) : Bool :=
  r.spec.space == .bar0 && ((0x1_0000 ≤ r.spec.off && r.spec.off < 0x2_0000 && r != .HIF_LINK) || streamReg r ||
    [Reg.STRM_SEL, .DBG_BP_SEL, .DBG_BP_CTL, .DBG_BP_TAG, .DBG_BP_COUNT].contains r)

/-- The keys of registers within a unit that a host reset clears. -/
def hostResetKeys : List Nat := (Reg.all.filter hostResetReg).map (·.ctorIdx)

/-- The streams of which anything is held. -/
def Hw.heldStreams (s : Hw) : List Nat :=
  let ks := (Reg.all.filter streamReg).map (·.ctorIdx)
  (List.map (fun (e : Nat × Reg32) => e.1 / 512) (List.filter (fun (e : Nat × Reg32) => ks.contains (e.1 % 512)) s.regs) ++ List.map (fun (e : Nat × StreamSt) => e.1) s.streams).eraseDups

/-- R425, R426: what the host sees returns to its reset values; everything else goes on.  Causes: 0 PERST#, 1 Hot Reset, 2 link lost, 3 FLR;
the first three take the link down, and PERST# holds its training (R470). DEDUCED, log 28. -/
def Hw.hostReset (s : Hw) (cause : Nat) : Hw :=
  match s.boot.phase with
  | .off | .stopped => s
  | _ =>
    let s1 := s.heldStreams.foldl (fun s n => (s.streamReset n).zeroCtx n) s
    let s2 : Hw := { s1 with regs := List.filter (fun e => !hostResetKeys.contains (e.1 % 512)) s1.regs, streams := [] }
    let h := s2.host
    { s2 with
      boot := { s2.boot with perst := s2.boot.perst || cause == 0 },
      host := { h with
        cfg := List.filter (fun (e : Nat × Reg32) => e.1 == 66 || e.1 == 67) h.cfg, msix := [], pba := [], pendingMsgs := [], copies := [], armed := [],
        linkUp := h.linkUp && cause == 3, training := h.training && cause != 0, resetCause := some cause } }

def execHostReset (cause : Fin 4) (s : State) : Host.Outcome State Fault Refusal := s.onHw (fun h => h.hostReset cause.val)

/-- R426: the link is up again. -/
def Hw.hostResetDone (s : Hw) : Hw :=
  match s.host.resetCause with
  | some c => if s.host.linkUp then (s.modHost (fun h => { h with resetCause := none })).raise 0x8002 c 0 else s
  | none => s

def execHostResetDone (s : State) : Host.Outcome State Fault Refusal := s.onHw Hw.hostResetDone

end Sys2Proof.Machine
end

