-- ==== Sys2Proof/Machine/Mailbox.lean ====
section
/-!
DEFINITION. The descriptor mailbox (R198, R199, R212, R220 to R222): its operations start with GO and end with
MAILBOX_DONE.
-/
namespace Sys2Proof.Machine

/-- R221: the image in `STRM.DESC_DATA`. -/
def Hw.mailImage (s : Hw) : Record64 :=
  BitVec.ofNat 512 ((List.range 16).foldl (fun a i => a + ((s.rd .STRM_DESC_DATA i).toNat <<< (32 * i))) 0)

/-- Writes words into `STRM.DESC_DATA`. -/
def Hw.mailReturn (s : Hw) (n v : Nat) : Hw :=
  (List.range n).foldl (fun s i => s.wr .STRM_DESC_DATA i (BitVec.ofNat 32 (v >>> (32 * i) % 0x1_0000_0000))) s

/-- R221, R460: starts an operation unless one runs (event 0xC054) or GDDR7 is not mapped (event 0x8053). -/
def Hw.mailStart (s : Hw) (op id : Nat) (f : Hw → Hw × MailOp) : Hw :=
  if !s.regsLive then s
  else if s.mail.isSome then s.raise 0xC054 op id
  else
    let s0 := (s.fset F.STRM_DESC_OP_OP op).fset F.STRM_DESC_OP_ID id
    if !s.mu.mapped then s0.raise 0x8053 0x5_8060 0
    else
    let r := f (s0.fset F.STRM_DESC_OP_GO 1)
    { r.1.fset F.STRM_DESC_RESULT_BUSY 1 with mail := some r.2 }

def MailOp.of (code : Nat) : MailOp := { code := code, offset := 0, first := 0, last := 0, destroy := none }

/-- The bytes of a descriptor table entry are written with correct check bytes by the mailbox alone (R220). -/
def Hw.writeEntry (s : Hw) (id v : Nat) : Hw := s.writeRun (s.tableBase + 64 * id) (toBytes 64 v)

/-- R212: TDESC.CREATE.  `STRM.DESC_MIN` and `STRM.DESC_MAX` show the range whether the check passes or fails. -/
def Hw.tdescCreate (s : Hw) (id : Nat) : Hw :=
  s.mailStart 1 id (fun s =>
    if s.tableCap = 0 then (s, MailOp.of 9)
    else
      let d := s.mailImage
      let r := s.descCheck id d
      if r.code = 1 then
        ((s.writeEntry id (d.toNat ||| 1)).fset F.STRM_TDESC_LIVE_COUNT (s.fget F.STRM_TDESC_LIVE_COUNT + 1), r)
      else (s, r))

/-- R222: TDESC.DESTROY: the entry becomes invalid when the operation ends, after every tile has dropped it. -/
def Hw.tdescDestroy (s : Hw) (id : Nat) : Hw :=
  s.mailStart 2 id (fun s =>
    if s.tableCap = 0 then (s, MailOp.of 9)
    else if Desc.valid (s.descEntry id) then (s, { MailOp.of 1 with destroy := some id })
    else (s, MailOp.of 8))

/-- R221: TDESC.READ. -/
def Hw.tdescRead (s : Hw) (id : Nat) : Hw :=
  s.mailStart 3 id (fun s =>
    if s.tableCap = 0 then (s, MailOp.of 9)
    else if s.tableCap ≤ id then (s, MailOp.of 8)
    else (s.mailReturn 16 (s.descEntry id).toNat, MailOp.of 1))

/-- R198: REGION.CREATE. -/
def Hw.regionCreate (s : Hw) (id : Nat) : Hw :=
  s.mailStart 4 id (fun s =>
    let r : BitVec 128 := BitVec.ofNat 128 s.mailImage.toNat
    let k := id % 4096
    let c := s.regionCheck k r
    if c.1 = 1 then ({ s with regions := Sparse.set s.regions k r }, MailOp.of 1)
    else (s, { MailOp.of c.1 with offset := c.2 }))

/-- The valid descriptors of the table that name a region. -/
def Hw.regionInUse (s : Hw) (k : Nat) : Bool :=
  -- an entry that is valid has a byte listed or lies in a free stretch, so the scan follows those
  (s.mem.free.any (fun e => overlaps (e.1, e.2.1) (s.tableBase, s.tableBase + 64 * s.tableCap)) &&
    (List.range s.tableCap).any (fun i => Desc.valid (s.descEntry i) && Desc.region (s.descEntry i) == k)) ||
  s.mem.cells.any (fun e => s.inTable e.1 && (e.1 - s.tableBase) % 64 == 0 && bit e.2.toNat 0 &&
    Desc.region (s.descEntry ((e.1 - s.tableBase) / 64)) == k)

/-- R199: REGION.DESTROY. -/
def Hw.regionDestroy (s : Hw) (id : Nat) : Hw :=
  s.mailStart 5 id (fun s =>
    let k := id % 4096
    match s.regionRec k with
    | none => (s, MailOp.of 8)
    | some _ => if s.regionInUse k then (s, MailOp.of 7) else ({ s with regions := Sparse.erase s.regions k }, MailOp.of 1))

/-- R221: REGION.READ. -/
def Hw.regionRead (s : Hw) (id : Nat) : Hw :=
  s.mailStart 6 id (fun s =>
    match s.regionRec (id % 4096) with
    | none => (s, MailOp.of 8)
    | some r => (s.mailReturn 4 r.toNat, MailOp.of 1))

/-- R221: a reserved OP runs no operation and completes with FORMAT. -/
def Hw.mailReserved (s : Hw) (op id : Nat) : Hw := s.mailStart op id (fun s => (s, MailOp.of 3))

/-- R221, R222: an operation ends: BUSY and GO clear and the result is shown; a destroyed entry is invalid from now on. -/
def Hw.mailDone (s : Hw) : Hw :=
  match s.mail with
  | none => s
  | some m =>
    let s1 := match m.destroy with
      | some id =>
        let d := (s.descEntry id).toNat
        (s.writeEntry id (d - d % 2)).fset F.STRM_TDESC_LIVE_COUNT (s.fget F.STRM_TDESC_LIVE_COUNT - 1)
      | none => s
    let s2 := if s1.fget F.STRM_DESC_OP_OP = 1 && m.code ≠ 9 then
        ((s1.wr64 .STRM_DESC_MIN_LO .STRM_DESC_MIN_HI (unsigned 64 m.first)).wr64 .STRM_DESC_MAX_LO .STRM_DESC_MAX_HI (unsigned 64 m.last))
      else s1
    { (((s2.fset F.STRM_DESC_RESULT_CODE m.code).fset F.STRM_DESC_RESULT_OFFSET m.offset).fset F.STRM_DESC_RESULT_BUSY 0).fset
        F.STRM_DESC_OP_GO 0 with mail := none }

def execTdescCreate (id : BitVec 20) (s : State) : Host.Outcome State Fault Refusal := s.onHw (fun h => h.tdescCreate id.toNat)
def execTdescDestroy (id : BitVec 20) (s : State) : Host.Outcome State Fault Refusal := s.onHw (fun h => h.tdescDestroy id.toNat)
def execTdescRead (id : BitVec 20) (s : State) : Host.Outcome State Fault Refusal := s.onHw (fun h => h.tdescRead id.toNat)
def execRegionCreate (id : BitVec 20) (s : State) : Host.Outcome State Fault Refusal := s.onHw (fun h => h.regionCreate id.toNat)
def execRegionDestroy (id : BitVec 20) (s : State) : Host.Outcome State Fault Refusal := s.onHw (fun h => h.regionDestroy id.toNat)
def execRegionRead (id : BitVec 20) (s : State) : Host.Outcome State Fault Refusal := s.onHw (fun h => h.regionRead id.toNat)
def execMailboxReservedOp (seven : Bool) (id : BitVec 20) (s : State) : Host.Outcome State Fault Refusal :=
  s.onHw (fun h => h.mailReserved (if seven then 7 else 0) id.toNat)
def execMailboxDone (s : State) : Host.Outcome State Fault Refusal := s.onHw Hw.mailDone

end Sys2Proof.Machine
end

