-- ==== Sys2Proof/Machine/Pattern.lean ====
section
/-!
DEFINITION. The Pattern unit and the security block (R431 to R457): PAT operations, re-cast, the event log, and SEC operations.
-/
namespace Sys2Proof.Machine

/-- Events of the two units. -/
def patWho : Who := { kind := 4 }

/-! ### Flash (R431, R432) -/

/-- A flash byte; erased bytes and the reserved part read as 0xFF. -/
def flashByte (f : Sparse Byte) (a : Nat) : Byte := Sparse.get 0xFF f a

def flashErase (f : Sparse Byte) (lo n : Nat) : Sparse Byte := List.filter (fun e => decide (e.1 < lo) || decide (lo + n ≤ e.1)) f

def flashWrite (f : Sparse Byte) (a : Nat) (bs : Sparse Byte) : Sparse Byte := bs.foldl (fun f e => Sparse.put 0xFF f (a + e.1) e.2) f

/-- The bytes of a container that are not 0xFF, by offset. -/
def programBytes (g : Src) (n : Nat) : Sparse Byte := ((List.range n).map (fun i => (i, g i))).filter (fun e => e.2 != 0xFF)

def imageSrc (f : Sparse Byte) : Src := fun i => flashByte f i
def fleetBase : Nat := 0x300_0000
def fleetSrc (f : Sparse Byte) : Src := fun i => flashByte f (fleetBase + i)
def logBase : Nat := 0x100_0000
def logSize : Nat := 0x200_0000

/-! ### The staging area (R445, R446, R460) -/

/-- There is a staging area. -/
def Hw.stageOk (s : Hw) : Bool := if s.level = 0 then s.mu.stagingCh.isSome else s.mu.mapped

def Hw.stageSrc (s : Hw) : Src := fun i => if s.level = 0 then s.mem.goodByte i else s.peek (s.stageBase + i)

/-- The operation takes in bytes of the staging area; answers the offset of the first atom of theirs that is dross. -/
def Hw.stageTake (s : Hw) (o n : Nat) : Hw × Option Nat :=
  if n = 0 then (s, none)
  else if s.level = 0 then
    let ws := (s.mem.syn.map (·.1)).filter (fun w => decide (o < w * 8 + 8) && decide (w * 8 < o + n))
    let s1 := s.takeWords ws
    (s1, (List.find? (fun e => decide (o < e.1 * 8 + 8) && decide (e.1 * 8 < o + n) && s1.mem.syndrome e.1 == .dross) s1.mem.syn).map (fun e => e.1 * 8))
  else
    let s0 := if s.stageBase + o + n ≤ s.capacity then s else s.raiseOnce 0x5051 0 (max (s.stageBase + o) s.capacity) (max (s.stageBase + o) s.capacity >>> 32)
    let c := s0.consume [(s.stageBase + o, s.stageBase + o + n - 1)]
    (c.1, c.2.map (fun a => a - s.stageBase))

/-- The unit's own writes into the staging area. -/
def Hw.stagePut (s : Hw) (o : Nat) (bs : List Byte) : Hw :=
  if s.level = 0 then s.writeKeys (runCells o bs) else s.writeRun (s.stageBase + o) bs

/-- R439: the check of the staged container: reason 0 where it passes, with the offset; `none` names no field (DESIGN CHOICE, log 61). -/
def Hw.stageCheck (s : Hw) (fu : Fuses) : Hw × Nat × Option Nat :=
  let h := s.stageTake 0 512
  match h.2 with
  | some o => (h.1, 7, some o)
  | none =>
    match headerFail s.stageSrc with
    | some o => (h.1, 1, some o)
    | none =>
      let b := h.1.stageTake 512 (s.stageSrc.len - 512)
      match b.2 with
      | some o => (b.1, 7, some o)
      | none =>
        match containerFail fu s.stageSrc with
        | some (r, o) => (b.1, r, o)
        | none => (b.1, 0, none)

/-- An offset that the spec leaves open is a free value. -/
def Hw.openOffset (s : Hw) (o : Option Nat) : Hw × Nat :=
  match o with
  | some o => (s, o)
  | none => ({ s with free := s.free + 1 }, (Config.freeWord s.free).toNat % 0x100_0000)

/-! ### PAT operations (R447, R448) -/

/-- A GO with the RW fields written with it: one operation runs at a time. DEDUCED, log 24. -/
def Hw.patGo (s : Hw) (reg : Nat) (rw f : Hw → Hw) : Hw :=
  if !s.bar0Open then s
  else if s.pat.op.isSome then (rw s).raise 0x9011 reg 0 patWho
  else f (rw s)

/-- `PAT.FLASH` with an OP, and with KEEP_CERT where the write names it. -/
def flashRw (op : Nat) (keep : Option Bool) (s : Hw) : Hw :=
  let s1 := s.fset F.PAT_FLASH_OP op
  match keep with
  | some k => s1.fflag F.PAT_FLASH_KEEP_CERT k
  | none => s1

/-- An operation of `PAT.FLASH` runs. -/
def Hw.patStart (s : Hw) (o : PatOp) (keep : Bool) (lock : Bool) : Hw :=
  let s1 := [(F.PAT_FLASH_OP, o.op), (F.PAT_FLASH_KEEP_CERT, one keep), (F.PAT_FLASH_GO, 1), (F.PAT_STATUS_BUSY, 1), (F.PAT_STATUS_LOCKED, one lock),
    (F.PAT_PROGRESS_BYTES, 0)].foldl (fun s p => s.fset p.1 p.2) s
  { s1 with pat := { s1.pat with op := some o } }

/-- The result that an operation will report, while it still runs. -/
def patOp (op code reason off : Nat) : PatOp := { op := op, code := code, reason := reason, offset := off, recast := false, sect := 0 }

/-- R445, R460: LEVEL without a staging area; otherwise the staged container is checked. -/
def Hw.withStaged (s : Hw) (fu : Fuses) (op : Nat) (keep : Bool) (wrong : Src → Bool) (ok : Hw → Hw) : Hw :=
  if !s.stageOk then s.patStart (patOp op 3 0 0) keep false
  else
    let c := s.stageCheck fu
    if c.2.1 ≠ 0 then let r := c.1.openOffset c.2.2; r.1.patStart (patOp op 2 c.2.1 r.2) keep true
    else if wrong s.stageSrc then c.1.patStart (patOp op 2 2 20) keep true
    else ok c.1

/-- R447: VERIFY. -/
def Hw.verify (s : Hw) (fu : Fuses) : Hw :=
  s.patGo 0x2_0058 (flashRw 1 none) (fun s => s.withStaged fu 1 (s.flag F.PAT_FLASH_KEEP_CERT) (fun _ => false) (fun s =>
    s.patStart (patOp 1 1 0 0) (s.flag F.PAT_FLASH_KEEP_CERT) true))

def execVerify (s : State) : Host.Outcome State Fault Refusal := s.onHw (fun h => h.verify s.fuses)

/-- The unit keeps the staged container for the operation; its bytes are those the lock protects. -/
def Hw.keepStaged (s : Hw) : Hw := { s with pat := { s.pat with staged := programBytes s.stageSrc s.stageSrc.len } }

/-- R448: with KEEP_CERT, the certificate of the image in flash goes into the staged image, if both have one. -/
def certPlaces (f : Sparse Byte) (staged : Src) : Option (Nat × Nat) :=
  let g := imageSrc f
  if (headerFail g).isSome || (layoutFail g).isSome then none
  else match g.sectOf 10, staged.sectOf 10 with
    | some a, some b => some (a.off, b.off)
    | _, _ => none

/-- R447, R448: PROGRAM: the image area is erased as soon as the container has passed. -/
def State.program (s : State) (keep : Bool) : State :=
  let erased : Sparse Byte := flashErase s.flash 0 0x100_0000
  let run := fun (h : Hw) => h.keepStaged.patStart (patOp 2 1 0 0) keep true
  let h := s.hw.patGo 0x2_0058 (flashRw 2 (some keep)) (fun h => h.withStaged s.fuses 2 keep Src.patterns (fun h =>
    if keep then
      match certPlaces s.flash h.stageSrc with
      | some (a, b) => run (h.stagePut b ((imageSrc s.flash).bytes a 8192))
      | none => h.patStart (patOp 2 5 0 0) keep true
    else run h))
  let began := s.hw.pat.op.isNone && (match h.pat.op with | some o => o.op == 2 && o.code == 1 | none => false)
  { s with hw := h, flash := if began then erased else s.flash }

def execProgram (keepCert : Bool) (s : State) : Host.Outcome State Fault Refusal := .next (s.program keepCert)

/-- R447: READ. -/
def Hw.patRead (s : Hw) : Hw :=
  s.patGo 0x2_0058 (flashRw 3 none) (fun s => s.patStart (patOp 3 (if s.stageOk then 1 else 3) 0 0) (s.flag F.PAT_FLASH_KEEP_CERT) false)

def execRead (s : State) : Host.Outcome State Fault Refusal := s.onHw Hw.patRead

/-- R447: PATTERNS: the fleet pattern space is erased and its first byte programmed (DESIGN CHOICE, log 62). -/
def State.patternsOp (s : State) : State :=
  let h := s.hw.patGo 0x2_0058 (flashRw 4 none) (fun h => h.withStaged s.fuses 4 (h.flag F.PAT_FLASH_KEEP_CERT) (fun g => !g.patterns) (fun h =>
    h.keepStaged.patStart (patOp 4 1 0 0) (h.flag F.PAT_FLASH_KEEP_CERT) true))
  let began := s.hw.pat.op.isNone && (match h.pat.op with | some o => o.op == 4 && o.code == 1 | none => false)
  { s with hw := h, flash := if began then Sparse.put 0xFF (flashErase s.flash fleetBase 0x100_0000) fleetBase 0x42 else s.flash }

def execPatterns (s : State) : Host.Outcome State Fault Refusal := .next s.patternsOp

/-- R447: LOG_ERASE. -/
def Hw.logEraseOp (s : Hw) : Hw := s.patGo 0x2_0058 (flashRw 5 none) (fun s => s.patStart (patOp 5 1 0 0) (s.flag F.PAT_FLASH_KEEP_CERT) false)

def execLogErase (s : State) : Host.Outcome State Fault Refusal := s.onHw Hw.logEraseOp

/-- R447: an operation of `PAT.FLASH` reports its result with event 0x9010. -/
def Hw.patEnd (s : Hw) (op code reason off bytes : Nat) : Hw :=
  let s1 := (s.patResult code reason off).fset F.PAT_PROGRESS_BYTES bytes
  s1.raise 0x9010 op (s1.rd .PAT_RESULT 0).toNat patWho

/-- R447: a readback mismatch; the flash offset that the event names is a free value (DESIGN CHOICE, log 61). -/
def Hw.flashErr (s : Hw) (op base bytes : Nat) : Hw :=
  (({ s with free := s.free + 1 } : Hw).raise 0x9014 (base + (Config.freeWord s.free).toNat % max 1 bytes) 0 patWho).patEnd op 6 0 0 bytes

/-- R447: READ copies flash bytes into the image buffer; `PAT.FLASH_LEN` is held to the buffer's size. -/
def Hw.readFlash (s : Hw) (f : Sparse Byte) : Hw :=
  let n := min (s.fget F.PAT_FLASH_LEN_BYTES) 0x100_0000
  let a := s.fget F.PAT_FLASH_ADDR_ADDR
  (s.stagePut 0 ((List.range n).map (fun i => flashByte f (a + i)))).patEnd 3 1 0 0 n

/-- R447, R449: the fleet patterns programmed wait for the next edge window. -/
def Hw.recastPatterns (s : Hw) (g : Src) (o : PatOp) : Hw :=
  match g.sectOf 9 with
  | none => s
  | some e => { s with
      flt := { s.flt with nextPatterns := some (sparseOf (g.bytes e.off e.len), g.num e.off 4) },
      pat := { s.pat with op := some { o with recast := true, sect := 9 }, recastTypes := [9] } }

/-- R447: an operation ends; `readback`: what was programmed reads back as it should. -/
def State.patDone (s : State) (readback : Bool) : State :=
  match s.hw.pat.op with
  | none => s
  | some o =>
    let h := s.hw
    if o.recast then
      if h.pat.recastTypes.contains o.sect then s
      else { s with hw := (h.patResult 1 0 0).raise 0x9013 o.sect h.beatNo patWho }
    else if o.code ≠ 1 then { s with hw := h.patEnd o.op o.code o.reason o.offset 0 }
    else
      let n := h.pat.staged.foldl (fun n e => max n (e.1 + 1)) 0
      match o.op with
      | 2 =>
        if readback then { s with flash := flashWrite s.flash 0 h.pat.staged, hw := h.patEnd 2 1 0 0 n }
        else { s with hw := h.flashErr 2 0 n }
      | 4 =>
        if readback then
          let f := flashWrite s.flash fleetBase h.pat.staged
          if h.level = 0 then { s with flash := f, hw := h.patEnd 4 1 0 0 n }
          else { s with flash := f, hw := (h.recastPatterns (fleetSrc f) o).fset F.PAT_PROGRESS_BYTES n }
        else { s with hw := h.flashErr 4 fleetBase n }
      | 3 => { s with hw := h.readFlash s.flash }
      | 5 =>
        let h1 := h.patEnd 5 1 0 0 0
        { s with flash := flashErase s.flash logBase logSize, hw := { h1 with pat := { h1.pat with logPos := 0 } } }
      | _ => { s with hw := h.patEnd o.op 1 0 0 (if o.op = 1 then min h.stageSrc.len 0x100_0000 else 0) }

def execPatOperationDone (readback : Bool) (s : State) : Host.Outcome State Fault Refusal := .next (s.patDone readback)

/-! ### Re-cast (R449, R450) -/

/-- A re-cast ends at once with a result. -/
def Hw.recastEnd (s : Hw) (sect source code reason : Nat) (o : Option Nat) : Hw :=
  let r := if reason = 0 then (s, 0) else s.openOffset o
  ((r.1.fset F.PAT_RECAST_SECTION sect).fset F.PAT_RECAST_SOURCE source).patResult code reason r.2

/-- A re-cast runs. -/
def Hw.recastStart (s : Hw) (sect source : Nat) : Hw :=
  let s1 := [(F.PAT_RECAST_SECTION, sect), (F.PAT_RECAST_SOURCE, source), (F.PAT_RECAST_GO, 1), (F.PAT_STATUS_BUSY, 1)].foldl
    (fun s p => s.fset p.1 p.2) s
  { s1 with pat := { s1.pat with op := some { patOp 0 1 0 0 with recast := true, sect := sect } } }

/-- R449: a record of LINK that changes `LNK.MODULE`. -/
def Hw.changesModule (s : Hw) (r : CastRec) : Bool :=
  match regAt r.1 with
  | some a => a.reg == .LNK_MODULE && r.2.2 % 4096 != s.me
  | none => false

/-- R449: the section of a source that has passed R439 is re-cast. -/
def Hw.recastSection (s : Hw) (fu : Fuses) (g : Src) (sect source : Nat) : Hw :=
  match g.sectOf sect with
  | none => s.recastEnd sect source 5 0 none
  | some e =>
    match sect with
    | 1 | 4 => s.recastEnd sect source 4 0 none
    | 15 => s.recastEnd sect source 5 0 none
    | 9 =>
      let s1 := s.recastStart sect source
      { s1 with flt := { s1.flt with nextPatterns := some (sparseOf (g.bytes e.off e.len), g.num e.off 4) }, pat := { s1.pat with recastTypes := [9] } }
    | 10 =>
      if certReason fu g e.off = 0 then
        let s1 := s.recastStart sect source
        ({ s1 with pat := { s1.pat with cert := g.bytes e.off 8192 } } : Hw).fset F.PAT_STATUS_CERT_VALID 1
      else s.recastEnd sect source 5 0 none
    | 11 =>
      (g.routines e).foldl (fun s r => ((List.range 512).filter s.admitted).foldl (fun s t => s.imageIn t r) s) (s.recastStart sect source)
    | _ =>
      let rs := g.records e
      if sect = 3 && rs.any s.changesModule then s.recastEnd sect source 5 0 none
      else
        let s1 := s.recastStart sect source
        { s1 with pat := { s1.pat with recast := rs.map (fun r => (r.1, r.2.1, r.2.2, sect)), recastTypes := [sect] } }

/-- R449: the source is checked first; re-cast is for WARM and FULL service. -/
def State.recast (s : State) (sect source : Nat) : State :=
  let go := fun (h : Hw) =>
    if h.level = 0 then h.recastEnd sect source 3 0 none
    else
      match source with
      | 0 =>
        if !h.stageOk then h.recastEnd sect source 3 0 none
        else
          let c := h.stageCheck s.fuses
          if c.2.1 ≠ 0 then c.1.recastEnd sect source 2 c.2.1 c.2.2 else c.1.recastSection s.fuses h.stageSrc sect source
      | 3 => h.recastEnd sect source 5 0 none
      | _ =>
        if source = 2 && sect ≠ 9 then h.recastEnd sect source 5 0 none
        else
          let g := if source = 1 then imageSrc s.flash else fleetSrc s.flash
          match containerFail s.fuses g with
          | some (r, o) => h.recastEnd sect source 2 r o
          | none => h.recastSection s.fuses g sect source
  { s with hw := s.hw.patGo 0x2_005C (fun h => (h.fset F.PAT_RECAST_SECTION sect).fset F.PAT_RECAST_SOURCE source) go }

def execRecast (sect : BitVec 4) (source : BitVec 2) (s : State) : Host.Outcome State Fault Refusal :=
  .next (s.recast sect.toNat source.toNat)

/-! ### The event log (R451) -/

/-- The flash is free for the log. -/
def Hw.logFree (s : Hw) : Bool :=
  (s.boot.phase == Phase.imaged || s.boot.phase == Phase.live) &&
    (match s.pat.op with | some o => o.recast || o.op == 1 | none => true)

/-- R451: a waiting record is appended; at the start of a sector the sector is erased first. -/
def State.logAppend (s : State) : State :=
  match s.hw.pat.logWait with
  | [] => s
  | e :: rest =>
    if s.hw.logFree then
      let p := s.hw.pat.logPos
      let seq := s.hw.fget F.PAT_LOG_SEQ_SEQ
      let f := if p % 0x1_0000 = 0 then flashErase s.flash (logBase + p) 0x1_0000 else s.flash
      let h := s.hw.fset F.PAT_LOG_SEQ_SEQ ((seq + 1) % 0x1_0000_0000)
      let h1 : Hw := { h with pat := { h.pat with logWait := rest, logPos := (p + 32) % logSize, logLost := 0 } }
      { s with flash := flashWrite f (logBase + p) (runCells 0 (e.toBytes seq 0 false)),
               hw := if h.pat.logLost = 0 then h1 else h1.raise 0x9030 h.pat.logLost 0 patWho }
    else s

def execEventLogAppend (s : State) : Host.Outcome State Fault Refusal := .next s.logAppend

/-! ### SEC operations (R441, R442, R452 to R454) -/

/-- The request buffer. -/
def requestBase : Nat := 0x100_0000
def Hw.request (s : Hw) (o n : Nat) : List Byte := s.stageSrc.bytes (requestBase + o) n

/-- A SEC operation runs, with the result that it will report. -/
def Hw.secStart (s : Hw) (o : SecOp) : Hw :=
  if !s.bar0Open then s
  else
    let s0 := (s.fset F.SEC_OP_OP o.op).fset F.SEC_OP_SLOT o.slot
    if s.pat.sec.isSome then s0.raise 0x9011 0x3_0024 0 patWho
    else
      let s1 := (s0.fset F.SEC_OP_GO 1).fset F.SEC_RESULT_BUSY 1
      { s1 with pat := { s1.pat with sec := some o } }

/-- LEVEL without a request buffer. -/
def Hw.bufferCode (s : Hw) : Nat := if s.stageOk then 1 else 5

def secOp (op slot code : Nat) : SecOp := { op := op, slot := slot, code := code, signer := 0, digest := 0 }

/-- The SLOT field as it stands. -/
def Hw.secSlot (s : Hw) : Nat := s.fget F.SEC_OP_SLOT

def Hw.attestOp (h : Hw) : Hw := h.secStart (secOp 1 h.secSlot h.bufferCode)
/-- R453: with no certificate held, GET_CERT ends with SLOT. -/
def Hw.getCertOp (h : Hw) : Hw := h.secStart (secOp 2 h.secSlot (if h.stageOk then (if h.pat.cert.isEmpty then 3 else 1) else 5))
def Hw.getPubkeyOp (h : Hw) : Hw := h.secStart (secOp 3 h.secSlot h.bufferCode)
/-- R442: RAISE_FLOOR. -/
def Hw.raiseFloorOp (h : Hw) : Hw := h.secStart (secOp 6 h.secSlot (if h.level = 0 then 5 else 1))

def execAttest (s : State) : Host.Outcome State Fault Refusal := s.onHw Hw.attestOp
def execGetCert (s : State) : Host.Outcome State Fault Refusal := s.onHw Hw.getCertOp
def execGetPubkey (s : State) : Host.Outcome State Fault Refusal := s.onHw Hw.getPubkeyOp

/-- R441: the signature of a slot request. -/
def Hw.slotSigned (s : Hw) (fu : Fuses) (slot : Nat) (ctx : List Byte) : Bool :=
  Config.mldsaVerify (s.request 48 1952)
    (Config.shake256 (fu.deviceId ++ [BitVec.ofNat 8 slot] ++ s.request 0 32) 64) ctx (s.request 2000 3309)

/-- R441: the signer named by a request is programmed and unrevoked, and the key is its own. -/
def Hw.signerOk (s : Hw) (fu : Fuses) : Bool :=
  let k := ofBytes (s.request 32 1)
  decide (k < 4) && fu.usable k && ofBytes (Config.shake256 (s.request 48 1952) 32) == fu.digest k

/-- R441: the CODE of an ENROLL or REVOKE that has been checked. DEDUCED, log 29. -/
def Hw.slotCode (s : Hw) (fu : Fuses) (enroll : Bool) (slot : Nat) : Nat :=
  let k := ofBytes (s.request 32 1)
  let target :=
    if enroll then decide (2 ≤ slot) && !bit fu.programmed.toNat slot
    else fu.usable slot && k / 2 == slot / 2 && ofBytes (s.request 0 32) == fu.digest slot &&
      (decide (2 ≤ slot) || fu.usable (1 - slot))
  if !s.stageOk then 5
  else if !target || !s.signerOk fu then 3
  else if !s.slotSigned fu slot (if enroll then context 69 78 82 else context 82 69 86) then 2
  else 1

/-- R441: ENROLL (4) and REVOKE (5). -/
def Hw.slotOp (s : Hw) (fu : Fuses) (enroll : Bool) (slot : Nat) : Hw :=
  s.secStart { op := if enroll then 4 else 5, slot := slot, code := s.slotCode fu enroll slot,
               signer := ofBytes (s.request 32 1), digest := BitVec.ofNat 256 (ofBytes (s.request 0 32)) }

def execEnroll (slot : BitVec 2) (s : State) : Host.Outcome State Fault Refusal := s.onHw (fun h => h.slotOp s.fuses true slot.toNat)
def execRevoke (slot : BitVec 2) (s : State) : Host.Outcome State Fault Refusal := s.onHw (fun h => h.slotOp s.fuses false slot.toNat)

def execRaiseFloor (s : State) : Host.Outcome State Fault Refusal := s.onHw Hw.raiseFloorOp

/-- R454: bytes 0 to 2,127 of an attestation report. -/
def Hw.reportBody (s : Hw) (fu : Fuses) : List Byte :=
  ([0x42, 0x52, 0x41, 0x31] : List Byte) ++ toBytes 4 5437 ++ toBytes 1 s.level ++ toBytes 1 (bits (s.rd .PAT_STATUS 0).toNat 0 3) ++ toBytes 2 0 ++
  toBytes 4 (if s.level = 0 then 0 else s.fget F.PAT_IMAGE_SVN_SVN) ++ fu.deviceId ++
  fixLen 64 (if s.level = 0 then s.pat.bareDigest else (List.range 16).flatMap (fun i => toBytes 4 (s.rd .PAT_IMAGE_DIGEST i).toNat)) ++
  toBytes 4 (fu.programmed.toNat + (fu.revoked.toNat <<< 4) + (fu.floor <<< 8)) ++ toBytes 4 0 ++
  toBytes 8 (if s.running then s.beatNo else 0) ++ toBytes 4 s.logicalCount ++
  toBytes 4 (s.regValue fu .FLT_RETIRED 0) ++ toBytes 4 (s.capacity / 0x10_0000) ++ toBytes 4 (s.fget F.PAT_LOG_SEQ_SEQ) ++
  s.request 0 32 ++ fu.publicKey

/-- R454: the whole report; the draw stands for the hedge of the signature. -/
def Hw.report (s : Hw) (fu : Fuses) : List Byte :=
  s.reportBody fu ++ fixLen 3309 (Config.mldsaSign fu.seed (Config.shake256 (s.reportBody fu) 64) (context 65 84 84) s.free)

/-- A digest of which an open part is burned (R475; DESIGN CHOICE, log 63). -/
def partialDigest (draw : Nat) (d : BitVec 256) : BitVec 256 :=
  d &&& (Config.freeWord draw ++ Config.freeWord (draw + 1) ++ Config.freeWord (draw + 2) ++ Config.freeWord (draw + 3))

def Fuses.setDigest (fu : Fuses) (k : Nat) (d : BitVec 256) : Fuses :=
  match k with
  | 0 => { fu with slot0 := d }
  | 1 => { fu with slot1 := d }
  | 2 => { fu with slot2 := d }
  | _ => { fu with slot3 := d }

def Fuses.digestBits (fu : Fuses) (k : Nat) : BitVec 256 := BitVec.ofNat 256 (fu.digest k)

/-- R442: the floor that RAISE_FLOOR burns up to. -/
def floorTarget (fu : Fuses) (svn : Nat) : Nat := max fu.floor (min 64 svn)

/-- A floor of which an open part of the bits is burned (R475). -/
def partialFloor (draw floor target : Nat) : Nat := floor + (Config.freeWord draw).toNat % (target - floor + 1)

/-- The result of a SEC operation: R453: a refused request raises event 0x9024. -/
def Hw.secEnd (s : Hw) (op code : Nat) : Hw :=
  let s1 : Hw := { s with pat := { s.pat with sec := none } }
  let s2 := [(F.SEC_RESULT_CODE, code), (F.SEC_RESULT_BUSY, 0), (F.SEC_OP_GO, 0)].foldl (fun s p => s.fset p.1 p.2) s1
  if code = 2 || code = 3 || code = 5 then s2.raise 0x9024 op code patWho else s2

/-- R441, R442: fuses after an ENROLL, REVOKE or RAISE_FLOOR whose burning went well or not, and the CODE. -/
def Fuses.burn (fu : Fuses) (o : SecOp) (svn draw : Nat) (burned : Bool) : Fuses × Nat :=
  match o.op with
  | 4 =>
    let old := fu.digestBits o.slot
    if burned then
      let d := old ||| o.digest
      if d = o.digest then ({ fu.setDigest o.slot d with programmed := fu.programmed ||| (BitVec.ofNat 4 (1 <<< o.slot)) }, 1)
      else (fu.setDigest o.slot d, 4)
    else (fu.setDigest o.slot (old ||| partialDigest draw o.digest), 4)
  | 5 => if burned then ({ fu with revoked := fu.revoked ||| (BitVec.ofNat 4 (1 <<< o.slot)) }, 1) else (fu, 4)
  | _ =>
    let t := floorTarget fu svn
    if burned then ({ fu with floor := t }, 1) else ({ fu with floor := partialFloor draw fu.floor t }, 4)

/-- R453: a SEC operation ends; `burned`: the fuses read back as burned. -/
def State.secDone (s : State) (burned : Bool) : State :=
  let h := s.hw
  match h.pat.sec with
  | none => s
  | some o =>
    if o.code ≠ 1 then { s with hw := h.secEnd o.op o.code }
    else
      let out := fun (bs : List Byte) => (h.secEnd o.op 1).stagePut (requestBase + 0x2000) bs
      match o.op with
      | 1 =>
        let h1 := (out (h.report s.fuses)).bump F.SEC_ATTESTS_COUNT
        { s with hw := ({ h1 with free := h1.free + 1 } : Hw).raise 0x9020 (ofBytes (h.request 0 4)) h.level patWho }
      | 2 => { s with hw := out h.pat.cert }
      | 3 => { s with hw := out s.fuses.publicKey }
      | _ =>
        let r := s.fuses.burn o (h.fget F.PAT_IMAGE_SVN_SVN) h.free burned
        let h1 := ({ h with free := h.free + 4 } : Hw).secEnd o.op r.2
        let h2 :=
          if r.2 ≠ 1 then h1
          else match o.op with
            | 4 => h1.raise 0x9021 o.slot o.signer patWho
            | 5 => h1.raise 0x9022 o.slot o.signer patWho
            | _ => h1.raise 0x9023 r.1.floor 0 patWho
        { s with fuses := r.1, hw := h2 }

def execSecOperationDone (burned : Bool) (s : State) : Host.Outcome State Fault Refusal := .next (s.secDone burned)

end Sys2Proof.Machine
end

