-- ==== Sys2Proof/Machine/Startup.lean ====
section
/-!
DEFINITION. Start-up and reset (R458 to R478), the stops of R489 and R495, and what each keeps.
-/
namespace Sys2Proof.Machine

def Hw.modBoot (s : Hw) (f : Boot → Boot) : Hw := { s with boot := f s.boot }

/-! ### What a reset keeps (R472, R475, R476, R497) -/

/-- The fields marked K: kept across module resets and stops. -/
def keptRegs : List Reg := [.SB_ALERT_STATUS, .SB_ALERT_MASK, .SB_STOPS]

/-- The module loses everything but the host's own memory and the last completion the host had; `free` is the model's counter. -/
def Hw.cleared (s : Hw) : Hw :=
  { Hw.reset with host := { HostIf.reset with mem := s.host.mem, resp := s.host.resp }, free := s.free }

/-- What a module reset and a stop leave: besides, the sideband's K fields, its address and its management rail. -/
def Hw.keepSideband (s : Hw) : Hw :=
  let s1 := keptRegs.foldl (fun h r => h.wr r 0 (s.rd r 0)) s.cleared
  let s2 := (s1.fset F.SB_STATE_STOPPED (s.fget F.SB_STATE_STOPPED)).fset F.SB_STATE_LAST_STOP (s.fget F.SB_STATE_LAST_STOP)
  let s3 := s2.modBoot (fun b => { b with smbAddr := s.boot.smbAddr, smbUp := s.boot.smbUp, perst := s.boot.perst })
  if s.fget F.SB_STATE_LEVEL = 0 then s3 else s3.fset F.SB_ALERT_STATUS_LEVEL 1

/-- R475: fuses that a SEC operation was burning when the module went down: what is burned by then is open (DESIGN CHOICE, log 63). -/
def State.interruptFuses (s : State) : State :=
  match s.hw.pat.sec with
  | none => s
  | some o =>
    let draw := s.hw.free
    if o.code ≠ 1 then s
    else match o.op with
      | 4 =>
        { s with fuses := s.fuses.setDigest o.slot (s.fuses.digestBits o.slot ||| partialDigest draw o.digest), hw := { s.hw with free := draw + 4 } }
      | 6 =>
        let t := floorTarget s.fuses (s.hw.fget F.PAT_IMAGE_SVN_SVN)
        { s with fuses := { s.fuses with floor := partialFloor draw s.fuses.floor t }, hw := { s.hw with free := draw + 4 } }
      | _ => s

/-- R472, R476: the module turns off. -/
def State.turnOff (s : State) : State :=
  let s1 := s.interruptFuses
  { s1 with hw := s1.hw.cleared }

/-- R472, R473: a module reset is in force: causes 1 MRST# and 2 `HIF.MODULE_RESET`; one in force already keeps its cause. -/
def State.moduleReset (s : State) (cause : Nat) (pin : Bool) : State :=
  match s.hw.boot.phase with
  | .off | .stopped => s
  | .reset => { s with hw := s.hw.modBoot (fun b => { b with mrst := b.mrst || pin }) }
  | _ =>
    let s1 := s.interruptFuses
    { s1 with hw := s1.hw.keepSideband.modBoot (fun b => { b with phase := .reset, cause := cause, mrst := pin }) }

/-- R489, R495: the converters turn off the package: 1 thermal, 2 reference clock.  The clock counts from the stop. -/
def State.stop (s : State) (why : Nat) : State :=
  match s.hw.boot.phase with
  | .off | .stopped => s
  | _ =>
    let s1 := s.interruptFuses
    let h := s1.hw.keepSideband.modBoot (fun b => { b with phase := .stopped })
    let h1 := ((h.fset F.SB_STATE_STOPPED 1).fset F.SB_STATE_LAST_STOP why).fset F.SB_ALERT_STATUS_STOP 1
    let f := if why = 1 then F.SB_STOPS_THERMAL else F.SB_STOPS_CLOCK
    { s1 with hw := h1.fset f (min 0xFFFF (h1.fget f + 1)) }

/-- Start-up runs from 0 ms, as after power-on (R461, R490, R495). -/
def Hw.startFromZero (s : Hw) : Hw :=
  (s.fset F.SB_STATE_STOPPED 0).modBoot (fun b => { b with phase := .sequencing, cause := 0, ticks := 0, mrst := false })

/-! ### Rows of resets and stops -/

/-- R461, R493: power comes; the management rail samples the address straps. -/
def State.powerOn (s : State) (smbAddr : Nat) : State :=
  if s.hw.boot.phase == Phase.off && !s.hw.boot.overvolt then
    { s with hw := (s.hw.cleared.modBoot (fun b => { b with smbAddr := smbAddr })).startFromZero }
  else s

def execPowerOn (smbAddr : BitVec 2) (s : State) : Host.Outcome State Fault Refusal := .next (s.powerOn smbAddr.toNat)

def execPowerLoss (s : State) : Host.Outcome State Fault Refusal := .next s.turnOff

/-- R480: above 58.5 V the module turns off until the input falls below 57.0 V. -/
def State.overvoltage (s : State) : State :=
  if s.hw.boot.phase == Phase.off then s
  else
    let s1 := s.turnOff
    { s1 with hw := s1.hw.modBoot (fun b => { b with overvolt := true, smbAddr := s.hw.boot.smbAddr }) }

def execInputOvervoltage (s : State) : Host.Outcome State Fault Refusal := .next s.overvoltage

def Hw.overvoltageCleared (s : Hw) : Hw :=
  if s.boot.overvolt then (s.modBoot (fun b => { b with overvolt := false })).startFromZero else s

def execOvervoltageCleared (s : State) : Host.Outcome State Fault Refusal := s.onHw Hw.overvoltageCleared

def execThermalStop (s : State) : Host.Outcome State Fault Refusal := .next (s.stop 1)
def execRefclkLoss (s : State) : Host.Outcome State Fault Refusal := .next (s.stop 2)

/-- R495: REFCLK has been within tolerance for 10 ms. -/
def Hw.refclkRecovered (s : Hw) : Hw :=
  if s.boot.phase == Phase.stopped && s.fget F.SB_STATE_LAST_STOP = 2 then s.startFromZero else s

def execRefclkRecovered (s : State) : Host.Outcome State Fault Refusal := s.onHw Hw.refclkRecovered

/-- R490: a stopped module is asked to start: 5 s after the stop it does; earlier the sideband notes the refusal. -/
def Hw.restart (s : Hw) : Hw :=
  if s.boot.phase == Phase.stopped then
    if 5000 ≤ s.millis then s.startFromZero else (s.fset F.SB_ALERT_STATUS_RESTART_REFUSED 1).modBoot (fun b => { b with mrst := false })
  else s

/-- R473, R490: MRST# is asserted; a stopped module waits for its release. -/
def State.mrstAssert (s : State) : State :=
  if s.hw.boot.phase == Phase.stopped then { s with hw := s.hw.modBoot (fun b => { b with mrst := true }) } else s.moduleReset 1 true

def execMrstAssert (s : State) : Host.Outcome State Fault Refusal := .next s.mrstAssert

/-- R461, R473, R490: the reset is released: start-up resumes from the 25 ms row, or a stopped module from 0 ms. -/
def Hw.moduleResetRelease (s : Hw) : Hw :=
  match s.boot.phase with
  | .reset => s.modBoot (fun b => { b with phase := .sequencing, mrst := false, ticks := 25 * 1_050_000 })
  | .stopped => if s.boot.mrst then s.restart else s
  | _ => s

def execModuleResetRelease (s : State) : Host.Outcome State Fault Refusal := s.onHw Hw.moduleResetRelease

/-- R427: the key starts a module reset; any other write raises event 0x8040. -/
def State.moduleResetWrite (s : State) (v : Nat) : State :=
  if !s.hw.bar0Open then s
  else if v >>> 16 = 0x4D52 && bit v 0 then s.moduleReset 2 false
  else { s with hw := s.hw.raise 0x8040 v 0 }

def execModuleResetWrite (value : BitVec 32) (s : State) : Host.Outcome State Fault Refusal := .next (s.moduleResetWrite value.toNat)

/-! ### The rows of the first second -/

/-- R389, R394: the twin unit after reset: ALONE with a valid strap that agrees with the module's identifier, or UNPAIRED. -/
def Hw.twinReset (s : Hw) : Hw :=
  let p := s.boot.twpos
  let s1 := (s.fset F.TWIN_STATUS_TWPOS p).fset F.TWIN_STATUS_TWIN s.twinId
  if p = 0 then s1.fset F.TWIN_STATUS_STATE 0
  else if p = 3 || p ≠ 1 + s.me % 2 then (s1.fset F.TWIN_STATUS_STATE 0).raise 0x7010 p s.me { kind := 4 }
  else s1.fset F.TWIN_STATUS_STATE 1

/-- R462, R452, R332, R495: the 25 ms row: fuses are read, the device key is formed, the fuse-time map is loaded. -/
def State.coreResetRelease (s : State) (twpos : Nat) (refclk : Bool) : State :=
  if s.hw.boot.phase == Phase.sequencing then
    if !refclk then s.stop 2
    else
      let id := ofBytes s.fuses.deviceId
      let h := (s.hw.atMs 25).modBoot (fun b => { b with phase := .fuses, twpos := twpos, full := false })
      let h1 := (List.range 8).foldl (fun h i => h.wr .SEC_DEVICE_ID i (BitVec.ofNat 32 (bits id (32 * i) 32))) h
      let h2 := ((h1.wr64 .ID_SERIAL_LO .ID_SERIAL_HI (bits id 0 64)).fset F.ID_RESET_CAUSE_CAUSE h.boot.cause).fset F.SB_STATE_UP 1
      let m := fuseMap s.fuses
      { s with hw := { h2 with flt := { h2.flt with remap := m.1, offline := m.2 } } }
  else s

def execCoreResetRelease (twpos : BitVec 2) (refclkGood : Bool) (s : State) : Host.Outcome State Fault Refusal :=
  .next (s.coreResetRelease twpos.toNat refclkGood)

/-- R451: the end of the event log: the first record, from k on, whose SEQ does not follow its predecessor's; an erased record follows
nothing.  Answers the record and the SEQ of the next. -/
def findLogEnd (f : Sparse Byte) : Nat → Nat → Nat → Nat × Nat
  | 0, k, seq => (k, seq)
  | n + 1, k, seq =>
    let a := logBase + 32 * k
    let bs := (List.range 32).map (fun i => flashByte f (a + i))
    if bs.all (· == 0xFF) || ofBytes (bs.drop 28) ≠ seq then (k, seq)
    else findLogEnd f n (k + 1) ((seq + 1) % 0x1_0000_0000)

/-- R451: where the next record goes, and its SEQ; an erased first record is an empty log. -/
def logEnd (f : Sparse Byte) : Nat × Nat :=
  let bs := (List.range 32).map (fun i => flashByte f (logBase + i))
  if bs.all (· == 0xFF) then (0, 0)
  else
    let r := findLogEnd f (logSize / 32 - 1) 1 ((ofBytes (bs.drop 28) + 1) % 0x1_0000_0000)
    (r.1 * 32 % logSize, r.2)

/-- R264, R437: the routine images of a section stand in every tile's routine store; GEN counts installations since reset, not the cast. -/
def Hw.castRoutines (s : Hw) (l : List RtnLoad) : Hw :=
  if l.isEmpty then s
  else (List.range 576).foldl (fun s p => s.modPhys p (fun x => l.foldl (fun x r => { x with
    rtn := (List.range 16).foldl (fun m i => Sparse.put 0 m (r.slot * 16 + i) (nth 0 r.words i)) x.rtn,
    rid := Sparse.put 0 x.rid r.slot r.rid }) x)) s

/-- R443: the fleet pattern space supplies ASSAY where it holds a newer pattern container. -/
def Hw.castFleet (s : Hw) (fu : Fuses) (flash : Sparse Byte) (image : Src) : Hw :=
  let g := fleetSrc flash
  let own := fun (s : Hw) => match image.sectOf 9 with
    | some e => s.installPatterns (sparseOf (image.bytes e.off e.len)) (image.num e.off 4)
    | none => s
  if !flash.any (fun e => decide (fleetBase ≤ e.1) && decide (e.1 < fleetBase + 0x100_0000)) then own s
  else
    match containerFail fu g with
    | some (r, o) => let x := s.openOffset o; (own x.1).raise 0x9004 r x.2 patWho
    | none =>
      if !g.patterns then (own s).raise 0x9004 2 20 patWho
      else if g.gen ≤ image.gen then own s
      else match g.sectOf 9 with
        | some e =>
          ((s.installPatterns (sparseOf (g.bytes e.off e.len)) (g.num e.off 4)).fset F.PAT_STATUS_FLEET 1).raise 0x9003 g.gen (g.num e.off 4) patWho
        | none => own s

/-- R444: the certificate is held, or event 0x9005 says why not. -/
def Hw.castCert (s : Hw) (fu : Fuses) (g : Src) : Hw :=
  let r := match g.sectOf 10 with | some e => (certReason fu g e.off, e.off) | none => (1, 0)
  if r.1 = 0 then ({ s with pat := { s.pat with cert := g.bytes r.2 8192 } } : Hw).fset F.PAT_STATUS_CERT_VALID 1
  else s.raise 0x9005 r.1 0 patWho

/-- R443: an image that has passed R439 is cast: its sections in TYPE order. -/
def Hw.castImage (s : Hw) (fu : Fuses) (flash : Sparse Byte) (g : Src) : Hw :=
  let slot := match g.sectOf 15 with | some e => (g e.off).toNat % 4 | none => 0
  let d := ofBytes (fixLen 64 (imageDigest g))
  let s1 := s.modBoot (fun b => { b with imageValid := true })
  let s2 := [2, 3, 4, 5, 6, 7, 8].foldl (fun s t => match g.sectOf t with | some e => s.castRecords (g.records e) | none => s) s1
  let s3 := [(F.PAT_STATUS_IMAGE_VALID, 1), (F.PAT_STATUS_SLOT, slot), (F.PAT_IMAGE_SVN_SVN, g.svn), (F.PAT_IMAGE_GEN_GEN, g.gen)].foldl
    (fun s p => s.fset p.1 p.2) s2
  let s4 := (List.range 16).foldl (fun s i => s.wr .PAT_IMAGE_DIGEST i (BitVec.ofNat 32 (bits d (32 * i) 32))) s3
  let s5 := (s4.raise 0x9001 g.svn slot patWho).castFleet fu flash g
  let s6 := s5.castCert fu g
  (match g.sectOf 11 with | some e => s6.castRoutines (g.routines e) | none => s6).twinReset

/-- R443, R463: the image read from flash is checked and cast, or the module falls to BARE service; a flash read that fails is reason 7. -/
def State.imageCheck (s : State) (readOk : Bool) : State :=
  if s.hw.boot.phase == Phase.fuses then
    let g := imageSrc s.flash
    let len := if (headerFail g).isSome then 512 else g.len
    let e := logEnd s.flash
    let h := s.hw.modBoot (fun b => { b with phase := .imaged, smbUp := true, ticks := max b.ticks (27 * 1_050_000 + len * 21 / 8) })
    let h1 := ({ h with pat := { h.pat with logPos := e.1 } } : Hw).fset F.PAT_LOG_SEQ_SEQ e.2
    match (if readOk then containerFail s.fuses g else some (7, none)) with
    | none => { s with hw := h1.castImage s.fuses s.flash g }
    | some (r, o) =>
      let x := h1.openOffset o
      let h2 := x.1.raise 0x9002 r x.2 patWho
      let h3 : Hw := { h2 with
        pat := { h2.pat with bareDigest := if (headerFail g).isSome then List.replicate 64 0 else fixLen 64 (imageDigest g) },
        links := Sparse.mapVals h2.links (fun _ x => { x with trained := false }) }
      { s with hw := (List.range 64).foldl (fun h l => h.fset F.LNK_LSTATE_STATE 0 l) h3 }
  else s

def execImageCheck (readOk : Bool) (s : State) : Host.Outcome State Fault Refusal := .next (s.imageCheck readOk)

/-- R458: a service level is entered, with event 0x8050; the sideband shows it. -/
def Hw.enterLevel (s : Hw) (n : Nat) : Hw :=
  let s1 := if s.fget F.SB_STATE_LEVEL = n then s else s.fset F.SB_ALERT_STATUS_LEVEL 1
  ((s1.fset F.ID_SERVICE_LEVEL n).fset F.SB_STATE_LEVEL n).raise 0x8050 n s.millis

/-- R462, R463: at 120 ms BAR0 opens, in WARM service with beat 0, or in BARE service with the first of C32 to C35 that trains. -/
def Hw.bar0Live (s : Hw) (failed : Nat) : Hw :=
  if s.boot.phase == Phase.imaged then
    let s1 := (s.atMs 120).modBoot (fun b => { b with phase := .live })
    if s.boot.imageValid then
      (((s1.enterLevel 1).fset F.BEAT_STATUS_RUN 1).wr64 .BEAT_COUNT_LO .BEAT_COUNT_HI 0).modBeat (fun b => { b with
        cycle := 0, master := s1.fget F.BEAT_GROUP_MASTER, backup := Config.backupMaster.toNat })
    else
      let c := [32, 33, 34, 35].find? (fun c => !bit failed (c - 32))
      let s2 := s1.enterLevel 0
      { s2 with mu := { s2.mu with stagingCh := c } }
  else s

def execBar0Live (failed : BitVec 4) (s : State) : Host.Outcome State Fault Refusal := s.onHw (fun h => h.bar0Live failed.toNat)

/-- WARM or FULL service. -/
def Hw.served (s : Hw) : Bool := s.boot.phase == Phase.live && s.level != 0

/-- The physical tile i of wave w. -/
def waveTile (w i : Nat) : Nat := physNo (i / 8) w (i % 8)

/-- R130: a loom of the tile is unrepairable. -/
def unrepairable (fu : Fuses) (p : Nat) : Bool := bit (loomFuse fu p 0) 28 || bit (loomFuse fu p 1) 28

/-- R464: a wave starts the start-up assay on its column, after zeroing the stores. -/
def Hw.tileWave (s : Hw) (fu : Fuses) (w : Nat) : Hw :=
  if s.served && s.boot.tileWave.isNone && s.fget F.ID_BOOT_TILE_WAVES = w then
    let ps := ((List.range 64).map (waveTile w)).filter (fun p => !fu.outTiles.contains p)
    let s1 := (s.atMs (120 + 20 * w)).modBoot (fun b => { b with tileWave := some w })
    ps.foldl (fun s p =>
      if unrepairable fu p then s.modPhys p (fun x => { x with st := .failed })
      else
        let s2 : Hw := { s with mem := s.mem.zeroRun (storeKey p 0) 0x30_0000 }
        s2.modPhys p (fun x => { x with st := .assaying, seed := w, setCount := s.fget F.FLT_ASSAY_SET_COUNT, set := s.flt.patterns })) s1
  else s

def execTileWave (wave : Fin 9) (s : State) : Host.Outcome State Fault Refusal := s.onHw (fun h => h.tileWave s.fuses wave.val)

/-- R464, R132: a wave ends: its tiles wait to be admitted at the next edge window, or are FAILED: at a part of the assay (event 0x4060), or
by a skew register that disagrees; a loom that fails is named by event 0x4030.  The digest that the others produced confirms the reference of
the wave's seed (R314). DEDUCED, log 35. -/
def Hw.tileWaveEnd (s : Hw) (w : Nat) (failed : List (Nat × Nat × Nat)) (skewed : List (Nat × Nat × Nat × Nat × Nat)) (digest : Nat) : Hw :=
  if s.boot.tileWave = some w then
    let s1 := ((s.atMs (140 + 20 * w)).modBoot (fun b => { b with tileWave := none })).fset F.ID_BOOT_TILE_WAVES (w + 1)
    (List.range 64).foldl (fun s i =>
      let p := waveTile w i
      if (s.getPhys p).st ≠ .assaying then s
      else
        let bad := (skewed.filter (fun e => e.1 == i)).map (·.2)
        let fail := List.find? (fun (e : Nat × Nat × Nat) => e.1 == i) failed
        let out := fun (s : Hw) => s.modPhys p (fun x => { x with st := .failed })
        let fails := fun (s : Hw) (part : Nat) =>
          ((out s).modBoot (fun b => { b with failedTiles := b.failedTiles ++ [p] })).raise 0x4060 p part { kind := 0 }
        -- R132: a loom that fails, by its skew or in the cross-compare, is named
        let named := fun (s : Hw) (bs : List Nat) => bs.foldl (fun s b => s.raise 0x4030 (s.tileName p) b { kind := 1, unit := s.tileName p }) s
        if !bad.isEmpty then
          named ((out s).modPhys p (fun x => { x with skew := bad, loomOkA := !bad.any (fun e => e.1 == 0), loomOkB := !bad.any (fun e => e.1 == 1) }))
            (bad.map (·.1)).eraseDups
        else match fail with
          | some e => let s2 := fails s e.2.1; if e.2.1 = 0 then named s2 (bitList 2 e.2.2) else s2
          | none =>
            let g := (s.usesScratch p).runFleets p
            if g.2 then (g.1.modBoot (fun b => { b with passed := b.passed ++ [p] })).noteDigest p w digest else fails g.1 5) s1
  else s

def execTileWaveEnd (wave : Fin 9) (failed : List (Fin 64 × BitVec 3 × BitVec 2) × BitVec 64)
    (skewed : List (Fin 64 × Bool × Bool × BitVec 7 × BitVec 2)) (s : State) : Host.Outcome State Fault Refusal :=
  s.onHw (fun h => h.tileWaveEnd wave.val (failed.1.map (fun e => (e.1.val, e.2.1.toNat, e.2.2.toNat)))
    (skewed.map (fun e => (e.1.val, one e.2.1, one e.2.2.1, e.2.2.2.1.toNat, e.2.2.2.2.toNat))) failed.2.toNat)

/-- R465: a channel's atoms are all zero with correct check bytes. -/
def Mem.zeroChannel (m : Mem) (c : Nat) : Mem :=
  { m with
    cells := List.filter (fun (e : Nat × Byte) => decide (storeBase ≤ e.1) || channelOf e.1 != c) m.cells,
    syn := List.filter (fun (e : Nat × BitVec 8) => decide (storeBase ≤ e.1 * 8) || channelOf (e.1 * 8) != c) m.syn }

/-- R465: a memory wave starts: eight channels train, are zeroed and read back. -/
def Hw.memoryWave (s : Hw) (v : Nat) : Hw :=
  if s.served && s.boot.memWave.isNone && s.fget F.ID_BOOT_MEM_WAVES = v then
    (List.range 8).foldl (fun s i => ({ s with mem := s.mem.zeroChannel (8 * v + i) } : Hw).modChan (8 * v + i) (fun x => { x with st := .assaying }))
      ((s.atMs (120 + 60 * v)).modBoot (fun b => { b with memWave := some v }))
  else s

def execMemoryWave (wave : Fin 5) (s : State) : Host.Outcome State Fault Refusal := s.onHw (fun h => h.memoryWave wave.val)

/-- R347, R350, R465: after the last wave GDDR7 is mapped, with at most one channel out of the map; otherwise event 0x5034. -/
def Hw.mapMemory (s : Hw) : Hw :=
  match s.boot.failedCh with
  | [] => { s with mu := { s.mu with mapped := true } }
  | [c] => { s with mu := { s.mu with mapped := true, outCh := some c, windowOff := true } }
  | cs => let m := maskOf cs; s.raise 0x5034 m (m >>> 32)

/-- R465: a memory wave ends: bit i of `failed` is channel C(8v + i). -/
def Hw.memoryWaveEnd (s : Hw) (v failed : Nat) : Hw :=
  if s.boot.memWave = some v then
    let s1 := ((s.atMs (180 + 60 * v)).modBoot (fun b => { b with
      memWave := none, failedCh := b.failedCh ++ (bitList 8 failed).map (8 * v + ·) })).fset F.ID_BOOT_MEM_WAVES (v + 1)
    let s2 := (List.range 8).foldl (fun s i => s.modChan (8 * v + i) (fun x => { x with st := if bit failed i then .failed else .in_ })) s1
    if v = 4 then (s2.fset F.ID_BOOT_MEM_DONE 1).mapMemory else s2
  else s

def execMemoryWaveEnd (wave : Fin 5) (failed : BitVec 8) (s : State) : Host.Outcome State Fault Refusal :=
  s.onHw (fun h => h.memoryWaveEnd wave.val failed.toNat)

/-- R467: tiles, memory and links are done. -/
def Hw.canBeReady (s : Hw) : Bool :=
  s.served && s.flag F.ID_BOOT_TILES_DONE && s.mu.mapped && (List.range 64).all (fun l => (s.getLink l).firstDone)

/-- R467: readiness. -/
def Hw.readiness (s : Hw) : Hw :=
  if s.canBeReady && !s.flag F.ID_BOOT_READY then
    (((s.fset F.ID_BOOT_READY 1).fset F.ID_BOOT_MS_READY_MS (s.millis % 0x1_0000)).modBoot (fun b => { b with ready := true })).raise
      0x8051 s.millis s.logicalCount
  else s

def execReadiness (s : State) : Host.Outcome State Fault Refusal := s.onHw Hw.readiness

/-- R468: what a module is in its beat group. -/
def Hw.inNoGroup (s : Hw) : Bool := s.fget F.BEAT_GROUP_GROUP_ID == 0xFFF
def Hw.groupMaster (s : Hw) : Bool := !s.inNoGroup && s.fget F.BEAT_GROUP_MASTER == s.me

/-- R468, R5: the clock rises and the level is FULL. -/
def Hw.goFull (s : Hw) : Hw :=
  ((s.modBoot (fun b => { b with full := true, promoting := false })).fset F.ID_BOOT_MS_FULL_MS (s.millis % 0x1_0000)).enterLevel 2

/-- R468, R469: a ready module promotes, at the end of an edge window. DEDUCED, log 36. -/
def Hw.promoteFull (s : Hw) : Hw :=
  if s.served && s.level = 1 && s.flag F.ID_BOOT_READY && s.beat.cycle = 0 then
    if s.inNoGroup then s.goFull.sendHellos
    else if s.groupMaster then
      ((s.goFull.becomeMaster.fset F.ID_BOOT_JOINED 1).sendMarkers).sendHellos
    else if s.boot.promoting then
      ((((s.goFull.modBeat (fun b => { b with outside := true, rejoining := true })).fset F.ID_BOOT_ALONE 1).raise
        0x8052 (s.fget F.BEAT_GROUP_GROUP_ID) s.millis)).sendHellos
    else if s.beat.marker.isSome then
      ((s.goFull.modBeat (fun b => { b with joining := true })).fset F.ID_BOOT_JOINED 1).sendHellos
    else s
  else s

def execPromoteFull (s : State) : Host.Outcome State Fault Refusal := s.onHw Hw.promoteFull

/-- R469: at 1,000 ms a ready member that has not promoted acts by its role: the backup master becomes master; any other will promote outside
the group.  A role that the module does not have does nothing. -/
def Hw.joinDeadline (s : Hw) (backup : Bool) : Hw :=
  if backup == (s.beat.backup == s.me) && s.served && s.level = 1 && s.flag F.ID_BOOT_READY && !s.inNoGroup && !s.groupMaster then
    let s1 := s.atMs 1000
    if backup then s1.becomeMaster.raise 0x1043 s.beatNo s.me beatWho else s1.modBoot (fun b => { b with promoting := true })
  else s

def execJoinDeadline (backup : Bool) (s : State) : Host.Outcome State Fault Refusal := s.onHw (fun h => h.joinDeadline backup)

end Sys2Proof.Machine
end

