-- ==== Sys2Proof/Machine/Power.lean ====
section
/-!
DEFINITION. The power governor and the monitors (R479 to R489, R499, R500) and the SMBus sideband (R496 to R498).
-/
namespace Sys2Proof.Machine

def Hw.modPwr (s : Hw) (f : Power → Power) : Hw := { s with pwr := f s.pwr }

def pwrWho : Who := { kind := 4 }

/-! ### The governor (R482, R484, R486, R488) -/

/-- R482: the thermal cap after an interval whose hottest temperature is t, in units of 0.125 °C. -/
def nextTcap (tcap : Nat) (t : Int) : Nat :=
  if 760 ≤ t then max 1500 (tcap * 95 / 100) else if t < 744 then min 4200 (ceilDiv (tcap * 101) 100) else tcap

/-- R482: the duty after an interval of mean power p under a cap. -/
def nextDuty (duty least cap p : Nat) : Nat :=
  if cap < p then max least (duty * cap / p) else if (p : Int) < (cap : Int) - (ceilDiv cap 50 : Nat) then min 256 (duty + 4) else duty

/-- R499: the duty in force and the bits that follow from it. -/
def Hw.setDuty (s : Hw) (d : Nat) : Hw :=
  ((s.fset F.PWR_STATUS_DUTY d).fflag F.PWR_STATUS_GATING (decide (d < 256))).fflag F.PWR_STATUS_FLOOR (d == s.fget F.PWR_DUTY_MIN_DUTY)

/-- R499, R497: what the monitors read at the end of an interval. -/
def Hw.readings (s : Hw) (p : Nat) (td : Nat) (die : Nat) (tm : Nat) (grp mv amp : Nat) : Hw :=
  let hotMem := signed 16 td < signed 16 tm
  let last := (p :: s.pwr.last).take 1000
  let e := s.rd64 .PWR_ENERGY_LO .PWR_ENERGY_HI + p
  let s1 := ([(F.PWR_INPUT_POWER, p), (F.PWR_INPUT_VOLTAGE, mv / 10), (F.PWR_CURRENT_CURRENT, amp),
    (F.PWR_TEMP_MAX_TEMP, if hotMem then tm else td), (F.PWR_TEMP_MAX_DIE, if hotMem then grp else die),
    (F.SB_TEMP_DIE_MAX, td), (F.SB_TEMP_DIE_DIE, die), (F.SB_TEMP_MEM_MAX, tm), (F.SB_TEMP_MEM_GROUP, grp),
    (F.SB_VIN_MV, mv), (F.SB_VIN_CURRENT, amp), (F.SB_PIN_LAST, p), (F.SB_PIN_SECOND, last.foldl (· + ·) 0 / last.length)] : List (Fld × Nat)).foldl
    (fun s q => s.fset q.1 q.2) s
  (s1.wr64 .PWR_ENERGY_LO .PWR_ENERGY_HI (e % (1 <<< 64))).modPwr (fun x => { x with last := last, millivolts := mv })

/-- R488: the thermal cap, its flag and its events. -/
def Hw.thermal (s : Hw) (t die : Nat) : Hw :=
  let c := nextTcap (s.fget F.PWR_TCAP_WATTS) (signed 16 t)
  let was := s.flag F.PWR_STATUS_THERMAL
  let s1 := (s.fset F.PWR_TCAP_WATTS c).fflag F.PWR_STATUS_THERMAL (decide (c < 4200))
  let s2 :=
    if c < 4200 && !was then
      ((s1.modPwr (fun x => { x with throttled := 0 })).fset F.SB_ALERT_STATUS_THROTTLE 1).raise 0xA010 die t pwrWho
    else if 4200 ≤ c && was then s1.raise 0xA011 s.pwr.throttled 0 pwrWho
    else s1
  let hot := decide (840 ≤ signed 16 t)
  let s3 := s2.modPwr (fun x => { x with hot := hot })
  if hot && !s.pwr.hot then (s3.fset F.SB_ALERT_STATUS_HOT 1).raise 0xA012 die t pwrWho else s3

/-- R482, R486: the duty for the next interval, and the events of gating. -/
def Hw.govern (s : Hw) (p : Nat) : Hw :=
  let old := s.fget F.PWR_STATUS_DUTY
  let cap := min (s.fget F.PWR_CAP_WATTS) (s.fget F.PWR_TCAP_WATTS)
  let d := nextDuty old (s.fget F.PWR_DUTY_MIN_DUTY) cap p
  let floorRun := if cap < p && old == s.fget F.PWR_DUTY_MIN_DUTY then s.pwr.floorRun + 1 else 0
  let s1 := (s.setDuty d).modPwr (fun x => { x with floorRun := floorRun })
  let s2 := if floorRun ≠ 0 && floorRun % 100 = 0 then (s1.fset F.SB_ALERT_STATUS_OVER_CAP 1).raise 0xA021 p cap pwrWho else s1
  if d < 256 then
    let s3 := s2.modPwr (fun x => { x with at256 := 0 })
    if 1000 ≤ s.pwr.at256 then (s3.modPwr (fun x => { x with gated := true, below := 0 })).raise 0xA001 d p pwrWho else s3
  else
    let n := s.pwr.at256 + 1
    let s3 := s2.modPwr (fun x => { x with at256 := n })
    if n = 1000 && s.pwr.gated then (s3.modPwr (fun x => { x with gated := false, below := 0 })).raise 0xA002 s.pwr.below 0 pwrWho else s3

/-- R482: the end of a 1 ms interval, in WARM and FULL service.  Temperatures are signed, in units of 0.125 °C; the current in units of
10 mA. -/
def Hw.powerInterval (s : Hw) (p td die tm grp mv amp : Nat) : Hw :=
  if !s.served then s
  else
    let gated := s.flag F.PWR_STATUS_GATING
    let thermal := s.flag F.PWR_STATUS_THERMAL
    let s1 := (s.bump F.PWR_GATED_MS_COUNT 0 (one gated)).bump F.PWR_THROTTLE_MS_COUNT 0 (one thermal)
    let s2 := s1.modPwr (fun x => { x with below := x.below + one gated, throttled := x.throttled + one thermal })
    let s3 := s2.readings p td die tm grp mv amp
    (s3.thermal (s3.fget F.PWR_TEMP_MAX_TEMP) (s3.fget F.PWR_TEMP_MAX_DIE)).govern p

def execPowerInterval (power : BitVec 13) (tempDie : BitVec 16) (die : BitVec 4) (tempMem : BitVec 16) (group : BitVec 4)
    (millivolts current10 : BitVec 16) (s : State) : Host.Outcome State Fault Refusal :=
  s.onHw (fun h => h.powerInterval power.toNat tempDie.toNat die.toNat tempMem.toNat group.toNat millivolts.toNat current10.toNat)

/-- R484: above 5,000 W the duty goes to its floor until the interval ends. -/
def Hw.powerSurge (s : Hw) : Hw :=
  if s.served then s.setDuty (s.fget F.PWR_DUTY_MIN_DUTY) else s

def execPowerSurge (s : State) : Host.Outcome State Fault Refusal := s.onHw Hw.powerSurge

/-! ### The input and the coolant (R479, R480, R487) -/

/-- The package is powered and its core runs. -/
def Hw.powered (s : Hw) : Bool :=
  match s.boot.phase with | .fuses | .imaged | .live => true | _ => false

/-- R479: input between 46.0 V and 48.0 V. -/
def Hw.vinLow (s : Hw) (mv : Nat) : Hw :=
  if s.powered && 46_000 ≤ mv && mv < 48_000 && !s.pwr.vinLow then
    ((s.modPwr (fun x => { x with vinLow := true, millivolts := mv })).fset F.SB_ALERT_STATUS_VIN_LOW 1).raise 0xA030 mv 0 pwrWho
  else s

def execVinLow (millivolts : BitVec 16) (s : State) : Host.Outcome State Fault Refusal := s.onHw (fun h => h.vinLow millivolts.toNat)

/-- R480: the input has stayed within the operating range for 1 s after event 0xA030. -/
def Hw.vinRecovered (s : Hw) (mv : Nat) : Hw :=
  if s.powered && 48_000 ≤ mv && mv ≤ 56_000 && s.pwr.vinLow then
    (s.modPwr (fun x => { x with vinLow := false, millivolts := mv })).raise 0xA031 mv 0 pwrWho
  else s

def execVinRecovered (millivolts : BitVec 16) (s : State) : Host.Outcome State Fault Refusal := s.onHw (fun h => h.vinRecovered millivolts.toNat)

/-- R487: the coolant's temperatures, in units of 0.125 °C; an inlet outside 15 to 40 °C raises event 0xA040 at most once per second. -/
def Hw.coolant (s : Hw) (inlet outlet : Nat) : Hw :=
  if !s.powered then s
  else
    let s1 := (s.fset F.SB_TEMP_COOLANT_INLET inlet).fset F.SB_TEMP_COOLANT_OUTLET outlet
    let t := signed 16 inlet
    let lately := match s.pwr.coolant with | some m => decide (s.millis < m + 1000) | none => false
    if (t < 120 || 320 < t) && !lately then (s1.modPwr (fun x => { x with coolant := some s.millis })).raise 0xA040 inlet outlet pwrWho else s1

def execCoolantOutOfRange (inlet outlet : BitVec 16) (s : State) : Host.Outcome State Fault Refusal :=
  s.onHw (fun h => h.coolant inlet.toNat outlet.toNat)

/-! ### The sideband (R496 to R498) -/

/-- R485: a write of the power cap; values outside 1,500 to 4,200 W are ignored with event 0xA020. -/
def Hw.writeCap (s : Hw) (v : Nat) : Hw :=
  if 1500 ≤ v && v ≤ 4200 then s.fset F.PWR_CAP_WATTS v else s.raise 0xA020 0x9_0000 v pwrWho

/-- R496: the sideband is acknowledged. -/
def Hw.sbUp (s : Hw) : Bool :=
  (s.boot.smbUp && s.boot.phase != Phase.off) || (s.boot.phase == Phase.fuses && decide (30 ≤ s.millis))

/-- R490, R498: `SB.CONTROL`, with its key. -/
def State.sbControl (s : State) (v : Nat) : State :=
  if v >>> 16 ≠ 0x5342 then s
  else
    let s1 : State := if bit v 0 then { s with hw := s.hw.restart } else s
    if bit v 1 then s1.moduleReset 1 false else s1

/-- R496 to R498: a block write of four bytes with a good PEC. -/
def State.sbWrite (s : State) (code count v : Nat) (pec : Bool) : State :=
  let h := s.hw
  if !h.sbUp || count ≠ 4 || !pec then s
  else match code with
    | 0x09 => { s with hw := h.fset F.SB_RAIL_SEL_RAIL (v % 16) }
    | 0x0B => if h.powered then { s with hw := h.writeCap (bits v 0 13) } else s
    | 0x0C => { s with hw := h.fset ⟨.SB_ALERT_STATUS, 0, 7⟩ (bits (h.rd .SB_ALERT_STATUS 0).toNat 0 7 &&& (0x7F - bits v 0 7)) }
    | 0x0D => { s with hw := h.fset F.SB_ALERT_MASK_MASK (bits v 0 7) }
    | 0x0E => s.sbControl v
    | _ => s

def execSbRegisterWrite (code count : BitVec 8) (value : BitVec 32) (pecGood : Bool) (s : State) : Host.Outcome State Fault Refusal :=
  .next (s.sbWrite code.toNat count.toNat value.toNat pecGood)

/-- R490: the restart bit of `SB.CONTROL`. -/
def execSbRestart (s : State) : Host.Outcome State Fault Refusal := .next (if s.hw.sbUp then s.sbControl 0x5342_0001 else s)

/-- R498: the module reset bit of `SB.CONTROL`. -/
def execSbModuleReset (s : State) : Host.Outcome State Fault Refusal := .next (if s.hw.sbUp then s.sbControl 0x5342_0002 else s)

/-- R498: ALERT# is asserted. -/
def Hw.alerting (s : Hw) : Bool := bits (s.rd .SB_ALERT_STATUS 0).toNat 0 7 &&& bits (s.rd .SB_ALERT_MASK 0).toNat 0 7 != 0

/-- R496: the Alert Response Address is answered with the target's address while ALERT# is asserted. -/
def Hw.alertResponse (s : Hw) : Hw :=
  if s.sbUp && s.alerting then s.reply [BitVec.ofNat 8 ((0x68 + s.boot.smbAddr) <<< 1)] else s

def execSbAlertResponse (s : State) : Host.Outcome State Fault Refusal := s.onHw Hw.alertResponse

end Sys2Proof.Machine
end

