-- ==== Sys2Proof/Machine/RegWrite.lean ====
section
/-!
DEFINITION. The host's register writes (R8 to R10, R13): RW fields, bits that a 1 clears, bits that start an action, and the writes that
a register's own rule ignores.
-/
namespace Sys2Proof.Machine

/-- R10: the RW fields of a register take the written value. DESIGN CHOICE, log 22. -/
def Hw.setRw (s : Hw) (r : Reg) (u v : Nat) : Hw :=
  r.spec.fields.foldl (fun s f => if f.acc == Acc.rw then s.fset ⟨r, f.lo, f.width⟩ (bits v f.lo f.width) u else s) s

/-- R10: a 1 clears a bit of a W1C field. -/
def Hw.clearW1c (s : Hw) (r : Reg) (u v : Nat) : Hw :=
  r.spec.fields.foldl (fun s f =>
    if f.acc == Acc.w1c then
      let x := s.fget ⟨r, f.lo, f.width⟩ u
      s.fset ⟨r, f.lo, f.width⟩ (x - (x &&& bits v f.lo f.width)) u
    else s) s

/-! ### Writes that a rule ignores -/

/-- The stream of the selector, with its job, as events name it. -/
def Hw.selWho (s : Hw) (n : Nat) : Who := { stream := some n, job := some (s.fget F.STRM_JOB_JOB n) }

/-- Whether the rule of a register ignores a write of value v at offset o to unit u: none where it does not, otherwise the machine with the
event that the rule names. DEDUCED, log 23. -/
def Hw.ignored (s : Hw) (r : Reg) (u o v : Nat) : Option Hw :=
  let drop := fun (b : Bool) (h : Hw) => if b then some h else none
  match r with
  -- R52
  | .BEAT_NEXT_BASE_LO | .BEAT_NEXT_BASE_HI | .BEAT_NEXT_LEN | .BEAT_NEXT_AT_LO | .BEAT_NEXT_AT_HI =>
    drop (s.flag F.BEAT_PLAN_NEXT_GO) (s.raise 0x1022 o 0 beatWho)
  -- R227
  | .STRM_JOB | .STRM_FRAME | .STRM_RING_BASE_LO | .STRM_RING_BASE_HI =>
    drop (s.flag F.STRM_CTL_ENABLE u) (s.raise 0xB008 u o (s.selWho u))
  -- R220, R221
  | .STRM_TDESC_BASE_LO | .STRM_TDESC_BASE_HI | .STRM_TDESC_CAP =>
    drop (s.fget F.STRM_TDESC_LIVE_COUNT != 0) (s.raise 0xC053 o (s.fget F.STRM_TDESC_LIVE_COUNT))
  | .STRM_DESC_DATA => drop s.mail.isSome s
  | .STRM_DESC_OP => drop s.mail.isSome (if bit v 31 then s.raise 0xC054 (bits v 0 3) (bits v 4 20) else s)
  -- R264
  | .TILE_RTN_LOAD_SLOT | .TILE_RTN_LOAD_SRC_LO | .TILE_RTN_LOAD_SRC_HI | .TILE_RTN_LOAD_CTL => drop (s.flag F.TILE_RTN_LOAD_CTL_GO u) s
  -- R416
  | .HIF_EVT_BASE_LO | .HIF_EVT_BASE_HI => drop (s.flag F.HIF_EVT_CTL_EN) s
  | .HIF_EVT_CONS =>
    drop (decide (1 <<< s.fget F.HIF_EVT_CTL_LOG2 < (s.fget F.HIF_EVT_PROD_COUNT + 0x1_0000_0000 - v % 0x1_0000_0000) % 0x1_0000_0000)) s
  -- R421
  | .HIF_COPY_BASE_LO | .HIF_COPY_BASE_HI | .HIF_COPY_CFG => drop (s.flag F.HIF_COPY_CTL_EN u) s
  -- R288, R297
  | .UPD_MODE => drop s.modeLocked (s.raise 0x3006 o 0 { kind := 4 })
  | .UPD_JOB_CTL | .UPD_JOB_SHARDS => drop (s.roundOpen u) (s.raise 0x3006 o u { kind := 4, job := some u })
  -- R403
  | .TWIN_LINKS_LO | .TWIN_LINKS_HI | .TWIN_MAN_BASE_LO | .TWIN_MAN_BASE_HI | .TWIN_MAN_COUNT | .TWIN_JOIN_JOB =>
    drop (s.twinState == 4 || s.twinState == 5) s
  -- R485, R499
  | .PWR_CAP => drop (decide (bits v 0 13 < 1500) || decide (4200 < bits v 0 13)) (s.writeCap (bits v 0 13))
  | .PWR_DUTY_MIN => drop (decide (bits v 0 9 < 16) || decide (256 < bits v 0 9)) (s.raise 0xA020 o (bits v 0 9) pwrWho)
  | _ => none

/-! ### Writes with an effect of their own -/

/-- Runs an action where its bit is written as 1. -/
def Hw.act (s : Hw) (v b : Nat) (f : Hw → Hw) : Hw := if bit v b then f s else s

/-- R263, R460: `STRM.CTL`. -/
def Hw.writeStrmCtl (s : Hw) (n v : Nat) : Hw :=
  let refuse := bit v 0 && !s.flag F.STRM_CTL_ENABLE n && !s.mu.mapped
  let s1 := s.setRw .STRM_CTL n (if refuse then v - 1 else v)
  let s2 := if refuse then s1.raise 0x8053 0x5_0004 0 (s1.selWho n) else s1
  ((s2.act v 1 (fun h => h.streamReset n)).act v 2 (fun h => h.streamResume n)).act v 3 (fun h => h.streamStep n)

/-- R223: GO of the mailbox. -/
def Hw.mailGo (s : Hw) (op id : Nat) : Hw :=
  match op with
  | 1 => s.tdescCreate id
  | 2 => s.tdescDestroy id
  | 3 => s.tdescRead id
  | 4 => s.regionCreate id
  | 5 => s.regionDestroy id
  | 6 => s.regionRead id
  | _ => s.mailReserved op id

/-- R416: `HIF.EVT_CTL`; LOG2 stays while EN is 1. -/
def Hw.writeEvtCtl (s : Hw) (v : Nat) : Hw :=
  if s.flag F.HIF_EVT_CTL_EN then s.fset F.HIF_EVT_CTL_EN (v % 2) else s.setRw .HIF_EVT_CTL 0 v

/-- R509, R510: `DBG.TRACE_CTL`; a trace that is enabled starts at the buffer's first record, at once or at a breakpoint. -/
def Hw.writeTraceCtl (s : Hw) (v : Nat) : Hw :=
  let s1 := s.setRw .DBG_TRACE_CTL 0 v
  if !bit v 0 then s1.fset F.DBG_TRACE_CTL_RUNNING 0
  else if s.flag F.DBG_TRACE_CTL_EN then s1
  else ((s1.fset F.DBG_TRACE_CTL_FULL 0).fset F.DBG_TRACE_COUNT_COUNT 0).fflag F.DBG_TRACE_CTL_RUNNING (!bit v 2)

/-- R504: `TST.PERT_CTL`; opportunities are counted from the setting of EN. -/
def Hw.writePertCtl (s : Hw) (k v : Nat) : Hw :=
  let s1 := s.setRw .TST_PERT_CTL k v
  if bit v 0 && !s.flag F.TST_PERT_CTL_EN k then
    { s1 with test := { s1.test with opps := List.filter (fun (e : Nat × Nat) => e.1 / 1024 != k) s1.test.opps } }
  else s1

/-- R501, R502: `TST.ARM`; a write with both bits disarms. -/
def Hw.writeTstArm (s : Hw) (v : Nat) : Hw :=
  if bit v 1 then s.testDisarm (bits v 16 16) else if bit v 0 then s.testArm (bits v 16 16) else s

/-- R354: `MEM.PAGE_ACK`; a write with both or neither answer is ignored. -/
def Hw.writePageAck (s : Hw) (v : Nat) : Hw :=
  if bit v 4 && !bit v 5 then s.pageAccept (v % 16) else if bit v 5 && !bit v 4 then s.pageDecline (v % 16) else s

/-- R511: `DBG.PC_CTL`. -/
def Hw.writePcCtl (s : Hw) (v : Nat) : Hw := if bit v 1 then s.pcClear (bit v 0) else s.pcRun (bit v 0)

/-- A write of the 32-bit register r of unit u that no rule ignores: its effect on everything but flash and fuses. -/
def Hw.writeEffect (s : Hw) (r : Reg) (u v : Nat) : Hw :=
  let s1 := s.setRw r u v
  match r with
  | .BEAT_PLAN_NEXT => (s1.act v 0 Hw.planGo).act v 1 Hw.planCancel
  | .STRM_CTL => s.writeStrmCtl u v
  | .STRM_STATUS_ACC => (s.clearW1c r u v).shadowTouch u
  | .STRM_SEED_LO => s.seedWrite u false false v
  | .STRM_SEED_HI => s.seedWrite u true false v
  -- of both in one write the set wins (R251)
  | .STRM_GLATCH => (s1.act v 2 (fun h => h.hostGlatch false)).act v 1 (fun h => h.hostGlatch true)
  | .STRM_DESC_OP => s1.act v 31 (fun h => h.mailGo (bits v 0 3) (bits v 4 20))
  | .STRM_RTN_BCAST_CTL => s1.act v 0 Hw.routineBcast
  | .TILE_RTN_LOAD_CTL => s1.act v 0 (fun h => h.routineLoad u)
  | .DBG_BP_CTL => s1.clearW1c r u v
  | .UPD_STEPSIZE => s.stepsizeWrite u v
  | .PWR_DUTY_MIN => s1.floorBit
  | .FLT_UNIT_CTL =>
    let k := s.fget F.FLT_UNIT_SEL_KIND
    let i := s.fget F.FLT_UNIT_SEL_INDEX
    (s1.act v 0 (fun h => h.disableUnit k i)).act v 1 (fun h => h.enableUnit k i)
  | .MEM_PAGE_ACK => s.writePageAck v
  | .LNK_RT_MASK_LO | .LNK_RT_MASK_HI | .LNK_RT_ALT_LO | .LNK_RT_ALT_HI => s1.routeWaiting
  | .TWIN_CTL => ((s1.act v 0 Hw.attach).act v 1 Hw.reseed).act v 2 Hw.detach
  | .TWIN_JOIN_STEP_LO | .TWIN_JOIN_STEP_HI => s1.joinStepWritten
  | .HIF_EVT_CTL => s.writeEvtCtl v
  | .HIF_COPY_CTL => s1.act v 2 Hw.copyResume
  | .TST_ARM => s.writeTstArm v
  | .TST_PERT_CTL => s.writePertCtl u v
  | .TST_INJ_CTL => s1.act v 3 (fun h => h.inject (bits v 0 3))
  | .DBG_TRACE_CTL => s.writeTraceCtl v
  | .DBG_PC_CTL => s.writePcCtl v
  | _ => s1

/-- R447: GO of `PAT.FLASH`; a reserved OP starts nothing. -/
def State.flashGo (s : State) (v : Nat) : State :=
  match bits v 0 3 with
  | 1 => { s with hw := s.hw.verify s.fuses }
  | 2 => s.program (bit v 3)
  | 3 => { s with hw := s.hw.patRead }
  | 4 => s.patternsOp
  | 5 => { s with hw := s.hw.logEraseOp }
  | _ => s

/-- R453: GO of `SEC.OP`; a reserved OP starts nothing. -/
def State.secGo (s : State) (v : Nat) : State :=
  let slot := bits v 4 2
  let h := s.hw
  match bits v 0 3 with
  | 1 => { s with hw := h.attestOp }
  | 2 => { s with hw := h.getCertOp }
  | 3 => { s with hw := h.getPubkeyOp }
  | 4 => { s with hw := h.slotOp s.fuses true slot }
  | 5 => { s with hw := h.slotOp s.fuses false slot }
  | 6 => { s with hw := h.raiseFloorOp }
  | _ => s

/-- A write of the 32-bit register r of unit u that no rule ignores. -/
def State.writeEffect (s : State) (r : Reg) (u v : Nat) : State :=
  match r with
  | .HIF_MODULE_RESET => s.moduleResetWrite v
  | .PAT_FLASH =>
    let s1 : State := { s with hw := s.hw.setRw r u v }
    if bit v 31 then s1.flashGo v else s1
  | .PAT_RECAST =>
    let s1 : State := { s with hw := s.hw.setRw r u v }
    if bit v 31 then s1.recast (bits v 0 4) (bits v 4 2) else s1
  | .SEC_OP =>
    let s1 : State := { s with hw := s.hw.setRw r u v }
    if bit v 31 then s1.secGo v else s1
  | _ => { s with hw := s.hw.writeEffect r u v }

/-! ### The access (R8, R9, R13, R445) -/


/-- R445: a block that BARE service does not offer ignores writes. -/
def Hw.offers (s : Hw) (o : Nat) : Bool := s.level != 0 || bareOffset o || (decide (0xF0_0000 ≤ o) && decide (o < tileWindow))

/-- A 32-bit write at a multiple of 4. -/
def State.write32 (s : State) (o v : Nat) : State :=
  if !s.hw.offers o then s
  else if 0xF0_0000 ≤ o && o < tileWindow then { s with hw := s.hw.msixWrite o v }
  else match regAt o with
    | none => s
    | some a =>
      let u := s.hw.unitFor a
      let s1 : State := { s with hw := s.hw.disarm a }
      match s1.hw.ignored a.reg u o v with
      | some h => { s1 with hw := h }
      | none => s1.writeEffect a.reg u v

/-- R8: a 64-bit write aligned to a pair: both halves in the same cycle. -/
def Hw.writePair (s : Hw) (a : RegAt) (hi : Reg) (o v : Nat) : Hw :=
  let u := s.unitFor a
  let s1 := s.disarm a
  match s1.ignored a.reg u o v with
  | some h => h
  | none =>
    let s2 := (s1.setRw a.reg u (v % 0x1_0000_0000)).setRw hi u (v >>> 32)
    match a.reg with
    | .STRM_SEED_LO => s1.seedWrite u false true v
    | .LNK_RT_MASK_LO | .LNK_RT_ALT_LO => s2.routeWaiting
    | .TWIN_JOIN_STEP_LO => s2.joinStepWritten
    | _ => s2

/-- R8, R9: a 64-bit write at a multiple of 4. -/
def State.write64 (s : State) (o v : Nat) : State :=
  match (regAt o).bind (fun a => a.reg.hiOf.map (fun h => (a, h))) with
  | some (a, hi) => if s.hw.offers o then { s with hw := s.hw.writePair a hi o v } else s
  | none =>
    let s1 := s.write32 o (v % 0x1_0000_0000)
    if s1.hw.bar0Open then s1.write32 (o + 4) (v >>> 32) else s1

/-- R10, R415: a register write; a poisoned one is discarded and counted. -/
def State.registerWrite (s : State) (o : Nat) (wide : Bool) (v : Nat) (poisoned : Bool) : State :=
  if !s.hw.bar0Open then s
  else if poisoned then { s with hw := s.hw.poisonRx o 0 }
  else if wide then s.write64 o v
  else s.write32 o (v % 0x1_0000_0000)

def execRegisterWrite (off : BitVec 28) (wide : Bool) (value : BitVec 64) (poisoned : Bool) (s : State) : Host.Outcome State Fault Refusal :=
  .next (s.registerWrite off.toNat wide value.toNat poisoned)

end Sys2Proof.Machine
end

