-- ==== Sys2Proof/Machine/Dispatch.lean ====
section
/-!
DEFINITION. The dispatcher: one arm for each row of the table.
-/
namespace Sys2Proof.Machine

/-- The effect of a command on everything but the queue. -/
def exec (i : Instr) (s : State) : Host.Outcome State Fault Refusal :=
  match i with
  | .registerWrite off wide value poisoned => Sys2Proof.Machine.execRegisterWrite off wide value poisoned s
  | .pairLoRead off wide => Sys2Proof.Machine.execPairLoRead off wide s
  | .pairHiRead off => Sys2Proof.Machine.execPairHiRead off s
  | .rcRegisterRead off => Sys2Proof.Machine.execRcRegisterRead off s
  | .badBar0Access off size write => Sys2Proof.Machine.execBadBar0Access off size write s
  | .configRequest write dword value => Sys2Proof.Machine.execConfigRequest write dword value s
  | .edgeWindow => Sys2Proof.Machine.execEdgeWindow s
  | .partitionFilled tile queue => Sys2Proof.Machine.execPartitionFilled tile queue s
  | .planEntryFetched => Sys2Proof.Machine.execPlanEntryFetched s
  | .frameStaged tile back => Sys2Proof.Machine.execFrameStaged tile back s
  | .planNextGo => Sys2Proof.Machine.execPlanNextGo s
  | .planNextCancel => Sys2Proof.Machine.execPlanNextCancel s
  | .planStartEntryValidated => Sys2Proof.Machine.execPlanStartEntryValidated s
  | .planSwitchLate => Sys2Proof.Machine.execPlanSwitchLate s
  | .budgetExhausted tile queue => Sys2Proof.Machine.execBudgetExhausted tile queue s
  | .beatMarker link group master log2 offset beat => Sys2Proof.Machine.execBeatMarker link group master log2 offset beat s
  | .markerPrimaryLoss => Sys2Proof.Machine.execMarkerPrimaryLoss s
  | .leaveBeatGroup => Sys2Proof.Machine.execLeaveBeatGroup s
  | .backupMasterTakeover => Sys2Proof.Machine.execBackupMasterTakeover s
  | .mm tile queue => Sys2Proof.Machine.execMm tile queue s
  | .mm2 tile queue => Sys2Proof.Machine.execMm2 tile queue s
  | .conv tile queue => Sys2Proof.Machine.execConv tile queue s
  | .heddleLoad tile queue => Sys2Proof.Machine.execHeddleLoad tile queue s
  | .loomBlockDrain tile loomB faults => Sys2Proof.Machine.execLoomBlockDrain tile loomB faults s
  | .checksumRepeatDone tile loomB faults => Sys2Proof.Machine.execChecksumRepeatDone tile loomB faults s
  | .gather tile queue => Sys2Proof.Machine.execGather tile queue s
  | .scatter tile queue => Sys2Proof.Machine.execScatter tile queue s
  | .scatterAdd tile queue => Sys2Proof.Machine.execScatterAdd tile queue s
  | .spmm tile queue => Sys2Proof.Machine.execSpmm tile queue s
  | .merge tile queue => Sys2Proof.Machine.execMerge tile queue s
  | .sort tile queue => Sys2Proof.Machine.execSort tile queue s
  | .route tile queue => Sys2Proof.Machine.execRoute tile queue s
  | .sketch tile queue => Sys2Proof.Machine.execSketch tile queue s
  | .ew tile queue => Sys2Proof.Machine.execEw tile queue s
  | .row tile queue => Sys2Proof.Machine.execRow tile queue s
  | .norm tile queue => Sys2Proof.Machine.execNorm tile queue s
  | .smax tile queue => Sys2Proof.Machine.execSmax tile queue s
  | .cast tile queue => Sys2Proof.Machine.execCast tile queue s
  | .scale tile queue => Sys2Proof.Machine.execScale tile queue s
  | .move tile queue => Sys2Proof.Machine.execMove tile queue s
  | .put tile queue => Sys2Proof.Machine.execPut tile queue s
  | .get tile queue => Sys2Proof.Machine.execGet tile queue s
  | .reduce tile queue => Sys2Proof.Machine.execReduce tile queue s
  | .allgather tile queue => Sys2Proof.Machine.execAllgather tile queue s
  | .reduceScatter tile queue => Sys2Proof.Machine.execReduceScatter tile queue s
  | .apply tile queue => Sys2Proof.Machine.execApply tile queue s
  | .ready tile queue => Sys2Proof.Machine.execReady tile queue s
  | .commitWait tile queue => Sys2Proof.Machine.execCommitWait tile queue s
  | .setc tile queue => Sys2Proof.Machine.execSetc tile queue s
  | .addc tile queue => Sys2Proof.Machine.execAddc tile queue s
  | .cmp tile queue => Sys2Proof.Machine.execCmp tile queue s
  | .br tile queue => Sys2Proof.Machine.execBr tile queue s
  | .loop tile queue => Sys2Proof.Machine.execLoop tile queue s
  | .wait tile queue => Sys2Proof.Machine.execWait tile queue s
  | .set tile queue => Sys2Proof.Machine.execSet tile queue s
  | .call tile queue => Sys2Proof.Machine.execCall tile queue s
  | .ret tile queue => Sys2Proof.Machine.execRet tile queue s
  | .yield tile queue => Sys2Proof.Machine.execYield tile queue s
  | .fence tile queue => Sys2Proof.Machine.execFence tile queue s
  | .scalarLoad tile queue => Sys2Proof.Machine.execScalarLoad tile queue s
  | .mark tile queue => Sys2Proof.Machine.execMark tile queue s
  | .commandComplete tile queue num => Sys2Proof.Machine.execCommandComplete tile queue num s
  | .queueFetchReturn tile queue => Sys2Proof.Machine.execQueueFetchReturn tile queue s
  | .tdescCreate id => Sys2Proof.Machine.execTdescCreate id s
  | .tdescDestroy id => Sys2Proof.Machine.execTdescDestroy id s
  | .tdescRead id => Sys2Proof.Machine.execTdescRead id s
  | .regionCreate id => Sys2Proof.Machine.execRegionCreate id s
  | .regionDestroy id => Sys2Proof.Machine.execRegionDestroy id s
  | .regionRead id => Sys2Proof.Machine.execRegionRead id s
  | .mailboxReservedOp seven id => Sys2Proof.Machine.execMailboxReservedOp seven id s
  | .mailboxDone => Sys2Proof.Machine.execMailboxDone s
  | .streamWindowWrite stream off data poisoned => Sys2Proof.Machine.execStreamWindowWrite stream off data poisoned s
  | .tieOffRecord stream record => Sys2Proof.Machine.execTieOffRecord stream record s
  | .streamReset => Sys2Proof.Machine.execStreamReset s
  | .streamResetZeroed stream => Sys2Proof.Machine.execStreamResetZeroed stream s
  | .streamResume => Sys2Proof.Machine.execStreamResume s
  | .streamStep => Sys2Proof.Machine.execStreamStep s
  | .depthShadowWrite stream => Sys2Proof.Machine.execDepthShadowWrite stream s
  | .seedWrite hi wide value => Sys2Proof.Machine.execSeedWrite hi wide value s
  | .glatchSet => Sys2Proof.Machine.execGlatchSet s
  | .glatchClear => Sys2Proof.Machine.execGlatchClear s
  | .globalLatchArrive index => Sys2Proof.Machine.execGlobalLatchArrive index s
  | .latchMessage link src latch clear job handle => Sys2Proof.Machine.execLatchMessage link src latch clear job handle s
  | .latchQuery link src latch job tag => Sys2Proof.Machine.execLatchQuery link src latch job tag s
  | .latchState link src latch value tag => Sys2Proof.Machine.execLatchState link src latch value tag s
  | .deadlockDetected tile => Sys2Proof.Machine.execDeadlockDetected tile s
  | .waitWatchdogExpired stream => Sys2Proof.Machine.execWaitWatchdogExpired stream s
  | .routineLoad tile => Sys2Proof.Machine.execRoutineLoad tile s
  | .routineBcastLoad => Sys2Proof.Machine.execRoutineBcastLoad s
  | .routineImageArrived tile index => Sys2Proof.Machine.execRoutineImageArrived tile index s
  | .stepsizeWrite group value => Sys2Proof.Machine.execStepsizeWrite group value s
  | .readyMessageSend job => Sys2Proof.Machine.execReadyMessageSend job s
  | .readyShortTimeout job => Sys2Proof.Machine.execReadyShortTimeout job s
  | .readyMessage link src job step t votes digest layers => Sys2Proof.Machine.execReadyMessage link src job step t votes digest layers s
  | .rootCommitTimeout job => Sys2Proof.Machine.execRootCommitTimeout job s
  | .decision link job step outcome group flip exps => Sys2Proof.Machine.execDecision link job step outcome group flip exps s
  | .decisionTimeoutAbort job => Sys2Proof.Machine.execDecisionTimeoutAbort job s
  | .jobAbort link job origin seq beat life hops => Sys2Proof.Machine.execJobAbort link job origin seq beat life hops s
  | .storeCorrectionWriteback phys word => Sys2Proof.Machine.execStoreCorrectionWriteback phys word s
  | .assayPartDone phys good digestA digestB => Sys2Proof.Machine.execAssayPartDone phys good digestA digestB s
  | .titheImposed tile => Sys2Proof.Machine.execTitheImposed tile s
  | .observationAssayDone phys goodCross goodPart => Sys2Proof.Machine.execObservationAssayDone phys goodCross goodPart s
  | .observationWindowEnd phys => Sys2Proof.Machine.execObservationWindowEnd phys s
  | .unitDisable => Sys2Proof.Machine.execUnitDisable s
  | .unitEnable => Sys2Proof.Machine.execUnitEnable s
  | .unitDrainComplete kind index => Sys2Proof.Machine.execUnitDrainComplete kind index s
  | .unitReturnAssayDone kind index good => Sys2Proof.Machine.execUnitReturnAssayDone kind index good s
  | .gddr7AccessComplete addr write replays exhausted => Sys2Proof.Machine.execGddr7AccessComplete addr write replays exhausted s
  | .demandScrubRewrite channel => Sys2Proof.Machine.execDemandScrubRewrite channel s
  | .patrolScrub => Sys2Proof.Machine.execPatrolScrub s
  | .channelRetrainStart channel => Sys2Proof.Machine.execChannelRetrainStart channel s
  | .channelRetrainDone micros => Sys2Proof.Machine.execChannelRetrainDone micros s
  | .channelRetrainTimeout micros => Sys2Proof.Machine.execChannelRetrainTimeout micros s
  | .retirementCopyDone => Sys2Proof.Machine.execRetirementCopyDone s
  | .returnCopyDone => Sys2Proof.Machine.execReturnCopyDone s
  | .pageAccept slot => Sys2Proof.Machine.execPageAccept slot s
  | .pageDecline slot => Sys2Proof.Machine.execPageDecline slot s
  | .pageOfflined slot => Sys2Proof.Machine.execPageOfflined slot s
  | .flitTime link => Sys2Proof.Machine.execFlitTime link s
  | .flitReceived link flit bad0 bad1 corrected => Sys2Proof.Machine.execFlitReceived link flit bad0 bad1 corrected s
  | .replayTimeout link => Sys2Proof.Machine.execReplayTimeout link s
  | .writeData link src stream job xfer addr data dross => Sys2Proof.Machine.execWriteData link src stream job xfer addr data dross s
  | .readRequest link src stream job xfer addr len => Sys2Proof.Machine.execReadRequest link src stream job xfer addr len s
  | .readResponse link xfer addr data dross => Sys2Proof.Machine.execReadResponse link xfer addr data dross s
  | .collectiveData link job src addr xfer data dross => Sys2Proof.Machine.execCollectiveData link job src addr xfer data dross s
  | .crowWriteData link src stream job xfer addr data dross => Sys2Proof.Machine.execCrowWriteData link src stream job xfer addr data dross s
  | .writeAcknowledge link xfer bytes => Sys2Proof.Machine.execWriteAcknowledge link xfer bytes s
  | .refusal link xfer reason => Sys2Proof.Machine.execRefusal link xfer reason s
  | .identity link module group buffer admitted => Sys2Proof.Machine.execIdentity link module group buffer admitted s
  | .collectiveAbort link group inst => Sys2Proof.Machine.execCollectiveAbort link group inst s
  | .collectiveTimeout group stream => Sys2Proof.Machine.execCollectiveTimeout group stream s
  | .laneLockLost link lane1 both => Sys2Proof.Machine.execLaneLockLost link lane1 both s
  | .laneDownshift link lane1 => Sys2Proof.Machine.execLaneDownshift link lane1 s
  | .linkRetrain link => Sys2Proof.Machine.execLinkRetrain link s
  | .linkTrainingStart group => Sys2Proof.Machine.execLinkTrainingStart group s
  | .linkTrainingDone link good lanes delay => Sys2Proof.Machine.execLinkTrainingDone link good lanes delay s
  | .linkRetry link => Sys2Proof.Machine.execLinkRetry link s
  | .linkAdmit link => Sys2Proof.Machine.execLinkAdmit link s
  | .unreachableRefuse index => Sys2Proof.Machine.execUnreachableRefuse index s
  | .hello link state live beat => Sys2Proof.Machine.execHello link state live beat s
  | .twinUnreachable => Sys2Proof.Machine.execTwinUnreachable s
  | .attach => Sys2Proof.Machine.execAttach s
  | .detach => Sys2Proof.Machine.execDetach s
  | .reseed => Sys2Proof.Machine.execReseed s
  | .attachDetachRecord link detach reason => Sys2Proof.Machine.execAttachDetachRecord link detach reason s
  | .standIn src withdraw job joinStep => Sys2Proof.Machine.execStandIn src withdraw job joinStep s
  | .divergence link job step => Sys2Proof.Machine.execDivergence link job step s
  | .reseedRecord link op reason joinStep => Sys2Proof.Machine.execReseedRecord link op reason joinStep s
  | .manifest link entries => Sys2Proof.Machine.execManifest link entries s
  | .reseedCopyDone => Sys2Proof.Machine.execReseedCopyDone s
  | .handover link jobs layers => Sys2Proof.Machine.execHandover link jobs layers s
  | .bar4Read off len => Sys2Proof.Machine.execBar4Read off len s
  | .bar4Write off data poisoned => Sys2Proof.Machine.execBar4Write off data poisoned s
  | .bar4Atomic off op log2size a b => Sys2Proof.Machine.execBar4Atomic off op log2size a b s
  | .pcieLinkTrained speed width flitMode => Sys2Proof.Machine.execPcieLinkTrained speed width flitMode s
  | .eventRecordWrite => Sys2Proof.Machine.execEventRecordWrite s
  | .msixMessage vector => Sys2Proof.Machine.execMsixMessage vector s
  | .copyDescriptorStart queue desc readOk => Sys2Proof.Machine.execCopyDescriptorStart queue desc readOk s
  | .copyDescriptorComplete queue data readOk => Sys2Proof.Machine.execCopyDescriptorComplete queue data readOk s
  | .copyResume => Sys2Proof.Machine.execCopyResume s
  | .hostReset cause => Sys2Proof.Machine.execHostReset cause s
  | .hostResetDone => Sys2Proof.Machine.execHostResetDone s
  | .moduleResetWrite value => Sys2Proof.Machine.execModuleResetWrite value s
  | .verify => Sys2Proof.Machine.execVerify s
  | .program keepCert => Sys2Proof.Machine.execProgram keepCert s
  | .read => Sys2Proof.Machine.execRead s
  | .patterns => Sys2Proof.Machine.execPatterns s
  | .logErase => Sys2Proof.Machine.execLogErase s
  | .patOperationDone readback => Sys2Proof.Machine.execPatOperationDone readback s
  | .recast sect source => Sys2Proof.Machine.execRecast sect source s
  | .attest => Sys2Proof.Machine.execAttest s
  | .getCert => Sys2Proof.Machine.execGetCert s
  | .getPubkey => Sys2Proof.Machine.execGetPubkey s
  | .enroll slot => Sys2Proof.Machine.execEnroll slot s
  | .revoke slot => Sys2Proof.Machine.execRevoke slot s
  | .raiseFloor => Sys2Proof.Machine.execRaiseFloor s
  | .secOperationDone burned => Sys2Proof.Machine.execSecOperationDone burned s
  | .eventLogAppend => Sys2Proof.Machine.execEventLogAppend s
  | .powerOn smbAddr => Sys2Proof.Machine.execPowerOn smbAddr s
  | .coreResetRelease twpos refclkGood => Sys2Proof.Machine.execCoreResetRelease twpos refclkGood s
  | .imageCheck readOk => Sys2Proof.Machine.execImageCheck readOk s
  | .bar0Live failed => Sys2Proof.Machine.execBar0Live failed s
  | .tileWave wave => Sys2Proof.Machine.execTileWave wave s
  | .tileWaveEnd wave failed skewed => Sys2Proof.Machine.execTileWaveEnd wave failed skewed s
  | .memoryWave wave => Sys2Proof.Machine.execMemoryWave wave s
  | .memoryWaveEnd wave failed => Sys2Proof.Machine.execMemoryWaveEnd wave failed s
  | .readiness => Sys2Proof.Machine.execReadiness s
  | .promoteFull => Sys2Proof.Machine.execPromoteFull s
  | .joinDeadline backup => Sys2Proof.Machine.execJoinDeadline backup s
  | .mrstAssert => Sys2Proof.Machine.execMrstAssert s
  | .moduleResetRelease => Sys2Proof.Machine.execModuleResetRelease s
  | .powerLoss => Sys2Proof.Machine.execPowerLoss s
  | .powerInterval power tempDie die tempMem group millivolts current10 => Sys2Proof.Machine.execPowerInterval power tempDie die tempMem group millivolts current10 s
  | .powerSurge => Sys2Proof.Machine.execPowerSurge s
  | .vinLow millivolts => Sys2Proof.Machine.execVinLow millivolts s
  | .vinRecovered millivolts => Sys2Proof.Machine.execVinRecovered millivolts s
  | .inputOvervoltage => Sys2Proof.Machine.execInputOvervoltage s
  | .thermalStop => Sys2Proof.Machine.execThermalStop s
  | .refclkLoss => Sys2Proof.Machine.execRefclkLoss s
  | .refclkRecovered => Sys2Proof.Machine.execRefclkRecovered s
  | .coolantOutOfRange inlet outlet => Sys2Proof.Machine.execCoolantOutOfRange inlet outlet s
  | .sbRegisterWrite code count value pecGood => Sys2Proof.Machine.execSbRegisterWrite code count value pecGood s
  | .sbRestart => Sys2Proof.Machine.execSbRestart s
  | .sbModuleReset => Sys2Proof.Machine.execSbModuleReset s
  | .sbAlertResponse => Sys2Proof.Machine.execSbAlertResponse s
  | .testArm key => Sys2Proof.Machine.execTestArm key s
  | .testDisarm key => Sys2Proof.Machine.execTestDisarm key s
  | .injectFlip => Sys2Proof.Machine.execInjectFlip s
  | .injectDross => Sys2Proof.Machine.execInjectDross s
  | .injectChecksum => Sys2Proof.Machine.execInjectChecksum s
  | .injectAssay => Sys2Proof.Machine.execInjectAssay s
  | .injectLink => Sys2Proof.Machine.execInjectLink s
  | .injectionMade => Sys2Proof.Machine.execInjectionMade s
  | .pcRun run => Sys2Proof.Machine.execPcRun run s
  | .pcClear run => Sys2Proof.Machine.execPcClear run s
  | .pcieTrainingStart => Sys2Proof.Machine.execPcieTrainingStart s
  | .overvoltageCleared => Sys2Proof.Machine.execOvervoltageCleared s

end Sys2Proof.Machine
end

