-- ==== Sys2Proof/Machine/Step.lean ====
section
/-!
DEFINITION. One step: the command at the front of the queue is executed on the state with the queue's rest.  On an empty
queue one period of the clock passes (DESIGN CHOICE, log 2).
-/
namespace Sys2Proof.Machine

/-- One step of the machine. DESIGN CHOICE, log 1. -/
def step (s : State) : Host.Outcome State Fault Refusal :=
  match s.pending with
  | [] => Sys2Proof.Machine.tick s
  | c :: cs => exec c { s with pending := cs }

/-- The machine with the command a table word spells at the front of its queue: the table's rows give no bits, so no word
spells one. -/
def State.withFetchWord (s : State) (nbits w : Nat) : State :=
  match Sys2Proof.decodeTableWord nbits w with
  | some c => { s with pending := c :: s.pending }
  | none => s

end Sys2Proof.Machine
end

