-- ==== Sys2Proof/Safety.lean ====
section
/-!
DEFINITION. The terms in which claims are made: the canonical form of device memory, what a command completes with, what it
raises, and what it leaves alone.
-/
namespace Sys2Proof.Machine

/-- The canonical form of device memory: it lists rising keys and no byte equal to what an unlisted one reads as. -/
abbrev State.Ok (s : State) : Prop := s.hw.mem.wf

/-- A run of n steps stops nowhere. -/
def State.runs (s : State) (n : Nat) : Prop := ∃ t, Sys2Proof.core.run n s = .next t

/-- Command c completes on s: exec answers a next state with the queue, the fuses and the flash of s, and of whose rest P
holds. -/
def Completes (c : Instr) (s : State) (P : Hw → Prop) : Prop :=
  ∃ t : Hw, exec c s = .next { s with hw := t } ∧ P t

/-- The registers that are not listed read as before. -/
def RegsKept (l : List Reg) (s t : Hw) : Prop := ∀ r u, r ∉ l → t.rd r u = s.rd r u

/-- The registers that are not listed read as before but for the counters of lost events, log entries and trace records,
which raising an event may count in (R419, R451, R509). -/
def RegsKeptEv (l : List Reg) (s t : Hw) : Prop := RegsKept (.HIF_EVT_LOST :: .PAT_LOG_LOST :: .DBG_TRACE_LOST :: l) s t

/-- Besides registers nothing differs. -/
def RegsOnly (s t : Hw) : Prop := t = { s with regs := t.regs }

/-- Besides registers nothing differs but what raising events changes: the events that wait and the count of those dropped
(R419), those that wait for the event log (R451), and the trace (R509). -/
def EventsOnly (s t : Hw) : Prop :=
  t = { s with
    regs := t.regs,
    host := { s.host with waiting := t.host.waiting, dropped := t.host.dropped },
    pat := { s.pat with logWait := t.pat.logWait, logLost := t.pat.logLost },
    test := { s.test with trace := t.test.trace } }

/-- There is room for one event more among those that wait for the host ring (R419). -/
def EventRoom (s : Hw) : Prop := s.host.waiting.length < 256

/-- The events that wait in t are those of s and then one with the code and arguments given. -/
def Raises (s t : Hw) (code a0 a1 : Nat) : Prop :=
  ∃ e : EventRec, e.code = code ∧ e.arg0 = a0 % 2 ^ 32 ∧ e.arg1 = a1 % 2 ^ 32 ∧ t.host.waiting = s.host.waiting ++ [e]

/-- The completion that the host receives. -/
def Replied (t : Hw) (d : List Byte) (poisoned : Bool := false) (status : Nat := 0) : Prop :=
  t.host.resp = some { data := d, poisoned := poisoned, status := status }

/-- A run of n device addresses from a leads to the memory keys from k on, one by one. -/
def LeadsTo (s : Hw) (a k n : Nat) : Prop :=
  ∀ i < n, s.place (a + i) = .gddr (k + i) ∨ ∃ p o, s.place (a + i) = .store (k + i) p o

/-- Nothing guards those addresses: neither the descriptor table, nor a lock, nor a re-seed. -/
def Unguarded (s : Hw) (a k n : Nat) : Prop :=
  ∀ i < n, s.inTable (a + i) = false ∧ s.lockedAt (a + i) = false ∧ s.seedGuard (k + i) = false

/-- In t the bytes from key k on are those of bs, and every other byte outside dross is as a reader of s gets
it. -/
def Stored (s t : Hw) (k : Nat) (bs : List Byte) : Prop :=
  (∀ i (h : i < bs.length), t.mem.goodByte (k + i) = bs[i]) ∧
  (∀ j, j < k ∨ k + bs.length ≤ j → t.mem.atomDross j = true ∨ t.mem.goodByte j = s.mem.goodByte j)

/-- The registers of which some write has an effect of its own, or is ignored by the register's own rule. -/
def ownWrites : List Reg :=
  [.BEAT_NEXT_BASE_LO, .BEAT_NEXT_BASE_HI, .BEAT_NEXT_LEN, .BEAT_NEXT_AT_LO, .BEAT_NEXT_AT_HI, .STRM_JOB, .STRM_FRAME,
   .STRM_RING_BASE_LO, .STRM_RING_BASE_HI, .STRM_TDESC_BASE_LO, .STRM_TDESC_BASE_HI, .STRM_TDESC_CAP, .STRM_DESC_DATA,
   .STRM_DESC_OP, .TILE_RTN_LOAD_SLOT, .TILE_RTN_LOAD_SRC_LO, .TILE_RTN_LOAD_SRC_HI, .TILE_RTN_LOAD_CTL, .HIF_EVT_BASE_LO,
   .HIF_EVT_BASE_HI, .HIF_EVT_CONS, .HIF_COPY_BASE_LO, .HIF_COPY_BASE_HI, .HIF_COPY_CFG, .UPD_MODE, .UPD_JOB_CTL,
   .UPD_JOB_SHARDS, .TWIN_LINKS_LO, .TWIN_LINKS_HI, .TWIN_MAN_BASE_LO, .TWIN_MAN_BASE_HI, .TWIN_MAN_COUNT, .TWIN_JOIN_JOB,
   .PWR_CAP, .PWR_DUTY_MIN, .BEAT_PLAN_NEXT, .STRM_CTL, .STRM_STATUS_ACC, .STRM_SEED_LO, .STRM_SEED_HI, .STRM_GLATCH,
   .STRM_RTN_BCAST_CTL, .DBG_BP_CTL, .UPD_STEPSIZE, .FLT_UNIT_CTL, .MEM_PAGE_ACK, .LNK_RT_MASK_LO, .LNK_RT_MASK_HI,
   .LNK_RT_ALT_LO, .LNK_RT_ALT_HI, .TWIN_CTL, .TWIN_JOIN_STEP_LO, .TWIN_JOIN_STEP_HI, .HIF_EVT_CTL, .HIF_COPY_CTL, .TST_ARM,
   .TST_PERT_CTL, .TST_INJ_CTL, .DBG_TRACE_CTL, .DBG_PC_CTL, .HIF_MODULE_RESET, .PAT_FLASH, .PAT_RECAST, .SEC_OP]

/-- No set has reached global latch n in this cycle (R251). -/
def NoSetNow (s : Hw) (n : Nat) : Prop := s.latches.setCycle = s.boot.ticks → ∀ e ∈ s.latches.setNow, e.1 ≠ n

/-- A set that is no host write has reached global latch n in this cycle (R251). -/
def SetNow (s : Hw) (n : Nat) : Prop := s.latches.setCycle = s.boot.ticks ∧ (n, false) ∈ s.latches.setNow

/-- The state in which a head issues: breakpoints tested, and what the command names taken in. -/
def Hw.issuing (s : Hw) (t : Nat) (h : Head) : Hw := ((s.breakpoints h).1.takeNamed t h).1

/-- The head of queue q of tile t is a command with opcode op that issues now: the cycle is open on the tile (R483), the command
waits for nothing (R242), no breakpoint holds it (R261), neither it nor what it names is dross (R305), and it passes the checks common to all commands. -/
def Ready (s : Hw) (t q op : Nat) (h : Head) : Prop :=
  s.head t q = some h ∧ Com.opcode h.w = op ∧ s.dutyOpen t = true ∧ h.dross = false ∧
  s.issueWhy t q h (if formatOk h.w then s.takeOps t h.ctx h.w else []) = 1 ∧ (s.breakpoints h).2 = false ∧
  ((s.breakpoints h).1.takeNamed t h).2 = none ∧
  (((s.issuing t h).leaveHead t q h).commonChecks ((s.issuing t h).cmdOf t q h)).2 = 0

/-- The home frame of stream n is resident on tile t (R225). -/
def HomeOn (s : Hw) (t n : Nat) : Prop :=
  s.tileOfStream n = some t ∧ (s.getTile t).frame = some (s.fget F.STRM_FRAME_FRAME n)

/-- The head has issued and completed: it counts, and no entry of its number is still outstanding (R242, R244). -/
def Completed (t : Hw) (k : Nat) (h : Head) : Prop :=
  (t.ctxOn k h.n).issued = h.ctx.issued + 1 ∧ ∀ f ∈ (t.ctxOn k h.n).flight, f.num = h.ctx.issued.toNat → f.stage = .completed

/-- The head has issued and its effect is made: its entry waits for COMMAND_COMPLETE with a final status (R243). -/
def Issued (t : Hw) (k : Nat) (h : Head) (st : Nat) : Prop :=
  (t.ctxOn k h.n).issued = h.ctx.issued + 1 ∧ ∃ f ∈ (t.ctxOn k h.n).flight, f.num = h.ctx.issued.toNat ∧ f.cmd = h.w ∧ f.stage = .done st

/-- Memory is as the taking in of what the head names left it: as it was, where no word has an error (R301, R305). -/
def MemAsTaken (s t : Hw) (k : Nat) (h : Head) : Prop := t.mem = (s.issuing k h).mem ∧ (s.mem.syn = [] → t.mem = s.mem)

/-- The queue goes on with the next command (R242). -/
def NextInLine (s t : Hw) (k q : Nat) (h : Head) : Prop :=
  (t.ctxOn k h.n).pos = h.ctx.pos.next ∧ (t.getQueue k q).fetched = (s.getQueue k q).fetched.drop 1

/-- The state in which a unit runs the head that issues, and the command as it runs. -/
def Hw.taken (s : Hw) (t q : Nat) (h : Head) : Hw := (s.issuing t h).leaveHead t q h
def Hw.cmdAt (s : Hw) (t q : Nat) (h : Head) : Cmd := (s.issuing t h).cmdOf t q h

/-- No word of memory has an error and no page is offline, so nothing that a unit takes in is dross. -/
def Clean (s : Hw) : Prop := s.mem.syn = [] ∧ s.mu.offline = []

/-- A unit's command has issued with the effect r of its run: its entry waits with r's status, memory is that of r, and the queue
goes on with the next command. -/
def Ran (s t : Hw) (k q : Nat) (h : Head) (r : Hw × Nat) : Prop :=
  Issued t k h r.2 ∧ NextInLine s t k q h ∧ t.mem = r.1.mem ∧ t.regions = s.regions ∧ t.chans = s.chans

/-- The output block of command x with entry e is in its loom no more. -/
def BlockGone (t : Hw) (k : Nat) (x : Cmd) (e : LoomBlock) : Prop :=
  ∀ f ∈ (t.getTile k).blocks, ¬ (f.stream = x.n ∧ f.num = x.num ∧ f.index = e.index ∧ f.loomB = e.loomB)

/-- The state in which block p of command x is checked, whether it passes, and the checks of its rows: its slices have been loaded (R104),
and the accumulators hold what faults left in them (R128). -/
def Hw.drainCheck (s : Hw) (x : Cmd) (k : Nat) (b : Bool) (p : Block) (faults : List (BitVec 12 × BitVec 32)) : Hw × Bool × List RowCheck :=
  ((s.wake x).loadHeddles x p b).checkBlock k b p (p.accs faults)

/-- The rows of a block that were not checked. -/
def unchecked (l : List RowCheck) : Nat := (l.filter (fun c => match c with | .skipped => true | _ => false)).length

/-- No operand of a command is block-scaled or compressed, or has its halo written. -/
def PlainOps (x : Cmd) : Prop := ∀ q ∈ x.named, q.2.scaled = false ∧ q.2.crow = false ∧ Desc.padWrite q.2.img = false

/-- Every atom of memory in which an element of block p starts in its destination is dross in t (R303). -/
def BlockLost (s t : Hw) (x : Cmd) (p : Block) : Prop :=
  ∀ m < p.mb, ∀ n < p.nb, ∀ a k, a = (x.o p.dst).byteAt ((p.idx (p.m0 + m) (p.n0 + n)).map Int.ofNat) / 128 * 128 →
    LeadsTo s a k 1 → Unguarded s a k 1 → s.lockedAt k = false → t.mem.atomDross k = true

/-- An event with the code and arguments given waits in t, where s had room for it. -/
def Tells (s t : Hw) (code a0 a1 : Nat) : Prop :=
  s.host.waiting.length < 200 → ∃ v ∈ t.host.waiting, v.code = code ∧ v.arg0 = a0 % 2 ^ 32 ∧ v.arg1 = a1 % 2 ^ 32

/-- An operand of one run of elements, all on another module. -/
def FarWhole (o : Opnd) : Prop :=
  o.scaled = false ∧ o.crow = false ∧ (∀ i ∈ allIndices o.readShape, keyFar (o.keyed.byteAt (Desc.coreOf o.img i)) ≠ none) ∧
  ∀ i ∈ allIndices o.writeShape, keyFar (o.keyed.byteAt (i.map Int.ofNat)) ≠ none

/-- The head's command has issued and runs, under a new transfer of its stream and number (R369). -/
def Crosses (s t : Hw) (k q : Nat) (h : Head) (get : Bool) : Prop :=
  NextInLine s t k q h ∧ (t.ctxOn k h.n).issued = h.ctx.issued + 1 ∧
  (∃ f ∈ (t.ctxOn k h.n).flight, f.num = h.ctx.issued.toNat ∧ f.cmd = h.w ∧ f.stage = .running) ∧
  ∃ i y, Sparse.find? t.lnk.xfers i = some y ∧ y.stream = h.n ∧ y.num = h.ctx.issued.toNat ∧ y.get = get ∧ y.acked = 0

/-- The root of job j has decided its round for a step from the READY messages ms: the outcome is ABORT with a message short, a
differing T, or a stale or refused vote; else SKIP with a non-finite vote; else COMMIT (R290), and the decision waits for its edge
(R292). -/
def Decided (s t : Hw) (j step : Nat) (ms : List ReadyMsg) : Prop :=
  ∃ d : Decision, (t.getJob j).lastDecision = some d ∧ (t.getJob j).due = some d ∧ (t.getJob j).past = (s.getJob j).past ++ [d] ∧ d.step = step ∧ d.layers = ms ∧
    d.outcome = (if ({ s.getJob j with msgs := ms } : Job).held < s.fget F.UPD_JOB_SHARDS_SHARDS j then 3
      else if ms.any (fun m => m.t != s.jobT j) || ms.any (fun m => bit m.votes 1 || bit m.votes 2) then 3
      else if ms.any (fun m => bit m.votes 0) then 2 else 1) ∧
    (t.getJob j).rootStep = 0 ∧ (t.getJob j).msgs = []

/-- The READY message that the module sends for job j: its votes with those given for stale step sizes and refusals. -/
def Hw.readyOf (s : Hw) (j : Nat) (stale refused : Bool) : ReadyMsg :=
  { src := s.me, t := s.jobT j, digest := (s.getJob j).digest, layers := (s.getJob j).layers,
    votes := (if (s.getJob j).nonfinite then 1 else 0) + (if stale then 2 else 0) + (if refused then 4 else 0) }

/-- A step-size group that the round has read has been written since (R271). -/
def Hw.groupsStale (s : Hw) (j : Nat) : Bool :=
  (s.getJob j).stale || (s.getJob j).groups.any (fun g => !(s.stepTag g.1 == (s.getJob j).step && s.fget F.UPD_STEPGEN_GEN g.1 == g.2))

/-- A long message for a module waits on one of its links, or in the link unit where no route is usable. -/
def LongSent (t : Hw) (dst kind : Nat) (msg : List Byte) : Prop :=
  ∃ f : Flit, f.cls = 1 ∧ f.kind = kind ∧ f.dst = dst ∧ f.data = msg ∧
    (f ∈ t.lnk.noRoute.map (fun e => e.1) ∨ ∃ l, f ∈ (t.getLink l).long)

/-- The pages of a channel whose proposals have been accepted and that are still to be offlined, besides that of proposal k (R352). -/
def Accepted (s : Hw) (c k : Nat) : Nat := (s.mu.props.filter (fun e => e.2.1 == c && e.2.2.2.2 && e.1 != k)).length

/-- Everything that a power loss loses stands at its value at reset, but for the registers listed and the record of the start-up
(R472, R476); what the host holds stays. -/
def Lost (s t : Hw) (k : List Reg) : Prop :=
  t.mem = Mem.reset ∧ t.beat = Beat.reset ∧ t.tiles = [] ∧ t.phys = [] ∧ t.frames = [] ∧ t.streams = [] ∧ t.latches = Latches.reset ∧
  t.regions = [] ∧ t.mail = none ∧ t.jobs = [] ∧ t.layers = [] ∧ t.links = [] ∧ t.lnk = LinkUnit.reset ∧ t.twin = Twin.reset ∧
  t.flt = Faults.reset ∧ t.chans = [] ∧ t.mu = MemUnit.reset ∧ t.pat = Pat.reset ∧ t.pwr = Power.reset ∧ t.test = Test.reset ∧
  t.host.waiting = [] ∧ t.host.linkUp = false ∧ t.host.mem = s.host.mem ∧ ∀ r u, r ∉ k → t.rd r u = r.resetAt u

/-- The registers with fields that a module reset and a stop keep (R472, R497). -/
def sidebandKept : List Reg := [.SB_ALERT_STATUS, .SB_ALERT_MASK, .SB_STOPS, .SB_STATE]

end Sys2Proof.Machine
end

