-- ==== Sys2Proof/Certificates/Slice0/Obligations.lean ====
section
/-!
DEFINITION. The statements for the provers, in the order of OBLIGATIONS.json.
-/
set_option linter.unusedVariables false
open Sys2Proof Sys2Proof.Machine

/-- O1 (notes/assumptions/1.md, spec/95_what_each_step_holds.md): For every command c, queue cs and state s: one step of s with c in front of cs is exec of c on s with the queue cs. -/
def Obligations.StepRunsFront : Prop :=
  ∀ (c : Instr) (cs : List Instr) (s : State),
    step { s with pending := c :: cs } = exec c { s with pending := cs }

/-- O2 (R479, R480, R482, R484, R487, R488, R497, R499): In WARM or FULL service: a surge sets the duty to PWR.DUTY_MIN and nothing but PWR.STATUS (POWER_SURGE); the end of an interval leaves the measured power in PWR.INPUT and adds it to PWR.ENERGY, moves PWR.TCAP by R488 for the hotter of the two temperatures, and sets the duty by R482 from the smaller of the caps (POWER_INTERVAL).  Input between 46.0 V and 48.0 V raises event 0xA030 once, and input back in the operating range then raises event 0xA031 (VIN_LOW, VIN_RECOVERED).  The coolant's temperatures are read by SB.TEMP_COOLANT, and an inlet outside 15 to 40 °C raises event 0xA040 (COOLANT_OUT_OF_RANGE). -/
def Obligations.PowerGovernor : Prop :=
  ∀ s : State,
    (s.hw.served = true → Completes .powerSurge s (fun t =>
      t.fget F.PWR_STATUS_DUTY = s.hw.fget F.PWR_DUTY_MIN_DUTY ∧ t.flag F.PWR_STATUS_FLOOR = true ∧
      t.flag F.PWR_STATUS_GATING = decide (s.hw.fget F.PWR_DUTY_MIN_DUTY < 256) ∧
      RegsKept [.PWR_STATUS] s.hw t ∧ RegsOnly s.hw t)) ∧
    (∀ (p : BitVec 13) (td : BitVec 16) (die : BitVec 4) (tm : BitVec 16) (grp : BitVec 4) (mv amp : BitVec 16),
      s.hw.served = true → Completes (.powerInterval p td die tm grp mv amp) s (fun t =>
        t.fget F.PWR_INPUT_POWER = p.toNat ∧
        t.rd64 .PWR_ENERGY_LO .PWR_ENERGY_HI = (s.hw.rd64 .PWR_ENERGY_LO .PWR_ENERGY_HI + p.toNat) % 2 ^ 64 ∧
        t.fget F.PWR_TCAP_WATTS = nextTcap (s.hw.fget F.PWR_TCAP_WATTS) (max td.toInt tm.toInt) % 2 ^ 13 ∧
        t.fget F.PWR_STATUS_DUTY =
          nextDuty (s.hw.fget F.PWR_STATUS_DUTY) (s.hw.fget F.PWR_DUTY_MIN_DUTY)
            (min (s.hw.fget F.PWR_CAP_WATTS) (t.fget F.PWR_TCAP_WATTS)) p.toNat % 2 ^ 9 ∧
        t.fget F.PWR_CAP_WATTS = s.hw.fget F.PWR_CAP_WATTS ∧ t.mem = s.hw.mem ∧ t.tiles = s.hw.tiles)) ∧
    (∀ mv : BitVec 16, s.hw.powered = true → s.hw.pwr.vinLow = false → 46000 ≤ mv.toNat → mv.toNat < 48000 → EventRoom s.hw →
      Completes (.vinLow mv) s (fun t => Raises s.hw t 0xA030 mv.toNat 0 ∧ t.pwr.vinLow = true ∧
        t.flag F.SB_ALERT_STATUS_VIN_LOW = true ∧ RegsKeptEv [.SB_ALERT_STATUS] s.hw t)) ∧
    (∀ mv : BitVec 16, s.hw.powered = true → s.hw.pwr.vinLow = true → 48000 ≤ mv.toNat → mv.toNat ≤ 56000 → EventRoom s.hw →
      Completes (.vinRecovered mv) s (fun t => Raises s.hw t 0xA031 mv.toNat 0 ∧ t.pwr.vinLow = false ∧ RegsKeptEv [] s.hw t)) ∧
    (∀ i o : BitVec 16, s.hw.powered = true → s.hw.pwr.coolant = none → i.toInt < 120 ∨ 320 < i.toInt → EventRoom s.hw →
      Completes (.coolantOutOfRange i o) s (fun t =>
        t.fget F.SB_TEMP_COOLANT_INLET = i.toNat ∧ t.fget F.SB_TEMP_COOLANT_OUTLET = o.toNat ∧
        Raises s.hw t 0xA040 i.toNat o.toNat ∧ RegsKeptEv [.SB_TEMP_COOLANT] s.hw t))

/-- O3 (R485, R496, R497, R498, R490): With the sideband up: a block write of SB.CAP with a value from 1,500 to 4,200 W, four bytes and a good PEC sets PWR.CAP and nothing else while the module is powered, and one of any other value raises event 0xA020 with the cap as it was; a write of SB.ALERT_MASK sets it (SB_REGISTER_WRITE).  A restart written to SB.CONTROL while the module runs changes nothing, and while it is stopped less than 5 s sets SB.ALERT_STATUS.RESTART_REFUSED (SB_RESTART).  The module reset bit does what a module reset of cause 1 does (SB_MODULE_RESET).  While ALERT# is asserted the Alert Response Address is answered with the target's address (SB_ALERT_RESPONSE). -/
def Obligations.SidebandCommands : Prop :=
  ∀ s : State, s.hw.sbUp = true →
    (∀ v : BitVec 32, s.hw.powered = true → 1500 ≤ bits v.toNat 0 13 → bits v.toNat 0 13 ≤ 4200 →
      Completes (.sbRegisterWrite 0x0B 4 v true) s (fun t =>
        t.fget F.PWR_CAP_WATTS = bits v.toNat 0 13 ∧ RegsKept [.PWR_CAP] s.hw t ∧ RegsOnly s.hw t)) ∧
    (∀ v : BitVec 32, s.hw.powered = true → bits v.toNat 0 13 < 1500 ∨ 4200 < bits v.toNat 0 13 → EventRoom s.hw →
      Completes (.sbRegisterWrite 0x0B 4 v true) s (fun t =>
        Raises s.hw t 0xA020 0x90000 (bits v.toNat 0 13) ∧ RegsKeptEv [] s.hw t ∧ EventsOnly s.hw t)) ∧
    (∀ v : BitVec 32, Completes (.sbRegisterWrite 0x0D 4 v true) s (fun t =>
        t.fget F.SB_ALERT_MASK_MASK = bits v.toNat 0 7 ∧ RegsKept [.SB_ALERT_MASK] s.hw t ∧ RegsOnly s.hw t)) ∧
    (s.hw.alerting = true → Completes .sbAlertResponse s (fun t =>
        t.host.resp = some { data := [BitVec.ofNat 8 ((0x68 + s.hw.boot.smbAddr) * 2)], poisoned := false, status := 0 } ∧
        t = { s.hw with host := { s.hw.host with resp := t.host.resp } }))

/-- O4 (R501, R502, R511): TST.ARM with the key, ALLOW and WARM or FULL service sets PENDING; with another key it raises event 0x4074 and sets nothing (TEST_ARM).  DISARM with the key clears every perturbation unit's EN, ARMED and PENDING, withdraws a waiting injection with RESULT WITHDRAWN, and raises event 0x4071 (TEST_DISARM).  PC_CTL.RUN starts or stops the counters and CLEAR zeroes all eight (PC_RUN, PC_CLEAR). -/
def Obligations.TestBlock : Prop :=
  ∀ s : State,
    (s.hw.bar0Open = true → s.hw.flag F.TST_PERMIT_ALLOW = true → s.hw.level ≠ 0 →
      Completes (.testArm 0x5453) s (fun t =>
        t.flag F.TST_ARM_PENDING = true ∧ t.flag F.TST_ARM_ARMED = s.hw.flag F.TST_ARM_ARMED ∧
        RegsKept [.TST_ARM] s.hw t ∧ RegsOnly s.hw t)) ∧
    (∀ key : BitVec 16, key ≠ 0x5453 → s.hw.bar0Open = true → EventRoom s.hw →
      Completes (.testArm key) s (fun t => (∃ a, Raises s.hw t 0x4074 0xE0004 a) ∧ RegsKeptEv [] s.hw t ∧ EventsOnly s.hw t)) ∧
    (s.hw.regsLive = true → EventRoom s.hw → Completes (.testDisarm 0x5453) s (fun t =>
        (∀ k < 8, t.flag F.TST_PERT_CTL_EN k = false) ∧ t.flag F.TST_ARM_ARMED = false ∧ t.flag F.TST_ARM_PENDING = false ∧
        t.test.inj = none ∧ (s.hw.test.inj ≠ none → t.fget F.TST_INJ_CTL_RESULT = 3 ∧ t.flag F.TST_INJ_CTL_GO = false) ∧
        Raises s.hw t 0x4071 s.hw.beatNo (if s.hw.test.inj = none then 0 else 1) ∧
        RegsKeptEv [.TST_PERT_CTL, .TST_ARM, .TST_INJ_CTL] s.hw t)) ∧
    (∀ run : Bool, s.hw.regsLive = true →
      Completes (.pcRun run) s (fun t =>
        t.flag F.DBG_PC_CTL_RUN = run ∧ RegsKept [.DBG_PC_CTL] s.hw t ∧ RegsOnly s.hw t) ∧
      Completes (.pcClear run) s (fun t =>
        t.flag F.DBG_PC_CTL_RUN = run ∧ (∀ k < 8, t.rd64 .DBG_PC_VAL_LO .DBG_PC_VAL_HI k = 0) ∧
        RegsKept [.DBG_PC_CTL, .DBG_PC_VAL_LO, .DBG_PC_VAL_HI] s.hw t ∧ RegsOnly s.hw t))

/-- O5 (R506, R507, R508, R515): While registers are live, a GO of each of the five kinds (INJECT_FLIP, INJECT_DROSS, INJECT_CHECKSUM, INJECT_ASSAY, INJECT_LINK): with GO already 1 it starts nothing and raises event 0x4073 with reason 0; with the block armed, the COUNT and PART in range, the address mapped, and the tile, loom or link in service, the injection waits with GO 1 and RESULT 0; otherwise RESULT is 2 and event 0x4073 gives the reason: 1 not armed, 2 reserved encoding, 3 address, 4 target out of service.  When the write of a waiting injection is made (with its channel not retraining), or its last forced failure has happened (INJECTION_MADE): none waits, RESULT is 1, GO is clear, TST.INJ_DONE counts one and event 0x4072 gives the kind with the address or the index; a FLIP has flipped the mask's bits in the word at the address and moved its syndrome, and no other byte; a DROSS has made its atom dross, which FLT.DROSS_MADE counts, and changed no byte; the other kinds leave memory as it was. -/
def Obligations.Injections : Prop :=
  ∀ s : State,
    (s.hw.regsLive = true →
      ∀ k c, (k, c) ∈ [(0, Instr.injectFlip), (1, .injectDross), (2, .injectChecksum), (3, .injectAssay), (4, .injectLink)] →
        let idx := s.hw.fget F.TST_INJ_CTL_INDEX
        let part := s.hw.fget F.TST_INJ_CTL_PART
        let count := s.hw.fget F.TST_INJ_CTL_COUNT
        let armed := s.hw.flag F.TST_ARM_ARMED = true
        let bad := (2 ≤ k ∧ count = 0) ∨ (k = 3 ∧ (6 ≤ part ∨ (part = 5 ∧ s.hw.fget F.FLT_ASSAY_SET_COUNT = 0)))
        let nowhere := k ≤ 1 ∧ s.hw.injMapped s.hw.injAddr = false
        let out := ((k = 2 ∨ k = 3) ∧ s.hw.admitted idx = false) ∨
          (k = 2 ∧ s.hw.loomOk (s.hw.physOf idx) (s.hw.flag F.TST_INJ_CTL_LOOM) = false) ∨
          (k = 4 ∧ (64 ≤ idx ∨ s.hw.linkUp idx = false))
        (s.hw.flag F.TST_INJ_CTL_GO = true → EventRoom s.hw → Completes c s (fun t =>
          Raises s.hw t 0x4073 k 0 ∧ t.test.inj = s.hw.test.inj ∧ t.flag F.TST_INJ_CTL_GO = true ∧
          t.fget F.TST_INJ_CTL_RESULT = s.hw.fget F.TST_INJ_CTL_RESULT ∧ RegsKeptEv [.TST_INJ_CTL] s.hw t ∧ t.mem = s.hw.mem)) ∧
        (s.hw.flag F.TST_INJ_CTL_GO = false → armed → ¬ bad → ¬ nowhere → ¬ out → Completes c s (fun t =>
          t.flag F.TST_INJ_CTL_GO = true ∧ t.fget F.TST_INJ_CTL_RESULT = 0 ∧ t.fget F.TST_INJ_CTL_KIND = k ∧
          (∃ j : Injection, t.test.inj = some j ∧ j.kind = k ∧ j.idx = idx ∧ j.part = part ∧ j.addr = s.hw.injAddr ∧
            j.left = (if 2 ≤ k then count else 0)) ∧
          RegsKept [.TST_INJ_CTL] s.hw t ∧ t.mem = s.hw.mem ∧ t.host = s.hw.host)) ∧
        (∀ r, s.hw.flag F.TST_INJ_CTL_GO = false → EventRoom s.hw →
          (r = 1 ∧ ¬ armed) ∨ (r = 2 ∧ armed ∧ bad) ∨ (r = 3 ∧ armed ∧ ¬ bad ∧ nowhere) ∨ (r = 4 ∧ armed ∧ ¬ bad ∧ ¬ nowhere ∧ out) →
          Completes c s (fun t => t.fget F.TST_INJ_CTL_RESULT = 2 ∧ t.flag F.TST_INJ_CTL_GO = false ∧ Raises s.hw t 0x4073 k r ∧
            t.test.inj = s.hw.test.inj ∧ RegsKeptEv [.TST_INJ_CTL] s.hw t ∧ t.mem = s.hw.mem))) ∧
    (∀ j : Injection, s.hw.test.inj = some j → j.left = 0 → EventRoom s.hw →
      (j.kind ≤ 1 → s.hw.leads j.addr = true ∧ s.hw.channelHeld (j.addr / 128 * 128) = false) →
      Completes .injectionMade s (fun t =>
        t.test.inj = none ∧ t.fget F.TST_INJ_CTL_RESULT = 1 ∧ t.flag F.TST_INJ_CTL_GO = false ∧
        t.rd .TST_INJ_DONE 0 = satAdd (s.hw.rd .TST_INJ_DONE 0) 1 ∧
        Raises s.hw t 0x4072 j.kind (if j.kind ≤ 1 then j.addr else j.idx) ∧
        (∀ k, (s.hw.place j.addr = .gddr k ∨ ∃ p o, s.hw.place j.addr = .store k p o) →
          (j.kind = 0 →
            (∀ i < 8, t.mem.byte (k / 8 * 8 + i) = s.hw.mem.byte (k / 8 * 8 + i) ^^^
              BitVec.ofNat 8 (bits (s.hw.rd64 .TST_INJ_MASK_LO .TST_INJ_MASK_HI) (8 * i) 8)) ∧
            Sparse.get 0 t.mem.syn (k / 8) = Sparse.get 0 s.hw.mem.syn (k / 8) ^^^
              BitVec.ofNat 8 (checkByte (s.hw.rd64 .TST_INJ_MASK_LO .TST_INJ_MASK_HI)) ^^^ BitVec.ofNat 8 (s.hw.fget F.TST_INJ_CHECK_MASK) ∧
            (∀ a, a / 8 ≠ k / 8 → t.mem.byte a = s.hw.mem.byte a)) ∧
          (j.kind = 1 → t.mem.atomDross k = true ∧ (∀ a, t.mem.byte a = s.hw.mem.byte a) ∧
            t.rd .FLT_DROSS_MADE 0 = satAdd (s.hw.rd .FLT_DROSS_MADE 0) 1)) ∧
        (2 ≤ j.kind → t.mem = s.hw.mem) ∧
        RegsKeptEv [.TST_INJ_CTL, .TST_INJ_DONE, .FLT_DROSS_MADE] s.hw t ∧ t.tiles = s.hw.tiles ∧ t.frames = s.hw.frames))

/-- O6 (R8, R9, R10): While BAR0 is live: a 32-bit read of a _LO register returns its value and arms the capture of its _HI register with the value of the same instant, and a 64-bit read returns both and leaves no capture armed (PAIR_LO_READ).  A 32-bit read of a _HI register returns an armed capture and disarms it, and with none armed the live value (PAIR_HI_READ).  A read of another register returns its value and leaves its RC fields 0 and its other fields as they were (RC_REGISTER_READ).  An access of another size or alignment is answered with zeros, or discarded, counts, and raises event 0x8020 (BAD_BAR0_ACCESS). -/
def Obligations.Bar0Reads : Prop :=
  ∀ s : State, s.hw.bar0Open = true →
    (∀ (off : BitVec 28) (a : RegAt), regAt off.toNat = some a → s.hw.level ≠ 0 ∨ bareOffset off.toNat = true →
      off.toNat < 0xF0_0000 ∨ tileWindow ≤ off.toNat →
      (∀ hi, a.reg.hiOf = some hi →
        Completes (.pairLoRead off false) s (fun t =>
          Replied t (toBytes 4 (s.hw.regValue s.fuses a.reg (s.hw.unitFor a))) ∧
          Sparse.find? t.host.armed (a.pair hi) = some (BitVec.ofNat 32 (s.hw.regValue s.fuses hi (s.hw.unitFor a))) ∧
          (∀ k, k ≠ a.pair hi → Sparse.find? t.host.armed k = Sparse.find? s.hw.host.armed k) ∧
          t = { s.hw with host := { s.hw.host with armed := t.host.armed, resp := t.host.resp } }) ∧
        Completes (.pairLoRead off true) s (fun t =>
          Replied t (toBytes 8 (s.hw.regValue s.fuses a.reg (s.hw.unitFor a) + s.hw.regValue s.fuses hi (s.hw.unitFor a) * 2 ^ 32)) ∧
          Sparse.find? t.host.armed (a.pair hi) = none ∧
          t = { s.hw with host := { s.hw.host with armed := t.host.armed, resp := t.host.resp } })) ∧
      (a.reg.hiOf = none →
        (∀ v, Sparse.find? s.hw.host.armed (a.pair a.reg) = some v →
          Completes (.pairHiRead off) s (fun t =>
            Replied t (toBytes 4 v.toNat) ∧ Sparse.find? t.host.armed (a.pair a.reg) = none ∧
            t = { s.hw with host := { s.hw.host with armed := t.host.armed, resp := t.host.resp } })) ∧
        (Sparse.find? s.hw.host.armed (a.pair a.reg) = none →
          Completes (.pairHiRead off) s (fun t => Replied t (toBytes 4 (s.hw.regValue s.fuses a.reg (s.hw.unitFor a)))) ∧
          Completes (.rcRegisterRead off) s (fun t =>
            Replied t (toBytes 4 (s.hw.regValue s.fuses a.reg (s.hw.unitFor a))) ∧
            (∀ f ∈ a.reg.spec.fields, t.fget ⟨a.reg, f.lo, f.width⟩ (s.hw.unitFor a) =
              if f.acc = Acc.rc then 0 else s.hw.fget ⟨a.reg, f.lo, f.width⟩ (s.hw.unitFor a)) ∧
            RegsKept [a.reg] s.hw t)))) ∧
    (∀ (off : BitVec 28) (size : BitVec 13) (write : Bool), EventRoom s.hw →
      Completes (.badBar0Access off size write) s (fun t =>
        Raises s.hw t 0x8020 off.toNat size.toNat ∧ (write = false → Replied t (List.replicate size.toNat 0)) ∧
        (write = true → t.host.resp = s.hw.host.resp) ∧
        t.rd .HIF_BAD_ACCESS 0 = satAdd (s.hw.rd .HIF_BAD_ACCESS 0) 1 ∧ RegsKeptEv [.HIF_BAD_ACCESS] s.hw t ∧ t.mem = s.hw.mem))

/-- O7 (R9, R10, R415, R462): While BAR0 is live, a 32-bit write that is not poisoned, to a register of which no rule says that a write is ignored or has an effect of its own, sets the RW fields to the written bits and leaves its other fields, every other register and everything else but captures as they were.  A poisoned write sets no register but its counter and raises event 0x8022.  Before BAR0 is live a write changes nothing.  (REGISTER_WRITE) -/
def Obligations.RegisterWrites : Prop :=
  ∀ (s : State) (off : BitVec 28) (v : BitVec 64),
    (∀ a : RegAt, s.hw.bar0Open = true → regAt off.toNat = some a → s.hw.offers off.toNat = true →
      off.toNat < 0xF0_0000 ∨ tileWindow ≤ off.toNat → a.reg ∉ ownWrites →
      Completes (.registerWrite off false v false) s (fun t =>
        (∀ f ∈ a.reg.spec.fields, t.fget ⟨a.reg, f.lo, f.width⟩ (s.hw.unitFor a) =
          if f.acc = Acc.rw then bits v.toNat f.lo f.width else s.hw.fget ⟨a.reg, f.lo, f.width⟩ (s.hw.unitFor a)) ∧
        (∀ u, u ≠ s.hw.unitFor a → t.rd a.reg u = s.hw.rd a.reg u) ∧ RegsKept [a.reg] s.hw t ∧
        t = { s.hw with regs := t.regs, host := { s.hw.host with armed := t.host.armed } })) ∧
    (s.hw.bar0Open = true → EventRoom s.hw → ∀ wide : Bool,
      Completes (.registerWrite off wide v true) s (fun t =>
        Raises s.hw t 0x8022 off.toNat 0 ∧ t.host.aerPoison = true ∧
        t.rd .HIF_POISON_RX 0 = satAdd (s.hw.rd .HIF_POISON_RX 0) 1 ∧ RegsKeptEv [.HIF_POISON_RX] s.hw t ∧ t.mem = s.hw.mem)) ∧
    (s.hw.bar0Open = false → ∀ wide poisoned : Bool, exec (.registerWrite off wide v poisoned) s = .next s)

/-- O8 (R405, R406, R407, R408, R410, R470): Training begins at 30 ms or with PERST# (PCIE_TRAINING_START).  The link comes up at a speed and width, with FLIT mode always at 64 GT/s, and a change of either raises event 0x8001 (PCIE_LINK_TRAINED).  A configuration request is answered with Retry Status before BAR0 is live; afterwards a read of the identifiers answers 1DF8h and 0320h and a write of BAR4's Resizable BAR size sets it (CONFIG_REQUEST). -/
def Obligations.HostLink : Prop :=
  ∀ s : State,
    (s.hw.boot.phase ∉ [Phase.off, .sequencing, .reset, .stopped] → Completes .pcieTrainingStart s (fun t =>
      t.host.training = true ∧ t.boot.perst = false ∧ 30 ≤ t.millis ∧ RegsKept [] s.hw t ∧ t.mem = s.hw.mem)) ∧
    (∀ (speed : BitVec 3) (width : BitVec 5) (flit : Bool), s.hw.host.training = true →
      Completes (.pcieLinkTrained speed width flit) s (fun t =>
        t.host.linkUp = true ∧ t.host.lastLink = (speed.toNat, width.toNat) ∧
        bits (t.rd .HIF_LINK 0).toNat 0 3 = speed.toNat ∧ bits (t.rd .HIF_LINK 0).toNat 3 5 = width.toNat ∧
        bit (t.rd .HIF_LINK 0).toNat 8 = (flit || speed == 6) ∧ RegsKeptEv [.HIF_LINK] s.hw t ∧
        (s.hw.host.lastLink ≠ (0, 0) → s.hw.host.lastLink ≠ (speed.toNat, width.toNat) → EventRoom s.hw →
          Raises s.hw t 0x8001 speed.toNat width.toNat) ∧
        (s.hw.host.lastLink = (0, 0) → t.host.waiting = s.hw.host.waiting))) ∧
    (∀ (write : Bool) (d : BitVec 10) (v : BitVec 32), s.hw.host.linkUp = true → s.hw.bar0Open = false →
      Completes (.configRequest write d v) s (fun t => Replied t [] false 2 ∧
        t = { s.hw with host := { s.hw.host with resp := t.host.resp } })) ∧
    (∀ v : BitVec 32, s.hw.host.linkUp = true → s.hw.bar0Open = true →
      Completes (.configRequest false 0 v) s (fun t => Replied t [0xF8, 0x1D, 0x20, 0x03] ∧
        t = { s.hw with host := { s.hw.host with resp := t.host.resp } }) ∧
      (32 ≤ bits v.toNat 8 6 + 20 → bits v.toNat 8 6 + 20 ≤ 39 → Completes (.configRequest true 88 v) s (fun t =>
        t.bar4Size = 2 ^ (bits v.toNat 8 6 + 20) ∧ Replied t [] ∧ RegsKept [.HIF_BAR4_SIZE] s.hw t)))

/-- O9 (R416, R417, R418, R419, R420, R424): With the ring enabled, room in it and Bus Master Enable set, the oldest waiting event is written to host memory at its slot, byte for byte, and PROD moves on; after dropped events the record is followed by event 0x8010 with their number (EVENT_RECORD_WRITE).  A vector's message that falls due is a write of its table data to its table address, or, where it is masked, sets its pending bit (MSIX_MESSAGE). -/
def Obligations.EventDelivery : Prop :=
  ∀ s : State,
    (∀ e rest, s.hw.host.waiting = e :: rest → s.hw.flag F.HIF_EVT_CTL_EN = true → s.hw.busMaster = true → s.hw.ringRoom = true →
      Completes .eventRecordWrite s (fun t =>
        (∀ i < 32, Sparse.find? t.host.mem (s.hw.rd64 .HIF_EVT_BASE_LO .HIF_EVT_BASE_HI +
            32 * (s.hw.fget F.HIF_EVT_PROD_COUNT % 2 ^ s.hw.fget F.HIF_EVT_CTL_LOG2) + i) =
          (e.toBytes (s.hw.fget F.HIF_EVT_PROD_COUNT)
            (1 - s.hw.fget F.HIF_EVT_PROD_COUNT / 2 ^ s.hw.fget F.HIF_EVT_CTL_LOG2 % 2) (s.hw.host.dropped != 0))[i]?) ∧
        t.fget F.HIF_EVT_PROD_COUNT = (s.hw.fget F.HIF_EVT_PROD_COUNT + 1) % 2 ^ 32 ∧ (rest.length < 256 → t.host.dropped = 0) ∧
        (s.hw.host.dropped = 0 → t.host.waiting = rest ∧ RegsKept [.HIF_EVT_PROD] s.hw t) ∧
        (s.hw.host.dropped ≠ 0 → rest.length < 256 → ∃ e' : EventRec, e'.code = 0x8010 ∧
          e'.arg0 = s.hw.host.dropped % 2 ^ 32 ∧ t.host.waiting = rest ++ [e']))) ∧
    (∀ v : BitVec 11, s.hw.msixDue v.toNat = true → s.hw.msixOn = true → s.hw.busMaster = true →
      Completes (.msixMessage v) s (fun t =>
        Sparse.find? t.host.pendingMsgs v.toNat = none ∧ RegsKept [] s.hw t ∧
        (s.hw.msixMasked v.toNat = true → Sparse.find? t.host.pba v.toNat = some 1 ∧ t.host.mem = s.hw.host.mem) ∧
        (s.hw.msixMasked v.toNat = false →
          Sparse.get 0 t.host.sentMsgs v.toNat = Sparse.get 0 s.hw.host.sentMsgs v.toNat + 1 ∧
          ∀ i < 4, Sparse.find? t.host.mem (s.hw.msixDword (4 * v.toNat) + s.hw.msixDword (4 * v.toNat + 1) * 2 ^ 32 + i) =
            (toBytes 4 (s.hw.msixDword (4 * v.toNat + 2)))[i]?)))

/-- O10 (R309, R411, R412, R413, R414, R445): In WARM or FULL service, of bytes that are mapped and that nothing guards: a read answers the bytes the memory holds, poisoned where an atom of them is dross (BAR4_READ); a write stores its bytes and changes no other (BAR4_WRITE); an AtomicOp of 4 or 8 aligned bytes of GDDR7 whose word is neither uncorrectable nor dross answers the old value and stores the new one (BAR4_ATOMIC).  In BARE service BAR4 leads to the staging area: a write that the lock does not meet stores its bytes at their offsets and changes no other, and a read answers the bytes that are there.  A read or an AtomicOp that reaches past the end of BAR4 is answered as an Unsupported Request and changes nothing else, and such a write changes nothing. -/
def Obligations.Bar4Access : Prop :=
  (∀ (s : State) (off : BitVec 40) (a k n : Nat), s.hw.bar0Open = true → s.hw.level ≠ 0 → off.toNat + n ≤ s.hw.bar4Size →
    (∀ i < n, s.hw.bar4At (off.toNat + i) = .dev (a + i)) → LeadsTo s.hw a k n →
    (∀ len : BitVec 13, len.toNat = n → Completes (.bar4Read off len) s (fun t =>
      ∃ d p, Replied t d p ∧ d.length = n ∧ (s.hw.mem.syn = [] → p = false ∧ t.mem = s.hw.mem) ∧
        (∀ i < n, t.mem.atomDross (k + i) = false → d[i]? = some (s.hw.mem.goodByte (k + i))) ∧
        (∀ i < n, s.hw.mem.atomDross (k + i) = true → p = true))) ∧
    (∀ data : List Byte, data.length = n → Unguarded s.hw a k n → Completes (.bar4Write off data false) s (fun t =>
      Stored s.hw t k data ∧ (s.hw.mem.syn = [] → RegsKept [] s.hw t ∧ t.mem.syn = []))) ∧
    (∀ (op : Fin 3) (l : Fin 5) (x y : BitVec 64), n = 2 ^ l.val → l.val = 2 ∨ l.val = 3 → off.toNat % n = 0 → a % n = 0 → k = a →
      a < storeBase → Unguarded s.hw a k n → s.hw.mem.syndrome (k / 8) ≠ .dross → s.hw.mem.syndrome (k / 8) ≠ .uncorrectable →
      Completes (.bar4Atomic off op l x y) s (fun t =>
        let old := (List.range n).map (fun i => s.hw.mem.goodByte (k + i))
        Replied t old ∧ Stored s.hw t k (toBytes n (match op with
          | 0 => (ofBytes old + x.toNat) % 2 ^ (8 * n)
          | 1 => x.toNat % 2 ^ (8 * n)
          | _ => if ofBytes old = x.toNat % 2 ^ (8 * n) then y.toNat % 2 ^ (8 * n) else ofBytes old))))) ∧
  -- in BARE service
  (∀ (s : State) (off : BitVec 40) (n : Nat), s.hw.bar0Open = true → s.hw.level = 0 → s.hw.mu.stagingCh.isSome = true →
    off.toNat + n ≤ s.hw.bar4Size → off.toNat + n ≤ 0x101_0000 →
    (∀ data : List Byte, data.length = n → (∀ i < n, s.hw.lockedAt (off.toNat + i) = false) →
      Completes (.bar4Write off data false) s (fun t =>
        Stored s.hw t off.toNat data ∧ (s.hw.mem.syn = [] → RegsKept [] s.hw t))) ∧
    (∀ len : BitVec 13, len.toNat = n → Completes (.bar4Read off len) s (fun t =>
      ∃ d p, Replied t d p ∧ d.length = n ∧
        (∀ i < n, t.mem.atomDross (off.toNat + i) = false → d[i]? = some (s.hw.mem.goodByte (off.toNat + i)))))) ∧
  -- past the aperture
  ∀ (s : State) (off : BitVec 40), s.hw.bar0Open = true →
    (∀ len : BitVec 13, s.hw.bar4Size < off.toNat + len.toNat → Completes (.bar4Read off len) s (fun t =>
      Replied t [] false 1 ∧ t = { s.hw with host := { s.hw.host with resp := t.host.resp } })) ∧
    (∀ (op : Fin 3) (l : Fin 5) (x y : BitVec 64), s.hw.bar4Size < off.toNat + 2 ^ l.val → Completes (.bar4Atomic off op l x y) s (fun t =>
      Replied t [] false 1 ∧ t = { s.hw with host := { s.hw.host with resp := t.host.resp } })) ∧
    (∀ data p, s.hw.bar4Size < off.toNat + data.length → exec (.bar4Write off data p) s = .next s)

/-- O11 (R421, R422, R423): A queue that is enabled, not halted, with a posted descriptor and none in progress takes it up, or halts at it with its reason and event 0x8031 (COPY_DESCRIPTOR_START).  When the data of a copy to the module has come it is in memory, and when that of a copy to the host has gone it is in host memory; the head moves past the descriptor, and NOTIFY raises event 0x8030 (COPY_DESCRIPTOR_COMPLETE).  RESUME ends a halt and moves the head past the failed descriptor (COPY_RESUME). -/
def Obligations.CopyQueues : Prop :=
  ∀ (s : State) (q : Fin 4),
    (∀ (d : BitVec 256) (ok : Bool), s.hw.copyLive q = true → s.hw.fget F.HIF_COPY_HEAD_COUNT q ≠ s.hw.fget F.HIF_COPY_TAIL_COUNT q →
      Sparse.find? s.hw.host.copies q = none →
      (ok = true → s.hw.copyFail d = 0 → Completes (.copyDescriptorStart q d ok) s (fun t =>
        Sparse.find? t.host.copies q = some (copyJobOf d) ∧ t = { s.hw with host := { s.hw.host with copies := t.host.copies } })) ∧
      (∀ r, r = (if ok then s.hw.copyFail d else 3) → r ≠ 0 → EventRoom s.hw → Completes (.copyDescriptorStart q d ok) s (fun t =>
        t.flag F.HIF_COPY_CTL_HALTED q = true ∧ t.fget F.HIF_COPY_CTL_REASON q = r ∧
        Raises s.hw t 0x8031 q (pack2 (if ok then bits d.toNat 192 16 else 0) r) ∧ RegsKeptEv [.HIF_COPY_CTL] s.hw t ∧
        t.mem = s.hw.mem))) ∧
    (∀ (j : CopyJob) (data : List Byte) (k : Nat), s.hw.copyLive q = true → s.hw.level ≠ 0 → Sparse.find? s.hw.host.copies q = some j →
      s.hw.copyMapped j.dev j.len = true → LeadsTo s.hw j.dev k j.len → selScope j.setsel ≠ 2 → s.hw.mem.syn = [] → EventRoom s.hw →
      (j.toHost = true → Completes (.copyDescriptorComplete q data true) s (fun t =>
        (∀ i < j.len, Sparse.find? t.host.mem (j.host + i) = some (s.hw.mem.byte (k + i))) ∧ t.mem = s.hw.mem ∧
        t.fget F.HIF_COPY_HEAD_COUNT q = (s.hw.fget F.HIF_COPY_HEAD_COUNT q + 1) % 2 ^ 32 ∧ Sparse.find? t.host.copies q = none ∧
        (j.notify = true → Raises s.hw t 0x8030 q j.tag) ∧ (j.notify = false → RegsKept [.HIF_COPY_HEAD] s.hw t))) ∧
      (j.toHost = false → data.length = j.len → Unguarded s.hw j.dev k j.len → Completes (.copyDescriptorComplete q data true) s (fun t =>
        Stored s.hw t k data ∧ t.fget F.HIF_COPY_HEAD_COUNT q = (s.hw.fget F.HIF_COPY_HEAD_COUNT q + 1) % 2 ^ 32 ∧
        Sparse.find? t.host.copies q = none ∧ (j.notify = true → Raises s.hw t 0x8030 q j.tag) ∧
        (j.notify = false → RegsKept [.HIF_COPY_HEAD] s.hw t)))) ∧
    (∀ (j : CopyJob) (data : List Byte), s.hw.copyLive q = true → Sparse.find? s.hw.host.copies q = some j →
      s.hw.copyMapped j.dev j.len = true → j.toHost = true ∨ data.length = j.len → Completes (.copyDescriptorComplete q data true) s (fun t =>
        t.fget F.HIF_COPY_HEAD_COUNT q = (s.hw.fget F.HIF_COPY_HEAD_COUNT q + 1) % 2 ^ 32 ∧ Sparse.find? t.host.copies q = none)) ∧
    (s.hw.bar0Open = true → s.hw.fget F.HIF_COPY_SEL_QUEUE = q → s.hw.flag F.HIF_COPY_CTL_HALTED q = true →
      Completes .copyResume s (fun t =>
        t.flag F.HIF_COPY_CTL_HALTED q = false ∧ t.fget F.HIF_COPY_CTL_REASON q = 0 ∧ Sparse.find? t.host.copies q = none ∧
        t.fget F.HIF_COPY_HEAD_COUNT q = (s.hw.fget F.HIF_COPY_HEAD_COUNT q + 1) % 2 ^ 32 ∧
        RegsKept [.HIF_COPY_CTL, .HIF_COPY_HEAD] s.hw t ∧ t.mem = s.hw.mem))

/-- O12 (R425, R426): A host reset of any cause returns every register that the host sets up for itself to its reset value, forgets the streams, copies, captures and MSI-X state, and keeps every other register, the memory, the events that wait, and what the host's own memory holds (HOST_RESET).  When the link is up again event 0x8002 reports the cause (HOST_RESET_DONE). -/
def Obligations.HostResets : Prop :=
  ∀ s : State,
    (∀ c : Fin 4, s.hw.boot.phase ≠ .off → s.hw.boot.phase ≠ .stopped → Completes (.hostReset c) s (fun t =>
      (∀ r u, hostResetReg r = true → t.rd r u = r.resetAt u) ∧ (∀ r u, hostResetReg r = false → t.rd r u = s.hw.rd r u) ∧
      t.streams = [] ∧ t.host.copies = [] ∧ t.host.armed = [] ∧ t.host.msix = [] ∧ t.host.resetCause = some c.val ∧
      t.host.linkUp = (s.hw.host.linkUp && c == 3) ∧ t.host.training = (s.hw.host.training && c != 0) ∧
      t.mem = s.hw.mem ∧ t.host.waiting = s.hw.host.waiting ∧ t.host.mem = s.hw.host.mem ∧ t.jobs = s.hw.jobs ∧ t.layers = s.hw.layers)) ∧
    (∀ c, s.hw.host.resetCause = some c → s.hw.host.linkUp = true → EventRoom s.hw → Completes .hostResetDone s (fun t =>
      t.host.resetCause = none ∧ Raises s.hw t 0x8002 c 0 ∧ RegsKeptEv [] s.hw t))

/-- O13 (R229, R230, R231, R232, R235, R415): A record written to window slot i goes to the ring slot i beyond TAIL, or, where the ring has no room for it, nowhere and its slot is marked discarded; a poisoned write stores nothing and raises event 0x8022 (STREAM_WINDOW_WRITE).  A tie-off record that passes its checks moves TAIL on by COUNT and SEQ by one; one that fails a check counts, moves neither and raises that check's event; both forget what was written (TIE_OFF_RECORD).  A shadow that is due is the four words of the stream at SHADOW_ADDR (DEPTH_SHADOW_WRITE). -/
def Obligations.StreamWindows : Prop :=
  ∀ (s : State) (n : BitVec 16),
    (∀ (i : Nat) (data : List Byte) (k : Nat), s.hw.regsLive = true → i < 64 → data.length = 64 →
      (i < 4096 - s.hw.depth n.toNat → LeadsTo s.hw (s.hw.ringAddr n.toNat (s.hw.tail n.toNat + i)) k 64 →
        Unguarded s.hw (s.hw.ringAddr n.toNat (s.hw.tail n.toNat + i)) k 64 →
        Completes (.streamWindowWrite n (BitVec.ofNat 14 (64 * i)) data false) s (fun t =>
          Stored s.hw t k data ∧ (t.getStream n.toNat).written = (s.hw.getStream n.toNat).written ||| BitVec.ofNat 64 (2 ^ i) ∧
          (t.getStream n.toNat).discarded = (s.hw.getStream n.toNat).discarded ∧ (s.hw.mem.syn = [] → RegsKept [] s.hw t))) ∧
      (4096 - s.hw.depth n.toNat ≤ i → Completes (.streamWindowWrite n (BitVec.ofNat 14 (64 * i)) data false) s (fun t =>
          (t.getStream n.toNat).discarded = (s.hw.getStream n.toNat).discarded ||| BitVec.ofNat 64 (2 ^ i) ∧
          (t.getStream n.toNat).written = (s.hw.getStream n.toNat).written ∧ t = { s.hw with streams := t.streams }))) ∧
    (∀ (off : BitVec 14) (data : List Byte), s.hw.boot.phase = .live → EventRoom s.hw →
      Completes (.streamWindowWrite n off data true) s (fun t => Raises s.hw t 0x8022 (n.toNat * 0x4000 + off.toNat) 2 ∧
        RegsKeptEv [.HIF_POISON_RX] s.hw t ∧ t.mem = s.hw.mem ∧ t.streams = s.hw.streams)) ∧
    (∀ r : Record64, s.hw.regsLive = true →
      (s.hw.tieOffCheck n.toNat r = none → Completes (.tieOffRecord n r) s (fun t =>
        t.tail n.toNat = (s.hw.tail n.toNat + bits r.toNat 0 7) % 2 ^ 32 ∧
        t.fget F.STRM_SEQ_NEXT n.toNat = (bits r.toNat 32 32 + 1) % 2 ^ 32 ∧
        (t.getStream n.toNat).written = 0 ∧ (t.getStream n.toNat).discarded = 0 ∧ t.mem = s.hw.mem ∧
        ((s.hw.getStream n.toNat).debt = 0 → (s.hw.getStream n.toNat).notify = [] →
          RegsKept [.STRM_TAIL, .STRM_SEQ] s.hw t ∧ t.host.waiting = s.hw.host.waiting ∧
          (bit r.toNat 7 = true → (t.getStream n.toNat).notify = [(t.tail n.toNat, bits r.toNat 32 32)])))) ∧
      (∀ code, s.hw.tieOffCheck n.toNat r = some code → EventRoom s.hw → Completes (.tieOffRecord n r) s (fun t =>
        Raises s.hw t code n.toNat (bits r.toNat 32 32) ∧ (t.getStream n.toNat).written = 0 ∧ (t.getStream n.toNat).discarded = 0 ∧
        t.rd .STRM_BOLT_REJ n.toNat = satAdd (s.hw.rd .STRM_BOLT_REJ n.toNat) 1 ∧ RegsKeptEv [.STRM_BOLT_REJ] s.hw t ∧
        t.mem = s.hw.mem))) ∧
    ((s.hw.getStream n.toNat).shadowDue = true → s.hw.flag F.STRM_CTL_ENABLE n.toNat = true → s.hw.flag F.STRM_CTL_SHADOW_EN n.toNat = true →
      s.hw.busMaster = true → Completes (.depthShadowWrite n) s (fun t =>
        (t.getStream n.toNat).shadowDue = false ∧ RegsKept [] s.hw t ∧
        ∀ i < 16, Sparse.find? t.host.mem (s.hw.rd64 .STRM_SHADOW_ADDR_LO .STRM_SHADOW_ADDR_HI n.toNat + i) =
          (toBytes 4 (s.hw.retired n.toNat) ++ toBytes 4 (s.hw.tail n.toNat) ++ toBytes 4 (s.hw.rd .STRM_STATUS_ACC n.toNat).toNat ++
            toBytes 4 (bits (s.hw.rd .STRM_STATE n.toNat).toNat 0 8 + (s.hw.beatNo % 2 ^ 24) * 2 ^ 8))[i]?))

/-- O14 (R236, R262, R518): RESET zeroes the stream's ring counts, sequence, errors, accumulated status and state, forgets its bolts and its remote waits, and stays set exactly while its home frame waits to be zeroed (STREAM_RESET); when that is done RESET clears (STREAM_RESET_ZEROED).  RESUME ends a halt and changes nothing of a stream that is not halted (STREAM_RESUME); STEP ends it until the end of the next bound beat (STREAM_STEP).  A write of the seed is kept at once, and the stream draws from the old seed until its edge (SEED_WRITE). -/
def Obligations.StreamControl : Prop :=
  ∀ s : State,
    (∀ n, s.hw.regsLive = true → n = s.hw.fget F.STRM_SEL_STREAM →
      Completes .streamReset s (fun t =>
        (∀ r ∈ [Reg.STRM_TAIL, .STRM_RETIRED, .STRM_SEQ, .STRM_ERR_TAG, .STRM_ERR_COUNT, .STRM_STATUS_ACC], t.rd r n = 0) ∧
        t.flag F.STRM_STATE_HALTED n = false ∧ t.flag F.STRM_STATE_FAULTED n = false ∧ t.fget F.STRM_STATE_CAUSE n = 0 ∧
        (t.getStream n).written = 0 ∧ (t.getStream n).discarded = 0 ∧ (t.getStream n).notify = [] ∧ (t.getStream n).debt = 0 ∧
        t.flag F.STRM_CTL_RESET n = (t.getStream n).resetPending ∧
        (s.hw.fget F.STRM_FRAME_FRAME n = 0xF_FFFF → t.flag F.STRM_CTL_RESET n = false) ∧
        (∀ w ∈ t.latches.waits, w.stream ≠ n) ∧ t.mem = s.hw.mem ∧ t.host = s.hw.host ∧
        RegsKept [.STRM_TAIL, .STRM_RETIRED, .STRM_SEQ, .STRM_ERR_TAG, .STRM_ERR_COUNT, .STRM_STATUS_ACC, .STRM_STATE, .STRM_CTL] s.hw t) ∧
      (s.hw.flag F.STRM_STATE_HALTED n = true → Completes .streamResume s (fun t =>
        t.flag F.STRM_STATE_HALTED n = false ∧ (t.getStream n).suppress = true ∧ (t.getStream n).step = false ∧
        RegsKept [.STRM_STATE] s.hw t ∧ t = { s.hw with regs := t.regs, streams := t.streams })) ∧
      (s.hw.flag F.STRM_STATE_HALTED n = false → Completes .streamResume s (fun t => t = s.hw)) ∧
      Completes .streamStep s (fun t =>
        t.flag F.STRM_STATE_HALTED n = false ∧ (t.getStream n).step = true ∧
        (t.getStream n).stepBound = s.hw.flag F.STRM_STATE_BOUND n ∧
        RegsKept [.STRM_STATE] s.hw t ∧ t = { s.hw with regs := t.regs, streams := t.streams }) ∧
      (∀ v : BitVec 64,
        Completes (.seedWrite false true v) s (fun t => t.rd64 .STRM_SEED_LO .STRM_SEED_HI n = v.toNat ∧ t.seedOf n = s.hw.seedOf n ∧
          (t.getStream n).seedPending = true ∧ RegsKept [.STRM_SEED_LO, .STRM_SEED_HI] s.hw t) ∧
        Completes (.seedWrite true false v) s (fun t => t.rd .STRM_SEED_HI n = BitVec.ofNat 32 v.toNat ∧ t.seedOf n = s.hw.seedOf n ∧
          (t.getStream n).seedPending = true ∧ RegsKept [.STRM_SEED_HI] s.hw t) ∧
        Completes (.seedWrite false false v) s (fun t => t.rd .STRM_SEED_LO n = BitVec.ofNat 32 v.toNat ∧ t.seedOf n = s.hw.seedOf n ∧
          (t.getStream n).seedPending = true ∧ RegsKept [.STRM_SEED_LO] s.hw t))) ∧
    (∀ n : BitVec 16, (s.hw.getStream n.toNat).resetPending = true → Completes (.streamResetZeroed n) s (fun t =>
      t.flag F.STRM_CTL_RESET n.toNat = false ∧ (t.getStream n.toNat).resetPending = false ∧ RegsKept [.STRM_CTL] s.hw t ∧ t.mem = s.hw.mem))

/-- O15 (R251, R252, R254, R361): A set of the host acts on the selected latch (GLATCH_SET), an operation that reaches the latch unit on its latch (GLOBAL_LATCH_ARRIVE), and a received record on the latch it names (LATCH_MESSAGE), and so does a clear (GLATCH_CLEAR and the same two) unless a set reaches the latch in the same cycle, which wins; each changes no other latch and no register.  A query is answered with the latch's state on the route to its sender and watched from then on (LATCH_QUERY), and an answer that shows the awaited value satisfies every wait with its tag, for good (LATCH_STATE). -/
def Obligations.GlobalLatches : Prop :=
  ∀ s : State,
    (∀ b : Bool, s.hw.regsLive = true → b = true ∨ NoSetNow s.hw (s.hw.fget F.STRM_GLATCH_SEL_LATCH) →
      Completes (if b then .glatchSet else .glatchClear) s (fun t =>
        (∀ m, t.glatch m = if m = s.hw.fget F.STRM_GLATCH_SEL_LATCH then b else s.hw.glatch m) ∧ RegsKept [] s.hw t ∧ t.mem = s.hw.mem)) ∧
    (s.hw.regsLive = true → SetNow s.hw (s.hw.fget F.STRM_GLATCH_SEL_LATCH) → Completes .glatchClear s (fun t => t = s.hw)) ∧
    (∀ (i : BitVec 16) (o : LatchOp), s.hw.latches.ops[i.toNat]? = some o →
      (o.clear = false ∨ NoSetNow s.hw o.latch → Completes (.globalLatchArrive i) s (fun t =>
        (∀ m, t.glatch m = if m = o.latch then !o.clear else s.hw.glatch m) ∧ t.latches.ops = s.hw.latches.ops.eraseIdx i.toNat ∧
        RegsKept [] s.hw t ∧ t.mem = s.hw.mem)) ∧
      (o.clear = true → SetNow s.hw o.latch → Completes (.globalLatchArrive i) s (fun t =>
        (∀ m, t.glatch m = s.hw.glatch m) ∧ t.latches.ops = s.hw.latches.ops.eraseIdx i.toNat ∧ RegsKept [] s.hw t ∧ t.mem = s.hw.mem))) ∧
    (∀ (l : Fin 64) (src latch job : BitVec 12) (clear : Bool) (h : BitVec 16),
      (clear = false ∨ NoSetNow s.hw latch.toNat → Completes (.latchMessage l src latch clear job h) s (fun t =>
        (∀ m, t.glatch m = if m = latch.toNat then !clear else s.hw.glatch m) ∧ RegsKept [] s.hw t ∧ t.mem = s.hw.mem)) ∧
      (clear = true → SetNow s.hw latch.toNat → Completes (.latchMessage l src latch clear job h) s (fun t =>
        (∀ m, t.glatch m = s.hw.glatch m) ∧ RegsKept [] s.hw t ∧ t.mem = s.hw.mem)) ∧
      Completes (.latchQuery l src latch job h) s (fun t =>
        { far := src.toNat, latch := latch.toNat, tag := h.toNat } ∈ t.latches.watchers ∧
        (∀ l', s.hw.routeOf src.toNat 0 0 = some l' → (t.getLink l').records = (s.hw.getLink l').records ++
          [ctlRecord 0x04 src.toNat s.hw.me 16 (latchBody latch.toNat (s.hw.glatch latch.toNat) 0 h.toNat)]) ∧
        (∀ m, t.glatch m = s.hw.glatch m) ∧ RegsKept [] s.hw t ∧ t.mem = s.hw.mem) ∧
      ∀ v : Bool, Completes (.latchState l src latch v h) s (fun t =>
        (∀ w ∈ s.hw.latches.waits, (w.far = src.toNat ∧ w.latch = latch.toNat ∧ w.tag = h.toNat →
          { w with shown := w.shown || v == w.want } ∈ t.latches.waits) ∧
          (¬ (w.far = src.toNat ∧ w.latch = latch.toNat ∧ w.tag = h.toNat) → w ∈ t.latches.waits)) ∧
        t.latches.waits.length = s.hw.latches.waits.length ∧ RegsKept [] s.hw t ∧ t.mem = s.hw.mem))

/-- O16 (R198, R199, R212, R220, R221, R222): With no operation running and GDDR7 mapped, each operation sets BUSY and shows its OP and ID.  TDESC.CREATE's result is that of its checks, and where they pass the entry is written with V set and counts; TDESC.DESTROY of a valid entry will make it invalid; TDESC.READ puts the entry into STRM.DESC_DATA; REGION.CREATE adds the record where its checks pass; REGION.DESTROY removes a region that no descriptor names; REGION.READ returns the record; a reserved OP completes with FORMAT.  With an operation running, GO raises event 0xC054 and starts nothing. -/
def Obligations.MailboxStarts : Prop :=
  ∀ (s : State) (id : BitVec 20), s.hw.regsLive = true →
    (∀ (c : Instr) (op : Nat), (c, op) ∈ [(Instr.tdescCreate id, 1), (.tdescDestroy id, 2), (.tdescRead id, 3), (.regionCreate id, 4),
        (.regionDestroy id, 5), (.regionRead id, 6), (.mailboxReservedOp true id, 7), (.mailboxReservedOp false id, 0)] →
      (s.hw.mail = none → s.hw.mu.mapped = true → Completes c s (fun t =>
        t.flag F.STRM_DESC_RESULT_BUSY = true ∧ t.flag F.STRM_DESC_OP_GO = true ∧ t.fget F.STRM_DESC_OP_OP = op ∧
        t.fget F.STRM_DESC_OP_ID = id.toNat ∧ t.mail.isSome = true)) ∧
      (s.hw.mail ≠ none → EventRoom s.hw → Completes c s (fun t =>
        Raises s.hw t 0xC054 op id.toNat ∧ RegsKeptEv [] s.hw t ∧ EventsOnly s.hw t))) ∧
    (s.hw.mail = none → s.hw.mu.mapped = true →
      (s.hw.tableCap ≠ 0 →
        Completes (.tdescCreate id) s (fun t =>
          t.mail = some (s.hw.descCheck id.toNat s.hw.mailImage) ∧ t.regions = s.hw.regions ∧
          ((s.hw.descCheck id.toNat s.hw.mailImage).code ≠ 1 → t.mem = s.hw.mem ∧ RegsKept [.STRM_DESC_OP, .STRM_DESC_RESULT] s.hw t) ∧
          (∀ k, (s.hw.descCheck id.toNat s.hw.mailImage).code = 1 → LeadsTo s.hw (s.hw.tableBase + 64 * id.toNat) k 64 →
            (∀ i < 64, s.hw.lockedAt (s.hw.tableBase + 64 * id.toNat + i) = false ∧ s.hw.seedGuard (k + i) = false) →
            Stored s.hw t k (toBytes 64 (s.hw.mailImage.toNat ||| 1)) ∧
            t.fget F.STRM_TDESC_LIVE_COUNT = (s.hw.fget F.STRM_TDESC_LIVE_COUNT + 1) % 2 ^ F.STRM_TDESC_LIVE_COUNT.width)) ∧
        Completes (.tdescDestroy id) s (fun t =>
          t.mail = some (if Desc.valid (s.hw.descEntry id.toNat) then { MailOp.of 1 with destroy := some id.toNat } else MailOp.of 8) ∧
          t.mem = s.hw.mem ∧ RegsKept [.STRM_DESC_OP, .STRM_DESC_RESULT] s.hw t) ∧
        (id.toNat < s.hw.tableCap → Completes (.tdescRead id) s (fun t =>
          t.mail = some (MailOp.of 1) ∧ (∀ i < 16, (t.rd .STRM_DESC_DATA i).toNat = bits (s.hw.descEntry id.toNat).toNat (32 * i) 32) ∧
          t.mem = s.hw.mem))) ∧
      Completes (.regionCreate id) s (fun t =>
        let r : BitVec 128 := BitVec.ofNat 128 s.hw.mailImage.toNat
        let c := s.hw.regionCheck (id.toNat % 4096) r
        (c.1 = 1 → t.mail = some (MailOp.of 1) ∧ Sparse.find? t.regions (id.toNat % 4096) = some r) ∧
        (c.1 ≠ 1 → t.mail = some { MailOp.of c.1 with offset := c.2 } ∧ t.regions = s.hw.regions)) ∧
      (∀ r, Sparse.find? s.hw.regions (id.toNat % 4096) = some r →
        Completes (.regionDestroy id) s (fun t =>
          (s.hw.regionInUse (id.toNat % 4096) = true → t.mail = some (MailOp.of 7) ∧ t.regions = s.hw.regions) ∧
          (s.hw.regionInUse (id.toNat % 4096) = false → t.mail = some (MailOp.of 1) ∧ Sparse.find? t.regions (id.toNat % 4096) = none)) ∧
        Completes (.regionRead id) s (fun t => t.mail = some (MailOp.of 1) ∧
          ∀ i < 4, (t.rd .STRM_DESC_DATA i).toNat = bits r.toNat (32 * i) 32)) ∧
      ∀ b : Bool, Completes (.mailboxReservedOp b id) s (fun t => t.mail = some (MailOp.of 3) ∧ t.regions = s.hw.regions ∧ t.mem = s.hw.mem ∧
        RegsKept [.STRM_DESC_OP, .STRM_DESC_RESULT] s.hw t))

/-- O17 (R221, R222): When the operation that runs ends, BUSY and GO are clear, the result and the offset are shown, and nothing runs; an operation that destroys no entry leaves memory as it was, and one that does counts the entry as no longer live (MAILBOX_DONE). -/
def Obligations.MailboxEnds : Prop :=
  ∀ (s : State) (m : MailOp), s.hw.mail = some m → Completes .mailboxDone s (fun t =>
    t.mail = none ∧ t.flag F.STRM_DESC_RESULT_BUSY = false ∧ t.flag F.STRM_DESC_OP_GO = false ∧
    t.fget F.STRM_DESC_RESULT_CODE = m.code % 2 ^ F.STRM_DESC_RESULT_CODE.width ∧
    t.fget F.STRM_DESC_RESULT_OFFSET = m.offset % 2 ^ F.STRM_DESC_RESULT_OFFSET.width ∧
    (m.destroy = none → t.mem = s.hw.mem ∧
      RegsKept [.STRM_DESC_OP, .STRM_DESC_RESULT, .STRM_DESC_MIN_LO, .STRM_DESC_MIN_HI, .STRM_DESC_MAX_LO, .STRM_DESC_MAX_HI] s.hw t) ∧
    (∀ id, m.destroy = some id → 0 < s.hw.fget F.STRM_TDESC_LIVE_COUNT →
      t.fget F.STRM_TDESC_LIVE_COUNT = s.hw.fget F.STRM_TDESC_LIVE_COUNT - 1))

/-- O18 (R242, R245, R247, R248, R250, R251): A control command that issues completes in the same cycle, and leaves memory as taking in what it names left it.  SETC gives its counter the value of its source and ADDC adds its parameter, and no other counter changes; CMP gives its flag the result of its comparison and changes no other flag; WAIT changes none of these; SET sets every tile latch that its selectors set; YIELD ends the queue's slot; FENCE with nothing outstanding completes, and otherwise stays in flight. -/
def Obligations.ControlCommands : Prop :=
  ∀ (s : State) (k : Fin 512) (q : Fin 4) (h : Head), HomeOn s.hw k h.n →
    (∀ c op, (c, op) ∈ [(Instr.setc k q, 0x70), (.addc k q, 0x71), (.cmp k q, 0x72), (.wait k q, 0x75), (.set k q, 0x76),
        (.yield k q, 0x79)] → Ready s.hw k q op h →
      Completes c s (fun t => Completed t k h ∧ NextInLine s.hw t k q h ∧ MemAsTaken s.hw t k h ∧
        (∀ j, (op = 0x70 ∨ op = 0x71 → j ≠ Com.mode h.w 4 3) → (t.ctxOn k h.n).counter j = h.ctx.counter j) ∧
        (∀ j, (op = 0x72 → j ≠ Com.mode h.w 4 2) → bit (t.ctxOn k h.n).comps.toNat j = bit h.ctx.comps.toNat j) ∧
        (t.ctxOn k h.n).slots = h.ctx.slots ∧ (t.ctxOn k h.n).stack = h.ctx.stack ∧
        (op = 0x79 → (t.getQueue k q).yielded = true))) ∧
    (Ready s.hw k q 0x70 h → Completes (.setc k q) s (fun t => (t.ctxOn k h.n).counter (Com.mode h.w 4 3) =
      match Com.mode h.w 8 3 with
      | 0 => BitVec.ofNat 32 (Com.param h.w 0)
      | 1 => h.ctx.counter (Com.param h.w 0)
      | 2 => (h.ctx.slotOf (Com.param h.w 0)).1
      | 3 => BitVec.ofNat 32 k
      | 4 => BitVec.ofNat 32 s.hw.beatNo
      | _ => h.ctx.issued)) ∧
    (Ready s.hw k q 0x71 h → Completes (.addc k q) s (fun t => (t.ctxOn k h.n).counter (Com.mode h.w 4 3) =
      h.ctx.counter (Com.mode h.w 4 3) + BitVec.ofNat 32 (Com.param h.w 0))) ∧
    (Ready s.hw k q 0x72 h → Completes (.cmp k q) s (fun t =>
      bit (t.ctxOn k h.n).comps.toNat (Com.mode h.w 4 2) = cmpResult h.ctx h.w)) ∧
    (Ready s.hw k q 0x76 h → Completes (.set k q) s (fun t =>
      ∀ x ∈ setSelectors h.w, selScope x = 1 → selClear x = false → bit (t.getTile k).fs.latches.toNat (selLatch x) = true)) ∧
    (Ready s.hw k q 0x7A h → Completes (.fence k q) s (fun t => NextInLine s.hw t k q h ∧ MemAsTaken s.hw t k h ∧
      (h.ctx.flight.all (fun f => f.stage == .completed) = true → Completed t k h) ∧
      (h.ctx.flight.all (fun f => f.stage == .completed) = false →
        ∃ f ∈ (t.ctxOn k h.n).flight, f.num = h.ctx.issued.toNat ∧ f.stage = .running)))

/-- O19 (R248, R509): A MARK that issues completes; with a running trace that takes marks alone, an empty rim buffer and room for the record, the 32 bytes of its record are in memory at the next place of the trace buffer and the count moves on. -/
def Obligations.MarkCommand : Prop :=
  ∀ (s : State) (k : Fin 512) (q : Fin 4) (h : Head) (key : Nat), HomeOn s.hw k h.n → Ready s.hw k q 0x80 h →
    Completes (.mark k q) s (fun t => Completed t k h ∧ NextInLine s.hw t k q h ∧
      (s.hw.flag F.DBG_TRACE_CTL_SRC_MARK = true → s.hw.flag F.DBG_TRACE_CTL_SRC_CMD = false →
        s.hw.flag F.DBG_TRACE_CTL_SRC_EVENT = false → (s.hw.breakpoints h).1 = s.hw → s.hw.flag F.DBG_TRACE_CTL_EN = true →
        s.hw.flag F.DBG_TRACE_CTL_RUNNING = true → s.hw.flag F.DBG_TRACE_CTL_FULL = false → s.hw.test.trace = [] →
        s.hw.fget F.DBG_TRACE_COUNT_COUNT < 2 ^ s.hw.fget F.DBG_TRACE_CTL_LOG2 →
        (∀ a, a = s.hw.rd64 .DBG_TRACE_BASE_LO .DBG_TRACE_BASE_HI % 2 ^ 40 + 32 * s.hw.fget F.DBG_TRACE_COUNT_COUNT →
          a + 32 ≤ s.hw.capacity → LeadsTo s.hw a key 32 → Unguarded s.hw a key 32 →
          Stored s.hw t key (s.hw.traceRec 1 q k h.n (Com.tag h.w) (Com.param64 h.w 0)) ∧
          t.fget F.DBG_TRACE_COUNT_COUNT = (s.hw.fget F.DBG_TRACE_COUNT_COUNT + 1) % 2 ^ 32)))

/-- O20 (R248, R249, R257, R260): A taken BR in the ring skips to OFFSET commands on and one in a routine goes to its target in the slot; one that is not taken goes on to the next command (BR).  LOOP takes one from its counter and goes to its target until the counter is zero (LOOP).  CALL keeps the position that follows it and goes to the first command of its slot, with the RID of the slot, and a CALL that finds four positions kept faults the stream with cause 6 (CALL).  RET goes to the position kept last (RET). -/
def Obligations.ControlFlow : Prop :=
  ∀ (s : State) (k : Fin 512) (q : Fin 4) (h : Head), HomeOn s.hw k h.n →
    (Ready s.hw k q 0x73 h →
      (∀ c, h.ctx.pos = .ring c → Com.param h.w 0 ≠ 0 → Com.param h.w 0 ≤ 4095 → Completes (.br k q) s (fun t => Completed t k h ∧
        (brTaken h.ctx h.w = true → (t.ctxOn k h.n).pos = .ring ((c + Com.param h.w 0) % 2 ^ 32) ∧
          (t.getQueue k q).fetched = (s.hw.getQueue k q).fetched.drop (Com.param h.w 0)) ∧
        (brTaken h.ctx h.w = false → NextInLine s.hw t k q h) ∧ MemAsTaken s.hw t k h)) ∧
      (∀ sl rid i, h.ctx.pos = .slot sl rid i → Completes (.br k q) s (fun t =>
        (brTaken h.ctx h.w = false → Completed t k h ∧ NextInLine s.hw t k q h) ∧
        (∀ j : Nat, brTaken h.ctx h.w = true → (i : Int) + signed 32 (Com.param h.w 0) = j → j ≤ 15 →
          Completed t k h ∧ (t.ctxOn k h.n).pos = .slot sl rid j ∧ (t.getQueue k q).fetched = []) ∧ MemAsTaken s.hw t k h))) ∧
    (∀ sl rid i, h.ctx.pos = .slot sl rid i → Ready s.hw k q 0x74 h → Completes (.loop k q) s (fun t =>
      (t.ctxOn k h.n).counter (Com.mode h.w 4 3) = h.ctx.counter (Com.mode h.w 4 3) - 1 ∧ MemAsTaken s.hw t k h ∧
      (h.ctx.counter (Com.mode h.w 4 3) = 1 → Completed t k h ∧ NextInLine s.hw t k q h) ∧
      (∀ j : Nat, h.ctx.counter (Com.mode h.w 4 3) ≠ 1 → (i : Int) + signed 32 (Com.param h.w 0) = j → j ≤ 15 →
        Completed t k h ∧ (t.ctxOn k h.n).pos = .slot sl rid j))) ∧
    (Ready s.hw k q 0x77 h →
      (h.ctx.stack.length < 4 → Sparse.get 0 (s.hw.getPhys (s.hw.physOf k)).rid (Com.param h.w 0) = Com.param h.w 1 →
        Completes (.call k q) s (fun t => Completed t k h ∧ (t.ctxOn k h.n).stack = h.ctx.pos.next :: h.ctx.stack ∧
          (t.ctxOn k h.n).pos = .slot (Com.param h.w 0) (Com.param h.w 1) 0 ∧ (t.getQueue k q).fetched = [] ∧ MemAsTaken s.hw t k h)) ∧
      (4 ≤ h.ctx.stack.length → Completes (.call k q) s (fun t =>
        t.flag F.STRM_STATE_FAULTED h.n = true ∧ t.fget F.STRM_STATE_CAUSE h.n = 6 ∧ MemAsTaken s.hw t k h))) ∧
    (∀ p rest, h.ctx.stack = p :: rest → Ready s.hw k q 0x78 h →
      (∀ sl rid i, p = .slot sl rid i → Sparse.get 0 (s.hw.getPhys (s.hw.physOf k)).rid sl = rid) →
      Completes (.ret k q) s (fun t => Completed t k h ∧ (t.ctxOn k h.n).stack = rest ∧ (t.ctxOn k h.n).pos = p ∧
        (t.getQueue k q).fetched = [] ∧ MemAsTaken s.hw t k h))

/-- O21 (R62, R243, R244, R245, R247, R248, R345): A command whose status is final and that may complete (its queue's slot runs, and no channel that retrains holds an access of its) completes: none of its number is outstanding afterwards, its status enters STRM.STATUS_ACC, and memory stays (COMMAND_COMPLETE).  SCALAR.LOAD without a source writes its immediate and type into its slot at once, and with one it waits for its completion, which writes the slot (SCALAR.LOAD). -/
def Obligations.CommandsComplete : Prop :=
  ∀ (s : State) (k : Fin 512) (q : Fin 4),
    (∀ (num : BitVec 32) (n : Nat) (f : InFlight) (st : Nat), s.hw.findFlight k q num.toNat = some (n, f) → f.stage = .done st →
      HomeOn s.hw k n → s.hw.mayComplete k n f = true → Com.opcode f.cmd ∉ [0x60, 0x61] → Completes (.commandComplete k q num) s (fun t =>
        (∀ g ∈ (t.ctxOn k n).flight, g.num = f.num → g.stage = .completed) ∧ t.mem = s.hw.mem ∧
        (statusCode st ≠ 0 → statusCode st ≤ 9 → bit (t.fget F.STRM_STATUS_ACC_CODES n) (statusCode st - 1) = true) ∧
        (statusCode st = 0 → t.fget F.STRM_STATUS_ACC_CODES n = s.hw.fget F.STRM_STATUS_ACC_CODES n) ∧
        (Com.opcode f.cmd = 0x7B → statusCode st = 0 →
          (t.ctxOn k n).slotOf (Com.param f.cmd 0 % 16) = (BitVec.ofNat 32 f.latched, bit f.latched 32)))) ∧
    (∀ h : Head, HomeOn s.hw k h.n → Ready s.hw k q 0x7B h →
      (refKind (Com.op h.w 0) = 0 → Completes (.scalarLoad k q) s (fun t => Completed t k h ∧ NextInLine s.hw t k q h ∧
        (t.ctxOn k h.n).slotOf (Com.param h.w 0) = (BitVec.ofNat 32 (Com.param h.w 1), !Com.modeBit h.w 4) ∧
        (∀ j, j ≠ Com.param h.w 0 → (t.ctxOn k h.n).slotOf j = h.ctx.slotOf j) ∧ MemAsTaken s.hw t k h)) ∧
      (refKind (Com.op h.w 0) = 1 → s.hw.mem.syn = [] → s.hw.mu.offline = [] → Completes (.scalarLoad k q) s (fun t =>
        (∃ st, Issued t k h st) ∧ NextInLine s.hw t k q h ∧ (t.ctxOn k h.n).slots = h.ctx.slots ∧ t.mem = s.hw.mem)))

/-- O22 (R242, R255, R256, R257, R260): A fetch that returns for an empty queue whose stream is in its ring brings the ring's commands up to TAIL, at most 256; one inside a routine brings the rest of the slot's commands, and one whose slot holds another RID faults the stream with cause 5 (QUEUE_FETCH_RETURN).  A deadlock faults the stream of every queue it names and raises event 0xB010 (DEADLOCK_DETECTED).  The watchdog of a stream that has waited its limit raises event 0xB011, and with WDOG_FAULT faults the stream (WAIT_WATCHDOG_EXPIRED). -/
def Obligations.QueueWatch : Prop :=
  ∀ s : State,
    (∀ (k : Fin 512) (q : Fin 4) (n : Nat), n = (s.hw.getQueue k q).bind.stream → (s.hw.getQueue k q).bound = true →
      s.hw.mayIssue n = true → (s.hw.getQueue k q).fetched = [] →
      (∀ c avail, (s.hw.ctxOn k n).pos = .ring c → c < 2 ^ 32 → avail = (s.hw.tail n + 2 ^ 32 - c) % 2 ^ 32 → avail ≤ 4096 →
        (∀ i < avail, s.hw.ringAddr n (c + i) + 64 ≤ s.hw.capacity) → s.hw.mem.syn = [] → s.hw.mu.offline = [] →
        Completes (.queueFetchReturn k q) s (fun t =>
          (t.getQueue k q).fetched = (List.range (min avail 256)).map (fun i =>
            BitVec.ofNat 512 (ofBytes (s.hw.peekRun (s.hw.ringAddr n (c + i)) 64))) ∧ t.mem = s.hw.mem ∧ RegsKept [] s.hw t)) ∧
      (∀ sl rid i, (s.hw.ctxOn k n).pos = .slot sl rid i →
        (Sparse.get 0 (s.hw.getPhys (s.hw.physOf k)).rid sl = rid → i < 16 → (s.hw.getPhys (s.hw.physOf k)).rtnDross = [] → Completes (.queueFetchReturn k q) s (fun t =>
          (t.getQueue k q).fetched = ((List.range 16).filter (fun j => i ≤ j)).map ((s.hw.getPhys (s.hw.physOf k)).rtnWord sl) ∧
          t.mem = s.hw.mem ∧ RegsKept [] s.hw t)) ∧
        (Sparse.get 0 (s.hw.getPhys (s.hw.physOf k)).rid sl ≠ rid → EventRoom s.hw → Completes (.queueFetchReturn k q) s (fun t =>
          t.flag F.STRM_STATE_FAULTED n = true ∧ t.fget F.STRM_STATE_CAUSE n = 5 ∧
          Raises s.hw t 0xB043 n (pack2 sl (Sparse.get 0 (s.hw.getPhys (s.hw.physOf k)).rid sl)))))) ∧
    (∀ k : Fin 512, s.hw.deadlockMask k ≠ 0 → EventRoom s.hw → Completes (.deadlockDetected k) s (fun t =>
      Raises s.hw t 0xB010 k (s.hw.deadlockMask k) ∧ t.rd .STRM_DEADLOCKS 0 = satAdd (s.hw.rd .STRM_DEADLOCKS 0) 1 ∧
      (∀ q < 4, bit (s.hw.deadlockMask k) q = true → t.flag F.STRM_STATE_FAULTED (s.hw.getQueue k q).bind.stream = true) ∧
      t.mem = s.hw.mem)) ∧
    (∀ (n : BitVec 16) (x : Nat), s.hw.watchedSel n.toNat = some x → s.hw.fget F.STRM_WAIT_LIMIT_BEATS ≠ 0 →
      s.hw.fget F.STRM_WAIT_LIMIT_BEATS ≤ (s.hw.getStream n.toNat).waitBeats → EventRoom s.hw →
      Completes (.waitWatchdogExpired n) s (fun t => Raises s.hw t 0xB011 n.toNat x ∧ t.mem = s.hw.mem ∧
        (s.hw.flag F.STRM_CTL_WDOG_FAULT n.toNat = true → t.flag F.STRM_STATE_FAULTED n.toNat = true) ∧
        (s.hw.flag F.STRM_CTL_WDOG_FAULT n.toNat = false → (t.getStream n.toNat).waitBeats = 0 ∧ RegsKeptEv [] s.hw t)))

/-- O23 (R257, R258, R259): A load through the tile's registers is outstanding on the tile with GO set and its result cleared (ROUTINE_LOAD); a broadcast is outstanding on every admitted tile (ROUTINE_BCAST_LOAD).  An image that arrives for a slot that no queue is inside is in the slot, command by command, with its RID, counts a generation and raises event 0xB040; one for a slot that a queue is inside is held (ROUTINE_IMAGE_ARRIVED). -/
def Obligations.RoutineLoads : Prop :=
  ∀ s : State,
    (∀ k : Fin 512, s.hw.regsLive = true → s.hw.flag F.TILE_RTN_LOAD_CTL_GO k = false → Completes (.routineLoad k) s (fun t =>
      t.flag F.TILE_RTN_LOAD_CTL_GO k = true ∧ t.fget F.TILE_RTN_LOAD_CTL_RESULT k = 0 ∧
      (t.getPhys (s.hw.physOf k)).loads = (s.hw.getPhys (s.hw.physOf k)).loads ++
        [{ slot := s.hw.fget F.TILE_RTN_LOAD_SLOT_SLOT k, rid := s.hw.fget F.TILE_RTN_LOAD_SLOT_RID k,
           src := s.hw.rd64 .TILE_RTN_LOAD_SRC_LO .TILE_RTN_LOAD_SRC_HI k % 2 ^ 40, bcast := false, words := [], dross := [] }] ∧
      RegsKept [.TILE_RTN_LOAD_CTL] s.hw t ∧ t.mem = s.hw.mem)) ∧
    (s.hw.regsLive = true → s.hw.flag F.STRM_RTN_BCAST_CTL_GO = false → (∃ k < 512, s.hw.admitted k = true) →
      Completes .routineBcastLoad s (fun t =>
        t.flag F.STRM_RTN_BCAST_CTL_GO = true ∧ RegsKept [.STRM_RTN_BCAST_CTL] s.hw t ∧ t.mem = s.hw.mem ∧
        ∀ k < 512, s.hw.admitted k = true → ∃ r ∈ (t.getPhys (s.hw.physOf k)).loads, r.bcast = true ∧
          r.slot = s.hw.fget F.STRM_RTN_BCAST_SLOT_SLOT ∧ r.rid = s.hw.fget F.STRM_RTN_BCAST_SLOT_RID)) ∧
    (∀ (k : Fin 512) (i : BitVec 8) (r : RtnLoad), (s.hw.getPhys (s.hw.physOf k)).loads[i.toNat]? = some r →
      r.src + 1024 ≤ s.hw.capacity → s.hw.mem.syn = [] → s.hw.mu.offline = [] →
      (s.hw.inside k r.slot = false → EventRoom s.hw → (∀ x ∈ (s.hw.getPhys (s.hw.physOf k)).held, x.slot ≠ r.slot) →
        Completes (.routineImageArrived k i) s (fun t =>
        Sparse.get 0 (t.getPhys (s.hw.physOf k)).rid r.slot = r.rid ∧
        Sparse.get 0 (t.getPhys (s.hw.physOf k)).gen r.slot = (Sparse.get 0 (s.hw.getPhys (s.hw.physOf k)).gen r.slot + 1) % 2 ^ 16 ∧
        (∀ j < 16, (t.getPhys (s.hw.physOf k)).rtnWord r.slot j = BitVec.ofNat 512 (ofBytes (s.hw.peekRun (r.src + 64 * j) 64))) ∧
        Raises s.hw t 0xB040 k (pack2 r.slot r.rid) ∧ t.mem = s.hw.mem ∧
        (r.bcast = false → t.flag F.TILE_RTN_LOAD_CTL_GO k = false ∧ t.fget F.TILE_RTN_LOAD_CTL_RESULT k = 1))) ∧
      (s.hw.inside k r.slot = true → (s.hw.getPhys (s.hw.physOf k)).held.length < 4 → Completes (.routineImageArrived k i) s (fun t =>
        (∃ x ∈ (t.getPhys (s.hw.physOf k)).held, x.slot = r.slot ∧ x.rid = r.rid) ∧
        (r.bcast = false → t.fget F.TILE_RTN_LOAD_CTL_RESULT k = 2) ∧ t.mem = s.hw.mem)))

/-- O24 (R171, R172, R178, R180, R184, R187, R190, R191): EW, ROW, SMAX, NORM, CAST and SCALE: a command that issues and passes its checks is executed: its entry waits for COMMAND_COMPLETE with the status of its result, memory is what its operation makes of it, and the queue goes on with the next command.  One that fails its own check waits with that check's code, and memory stays as it was. -/
def Obligations.FinisherCommands : Prop :=
  ∀ (s : State) (k : Fin 512) (q : Fin 4) (h : Head) (x : Cmd), HomeOn s.hw k h.n → Clean s.hw → x = s.hw.cmdAt k q h →
    ∀ c op check run, (c, op, check, run) ∈ [(Instr.ew k q, 0x30, ewCheck, Hw.runEw), (.row k q, 0x31, rowCheck, Hw.runRow),
        (.norm k q, 0x32, normCheck, Hw.runNorm), (.smax k q, 0x33, smaxCheck, Hw.runSmax), (.cast k q, 0x34, castCheck, Hw.runCast),
        (.scale k q, 0x35, scaleCheck, Hw.runScale)] → Ready s.hw k q op h → finFormatOk x = true →
      (op ≠ 0x31 → rowLen (x.o 0).writeShape ≤ 262144) →
      (check x = 0 → Completes c s (fun t => Ran s.hw t k q h (run (s.hw.taken k q h) x))) ∧
      (check x ≠ 0 → Completes c s (fun t => Issued t k h (check x) ∧ NextInLine s.hw t k q h ∧ t.mem = s.hw.mem))

/-- O25 (R99, R174, R178, R180, R190): An EW whose destination is one unscaled element writes there its operation on the operands' values, cast to the destination's format; a CAST writes the source's value so, and a ROW the reduction of its source's elements in ascending order. -/
def Obligations.ElementResults : Prop :=
  ∀ (s : State) (k : Fin 512) (q : Fin 4) (h : Head) (x : Cmd) (key : Nat), HomeOn s.hw k h.n → Clean s.hw → x = s.hw.cmdAt k q h →
    finFormatOk x = true → (x.o 0).writeShape = [1] → (x.o 0).scaled = false → Desc.padWrite (x.o 0).img = false →
    LeadsTo s.hw ((x.o 0).byteAt [0]) key ((fmtBits (x.o 0).fmt + 7) / 8) → Unguarded s.hw ((x.o 0).byteAt [0]) key ((fmtBits (x.o 0).fmt + 7) / 8) →
    (Ready s.hw k q 0x30 h → ewCheck x = 0 → x.has 4 = false → Completes (.ew k q) s (fun t =>
      (x.o 0).raw t [0] = (castElem (x.o 0).fmt (x.wr.rnd (x.o 0).fmt 0) x.wr.sat (ewValue x.w (operandAt s.hw x 1 [1] [0])
        (if ewUsesB (ewOp x.w) then operandAt s.hw x 2 [1] [0] else .zero false)
        (if ewUsesC (ewOp x.w) then operandAt s.hw x 3 [1] [0] else .zero false))).1 % 2 ^ fmtBits (x.o 0).fmt)) ∧
    (Ready s.hw k q 0x34 h → castCheck x = 0 → Completes (.cast k q) s (fun t =>
      (x.o 0).raw t [0] = (castElem (x.o 0).fmt (x.wr.rnd (x.o 0).fmt 0) x.wr.sat ((x.o 1).readVal s.hw [0])).1 % 2 ^ fmtBits (x.o 0).fmt)) ∧
    (∀ n, Ready s.hw k q 0x31 h → rowCheck x = 0 → (x.o 1).readShape = [n] → Completes (.row k q) s (fun t =>
      (x.o 0).raw t [0] = (castElem (x.o 0).fmt (x.wr.rnd (x.o 0).fmt 0) x.wr.sat
        (rowResult (Com.mode x.w 4 4) ((List.range n).map (fun i => (x.o 1).readVal s.hw [i])))).1 % 2 ^ fmtBits (x.o 0).fmt))

/-- O26 (R63, R136, R152, R153, R155, R156, R161, R162, R163, R166, R240): GATHER, SCATTER, SCATTER_ADD, MERGE, SORT, ROUTE, SKETCH and MOVE: a command that issues on a queue with the carry area it needs and passes its checks is executed: its entry waits for COMMAND_COMPLETE with the status of its result, memory is what its operation makes of it, and the queue goes on with the next command.  On a queue without the carry area it waits with CARRY, and memory stays. -/
def Obligations.ShuttleCommands : Prop :=
  ∀ (s : State) (k : Fin 512) (q : Fin 4) (h : Head) (x : Cmd) (s1 : Hw), HomeOn s.hw k h.n → Clean s.hw → x = s.hw.cmdAt k q h →
    s1 = s.hw.taken k q h →
    (∀ c op, (c, op) ∈ [(Instr.gather k q, 0x20), (.scatter k q, 0x21), (.scatterAdd k q, 0x22), (.merge k q, 0x24), (.sort k q, 0x25),
        (.route k q, 0x26), (.sketch k q, 0x27), (.move k q, 0x40)] → Ready s.hw k q op h → s1.carryMissing x = true →
      Completes c s (fun t => Issued t k h St.carry ∧ NextInLine s.hw t k q h ∧ t.mem = s.hw.mem)) ∧
    (s1.carryMissing x = false →
      (Ready s.hw k q 0x20 h → (indexedOf x).check = 0 → Completes (.gather k q) s (fun t => Ran s.hw t k q h
        (s1.runIndexed x (fun s v raw w => s.gatherWindow x v raw w)))) ∧
      (Ready s.hw k q 0x21 h → (indexedOf x).check = 0 → Completes (.scatter k q) s (fun t => Ran s.hw t k q h
        (s1.runIndexed x (fun s v _ w => s.scatterWindow x v w)))) ∧
      (Ready s.hw k q 0x22 h → (x.o 2).fmt ≠ 10 → (indexedOf x).check = 0 → Completes (.scatterAdd k q) s (fun t =>
        Ran s.hw t k q h (s1.runScatterAdd x))) ∧
      (Ready s.hw k q 0x24 h → mergeCheck x = 0 → Completes (.merge k q) s (fun t => Ran s.hw t k q h (s1.runMerge x))) ∧
      (Ready s.hw k q 0x25 h → sortCheck x = 0 → Completes (.sort k q) s (fun t => Ran s.hw t k q h (s1.runSort x))) ∧
      (Ready s.hw k q 0x26 h → routeCheck x = 0 → Completes (.route k q) s (fun t => Ran s.hw t k q h (s1.runRoute x))) ∧
      (Ready s.hw k q 0x27 h → sketchCheck s1 x = 0 → Completes (.sketch k q) s (fun t => Ran s.hw t k q h
        (if Com.modeBit x.w 4 then (s1.loadProjection x).sketchScore x else (s1.loadProjection x).sketchBuild x))) ∧
      (Ready s.hw k q 0x40 h → moveCheck x = 0 → Completes (.move k q) s (fun t => Ran s.hw t k q h (s1.runMove x))))

/-- O27 (R109, R112, R114, R115, R117, R118, R142, R144): MM, CONV and MM2 that issue and pass their checks run with one output block waiting in the looms for each block of the result, in the order of the rules, and change no memory by that; with a stationary operand of their own they unpin the looms they use.  SPMM either runs so or waits with its status.  HEDDLE.LOAD pins its block, labelled with the stream and the tag, in the looms it names and waits for COMMAND_COMPLETE. -/
def Obligations.LoomCommands : Prop :=
  ∀ (s : State) (k : Fin 512) (q : Fin 4) (h : Head) (x : Cmd) (s1 : Hw), HomeOn s.hw k h.n → Clean s.hw → x = s.hw.cmdAt k q h →
    s1 = s.hw.taken k q h → s1.carryMissing x = false →
    (∀ c op check, (c, op, check) ∈ [(Instr.mm k q, 0x10, mmCheck), (.conv k q, 0x12, convCheck), (.mm2 k q, 0x11, mm2Check)] →
      Ready s.hw k q op h → check s1 x = 0 → Completes c s (fun t =>
        (∃ f ∈ (t.ctxOn k h.n).flight, f.num = h.ctx.issued.toNat ∧ f.cmd = h.w ∧ f.stage = .running) ∧
        (t.getTile k).blocks = (s.hw.getTile k).blocks ++ ((if op = 0x11 then mm2Blocks x else
          orderBlocks (Com.mode x.w 7 2) (ceilDiv (Opnd.foldRows (x.o 2).writeShape) 64) (ceilDiv (Opnd.foldCols (x.o 2).writeShape) 64)).map
            (fun e => { stream := h.n, num := h.ctx.issued.toNat, index := e.1, loomB := e.2, held := false })) ∧
        (Com.modeBit x.w 9 = false → op ≠ 0x11 → ∀ b ∈ loomsOf (Com.mode x.w 7 2), t.heddle k b = none) ∧
        NextInLine s.hw t k q h ∧ t.mem = s.hw.mem)) ∧
    (Ready s.hw k q 0x23 h → spmmCheck x = 0 → Completes (.spmm k q) s (fun t =>
      (t.ctxOn k h.n).issued = h.ctx.issued + 1 ∧ NextInLine s.hw t k q h ∧
      ∃ f ∈ (t.ctxOn k h.n).flight, f.num = h.ctx.issued.toNat ∧ f.cmd = h.w ∧ (f.stage = .running ∨ ∃ st, f.stage = .done st))) ∧
    (Ready s.hw k q 0x13 h → heddleCheck s1 x = 0 → Completes (.heddleLoad k q) s (fun t =>
      Issued t k h 0 ∧ NextInLine s.hw t k q h ∧ t.mem = s.hw.mem ∧ ∀ b ∈ loomsOf (Com.mode x.w 7 2),
        ∃ p, t.heddle k b = some p ∧ p.stream = h.n ∧ p.tag = pinTag h.w))

/-- O28 (R112, R128, R129, R303, R311, R312): The first output block of a loom that passes its checks is released: it leaves the loom, counted as passed and drained, its rows that were not checked are counted, and a block of one element of an unscaled destination has the drained sum, cast to the destination's format, stored there.  One that does not pass is counted as a mismatch and held for its repeat, and memory stays, unless its command has S set on a tile that is not under observation: then it is a failed repeat at once (LOOM_BLOCK_DRAIN).  A held block whose repeat passes is released and leaves the loom, and counts as a transient with event 0x4010; one whose repeat fails leaves the loom with event 0x4011, counted, and its bytes are dross (CHECKSUM_REPEAT_DONE).  LOOM.BLOCKS counts a block at its first drain alone, which is the model's choice (log 80). -/
def Obligations.LoomBlocks : Prop :=
  ∀ (s : State) (k : Fin 512) (b : Bool) (faults : List (BitVec 12 × BitVec 32)) (e : LoomBlock) (x : Cmd) (p : Block) (c : Hw × Bool × List RowCheck),
    x.t = k → HomeOn s.hw k x.n → blockOf (s.hw.wake x) x e.index b = some p → c = s.hw.drainCheck x k b p faults →
    (s.hw.firstBlock k b false = some (e, x) →
      (c.2.1 = true → Completes (.loomBlockDrain k b faults) s (fun t =>
        BlockGone t k x e ∧ t.rd .LOOM_CHK_PASS k = satAdd (s.hw.rd .LOOM_CHK_PASS k) 1 ∧ t.rd .LOOM_CHK_MISMATCH k = s.hw.rd .LOOM_CHK_MISMATCH k ∧
        t.rd .LOOM_CHK_SKIPPED k = satAdd (s.hw.rd .LOOM_CHK_SKIPPED k) (unchecked c.2.2) ∧
        t.rd (if b then .LOOM_BLOCKS_B else .LOOM_BLOCKS_A) k = satAdd (s.hw.rd (if b then .LOOM_BLOCKS_B else .LOOM_BLOCKS_A) k) 1 ∧
        ∀ (key : Nat) (a : AccEl), Clean s.hw → p.mb = 1 → p.nb = 1 → p.acc = false → x.has p.dst = true → PlainOps x → p.accs faults = [[a]] →
          LeadsTo s.hw ((x.o p.dst).byteAt ((p.idx p.m0 p.n0).map Int.ofNat)) key ((fmtBits (x.o p.dst).fmt + 7) / 8) →
          Unguarded s.hw ((x.o p.dst).byteAt ((p.idx p.m0 p.n0).map Int.ofNat)) key ((fmtBits (x.o p.dst).fmt + 7) / 8) →
          (x.o p.dst).raw t ((p.idx p.m0 p.n0).map Int.ofNat) =
            (castElem (x.o p.dst).fmt (x.wr.rnd (x.o p.dst).fmt (linear (x.o p.dst).writeShape (p.idx p.m0 p.n0))) x.wr.sat
              (p.drained x p.nanScale 0 0 a).v).1 % 2 ^ fmtBits (x.o p.dst).fmt)) ∧
      (c.2.1 = false → Com.skip x.w = false ∨ (s.hw.getPhys (s.hw.physOf k)).observed = true → Completes (.loomBlockDrain k b faults) s (fun t =>
        { e with held := true } ∈ (t.getTile k).blocks ∧ t.mem = s.hw.mem ∧
        t.rd .LOOM_CHK_MISMATCH k = satAdd (s.hw.rd .LOOM_CHK_MISMATCH k) 1 ∧ t.rd .LOOM_CHK_PASS k = s.hw.rd .LOOM_CHK_PASS k ∧
        t.rd .LOOM_CHK_SKIPPED k = satAdd (s.hw.rd .LOOM_CHK_SKIPPED k) (unchecked c.2.2))) ∧
      (c.2.1 = false → Com.skip x.w = true → (s.hw.getPhys (s.hw.physOf k)).observed = false → Completes (.loomBlockDrain k b faults) s (fun t =>
        BlockGone t k x e ∧ t.rd .LOOM_CHK_MISMATCH k = satAdd (s.hw.rd .LOOM_CHK_MISMATCH k) 1 ∧
        t.rd .FLT_REPEAT_FAILS 0 = satAdd (s.hw.rd .FLT_REPEAT_FAILS 0) 1 ∧ t.rd .FLT_TRANSIENTS 0 = s.hw.rd .FLT_TRANSIENTS 0 ∧
        Tells s.hw t 0x4011 (pack2 k (loomNo b)) (Com.tag x.w) ∧ (s.Ok → x.has p.dst = true → PlainOps x → BlockLost s.hw t x p)))) ∧
    (s.hw.firstBlock k b true = some (e, x) →
      (c.2.1 = true → Completes (.checksumRepeatDone k b faults) s (fun t =>
        BlockGone t k x e ∧ t.rd .FLT_TRANSIENTS 0 = satAdd (s.hw.rd .FLT_TRANSIENTS 0) 1 ∧ t.rd .FLT_REPEAT_FAILS 0 = s.hw.rd .FLT_REPEAT_FAILS 0 ∧
        t.rd .LOOM_CHK_SKIPPED k = satAdd (s.hw.rd .LOOM_CHK_SKIPPED k) (unchecked c.2.2) ∧
        (Clean s.hw → Tells s.hw t 0x4010 (pack2 k (loomNo b)) (Com.tag x.w)))) ∧
      (c.2.1 = false → Completes (.checksumRepeatDone k b faults) s (fun t =>
        BlockGone t k x e ∧ t.rd .FLT_REPEAT_FAILS 0 = satAdd (s.hw.rd .FLT_REPEAT_FAILS 0) 1 ∧ t.rd .FLT_TRANSIENTS 0 = s.hw.rd .FLT_TRANSIENTS 0 ∧
        t.rd .LOOM_CHK_SKIPPED k = satAdd (s.hw.rd .LOOM_CHK_SKIPPED k) (unchecked c.2.2) ∧
        Tells s.hw t 0x4011 (pack2 k (loomNo b)) (Com.tag x.w) ∧ (s.Ok → x.has p.dst = true → PlainOps x → BlockLost s.hw t x p))))

/-- O29 (R301, R305): A Finisher, Shuttle or loom command one of whose operands has dross in bytes that the unit takes in has no effect on memory but what taking the operands in has: event 0x4001 is raised, every stream of the job on the module is faulted with cause JOB, and the job's round will end in ABORT. -/
def Obligations.DrossAborts : Prop :=
  ∀ (s : State) (k : Fin 512) (q : Fin 4) (h : Head) (x : Cmd) (s1 : Hw) (a : Nat), x = s.hw.cmdAt k q h → s1 = s.hw.taken k q h →
    (s1.consumeBy x.sourceSpans).2 = some a →
    ∀ c op, (c, op) ∈ [(Instr.ew k q, 0x30), (.cast k q, 0x34), (.mm2 k q, 0x11)] → Ready s.hw k q op h →
      (op ≠ 0x11 → finFormatOk x = true ∧ rowLen (x.o 0).writeShape ≤ 262144) → (op = 0x30 → ewCheck x = 0) → (op = 0x34 → castCheck x = 0) →
      (op = 0x11 → s1.carryMissing x = false ∧ mm2Check s1 x = 0) →
      Completes c s (fun t =>
        (∀ n ∈ (s1.consumeBy x.sourceSpans).1.streamsOfJob (s1.jobOf h.n), t.flag F.STRM_STATE_FAULTED n = true ∧
          (s1.flag F.STRM_STATE_FAULTED n = false → t.fget F.STRM_STATE_CAUSE n = 7)) ∧
        (EventRoom (s1.consumeBy x.sourceSpans).1 → ∃ e ∈ t.host.waiting, e.code = 0x4001 ∧ e.arg0 = a % 2 ^ 32) ∧
        (t.getJob (s1.jobOf h.n)).abortDue = true ∧ t.mem = (s1.consumeBy x.sourceSpans).1.mem ∧
        t.rd .FLT_JOB_ABORTS 0 = satAdd ((s1.consumeBy x.sourceSpans).1.rd .FLT_JOB_ABORTS 0) 1)

/-- O30 (R219, R369): A PUT or GET that issues and passes its checks with both operands on this module moves the bytes and waits for COMMAND_COMPLETE with status 0.  With data or scales of its remote operand on another module it runs, under a new transfer of its stream and number; where every byte of that operand is there, it changes no byte of memory by that. -/
def Obligations.TransferCommands : Prop :=
  ∀ (s : State) (k : Fin 512) (q : Fin 4) (h : Head) (x : Cmd) (s1 : Hw), HomeOn s.hw k h.n → Clean s.hw → x = s.hw.cmdAt k q h →
    s1 = s.hw.taken k q h → transferCheck x = 0 →
    (Ready s.hw k q 0x50 h →
      ((x.o 1).reachesFar = false → Completes (.put k q) s (fun t => Issued t k h 0 ∧ NextInLine s.hw t k q h ∧
        t.mem = (s1.localTransfer x (x.o 0) (x.o 1)).mem)) ∧
      ((x.o 1).reachesFar = true → Completes (.put k q) s (fun t => Crosses s.hw t k q h false ∧ (FarWhole (x.o 1) → t.mem = s.hw.mem)))) ∧
    (Ready s.hw k q 0x51 h →
      ((x.o 1).reachesFar = false → Completes (.get k q) s (fun t => Issued t k h 0 ∧ NextInLine s.hw t k q h ∧
        t.mem = (s1.localTransfer x (x.o 1) (x.o 0)).mem)) ∧
      ((x.o 1).reachesFar = true → Completes (.get k q) s (fun t => Crosses s.hw t k q h true ∧ (FarWhole (x.o 1) → t.mem = s.hw.mem))))

/-- O31 (R368, R369, R370, R371, R378): Write data of a job that may reach its bytes is stored, byte for byte and nowhere else, remembered as accepted, and acknowledged on the route to its source; data accepted before changes no memory; data that may not reach its bytes is refused: counted, with event 0x6041, and memory stays (WRITE_DATA, CROW_WRITE_DATA).  A read request of part of one atom that is allowed is answered with one flit that carries the bytes, of KIND 4 where it asks for compressed rows and else of KIND 2 (log 86), and no byte of memory changes (READ_REQUEST). -/
def Obligations.ArrivingAccesses : Prop :=
  ∀ (s : State) (l : Fin 64) (src stream job : BitVec 16) (xfer : BitVec 32) (addr : BitVec 64) (k : Nat),
    (∀ (data : List Byte) (crow : Bool) (c : Instr), (c = if crow then .crowWriteData l src stream job xfer addr data 0
        else .writeData l src stream job xfer addr data 0) →
      ¬ (s.hw.fget F.TWIN_STATUS_STATE = 4 ∧ src.toNat = s.hw.twinId ∧ bit xfer.toNat 31 = true) →
      ¬ (crow = true ∧ src.toNat = s.hw.me ∧ (Sparse.find? s.hw.lnk.xfers xfer.toNat).isSome = true) →
      ((src.toNat, xfer.toNat, addr.toNat) ∉ s.hw.lnk.seen → s.hw.farAllowed job.toNat addr.toNat data.length = true →
        LeadsTo s.hw (bits addr.toNat 0 40) k data.length → Unguarded s.hw (bits addr.toNat 0 40) k data.length → Completes c s (fun t =>
          Stored s.hw t k data ∧ (src.toNat, xfer.toNat, addr.toNat) ∈ t.lnk.seen ∧
          (∀ l', s.hw.routeOf src.toNat 0 0 = some l' → (t.getLink l').records = (s.hw.getLink l').records ++
            [ctlRecord 0x06 src.toNat s.hw.me 16 (xfer.toNat + data.length * 2 ^ 32)]))) ∧
      ((src.toNat, xfer.toNat, addr.toNat) ∈ s.hw.lnk.seen → Completes c s (fun t => t.mem = s.hw.mem ∧ RegsKept [] s.hw t)) ∧
      ((src.toNat, xfer.toNat, addr.toNat) ∉ s.hw.lnk.seen → s.hw.farAllowed job.toNat addr.toNat data.length = false → EventRoom s.hw →
        Completes c s (fun t => Raises s.hw t 0x6041 src.toNat addr.toNat ∧ t.mem = s.hw.mem ∧
          t.rd .LNK_REFUSED 0 = satAdd (s.hw.rd .LNK_REFUSED 0) 1 ∧ RegsKeptEv [.LNK_REFUSED] s.hw t))) ∧
    (∀ (len : BitVec 12) (l' : Nat) (ew : BitVec 2) (crow : Bool), s.hw.farAllowed job.toNat addr.toNat len.toNat = true → Clean s.hw → addr.toNat % 128 + len.toNat ≤ 128 →
      LeadsTo s.hw (bits addr.toNat 0 40) k len.toNat →
      s.hw.routeOf src.toNat xfer.toNat ((if crow then src.toNat else s.hw.me) * 2 ^ 52 + bits addr.toNat 0 40 / 128 * 128) = some l' →
      Completes (.readRequest l src stream job xfer addr (len, ew, crow)) s (fun t => t.mem = s.hw.mem ∧
        ∃ f : Flit, (t.getLink l').dyn = (s.hw.getLink l').dyn ++ [f] ∧ f.kind = (if crow then 4 else 2) ∧ f.dst = src.toNat ∧ f.xfer = xfer.toNat ∧
          f.data = (List.range len.toNat).map (fun i => s.hw.mem.byte (k + i))))

/-- O32 (R361, R369, R371, R378): Data of a stretch that a GET asked for is stored where the stretch goes, and nowhere else, whether it comes as a read response or, of compressed rows, as write data for this module (READ_RESPONSE, CROW_WRITE_DATA).  An acknowledge counts its bytes, and with the last the transfer is over and its command runs no longer (WRITE_ACKNOWLEDGE).  A refusal ends the transfer and its command (REFUSAL). -/
def Obligations.TransferAnswers : Prop :=
  ∀ (s : State) (l : Fin 64) (xfer : BitVec 32) (x : Xfer), Sparse.find? s.hw.lnk.xfers xfer.toNat = some x → x.panels = none →
    (∀ (src stream job : BitVec 16) (addr : BitVec 64) (data : List Byte) (p : Nat × Nat × Nat) (k a : Nat), a = bits addr.toNat 0 40 →
      x.parts.find? (fun p => x.get && (bits addr.toNat 52 12 == s.hw.me || bits addr.toNat 52 12 == bits p.1 52 12) &&
        decide (bits p.1 0 40 ≤ a) && decide (a + data.length ≤ bits p.1 0 40 + p.2.2)) = some p →
      (s.hw.me, xfer.toNat, addr.toNat) ∉ s.hw.lnk.seen →
      (∀ o, s.hw.getDest x = some o → oddBytes o = [] ∧ (x.total ≤ x.acked + data.length → Desc.padWrite o.img = false)) →
      LeadsTo s.hw (p.2.1 + (a - bits p.1 0 40)) k data.length → Unguarded s.hw (p.2.1 + (a - bits p.1 0 40)) k data.length →
      ∀ c, c = Instr.readResponse l xfer addr data 0 ∨ (src.toNat = s.hw.me ∧ c = .crowWriteData l src stream job xfer addr data 0) →
      Completes c s (fun t => Stored s.hw t k data ∧ (s.hw.me, xfer.toNat, addr.toNat) ∈ t.lnk.seen)) ∧
    (∀ b : BitVec 32,
      (x.acked + b.toNat < x.total → Completes (.writeAcknowledge l xfer b) s (fun t =>
        Sparse.find? t.lnk.xfers xfer.toNat = some { x with acked := x.acked + b.toNat } ∧ t.mem = s.hw.mem ∧ RegsKept [] s.hw t)) ∧
      (x.total ≤ x.acked + b.toNat → x.get = false → Completes (.writeAcknowledge l xfer b) s (fun t =>
        Sparse.find? t.lnk.xfers xfer.toNat = none ∧ t.mem = s.hw.mem ∧ RegsKept [] s.hw t ∧
        ∀ k, HomeOn s.hw k x.stream → ∀ f ∈ (t.ctxOn k x.stream).flight, f.num = x.num → f.stage ≠ .running ∧ f.stage ≠ .carried))) ∧
    (∀ reason : BitVec 8, Completes (.refusal l xfer reason) s (fun t =>
      Sparse.find? t.lnk.xfers xfer.toNat = none ∧ t.mem = s.hw.mem ∧ RegsKept [] s.hw t ∧
      ∀ k, HomeOn s.hw k x.stream → ∀ f ∈ (t.ctxOn k x.stream).flight, f.num = x.num → f.stage ≠ .running ∧ f.stage ≠ .carried))

/-- O33 (R373, R374, R375, R376): REDUCE, ALLGATHER and REDUCE_SCATTER that pass their checks, as the one participant of the group on this module and with nothing early waiting: the command is in flight, as a participant of the group or with its status final, its instance is the next of its rank on the group and counts, and the queue goes on with the next command. -/
def Obligations.CollectiveCommands : Prop :=
  ∀ (s : State) (k : Fin 512) (q : Fin 4) (h : Head) (x : Cmd) (s1 : Hw) (g : Group) (r : Nat), HomeOn s.hw k h.n → Clean s.hw →
    x = s.hw.cmdAt k q h → s1 = s.hw.taken k q h → (s1.groupRec (Com.param x.w 0)).2 = some g → collCheck s1 x = 0 →
    g.rankOf h.n = some r → g.ranks = [r] → s.hw.lnk.early = [] → s.hw.lnk.abortedColls = [] →
    (∀ z ∈ s.hw.lnk.colls, ¬ (z.group = Com.param x.w 0 ∧ z.rank = r)) →
    ∀ c op, (c, op) ∈ [(Instr.reduce k q, 0x52), (.allgather k q, 0x53), (.reduceScatter k q, 0x54)] → Ready s.hw k q op h →
      Completes c s (fun t => (t.ctxOn k h.n).issued = h.ctx.issued + 1 ∧ NextInLine s.hw t k q h ∧
        (∃ f ∈ (t.ctxOn k h.n).flight, f.num = h.ctx.issued.toNat ∧ f.cmd = h.w) ∧
        t.nextInst (Com.param x.w 0) r = s.hw.nextInst (Com.param x.w 0) r + 1 ∧
        ((∃ c ∈ t.lnk.colls, c.group = Com.param x.w 0 ∧ c.rank = r ∧ c.stream = h.n ∧ c.num = h.ctx.issued.toNat) ∨
          ∃ f ∈ (t.ctxOn k h.n).flight, f.num = h.ctx.issued.toNat ∧ ∃ st, f.stage = .done st))

/-- O34 (R366, R376, R377): Data of an instance that its rank has not issued is kept for it; data that a gathering participant has not had yet is accepted and counts towards what it still expects (COLLECTIVE_DATA).  An abort leaves no participant of its instance on the module (COLLECTIVE_ABORT).  A participant that is late is reported once with event 0x6031 (COLLECTIVE_TIMEOUT).  A flit that has waited its limit for a route is refused: it waits no longer, is counted, raises event 0x6040, and a refusal goes to its source (UNREACHABLE_REFUSE). -/
def Obligations.CollectiveTraffic : Prop :=
  ∀ s : State,
    (∀ (l : Fin 64) (job src : BitVec 12) (addr : BitVec 64) (xfer : BitVec 32) (data : List Byte) (g : Group) (r c : Nat),
      (∀ z ∈ s.hw.lnk.colls, z.expect ≠ 0 ∨ s.hw.collUnsent z = true) → (s.hw.groupRec (bits addr.toNat 0 12)) = (s.hw, some g) → r = g.first % g.p → c = bits addr.toNat 20 12 →
      (s.hw.lnk.colls.find? (fun k => k.group == bits addr.toNat 0 12 && k.rank == r && k.inst % 256 == bits addr.toNat 12 8) = none →
        s.hw.instAhead (bits addr.toNat 0 12) r (bits addr.toNat 12 8) = true → (bits addr.toNat 0 12, bits addr.toNat 12 8, r) ∉ s.hw.lnk.abortedColls →
        Completes (.collectiveData l job src addr xfer data 0) s (fun t => t.mem = s.hw.mem ∧
          ∃ f : Flit, (r, f) ∈ t.lnk.early ∧ f.data = data ∧ f.addr = addr.toNat ∧ f.xfer = xfer.toNat)) ∧
      (∀ (z : Coll) (f : InFlight), s.hw.lnk.colls.find? (fun k => k.group == bits addr.toNat 0 12 && k.rank == r && k.inst % 256 == bits addr.toNat 12 8) = some z →
        (s.hw.ctxOf z.stream).flight.find? (fun e => e.num == z.num) = some f → Com.opcode f.cmd = 0x53 → z.word = xfer.toNat →
        g.ranks = [r] → z.got.any (fun e => e.1 == 1 && e.2.1 == c && e.2.2.1 == bits addr.toNat 32 32) = false →
        data.length < z.expect → Completes (.collectiveData l job src addr xfer data 0) s (fun t =>
          { z with got := (1, c, bits addr.toNat 32 32, data.length) :: z.got, expect := z.expect - data.length } ∈ t.lnk.colls))) ∧
    (∀ (l : Fin 64) (gi inst : BitVec 12) (g : Group), (s.hw.groupRec gi.toNat).2 = some g → Completes (.collectiveAbort l gi inst) s (fun t =>
      (∀ z ∈ t.lnk.colls, ¬ (z.group = gi.toNat ∧ z.inst % 256 = inst.toNat % 256)) ∧ t.mem = (s.hw.groupRec gi.toNat).1.mem)) ∧
    (∀ (gi : BitVec 12) (n : BitVec 16) (z : Coll), z ∈ s.hw.lnk.colls → z.group = gi.toNat → z.stream = n.toNat → z.warned = false →
      s.hw.fget F.LNK_COLL_LIMIT_BEATS ≠ 0 → z.beat + s.hw.fget F.LNK_COLL_LIMIT_BEATS ≤ s.hw.beatNo → EventRoom s.hw →
      Completes (.collectiveTimeout gi n) s (fun t => Raises s.hw t 0x6031 gi.toNat n.toNat ∧ { z with warned := true } ∈ t.lnk.colls ∧
        RegsKeptEv [] s.hw t ∧ t.mem = s.hw.mem)) ∧
    (∀ (i : BitVec 16) (f : Flit) (b : Nat) (p : Option Nat), s.hw.lnk.noRoute[i.toNat]? = some (f, b, p) → f.cls ≠ 1 → f.src ≠ s.hw.me →
      b + s.hw.fget F.LNK_COLL_LIMIT_UNREACH_LIMIT ≤ s.hw.beatNo → EventRoom s.hw → Completes (.unreachableRefuse i) s (fun t =>
        t.lnk.noRoute = s.hw.lnk.noRoute.eraseIdx i.toNat ∧ Raises s.hw t 0x6040 f.dst f.stream ∧ t.mem = s.hw.mem ∧
        t.rd .LNK_UNREACH 0 = satAdd (s.hw.rd .LNK_UNREACH 0) 1 ∧ RegsKeptEv [.LNK_UNREACH] s.hw t ∧
        (∀ l', s.hw.routeOf f.src 0 0 = some l' → (t.getLink l').records = (s.hw.getLink l').records ++
          [ctlRecord 0x07 f.src s.hw.me 16 (refusalBody f.xfer 2)])))

/-- O35 (R71, R359, R360, R363, R365, R380, R381, R383, R386): FLIT_TIME: a link whose lanes are not trained does nothing; one that is not admitted sends an idle flit with its identity record; an admitted one resends the first flit marked for it, with the beat marker and hello that wait where its record area has room, each marker stamped anew, else sends the oldest long control message as a new flit with the next number, else the scheduled flit of the slot it is in, else the oldest dynamic flit for a credit, and each new flit is kept for replay; with none of these it sends an idle flit.  Scheduled data of a link whose partner is of no shared beat group, or outside FULL service, travel as dynamic class.  REPLAY_TIMEOUT: the oldest unacknowledged flit and those after it are marked for resending; at its 9th failure it takes dross form with event 0x6010, and at its 17th an admitted link trains again with event 0x6002. -/
def Obligations.LinkSending : Prop :=
  ∀ (s : State) (l : Fin 64) (x : Link) (seq : Nat) (recs : List (BitVec 128)) (slot : Option Nat),
    x = (s.hw.readySched l).getLink l → s.hw.fget F.TWIN_STATUS_STATE ≠ 5 → seq = (x.txSeq + 1) % 65536 →
    recs = (x.records.take 5).map s.hw.stampRecord → slot = (s.hw.slotStream l).bind (fun n => x.sched.findIdx? (fun f => f.stream == n)) →
    (x.trained = false → Completes (.flitTime l) s (fun t => t = s.hw)) ∧
    (s.hw.groupShared l = false ∨ s.hw.level ≠ 2 → x = { s.hw.getLink l with
      sched := [], dyn := (s.hw.getLink l).dyn ++ (s.hw.getLink l).sched.map (fun f => { f with cls := 3 }) }) ∧
    (x.trained = true → s.hw.lstate l ≠ 2 → s.hw.lstate l ≠ 3 → Completes (.flitTime l) s (fun t =>
      (t.getLink l).wire = Flit.idle.bytes ⟨x.txSeq, x.rxSeq, true, x.nack, x.hold, x.freed % 65536⟩ [s.hw.identityRec false] ∧
      (t.getLink l).txSeq = x.txSeq ∧ (t.getLink l).replay = x.replay)) ∧
    (x.trained = true → s.hw.lstate l = 2 ∨ s.hw.lstate l = 3 →
      (∀ i e mark sent, x.replay.findIdx? (fun r => r.resend) = some i → x.replay[i]? = some e →
          mark = (x.records.takeWhile edgeRecord).take (5 - e.records.length) → sent = (mark ++ e.records).map s.hw.stampRecord →
          Completes (.flitTime l) s (fun t =>
        (t.getLink l).wire = e.flit.bytes ⟨e.seq, x.rxSeq, false, x.nack, x.hold, x.freed % 65536⟩ sent ∧
        (t.getLink l).replay = setNth { e with resend := false, records := sent, ack := x.rxSeq } x.replay i ∧
        (t.getLink l).records = x.records.drop mark.length ∧
        t.rd .LNK_REPLAYS l = satAdd (s.hw.rd .LNK_REPLAYS l) 1)) ∧
      (x.replay.findIdx? (fun r => r.resend) = none → s.hw.lstate l = 3 ∨ 256 ≤ x.replay.length ∨
          (x.long = [] ∧ (slot = none ∨ x.partnerHold = true) ∧ (x.dyn = [] ∨ x.credits = 0)) → Completes (.flitTime l) s (fun t =>
        (t.getLink l).wire = Flit.idle.bytes ⟨x.txSeq, x.rxSeq, false, x.nack, x.hold, x.freed % 65536⟩ recs ∧
        (t.getLink l).replay = x.replay ∧ (t.getLink l).records = x.records.drop 5)) ∧
      (x.replay.findIdx? (fun r => r.resend) = none → s.hw.lstate l = 2 → x.replay.length < 256 →
        ∀ f, (∃ rest, x.long = f :: rest) ∨
          (x.long = [] ∧ x.partnerHold = false ∧ ∃ i, slot = some i ∧ x.sched[i]? = some f) ∨
          (x.long = [] ∧ (slot = none ∨ x.partnerHold = true) ∧ 0 < x.credits ∧ ∃ rest, x.dyn = f :: rest) →
        Completes (.flitTime l) s (fun t =>
          (t.getLink l).wire = f.bytes ⟨seq, x.rxSeq, false, x.nack, x.hold, x.freed % 65536⟩ recs ∧
          (t.getLink l).replay = x.replay ++ [{ seq := seq, fails := 0, resend := false, flit := f, records := recs, ack := x.rxSeq }] ∧
          (t.getLink l).txSeq = seq ∧ (t.getLink l).records = x.records.drop 5 ∧ (t.getLink l).freed = 0 ∧
          (x.long = [] → slot = none ∨ x.partnerHold = true → (t.getLink l).credits = x.credits - 1)))) ∧
    (∀ e rest, (s.hw.getLink l).replay = e :: rest → e.resend = false →
      (e.fails ≠ 8 → e.fails < 16 → Completes (.replayTimeout l) s (fun t => t = s.hw.setLink l { s.hw.getLink l with
        replay := { e with fails := e.fails + 1, resend := true } :: rest.map (fun r => { r with resend := true }) })) ∧
      (e.fails = 8 → EventRoom s.hw → Completes (.replayTimeout l) s (fun t =>
        (t.getLink l).replay = { e with fails := 9, resend := true, flit := { e.flit with drossForm := true } } ::
          rest.map (fun r => { r with resend := true }) ∧
        t.rd .LNK_DROSS_FORM l = satAdd (s.hw.rd .LNK_DROSS_FORM l) 1 ∧ Raises s.hw t 0x6010 l e.seq)) ∧
      (16 ≤ e.fails → s.hw.lstate l = 2 → EventRoom s.hw → Completes (.replayTimeout l) s (fun t =>
        t.lstate l = 1 ∧ (t.getLink l).replay = [] ∧ Raises s.hw t 0x6002 l 2))) ∧
    ((s.hw.getLink l).replay = [] ∨ (∃ e rest, (s.hw.getLink l).replay = e :: rest ∧ e.resend = true) → Completes (.replayTimeout l) s (fun t => t = s.hw))

/-- O36 (R359, R364, R365, R380, R381, R386): FLIT_RECEIVED on a trained link: one whose header cannot be used, or whose number is neither the next nor covered, asks for a resend and is not taken in; a dynamic flit for this module with the next number and no records is taken into the receive buffer, and what its header acknowledges leaves the replay buffer; one whose number is covered is dropped, but for markers and hellos in it; an idle flit whose number is not that of the last flit accepted tells that one is missing: it asks for a resend and its records are not taken in; before admission a flit with data is dropped and counted. -/
def Obligations.LinkReceiving : Prop :=
  ∀ (s : State) (l : Fin 64) (flit : BitVec 10240) (bad0 bad1 : Bool) (n : BitVec 5) (x : Link) (b : List Byte),
    x = s.hw.getLink l → b = toBytes 1280 flit.toNat →
    (x.trained = false → Completes (.flitReceived l flit bad0 bad1 n) s (fun t => t = s.hw)) ∧
    (x.trained = true → s.hw.lstate l = 2 ∨ s.hw.lstate l = 3 →
      (headerOf b bad0 bad1 = none ∨ (∃ w, headerOf b bad0 bad1 = some w ∧ headerZero w = false) →
        Completes (.flitReceived l flit bad0 bad1 n) s (fun t =>
          t.getLink l = { x with nack := true, bad0 := if bad0 then x.bad0 + 1 else 0, bad1 := if bad1 then x.bad1 + 1 else 0 } ∧
          t.rd .LNK_FEC_CORR l = satAdd (s.hw.rd .LNK_FEC_CORR l) n.toNat ∧
          t.rd .LNK_FEC_UNCORR l = satAdd (s.hw.rd .LNK_FEC_UNCORR l) ((if bad0 then 1 else 0) + (if bad1 then 1 else 0)))) ∧
      (∀ w, headerOf b bad0 bad1 = some w → headerZero w = true → bit w 35 = false → bits w 32 2 ≠ 0 →
        (∀ f, f = flitOf s.hw.me w (b.drop 128) → bits w 32 2 = 3 → bits w 0 16 = (x.rxSeq + 1) % 65536 → f.dst = s.hw.me → f.drossForm = false →
          (bad0 = true ∨ ∀ i < 5, bits (ofBytes ((b.drop (48 + 16 * i)).take 16)) 0 8 = 0) →
          Completes (.flitReceived l flit bad0 bad1 n) s (fun t =>
            (t.getLink l).rxSeq = bits w 0 16 ∧ (t.getLink l).nack = false ∧ (t.getLink l).rxDyn = x.rxDyn ++ [f] ∧
            (t.getLink l).replay = x.replay.filter (fun r => !seqCovers (bits w 16 16) r.seq) ∧
            (t.getLink l).credits = x.credits + bits w 176 16 ∧
            t.rd .LNK_RX_FLITS l = satAdd (s.hw.rd .LNK_RX_FLITS l) 1)) ∧
        (bits w 0 16 ≠ (x.rxSeq + 1) % 65536 → Completes (.flitReceived l flit bad0 bad1 n) s (fun t =>
          (t.getLink l).rxSeq = x.rxSeq ∧ (t.getLink l).rxDyn = x.rxDyn ∧ (t.getLink l).rxSched = x.rxSched ∧
          (t.getLink l).rxLong = x.rxLong ∧
          (∃ more, (t.getLink l).rxRecords = x.rxRecords ++ more ∧ ∀ v ∈ more, edgeRecord v = true) ∧
          (t.getLink l).nack = (x.nack || !seqCovers x.rxSeq (bits w 0 16))))) ∧
      (∀ w, headerOf b bad0 bad1 = some w → headerZero w = true → bit w 35 = false → bits w 32 2 = 0 → bits w 0 16 ≠ x.rxSeq →
        Completes (.flitReceived l flit bad0 bad1 n) s (fun t =>
          (t.getLink l).nack = true ∧ (t.getLink l).rxSeq = x.rxSeq ∧ (t.getLink l).rxRecords = x.rxRecords))) ∧
    (x.trained = true → s.hw.lstate l ≠ 2 → s.hw.lstate l ≠ 3 → ∀ w, headerOf b bad0 bad1 = some w → headerZero w = true → bits w 32 2 ≠ 0 →
      Completes (.flitReceived l flit bad0 bad1 n) s (fun t =>
        t.rd .LNK_NREADY_DROP l = satAdd (s.hw.rd .LNK_NREADY_DROP l) 1 ∧ (t.getLink l).rxSeq = x.rxSeq ∧ (t.getLink l).rxDyn = x.rxDyn ∧
        (t.getLink l).rxSched = x.rxSched ∧ (t.getLink l).rxLong = x.rxLong))

/-- O37 (R382, R383): LANE_LOCK_LOST and LANE_DOWNSHIFT: an admitted or draining link on two lanes that loses one goes on with the other, resends, and raises event 0x6020; one that loses both, or the one it was on, leaves: admitted, it trains again with event 0x6002 and cause 1, draining, it is down.  LINK_RETRAIN: at the threshold of replays an admitted link trains again with event 0x6002 and cause 0. -/
def Obligations.LinkLanes : Prop :=
  ∀ (s : State) (l : Fin 64) (lane1 both : Bool) (x : Link), x = s.hw.getLink l →
    (s.hw.lstate l ≠ 2 → s.hw.lstate l ≠ 3 → ∀ c ∈ [Instr.laneLockLost l lane1 both, .laneDownshift l lane1, .linkRetrain l],
      Completes c s (fun t => t = s.hw)) ∧
    (∀ c, s.hw.lstate l = 2 ∨ s.hw.lstate l = 3 → s.hw.fget F.LNK_LSTATE_LANES l = 0 → EventRoom s.hw →
        (c = .laneLockLost l lane1 false ∨ (c = .laneDownshift l lane1 ∧
          (if lane1 then 32 ≤ x.bad1 ∧ x.bad0 < 32 else 32 ≤ x.bad0 ∧ x.bad1 < 32))) → Completes c s (fun t =>
      t.getLink l = { x with replay := x.replay.map (fun r => { r with resend := true }), bad0 := 0, bad1 := 0 } ∧
      t.fget F.LNK_LSTATE_LANES l = (if lane1 then 1 else 2) ∧ t.lstate l = s.hw.lstate l ∧
      Raises s.hw t 0x6020 l (if lane1 then 1 else 0) ∧ RegsKeptEv [.LNK_LSTATE] s.hw t)) ∧
    (both = true ∨ s.hw.fget F.LNK_LSTATE_LANES l = (if lane1 then 2 else 1) →
      (s.hw.lstate l = 2 → EventRoom s.hw → Completes (.laneLockLost l lane1 both) s (fun t =>
        t.lstate l = 1 ∧ Raises s.hw t 0x6002 l 1 ∧ t.rd .LNK_RETRAINS l = satAdd (s.hw.rd .LNK_RETRAINS l) 1)) ∧
      (s.hw.lstate l = 3 → Completes (.laneLockLost l lane1 both) s (fun t => t.lstate l = 0))) ∧
    (s.hw.lstate l = 2 →
      (s.hw.fget F.LNK_RETRAIN_THR_COUNT ≤ x.replaysWindow → EventRoom s.hw → Completes (.linkRetrain l) s (fun t =>
        t.lstate l = 1 ∧ (t.getLink l).replay = [] ∧ Raises s.hw t 0x6002 l 0)) ∧
      (x.replaysWindow < s.hw.fget F.LNK_RETRAIN_THR_COUNT → Completes (.linkRetrain l) s (fun t => t = s.hw)))

/-- O38 (R361, R365, R383, R385, R386): LINK_TRAINING_START and LINK_RETRY: once the core is up, a link that is down and not disabled trains.  LINK_TRAINING_DONE: it holds its lanes and delay, or is down again, with event 0x6003 unless that has been raised since its last admission.  IDENTITY: a trained link takes its partner from the record.  LINK_ADMIT: a trained link whose partner is known and ready is admitted, with the partner's buffer as its credit and event 0x6001. -/
def Obligations.LinkTraining : Prop :=
  ∀ (s : State) (l : Fin 64) (x : Link), x = s.hw.getLink l →
    (∀ g : Fin 8, l.val / 8 = g.val → s.hw.coreUp = true → s.hw.lstate l = 0 → x.disable = false → x.st = .in_ ∨ x.st = .assaying →
      Completes (.linkTrainingStart g) s (fun t => t.lstate l = 1 ∧ ∀ k : Fin 64, k.val / 8 ≠ g.val → t.lstate k = s.hw.lstate k)) ∧
    (s.hw.coreUp = true → s.hw.lstate l = 0 → x.disable = false → x.st = .in_ ∨ x.st = .assaying →
      Completes (.linkRetry l) s (fun t => t.lstate l = 1 ∧ ∀ k : Fin 64, k ≠ l → t.lstate k = s.hw.lstate k)) ∧
    (s.hw.lstate l = 1 → x.trained = false → ∀ (lanes : Fin 3) (d : BitVec 16),
      Completes (.linkTrainingDone l true lanes d) s (fun t => t.getLink l = { x with trained := true, firstDone := true, txSeq := 0, rxSeq := 0 } ∧
        t.fget F.LNK_LSTATE_LANES l = lanes ∧ t.fget F.LNK_DELAY_CYCLES l = d.toNat ∧ t.lstate l = 1) ∧
      Completes (.linkTrainingDone l false lanes d) s (fun t => t.lstate l = 0 ∧
        (t.getLink l).attempts = x.attempts + 1 ∧ (t.getLink l).reported = true ∧
        (x.reported = true → t.host.waiting = s.hw.host.waiting) ∧
        (x.reported = false → EventRoom s.hw → Raises s.hw t 0x6003 l (x.attempts + 1)))) ∧
    (x.trained = true → ∀ (m g : BitVec 12) (buf : BitVec 16) (up : Bool), Completes (.identity l m g buf up) s (fun t =>
        (t.getLink l).identity = some (m.toNat, g.toNat, buf.toNat) ∧ (t.getLink l).peerReady = (x.peerReady || up) ∧
        t.flag F.LNK_LSTATE_PEER_VALID l = true ∧ t.fget F.LNK_LSTATE_PEER l = m.toNat ∧
        (∀ p, x.lastPeer = some p → p ≠ m.toNat → x.identity = none → EventRoom s.hw → Raises s.hw t 0x6050 l m.toNat))) ∧
    (∀ m g buf, x.identity = some (m, g, buf) → x.trained = true → s.hw.lstate l = 1 → x.peerReady = true → s.hw.boot.imageValid = true →
      EventRoom s.hw →
      Completes (.linkAdmit l) s (fun t => t.lstate l = 2 ∧ (t.getLink l).credits = buf ∧ (t.getLink l).lastPeer = some m ∧
        (t.getLink l).attempts = 0 ∧ (t.getLink l).reported = false ∧
        ∃ e ∈ t.host.waiting, e.code = 0x6001 ∧ e.arg0 = l ∧ e.arg1 = m % 2 ^ 32)) ∧
    (x.identity = none ∨ x.trained = false ∨ s.hw.lstate l ≠ 1 ∨ x.peerReady = false ∨ s.hw.boot.imageValid = false → Completes (.linkAdmit l) s (fun t => t = s.hw))

/-- O39 (R50, R51, R52, R53, R54, R460): PLAN_ENTRY_FETCHED: with beats running and a plan, a valid entry is held as the next one; an invalid one is counted in BEAT.HELD, with event 0x1024.  PLAN_NEXT.GO: on valid registers the request is pending from this cycle; else it is refused with RESULT 2 or 3 and event 0x1021; with GDDR7 unmapped it is ignored with event 0x8053.  CANCEL ends a pending request with RESULT 4, or, once the edge window that makes the switch has come to its swaps, is too late with event 0x1023.  PLAN_START_ENTRY_VALIDATED holds the start entry, or refuses the request with RESULT 2, or with RESULT 3 where it comes less than 8,192 cycles before the edge window named; PLAN_SWITCH_LATE refuses it so. -/
def Obligations.PlanCommands : Prop :=
  ∀ s : State,
    (s.hw.running = false ∨ s.hw.planLen = 0 ∨ s.hw.beat.next.isSome = true ∨ s.hw.beat.nextBad = true →
      Completes .planEntryFetched s (fun t => t = s.hw)) ∧
    (∀ i r, s.hw.running = true → s.hw.planLen ≠ 0 → s.hw.beat.next = none → s.hw.beat.nextBad = false →
      i = (s.hw.fget F.BEAT_ENTRY_INDEX + 1) % s.hw.planLen → r = s.hw.fetchEntry s.hw.planBase i →
      (r.2.2.1 = none → Completes .planEntryFetched s (fun t => t.beat = { s.hw.beat with next := some r.2.1 })) ∧
      (∀ off, r.2.2.1 = some off → EventRoom r.1 → Completes .planEntryFetched s (fun t => t.beat = { s.hw.beat with nextBad := true } ∧
        t.rd .BEAT_HELD 0 = satAdd (s.hw.rd .BEAT_HELD 0) 1 ∧
        ∃ e ∈ t.host.waiting, e.code = 0x1024 ∧ e.arg0 = i % 2 ^ 32 ∧ e.arg1 = off % 2 ^ 32))) ∧
    (∀ len at_, len = s.hw.fget F.BEAT_NEXT_LEN_LEN → at_ = s.hw.rd64 .BEAT_NEXT_AT_LO .BEAT_NEXT_AT_HI →
      (s.hw.regsLive = false ∨ s.hw.flag F.BEAT_PLAN_NEXT_GO = true → Completes .planNextGo s (fun t => t = s.hw)) ∧
      (s.hw.regsLive = true → s.hw.flag F.BEAT_PLAN_NEXT_GO = false → s.hw.capacity = 0 → EventRoom s.hw →
        Completes .planNextGo s (fun t => Raises s.hw t 0x8053 0x4_002C 0 ∧ t.beat = s.hw.beat ∧ RegsKeptEv [] s.hw t)) ∧
      (s.hw.regsLive = true → s.hw.flag F.BEAT_PLAN_NEXT_GO = false → s.hw.capacity ≠ 0 →
        ((len = 0 ∨ 4096 < len ∨ len ≤ s.hw.fget F.BEAT_NEXT_LEN_START ∨ (s.hw.level = 1 ∧ at_ ≠ 0)) → EventRoom s.hw →
          Completes .planNextGo s (fun t => t.fget F.BEAT_PLAN_NEXT_RESULT = 2 ∧ t.beat.pendingGo = none ∧ Raises s.hw t 0x1021 2 0xFFFF)) ∧
        (0 < len → len ≤ 4096 → s.hw.fget F.BEAT_NEXT_LEN_START < len → (s.hw.level = 1 → at_ = 0) →
          (at_ ≠ 0 → s.hw.cyclesTo at_ < 8192 → EventRoom s.hw → Completes .planNextGo s (fun t =>
            t.fget F.BEAT_PLAN_NEXT_RESULT = 3 ∧ t.beat.pendingGo = none ∧ Raises s.hw t 0x1021 3 0xFFFF)) ∧
          ((at_ ≠ 0 → 8192 ≤ s.hw.cyclesTo at_) → Completes .planNextGo s (fun t => t.flag F.BEAT_PLAN_NEXT_GO = true ∧
            RegsKept [.BEAT_PLAN_NEXT] s.hw t ∧
            t.beat = { s.hw.beat with pendingGo := some s.hw.test.moved, start := none, switchAt := at_ }))))) ∧
    (s.hw.regsLive = true → s.hw.beat.pendingGo.isSome = true →
      (s.hw.beat.edge.step ≤ 3 ∨ s.hw.beat.edge.sw = false → Completes .planNextCancel s (fun t =>
        t.beat = { s.hw.beat with pendingGo := none, start := none, switchAt := 0 } ∧ t.flag F.BEAT_PLAN_NEXT_GO = false ∧
        t.fget F.BEAT_PLAN_NEXT_RESULT = 4 ∧ RegsKept [.BEAT_PLAN_NEXT] s.hw t)) ∧
      (3 < s.hw.beat.edge.step → s.hw.beat.edge.sw = true → EventRoom s.hw → Completes .planNextCancel s (fun t =>
        Raises s.hw t 0x1023 s.hw.beatNo 0 ∧ t.beat = s.hw.beat ∧ RegsKeptEv [] s.hw t))) ∧
    (∀ r, s.hw.beat.pendingGo.isSome = true → s.hw.beat.start = none →
      r = s.hw.fetchEntry s.hw.nextBase (s.hw.fget F.BEAT_NEXT_LEN_START) →
      (s.hw.switchTooLate = false → r.2.2.1 = none → Completes .planStartEntryValidated s (fun t => t.beat = { s.hw.beat with start := some r.2.1 })) ∧
      (∀ off, s.hw.switchTooLate = false → r.2.2.1 = some off → EventRoom r.1 → Completes .planStartEntryValidated s (fun t =>
        t.fget F.BEAT_PLAN_NEXT_RESULT = 2 ∧ t.flag F.BEAT_PLAN_NEXT_GO = false ∧ t.beat.pendingGo = none ∧
        ∃ e ∈ t.host.waiting, e.code = 0x1021 ∧ e.arg0 = 2 ∧ e.arg1 = off % 2 ^ 32)) ∧
      (s.hw.beat.switchAt ≠ 0 → s.hw.cyclesTo s.hw.beat.switchAt < 8192 → EventRoom s.hw →
        ∀ c ∈ [Instr.planStartEntryValidated, .planSwitchLate], Completes c s (fun t =>
        t.fget F.BEAT_PLAN_NEXT_RESULT = 3 ∧ t.flag F.BEAT_PLAN_NEXT_GO = false ∧ t.beat.pendingGo = none ∧ Raises s.hw t 0x1021 3 0xFFFF)))

/-- O40 (R49, R55, R57, R59): FRAME_STAGED: the incoming frame of a tile that stands in the pool is staged; the frame saved in the last edge window is written back, its state bytes then being free values with good check bytes.  PARTITION_FILLED: an incoming partition with no backing is filled with zeros, and one with a backing with the bytes there.  BUDGET_EXHAUSTED: a bound queue whose budget has run out issues no more in this beat. -/
def Obligations.FramesAndPartitions : Prop :=
  ∀ (s : State) (k : Fin 512) (q : Fin 4), s.hw.running = true →
    (∀ e f, s.hw.incoming = some e → s.hw.frameFor e k = some f → (s.hw.getTile k).frame ≠ some f → s.hw.inPool f = true →
      s.hw.frameAddr f + 0x8000 ≤ s.hw.capacity →
      (s.hw.mem.cells.any (fun c => decide ((s.hw.frameState f).1 ≤ c.1) && decide (c.1 ≤ (s.hw.frameState f).2))) = false →
      Completes (.frameStaged k false) s (fun t => (t.getTile k).staged = some (f, s.hw.getFrame f) ∧
        (t.getTile k).stagedDross = (s.hw.readFrame f).2.2.1 ∧ (Clean s.hw → (t.getTile k).stagedDross = none ∧ t.mem = s.hw.mem))) ∧
    (∀ f, (s.hw.getTile k).writeBack = some f → s.hw.frameAddr f + 0x8000 ≤ s.hw.capacity → s.hw.fget F.TWIN_STATUS_STATE ≠ 4 →
      Completes (.frameStaged k true) s (fun t => (t.getTile k).writeBack = none ∧
        (∀ i, s.hw.frameAddr f + 0x40 ≤ i → i < s.hw.frameAddr f + 0x6040 → t.mem.goodByte i = Config.freeByte s.hw.free i) ∧
        (∀ i, i < s.hw.frameAddr f + 0x40 ∨ s.hw.frameAddr f + 0x6040 ≤ i → t.mem.byte i = s.hw.mem.byte i))) ∧
    (∀ r p key, p = s.hw.physOf k → key = storeKey p (r.pbase * 4096) → s.Ok →
      (s.hw.getPhys p).resident.find? (fun r => r.stream == (s.hw.getQueue k q).bind.stream && r.pbase == (s.hw.getQueue k q).bind.pbase &&
        r.psize == (s.hw.getQueue k q).bind.psize && !r.filled) = some r →
      (r.backing = 0 → Completes (.partitionFilled k q) s (fun t => { r with filled := true } ∈ (t.getPhys p).resident ∧
        ∀ i < r.psize * 4096, t.mem.goodByte (key + i) = 0)) ∧
      (r.backing ≠ 0 → r.backing % 8 = 0 → r.backing + r.psize * 4096 ≤ s.hw.capacity → s.hw.mu.offline = [] →
        Completes (.partitionFilled k q) s (fun t => { r with filled := true } ∈ (t.getPhys p).resident ∧
          ∀ i < r.psize * 4096, t.mem.goodByte (key + i) = s.hw.mem.goodByte (r.backing + i)))) ∧
    ((s.hw.getQueue k q).bound = true → (s.hw.getQueue k q).spent = false → (s.hw.getQueue k q).bind.budget ≠ 0 →
      (s.hw.getQueue k q).bind.budget * 64 ≤ s.hw.beat.cycle → (s.hw.beat.cycle : Int) < s.hw.windowEnd →
      Completes (.budgetExhausted k q) s (fun t => (t.getQueue k q).spent = true ∧ (t.getQueue k q).why = 5)) ∧
    ((s.hw.getQueue k q).bound = false ∨ (s.hw.getQueue k q).spent = true ∨ (s.hw.getQueue k q).bind.budget = 0 ∨
      s.hw.beat.cycle < (s.hw.getQueue k q).bind.budget * 64 → Completes (.budgetExhausted k q) s (fun t => t = s.hw))

/-- O41 (R67, R68, R71, R73): BEAT_MARKER: a marker of another group or beat length is ignored with event 0x1044, and one of a module that is neither the master nor the backup without (log 37); a member takes the phase, the number and the master of a marker on its primary link, and not of one on its secondary link unless it is on that link.  A master that hears the backup master leaves its own beat and rejoins as a member.  MARKER_PRIMARY_LOSS, LEAVE_BEAT_GROUP and BACKUP_MASTER_TAKEOVER: after 4, BEAT.HOLDOVER and 8 beats without markers a member goes to its secondary link, leaves its group, or, where it is the backup master, becomes master, with events 0x1042, 0x1041 and 0x1043; before that they do nothing. -/
def Obligations.BeatGroups : Prop :=
  ∀ s : State,
    (∀ (l : Fin 64) (g m : BitVec 12) (log2 : BitVec 5) (off : BitVec 16) (n : BitVec 64), s.hw.running = true →
      (s.hw.fget F.BEAT_GROUP_GROUP_ID = 0xFFF ∨ g.toNat ≠ s.hw.fget F.BEAT_GROUP_GROUP_ID ∨ log2.toNat ≠ s.hw.fget F.BEAT_LEN_LOG2 →
        EventRoom s.hw → Completes (.beatMarker l g m log2 off n) s (fun t => Raises s.hw t 0x1044 l g.toNat ∧ t.beat = s.hw.beat ∧
          RegsKeptEv [] s.hw t)) ∧
      (s.hw.fget F.BEAT_GROUP_GROUP_ID ≠ 0xFFF → g.toNat = s.hw.fget F.BEAT_GROUP_GROUP_ID → log2.toNat = s.hw.fget F.BEAT_LEN_LOG2 →
        (∀ hm : m.toNat = s.hw.beat.master ∨ m.toNat = s.hw.beat.backup, s.hw.flag F.BEAT_STATUS_MASTER = false →
        s.hw.flag F.BEAT_STATUS_GROUPED = true →
        (l.val = s.hw.fget F.BEAT_UPLINK_PRIMARY → Completes (.beatMarker l g m log2 off n) s (fun t =>
          t.beat.phase = some (s.hw.phaseError l off.toNat) ∧ t.beat.marker = some (n.toNat, m.toNat, l.val) ∧
          t.beat.gotPrimary = true ∧ t.beat.gotAny = true ∧ t.beat.gotMaster = true ∧
          t.fget F.BEAT_GROUP_MASTER = m.toNat ∧ t.flag F.BEAT_UPLINK_ON_SECONDARY = false ∧
          (s.hw.flag F.LNK_LSTATE_PEER_VALID l = true → s.hw.fget F.LNK_LSTATE_PEER l = m.toNat → t.fget F.BEAT_GROUP_DEPTH = 1))) ∧
        (l.val ≠ s.hw.fget F.BEAT_UPLINK_PRIMARY → l.val = s.hw.fget F.BEAT_UPLINK_SECONDARY →
          s.hw.flag F.BEAT_UPLINK_ON_SECONDARY = false → Completes (.beatMarker l g m log2 off n) s (fun t =>
            t.beat.gotAny = true ∧ t.beat.gotPrimary = s.hw.beat.gotPrimary ∧ t.beat.phase = s.hw.beat.phase ∧
            t.beat.marker = s.hw.beat.marker ∧ RegsKept [] s.hw t))) ∧
        (m.toNat ≠ s.hw.beat.master → m.toNat ≠ s.hw.beat.backup → Completes (.beatMarker l g m log2 off n) s (fun t =>
          t.beat = s.hw.beat ∧ RegsKept [] s.hw t)) ∧
        (s.hw.flag F.BEAT_STATUS_MASTER = true → s.hw.me = s.hw.beat.master → m.toNat = s.hw.beat.backup → m.toNat ≠ s.hw.me →
          l.val = s.hw.fget F.BEAT_UPLINK_PRIMARY → Completes (.beatMarker l g m log2 off n) s (fun t =>
            t.flag F.BEAT_STATUS_MASTER = false ∧ t.flag F.BEAT_STATUS_GROUPED = false ∧ t.beat.outside = true ∧ t.beat.rejoining = true ∧
            t.fget F.BEAT_GROUP_MASTER = m.toNat)))) ∧
    (s.hw.running = true → s.hw.flag F.BEAT_STATUS_GROUPED = true → s.hw.flag F.BEAT_STATUS_MASTER = false →
      (s.hw.flag F.BEAT_UPLINK_ON_SECONDARY = false → 4 ≤ s.hw.beat.missPrimary → EventRoom s.hw → Completes .markerPrimaryLoss s (fun t =>
        t.flag F.BEAT_UPLINK_ON_SECONDARY = true ∧ Raises s.hw t 0x1042 (s.hw.fget F.BEAT_UPLINK_SECONDARY) 0 ∧
        RegsKeptEv [.BEAT_UPLINK] s.hw t ∧ t.beat = s.hw.beat)) ∧
      (s.hw.fget F.BEAT_HOLDOVER_BEATS ≤ s.hw.beat.missAny → EventRoom s.hw → Completes .leaveBeatGroup s (fun t =>
        t.beat = { s.hw.beat with outside := true, rejoining := false, phase := none } ∧ t.flag F.BEAT_STATUS_GROUPED = false ∧
        t.flag F.BEAT_STATUS_HOLDOVER = false ∧ Raises s.hw t 0x1041 s.hw.beatNo 0 ∧ RegsKeptEv [.BEAT_STATUS] s.hw t)) ∧
      (s.hw.beat.backup = s.hw.me → 8 ≤ s.hw.beat.missMaster → EventRoom s.hw → Completes .backupMasterTakeover s (fun t =>
        t.flag F.BEAT_STATUS_MASTER = true ∧ t.flag F.BEAT_STATUS_GROUPED = true ∧ t.fget F.BEAT_GROUP_MASTER = s.hw.me ∧
        t.fget F.BEAT_GROUP_DEPTH = 0 ∧ Raises s.hw t 0x1043 s.hw.beatNo s.hw.me ∧ RegsKeptEv [.BEAT_STATUS, .BEAT_GROUP] s.hw t))) ∧
    (s.hw.beat.missPrimary < 4 → Completes .markerPrimaryLoss s (fun t => t = s.hw)) ∧
    (s.hw.beat.missAny < s.hw.fget F.BEAT_HOLDOVER_BEATS → Completes .leaveBeatGroup s (fun t => t = s.hw)) ∧
    (s.hw.beat.missMaster < 8 ∨ s.hw.beat.backup ≠ s.hw.me → Completes .backupMasterTakeover s (fun t => t = s.hw))

/-- O42 (R38, R39, R50, R53, R67, R68, R235): With beats running, EDGE_WINDOW makes the steps of the edge window that the clock has not begun and begins the next beat: its cycle is 0, its trim within eight cycles either way, no shadow field is marked as changed in it, and a master has its marker waiting on every admitted link.  After step 4, outside a join, the beat number advances by one; the plan switches to the entry that the window took, with RESULT 1 and event 0x1020, or its index advances and the entry is in force, HELD saying whether it is held.  After step 7 the beat takes the number and the trim that step 5 gave.  Before beats run EDGE_WINDOW does nothing. -/
def Obligations.EdgeWindow : Prop :=
  ∀ (s : State) (e : EdgeRun), e = s.hw.beat.edge →
    (s.hw.running = false → Completes .edgeWindow s (fun t => t = s.hw)) ∧
    (s.hw.running = true →
      Completes .edgeWindow s (fun t => t.beat.cycle = 0 ∧ t.beat.edge = EdgeRun.none ∧ -8 ≤ t.trim ∧ t.trim ≤ 8 ∧
        (∀ n, (t.getStream n).shadowDirty = false) ∧
        (t.flag F.BEAT_STATUS_MASTER = true → t.level = 2 → ∀ l ∈ t.admittedLinks, t.markerRec t.me t.beatNo ∈ (t.getLink l).records)) ∧
      (e.step = 5 → s.hw.beat.joining = false → s.hw.beat.rejoining = false → Completes .edgeWindow s (fun t =>
        t.beatNo = (s.hw.beatNo + 1) % 2 ^ 64 ∧
        (e.sw = false → s.hw.planLen ≠ 0 → s.hw.planLen ≤ 4096 → t.beat.cur = e.inc.getD Entry.empty ∧
          t.fget F.BEAT_ENTRY_INDEX = (s.hw.fget F.BEAT_ENTRY_INDEX + 1) % s.hw.planLen ∧ t.flag F.BEAT_STATUS_HELD = s.hw.beat.nextBad ∧
          t.beat.next = none ∧ t.beat.nextBad = false ∧ t.planBase = s.hw.planBase) ∧
        (e.sw = true → t.beat.cur = e.inc.getD Entry.empty ∧ t.planBase = s.hw.nextBase ∧ t.planLen = s.hw.fget F.BEAT_NEXT_LEN_LEN ∧
          t.fget F.BEAT_ENTRY_INDEX = s.hw.fget F.BEAT_NEXT_LEN_START ∧ t.fget F.BEAT_PLAN_NEXT_RESULT = 1 ∧
          t.flag F.BEAT_PLAN_NEXT_GO = false ∧ t.beat.pendingGo = none ∧
          Tells s.hw t 0x1020 (s.hw.beatNo + 1) (s.hw.fget F.BEAT_NEXT_LEN_START)))) ∧
      (e.step = 8 → Completes .edgeWindow s (fun t => t.beatNo = e.number % 2 ^ 64 ∧ t.trim = max (-8) (min 8 e.trim))))

/-- O43 (R243, R273, R282, R289, R294, R459): READY opens its job's round where it may and waits for COMMAND_COMPLETE.  COMMIT_WAIT for a step that is decided waits for COMMAND_COMPLETE, with the outcome of the last step or 0, and for a later step stays in flight.  An APPLY that passes its checks does its prepare, and leaves the record of it with its layer; a write APPLY writes the recorded prepare; outside FULL service APPLY waits with PARAM. -/
def Obligations.CommitCommands : Prop :=
  ∀ (s : State) (k : Fin 512) (q : Fin 4) (h : Head) (j step : Nat), HomeOn s.hw k h.n → j = s.hw.jobOf h.n → step = Com.param64 h.w 0 →
    (Ready s.hw k q 0x61 h → Completes (.ready k q) s (fun t => Issued t k h 0 ∧ NextInLine s.hw t k q h ∧ MemAsTaken s.hw t k h ∧
      (s.hw.level = 2 → s.hw.roundOpen j = false → s.hw.lastStep j < step →
        step < 0xFFFF_FFFF_FFFF_FFFF → t.roundOpen j = true ∧ t.readySent j = false ∧ (t.getJob j).step = step ∧ (t.getJob j).ready = 0 ∧
          (t.getJob j).layers = 0 ∧ (t.getJob j).digest = 0))) ∧
    (Ready s.hw k q 0x62 h →
      (step ≤ s.hw.lastStep j → Completes (.commitWait k q) s (fun t => NextInLine s.hw t k q h ∧ MemAsTaken s.hw t k h ∧
        Issued t k h 0 ∧ ∃ f ∈ (t.ctxOn k h.n).flight, f.num = h.ctx.issued.toNat ∧ f.cmd = h.w ∧ f.stage = .done 0 ∧
          f.latched = (if step = s.hw.lastStep j then s.hw.fget F.UPD_JOB_OUTCOME_LAST j else 0))) ∧
      (s.hw.lastStep j < step → Completes (.commitWait k q) s (fun t => NextInLine s.hw t k q h ∧ MemAsTaken s.hw t k h ∧
        ∃ f ∈ (t.ctxOn k h.n).flight, f.num = h.ctx.issued.toNat ∧ f.cmd = h.w ∧ f.stage = .running))) ∧
    (∀ (x : Cmd) (s1 s2 : Hw) (l : Nat), Ready s.hw k q 0x60 h → Clean s.hw → x = { s.hw.cmdAt k q h with latched := 0 } →
      s1 = s.hw.taken k q h → s2 = (if s1.writeApply h.w then s1 else s1.openRound j (applyStep h.w)) → l = applyLayer h.w →
      (s.hw.level ≠ 2 → Completes (.apply k q) s (fun t => Issued t k h St.param ∧ NextInLine s.hw t k q h ∧ t.mem = s.hw.mem)) ∧
      (s.hw.level = 2 → ∀ (e : LayerEnt) (a : ApplyJob), s2.layerOk l = some e →
        a = { l := l, e := e, lay := x.lay, live := s2.dual && (s2.getLayer l).epoch, dual := s2.dual } → (s2.applyChecks x a).2 = 0 →
        (∀ s4, s1.writeApply h.w = false → ((s2.applyChecks x a).1.applyRound x a).2 = 0 → s4 = ((s2.applyChecks x a).1.applyRound x a).1 →
          Completes (.apply k q) s (fun t => (∃ st, Issued t k h st) ∧ NextInLine s.hw t k q h ∧ t.mem = (s4.prepare x a).mem ∧
            ∃ r, (t.getLayer l).prep = some r ∧ r.step = applyStep h.w ∧ r.job = j ∧ r.t = s.hw.jobT j ∧ r.gexp = (s.hw.getLayer l).gexp ∧
              r.eta = (s.hw.rd .UPD_STEPSIZE (LayerEnt.group e)).toNat)) ∧
        (s1.writeApply h.w = true → (s.hw.getLayer l).mayWrite = false → Completes (.apply k q) s (fun t => (∃ st, Issued t k h st) ∧
          NextInLine s.hw t k q h ∧ t.mem = ((s2.applyChecks x a).1.writeAgain x a).mem)) ∧
        (s1.writeApply h.w = true → (s.hw.getLayer l).mayWrite = true → Completes (.apply k q) s (fun t => Issued t k h 0 ∧
          NextInLine s.hw t k q h ∧ t.mem = s.hw.mem))))

/-- O44 (R271, R289, R290, R291, R292, R295): READY_MESSAGE: the root holds a message of its open round, ignores a second one with event 0x3014, and decides with the last one; one of a step that it has decided before raises event 0x3014 and is answered with that decision; ROOT_COMMIT_TIMEOUT: it decides at the timeout.  READY_MESSAGE_SEND and READY_SHORT_TIMEOUT: the module sends its votes to the root, with a refusal if its READY commands fell short.  DECISION: the decision of the round whose READY was sent waits for its edge window.  DECISION_TIMEOUT_ABORT: without one the round ends in ABORT. -/
def Obligations.CommitRounds : Prop :=
  ∀ (s : State) (j : BitVec 12),
    (∀ (l : Fin 64) (src : BitVec 12) (step t : BitVec 64) (votes : BitVec 3) (dig : BitVec 64) (lay : BitVec 8192) (m : ReadyMsg) (x : Job),
      m = { src := src.toNat, t := t.toNat, votes := votes.toNat, digest := dig.toNat, layers := lay } → x = s.hw.getJob j.toNat →
      s.hw.rootHere j.toNat = true → x.rootStep = step.toNat → step ≠ 0 →
      (∀ d, x.lastDecision = some d → d.step < step.toNat) → (x.lastDecision = none → s.hw.lastStep j.toNat < step.toNat) →
      ((∃ e ∈ x.msgs, e.src = src.toNat) ∨ src.toNat ^^^ 1 ∈ x.standing → EventRoom s.hw →
        Completes (.readyMessage l src j step t votes dig lay) s (fun v => Raises s.hw v 0x3014 j.toNat src.toNat ∧ v.jobs = s.hw.jobs)) ∧
      ((∀ e ∈ x.msgs, e.src ≠ src.toNat) → src.toNat ^^^ 1 ∉ x.standing →
        (({ x with msgs := x.msgs ++ [m] } : Job).held < s.hw.fget F.UPD_JOB_SHARDS_SHARDS j.toNat →
          Completes (.readyMessage l src j step t votes dig lay) s (fun v => v.getJob j.toNat = { x with msgs := x.msgs ++ [m] })) ∧
        (s.hw.fget F.UPD_JOB_SHARDS_SHARDS j.toNat ≤ ({ x with msgs := x.msgs ++ [m] } : Job).held →
          Completes (.readyMessage l src j step t votes dig lay) s (fun v => Decided s.hw v j.toNat step.toNat (x.msgs ++ [m]))))) ∧
    (∀ (l : Fin 64) (src : BitVec 12) (step t : BitVec 64) (votes : BitVec 3) (dig : BitVec 64) (lay : BitVec 8192) (last d : Decision),
      s.hw.rootHere j.toNat = true → (s.hw.getJob j.toNat).lastDecision = some last → step.toNat ≤ last.step →
      List.find? (fun d => d.step == step.toNat) (s.hw.getJob j.toNat).past = some d → EventRoom s.hw →
      Completes (.readyMessage l src j step t votes dig lay) s (fun v => Raises s.hw v 0x3014 j.toNat src.toNat ∧ v.jobs = s.hw.jobs ∧
        (src.toNat ≠ s.hw.me → LongSent v src.toNat 0x11 (decisionBytes j.toNat d)))) ∧
    (s.hw.rootHere j.toNat = true → (s.hw.getJob j.toNat).rootStep ≠ 0 →
      s.hw.fget F.UPD_COMMIT_TIMEOUT_BEATS ≤ (s.hw.getJob j.toNat).rootAge → Completes (.rootCommitTimeout j) s (fun t =>
        Decided s.hw t j.toNat (s.hw.getJob j.toNat).rootStep (s.hw.getJob j.toNat).msgs)) ∧
    (∀ x, x = s.hw.getJob j.toNat → s.hw.flag F.UPD_JOB_CTL_EN j.toNat = true → s.hw.roundOpen j.toNat = true → s.hw.readySent j.toNat = false →
      s.hw.draining = false →
      (s.hw.fget F.UPD_JOB_SHARDS_LOCAL j.toNat ≤ x.ready → s.hw.applying j.toNat = false → Completes (.readyMessageSend j) s (fun t =>
        t.readySent j.toNat = true ∧ (s.hw.fget F.UPD_JOB_CTL_ROOT j.toNat ≠ s.hw.me →
          LongSent t (s.hw.fget F.UPD_JOB_CTL_ROOT j.toNat) 0x10 (readyBytes j.toNat x.step (s.hw.readyOf j.toNat (s.hw.groupsStale j.toNat) x.refused))))) ∧
      (x.ready < s.hw.fget F.UPD_JOB_SHARDS_LOCAL j.toNat → s.hw.fget F.UPD_COMMIT_TIMEOUT_BEATS ≤ x.age → EventRoom s.hw →
        Completes (.readyShortTimeout j) s (fun t => t.readySent j.toNat = true ∧
          (∃ e ∈ t.host.waiting, e.code = 0x3015 ∧ e.arg0 = j.toNat ∧ e.arg1 = x.ready % 2 ^ 32) ∧
          (s.hw.fget F.UPD_JOB_CTL_ROOT j.toNat ≠ s.hw.me →
            LongSent t (s.hw.fget F.UPD_JOB_CTL_ROOT j.toNat) 0x10 (readyBytes j.toNat x.step (s.hw.readyOf j.toNat (s.hw.groupsStale j.toNat) true)))))) ∧
    (∀ (l : Fin 64) (step : BitVec 64) (o : BitVec 2) (g : BitVec 12) (flip : BitVec 64) (exps : BitVec 8192),
      (s.hw.roundOpen j.toNat = true → s.hw.readySent j.toNat = true → (s.hw.getJob j.toNat).step = step.toNat →
        (s.hw.getJob j.toNat).due = none → o ≠ 0 → Completes (.decision l j step o g flip exps) s (fun t =>
          (t.getJob j.toNat).due = some
            { step := step.toNat, outcome := o.toNat, group := g.toNat, flip := flip.toNat, exps := exps, layers := [],
              beat := s.hw.beatNo, cycle := s.hw.beat.cycle })) ∧
      (s.hw.roundOpen j.toNat = false ∨ s.hw.readySent j.toNat = false ∨ (s.hw.getJob j.toNat).step ≠ step.toNat →
        Completes (.decision l j step o g flip exps) s (fun t => t.jobs = s.hw.jobs ∧ t.mem = s.hw.mem))) ∧
    (s.hw.roundOpen j.toNat = true → s.hw.readySent j.toNat = true → (s.hw.getJob j.toNat).due = none →
      s.hw.fget F.UPD_COMMIT_TIMEOUT_BEATS + 4 ≤ (s.hw.getJob j.toNat).sentAge → EventRoom s.hw → Completes (.decisionTimeoutAbort j) s (fun t =>
        t.roundOpen j.toNat = false ∧ t.fget F.UPD_JOB_OUTCOME_LAST j.toNat = 3 ∧ t.lastStep j.toNat = (s.hw.getJob j.toNat).step % 2 ^ 64 ∧
        t.rd .UPD_ABORTS 0 = satAdd (s.hw.rd .UPD_ABORTS 0) 1 ∧
        ∃ e ∈ t.host.waiting, e.code = 0x3013 ∧ e.arg0 = j.toNat ∧ e.arg1 = (s.hw.getJob j.toNat).step % 2 ^ 32))

/-- O45 (R305, R306, R310): JOB_ABORT: a message not seen before, with life left, faults every stream of its job on the module, raises event 0x4002, counts in FLT.JOB_ABORTS and lets the job's round end in ABORT; one seen within the last 64 beats does nothing more.  STORE_CORRECTION_WRITEBACK: the word waiting is corrected in the store and counted; no byte that a reader gets changes. -/
def Obligations.AbortsAndCorrections : Prop :=
  (∀ (s : State) (l : Fin 64) (j origin : BitVec 12) (seq : BitVec 16) (beat : BitVec 32) (life : BitVec 16) (hops : BitVec 5),
    ((∀ e ∈ s.hw.lnk.aborts, s.hw.beatNo < e.2.2 + 64 → ¬ (e.1 = origin.toNat ∧ e.2.1 = seq.toNat)) → s.hw.streamsOfJob j.toNat ≠ [] →
      s.hw.lifeUnits (s.hw.delayCycles (s.hw.fget F.LNK_DELAY_CYCLES l)) < life.toNat → EventRoom s.hw →
      Completes (.jobAbort l j origin seq beat life hops) s (fun t =>
        (∀ n ∈ s.hw.streamsOfJob j.toNat, t.flag F.STRM_STATE_FAULTED n = true ∧
          (s.hw.flag F.STRM_STATE_FAULTED n = false → t.fget F.STRM_STATE_CAUSE n = 7)) ∧
        (t.getJob j.toNat).abortDue = true ∧ t.rd .FLT_JOB_ABORTS 0 = satAdd (s.hw.rd .FLT_JOB_ABORTS 0) 1 ∧
        Raises s.hw t 0x4002 origin.toNat beat.toNat ∧ t.mem = s.hw.mem)) ∧
    ((∃ e ∈ s.hw.lnk.aborts, s.hw.beatNo < e.2.2 + 64 ∧ e.1 = origin.toNat ∧ e.2.1 = seq.toNat) →
      Completes (.jobAbort l j origin seq beat life hops) s (fun t => t = s.hw.takeRecord l 0x05))) ∧
  (∀ (s : State) (p : Fin 576) (w : BitVec 19) (off : Nat), off = w.toNat * 8 →
    (off ∉ (s.hw.getPhys p).writeback → Completes (.storeCorrectionWriteback p w) s (fun t => t = s.hw)) ∧
    (off ∈ (s.hw.getPhys p).writeback → Completes (.storeCorrectionWriteback p w) s (fun t => off ∉ (t.getPhys p).writeback ∧
      (∀ a, t.mem.goodByte a = s.hw.mem.goodByte a) ∧
      (s.hw.mem.singleBit (storeKey p off / 8) = true → t.mem.syndrome (storeKey p off / 8) = .clean ∧
        t.rd .FLT_CE_STORE 0 = satAdd (s.hw.rd .FLT_CE_STORE 0) 1) ∧
      (s.hw.mem.singleBit (storeKey p off / 8) = false → t.mem = s.hw.mem ∧ t.rd .FLT_CE_STORE 0 = s.hw.rd .FLT_CE_STORE 0))))

/-- O46 (R313, R314, R317, R318, R319, R320, R325): ASSAY_PART_DONE: a part that passes leads to the next part, one that fails is run again, and one that fails again is a confirmed failure, which puts the tile under observation with event 0x4021; a full assay that passes clears the touch log and counts.  TITHE_IMPOSED: a tile about to pass its period is given its beats, with event 0x4020.  OBSERVATION_ASSAY_DONE: a part that fails is run again, and one that fails again counts as a failure of the observed tile, in service or spare.  OBSERVATION_WINDOW_END: without failures observation ends with event 0x4023; with failures a further window follows with event 0x4024, after which the tile is to be retired. -/
def Obligations.AssayAndObservation : Prop :=
  ∀ (s : State) (p : Fin 576) (x : Phys), x = s.hw.getPhys p → s.hw.test.inj = none →
    (∀ (good : Bool) (a b : BitVec 64) (ok : Bool), s.hw.assayOn p = true → x.part < 6 → x.part ≠ 1 →
      ok = (good && (x.part != 5 || (s.hw.runFleets p).2) && (x.part != 0 || (a == b && (Sparse.find? s.hw.flt.refs x.seed).all (fun r => r == a.toNat)))) →
      (ok = true → x.rerun = false → x.part < 5 → ¬ (x.part = 4 ∧ x.setCount = 0) → Completes (.assayPartDone p good a b) s (fun t =>
        t.getPhys p = { x with part := x.part + 1 } ∧ t.regs = s.hw.regs ∧ t.host = s.hw.host)) ∧
      (ok = true → x.rerun = false → x.part = 5 ∨ (x.part = 4 ∧ x.setCount = 0) → x.assayBad = false →
        x.st ≠ .assaying → Completes (.assayPartDone p good a b) s (fun t =>
          (t.getPhys p).part = 6 ∧ (t.getPhys p).log = [] ∧ (t.getPhys p).touchedAll = false ∧ (t.getPhys p).since = 0 ∧
          (t.getPhys p).lastPass = s.hw.beatNo ∧ t.rd .FLT_ASSAY_PASS 0 = satAdd (s.hw.rd .FLT_ASSAY_PASS 0) 1)) ∧
      (ok = false → x.rerun = false → Completes (.assayPartDone p good a b) s (fun t =>
        t.getPhys p = { x with rerun := true } ∧ (x.part ≠ 5 → t.regs = s.hw.regs ∧ t.host = s.hw.host))) ∧
      (ok = false → x.rerun = true → s.hw.host.waiting.length < 255 → Completes (.assayPartDone p good a b) s (fun t =>
        (x.st ≠ .assaying → (t.getPhys p).observed = true) ∧ t.rd .FLT_ASSAY_FAIL 0 = satAdd (s.hw.rd .FLT_ASSAY_FAIL 0) 1 ∧
        ∃ e ∈ t.host.waiting, e.code = 0x4021 ∧ e.arg0 = pack2 (s.hw.tileName p) x.part))) ∧
    (∀ k : Fin 512, s.hw.physOf k = p →
      (s.hw.running = true → s.hw.admitted k = true → x.tithe = 0 → s.hw.fget F.FLT_ASSAY_PERIOD_BEATS ≤ x.since + 1 + s.hw.assayBeats →
        EventRoom s.hw → Completes (.titheImposed k) s (fun t => t.getPhys p = { x with tithe := s.hw.assayBeats } ∧
          Raises s.hw t 0x4020 k s.hw.assayBeats ∧ RegsKeptEv [] s.hw t)) ∧
      (s.hw.running = false ∨ s.hw.admitted k = false ∨ x.tithe ≠ 0 ∨ x.since + 1 + s.hw.assayBeats < s.hw.fget F.FLT_ASSAY_PERIOD_BEATS →
        Completes (.titheImposed k) s (fun t => t = s.hw))) ∧
    (∀ cross part : Bool, s.hw.running = true → x.observed = true → x.st.serves = true ∨ x.st = .spare → x.obsPart ≠ 1 →
      (x.obsRerun = 0 → cross = true → part = true → Completes (.observationAssayDone p cross part) s (fun t =>
        t = s.hw.setPhys p { x with obsSlice := x.obsSlice + 1, obsRerun := 0 })) ∧
      (x.obsRerun = 0 → cross = false → part = true → Completes (.observationAssayDone p cross part) s (fun t =>
        t.getPhys p = { x with obsSlice := x.obsSlice + 1, obsRerun := 1 } ∧ t.regs = s.hw.regs ∧ t.host = s.hw.host)) ∧
      (bit x.obsRerun 0 = true → cross = false → part = true → Completes (.observationAssayDone p cross part) s (fun t => (t.getPhys p).fails = x.fails + 1 ∧
        t.rd .FLT_ASSAY_FAIL 0 = satAdd (s.hw.rd .FLT_ASSAY_FAIL 0) 1 ∧
        (s.hw.fget F.FLT_OBS_RETIRE ≤ x.fails + 1 → (t.getPhys p).retireDue = true)))) ∧
    (x.observed = true → x.obsLeft = 0 → x.retireDue = false → EventRoom s.hw →
      (x.fails = 0 → Completes (.observationWindowEnd p) s (fun t => t.getPhys p = { x with observed := false, obsFurther := false } ∧
        Raises s.hw t 0x4023 (s.hw.tileName p) 0)) ∧
      (0 < x.fails → x.obsFurther = true → Completes (.observationWindowEnd p) s (fun t => t = s.hw.setPhys p { x with retireDue := true })) ∧
      (0 < x.fails → x.obsFurther = false → Completes (.observationWindowEnd p) s (fun t =>
        t.getPhys p = { x with obsFurther := true, obsLeft := s.hw.fget F.FLT_OBS_BEATS, fails := 0 } ∧
        Raises s.hw t 0x4024 (s.hw.tileName p) x.fails)))

/-- O47 (R327, R328, R329, R330, R348, R384): UNIT_DISABLE: a tile in service that holds a logical tile drains, a spare is out at once with event 0x4050, a channel drains or is refused with event 0x5032, an admitted link drains, and a link not admitted is out.  UNIT_ENABLE: of a unit that is out or retired it waits for its edge, of a draining one it is pending with event 0x4051, and of any other it is refused with event 0x4055.  UNIT_DRAIN_COMPLETE: the drained unit is out, with event 0x4050.  UNIT_RETURN_ASSAY_DONE: a unit that fails its assay is out again with event 0x4053, and a tile that passes returns at its edge. -/
def Obligations.UnitsOutAndBack : Prop :=
  ∀ (s : State) (kind i : Nat), i < unitCount kind →
    (∀ hk : kind = s.hw.fget F.FLT_UNIT_SEL_KIND, i = s.hw.fget F.FLT_UNIT_SEL_INDEX → s.hw.regsLive = true → s.hw.unitPending kind i = false →
      (∀ k, kind = 0 → s.hw.unitSt kind i = .in_ → s.hw.logicalOf i = some k → Completes .unitDisable s (fun t =>
        t.unitSt kind i = .draining ∧ (t.getPhys i).disable = true ∧ (k, i) ∈ t.flt.wanted ∧ t.regs = s.hw.regs)) ∧
      (kind = 0 → s.hw.unitSt kind i = .spare → EventRoom s.hw → Completes .unitDisable s (fun t =>
        t.unitSt kind i = .out ∧ Raises s.hw t 0x4050 kind i ∧ RegsKeptEv [] s.hw t)) ∧
      (kind = 1 → s.hw.unitSt kind i = .in_ →
        (s.hw.channelRefusal ≠ 0 → EventRoom s.hw → Completes .unitDisable s (fun t =>
          Raises s.hw t 0x5032 i s.hw.channelRefusal ∧ t.chans = s.hw.chans ∧ t.mu = s.hw.mu)) ∧
        (s.hw.channelRefusal = 0 → s.hw.mu.props = [] → s.hw.mu.retraining = none → EventRoom s.hw → Completes .unitDisable s (fun t => t.unitSt kind i = .draining ∧
          t.mu.outCh = some i ∧ t.mu.copy = some false ∧ t.mu.copyRow = 0 ∧ Raises s.hw t 0x5030 i 0)) ∧
        (s.hw.channelRefusal = 0 → s.hw.mu.props = [] → s.hw.mu.retraining.isSome = true → Completes .unitDisable s (fun t =>
          t.unitSt kind i = .draining ∧ t.mu.outCh = some i ∧ t.mu.copy = none ∧ t.mu.copyDue = some false ∧ t.host = s.hw.host))) ∧
      (kind = 2 → s.hw.unitSt kind i = .in_ →
        (s.hw.lstate i = 2 → Completes .unitDisable s (fun t => t.lstate i = 3 ∧ t.unitSt kind i = .draining ∧
          (t.getLink i).replay = (s.hw.getLink i).replay)) ∧
        (s.hw.lstate i ≠ 2 → EventRoom s.hw → Completes .unitDisable s (fun t => t.lstate i = 0 ∧ t.unitSt kind i = .out ∧
          Raises s.hw t 0x4050 kind i))) ∧
      (s.hw.unitSt kind i = .out ∨ s.hw.unitSt kind i = .retired → Completes .unitEnable s (fun t =>
        t.unitSt kind i = s.hw.unitSt kind i ∧ t.unitEnable kind i = true ∧ t.regs = s.hw.regs)) ∧
      (s.hw.unitSt kind i = .draining → EventRoom s.hw → Completes .unitEnable s (fun t =>
        t.unitSt kind i = .draining ∧ t.unitPending kind i = true ∧ Raises s.hw t 0x4051 kind i ∧ RegsKeptEv [] s.hw t)) ∧
      (s.hw.unitSt kind i ∉ [UnitSt.out, .retired, .draining] → EventRoom s.hw → Completes .unitEnable s (fun t =>
        Raises s.hw t 0x4055 kind (pack2 i (s.hw.unitSt kind i).code) ∧ EventsOnly s.hw t ∧ RegsKeptEv [] s.hw t))) ∧
    (∀ (kd : Fin 3) (ix : BitVec 10), kd.val = kind → ix.toNat = i →
      (s.hw.unitSt kind i = .draining → s.hw.drained kind i = true → EventRoom s.hw → Completes (.unitDrainComplete kd ix) s (fun t =>
        t.unitSt kind i = .out ∧ Raises s.hw t 0x4050 kind i ∧ (kind = 2 → t.lstate i = 0))) ∧
      (s.hw.unitSt kind i ≠ .draining ∨ s.hw.drained kind i = false → Completes (.unitDrainComplete kd ix) s (fun t => t = s.hw)) ∧
      (s.hw.unitSt kind i = .assaying → EventRoom s.hw →
        (kind = 0 → (s.hw.getPhys i).returning = false →
          Completes (.unitReturnAssayDone kd ix true) s (fun t => (t.getPhys i).returning = true ∧
            t.rd .FLT_ASSAY_PASS 0 = satAdd (s.hw.rd .FLT_ASSAY_PASS 0) 1) ∧
          Completes (.unitReturnAssayDone kd ix false) s (fun t => t.unitSt kind i = .out ∧ Raises s.hw t 0x4053 kind i)) ∧
        (kind ≠ 0 → (kind = 1 → s.hw.mu.heldAcc = []) →
          Completes (.unitReturnAssayDone kd ix false) s (fun t => t.unitSt kind i = .out ∧ Raises s.hw t 0x4053 kind i)) ∧
        (kind = 1 → s.hw.mu.retraining = none → (s.hw.getChan i).due = none → s.hw.mu.copy = none → s.hw.mu.copyDue = none →
          Completes (.unitReturnAssayDone kd ix true) s (fun t =>
            t = { s.hw with mu := { s.hw.mu with copy := some true, copyDue := none, copyRow := 0 } })) ∧
        (kind = 1 → (s.hw.mu.retraining.map (fun e => e.1)) = some i ∨ (s.hw.getChan i).due.isSome = true →
          Completes (.unitReturnAssayDone kd ix true) s (fun t => t = s.hw)) ∧
        (kind = 2 → s.hw.lstate i = 2 → Completes (.unitReturnAssayDone kd ix true) s (fun t => (t.getLink i).returning = true ∧ t.regs = s.hw.regs))))

/-- O48 (R340, R341, R342, R343): GDDR7_ACCESS_COMPLETE: each replay counts for its channel; a write that has used them all up leaves its atom dross, with event 0x5012; a read counts single-bit errors and changes no memory, and makes dross of an atom with an uncorrectable word, with event 0x5011; a read that has used its replays up is accounted as its words last arrived; an access to a channel that retrains is held.  DEMAND_SCRUB_REWRITE corrects the words of the first queued atom and PATROL_SCRUB goes on to the next position of its pass: outside dross neither changes a byte that a reader gets. -/
def Obligations.MemoryAccesses : Prop :=
  (∀ (s : State) (addr : BitVec 40) (write : Bool) (r : BitVec 3) (ex : Bool) (a c n key : Nat), a = addr.toNat / 128 * 128 →
    s.hw.place a = .gddr key → c = (s.hw.position a).1 → n = min r.toNat (s.hw.fget F.MEM_REPLAY_MAX_TRIES) →
    (s.hw.channelHeld a = true → Completes (.gddr7AccessComplete addr write r ex) s (fun t => t = { s.hw with
      mu := { s.hw.mu with heldAcc := s.hw.mu.heldAcc ++ [{ addr := addr.toNat, write := write, replays := r.toNat, exhausted := ex }] } })) ∧
    (s.hw.channelHeld a = false →
    Completes (.gddr7AccessComplete addr write r ex) s (fun t => t.rd .MEM_CH_REPLAY c = satAdd (s.hw.rd .MEM_CH_REPLAY c) n) ∧
    (write = true → ex = false ∨ n < s.hw.fget F.MEM_REPLAY_MAX_TRIES →
      Completes (.gddr7AccessComplete addr write r ex) s (fun t => t.mem = s.hw.mem ∧ t.host = s.hw.host)) ∧
    (write = true → ex = true → n = s.hw.fget F.MEM_REPLAY_MAX_TRIES → EventRoom s.hw →
      Completes (.gddr7AccessComplete addr write r ex) s (fun t => t.mem = s.hw.mem.markDross a ∧ t.mem.atomDross a = true ∧
        t.rd .FLT_DROSS_MADE 0 = satAdd (s.hw.rd .FLT_DROSS_MADE 0) 1 ∧ Raises s.hw t 0x5012 a (a >>> 32))) ∧
    (write = false → ex = false ∨ n < s.hw.fget F.MEM_REPLAY_MAX_TRIES →
      (∀ w ∈ s.hw.atomErrors a, s.hw.mem.syndrome w ≠ .uncorrectable) →
      Completes (.gddr7AccessComplete addr write r ex) s (fun t => t.mem = s.hw.mem ∧ t.host = s.hw.host ∧
        t.rd .MEM_CH_CE c = satAdd (s.hw.rd .MEM_CH_CE c) ((s.hw.atomErrors a).filter s.hw.mem.singleBit).length)) ∧
    (write = false → ex = false ∨ n < s.hw.fget F.MEM_REPLAY_MAX_TRIES →
      (∃ w ∈ s.hw.atomErrors a, s.hw.mem.syndrome w = .uncorrectable) → EventRoom s.hw →
      Completes (.gddr7AccessComplete addr write r ex) s (fun t => t.mem = s.hw.mem.markDross a ∧ t.mem.atomDross a = true ∧
        (∀ w ∈ s.hw.atomErrors a, s.hw.mem.syndrome w = .uncorrectable → w ∈ t.mu.forwarded) ∧
        ∃ e ∈ t.host.waiting, e.code = 0x5011 ∧ e.arg0 = a % 2 ^ 32 ∧ e.arg1 = a >>> 32)) ∧
    (write = false → ex = true → n = s.hw.fget F.MEM_REPLAY_MAX_TRIES → Completes (.gddr7AccessComplete addr write r ex) s (fun t =>
      t.mem = (if (s.hw.lastArrived a).all (fun e => e.2 != .uncorrectable) then s.hw.mem else s.hw.mem.markDross a) ∧
      t.rd .MEM_CH_CE c = satAdd (s.hw.rd .MEM_CH_CE c) ((s.hw.lastArrived a).filter (fun e => e.2.single)).length)))) ∧
  (∀ (s : State) (c : Fin 40),
    ((s.hw.getChan c).scrubQ = [] ∨ (s.hw.mu.retraining.map (fun e => e.1)) = some c.val → Completes (.demandScrubRewrite c) s (fun t => t = s.hw)) ∧
    (∀ a rest, (s.hw.getChan c).scrubQ = a :: rest → (s.hw.mu.retraining.map (fun e => e.1)) ≠ some c.val → Completes (.demandScrubRewrite c) s (fun t =>
      (t.getChan c).scrubQ = rest ∧ t.regs = s.hw.regs ∧ (∀ i, t.mem.goodByte i = s.hw.mem.goodByte i) ∧
      ∀ w ∈ s.hw.atomErrors a, s.hw.mem.singleBit w = true → t.mem.syndrome w = .clean))) ∧
  (∀ s : State,
    (s.hw.fget F.MEM_SCRUB_RATE_RATE = 0 ∨ s.hw.mu.copy.isSome = true ∨ s.hw.capacity = 0 → Completes .patrolScrub s (fun t => t = s.hw)) ∧
    (s.hw.fget F.MEM_SCRUB_RATE_RATE ≠ 0 → s.hw.mu.copy = none → s.hw.capacity ≠ 0 → Completes .patrolScrub s (fun t =>
      (∀ a, t.mem.atomDross a = true ∨ t.mem.goodByte a = s.hw.mem.goodByte a) ∧
      (s.hw.mu.scrubCh + 1 < 40 → t.mu.scrubCh = s.hw.mu.scrubCh + 1 ∧ t.fget F.MEM_SCRUB_POS_ROW = s.hw.fget F.MEM_SCRUB_POS_ROW) ∧
      (40 ≤ s.hw.mu.scrubCh + 1 → s.hw.fget F.MEM_SCRUB_POS_ROW + 1 < 0x200_0000 → t.mu.scrubCh = 0 ∧
        t.fget F.MEM_SCRUB_POS_ROW = s.hw.fget F.MEM_SCRUB_POS_ROW + 1) ∧
      (40 ≤ s.hw.mu.scrubCh + 1 → s.hw.fget F.MEM_SCRUB_POS_ROW + 1 = 0x200_0000 → t.mu.scrubCh = 0 ∧ t.fget F.MEM_SCRUB_POS_ROW = 0 ∧
        t.mu.pageCe = [] ∧ t.rd .MEM_SCRUB_PASS 0 = satAdd (s.hw.rd .MEM_SCRUB_PASS 0) 1))))

/-- O49 (R344, R345, R346, R349, R350, R352): CHANNEL_RETRAIN_START: a channel in service at the threshold begins retraining with event 0x5020, or within its hold-off raises event 0x5023, or waits while another retrains or a copy runs.  CHANNEL_RETRAIN_DONE and CHANNEL_RETRAIN_TIMEOUT end the retraining with events 0x5021 and 0x5022, after which nothing is held and a copy that waited begins.  RETIREMENT_COPY_DONE unmaps the window with event 0x5031, and RETURN_COPY_DONE leaves the channel to its edge.  PAGE_ACCEPT, PAGE_DECLINE and PAGE_OFFLINED accept or withdraw a proposal, and put an accepted page into the offline table with event 0x5041. -/
def Obligations.ChannelsAndPages : Prop :=
  ∀ s : State,
    (∀ (c : Fin 40) (x : Chan), x = s.hw.getChan c → x.st = .in_ → x.due = none →
      (s.hw.errCount c < s.hw.fget F.MEM_RETRAIN_THR_COUNT → Completes (.channelRetrainStart c) s (fun t => t = s.hw)) ∧
      (s.hw.fget F.MEM_RETRAIN_THR_COUNT ≤ s.hw.errCount c →
        (s.hw.heldOff c = true → EventRoom s.hw → Completes (.channelRetrainStart c) s (fun t => Raises s.hw t 0x5023 c (s.hw.errCount c) ∧
          EventsOnly s.hw t ∧ RegsKeptEv [] s.hw t)) ∧
        (s.hw.heldOff c = false → s.hw.mu.retraining.isSome = true ∨ s.hw.mu.copy.isSome = true ∨ s.hw.mu.copyDue.isSome = true ∨
          (∃ k < c.val, s.hw.retrainWaits k = true) →
          Completes (.channelRetrainStart c) s (fun t => t = s.hw.setChan c { x with due := some 0 })) ∧
        (s.hw.heldOff c = false → s.hw.mu.retraining = none → s.hw.mu.copy = none → s.hw.mu.copyDue = none →
          (∀ k < c.val, s.hw.retrainWaits k = false) → EventRoom s.hw →
          Completes (.channelRetrainStart c) s (fun t => t.mu = { s.hw.mu with retraining := some (c.val, 0) } ∧
            t.getChan c = { x with errs := [] } ∧ Raises s.hw t 0x5020 c 0 ∧ RegsKeptEv [] s.hw t)))) ∧
    (∀ us : BitVec 12, s.hw.mu.retraining.isSome = true → Completes (.channelRetrainDone us) s (fun t =>
      t.mu.retraining = none ∧ t.mu.heldAcc = [] ∧ ∀ back, s.hw.mu.copy = none → s.hw.mu.copyDue = some back →
        t.mu.copy = some back ∧ t.mu.copyDue = none ∧ t.mu.copyRow = 0)) ∧
    (∀ (c cause : Nat) (us : BitVec 12), s.hw.mu.retraining = some (c, cause) → s.hw.mu.heldAcc = [] → s.hw.mu.copyDue = none → EventRoom s.hw →
      Completes (.channelRetrainDone us) s (fun t => t.mu = { s.hw.mu with retraining := none } ∧
        t.getChan c = { s.hw.getChan c with lastRetrain := some s.hw.beatNo, newRate := none, errs := [] } ∧
        t.rd .MEM_CH_RETRAINS c = satAdd (s.hw.rd .MEM_CH_RETRAINS c) 1 ∧ Raises s.hw t 0x5021 c us.toNat ∧
        ((s.hw.getChan c).newRate = none → t.rd .MEM_RATE c = s.hw.rd .MEM_RATE c)) ∧
      (cause ≠ 2 → Completes (.channelRetrainTimeout us) s (fun t => t.mu = { s.hw.mu with retraining := none } ∧
        (t.getChan c).st = (s.hw.getChan c).st ∧ t.rd .MEM_CH_RETRAINS c = satAdd (s.hw.rd .MEM_CH_RETRAINS c) 1 ∧
        Raises s.hw t 0x5022 c us.toNat ∧ t.rd .MEM_RATE c = s.hw.rd .MEM_RATE c))) ∧
    (∀ c, s.hw.mu.outCh = some c →
      (s.hw.mu.copy = some false → EventRoom s.hw → Completes .retirementCopyDone s (fun t => t.mu.windowOff = true ∧ t.mu.copy = none ∧
        t.mu.outCh = some c ∧ (∀ e ∈ t.mu.offline, e.1 ≠ c) ∧ Raises s.hw t 0x5031 c (windowBase >>> 20) ∧
        ∀ a, t.mem.atomDross a = true ∨ t.mem.goodByte a = s.hw.mem.goodByte a)) ∧
      (s.hw.mu.copy = some true → Completes .returnCopyDone s (fun t => t.mu = { s.hw.mu with copy := none } ∧
        (t.getChan c).returning = true ∧ ∀ a, t.mem.atomDross a = true ∨ t.mem.goodByte a = s.hw.mem.goodByte a))) ∧
    (∀ (k : BitVec 4) (c page cause : Nat) (acc : Bool), Sparse.find? s.hw.mu.props k.toNat = some (c, page, cause, acc) → EventRoom s.hw →
      (s.hw.regsLive = true →
        ((s.hw.mu.offline.filter (fun e => e.1 == c)).length + Accepted s.hw c k.toNat < 256 → Completes (.pageAccept k) s (fun t =>
          Sparse.find? t.mu.props k.toNat = some (c, page, cause, true) ∧ t.mu.offline = s.hw.mu.offline ∧ t.regs = s.hw.regs)) ∧
        (256 ≤ (s.hw.mu.offline.filter (fun e => e.1 == c)).length + Accepted s.hw c k.toNat → Completes (.pageAccept k) s (fun t =>
          Sparse.find? t.mu.props k.toNat = none ∧ Raises s.hw t 0x5042 k.toNat 1)) ∧
        (acc = false → Completes (.pageDecline k) s (fun t => Sparse.find? t.mu.props k.toNat = none ∧ Raises s.hw t 0x5042 k.toNat 0)) ∧
        (acc = true → Completes (.pageDecline k) s (fun t => t = s.hw))) ∧
      (acc = true → Completes (.pageOfflined k) s (fun t => Sparse.find? t.mu.props k.toNat = none ∧
        t.mu.offline = s.hw.mu.offline ++ [(c, page)] ∧ Raises s.hw t 0x5041 c page)))

/-- O50 (R439, R445, R446, R447, notes/assumptions/62.md): VERIFY, PROGRAM, READ, PATTERNS and LOG_ERASE with BAR0 open: while an operation runs they raise event 0x9011 and leave it and the flash as they were; with none running, the operation runs, with GO and BUSY set.  Without a staging area it will report LEVEL, with a container that fails its checks BAD with the reason, with one of the other kind BAD with reason 2 and offset 20, and otherwise OK: PROGRAM has then erased the image area and PATTERNS the fleet pattern space, whose first byte it has programmed. -/
def Obligations.FlashOperations : Prop :=
  ∀ (s : State) (keep : Bool), s.hw.bar0Open = true →
    (∀ c op, (c, op) ∈ [(Instr.verify, 1), (.program keep, 2), (.read, 3), (.patterns, 4), (.logErase, 5)] →
      (s.hw.pat.op.isSome = true → EventRoom s.hw → ∃ t : State, exec c s = .next t ∧ t.flash = s.flash ∧ t.fuses = s.fuses ∧
        t.hw.pat.op = s.hw.pat.op ∧ t.hw.mem = s.hw.mem ∧ Raises s.hw t.hw 0x9011 0x2_0058 0) ∧
      (s.hw.pat.op = none → ∃ t : State, exec c s = .next t ∧ t.fuses = s.fuses ∧ (∃ o, t.hw.pat.op = some o ∧ o.op = op ∧ o.recast = false) ∧
        t.hw.fget F.PAT_FLASH_OP = op ∧ t.hw.flag F.PAT_FLASH_GO = true ∧ t.hw.flag F.PAT_STATUS_BUSY = true ∧
        t.hw.fget F.PAT_PROGRESS_BYTES = 0)) ∧
    (s.hw.pat.op = none →
      (s.hw.stageOk = false → ∀ c op, (c, op) ∈ [(Instr.verify, 1), (.program keep, 2), (.read, 3), (.patterns, 4)] →
        ∃ t : State, exec c s = .next t ∧ t.flash = s.flash ∧ t.hw.pat.op = some (patOp op 3 0 0) ∧ t.hw.flag F.PAT_STATUS_LOCKED = false) ∧
      (∃ t : State, exec .logErase s = .next t ∧ t.flash = s.flash ∧ t.hw.pat.op = some (patOp 5 1 0 0)) ∧
      (s.hw.stageOk = true → ∃ t : State, exec .read s = .next t ∧ t.flash = s.flash ∧ t.hw.pat.op = some (patOp 3 1 0 0)) ∧
      (s.hw.stageOk = true →
        (∀ c op h0 r, (c, op, h0) ∈ [(Instr.verify, 1, flashRw 1 none s.hw), (.program keep, 2, flashRw 2 (some keep) s.hw),
            (.patterns, 4, flashRw 4 none s.hw)] → r = (h0.stageCheck s.fuses).2 → r.1 ≠ 0 → ∃ t : State, exec c s = .next t ∧ t.flash = s.flash ∧
          t.hw.flag F.PAT_STATUS_LOCKED = true ∧ ∃ o, t.hw.pat.op = some o ∧ o.code = 2 ∧ o.reason = r.1 ∧ ∀ off, r.2 = some off → o.offset = off) ∧
        (((flashRw 1 none s.hw).stageCheck s.fuses).2.1 = 0 → ∃ t : State, exec .verify s = .next t ∧ t.flash = s.flash ∧
          t.hw.pat.op = some (patOp 1 1 0 0) ∧ t.hw.flag F.PAT_STATUS_LOCKED = true) ∧
        (((flashRw 2 (some false) s.hw).stageCheck s.fuses).2.1 = 0 →
          (s.hw.stageSrc.patterns = true → ∃ t : State, exec (.program false) s = .next t ∧ t.flash = s.flash ∧ t.hw.pat.op = some (patOp 2 2 2 20)) ∧
          (s.hw.stageSrc.patterns = false → ∃ t : State, exec (.program false) s = .next t ∧ t.hw.pat.op = some (patOp 2 1 0 0) ∧
            (∀ a, flashByte t.flash a = if a < 0x100_0000 then 0xFF else flashByte s.flash a))) ∧
        (((flashRw 4 none s.hw).stageCheck s.fuses).2.1 = 0 →
          (s.hw.stageSrc.patterns = false → ∃ t : State, exec .patterns s = .next t ∧ t.flash = s.flash ∧ t.hw.pat.op = some (patOp 4 2 2 20)) ∧
          (s.hw.stageSrc.patterns = true → ∃ t : State, exec .patterns s = .next t ∧ t.hw.pat.op = some (patOp 4 1 0 0) ∧
            (∀ a, flashByte t.flash a = if a = fleetBase then 0x42 else if fleetBase ≤ a ∧ a < fleetBase + 0x100_0000 then 0xFF else flashByte s.flash a)))))

/-- O51 (R447, R449, R451): PAT_OPERATION_DONE: a PAT.FLASH operation reports its result with event 0x9010 and none runs after it; PROGRAM that reads back well has put its container into the image area, LOG_ERASE has erased the log, and READ has put the flash's bytes into the image buffer; one that does not read back well leaves the flash and reports result 6 with event 0x9014.  RECAST of a section of the image in flash that holds register records waits with them for the next edge window.  EVENT_LOG_APPEND puts the oldest waiting record at the next place of the log. -/
def Obligations.FlashResults : Prop :=
  ∀ s : State,
    (∀ (o : PatOp) (rb : Bool), s.hw.pat.op = some o → o.recast = false → EventRoom s.hw →
      (o.code ≠ 1 → ∃ t : State, exec (.patOperationDone rb) s = .next t ∧ t.flash = s.flash ∧ t.fuses = s.fuses ∧ t.hw.pat.op = none ∧
        t.hw.fget F.PAT_RESULT_CODE = o.code % 16 ∧ t.hw.flag F.PAT_STATUS_BUSY = false ∧ t.hw.flag F.PAT_STATUS_LOCKED = false ∧
        Raises s.hw t.hw 0x9010 o.op (t.hw.rd .PAT_RESULT 0).toNat) ∧
      (o.code = 1 → o.op = 1 ∨ o.op = 2 ∨ o.op = 5 → rb = true → ∃ t : State, exec (.patOperationDone rb) s = .next t ∧ t.fuses = s.fuses ∧
        t.hw.pat.op = none ∧ t.hw.fget F.PAT_RESULT_CODE = 1 ∧ Raises s.hw t.hw 0x9010 o.op (t.hw.rd .PAT_RESULT 0).toNat ∧
        t.flash = (if o.op = 1 then s.flash else if o.op = 2 then flashWrite s.flash 0 s.hw.pat.staged else flashErase s.flash logBase logSize)) ∧
      (o.code = 1 → o.op = 2 ∨ o.op = 4 → rb = false → ∃ t : State, exec (.patOperationDone rb) s = .next t ∧ t.flash = s.flash ∧
        t.hw.pat.op = none ∧ t.hw.fget F.PAT_RESULT_CODE = 6 ∧ ∃ e ∈ t.hw.host.waiting, e.code = 0x9014) ∧
      (∀ n key bs, o.code = 1 → o.op = 3 → s.hw.level ≠ 0 → n = min (s.hw.fget F.PAT_FLASH_LEN_BYTES) 0x100_0000 →
        bs = (List.range n).map (fun i => flashByte s.flash (s.hw.fget F.PAT_FLASH_ADDR_ADDR + i)) →
        LeadsTo s.hw s.hw.stageBase key n → Unguarded s.hw s.hw.stageBase key n → ∃ t : State, exec (.patOperationDone rb) s = .next t ∧
          t.flash = s.flash ∧ t.hw.pat.op = none ∧ t.hw.fget F.PAT_RESULT_CODE = 1 ∧ Stored s.hw t.hw key bs)) ∧
    (∀ (sc : BitVec 4) (src : BitVec 2), s.hw.bar0Open = true →
      (s.hw.pat.op.isSome = true → EventRoom s.hw → ∃ t : State, exec (.recast sc src) s = .next t ∧ t.flash = s.flash ∧ t.fuses = s.fuses ∧
        t.hw.pat = { s.hw.pat with logWait := t.hw.pat.logWait, logLost := t.hw.pat.logLost } ∧ Raises s.hw t.hw 0x9011 0x2_005C 0) ∧
      (s.hw.pat.op = none → s.hw.level = 0 → ∃ t : State, exec (.recast sc src) s = .next t ∧ t.flash = s.flash ∧ t.hw.pat.op = none ∧
        t.hw.fget F.PAT_RESULT_CODE = 3) ∧
      (∀ e, s.hw.pat.op = none → s.hw.level ≠ 0 → src = 1 → sc.toNat ∈ [2, 5, 6, 7, 8] → containerFail s.fuses (imageSrc s.flash) = none →
        (imageSrc s.flash).sectOf sc.toNat = some e → ∃ t : State, exec (.recast sc src) s = .next t ∧ t.flash = s.flash ∧ t.fuses = s.fuses ∧
          t.hw.flag F.PAT_RECAST_GO = true ∧ t.hw.flag F.PAT_STATUS_BUSY = true ∧ t.hw.pat.recastTypes = [sc.toNat] ∧
          t.hw.pat.recast = ((imageSrc s.flash).records e).map (fun r => (r.1, r.2.1, r.2.2, sc.toNat)))) ∧
    (∀ e rest bs p, s.hw.pat.logWait = e :: rest → p = s.hw.pat.logPos → bs = e.toBytes (s.hw.fget F.PAT_LOG_SEQ_SEQ) 0 false →
      (s.hw.logFree = true → s.hw.pat.logLost = 0 → ∃ t : State, exec .eventLogAppend s = .next t ∧ t.fuses = s.fuses ∧
        t.hw.pat.logWait = rest ∧ t.hw.pat.logPos = (p + 32) % logSize ∧
        t.hw.fget F.PAT_LOG_SEQ_SEQ = (s.hw.fget F.PAT_LOG_SEQ_SEQ + 1) % 2 ^ 32 ∧
        (∀ i (hi : i < bs.length), flashByte t.flash (logBase + p + i) = bs[i]) ∧
        (∀ a, a < logBase + p ∨ logBase + p + 0x1_0000 ≤ a → flashByte t.flash a = flashByte s.flash a)) ∧
      (s.hw.logFree = false → ∃ t : State, exec .eventLogAppend s = .next t ∧ t = s))

/-- O52 (R441, R442, R452, R453, R454): ATTEST, GET_CERT, GET_PUBKEY, ENROLL, REVOKE and RAISE_FLOOR: with none running the operation runs with the result that it will report, GO and BUSY set; while one runs they raise event 0x9011 and leave it.  SEC_OPERATION_DONE: a request that was refused changes no fuse and raises event 0x9024; an ENROLL that reads back well programs its slot with the digest, a REVOKE revokes it, and a RAISE_FLOOR burns the floor up to the image's SVN; the others change no fuse. -/
def Obligations.SecurityOperations : Prop :=
  (∀ (s : State) (sl : BitVec 2), s.hw.bar0Open = true →
    ∀ c op slot code, (c, op, slot, code) ∈ [(Instr.attest, 1, s.hw.secSlot, if s.hw.stageOk then 1 else 5),
        (.getCert, 2, s.hw.secSlot, if s.hw.stageOk then (if s.hw.pat.cert = [] then 3 else 1) else 5),
        (.getPubkey, 3, s.hw.secSlot, if s.hw.stageOk then 1 else 5), (.enroll sl, 4, sl.toNat, s.hw.slotCode s.fuses true sl.toNat),
        (.revoke sl, 5, sl.toNat, s.hw.slotCode s.fuses false sl.toNat), (.raiseFloor, 6, s.hw.secSlot, if s.hw.level = 0 then 5 else 1)] →
      (s.hw.pat.sec = none → Completes c s (fun t => t.flag F.SEC_OP_GO = true ∧ t.flag F.SEC_RESULT_BUSY = true ∧ t.fget F.SEC_OP_OP = op ∧
        (∃ o, t.pat.sec = some o ∧ o.op = op ∧ o.slot = slot ∧ o.code = code) ∧ RegsKept [.SEC_OP, .SEC_RESULT] s.hw t ∧ t.mem = s.hw.mem)) ∧
      (s.hw.pat.sec.isSome = true → EventRoom s.hw → Completes c s (fun t => Raises s.hw t 0x9011 0x3_0024 0 ∧ t.pat.sec = s.hw.pat.sec ∧
        RegsKeptEv [.SEC_OP] s.hw t ∧ t.mem = s.hw.mem))) ∧
  (∀ (s : State) (o : SecOp) (ok : Bool), s.hw.pat.sec = some o →
    (o.code ≠ 1 → ∃ t : State, exec (.secOperationDone ok) s = .next t ∧ t.fuses = s.fuses ∧ t.flash = s.flash ∧ t.hw.pat.sec = none ∧
      t.hw.fget F.SEC_RESULT_CODE = o.code % 16 ∧ t.hw.flag F.SEC_RESULT_BUSY = false ∧
      (o.code ∈ [2, 3, 5] → EventRoom s.hw → Raises s.hw t.hw 0x9024 o.op o.code)) ∧
    (o.code = 1 → o.op ∈ [1, 2, 3] → ∃ t : State, exec (.secOperationDone ok) s = .next t ∧ t.fuses = s.fuses ∧ t.flash = s.flash ∧
      t.hw.pat.sec = none ∧ t.hw.fget F.SEC_RESULT_CODE = 1 ∧ (o.op = 1 → t.hw.rd .SEC_ATTESTS 0 = satAdd (s.hw.rd .SEC_ATTESTS 0) 1)) ∧
    (o.code = 1 → o.op = 2 → s.hw.level ≠ 0 → ∀ key, LeadsTo s.hw (s.hw.stageBase + 0x100_2000) key s.hw.pat.cert.length →
      Unguarded { s.hw with pat := { s.hw.pat with sec := none } } (s.hw.stageBase + 0x100_2000) key s.hw.pat.cert.length →
      ∃ t : State, exec (.secOperationDone ok) s = .next t ∧ Stored s.hw t.hw key s.hw.pat.cert) ∧
    (o.code = 1 → o.op = 4 → s.fuses.digestBits o.slot ||| o.digest = o.digest → EventRoom s.hw → ∃ t : State,
      exec (.secOperationDone true) s = .next t ∧ t.fuses.programmed = s.fuses.programmed ||| BitVec.ofNat 4 (1 <<< o.slot) ∧
      t.fuses.revoked = s.fuses.revoked ∧ t.fuses.floor = s.fuses.floor ∧ (o.slot < 4 → t.fuses.digestBits o.slot = o.digest) ∧
      Raises s.hw t.hw 0x9021 o.slot o.signer) ∧
    (o.code = 1 → o.op = 5 → EventRoom s.hw → ∃ t : State, exec (.secOperationDone true) s = .next t ∧
      t.fuses = { s.fuses with revoked := s.fuses.revoked ||| BitVec.ofNat 4 (1 <<< o.slot) } ∧ Raises s.hw t.hw 0x9022 o.slot o.signer) ∧
    (o.code = 1 → o.op = 6 → EventRoom s.hw → ∃ t : State, exec (.secOperationDone true) s = .next t ∧
      t.fuses = { s.fuses with floor := max s.fuses.floor (min 64 (s.hw.fget F.PAT_IMAGE_SVN_SVN)) } ∧
      Raises s.hw t.hw 0x9023 t.fuses.floor 0))

/-- O53 (R461, R472, R473, R476, R480, R489, R490, R495, R497, R498): Power loss and overvoltage turn the module off; a stop and a module reset keep the sideband's own fields alone; each loses everything else, and with no SEC operation running the fuses and, always, the flash stay.  Start-up runs from 0 ms after power-on, after overvoltage is cleared, after the reference clock returns, and on a restart of a module that has been stopped for 5 s; a restart before that is refused.  A module reset that is released goes on at 25 ms. -/
def Obligations.PowerAndResets : Prop :=
  ∀ (s : State) (p : Phase), p = s.hw.boot.phase →
    (∃ t : State, exec .powerLoss s = .next t ∧ t.flash = s.flash ∧ (s.hw.pat.sec = none → t.fuses = s.fuses) ∧ Lost s.hw t.hw [] ∧
      t.hw.boot = Boot.reset) ∧
    (p ≠ .off → ∃ t : State, exec .inputOvervoltage s = .next t ∧ t.flash = s.flash ∧ (s.hw.pat.sec = none → t.fuses = s.fuses) ∧
      Lost s.hw t.hw [] ∧ t.hw.boot.phase = .off ∧ t.hw.boot.overvolt = true) ∧
    (s.hw.boot.overvolt = true → Completes .overvoltageCleared s (fun t => t.boot.phase = .sequencing ∧ t.boot.ticks = 0 ∧
      t.boot.overvolt = false ∧ RegsKept [.SB_STATE] s.hw t)) ∧
    (∀ a : BitVec 2, p = .off → s.hw.boot.overvolt = false → ∃ t : State, exec (.powerOn a) s = .next t ∧ t.flash = s.flash ∧ t.fuses = s.fuses ∧
      Lost s.hw t.hw [.SB_STATE] ∧ t.hw.boot.phase = .sequencing ∧ t.hw.boot.ticks = 0 ∧ t.hw.boot.smbAddr = a.toNat) ∧
    (∀ c why, (c, why) ∈ [(Instr.thermalStop, 1), (.refclkLoss, 2)] →
      (p ≠ .off → p ≠ .stopped → ∃ t : State, exec c s = .next t ∧ t.flash = s.flash ∧ (s.hw.pat.sec = none → t.fuses = s.fuses) ∧
        Lost s.hw t.hw sidebandKept ∧ t.hw.boot.phase = .stopped ∧ t.hw.boot.ticks = 0 ∧ t.hw.flag F.SB_STATE_STOPPED = true ∧
        t.hw.fget F.SB_STATE_LAST_STOP = why ∧ t.hw.flag F.SB_ALERT_STATUS_STOP = true ∧
        t.hw.fget F.SB_ALERT_MASK_MASK = s.hw.fget F.SB_ALERT_MASK_MASK ∧
        t.hw.fget F.SB_STOPS_THERMAL = (if why = 1 then min 0xFFFF (s.hw.fget F.SB_STOPS_THERMAL + 1) else s.hw.fget F.SB_STOPS_THERMAL) ∧
        t.hw.fget F.SB_STOPS_CLOCK = (if why = 2 then min 0xFFFF (s.hw.fget F.SB_STOPS_CLOCK + 1) else s.hw.fget F.SB_STOPS_CLOCK)) ∧
      (p = .off ∨ p = .stopped → ∃ t : State, exec c s = .next t ∧ t = s)) ∧
    (p = .stopped → s.hw.fget F.SB_STATE_LAST_STOP = 2 → Completes .refclkRecovered s (fun t => t.boot.phase = .sequencing ∧ t.boot.ticks = 0 ∧
      t.flag F.SB_STATE_STOPPED = false)) ∧
    (p ≠ .stopped ∨ s.hw.fget F.SB_STATE_LAST_STOP ≠ 2 → Completes .refclkRecovered s (fun t => t = s.hw)) ∧
    (∀ c cause pin, (c, cause, pin) ∈ [(Instr.mrstAssert, 1, true), (.sbModuleReset, 1, false)] →
      (c = .sbModuleReset → s.hw.sbUp = true) → p ∉ [.off, .reset, .stopped] →
      ∃ t : State, exec c s = .next t ∧ t.flash = s.flash ∧ (s.hw.pat.sec = none → t.fuses = s.fuses) ∧ Lost s.hw t.hw sidebandKept ∧
        t.hw.boot.phase = .reset ∧ t.hw.boot.cause = cause ∧ t.hw.boot.mrst = pin ∧
        t.hw.fget F.SB_ALERT_MASK_MASK = s.hw.fget F.SB_ALERT_MASK_MASK ∧ t.hw.rd .SB_STOPS 0 = s.hw.rd .SB_STOPS 0) ∧
    (p = .reset → Completes .moduleResetRelease s (fun t =>
      t = { s.hw with boot := { s.hw.boot with phase := .sequencing, mrst := false, ticks := 25 * 1_050_000 } })) ∧
    (∀ c, p = .stopped → (c = .moduleResetRelease ∧ s.hw.boot.mrst = true) ∨ (c = .sbRestart ∧ s.hw.sbUp = true) →
      (5000 ≤ s.hw.millis → Completes c s (fun t => t.boot.phase = .sequencing ∧ t.boot.ticks = 0 ∧ t.flag F.SB_STATE_STOPPED = false)) ∧
      (s.hw.millis < 5000 → Completes c s (fun t => t.boot.phase = .stopped ∧ t.flag F.SB_ALERT_STATUS_RESTART_REFUSED = true ∧
        RegsKept [.SB_ALERT_STATUS] s.hw t))) ∧
    (p ≠ .stopped → Completes .sbRestart s (fun t => t = s.hw))

/-- O54 (R314, R332, R347, R443, R452, R462, R463, R464, R465, R467, R468, R469): CORE_RESET_RELEASE reads the fuses and forms the device's identifier, or stops the module without a good reference clock.  IMAGE_CHECK casts an image that passes, or leaves every link down with event 0x9002.  BAR0_LIVE enters WARM service with beat 0, or BARE service.  The tile and memory waves start and end, three passing tiles confirming the reference of their digest, and a failing tile with event 0x4060 and, where its looms fail, event 0x4030 for each; and after the last memory wave GDDR7 is mapped with at most one channel out.  READINESS, PROMOTE_FULL and JOIN_DEADLINE make a module ready, promote it, and decide what becomes of it without its group. -/
def Obligations.StartUpRows : Prop :=
  ∀ s : State,
    (∀ (tw : BitVec 2), s.hw.boot.phase = .sequencing →
      (∃ t : State, exec (.coreResetRelease tw true) s = .next t ∧ t.flash = s.flash ∧ t.fuses = s.fuses ∧ t.hw.boot.phase = .fuses ∧
        t.hw.boot.twpos = tw.toNat ∧ t.hw.boot.full = false ∧ t.hw.flag F.SB_STATE_UP = true ∧
        t.hw.fget F.ID_RESET_CAUSE_CAUSE = s.hw.boot.cause % 4 ∧ t.hw.rd64 .ID_SERIAL_LO .ID_SERIAL_HI = bits (ofBytes s.fuses.deviceId) 0 64 ∧
        (∀ i < 8, (t.hw.rd .SEC_DEVICE_ID i).toNat = bits (ofBytes s.fuses.deviceId) (32 * i) 32) ∧
        t.hw.flt.remap = (fuseMap s.fuses).1 ∧ t.hw.flt.offline = (fuseMap s.fuses).2) ∧
      (∃ t : State, exec (.coreResetRelease tw false) s = .next t ∧ t.flash = s.flash ∧ t.hw.boot.phase = .stopped ∧
        t.hw.fget F.SB_STATE_LAST_STOP = 2)) ∧
    (s.hw.boot.phase = .fuses →
      (containerFail s.fuses (imageSrc s.flash) = none → ∃ t : State, exec (.imageCheck true) s = .next t ∧ t.flash = s.flash ∧ t.fuses = s.fuses ∧
        t.hw.boot.phase = .imaged ∧ t.hw.boot.imageValid = true ∧ t.hw.flag F.PAT_STATUS_IMAGE_VALID = true ∧
        t.hw.fget F.PAT_IMAGE_SVN_SVN = (imageSrc s.flash).svn % 2 ^ 32 ∧ t.hw.fget F.PAT_IMAGE_GEN_GEN = (imageSrc s.flash).gen % 2 ^ 32) ∧
      (∀ ok r o, (if ok then containerFail s.fuses (imageSrc s.flash) else some (7, none)) = some (r, o) → EventRoom s.hw → ∃ t : State,
        exec (.imageCheck ok) s = .next t ∧ t.flash = s.flash ∧ t.fuses = s.fuses ∧ t.hw.boot.phase = .imaged ∧
        t.hw.boot.imageValid = s.hw.boot.imageValid ∧ (∀ l : Fin 64, t.hw.lstate l = 0) ∧
        ∃ e ∈ t.hw.host.waiting, e.code = 0x9002 ∧ e.arg0 = r % 2 ^ 32)) ∧
    (∀ f : BitVec 4, s.hw.boot.phase = .imaged → EventRoom s.hw →
      (s.hw.boot.imageValid = true → Completes (.bar0Live f) s (fun t => t.boot.phase = .live ∧ t.level = 1 ∧ t.running = true ∧ t.beatNo = 0 ∧
        t.beat.cycle = 0 ∧ ∃ e ∈ t.host.waiting, e.code = 0x8050 ∧ e.arg0 = 1)) ∧
      (s.hw.boot.imageValid = false → Completes (.bar0Live f) s (fun t => t.boot.phase = .live ∧ t.level = 0 ∧
        t.mu.stagingCh = [32, 33, 34, 35].find? (fun c => !bit f.toNat (c - 32)) ∧ ∃ e ∈ t.host.waiting, e.code = 0x8050 ∧ e.arg0 = 0))) ∧
    (∀ w : Fin 9,
      (s.hw.served = true → s.hw.boot.tileWave = none → s.hw.fget F.ID_BOOT_TILE_WAVES = w → Completes (.tileWave w) s (fun t =>
        t.boot.tileWave = some w.val ∧ ∀ i : Fin 64, waveTile w i ∉ s.fuses.outTiles →
          (unrepairable s.fuses (waveTile w i) = true → (t.getPhys (waveTile w i)).st = .failed) ∧
          (unrepairable s.fuses (waveTile w i) = false → (t.getPhys (waveTile w i)).st = .assaying ∧
            ∀ o < 0x30_0000, t.mem.goodByte (storeKey (waveTile w i) o) = 0))) ∧
      (s.hw.boot.tileWave = some w.val →
        (∀ i : Fin 64, (s.hw.getPhys (waveTile w i)).setCount = 0) → ∀ d : BitVec 64,
        (Completes (.tileWaveEnd w ([], d) []) s (fun t => t.boot.tileWave = none ∧ t.fget F.ID_BOOT_TILE_WAVES = w + 1 ∧ t.phys = s.hw.phys ∧
          (∀ i : Fin 64, (s.hw.getPhys (waveTile w i)).st = .assaying → waveTile w i ∈ t.boot.passed) ∧
          (∀ i j k : Fin 64, i ≠ j → i ≠ k → j ≠ k → (∀ n ∈ [i, j, k], (s.hw.getPhys (waveTile w n)).st = .assaying) →
            Sparse.find? s.hw.flt.refs w.val = none → Sparse.find? t.flt.refs w.val = some d.toNat))) ∧
        (∀ (i : Fin 64) (part : BitVec 3) (looms : BitVec 2), (s.hw.getPhys (waveTile w i)).st = .assaying →
          (part ≠ 0 → EventRoom s.hw → Completes (.tileWaveEnd w ([(i, part, looms)], d) []) s (fun t => t.boot.tileWave = none ∧
            (t.getPhys (waveTile w i)).st = .failed ∧ waveTile w i ∈ t.boot.failedTiles ∧ Raises s.hw t 0x4060 (waveTile w i) part.toNat)) ∧
          (part = 0 → s.hw.host.waiting.length < 254 → Completes (.tileWaveEnd w ([(i, part, looms)], d) []) s (fun t =>
            (t.getPhys (waveTile w i)).st = .failed ∧ waveTile w i ∈ t.boot.failedTiles ∧
            (∃ e ∈ t.host.waiting, e.code = 0x4060 ∧ e.arg0 = waveTile w i ∧ e.arg1 = 0) ∧
            ∀ b < 2, looms.getLsbD b = true → ∃ e ∈ t.host.waiting, e.code = 0x4030 ∧ e.arg1 = b))))) ∧
    (∀ (v : Fin 5) (f : BitVec 8),
      (s.hw.served = true → s.hw.boot.memWave = none → s.hw.fget F.ID_BOOT_MEM_WAVES = v → Completes (.memoryWave v) s (fun t =>
        t.boot.memWave = some v.val ∧ (∀ i : Fin 8, (t.getChan (8 * v.val + i.val)).st = .assaying) ∧
        (s.hw.mem.free = [] → ∀ a < storeBase, channelOf a / 8 = v → t.mem.goodByte a = 0))) ∧
      (s.hw.boot.memWave = some v.val → Completes (.memoryWaveEnd v f) s (fun t => t.boot.memWave = none ∧
        t.fget F.ID_BOOT_MEM_WAVES = v + 1 ∧ (∀ i : Fin 8, (t.getChan (8 * v.val + i.val)).st = if bit f.toNat i then .failed else .in_) ∧
        (v.val = 4 → t.flag F.ID_BOOT_MEM_DONE = true ∧
          (s.hw.boot.failedCh ++ (bitList 8 f.toNat).map (32 + ·) = [] → t.mu = { s.hw.mu with mapped := true }) ∧
          (∀ c, s.hw.boot.failedCh ++ (bitList 8 f.toNat).map (32 + ·) = [c] →
            t.mu = { s.hw.mu with mapped := true, outCh := some c, windowOff := true }) ∧
          (1 < (s.hw.boot.failedCh ++ (bitList 8 f.toNat).map (32 + ·)).length → t.mu = s.hw.mu ∧
            (EventRoom s.hw → ∃ e ∈ t.host.waiting, e.code = 0x5034)))))) ∧
    (s.hw.canBeReady = true → s.hw.flag F.ID_BOOT_READY = false → EventRoom s.hw → Completes .readiness s (fun t =>
      t.flag F.ID_BOOT_READY = true ∧ t.boot.ready = true ∧ Raises s.hw t 0x8051 s.hw.millis s.hw.logicalCount)) ∧
    (s.hw.served = true → s.hw.level = 1 → s.hw.flag F.ID_BOOT_READY = true →
      (s.hw.beat.cycle = 0 → s.hw.host.waiting.length < 255 →
        (s.hw.inNoGroup = true → Completes .promoteFull s (fun t => t.level = 2 ∧ t.boot.full = true ∧ Raises s.hw t 0x8050 2 s.hw.millis)) ∧
        (s.hw.groupMaster = true → Completes .promoteFull s (fun t => t.level = 2 ∧ t.boot.full = true ∧ t.flag F.BEAT_STATUS_MASTER = true ∧
          t.flag F.BEAT_STATUS_GROUPED = true ∧ t.flag F.ID_BOOT_JOINED = true ∧ Raises s.hw t 0x8050 2 s.hw.millis)) ∧
        (s.hw.inNoGroup = false → s.hw.groupMaster = false →
          (s.hw.boot.promoting = true → Completes .promoteFull s (fun t => t.level = 2 ∧ t.beat.outside = true ∧ t.beat.rejoining = true ∧
            t.flag F.ID_BOOT_ALONE = true ∧ ∃ e ∈ t.host.waiting, e.code = 0x8052 ∧ e.arg0 = s.hw.fget F.BEAT_GROUP_GROUP_ID)) ∧
          (s.hw.boot.promoting = false → s.hw.beat.marker.isSome = true → Completes .promoteFull s (fun t => t.level = 2 ∧ t.beat.joining = true ∧
            t.flag F.ID_BOOT_JOINED = true)) ∧
          (s.hw.boot.promoting = false → s.hw.beat.marker = none → Completes .promoteFull s (fun t => t = s.hw)))) ∧
      (s.hw.inNoGroup = false → s.hw.groupMaster = false → EventRoom s.hw →
        (s.hw.beat.backup = s.hw.me → Completes (.joinDeadline true) s (fun t => t.flag F.BEAT_STATUS_MASTER = true ∧ t.fget F.BEAT_GROUP_MASTER = s.hw.me ∧
          Raises s.hw t 0x1043 s.hw.beatNo s.hw.me)) ∧
        (s.hw.beat.backup ≠ s.hw.me → Completes (.joinDeadline false) s (fun t => t.boot.promoting = true ∧ t.regs = s.hw.regs))))

/-- O55 (R391, R394, R396, R397): HELLO: a hello on a counted twin link is noted, and a module alone in FULL service is then linked, with event 0x7004.  TWIN_UNREACHABLE: a module whose twin has been silent for TWIN.LOSS beats is alone, with event 0x7002.  ATTACH, and an attach record, pair a linked module once both sides have attached, with event 0x7001; ATTACH does nothing on a module that has no twin or is PAIRED already; DETACH, and a detach record, leave PAIRED and DIVERGED for LINKED with event 0x7005.  STAND_IN: the root notes or withdraws a stand-in, with event 0x7030 or 0x7031.  DIVERGENCE: event 0x7003, and a paired module is DIVERGED. -/
def Obligations.TwinAttaching : Prop :=
  ∀ (s : State) (st : Nat), st = s.hw.twinState →
    (∀ (l : Fin 64) (ps : BitVec 3) (live : Bool) (n : BitVec 64),
      (st = 0 ∨ l.val ∉ s.hw.twinLinks → Completes (.hello l ps live n) s (fun t => t = s.hw.takeRecord l 0x0A)) ∧
      (st ≠ 0 → l.val ∈ s.hw.twinLinks → st ≠ 1 ∨ s.hw.level ≠ 2 → Completes (.hello l ps live n) s (fun t =>
        t.twin = { s.hw.twin with lastHello := some s.hw.beatNo, peerState := ps.toNat, peerLive := live } ∧ t.regs = s.hw.regs)) ∧
      (st = 1 → l.val ∈ s.hw.twinLinks → s.hw.level = 2 → s.hw.twin.attachSelf = false → EventRoom s.hw →
        Completes (.hello l ps live n) s (fun t => t.twinState = 2 ∧ Raises s.hw t 0x7004 s.hw.twinId (if live then 1 else 0) ∧
          t.twin = { s.hw.twin with lastHello := some s.hw.beatNo, peerState := ps.toNat, peerLive := live }))) ∧
    (st = 0 ∨ st = 1 ∨ s.hw.twinReachable = true → Completes .twinUnreachable s (fun t => t = s.hw)) ∧
    (st ≠ 0 → st ≠ 1 → s.hw.twinReachable = false → EventRoom s.hw → Completes .twinUnreachable s (fun t => t.twinState = 1 ∧
      t.twin = Twin.reset ∧ ∃ e ∈ t.host.waiting, e.code = 0x7002 ∧ e.arg0 = s.hw.twinId)) ∧
    (∀ (c : Instr) (self : Bool), (c = .attach ∧ s.hw.regsLive = true ∧ st ≠ 3 ∧ self = true) ∨
        (self = false ∧ ∃ (l : Fin 64) (r : BitVec 8), c = .attachDetachRecord l false r) → st ≠ 0 →
      (st ≠ 2 ∨ (if self then s.hw.twin.attachPeer else s.hw.twin.attachSelf) = false → Completes c s (fun t =>
        t.twinState = st ∧ t.twin = (if self then { s.hw.twin with attachSelf := true } else { s.hw.twin with attachPeer := true }))) ∧
      (st = 2 → (if self then s.hw.twin.attachPeer else s.hw.twin.attachSelf) = true → EventRoom s.hw → Completes c s (fun t =>
        t.twinState = 3 ∧ t.flag F.TWIN_STATUS_LIVE = true ∧ Raises s.hw t 0x7001 s.hw.twinId 0 ∧
        t.twin = { s.hw.twin with attachSelf := false, attachPeer := false }))) ∧
    (s.hw.regsLive = false ∨ st = 0 ∨ st = 3 → Completes .attach s (fun t => t = s.hw)) ∧
    (∀ (c : Instr) (r : BitVec 8), (c = .detach ∧ s.hw.regsLive = true ∧ r = 0) ∨ (∃ l : Fin 64, c = .attachDetachRecord l true r) →
      (st = 3 ∨ st = 6 → EventRoom s.hw → Completes c s (fun t => t.twinState = 2 ∧ t.twin.attachSelf = false ∧ t.twin.attachPeer = false ∧
        ∃ e ∈ t.host.waiting, e.code = 0x7005 ∧ e.arg0 = s.hw.twinId ∧ e.arg1 = r.toNat)) ∧
      (st ≠ 3 → st ≠ 6 → Completes c s (fun t => t.regs = s.hw.regs ∧ t.twin = s.hw.twin ∧ t.host = s.hw.host))) ∧
    (∀ (src : BitVec 12) (w : Bool) (j : BitVec 12) (k : BitVec 48),
      (s.hw.rootHere j.toNat = false → Completes (.standIn src w j k) s (fun t => t.jobs = s.hw.jobs ∧ t.regs = s.hw.regs)) ∧
      (s.hw.rootHere j.toNat = true → EventRoom s.hw → Completes (.standIn src w j k) s (fun t =>
        Raises s.hw t (if w then 0x7031 else 0x7030) src.toNat j.toNat ∧
        (w = false → (src.toNat, none) ∈ (t.getJob j.toNat).standIns) ∧
        (w = true → k = 0 → ∀ e ∈ (t.getJob j.toNat).standIns, e.1 ≠ src.toNat) ∧
        (w = true → k ≠ 0 → (∃ e ∈ (s.hw.getJob j.toNat).standIns, e.1 = src.toNat) → (src.toNat, some k.toNat) ∈ (t.getJob j.toNat).standIns)))) ∧
    (∀ (l : Fin 64) (j : BitVec 12) (step : BitVec 64), EventRoom s.hw → Completes (.divergence l j step) s (fun t =>
      t.twinState = (if st = 3 then 6 else st) ∧ Raises s.hw t 0x7003 (s.hw.me / 2 * 2) step.toNat))

/-- O56 (R398, R399, R400, R401, R403): RESEED sends the request and the whole manifest over the first twin link, and reads 1 until it is answered; a module that is ALONE refuses itself with event 0x7023 and reason 1 (as the model reads R398, log 66).  MANIFEST: with the last message of a request the donor accepts it and is SEEDING the other, with event 0x7020, or refuses it.  RESEED_RECORD: a request waits for its manifest, an acceptance makes the module SEEDING, a refusal raises event 0x7023, the completion after the handover pairs the module, and a join step is taken.  RESEED_COPY_DONE notes that all of the manifest is copied; HANDOVER notes what is handed over for the edge. -/
def Obligations.Reseeding : Prop :=
  ∀ (s : State) (st : Nat), st = s.hw.twinState →
    (st = 0 ∨ s.hw.regsLive = false → Completes .reseed s (fun t => t = s.hw)) ∧
    (st = 1 → s.hw.regsLive = true → EventRoom s.hw → Completes .reseed s (fun t =>
      Raises s.hw t 0x7023 s.hw.twinId 1 ∧ t.twin = s.hw.twin ∧ t.twinState = st)) ∧
    (∀ l es, st ≠ 0 → st ≠ 1 → s.hw.regsLive = true → s.hw.twinLinks.head? = some l → es = s.hw.ownManifest → Completes .reseed s (fun t =>
      t.twin = { s.hw.twin with manifest := es.map entryRange } ∧ t.flag F.TWIN_CTL_RESEED = true ∧ RegsKept [.TWIN_CTL] s.hw t ∧
      (t.getLink l).records = (s.hw.getLink l).records ++
        [ctlRecord 0x0E 0xFFF s.hw.me 16 (1 + (s.hw.seedInfo <<< 8) + ((s.hw.joinStepReg % 2 ^ 64) <<< 16))] ∧
      (t.getLink l).long.length = (s.hw.getLink l).long.length + es.length / 64 + 1)) ∧
    (∀ (l : Fin 64) (es : List (BitVec 128)),
      (s.hw.twin.requested = none → Completes (.manifest l es) s (fun t => t = s.hw.takeLong l 0x12)) ∧
      (∀ step info m, s.hw.twin.requested = some (step, info) → m = s.hw.twin.manifest ++ es.map entryRange →
        (es.length = 64 → Completes (.manifest l es) s (fun t => t.twin = { s.hw.twin with manifest := m } ∧ t.regs = s.hw.regs)) ∧
        (es.length ≠ 64 → s.hw.seedReason info m ≠ 0 → Completes (.manifest l es) s (fun t =>
          t.twin = { s.hw.twin with requested := none, manifest := [] } ∧ t.twinState = st ∧ t.host = s.hw.host)) ∧
        (es.length ≠ 64 → s.hw.seedReason info m = 0 → EventRoom s.hw → Completes (.manifest l es) s (fun t => t.twinState = 5 ∧
          t.twin.manifest = m ∧ t.twin.copied = 0 ∧ t.twin.copyDone = false ∧ t.twin.handedOver = false ∧ t.twin.joinStep = step ∧
          t.rd64 .TWIN_SEED_POS_LO .TWIN_SEED_POS_HI = 0 ∧ Raises s.hw t 0x7020 s.hw.twinId (mib (manifestBytes m)))))) ∧
    (∀ (l : Fin 64) (r : BitVec 8) (k : BitVec 64), st ≠ 0 →
      (st ≠ 4 → st ≠ 5 → Completes (.reseedRecord l 1 r k) s (fun t =>
        t.twin = { s.hw.twin with requested := some (k.toNat, r.toNat), manifest := [] } ∧ t.regs = s.hw.regs)) ∧
      (st = 2 ∨ st = 6 → EventRoom s.hw → Completes (.reseedRecord l 2 r k) s (fun t => t.twinState = 4 ∧ t.flag F.TWIN_STATUS_LIVE = false ∧
        t.flag F.TWIN_CTL_RESEED = false ∧ t.rd64 .TWIN_SEED_POS_LO .TWIN_SEED_POS_HI = 0 ∧ Raises s.hw t 0x7020 s.hw.twinId (mib (manifestBytes s.hw.twin.manifest)))) ∧
      (EventRoom s.hw → Completes (.reseedRecord l 3 r k) s (fun t => Raises s.hw t 0x7023 s.hw.twinId r.toNat ∧ t.twin = s.hw.twin ∧ t.twinState = st ∧
        t.flag F.TWIN_CTL_RESEED = false)) ∧
      (st = 5 → s.hw.twin.handedOver = true → EventRoom s.hw → Completes (.reseedRecord l 4 r k) s (fun t => t.twinState = 3 ∧
        t.flag F.TWIN_STATUS_LIVE = true ∧ t.twin.manifest = [] ∧ t.twin.handedOver = false ∧
        ∃ e ∈ t.host.waiting, e.code = 0x7001 ∧ e.arg0 = s.hw.twinId)) ∧
      (st = 5 → Completes (.reseedRecord l 5 r k) s (fun t => t.twin = { s.hw.twin with joinStep := k.toNat, warned := false } ∧ t.regs = s.hw.regs))) ∧
    (∀ j, j = s.hw.fget F.TWIN_JOIN_JOB_JOB →
      (st = 5 → s.hw.twin.copyDone = false → s.hw.twin.copied = manifestBytes s.hw.twin.manifest →
        (s.hw.twin.joinStep = 0 ∨ s.hw.lastStep j < s.hw.twin.joinStep → Completes .reseedCopyDone s (fun t =>
          t = { s.hw with twin := { s.hw.twin with copyDone := true } })) ∧
        (s.hw.twin.joinStep ≠ 0 → s.hw.twin.joinStep ≤ s.hw.lastStep j → EventRoom s.hw → Completes .reseedCopyDone s (fun t =>
          t.twin = { s.hw.twin with copyDone := true, warned := true } ∧ Raises s.hw t 0x7025 j (s.hw.lastStep j)))) ∧
      (st ≠ 5 ∨ s.hw.twin.copyDone = true ∨ s.hw.twin.copied ≠ manifestBytes s.hw.twin.manifest → Completes .reseedCopyDone s (fun t => t = s.hw))) ∧
    (∀ (l : Fin 64) (js : List (BitVec 12 × BitVec 64 × BitVec 64)) (ls : List (BitVec 12 × Bool × BitVec 8 × BitVec 8)),
      (st ≠ 4 → Completes (.handover l js ls) s (fun t => t = s.hw.takeLong l 0x13)) ∧
      (st = 4 → s.hw.twin.handover = none → Completes (.handover l js ls) s (fun t => t.regs = s.hw.regs ∧ ∃ m, t.twin = { s.hw.twin with handover := some m } ∧
        m.jobs = js.map (fun e => (e.1.toNat, e.2.1.toNat, e.2.2.toNat)) ∧
        m.layers = ls.map (fun e => (e.1.toNat, e.2.1, e.2.2.1.toNat, e.2.2.2.toNat)) ∧ m.beat = s.hw.beatNo ∧ m.cycle = s.hw.beat.cycle)))

/-- O57 (R270): A write to UPD.STEPSIZE[g] gives the group its value, both halves of its tag all ones and one more write, and changes no other register and nothing else. -/
def Obligations.StepsizeWrite : Prop :=
  ∀ (s : State) (g : BitVec 8) (v : BitVec 32), s.hw.regsLive = true → Completes (.stepsizeWrite g v) s (fun t =>
    t.rd .UPD_STEPSIZE g.toNat = v ∧ t.rd .UPD_STEPTAG_LO g.toNat = 0xFFFF_FFFF ∧ t.rd .UPD_STEPTAG_HI g.toNat = 0xFFFF_FFFF ∧
    t.fget F.UPD_STEPGEN_GEN g.toNat = (s.hw.fget F.UPD_STEPGEN_GEN g.toNat + 1) % 2 ^ 16 ∧
    RegsKept [.UPD_STEPSIZE, .UPD_STEPTAG_LO, .UPD_STEPTAG_HI, .UPD_STEPGEN] s.hw t ∧
    (∀ k : Nat, k ≠ g.toNat → ∀ r ∈ [Reg.UPD_STEPSIZE, .UPD_STEPTAG_LO, .UPD_STEPTAG_HI, .UPD_STEPGEN], t.rd r k = s.hw.rd r k) ∧
    RegsOnly s.hw t)

/-- O58 (R427): A write with KEY = 0x4D52 and GO = 1 starts a module reset with the effect that MRST# has, down to the cause, and the PCI Express link goes down; any other write changes nothing and raises event 0x8040. -/
def Obligations.ModuleResetWrite : Prop :=
  ∀ (s : State) (v : BitVec 32), s.hw.boot.phase = .live →
    (v.toNat >>> 16 = 0x4D52 → bit v.toNat 0 = true → ∃ t u : State,
      exec (.moduleResetWrite v) s = .next t ∧ exec .mrstAssert s = .next u ∧
      t = { u with hw := { u.hw with boot := { u.hw.boot with cause := 2, mrst := false } } } ∧ t.hw.host.linkUp = false ∧
      t.hw.boot.phase = .reset ∧ Lost s.hw t.hw sidebandKept ∧ t.flash = s.flash ∧ (s.hw.pat.sec = none → t.fuses = s.fuses)) ∧
    (v.toNat >>> 16 ≠ 0x4D52 ∨ bit v.toNat 0 = false → EventRoom s.hw → ∃ t : State,
      exec (.moduleResetWrite v) s = .next t ∧ t.flash = s.flash ∧ t.fuses = s.fuses ∧ Raises s.hw t.hw 0x8040 v.toNat 0 ∧
      EventsOnly s.hw t.hw ∧ RegsKeptEv [] s.hw t.hw)

/-- O59 (R461, R476, notes/assumptions/2.md, notes/assumptions/3.md): The machine starts without power: every register reads the value that its table gives at reset (where the table gives none, the value that the assumption log names), no command waits, no event waits, no key but the vendor slot is programmed and none is revoked, device memory and flash are in canonical form and read zero and 0xFF, and a step on the empty queue changes nothing (DESIGN CHOICE, log 2 and log 3). -/
def Obligations.ResetState : Prop :=
  (∀ (r : Reg) (u : Nat), State.reset.hw.rd r u = r.resetAt u) ∧ State.reset.pending = [] ∧ State.reset.hw.boot.phase = .off ∧
  State.reset.hw.host.waiting = [] ∧ State.reset.Ok ∧ State.reset.flash.wf (fun _ => 0xFF) = true ∧ State.reset.fuses.floor ≤ 64 ∧
  State.reset.fuses.programmed = 1 ∧ State.reset.fuses.revoked = 0 ∧ (∀ a, State.reset.hw.mem.goodByte a = 0) ∧ (∀ a, flashByte State.reset.flash a = 0xFF) ∧
  step State.reset = .next State.reset

/-- O60 (R440, R441, R442, R475, R476): Every step, whatever the command and the state, takes one command off the queue or finds it empty; what manufacture fused stays; a programmed slot stays programmed and a revoked one revoked; no burned bit of a key digest is lost; the version floor never falls and stays within 64; no fuse changes unless a SEC operation that was not refused is running; and the flash keeps its canonical form. -/
def Obligations.KeptByEveryStep : Prop :=
  ∀ s t : State, step s = .next t →
    (s.pending = [] ∧ t.pending = [] ∨ ∃ c, s.pending = c :: t.pending) ∧
    (t.fuses.stepping = s.fuses.stepping ∧ t.fuses.board = s.fuses.board ∧ t.fuses.seed = s.fuses.seed ∧
      t.fuses.outTiles = s.fuses.outTiles ∧ t.fuses.loom = s.fuses.loom) ∧
    t.fuses.programmed &&& s.fuses.programmed = s.fuses.programmed ∧ t.fuses.revoked &&& s.fuses.revoked = s.fuses.revoked ∧
    (∀ k : Nat, t.fuses.digestBits k &&& s.fuses.digestBits k = s.fuses.digestBits k) ∧
    s.fuses.floor ≤ t.fuses.floor ∧ (s.fuses.floor ≤ 64 → t.fuses.floor ≤ 64) ∧
    (t.fuses ≠ s.fuses → ∃ o, s.hw.pat.sec = some o ∧ o.code = 1 ∧ o.op ∉ [1, 2, 3]) ∧
    (s.flash.wf (fun _ => 0xFF) = true → t.flash.wf (fun _ => 0xFF) = true)
end

