-- ==== Sys2Proof/Laws/Bits.lean ====
section
/-!
SUPPORT. The laws of bit fields: a field read after it is set, and fields that do not overlap.
-/
namespace Sys2Proof.Machine

theorem bits_eq (x lo w : Nat) : bits x lo w = x / 2 ^ lo % 2 ^ w := by
  simp [bits, Nat.shiftRight_eq_div_pow, Nat.shiftLeft_eq]

theorem bits_lt (x lo w : Nat) : bits x lo w < 2 ^ w := by
  rw [bits_eq]; exact Nat.mod_lt _ (Nat.two_pow_pos w)

/-- The bits of a number with a field replaced: those of the new field inside it, the old ones outside. -/
theorem testBit_setBits (x lo w v i : Nat) :
    (setBits x lo w v).testBit i = if lo ≤ i ∧ i < lo + w then v.testBit (i - lo) else x.testBit i := by
  have hx : setBits x lo w v = (x / 2 ^ (lo + w)) * 2 ^ (lo + w) + (v % 2 ^ w) * 2 ^ lo + x % 2 ^ lo := by
    unfold setBits
    rw [bits_eq]
    simp only [Nat.shiftLeft_eq, Nat.one_mul]
    have h1 := Nat.div_add_mod x (2 ^ lo)
    have h2 := Nat.div_add_mod (x / 2 ^ lo) (2 ^ w)
    have h3 : x / 2 ^ lo / 2 ^ w = x / 2 ^ (lo + w) := by rw [Nat.div_div_eq_div_mul, Nat.pow_add]
    rw [h3] at h2
    have h4 : 2 ^ lo * (x / 2 ^ lo) = x / 2 ^ (lo + w) * 2 ^ (lo + w) + x / 2 ^ lo % 2 ^ w * 2 ^ lo := by
      conv_lhs => rw [← h2]
      rw [Nat.pow_add]; ring
    omega
  have hlow : x % 2 ^ lo < 2 ^ lo := Nat.mod_lt _ (Nat.two_pow_pos lo)
  have hv : v % 2 ^ w < 2 ^ w := Nat.mod_lt _ (Nat.two_pow_pos w)
  have hx2 : setBits x lo w v = 2 ^ lo * (2 ^ w * (x / 2 ^ (lo + w)) + v % 2 ^ w) + x % 2 ^ lo := by
    rw [hx, Nat.pow_add]; ring
  rw [hx2, Nat.testBit_two_pow_mul_add _ hlow]
  split
  · rename_i h
    simp only [Nat.testBit_mod_two_pow]
    have : ¬ (lo ≤ i) := by omega
    simp [h, this]
  · rename_i h
    rw [Nat.testBit_two_pow_mul_add _ hv]
    simp only [Nat.testBit_mod_two_pow, Nat.testBit_div_two_pow]
    by_cases h2 : i - lo < w
    · have : lo ≤ i ∧ i < lo + w := by omega
      simp [h2, this]
    · have h3 : ¬ (lo ≤ i ∧ i < lo + w) := by omega
      simp only [h2, h3, if_false]
      congr 1; omega

theorem testBit_bits (x lo w i : Nat) : (bits x lo w).testBit i = (decide (i < w) && x.testBit (i + lo)) := by
  rw [bits_eq, Nat.testBit_mod_two_pow, Nat.testBit_div_two_pow]

/-- A field read after it is set. -/
theorem bits_setBits_self (x lo w v : Nat) : bits (setBits x lo w v) lo w = v % 2 ^ w := by
  apply Nat.eq_of_testBit_eq
  intro i
  rw [testBit_bits, testBit_setBits, Nat.testBit_mod_two_pow]
  by_cases h : i < w
  · have : lo ≤ i + lo ∧ i + lo < lo + w := by omega
    simp [h, this]
  · simp [h]

/-- A field read after another is set that does not overlap it. -/
theorem bits_setBits_other (x lo w v lo' w' : Nat) (h : lo' + w' ≤ lo ∨ lo + w ≤ lo') :
    bits (setBits x lo w v) lo' w' = bits x lo' w' := by
  apply Nat.eq_of_testBit_eq
  intro i
  rw [testBit_bits, testBit_bits, testBit_setBits]
  by_cases hi : i < w'
  · have : ¬ (lo ≤ i + lo' ∧ i + lo' < lo + w) := by omega
    simp [hi, this]
  · simp [hi]

theorem setBits_lt (x lo w v n : Nat) (hx : x < 2 ^ n) (h : lo + w ≤ n) : setBits x lo w v < 2 ^ n := by
  apply Nat.lt_pow_two_of_testBit
  intro i hi
  rw [testBit_setBits]
  have : ¬ (lo ≤ i ∧ i < lo + w) := by omega
  simp only [this, if_false]
  exact Nat.testBit_lt_two_pow (Nat.lt_of_lt_of_le hx (Nat.pow_le_pow_right (by decide) hi))

/-- A bit as a field of one. -/
theorem bit_eq_bits (x i : Nat) : bit x i = (bits x i 1 == 1) := by
  simp [bit, bits]

end Sys2Proof.Machine
end

