-- ==== Sys2Proof/Laws/Sparse.lean ====
section
/-!
SUPPORT. The laws of sparse maps: a read after a write, and that writes keep the canonical form.
-/
namespace Sys2Proof.Machine.Sparse

variable {α : Type}

@[simp] theorem find?_nil (a : Nat) : find? ([] : Sparse α) a = none := rfl

@[simp] theorem get_nil (d : α) (a : Nat) : get d ([] : Sparse α) a = d := rfl

theorem find?_erase (m : Sparse α) (a b : Nat) : find? (erase m a) b = if a = b then none else find? m b := by
  induction m with
  | nil => simp [erase]
  | cons e m ih =>
    obtain ⟨k, v⟩ := e
    simp only [erase, find?]
    split <;> rename_i h
    · subst h; rw [ih]; split <;> simp_all
    · simp only [find?, ih]
      by_cases hk : k = b <;> by_cases ha : a = b <;> simp [hk, ha]
      omega

theorem find?_set (m : Sparse α) (a b : Nat) (x : α) : find? (set m a x) b = if a = b then some x else find? m b := by
  induction m with
  | nil => simp [set, find?]
  | cons e m ih =>
    obtain ⟨k, v⟩ := e
    simp only [set, find?]
    split <;> rename_i h
    · subst h; simp only [find?]; split <;> simp_all
    · split <;> rename_i h2
      · simp only [find?]
      · simp only [find?, ih]
        by_cases hk : k = b <;> by_cases ha : a = b <;> simp [hk, ha]
        omega

/-- A read after a write: of the key written, the value; of another, what it read before. -/
theorem get_put [DecidableEq α] (d : α) (m : Sparse α) (a b : Nat) (x : α) :
    get d (put d m a x) b = if a = b then x else get d m b := by
  unfold get put
  split <;> rename_i h
  · rw [find?_erase]; split <;> simp_all
  · rw [find?_set]; split <;> simp_all

/-- The same where the maps are read with a default of the reader's own, and the written key with the writer's. -/
theorem getD_find?_put [DecidableEq α] (d e : α) (m : Sparse α) (a b : Nat) (x : α) (h : a = b → d = e) :
    (find? (put d m a x) b).getD e = if a = b then x else (find? m b).getD e := by
  unfold put
  split <;> rename_i hx
  · rw [find?_erase]; split <;> simp_all
  · rw [find?_set]; split <;> simp_all

@[simp] theorem get_put_self [DecidableEq α] (d : α) (m : Sparse α) (a : Nat) (x : α) : get d (put d m a x) a = x := by
  simp [get_put]

theorem get_put_ne [DecidableEq α] (d : α) (m : Sparse α) {a b : Nat} (x : α) (h : a ≠ b) :
    get d (put d m a x) b = get d m b := by
  simp [get_put, h]

/-! ### The canonical form -/

theorem sorted_weaken {m : Sparse α} {b c : Nat} (h : sorted (some b) m = true) (hc : c ≤ b) : sorted (some c) m = true := by
  cases m with
  | nil => rfl
  | cons e m => obtain ⟨k, v⟩ := e; simp only [sorted, Bool.and_eq_true, decide_eq_true_eq] at *; exact ⟨by omega, h.2⟩

theorem sorted_none {m : Sparse α} {b : Nat} (h : sorted (some b) m = true) : sorted none m = true := by
  cases m with
  | nil => rfl
  | cons e m => obtain ⟨k, v⟩ := e; simp only [sorted, Bool.and_eq_true] at *; exact h.2

/-- Every key of a list that is sorted above b lies above b. -/
theorem sorted_lt {m : Sparse α} {b : Nat} (h : sorted (some b) m = true) : ∀ e ∈ m, b < e.1 := by
  induction m generalizing b with
  | nil => simp
  | cons e m ih =>
    obtain ⟨k, v⟩ := e
    simp only [sorted, Bool.and_eq_true, decide_eq_true_eq] at h
    intro e he
    cases he with
    | head => exact h.1
    | tail _ he => exact Nat.lt_trans h.1 (ih h.2 e he)

theorem erase_eq_filter (m : Sparse α) (a : Nat) : erase m a = m.filter (fun e => decide (e.1 ≠ a)) := by
  induction m with
  | nil => rfl
  | cons e m ih => obtain ⟨k, v⟩ := e; simp only [erase, List.filter]; split <;> simp_all

theorem sorted_filter (m : Sparse α) (p : Nat × α → Bool) : ∀ o, sorted o m = true → sorted o (m.filter p) = true := by
  induction m with
  | nil => intro o _; cases o <;> rfl
  | cons e m ih =>
    obtain ⟨k, v⟩ := e
    intro o h
    simp only [List.filter]
    cases o with
    | none =>
      simp only [sorted] at h
      split
      · simp only [sorted]; exact ih _ h
      · exact sorted_none (ih _ h)
    | some b =>
      simp only [sorted, Bool.and_eq_true, decide_eq_true_eq] at h
      split
      · simp only [sorted, Bool.and_eq_true, decide_eq_true_eq]; exact ⟨h.1, ih _ h.2⟩
      · exact sorted_weaken (ih _ h.2) (Nat.le_of_lt h.1)

theorem sorted_set (m : Sparse α) (a : Nat) (x : α) :
    ∀ o, sorted o m = true → (∀ b, o = some b → b < a) → sorted o (set m a x) = true := by
  induction m with
  | nil =>
    intro o _ hb
    cases o with
    | none => rfl
    | some b => simp [set, sorted, hb b rfl]
  | cons e m ih =>
    obtain ⟨k, v⟩ := e
    intro o h hb
    have hm : sorted (some k) m = true := by cases o <;> simp_all [sorted]
    have key : ∀ b, o = some b → b < k := by intro b hb; subst hb; simp_all [sorted]
    simp only [set]
    split
    · subst_vars; cases o <;> simp_all [sorted]
    · split <;> rename_i h1 h2
      · cases o <;> simp_all [sorted]
      · have := ih (some k) hm (by intro b hb'; cases hb'; omega)
        cases o <;> simp_all [sorted]

theorem sorted_put [DecidableEq α] (d : α) (m : Sparse α) (a : Nat) (x : α) (h : sorted none m = true) :
    sorted none (put d m a x) = true := by
  unfold put
  split
  · rw [erase_eq_filter]; exact sorted_filter _ _ _ h
  · exact sorted_set _ _ _ _ h (by simp)

theorem mem_set (m : Sparse α) (a : Nat) (x : α) : ∀ e ∈ set m a x, e = (a, x) ∨ e ∈ m := by
  induction m with
  | nil => simp [set]
  | cons e m ih =>
    obtain ⟨k, v⟩ := e
    intro e he
    simp only [set] at he
    split at he
    · simp only [List.mem_cons] at he ⊢; tauto
    · split at he
      · simp only [List.mem_cons] at he ⊢; tauto
      · simp only [List.mem_cons] at he ⊢
        rcases he with h | h
        · tauto
        · rcases ih e h with h | h <;> tauto

/-- Every write keeps the canonical form, where the writer's default is the key's. -/
theorem wf_put [DecidableEq α] (d : Nat → α) (m : Sparse α) (a : Nat) (x : α) (h : wf d m = true) :
    wf d (put (d a) m a x) = true := by
  simp only [wf, Bool.and_eq_true, List.all_eq_true, decide_eq_true_eq] at *
  refine ⟨sorted_put _ _ _ _ h.1, ?_⟩
  intro e he
  unfold put at he
  split at he
  · rw [erase_eq_filter] at he; exact h.2 e (List.mem_of_mem_filter he)
  · rcases mem_set _ _ _ e he with rfl | he
    · assumption
    · exact h.2 e he

/-- Removing entries keeps the canonical form, also for a default that differs only at keys that are gone. -/
theorem wf_filter [DecidableEq α] (d d' : Nat → α) (m : Sparse α) (p : Nat × α → Bool) (h : wf d m = true)
    (hd : ∀ e ∈ m, p e = true → d' e.1 = d e.1) : wf d' (m.filter p) = true := by
  simp only [wf, Bool.and_eq_true, List.all_eq_true, decide_eq_true_eq] at *
  refine ⟨sorted_filter _ _ _ h.1, ?_⟩
  intro e he
  have := List.mem_filter.1 he
  rw [hd e this.1 this.2]
  exact h.2 e this.1

end Sys2Proof.Machine.Sparse
end

