-- ==== Sys2Proof/Laws/Regs.lean ====
section
/-!
SUPPORT. The laws of the registers: what a register and a field read after a register or a field is set.
-/
namespace Sys2Proof.Machine

theorem Reg.ctorIdx_lt (r : Reg) : r.ctorIdx < 512 := by cases r <;> decide

theorem Reg.ctorIdx_inj {r q : Reg} (h : r.ctorIdx = q.ctorIdx) : r = q := by
  have hof : ∀ x : Reg, Reg.ofNat x.ctorIdx = x := by intro x; cases x <;> rfl
  rw [← hof r, ← hof q, h]

theorem regKey_inj {r q : Reg} {u v : Nat} (h : regKey r u = regKey q v) : r = q ∧ u = v := by
  have h1 := r.ctorIdx_lt
  have h2 := q.ctorIdx_lt
  unfold regKey at h
  exact ⟨Reg.ctorIdx_inj (by omega), by omega⟩

/-- A register read after one is set. -/
theorem Hw.rd_wr (s : Hw) (r q : Reg) (u v : Nat) (x : Reg32) :
    (s.wr r u x).rd q v = if r = q ∧ u = v then x else s.rd q v := by
  unfold Hw.rd Hw.wr
  rw [Sparse.getD_find?_put]
  · by_cases h : r = q ∧ u = v
    · obtain ⟨rfl, rfl⟩ := h; simp
    · have : regKey r u ≠ regKey q v := fun hk => h (regKey_inj hk)
      simp [h, this]
  · intro h; obtain ⟨rfl, rfl⟩ := regKey_inj h; rfl

@[simp] theorem Hw.rd_wr_self (s : Hw) (r : Reg) (u : Nat) (x : Reg32) : (s.wr r u x).rd r u = x := by
  simp [Hw.rd_wr]

theorem Hw.rd_wr_reg (s : Hw) {r q : Reg} (u v : Nat) (x : Reg32) (h : r ≠ q) : (s.wr r u x).rd q v = s.rd q v := by
  simp [Hw.rd_wr, h]

theorem Hw.rd_wr_unit (s : Hw) (r q : Reg) {u v : Nat} (x : Reg32) (h : u ≠ v) : (s.wr r u x).rd q v = s.rd q v := by
  simp [Hw.rd_wr, h]

/-- A field lies inside its register. -/
def Fld.ok (f : Fld) : Bool := decide (f.lo + f.width ≤ 32)

theorem Hw.rd_fset (s : Hw) (f : Fld) (q : Reg) (x u v : Nat) :
    (s.fset f x u).rd q v = if f.reg = q ∧ u = v then BitVec.ofNat 32 (setBits (s.rd f.reg u).toNat f.lo f.width x) else s.rd q v := by
  unfold Hw.fset; rw [Hw.rd_wr]

theorem Hw.rd_fset_reg (s : Hw) {f : Fld} {q : Reg} (x u v : Nat) (h : f.reg ≠ q) : (s.fset f x u).rd q v = s.rd q v := by
  simp [Hw.rd_fset, h]

theorem toNat_ofNat_setBits (a : Reg32) (f : Fld) (x : Nat) (h : f.ok = true) :
    (BitVec.ofNat 32 (setBits a.toNat f.lo f.width x)).toNat = setBits a.toNat f.lo f.width x := by
  rw [BitVec.toNat_ofNat]
  exact Nat.mod_eq_of_lt (setBits_lt _ _ _ _ _ a.isLt (by simpa [Fld.ok] using h))

/-- A field read after it is set. -/
theorem Hw.fget_fset_self (s : Hw) (f : Fld) (x u : Nat) (h : f.ok = true := by decide) :
    (s.fset f x u).fget f u = x % 2 ^ f.width := by
  unfold Hw.fget
  rw [Hw.rd_fset, if_pos ⟨rfl, rfl⟩, toNat_ofNat_setBits _ _ _ h, bits_setBits_self]

/-- A field read after another of the same register, which does not overlap it, is set. -/
theorem Hw.fget_fset_field (s : Hw) (f g : Fld) (x u : Nat) (hr : f.reg = g.reg) (h : f.ok = true)
    (hd : g.lo + g.width ≤ f.lo ∨ f.lo + f.width ≤ g.lo) : (s.fset f x u).fget g u = s.fget g u := by
  unfold Hw.fget
  rw [Hw.rd_fset, if_pos ⟨hr, rfl⟩, toNat_ofNat_setBits _ _ _ h, bits_setBits_other _ _ _ _ _ _ hd, hr]

theorem Hw.fget_fset_reg (s : Hw) {f g : Fld} (x u v : Nat) (h : f.reg ≠ g.reg) : (s.fset f x u).fget g v = s.fget g v := by
  unfold Hw.fget; rw [Hw.rd_fset_reg _ _ _ _ h]

theorem Hw.fget_fset_unit (s : Hw) (f g : Fld) {u v : Nat} (x : Nat) (h : u ≠ v) : (s.fset f x u).fget g v = s.fget g v := by
  unfold Hw.fget; rw [Hw.rd_fset]; simp [h]

theorem Hw.fget_wr_reg (s : Hw) {r : Reg} {g : Fld} (x : Reg32) (u v : Nat) (h : r ≠ g.reg) : (s.wr r u x).fget g v = s.fget g v := by
  unfold Hw.fget; rw [Hw.rd_wr_reg _ _ _ _ h]

/-- Whether two fields share no bit: other registers, or other bits of one. -/
def Fld.apart (f g : Fld) : Bool :=
  decide (f.reg ≠ g.reg) || decide (g.lo + g.width ≤ f.lo) || decide (f.lo + f.width ≤ g.lo)

/-- A field read after any other is set: the form a decision procedure discharges. -/
theorem Hw.fget_fset_apart (s : Hw) (f g : Fld) (x u v : Nat) (h : f.ok = true) (hd : f.apart g = true) :
    (s.fset f x u).fget g v = s.fget g v := by
  by_cases hr : f.reg = g.reg
  · by_cases hu : u = v
    · subst hu
      refine Hw.fget_fset_field s f g x u hr h ?_
      simp only [Fld.apart, hr, Bool.or_eq_true, decide_eq_true_eq] at hd
      tauto
    · exact Hw.fget_fset_unit s f g x hu
  · exact Hw.fget_fset_reg s x u v hr

theorem Hw.flag_fset_apart (s : Hw) (f g : Fld) (x u v : Nat) (h : f.ok = true) (hd : f.apart g = true) :
    (s.fset f x u).flag g v = s.flag g v := by
  unfold Hw.flag; rw [Hw.fget_fset_apart s f g x u v h hd]

theorem Hw.fget_lt (s : Hw) (f : Fld) (u : Nat) : s.fget f u < 2 ^ f.width := bits_lt _ _ _

/-- A pair read after it is set. -/
theorem Hw.rd64_wr64 (s : Hw) {lo hi : Reg} (v u : Nat) (h : lo ≠ hi) : (s.wr64 lo hi v u).rd64 lo hi u = v % 2 ^ 64 := by
  unfold Hw.rd64 Hw.wr64
  rw [Hw.rd_wr_reg _ _ _ _ (Ne.symm h), Hw.rd_wr_self, Hw.rd_wr_self]
  simp only [BitVec.toNat_ofNat, Nat.shiftRight_eq_div_pow, Nat.shiftLeft_eq]
  omega

theorem Hw.rd64_wr (s : Hw) {r lo hi : Reg} (x : Reg32) (u v : Nat) (h : r ≠ lo) (h' : r ≠ hi) :
    (s.wr r u x).rd64 lo hi v = s.rd64 lo hi v := by
  unfold Hw.rd64; rw [Hw.rd_wr_reg _ _ _ _ h, Hw.rd_wr_reg _ _ _ _ h']

theorem Hw.rd64_fset (s : Hw) {f : Fld} {lo hi : Reg} (x u v : Nat) (h : f.reg ≠ lo) (h' : f.reg ≠ hi) :
    (s.fset f x u).rd64 lo hi v = s.rd64 lo hi v := Hw.rd64_wr s _ u v h h'

theorem Hw.fget_wr64 (s : Hw) {lo hi : Reg} {g : Fld} (x u v : Nat) (h : lo ≠ g.reg) (h' : hi ≠ g.reg) :
    (s.wr64 lo hi x u).fget g v = s.fget g v := by
  unfold Hw.wr64; rw [Hw.fget_wr_reg _ _ _ _ h', Hw.fget_wr_reg _ _ _ _ h]

theorem Hw.rd_bump (s : Hw) (f : Fld) (q : Reg) (u v n : Nat) :
    (s.bump f u n).rd q v = if f.reg = q ∧ u = v then satAdd (s.rd q v) n else s.rd q v := by
  unfold Hw.bump
  split
  · rename_i h; subst h
    split
    · simp only [satAdd, Nat.add_zero]
      apply BitVec.eq_of_toNat_eq
      have := (s.rd q v).isLt
      simp only [BitVec.toNat_ofNat]; omega
    · rfl
  · rw [Hw.rd_wr]
    split
    · rename_i h; obtain ⟨rfl, rfl⟩ := h; rfl
    · rfl

theorem Hw.fget_bump_reg (s : Hw) {f g : Fld} (u v n : Nat) (h : f.reg ≠ g.reg) : (s.bump f u n).fget g v = s.fget g v := by
  unfold Hw.fget; rw [Hw.rd_bump]; simp [h]

/-- A counter after it has counted n: it saturates. -/
theorem Hw.rd_bump_self (s : Hw) (f : Fld) (u n : Nat) :
    ((s.bump f u n).rd f.reg u).toNat = min ((s.rd f.reg u).toNat + n) 0xFFFF_FFFF := by
  rw [Hw.rd_bump, if_pos ⟨rfl, rfl⟩]
  simp only [satAdd, BitVec.toNat_ofNat]; omega

end Sys2Proof.Machine
end

