-- ==== Sys2Proof/Laws/State.lean ====
section
/-!
SUPPORT. What each update of the state leaves alone, one lemma a field and an update, and what each accessor reads after
its own update.
-/
namespace Sys2Proof.Machine

/-! ### wr -/

@[simp] theorem Hw.wr_mem (s : Hw) (r : Reg) (u : Nat) (x : Reg32) : (s.wr r u x).mem = s.mem := rfl
@[simp] theorem Hw.wr_host (s : Hw) (r : Reg) (u : Nat) (x : Reg32) : (s.wr r u x).host = s.host := rfl
@[simp] theorem Hw.wr_beat (s : Hw) (r : Reg) (u : Nat) (x : Reg32) : (s.wr r u x).beat = s.beat := rfl
@[simp] theorem Hw.wr_tiles (s : Hw) (r : Reg) (u : Nat) (x : Reg32) : (s.wr r u x).tiles = s.tiles := rfl
@[simp] theorem Hw.wr_phys (s : Hw) (r : Reg) (u : Nat) (x : Reg32) : (s.wr r u x).phys = s.phys := rfl
@[simp] theorem Hw.wr_frames (s : Hw) (r : Reg) (u : Nat) (x : Reg32) : (s.wr r u x).frames = s.frames := rfl
@[simp] theorem Hw.wr_streams (s : Hw) (r : Reg) (u : Nat) (x : Reg32) : (s.wr r u x).streams = s.streams := rfl
@[simp] theorem Hw.wr_latches (s : Hw) (r : Reg) (u : Nat) (x : Reg32) : (s.wr r u x).latches = s.latches := rfl
@[simp] theorem Hw.wr_regions (s : Hw) (r : Reg) (u : Nat) (x : Reg32) : (s.wr r u x).regions = s.regions := rfl
@[simp] theorem Hw.wr_mail (s : Hw) (r : Reg) (u : Nat) (x : Reg32) : (s.wr r u x).mail = s.mail := rfl
@[simp] theorem Hw.wr_jobs (s : Hw) (r : Reg) (u : Nat) (x : Reg32) : (s.wr r u x).jobs = s.jobs := rfl
@[simp] theorem Hw.wr_layers (s : Hw) (r : Reg) (u : Nat) (x : Reg32) : (s.wr r u x).layers = s.layers := rfl
@[simp] theorem Hw.wr_links (s : Hw) (r : Reg) (u : Nat) (x : Reg32) : (s.wr r u x).links = s.links := rfl
@[simp] theorem Hw.wr_lnk (s : Hw) (r : Reg) (u : Nat) (x : Reg32) : (s.wr r u x).lnk = s.lnk := rfl
@[simp] theorem Hw.wr_twin (s : Hw) (r : Reg) (u : Nat) (x : Reg32) : (s.wr r u x).twin = s.twin := rfl
@[simp] theorem Hw.wr_flt (s : Hw) (r : Reg) (u : Nat) (x : Reg32) : (s.wr r u x).flt = s.flt := rfl
@[simp] theorem Hw.wr_chans (s : Hw) (r : Reg) (u : Nat) (x : Reg32) : (s.wr r u x).chans = s.chans := rfl
@[simp] theorem Hw.wr_mu (s : Hw) (r : Reg) (u : Nat) (x : Reg32) : (s.wr r u x).mu = s.mu := rfl
@[simp] theorem Hw.wr_pat (s : Hw) (r : Reg) (u : Nat) (x : Reg32) : (s.wr r u x).pat = s.pat := rfl
@[simp] theorem Hw.wr_boot (s : Hw) (r : Reg) (u : Nat) (x : Reg32) : (s.wr r u x).boot = s.boot := rfl
@[simp] theorem Hw.wr_pwr (s : Hw) (r : Reg) (u : Nat) (x : Reg32) : (s.wr r u x).pwr = s.pwr := rfl
@[simp] theorem Hw.wr_test (s : Hw) (r : Reg) (u : Nat) (x : Reg32) : (s.wr r u x).test = s.test := rfl
@[simp] theorem Hw.wr_free (s : Hw) (r : Reg) (u : Nat) (x : Reg32) : (s.wr r u x).free = s.free := rfl

/-! ### fset -/

@[simp] theorem Hw.fset_mem (s : Hw) (f : Fld) (x u : Nat) : (s.fset f x u).mem = s.mem := rfl
@[simp] theorem Hw.fset_host (s : Hw) (f : Fld) (x u : Nat) : (s.fset f x u).host = s.host := rfl
@[simp] theorem Hw.fset_beat (s : Hw) (f : Fld) (x u : Nat) : (s.fset f x u).beat = s.beat := rfl
@[simp] theorem Hw.fset_tiles (s : Hw) (f : Fld) (x u : Nat) : (s.fset f x u).tiles = s.tiles := rfl
@[simp] theorem Hw.fset_phys (s : Hw) (f : Fld) (x u : Nat) : (s.fset f x u).phys = s.phys := rfl
@[simp] theorem Hw.fset_frames (s : Hw) (f : Fld) (x u : Nat) : (s.fset f x u).frames = s.frames := rfl
@[simp] theorem Hw.fset_streams (s : Hw) (f : Fld) (x u : Nat) : (s.fset f x u).streams = s.streams := rfl
@[simp] theorem Hw.fset_latches (s : Hw) (f : Fld) (x u : Nat) : (s.fset f x u).latches = s.latches := rfl
@[simp] theorem Hw.fset_regions (s : Hw) (f : Fld) (x u : Nat) : (s.fset f x u).regions = s.regions := rfl
@[simp] theorem Hw.fset_mail (s : Hw) (f : Fld) (x u : Nat) : (s.fset f x u).mail = s.mail := rfl
@[simp] theorem Hw.fset_jobs (s : Hw) (f : Fld) (x u : Nat) : (s.fset f x u).jobs = s.jobs := rfl
@[simp] theorem Hw.fset_layers (s : Hw) (f : Fld) (x u : Nat) : (s.fset f x u).layers = s.layers := rfl
@[simp] theorem Hw.fset_links (s : Hw) (f : Fld) (x u : Nat) : (s.fset f x u).links = s.links := rfl
@[simp] theorem Hw.fset_lnk (s : Hw) (f : Fld) (x u : Nat) : (s.fset f x u).lnk = s.lnk := rfl
@[simp] theorem Hw.fset_twin (s : Hw) (f : Fld) (x u : Nat) : (s.fset f x u).twin = s.twin := rfl
@[simp] theorem Hw.fset_flt (s : Hw) (f : Fld) (x u : Nat) : (s.fset f x u).flt = s.flt := rfl
@[simp] theorem Hw.fset_chans (s : Hw) (f : Fld) (x u : Nat) : (s.fset f x u).chans = s.chans := rfl
@[simp] theorem Hw.fset_mu (s : Hw) (f : Fld) (x u : Nat) : (s.fset f x u).mu = s.mu := rfl
@[simp] theorem Hw.fset_pat (s : Hw) (f : Fld) (x u : Nat) : (s.fset f x u).pat = s.pat := rfl
@[simp] theorem Hw.fset_boot (s : Hw) (f : Fld) (x u : Nat) : (s.fset f x u).boot = s.boot := rfl
@[simp] theorem Hw.fset_pwr (s : Hw) (f : Fld) (x u : Nat) : (s.fset f x u).pwr = s.pwr := rfl
@[simp] theorem Hw.fset_test (s : Hw) (f : Fld) (x u : Nat) : (s.fset f x u).test = s.test := rfl
@[simp] theorem Hw.fset_free (s : Hw) (f : Fld) (x u : Nat) : (s.fset f x u).free = s.free := rfl

/-! ### wr64 -/

@[simp] theorem Hw.wr64_mem (s : Hw) (lo hi : Reg) (x u : Nat) : (s.wr64 lo hi x u).mem = s.mem := rfl
@[simp] theorem Hw.wr64_host (s : Hw) (lo hi : Reg) (x u : Nat) : (s.wr64 lo hi x u).host = s.host := rfl
@[simp] theorem Hw.wr64_beat (s : Hw) (lo hi : Reg) (x u : Nat) : (s.wr64 lo hi x u).beat = s.beat := rfl
@[simp] theorem Hw.wr64_tiles (s : Hw) (lo hi : Reg) (x u : Nat) : (s.wr64 lo hi x u).tiles = s.tiles := rfl
@[simp] theorem Hw.wr64_phys (s : Hw) (lo hi : Reg) (x u : Nat) : (s.wr64 lo hi x u).phys = s.phys := rfl
@[simp] theorem Hw.wr64_frames (s : Hw) (lo hi : Reg) (x u : Nat) : (s.wr64 lo hi x u).frames = s.frames := rfl
@[simp] theorem Hw.wr64_streams (s : Hw) (lo hi : Reg) (x u : Nat) : (s.wr64 lo hi x u).streams = s.streams := rfl
@[simp] theorem Hw.wr64_latches (s : Hw) (lo hi : Reg) (x u : Nat) : (s.wr64 lo hi x u).latches = s.latches := rfl
@[simp] theorem Hw.wr64_regions (s : Hw) (lo hi : Reg) (x u : Nat) : (s.wr64 lo hi x u).regions = s.regions := rfl
@[simp] theorem Hw.wr64_mail (s : Hw) (lo hi : Reg) (x u : Nat) : (s.wr64 lo hi x u).mail = s.mail := rfl
@[simp] theorem Hw.wr64_jobs (s : Hw) (lo hi : Reg) (x u : Nat) : (s.wr64 lo hi x u).jobs = s.jobs := rfl
@[simp] theorem Hw.wr64_layers (s : Hw) (lo hi : Reg) (x u : Nat) : (s.wr64 lo hi x u).layers = s.layers := rfl
@[simp] theorem Hw.wr64_links (s : Hw) (lo hi : Reg) (x u : Nat) : (s.wr64 lo hi x u).links = s.links := rfl
@[simp] theorem Hw.wr64_lnk (s : Hw) (lo hi : Reg) (x u : Nat) : (s.wr64 lo hi x u).lnk = s.lnk := rfl
@[simp] theorem Hw.wr64_twin (s : Hw) (lo hi : Reg) (x u : Nat) : (s.wr64 lo hi x u).twin = s.twin := rfl
@[simp] theorem Hw.wr64_flt (s : Hw) (lo hi : Reg) (x u : Nat) : (s.wr64 lo hi x u).flt = s.flt := rfl
@[simp] theorem Hw.wr64_chans (s : Hw) (lo hi : Reg) (x u : Nat) : (s.wr64 lo hi x u).chans = s.chans := rfl
@[simp] theorem Hw.wr64_mu (s : Hw) (lo hi : Reg) (x u : Nat) : (s.wr64 lo hi x u).mu = s.mu := rfl
@[simp] theorem Hw.wr64_pat (s : Hw) (lo hi : Reg) (x u : Nat) : (s.wr64 lo hi x u).pat = s.pat := rfl
@[simp] theorem Hw.wr64_boot (s : Hw) (lo hi : Reg) (x u : Nat) : (s.wr64 lo hi x u).boot = s.boot := rfl
@[simp] theorem Hw.wr64_pwr (s : Hw) (lo hi : Reg) (x u : Nat) : (s.wr64 lo hi x u).pwr = s.pwr := rfl
@[simp] theorem Hw.wr64_test (s : Hw) (lo hi : Reg) (x u : Nat) : (s.wr64 lo hi x u).test = s.test := rfl
@[simp] theorem Hw.wr64_free (s : Hw) (lo hi : Reg) (x u : Nat) : (s.wr64 lo hi x u).free = s.free := rfl

/-! ### bump -/

@[simp] theorem Hw.bump_mem (s : Hw) (f : Fld) (u n : Nat) : (s.bump f u n).mem = s.mem := by unfold Hw.bump; split <;> rfl
@[simp] theorem Hw.bump_host (s : Hw) (f : Fld) (u n : Nat) : (s.bump f u n).host = s.host := by unfold Hw.bump; split <;> rfl
@[simp] theorem Hw.bump_beat (s : Hw) (f : Fld) (u n : Nat) : (s.bump f u n).beat = s.beat := by unfold Hw.bump; split <;> rfl
@[simp] theorem Hw.bump_tiles (s : Hw) (f : Fld) (u n : Nat) : (s.bump f u n).tiles = s.tiles := by unfold Hw.bump; split <;> rfl
@[simp] theorem Hw.bump_phys (s : Hw) (f : Fld) (u n : Nat) : (s.bump f u n).phys = s.phys := by unfold Hw.bump; split <;> rfl
@[simp] theorem Hw.bump_frames (s : Hw) (f : Fld) (u n : Nat) : (s.bump f u n).frames = s.frames := by unfold Hw.bump; split <;> rfl
@[simp] theorem Hw.bump_streams (s : Hw) (f : Fld) (u n : Nat) : (s.bump f u n).streams = s.streams := by unfold Hw.bump; split <;> rfl
@[simp] theorem Hw.bump_latches (s : Hw) (f : Fld) (u n : Nat) : (s.bump f u n).latches = s.latches := by unfold Hw.bump; split <;> rfl
@[simp] theorem Hw.bump_regions (s : Hw) (f : Fld) (u n : Nat) : (s.bump f u n).regions = s.regions := by unfold Hw.bump; split <;> rfl
@[simp] theorem Hw.bump_mail (s : Hw) (f : Fld) (u n : Nat) : (s.bump f u n).mail = s.mail := by unfold Hw.bump; split <;> rfl
@[simp] theorem Hw.bump_jobs (s : Hw) (f : Fld) (u n : Nat) : (s.bump f u n).jobs = s.jobs := by unfold Hw.bump; split <;> rfl
@[simp] theorem Hw.bump_layers (s : Hw) (f : Fld) (u n : Nat) : (s.bump f u n).layers = s.layers := by unfold Hw.bump; split <;> rfl
@[simp] theorem Hw.bump_links (s : Hw) (f : Fld) (u n : Nat) : (s.bump f u n).links = s.links := by unfold Hw.bump; split <;> rfl
@[simp] theorem Hw.bump_lnk (s : Hw) (f : Fld) (u n : Nat) : (s.bump f u n).lnk = s.lnk := by unfold Hw.bump; split <;> rfl
@[simp] theorem Hw.bump_twin (s : Hw) (f : Fld) (u n : Nat) : (s.bump f u n).twin = s.twin := by unfold Hw.bump; split <;> rfl
@[simp] theorem Hw.bump_flt (s : Hw) (f : Fld) (u n : Nat) : (s.bump f u n).flt = s.flt := by unfold Hw.bump; split <;> rfl
@[simp] theorem Hw.bump_chans (s : Hw) (f : Fld) (u n : Nat) : (s.bump f u n).chans = s.chans := by unfold Hw.bump; split <;> rfl
@[simp] theorem Hw.bump_mu (s : Hw) (f : Fld) (u n : Nat) : (s.bump f u n).mu = s.mu := by unfold Hw.bump; split <;> rfl
@[simp] theorem Hw.bump_pat (s : Hw) (f : Fld) (u n : Nat) : (s.bump f u n).pat = s.pat := by unfold Hw.bump; split <;> rfl
@[simp] theorem Hw.bump_boot (s : Hw) (f : Fld) (u n : Nat) : (s.bump f u n).boot = s.boot := by unfold Hw.bump; split <;> rfl
@[simp] theorem Hw.bump_pwr (s : Hw) (f : Fld) (u n : Nat) : (s.bump f u n).pwr = s.pwr := by unfold Hw.bump; split <;> rfl
@[simp] theorem Hw.bump_test (s : Hw) (f : Fld) (u n : Nat) : (s.bump f u n).test = s.test := by unfold Hw.bump; split <;> rfl
@[simp] theorem Hw.bump_free (s : Hw) (f : Fld) (u n : Nat) : (s.bump f u n).free = s.free := by unfold Hw.bump; split <;> rfl

/-! ### setPhys -/

@[simp] theorem Hw.setPhys_regs (s : Hw) (i : Nat) (x : Phys) : (s.setPhys i x).regs = s.regs := rfl
@[simp] theorem Hw.setPhys_mem (s : Hw) (i : Nat) (x : Phys) : (s.setPhys i x).mem = s.mem := rfl
@[simp] theorem Hw.setPhys_host (s : Hw) (i : Nat) (x : Phys) : (s.setPhys i x).host = s.host := rfl
@[simp] theorem Hw.setPhys_beat (s : Hw) (i : Nat) (x : Phys) : (s.setPhys i x).beat = s.beat := rfl
@[simp] theorem Hw.setPhys_tiles (s : Hw) (i : Nat) (x : Phys) : (s.setPhys i x).tiles = s.tiles := rfl
@[simp] theorem Hw.setPhys_frames (s : Hw) (i : Nat) (x : Phys) : (s.setPhys i x).frames = s.frames := rfl
@[simp] theorem Hw.setPhys_streams (s : Hw) (i : Nat) (x : Phys) : (s.setPhys i x).streams = s.streams := rfl
@[simp] theorem Hw.setPhys_latches (s : Hw) (i : Nat) (x : Phys) : (s.setPhys i x).latches = s.latches := rfl
@[simp] theorem Hw.setPhys_regions (s : Hw) (i : Nat) (x : Phys) : (s.setPhys i x).regions = s.regions := rfl
@[simp] theorem Hw.setPhys_mail (s : Hw) (i : Nat) (x : Phys) : (s.setPhys i x).mail = s.mail := rfl
@[simp] theorem Hw.setPhys_jobs (s : Hw) (i : Nat) (x : Phys) : (s.setPhys i x).jobs = s.jobs := rfl
@[simp] theorem Hw.setPhys_layers (s : Hw) (i : Nat) (x : Phys) : (s.setPhys i x).layers = s.layers := rfl
@[simp] theorem Hw.setPhys_links (s : Hw) (i : Nat) (x : Phys) : (s.setPhys i x).links = s.links := rfl
@[simp] theorem Hw.setPhys_lnk (s : Hw) (i : Nat) (x : Phys) : (s.setPhys i x).lnk = s.lnk := rfl
@[simp] theorem Hw.setPhys_twin (s : Hw) (i : Nat) (x : Phys) : (s.setPhys i x).twin = s.twin := rfl
@[simp] theorem Hw.setPhys_flt (s : Hw) (i : Nat) (x : Phys) : (s.setPhys i x).flt = s.flt := rfl
@[simp] theorem Hw.setPhys_chans (s : Hw) (i : Nat) (x : Phys) : (s.setPhys i x).chans = s.chans := rfl
@[simp] theorem Hw.setPhys_mu (s : Hw) (i : Nat) (x : Phys) : (s.setPhys i x).mu = s.mu := rfl
@[simp] theorem Hw.setPhys_pat (s : Hw) (i : Nat) (x : Phys) : (s.setPhys i x).pat = s.pat := rfl
@[simp] theorem Hw.setPhys_boot (s : Hw) (i : Nat) (x : Phys) : (s.setPhys i x).boot = s.boot := rfl
@[simp] theorem Hw.setPhys_pwr (s : Hw) (i : Nat) (x : Phys) : (s.setPhys i x).pwr = s.pwr := rfl
@[simp] theorem Hw.setPhys_test (s : Hw) (i : Nat) (x : Phys) : (s.setPhys i x).test = s.test := rfl
@[simp] theorem Hw.setPhys_free (s : Hw) (i : Nat) (x : Phys) : (s.setPhys i x).free = s.free := rfl

theorem Hw.rd_setPhys (s : Hw) (i : Nat) (x : Phys) (r : Reg) (u : Nat) : (s.setPhys i x).rd r u = s.rd r u := rfl
@[simp] theorem Hw.fget_setPhys (s : Hw) (i : Nat) (x : Phys) (f : Fld) (u : Nat) : (s.setPhys i x).fget f u = s.fget f u := rfl
theorem Hw.getPhys_setPhys (s : Hw) (i j : Nat) (x : Phys) : (s.setPhys i x).getPhys j = if i = j then x else s.getPhys j := Sparse.get_put _ _ _ _ _
@[simp] theorem Hw.getPhys_setPhys_self (s : Hw) (i : Nat) (x : Phys) : (s.setPhys i x).getPhys i = x := Sparse.get_put_self _ _ _ _
theorem Hw.modPhys_eq (s : Hw) (i : Nat) (f : Phys → Phys) : s.modPhys i f = s.setPhys i (f (s.getPhys i)) := rfl

/-! ### setTile -/

@[simp] theorem Hw.setTile_regs (s : Hw) (i : Nat) (x : Tile) : (s.setTile i x).regs = s.regs := rfl
@[simp] theorem Hw.setTile_mem (s : Hw) (i : Nat) (x : Tile) : (s.setTile i x).mem = s.mem := rfl
@[simp] theorem Hw.setTile_host (s : Hw) (i : Nat) (x : Tile) : (s.setTile i x).host = s.host := rfl
@[simp] theorem Hw.setTile_beat (s : Hw) (i : Nat) (x : Tile) : (s.setTile i x).beat = s.beat := rfl
@[simp] theorem Hw.setTile_phys (s : Hw) (i : Nat) (x : Tile) : (s.setTile i x).phys = s.phys := rfl
@[simp] theorem Hw.setTile_frames (s : Hw) (i : Nat) (x : Tile) : (s.setTile i x).frames = s.frames := rfl
@[simp] theorem Hw.setTile_streams (s : Hw) (i : Nat) (x : Tile) : (s.setTile i x).streams = s.streams := rfl
@[simp] theorem Hw.setTile_latches (s : Hw) (i : Nat) (x : Tile) : (s.setTile i x).latches = s.latches := rfl
@[simp] theorem Hw.setTile_regions (s : Hw) (i : Nat) (x : Tile) : (s.setTile i x).regions = s.regions := rfl
@[simp] theorem Hw.setTile_mail (s : Hw) (i : Nat) (x : Tile) : (s.setTile i x).mail = s.mail := rfl
@[simp] theorem Hw.setTile_jobs (s : Hw) (i : Nat) (x : Tile) : (s.setTile i x).jobs = s.jobs := rfl
@[simp] theorem Hw.setTile_layers (s : Hw) (i : Nat) (x : Tile) : (s.setTile i x).layers = s.layers := rfl
@[simp] theorem Hw.setTile_links (s : Hw) (i : Nat) (x : Tile) : (s.setTile i x).links = s.links := rfl
@[simp] theorem Hw.setTile_lnk (s : Hw) (i : Nat) (x : Tile) : (s.setTile i x).lnk = s.lnk := rfl
@[simp] theorem Hw.setTile_twin (s : Hw) (i : Nat) (x : Tile) : (s.setTile i x).twin = s.twin := rfl
@[simp] theorem Hw.setTile_flt (s : Hw) (i : Nat) (x : Tile) : (s.setTile i x).flt = s.flt := rfl
@[simp] theorem Hw.setTile_chans (s : Hw) (i : Nat) (x : Tile) : (s.setTile i x).chans = s.chans := rfl
@[simp] theorem Hw.setTile_mu (s : Hw) (i : Nat) (x : Tile) : (s.setTile i x).mu = s.mu := rfl
@[simp] theorem Hw.setTile_pat (s : Hw) (i : Nat) (x : Tile) : (s.setTile i x).pat = s.pat := rfl
@[simp] theorem Hw.setTile_boot (s : Hw) (i : Nat) (x : Tile) : (s.setTile i x).boot = s.boot := rfl
@[simp] theorem Hw.setTile_pwr (s : Hw) (i : Nat) (x : Tile) : (s.setTile i x).pwr = s.pwr := rfl
@[simp] theorem Hw.setTile_test (s : Hw) (i : Nat) (x : Tile) : (s.setTile i x).test = s.test := rfl
@[simp] theorem Hw.setTile_free (s : Hw) (i : Nat) (x : Tile) : (s.setTile i x).free = s.free := rfl

theorem Hw.rd_setTile (s : Hw) (i : Nat) (x : Tile) (r : Reg) (u : Nat) : (s.setTile i x).rd r u = s.rd r u := rfl
@[simp] theorem Hw.fget_setTile (s : Hw) (i : Nat) (x : Tile) (f : Fld) (u : Nat) : (s.setTile i x).fget f u = s.fget f u := rfl
theorem Hw.getTile_setTile (s : Hw) (i j : Nat) (x : Tile) : (s.setTile i x).getTile j = if i = j then x else s.getTile j := Sparse.get_put _ _ _ _ _
@[simp] theorem Hw.getTile_setTile_self (s : Hw) (i : Nat) (x : Tile) : (s.setTile i x).getTile i = x := Sparse.get_put_self _ _ _ _
theorem Hw.modTile_eq (s : Hw) (i : Nat) (f : Tile → Tile) : s.modTile i f = s.setTile i (f (s.getTile i)) := rfl

/-! ### setChan -/

@[simp] theorem Hw.setChan_regs (s : Hw) (i : Nat) (x : Chan) : (s.setChan i x).regs = s.regs := rfl
@[simp] theorem Hw.setChan_mem (s : Hw) (i : Nat) (x : Chan) : (s.setChan i x).mem = s.mem := rfl
@[simp] theorem Hw.setChan_host (s : Hw) (i : Nat) (x : Chan) : (s.setChan i x).host = s.host := rfl
@[simp] theorem Hw.setChan_beat (s : Hw) (i : Nat) (x : Chan) : (s.setChan i x).beat = s.beat := rfl
@[simp] theorem Hw.setChan_tiles (s : Hw) (i : Nat) (x : Chan) : (s.setChan i x).tiles = s.tiles := rfl
@[simp] theorem Hw.setChan_phys (s : Hw) (i : Nat) (x : Chan) : (s.setChan i x).phys = s.phys := rfl
@[simp] theorem Hw.setChan_frames (s : Hw) (i : Nat) (x : Chan) : (s.setChan i x).frames = s.frames := rfl
@[simp] theorem Hw.setChan_streams (s : Hw) (i : Nat) (x : Chan) : (s.setChan i x).streams = s.streams := rfl
@[simp] theorem Hw.setChan_latches (s : Hw) (i : Nat) (x : Chan) : (s.setChan i x).latches = s.latches := rfl
@[simp] theorem Hw.setChan_regions (s : Hw) (i : Nat) (x : Chan) : (s.setChan i x).regions = s.regions := rfl
@[simp] theorem Hw.setChan_mail (s : Hw) (i : Nat) (x : Chan) : (s.setChan i x).mail = s.mail := rfl
@[simp] theorem Hw.setChan_jobs (s : Hw) (i : Nat) (x : Chan) : (s.setChan i x).jobs = s.jobs := rfl
@[simp] theorem Hw.setChan_layers (s : Hw) (i : Nat) (x : Chan) : (s.setChan i x).layers = s.layers := rfl
@[simp] theorem Hw.setChan_links (s : Hw) (i : Nat) (x : Chan) : (s.setChan i x).links = s.links := rfl
@[simp] theorem Hw.setChan_lnk (s : Hw) (i : Nat) (x : Chan) : (s.setChan i x).lnk = s.lnk := rfl
@[simp] theorem Hw.setChan_twin (s : Hw) (i : Nat) (x : Chan) : (s.setChan i x).twin = s.twin := rfl
@[simp] theorem Hw.setChan_flt (s : Hw) (i : Nat) (x : Chan) : (s.setChan i x).flt = s.flt := rfl
@[simp] theorem Hw.setChan_mu (s : Hw) (i : Nat) (x : Chan) : (s.setChan i x).mu = s.mu := rfl
@[simp] theorem Hw.setChan_pat (s : Hw) (i : Nat) (x : Chan) : (s.setChan i x).pat = s.pat := rfl
@[simp] theorem Hw.setChan_boot (s : Hw) (i : Nat) (x : Chan) : (s.setChan i x).boot = s.boot := rfl
@[simp] theorem Hw.setChan_pwr (s : Hw) (i : Nat) (x : Chan) : (s.setChan i x).pwr = s.pwr := rfl
@[simp] theorem Hw.setChan_test (s : Hw) (i : Nat) (x : Chan) : (s.setChan i x).test = s.test := rfl
@[simp] theorem Hw.setChan_free (s : Hw) (i : Nat) (x : Chan) : (s.setChan i x).free = s.free := rfl

theorem Hw.rd_setChan (s : Hw) (i : Nat) (x : Chan) (r : Reg) (u : Nat) : (s.setChan i x).rd r u = s.rd r u := rfl
@[simp] theorem Hw.fget_setChan (s : Hw) (i : Nat) (x : Chan) (f : Fld) (u : Nat) : (s.setChan i x).fget f u = s.fget f u := rfl
theorem Hw.getChan_setChan (s : Hw) (i j : Nat) (x : Chan) : (s.setChan i x).getChan j = if i = j then x else s.getChan j := Sparse.get_put _ _ _ _ _
@[simp] theorem Hw.getChan_setChan_self (s : Hw) (i : Nat) (x : Chan) : (s.setChan i x).getChan i = x := Sparse.get_put_self _ _ _ _
theorem Hw.modChan_eq (s : Hw) (i : Nat) (f : Chan → Chan) : s.modChan i f = s.setChan i (f (s.getChan i)) := rfl

/-! ### setLink -/

@[simp] theorem Hw.setLink_regs (s : Hw) (i : Nat) (x : Link) : (s.setLink i x).regs = s.regs := rfl
@[simp] theorem Hw.setLink_mem (s : Hw) (i : Nat) (x : Link) : (s.setLink i x).mem = s.mem := rfl
@[simp] theorem Hw.setLink_host (s : Hw) (i : Nat) (x : Link) : (s.setLink i x).host = s.host := rfl
@[simp] theorem Hw.setLink_beat (s : Hw) (i : Nat) (x : Link) : (s.setLink i x).beat = s.beat := rfl
@[simp] theorem Hw.setLink_tiles (s : Hw) (i : Nat) (x : Link) : (s.setLink i x).tiles = s.tiles := rfl
@[simp] theorem Hw.setLink_phys (s : Hw) (i : Nat) (x : Link) : (s.setLink i x).phys = s.phys := rfl
@[simp] theorem Hw.setLink_frames (s : Hw) (i : Nat) (x : Link) : (s.setLink i x).frames = s.frames := rfl
@[simp] theorem Hw.setLink_streams (s : Hw) (i : Nat) (x : Link) : (s.setLink i x).streams = s.streams := rfl
@[simp] theorem Hw.setLink_latches (s : Hw) (i : Nat) (x : Link) : (s.setLink i x).latches = s.latches := rfl
@[simp] theorem Hw.setLink_regions (s : Hw) (i : Nat) (x : Link) : (s.setLink i x).regions = s.regions := rfl
@[simp] theorem Hw.setLink_mail (s : Hw) (i : Nat) (x : Link) : (s.setLink i x).mail = s.mail := rfl
@[simp] theorem Hw.setLink_jobs (s : Hw) (i : Nat) (x : Link) : (s.setLink i x).jobs = s.jobs := rfl
@[simp] theorem Hw.setLink_layers (s : Hw) (i : Nat) (x : Link) : (s.setLink i x).layers = s.layers := rfl
@[simp] theorem Hw.setLink_lnk (s : Hw) (i : Nat) (x : Link) : (s.setLink i x).lnk = s.lnk := rfl
@[simp] theorem Hw.setLink_twin (s : Hw) (i : Nat) (x : Link) : (s.setLink i x).twin = s.twin := rfl
@[simp] theorem Hw.setLink_flt (s : Hw) (i : Nat) (x : Link) : (s.setLink i x).flt = s.flt := rfl
@[simp] theorem Hw.setLink_chans (s : Hw) (i : Nat) (x : Link) : (s.setLink i x).chans = s.chans := rfl
@[simp] theorem Hw.setLink_mu (s : Hw) (i : Nat) (x : Link) : (s.setLink i x).mu = s.mu := rfl
@[simp] theorem Hw.setLink_pat (s : Hw) (i : Nat) (x : Link) : (s.setLink i x).pat = s.pat := rfl
@[simp] theorem Hw.setLink_boot (s : Hw) (i : Nat) (x : Link) : (s.setLink i x).boot = s.boot := rfl
@[simp] theorem Hw.setLink_pwr (s : Hw) (i : Nat) (x : Link) : (s.setLink i x).pwr = s.pwr := rfl
@[simp] theorem Hw.setLink_test (s : Hw) (i : Nat) (x : Link) : (s.setLink i x).test = s.test := rfl
@[simp] theorem Hw.setLink_free (s : Hw) (i : Nat) (x : Link) : (s.setLink i x).free = s.free := rfl

theorem Hw.rd_setLink (s : Hw) (i : Nat) (x : Link) (r : Reg) (u : Nat) : (s.setLink i x).rd r u = s.rd r u := rfl
@[simp] theorem Hw.fget_setLink (s : Hw) (i : Nat) (x : Link) (f : Fld) (u : Nat) : (s.setLink i x).fget f u = s.fget f u := rfl
theorem Hw.getLink_setLink (s : Hw) (i j : Nat) (x : Link) : (s.setLink i x).getLink j = if i = j then x else s.getLink j := Sparse.get_put _ _ _ _ _
@[simp] theorem Hw.getLink_setLink_self (s : Hw) (i : Nat) (x : Link) : (s.setLink i x).getLink i = x := Sparse.get_put_self _ _ _ _
theorem Hw.modLink_eq (s : Hw) (i : Nat) (f : Link → Link) : s.modLink i f = s.setLink i (f (s.getLink i)) := rfl

/-! ### setStream -/

@[simp] theorem Hw.setStream_regs (s : Hw) (i : Nat) (x : StreamSt) : (s.setStream i x).regs = s.regs := rfl
@[simp] theorem Hw.setStream_mem (s : Hw) (i : Nat) (x : StreamSt) : (s.setStream i x).mem = s.mem := rfl
@[simp] theorem Hw.setStream_host (s : Hw) (i : Nat) (x : StreamSt) : (s.setStream i x).host = s.host := rfl
@[simp] theorem Hw.setStream_beat (s : Hw) (i : Nat) (x : StreamSt) : (s.setStream i x).beat = s.beat := rfl
@[simp] theorem Hw.setStream_tiles (s : Hw) (i : Nat) (x : StreamSt) : (s.setStream i x).tiles = s.tiles := rfl
@[simp] theorem Hw.setStream_phys (s : Hw) (i : Nat) (x : StreamSt) : (s.setStream i x).phys = s.phys := rfl
@[simp] theorem Hw.setStream_frames (s : Hw) (i : Nat) (x : StreamSt) : (s.setStream i x).frames = s.frames := rfl
@[simp] theorem Hw.setStream_latches (s : Hw) (i : Nat) (x : StreamSt) : (s.setStream i x).latches = s.latches := rfl
@[simp] theorem Hw.setStream_regions (s : Hw) (i : Nat) (x : StreamSt) : (s.setStream i x).regions = s.regions := rfl
@[simp] theorem Hw.setStream_mail (s : Hw) (i : Nat) (x : StreamSt) : (s.setStream i x).mail = s.mail := rfl
@[simp] theorem Hw.setStream_jobs (s : Hw) (i : Nat) (x : StreamSt) : (s.setStream i x).jobs = s.jobs := rfl
@[simp] theorem Hw.setStream_layers (s : Hw) (i : Nat) (x : StreamSt) : (s.setStream i x).layers = s.layers := rfl
@[simp] theorem Hw.setStream_links (s : Hw) (i : Nat) (x : StreamSt) : (s.setStream i x).links = s.links := rfl
@[simp] theorem Hw.setStream_lnk (s : Hw) (i : Nat) (x : StreamSt) : (s.setStream i x).lnk = s.lnk := rfl
@[simp] theorem Hw.setStream_twin (s : Hw) (i : Nat) (x : StreamSt) : (s.setStream i x).twin = s.twin := rfl
@[simp] theorem Hw.setStream_flt (s : Hw) (i : Nat) (x : StreamSt) : (s.setStream i x).flt = s.flt := rfl
@[simp] theorem Hw.setStream_chans (s : Hw) (i : Nat) (x : StreamSt) : (s.setStream i x).chans = s.chans := rfl
@[simp] theorem Hw.setStream_mu (s : Hw) (i : Nat) (x : StreamSt) : (s.setStream i x).mu = s.mu := rfl
@[simp] theorem Hw.setStream_pat (s : Hw) (i : Nat) (x : StreamSt) : (s.setStream i x).pat = s.pat := rfl
@[simp] theorem Hw.setStream_boot (s : Hw) (i : Nat) (x : StreamSt) : (s.setStream i x).boot = s.boot := rfl
@[simp] theorem Hw.setStream_pwr (s : Hw) (i : Nat) (x : StreamSt) : (s.setStream i x).pwr = s.pwr := rfl
@[simp] theorem Hw.setStream_test (s : Hw) (i : Nat) (x : StreamSt) : (s.setStream i x).test = s.test := rfl
@[simp] theorem Hw.setStream_free (s : Hw) (i : Nat) (x : StreamSt) : (s.setStream i x).free = s.free := rfl

theorem Hw.rd_setStream (s : Hw) (i : Nat) (x : StreamSt) (r : Reg) (u : Nat) : (s.setStream i x).rd r u = s.rd r u := rfl
@[simp] theorem Hw.fget_setStream (s : Hw) (i : Nat) (x : StreamSt) (f : Fld) (u : Nat) : (s.setStream i x).fget f u = s.fget f u := rfl
theorem Hw.getStream_setStream (s : Hw) (i j : Nat) (x : StreamSt) : (s.setStream i x).getStream j = if i = j then x else s.getStream j := Sparse.get_put _ _ _ _ _
@[simp] theorem Hw.getStream_setStream_self (s : Hw) (i : Nat) (x : StreamSt) : (s.setStream i x).getStream i = x := Sparse.get_put_self _ _ _ _
theorem Hw.modStream_eq (s : Hw) (i : Nat) (f : StreamSt → StreamSt) : s.modStream i f = s.setStream i (f (s.getStream i)) := rfl

/-! ### setJob -/

@[simp] theorem Hw.setJob_regs (s : Hw) (i : Nat) (x : Job) : (s.setJob i x).regs = s.regs := rfl
@[simp] theorem Hw.setJob_mem (s : Hw) (i : Nat) (x : Job) : (s.setJob i x).mem = s.mem := rfl
@[simp] theorem Hw.setJob_host (s : Hw) (i : Nat) (x : Job) : (s.setJob i x).host = s.host := rfl
@[simp] theorem Hw.setJob_beat (s : Hw) (i : Nat) (x : Job) : (s.setJob i x).beat = s.beat := rfl
@[simp] theorem Hw.setJob_tiles (s : Hw) (i : Nat) (x : Job) : (s.setJob i x).tiles = s.tiles := rfl
@[simp] theorem Hw.setJob_phys (s : Hw) (i : Nat) (x : Job) : (s.setJob i x).phys = s.phys := rfl
@[simp] theorem Hw.setJob_frames (s : Hw) (i : Nat) (x : Job) : (s.setJob i x).frames = s.frames := rfl
@[simp] theorem Hw.setJob_streams (s : Hw) (i : Nat) (x : Job) : (s.setJob i x).streams = s.streams := rfl
@[simp] theorem Hw.setJob_latches (s : Hw) (i : Nat) (x : Job) : (s.setJob i x).latches = s.latches := rfl
@[simp] theorem Hw.setJob_regions (s : Hw) (i : Nat) (x : Job) : (s.setJob i x).regions = s.regions := rfl
@[simp] theorem Hw.setJob_mail (s : Hw) (i : Nat) (x : Job) : (s.setJob i x).mail = s.mail := rfl
@[simp] theorem Hw.setJob_layers (s : Hw) (i : Nat) (x : Job) : (s.setJob i x).layers = s.layers := rfl
@[simp] theorem Hw.setJob_links (s : Hw) (i : Nat) (x : Job) : (s.setJob i x).links = s.links := rfl
@[simp] theorem Hw.setJob_lnk (s : Hw) (i : Nat) (x : Job) : (s.setJob i x).lnk = s.lnk := rfl
@[simp] theorem Hw.setJob_twin (s : Hw) (i : Nat) (x : Job) : (s.setJob i x).twin = s.twin := rfl
@[simp] theorem Hw.setJob_flt (s : Hw) (i : Nat) (x : Job) : (s.setJob i x).flt = s.flt := rfl
@[simp] theorem Hw.setJob_chans (s : Hw) (i : Nat) (x : Job) : (s.setJob i x).chans = s.chans := rfl
@[simp] theorem Hw.setJob_mu (s : Hw) (i : Nat) (x : Job) : (s.setJob i x).mu = s.mu := rfl
@[simp] theorem Hw.setJob_pat (s : Hw) (i : Nat) (x : Job) : (s.setJob i x).pat = s.pat := rfl
@[simp] theorem Hw.setJob_boot (s : Hw) (i : Nat) (x : Job) : (s.setJob i x).boot = s.boot := rfl
@[simp] theorem Hw.setJob_pwr (s : Hw) (i : Nat) (x : Job) : (s.setJob i x).pwr = s.pwr := rfl
@[simp] theorem Hw.setJob_test (s : Hw) (i : Nat) (x : Job) : (s.setJob i x).test = s.test := rfl
@[simp] theorem Hw.setJob_free (s : Hw) (i : Nat) (x : Job) : (s.setJob i x).free = s.free := rfl

theorem Hw.rd_setJob (s : Hw) (i : Nat) (x : Job) (r : Reg) (u : Nat) : (s.setJob i x).rd r u = s.rd r u := rfl
@[simp] theorem Hw.fget_setJob (s : Hw) (i : Nat) (x : Job) (f : Fld) (u : Nat) : (s.setJob i x).fget f u = s.fget f u := rfl
theorem Hw.getJob_setJob (s : Hw) (i j : Nat) (x : Job) : (s.setJob i x).getJob j = if i = j then x else s.getJob j := Sparse.get_put _ _ _ _ _
@[simp] theorem Hw.getJob_setJob_self (s : Hw) (i : Nat) (x : Job) : (s.setJob i x).getJob i = x := Sparse.get_put_self _ _ _ _
theorem Hw.modJob_eq (s : Hw) (i : Nat) (f : Job → Job) : s.modJob i f = s.setJob i (f (s.getJob i)) := rfl

/-! ### setLayer -/

@[simp] theorem Hw.setLayer_regs (s : Hw) (i : Nat) (x : Layer) : (s.setLayer i x).regs = s.regs := rfl
@[simp] theorem Hw.setLayer_mem (s : Hw) (i : Nat) (x : Layer) : (s.setLayer i x).mem = s.mem := rfl
@[simp] theorem Hw.setLayer_host (s : Hw) (i : Nat) (x : Layer) : (s.setLayer i x).host = s.host := rfl
@[simp] theorem Hw.setLayer_beat (s : Hw) (i : Nat) (x : Layer) : (s.setLayer i x).beat = s.beat := rfl
@[simp] theorem Hw.setLayer_tiles (s : Hw) (i : Nat) (x : Layer) : (s.setLayer i x).tiles = s.tiles := rfl
@[simp] theorem Hw.setLayer_phys (s : Hw) (i : Nat) (x : Layer) : (s.setLayer i x).phys = s.phys := rfl
@[simp] theorem Hw.setLayer_frames (s : Hw) (i : Nat) (x : Layer) : (s.setLayer i x).frames = s.frames := rfl
@[simp] theorem Hw.setLayer_streams (s : Hw) (i : Nat) (x : Layer) : (s.setLayer i x).streams = s.streams := rfl
@[simp] theorem Hw.setLayer_latches (s : Hw) (i : Nat) (x : Layer) : (s.setLayer i x).latches = s.latches := rfl
@[simp] theorem Hw.setLayer_regions (s : Hw) (i : Nat) (x : Layer) : (s.setLayer i x).regions = s.regions := rfl
@[simp] theorem Hw.setLayer_mail (s : Hw) (i : Nat) (x : Layer) : (s.setLayer i x).mail = s.mail := rfl
@[simp] theorem Hw.setLayer_jobs (s : Hw) (i : Nat) (x : Layer) : (s.setLayer i x).jobs = s.jobs := rfl
@[simp] theorem Hw.setLayer_links (s : Hw) (i : Nat) (x : Layer) : (s.setLayer i x).links = s.links := rfl
@[simp] theorem Hw.setLayer_lnk (s : Hw) (i : Nat) (x : Layer) : (s.setLayer i x).lnk = s.lnk := rfl
@[simp] theorem Hw.setLayer_twin (s : Hw) (i : Nat) (x : Layer) : (s.setLayer i x).twin = s.twin := rfl
@[simp] theorem Hw.setLayer_flt (s : Hw) (i : Nat) (x : Layer) : (s.setLayer i x).flt = s.flt := rfl
@[simp] theorem Hw.setLayer_chans (s : Hw) (i : Nat) (x : Layer) : (s.setLayer i x).chans = s.chans := rfl
@[simp] theorem Hw.setLayer_mu (s : Hw) (i : Nat) (x : Layer) : (s.setLayer i x).mu = s.mu := rfl
@[simp] theorem Hw.setLayer_pat (s : Hw) (i : Nat) (x : Layer) : (s.setLayer i x).pat = s.pat := rfl
@[simp] theorem Hw.setLayer_boot (s : Hw) (i : Nat) (x : Layer) : (s.setLayer i x).boot = s.boot := rfl
@[simp] theorem Hw.setLayer_pwr (s : Hw) (i : Nat) (x : Layer) : (s.setLayer i x).pwr = s.pwr := rfl
@[simp] theorem Hw.setLayer_test (s : Hw) (i : Nat) (x : Layer) : (s.setLayer i x).test = s.test := rfl
@[simp] theorem Hw.setLayer_free (s : Hw) (i : Nat) (x : Layer) : (s.setLayer i x).free = s.free := rfl

theorem Hw.rd_setLayer (s : Hw) (i : Nat) (x : Layer) (r : Reg) (u : Nat) : (s.setLayer i x).rd r u = s.rd r u := rfl
@[simp] theorem Hw.fget_setLayer (s : Hw) (i : Nat) (x : Layer) (f : Fld) (u : Nat) : (s.setLayer i x).fget f u = s.fget f u := rfl
theorem Hw.getLayer_setLayer (s : Hw) (i j : Nat) (x : Layer) : (s.setLayer i x).getLayer j = if i = j then x else s.getLayer j := Sparse.get_put _ _ _ _ _
@[simp] theorem Hw.getLayer_setLayer_self (s : Hw) (i : Nat) (x : Layer) : (s.setLayer i x).getLayer i = x := Sparse.get_put_self _ _ _ _
theorem Hw.modLayer_eq (s : Hw) (i : Nat) (f : Layer → Layer) : s.modLayer i f = s.setLayer i (f (s.getLayer i)) := rfl

/-! ### setFrame -/

@[simp] theorem Hw.setFrame_regs (s : Hw) (i : Nat) (x : FrameState) : (s.setFrame i x).regs = s.regs := rfl
@[simp] theorem Hw.setFrame_mem (s : Hw) (i : Nat) (x : FrameState) : (s.setFrame i x).mem = s.mem := rfl
@[simp] theorem Hw.setFrame_host (s : Hw) (i : Nat) (x : FrameState) : (s.setFrame i x).host = s.host := rfl
@[simp] theorem Hw.setFrame_beat (s : Hw) (i : Nat) (x : FrameState) : (s.setFrame i x).beat = s.beat := rfl
@[simp] theorem Hw.setFrame_tiles (s : Hw) (i : Nat) (x : FrameState) : (s.setFrame i x).tiles = s.tiles := rfl
@[simp] theorem Hw.setFrame_phys (s : Hw) (i : Nat) (x : FrameState) : (s.setFrame i x).phys = s.phys := rfl
@[simp] theorem Hw.setFrame_streams (s : Hw) (i : Nat) (x : FrameState) : (s.setFrame i x).streams = s.streams := rfl
@[simp] theorem Hw.setFrame_latches (s : Hw) (i : Nat) (x : FrameState) : (s.setFrame i x).latches = s.latches := rfl
@[simp] theorem Hw.setFrame_regions (s : Hw) (i : Nat) (x : FrameState) : (s.setFrame i x).regions = s.regions := rfl
@[simp] theorem Hw.setFrame_mail (s : Hw) (i : Nat) (x : FrameState) : (s.setFrame i x).mail = s.mail := rfl
@[simp] theorem Hw.setFrame_jobs (s : Hw) (i : Nat) (x : FrameState) : (s.setFrame i x).jobs = s.jobs := rfl
@[simp] theorem Hw.setFrame_layers (s : Hw) (i : Nat) (x : FrameState) : (s.setFrame i x).layers = s.layers := rfl
@[simp] theorem Hw.setFrame_links (s : Hw) (i : Nat) (x : FrameState) : (s.setFrame i x).links = s.links := rfl
@[simp] theorem Hw.setFrame_lnk (s : Hw) (i : Nat) (x : FrameState) : (s.setFrame i x).lnk = s.lnk := rfl
@[simp] theorem Hw.setFrame_twin (s : Hw) (i : Nat) (x : FrameState) : (s.setFrame i x).twin = s.twin := rfl
@[simp] theorem Hw.setFrame_flt (s : Hw) (i : Nat) (x : FrameState) : (s.setFrame i x).flt = s.flt := rfl
@[simp] theorem Hw.setFrame_chans (s : Hw) (i : Nat) (x : FrameState) : (s.setFrame i x).chans = s.chans := rfl
@[simp] theorem Hw.setFrame_mu (s : Hw) (i : Nat) (x : FrameState) : (s.setFrame i x).mu = s.mu := rfl
@[simp] theorem Hw.setFrame_pat (s : Hw) (i : Nat) (x : FrameState) : (s.setFrame i x).pat = s.pat := rfl
@[simp] theorem Hw.setFrame_boot (s : Hw) (i : Nat) (x : FrameState) : (s.setFrame i x).boot = s.boot := rfl
@[simp] theorem Hw.setFrame_pwr (s : Hw) (i : Nat) (x : FrameState) : (s.setFrame i x).pwr = s.pwr := rfl
@[simp] theorem Hw.setFrame_test (s : Hw) (i : Nat) (x : FrameState) : (s.setFrame i x).test = s.test := rfl
@[simp] theorem Hw.setFrame_free (s : Hw) (i : Nat) (x : FrameState) : (s.setFrame i x).free = s.free := rfl

theorem Hw.rd_setFrame (s : Hw) (i : Nat) (x : FrameState) (r : Reg) (u : Nat) : (s.setFrame i x).rd r u = s.rd r u := rfl
@[simp] theorem Hw.fget_setFrame (s : Hw) (i : Nat) (x : FrameState) (f : Fld) (u : Nat) : (s.setFrame i x).fget f u = s.fget f u := rfl

/-! ### What is read from the registers alone -/

theorem Hw.rd_congr {s t : Hw} (h : s.regs = t.regs) (r : Reg) (u : Nat) : s.rd r u = t.rd r u := by unfold Hw.rd; rw [h]
theorem Hw.fget_congr {s t : Hw} (h : s.regs = t.regs) (f : Fld) (u : Nat) : s.fget f u = t.fget f u := by
  unfold Hw.fget; rw [Hw.rd_congr h]
theorem Hw.flag_congr {s t : Hw} (h : s.regs = t.regs) (f : Fld) (u : Nat) : s.flag f u = t.flag f u := by
  unfold Hw.flag; rw [Hw.fget_congr h]

/-! ### The whole machine -/

/-- A command that acts on everything but the queue, the fuses and the flash always completes. -/
theorem State.onHw_eq (s : State) (f : Hw → Hw) : s.onHw f = .next { s with hw := f s.hw } := rfl

theorem State.onHw_pending {s t : State} {f : Hw → Hw} (h : s.onHw f = .next t) : t.pending = s.pending := by
  cases h; rfl
theorem State.onHw_fuses {s t : State} {f : Hw → Hw} (h : s.onHw f = .next t) : t.fuses = s.fuses := by
  cases h; rfl
theorem State.onHw_flash {s t : State} {f : Hw → Hw} (h : s.onHw f = .next t) : t.flash = s.flash := by
  cases h; rfl

end Sys2Proof.Machine
end

