-- ==== Sys2Proof/Laws/Events.lean ====
section
/-!
SUPPORT. The laws of raising an event (R417, R419, R451, R509): what it records, and what it leaves alone.
-/
namespace Sys2Proof.Machine

/-- What a trace record changes: the trace buffer, or the count of lost ones. -/
theorem Hw.trace_cases (s : Hw) (r : List Byte) :
    s.trace r = s ∨ (∃ l, s.trace r = { s with test := l }) ∨ s.trace r = s.bump F.DBG_TRACE_LOST_COUNT := by
  unfold Hw.trace
  split
  · split
    · exact .inr (.inl ⟨_, rfl⟩)
    · exact .inr (.inr rfl)
  · exact .inl rfl

theorem Hw.rd_trace (s : Hw) (l : List Byte) (r : Reg) (u : Nat) (h : r ≠ .DBG_TRACE_LOST) : (s.trace l).rd r u = s.rd r u := by
  rcases s.trace_cases l with e | ⟨t, e⟩ | e <;> rw [e]
  · rfl
  · rw [Hw.rd_bump, if_neg]; rintro ⟨h', _⟩; exact h h'.symm

theorem Hw.queueEvent_cases (s : Hw) (e : EventRec) :
    (s.host.waiting.length < 256 ∧ s.queueEvent e = { s with host := { s.host with waiting := s.host.waiting ++ [e] } }) ∨
    (¬ s.host.waiting.length < 256 ∧
      s.queueEvent e = { s.bump F.HIF_EVT_LOST_COUNT with host := { s.host with dropped := s.host.dropped + 1 } }) := by
  unfold Hw.queueEvent; split
  · exact .inl ⟨by assumption, rfl⟩
  · exact .inr ⟨by assumption, rfl⟩

theorem Hw.logEvent_cases (s : Hw) (e : EventRec) :
    s.logEvent e = s ∨ (∃ p, s.logEvent e = { s with pat := p }) ∨ (∃ p, s.logEvent e = { s.bump F.PAT_LOG_LOST_COUNT with pat := p }) := by
  unfold Hw.logEvent; split
  · split
    · exact .inr (.inl ⟨_, rfl⟩)
    · exact .inr (.inr ⟨_, rfl⟩)
  · exact .inl rfl

theorem Hw.traceEvent_cases (s : Hw) (e : EventRec) : s.traceEvent e = s ∨ ∃ r, s.traceEvent e = s.trace r := by
  unfold Hw.traceEvent; split
  · exact .inr ⟨_, rfl⟩
  · exact .inl rfl

/-- The counters that an event may raise. -/
def eventRegs : List Reg := [.HIF_EVT_LOST, .PAT_LOG_LOST, .DBG_TRACE_LOST]

theorem Hw.rd_bump_reg (s : Hw) {f : Fld} {q : Reg} (u v n : Nat) (h : f.reg ≠ q) : (s.bump f u n).rd q v = s.rd q v := by
  rw [Hw.rd_bump, if_neg]; rintro ⟨h', _⟩; exact h h'

/-- R419: raising an event changes no register but the counters of lost events, log entries and trace records. -/
theorem Hw.rd_raise (s : Hw) (code a0 a1 : Nat) (w : Who) (r : Reg) (u : Nat) (h : r ∉ eventRegs) :
    (s.raise code a0 a1 w).rd r u = s.rd r u := by
  simp only [eventRegs, List.mem_cons, List.not_mem_nil, or_false, not_or] at h
  have h1 : ∀ (x : Hw) e, (x.queueEvent e).rd r u = x.rd r u := by
    intro x e
    rcases x.queueEvent_cases e with ⟨_, e⟩ | ⟨_, e⟩ <;> rw [e]
    · rfl
    · exact Hw.rd_bump_reg (f := F.HIF_EVT_LOST_COUNT) x 0 u 1 (Ne.symm h.1)
  have h2 : ∀ (x : Hw) e, (x.logEvent e).rd r u = x.rd r u := by
    intro x e
    rcases x.logEvent_cases e with e | ⟨_, e⟩ | ⟨_, e⟩ <;> rw [e]
    · rfl
    · exact Hw.rd_bump_reg (f := F.PAT_LOG_LOST_COUNT) x 0 u 1 (Ne.symm h.2.1)
  have h3 : ∀ (x : Hw) e, (x.traceEvent e).rd r u = x.rd r u := by
    intro x e
    rcases x.traceEvent_cases e with e | ⟨_, e⟩ <;> rw [e]
    exact Hw.rd_trace _ _ _ _ h.2.2
  unfold Hw.raise
  rw [h3, h2, h1]

theorem Hw.fget_raise (s : Hw) (code a0 a1 : Nat) (w : Who) (f : Fld) (u : Nat) (h : f.reg ∉ eventRegs := by decide) :
    (s.raise code a0 a1 w).fget f u = s.fget f u := by
  unfold Hw.fget; rw [Hw.rd_raise _ _ _ _ _ _ _ h]

theorem Hw.flag_raise (s : Hw) (code a0 a1 : Nat) (w : Who) (f : Fld) (u : Nat) (h : f.reg ∉ eventRegs := by decide) :
    (s.raise code a0 a1 w).flag f u = s.flag f u := by
  unfold Hw.flag; rw [Hw.fget_raise _ _ _ _ _ _ _ h]

@[simp] theorem Hw.trace_mem (s : Hw) (l : List Byte) : (s.trace l).mem = s.mem := by
  rcases s.trace_cases l with e | ⟨t, e⟩ | e <;> rw [e]; simp
@[simp] theorem Hw.trace_beat (s : Hw) (l : List Byte) : (s.trace l).beat = s.beat := by
  rcases s.trace_cases l with e | ⟨t, e⟩ | e <;> rw [e]; simp
@[simp] theorem Hw.trace_tiles (s : Hw) (l : List Byte) : (s.trace l).tiles = s.tiles := by
  rcases s.trace_cases l with e | ⟨t, e⟩ | e <;> rw [e]; simp
@[simp] theorem Hw.trace_phys (s : Hw) (l : List Byte) : (s.trace l).phys = s.phys := by
  rcases s.trace_cases l with e | ⟨t, e⟩ | e <;> rw [e]; simp
@[simp] theorem Hw.trace_frames (s : Hw) (l : List Byte) : (s.trace l).frames = s.frames := by
  rcases s.trace_cases l with e | ⟨t, e⟩ | e <;> rw [e]; simp
@[simp] theorem Hw.trace_streams (s : Hw) (l : List Byte) : (s.trace l).streams = s.streams := by
  rcases s.trace_cases l with e | ⟨t, e⟩ | e <;> rw [e]; simp
@[simp] theorem Hw.trace_latches (s : Hw) (l : List Byte) : (s.trace l).latches = s.latches := by
  rcases s.trace_cases l with e | ⟨t, e⟩ | e <;> rw [e]; simp
@[simp] theorem Hw.trace_regions (s : Hw) (l : List Byte) : (s.trace l).regions = s.regions := by
  rcases s.trace_cases l with e | ⟨t, e⟩ | e <;> rw [e]; simp
@[simp] theorem Hw.trace_mail (s : Hw) (l : List Byte) : (s.trace l).mail = s.mail := by
  rcases s.trace_cases l with e | ⟨t, e⟩ | e <;> rw [e]; simp
@[simp] theorem Hw.trace_jobs (s : Hw) (l : List Byte) : (s.trace l).jobs = s.jobs := by
  rcases s.trace_cases l with e | ⟨t, e⟩ | e <;> rw [e]; simp
@[simp] theorem Hw.trace_layers (s : Hw) (l : List Byte) : (s.trace l).layers = s.layers := by
  rcases s.trace_cases l with e | ⟨t, e⟩ | e <;> rw [e]; simp
@[simp] theorem Hw.trace_links (s : Hw) (l : List Byte) : (s.trace l).links = s.links := by
  rcases s.trace_cases l with e | ⟨t, e⟩ | e <;> rw [e]; simp
@[simp] theorem Hw.trace_lnk (s : Hw) (l : List Byte) : (s.trace l).lnk = s.lnk := by
  rcases s.trace_cases l with e | ⟨t, e⟩ | e <;> rw [e]; simp
@[simp] theorem Hw.trace_twin (s : Hw) (l : List Byte) : (s.trace l).twin = s.twin := by
  rcases s.trace_cases l with e | ⟨t, e⟩ | e <;> rw [e]; simp
@[simp] theorem Hw.trace_flt (s : Hw) (l : List Byte) : (s.trace l).flt = s.flt := by
  rcases s.trace_cases l with e | ⟨t, e⟩ | e <;> rw [e]; simp
@[simp] theorem Hw.trace_chans (s : Hw) (l : List Byte) : (s.trace l).chans = s.chans := by
  rcases s.trace_cases l with e | ⟨t, e⟩ | e <;> rw [e]; simp
@[simp] theorem Hw.trace_mu (s : Hw) (l : List Byte) : (s.trace l).mu = s.mu := by
  rcases s.trace_cases l with e | ⟨t, e⟩ | e <;> rw [e]; simp
@[simp] theorem Hw.trace_boot (s : Hw) (l : List Byte) : (s.trace l).boot = s.boot := by
  rcases s.trace_cases l with e | ⟨t, e⟩ | e <;> rw [e]; simp
@[simp] theorem Hw.trace_pwr (s : Hw) (l : List Byte) : (s.trace l).pwr = s.pwr := by
  rcases s.trace_cases l with e | ⟨t, e⟩ | e <;> rw [e]; simp
@[simp] theorem Hw.trace_free (s : Hw) (l : List Byte) : (s.trace l).free = s.free := by
  rcases s.trace_cases l with e | ⟨t, e⟩ | e <;> rw [e]; simp
@[simp] theorem Hw.trace_host (s : Hw) (l : List Byte) : (s.trace l).host = s.host := by
  rcases s.trace_cases l with e | ⟨t, e⟩ | e <;> rw [e]; simp
@[simp] theorem Hw.trace_pat (s : Hw) (l : List Byte) : (s.trace l).pat = s.pat := by
  rcases s.trace_cases l with e | ⟨t, e⟩ | e <;> rw [e]; simp

@[simp] theorem Hw.queueEvent_mem (s : Hw) (e : EventRec) : (s.queueEvent e).mem = s.mem := by
  rcases s.queueEvent_cases e with ⟨_, e⟩ | ⟨_, e⟩ <;> simp [e]
@[simp] theorem Hw.queueEvent_beat (s : Hw) (e : EventRec) : (s.queueEvent e).beat = s.beat := by
  rcases s.queueEvent_cases e with ⟨_, e⟩ | ⟨_, e⟩ <;> simp [e]
@[simp] theorem Hw.queueEvent_tiles (s : Hw) (e : EventRec) : (s.queueEvent e).tiles = s.tiles := by
  rcases s.queueEvent_cases e with ⟨_, e⟩ | ⟨_, e⟩ <;> simp [e]
@[simp] theorem Hw.queueEvent_phys (s : Hw) (e : EventRec) : (s.queueEvent e).phys = s.phys := by
  rcases s.queueEvent_cases e with ⟨_, e⟩ | ⟨_, e⟩ <;> simp [e]
@[simp] theorem Hw.queueEvent_frames (s : Hw) (e : EventRec) : (s.queueEvent e).frames = s.frames := by
  rcases s.queueEvent_cases e with ⟨_, e⟩ | ⟨_, e⟩ <;> simp [e]
@[simp] theorem Hw.queueEvent_streams (s : Hw) (e : EventRec) : (s.queueEvent e).streams = s.streams := by
  rcases s.queueEvent_cases e with ⟨_, e⟩ | ⟨_, e⟩ <;> simp [e]
@[simp] theorem Hw.queueEvent_latches (s : Hw) (e : EventRec) : (s.queueEvent e).latches = s.latches := by
  rcases s.queueEvent_cases e with ⟨_, e⟩ | ⟨_, e⟩ <;> simp [e]
@[simp] theorem Hw.queueEvent_regions (s : Hw) (e : EventRec) : (s.queueEvent e).regions = s.regions := by
  rcases s.queueEvent_cases e with ⟨_, e⟩ | ⟨_, e⟩ <;> simp [e]
@[simp] theorem Hw.queueEvent_mail (s : Hw) (e : EventRec) : (s.queueEvent e).mail = s.mail := by
  rcases s.queueEvent_cases e with ⟨_, e⟩ | ⟨_, e⟩ <;> simp [e]
@[simp] theorem Hw.queueEvent_jobs (s : Hw) (e : EventRec) : (s.queueEvent e).jobs = s.jobs := by
  rcases s.queueEvent_cases e with ⟨_, e⟩ | ⟨_, e⟩ <;> simp [e]
@[simp] theorem Hw.queueEvent_layers (s : Hw) (e : EventRec) : (s.queueEvent e).layers = s.layers := by
  rcases s.queueEvent_cases e with ⟨_, e⟩ | ⟨_, e⟩ <;> simp [e]
@[simp] theorem Hw.queueEvent_links (s : Hw) (e : EventRec) : (s.queueEvent e).links = s.links := by
  rcases s.queueEvent_cases e with ⟨_, e⟩ | ⟨_, e⟩ <;> simp [e]
@[simp] theorem Hw.queueEvent_lnk (s : Hw) (e : EventRec) : (s.queueEvent e).lnk = s.lnk := by
  rcases s.queueEvent_cases e with ⟨_, e⟩ | ⟨_, e⟩ <;> simp [e]
@[simp] theorem Hw.queueEvent_twin (s : Hw) (e : EventRec) : (s.queueEvent e).twin = s.twin := by
  rcases s.queueEvent_cases e with ⟨_, e⟩ | ⟨_, e⟩ <;> simp [e]
@[simp] theorem Hw.queueEvent_flt (s : Hw) (e : EventRec) : (s.queueEvent e).flt = s.flt := by
  rcases s.queueEvent_cases e with ⟨_, e⟩ | ⟨_, e⟩ <;> simp [e]
@[simp] theorem Hw.queueEvent_chans (s : Hw) (e : EventRec) : (s.queueEvent e).chans = s.chans := by
  rcases s.queueEvent_cases e with ⟨_, e⟩ | ⟨_, e⟩ <;> simp [e]
@[simp] theorem Hw.queueEvent_mu (s : Hw) (e : EventRec) : (s.queueEvent e).mu = s.mu := by
  rcases s.queueEvent_cases e with ⟨_, e⟩ | ⟨_, e⟩ <;> simp [e]
@[simp] theorem Hw.queueEvent_boot (s : Hw) (e : EventRec) : (s.queueEvent e).boot = s.boot := by
  rcases s.queueEvent_cases e with ⟨_, e⟩ | ⟨_, e⟩ <;> simp [e]
@[simp] theorem Hw.queueEvent_pwr (s : Hw) (e : EventRec) : (s.queueEvent e).pwr = s.pwr := by
  rcases s.queueEvent_cases e with ⟨_, e⟩ | ⟨_, e⟩ <;> simp [e]
@[simp] theorem Hw.queueEvent_free (s : Hw) (e : EventRec) : (s.queueEvent e).free = s.free := by
  rcases s.queueEvent_cases e with ⟨_, e⟩ | ⟨_, e⟩ <;> simp [e]
@[simp] theorem Hw.queueEvent_pat (s : Hw) (e : EventRec) : (s.queueEvent e).pat = s.pat := by
  rcases s.queueEvent_cases e with ⟨_, e⟩ | ⟨_, e⟩ <;> simp [e]
@[simp] theorem Hw.queueEvent_test (s : Hw) (e : EventRec) : (s.queueEvent e).test = s.test := by
  rcases s.queueEvent_cases e with ⟨_, e⟩ | ⟨_, e⟩ <;> simp [e]
@[simp] theorem Hw.logEvent_mem (s : Hw) (e : EventRec) : (s.logEvent e).mem = s.mem := by
  rcases s.logEvent_cases e with e | ⟨_, e⟩ | ⟨_, e⟩ <;> simp [e]
@[simp] theorem Hw.logEvent_beat (s : Hw) (e : EventRec) : (s.logEvent e).beat = s.beat := by
  rcases s.logEvent_cases e with e | ⟨_, e⟩ | ⟨_, e⟩ <;> simp [e]
@[simp] theorem Hw.logEvent_tiles (s : Hw) (e : EventRec) : (s.logEvent e).tiles = s.tiles := by
  rcases s.logEvent_cases e with e | ⟨_, e⟩ | ⟨_, e⟩ <;> simp [e]
@[simp] theorem Hw.logEvent_phys (s : Hw) (e : EventRec) : (s.logEvent e).phys = s.phys := by
  rcases s.logEvent_cases e with e | ⟨_, e⟩ | ⟨_, e⟩ <;> simp [e]
@[simp] theorem Hw.logEvent_frames (s : Hw) (e : EventRec) : (s.logEvent e).frames = s.frames := by
  rcases s.logEvent_cases e with e | ⟨_, e⟩ | ⟨_, e⟩ <;> simp [e]
@[simp] theorem Hw.logEvent_streams (s : Hw) (e : EventRec) : (s.logEvent e).streams = s.streams := by
  rcases s.logEvent_cases e with e | ⟨_, e⟩ | ⟨_, e⟩ <;> simp [e]
@[simp] theorem Hw.logEvent_latches (s : Hw) (e : EventRec) : (s.logEvent e).latches = s.latches := by
  rcases s.logEvent_cases e with e | ⟨_, e⟩ | ⟨_, e⟩ <;> simp [e]
@[simp] theorem Hw.logEvent_regions (s : Hw) (e : EventRec) : (s.logEvent e).regions = s.regions := by
  rcases s.logEvent_cases e with e | ⟨_, e⟩ | ⟨_, e⟩ <;> simp [e]
@[simp] theorem Hw.logEvent_mail (s : Hw) (e : EventRec) : (s.logEvent e).mail = s.mail := by
  rcases s.logEvent_cases e with e | ⟨_, e⟩ | ⟨_, e⟩ <;> simp [e]
@[simp] theorem Hw.logEvent_jobs (s : Hw) (e : EventRec) : (s.logEvent e).jobs = s.jobs := by
  rcases s.logEvent_cases e with e | ⟨_, e⟩ | ⟨_, e⟩ <;> simp [e]
@[simp] theorem Hw.logEvent_layers (s : Hw) (e : EventRec) : (s.logEvent e).layers = s.layers := by
  rcases s.logEvent_cases e with e | ⟨_, e⟩ | ⟨_, e⟩ <;> simp [e]
@[simp] theorem Hw.logEvent_links (s : Hw) (e : EventRec) : (s.logEvent e).links = s.links := by
  rcases s.logEvent_cases e with e | ⟨_, e⟩ | ⟨_, e⟩ <;> simp [e]
@[simp] theorem Hw.logEvent_lnk (s : Hw) (e : EventRec) : (s.logEvent e).lnk = s.lnk := by
  rcases s.logEvent_cases e with e | ⟨_, e⟩ | ⟨_, e⟩ <;> simp [e]
@[simp] theorem Hw.logEvent_twin (s : Hw) (e : EventRec) : (s.logEvent e).twin = s.twin := by
  rcases s.logEvent_cases e with e | ⟨_, e⟩ | ⟨_, e⟩ <;> simp [e]
@[simp] theorem Hw.logEvent_flt (s : Hw) (e : EventRec) : (s.logEvent e).flt = s.flt := by
  rcases s.logEvent_cases e with e | ⟨_, e⟩ | ⟨_, e⟩ <;> simp [e]
@[simp] theorem Hw.logEvent_chans (s : Hw) (e : EventRec) : (s.logEvent e).chans = s.chans := by
  rcases s.logEvent_cases e with e | ⟨_, e⟩ | ⟨_, e⟩ <;> simp [e]
@[simp] theorem Hw.logEvent_mu (s : Hw) (e : EventRec) : (s.logEvent e).mu = s.mu := by
  rcases s.logEvent_cases e with e | ⟨_, e⟩ | ⟨_, e⟩ <;> simp [e]
@[simp] theorem Hw.logEvent_boot (s : Hw) (e : EventRec) : (s.logEvent e).boot = s.boot := by
  rcases s.logEvent_cases e with e | ⟨_, e⟩ | ⟨_, e⟩ <;> simp [e]
@[simp] theorem Hw.logEvent_pwr (s : Hw) (e : EventRec) : (s.logEvent e).pwr = s.pwr := by
  rcases s.logEvent_cases e with e | ⟨_, e⟩ | ⟨_, e⟩ <;> simp [e]
@[simp] theorem Hw.logEvent_free (s : Hw) (e : EventRec) : (s.logEvent e).free = s.free := by
  rcases s.logEvent_cases e with e | ⟨_, e⟩ | ⟨_, e⟩ <;> simp [e]
@[simp] theorem Hw.logEvent_host (s : Hw) (e : EventRec) : (s.logEvent e).host = s.host := by
  rcases s.logEvent_cases e with e | ⟨_, e⟩ | ⟨_, e⟩ <;> simp [e]
@[simp] theorem Hw.logEvent_test (s : Hw) (e : EventRec) : (s.logEvent e).test = s.test := by
  rcases s.logEvent_cases e with e | ⟨_, e⟩ | ⟨_, e⟩ <;> simp [e]
@[simp] theorem Hw.traceEvent_mem (s : Hw) (e : EventRec) : (s.traceEvent e).mem = s.mem := by
  rcases s.traceEvent_cases e with e | ⟨_, e⟩ <;> simp [e]
@[simp] theorem Hw.traceEvent_beat (s : Hw) (e : EventRec) : (s.traceEvent e).beat = s.beat := by
  rcases s.traceEvent_cases e with e | ⟨_, e⟩ <;> simp [e]
@[simp] theorem Hw.traceEvent_tiles (s : Hw) (e : EventRec) : (s.traceEvent e).tiles = s.tiles := by
  rcases s.traceEvent_cases e with e | ⟨_, e⟩ <;> simp [e]
@[simp] theorem Hw.traceEvent_phys (s : Hw) (e : EventRec) : (s.traceEvent e).phys = s.phys := by
  rcases s.traceEvent_cases e with e | ⟨_, e⟩ <;> simp [e]
@[simp] theorem Hw.traceEvent_frames (s : Hw) (e : EventRec) : (s.traceEvent e).frames = s.frames := by
  rcases s.traceEvent_cases e with e | ⟨_, e⟩ <;> simp [e]
@[simp] theorem Hw.traceEvent_streams (s : Hw) (e : EventRec) : (s.traceEvent e).streams = s.streams := by
  rcases s.traceEvent_cases e with e | ⟨_, e⟩ <;> simp [e]
@[simp] theorem Hw.traceEvent_latches (s : Hw) (e : EventRec) : (s.traceEvent e).latches = s.latches := by
  rcases s.traceEvent_cases e with e | ⟨_, e⟩ <;> simp [e]
@[simp] theorem Hw.traceEvent_regions (s : Hw) (e : EventRec) : (s.traceEvent e).regions = s.regions := by
  rcases s.traceEvent_cases e with e | ⟨_, e⟩ <;> simp [e]
@[simp] theorem Hw.traceEvent_mail (s : Hw) (e : EventRec) : (s.traceEvent e).mail = s.mail := by
  rcases s.traceEvent_cases e with e | ⟨_, e⟩ <;> simp [e]
@[simp] theorem Hw.traceEvent_jobs (s : Hw) (e : EventRec) : (s.traceEvent e).jobs = s.jobs := by
  rcases s.traceEvent_cases e with e | ⟨_, e⟩ <;> simp [e]
@[simp] theorem Hw.traceEvent_layers (s : Hw) (e : EventRec) : (s.traceEvent e).layers = s.layers := by
  rcases s.traceEvent_cases e with e | ⟨_, e⟩ <;> simp [e]
@[simp] theorem Hw.traceEvent_links (s : Hw) (e : EventRec) : (s.traceEvent e).links = s.links := by
  rcases s.traceEvent_cases e with e | ⟨_, e⟩ <;> simp [e]
@[simp] theorem Hw.traceEvent_lnk (s : Hw) (e : EventRec) : (s.traceEvent e).lnk = s.lnk := by
  rcases s.traceEvent_cases e with e | ⟨_, e⟩ <;> simp [e]
@[simp] theorem Hw.traceEvent_twin (s : Hw) (e : EventRec) : (s.traceEvent e).twin = s.twin := by
  rcases s.traceEvent_cases e with e | ⟨_, e⟩ <;> simp [e]
@[simp] theorem Hw.traceEvent_flt (s : Hw) (e : EventRec) : (s.traceEvent e).flt = s.flt := by
  rcases s.traceEvent_cases e with e | ⟨_, e⟩ <;> simp [e]
@[simp] theorem Hw.traceEvent_chans (s : Hw) (e : EventRec) : (s.traceEvent e).chans = s.chans := by
  rcases s.traceEvent_cases e with e | ⟨_, e⟩ <;> simp [e]
@[simp] theorem Hw.traceEvent_mu (s : Hw) (e : EventRec) : (s.traceEvent e).mu = s.mu := by
  rcases s.traceEvent_cases e with e | ⟨_, e⟩ <;> simp [e]
@[simp] theorem Hw.traceEvent_boot (s : Hw) (e : EventRec) : (s.traceEvent e).boot = s.boot := by
  rcases s.traceEvent_cases e with e | ⟨_, e⟩ <;> simp [e]
@[simp] theorem Hw.traceEvent_pwr (s : Hw) (e : EventRec) : (s.traceEvent e).pwr = s.pwr := by
  rcases s.traceEvent_cases e with e | ⟨_, e⟩ <;> simp [e]
@[simp] theorem Hw.traceEvent_free (s : Hw) (e : EventRec) : (s.traceEvent e).free = s.free := by
  rcases s.traceEvent_cases e with e | ⟨_, e⟩ <;> simp [e]
@[simp] theorem Hw.traceEvent_host (s : Hw) (e : EventRec) : (s.traceEvent e).host = s.host := by
  rcases s.traceEvent_cases e with e | ⟨_, e⟩ <;> simp [e]
@[simp] theorem Hw.traceEvent_pat (s : Hw) (e : EventRec) : (s.traceEvent e).pat = s.pat := by
  rcases s.traceEvent_cases e with e | ⟨_, e⟩ <;> simp [e]
@[simp] theorem Hw.raise_mem (s : Hw) (code a0 a1 : Nat) (w : Who) : (s.raise code a0 a1 w).mem = s.mem := by simp [Hw.raise]
@[simp] theorem Hw.raise_beat (s : Hw) (code a0 a1 : Nat) (w : Who) : (s.raise code a0 a1 w).beat = s.beat := by simp [Hw.raise]
@[simp] theorem Hw.raise_tiles (s : Hw) (code a0 a1 : Nat) (w : Who) : (s.raise code a0 a1 w).tiles = s.tiles := by simp [Hw.raise]
@[simp] theorem Hw.raise_phys (s : Hw) (code a0 a1 : Nat) (w : Who) : (s.raise code a0 a1 w).phys = s.phys := by simp [Hw.raise]
@[simp] theorem Hw.raise_frames (s : Hw) (code a0 a1 : Nat) (w : Who) : (s.raise code a0 a1 w).frames = s.frames := by simp [Hw.raise]
@[simp] theorem Hw.raise_streams (s : Hw) (code a0 a1 : Nat) (w : Who) : (s.raise code a0 a1 w).streams = s.streams := by simp [Hw.raise]
@[simp] theorem Hw.raise_latches (s : Hw) (code a0 a1 : Nat) (w : Who) : (s.raise code a0 a1 w).latches = s.latches := by simp [Hw.raise]
@[simp] theorem Hw.raise_regions (s : Hw) (code a0 a1 : Nat) (w : Who) : (s.raise code a0 a1 w).regions = s.regions := by simp [Hw.raise]
@[simp] theorem Hw.raise_mail (s : Hw) (code a0 a1 : Nat) (w : Who) : (s.raise code a0 a1 w).mail = s.mail := by simp [Hw.raise]
@[simp] theorem Hw.raise_jobs (s : Hw) (code a0 a1 : Nat) (w : Who) : (s.raise code a0 a1 w).jobs = s.jobs := by simp [Hw.raise]
@[simp] theorem Hw.raise_layers (s : Hw) (code a0 a1 : Nat) (w : Who) : (s.raise code a0 a1 w).layers = s.layers := by simp [Hw.raise]
@[simp] theorem Hw.raise_links (s : Hw) (code a0 a1 : Nat) (w : Who) : (s.raise code a0 a1 w).links = s.links := by simp [Hw.raise]
@[simp] theorem Hw.raise_lnk (s : Hw) (code a0 a1 : Nat) (w : Who) : (s.raise code a0 a1 w).lnk = s.lnk := by simp [Hw.raise]
@[simp] theorem Hw.raise_twin (s : Hw) (code a0 a1 : Nat) (w : Who) : (s.raise code a0 a1 w).twin = s.twin := by simp [Hw.raise]
@[simp] theorem Hw.raise_flt (s : Hw) (code a0 a1 : Nat) (w : Who) : (s.raise code a0 a1 w).flt = s.flt := by simp [Hw.raise]
@[simp] theorem Hw.raise_chans (s : Hw) (code a0 a1 : Nat) (w : Who) : (s.raise code a0 a1 w).chans = s.chans := by simp [Hw.raise]
@[simp] theorem Hw.raise_mu (s : Hw) (code a0 a1 : Nat) (w : Who) : (s.raise code a0 a1 w).mu = s.mu := by simp [Hw.raise]
@[simp] theorem Hw.raise_boot (s : Hw) (code a0 a1 : Nat) (w : Who) : (s.raise code a0 a1 w).boot = s.boot := by simp [Hw.raise]
@[simp] theorem Hw.raise_pwr (s : Hw) (code a0 a1 : Nat) (w : Who) : (s.raise code a0 a1 w).pwr = s.pwr := by simp [Hw.raise]
@[simp] theorem Hw.raise_free (s : Hw) (code a0 a1 : Nat) (w : Who) : (s.raise code a0 a1 w).free = s.free := by simp [Hw.raise]

/-- R419: an event that finds room waits behind those that wait already. -/
theorem Hw.raise_host (s : Hw) (code a0 a1 : Nat) (w : Who) (h : s.host.waiting.length < 256) :
    (s.raise code a0 a1 w).host = { s.host with waiting := s.host.waiting ++ [s.eventRec code a0 a1 w] } := by
  simp [Hw.raise, Hw.queueEvent, h]

/-- R419: an event that finds 256 waiting is dropped and counted. -/
theorem Hw.raise_host_full (s : Hw) (code a0 a1 : Nat) (w : Who) (h : ¬ s.host.waiting.length < 256) :
    (s.raise code a0 a1 w).host = { s.host with dropped := s.host.dropped + 1 } := by
  simp [Hw.raise, Hw.queueEvent, h]

/-- Whether it finds room or not, an event changes nothing of the host's side but the events that wait and the count of
those dropped. -/
theorem Hw.raise_host_cases (s : Hw) (code a0 a1 : Nat) (w : Who) :
    (s.raise code a0 a1 w).host = { s.host with waiting := s.host.waiting ++ [s.eventRec code a0 a1 w] } ∨
    (s.raise code a0 a1 w).host = { s.host with dropped := s.host.dropped + 1 } := by
  by_cases h : s.host.waiting.length < 256
  · exact .inl (s.raise_host _ _ _ _ h)
  · exact .inr (s.raise_host_full _ _ _ _ h)

end Sys2Proof.Machine
end

