-- ==== Sys2Proof/Laws/Frames.lean ====
section
/-!
SUPPORT. The laws of the frames of Safety.lean: they compose, and what setting a field, counting and raising an event leave
alone.
-/
namespace Sys2Proof.Machine

theorem Completes.of_onHw {c : Instr} {s : State} {P : Hw → Prop} (f : Hw → Hw) (h : exec c s = s.onHw f) (hp : P (f s.hw)) :
    Completes c s P := ⟨f s.hw, by rw [h]; rfl, hp⟩

/-! ### Registers -/

theorem RegsKept.refl (l : List Reg) (s : Hw) : RegsKept l s s := fun _ _ _ => rfl

theorem RegsKept.trans {l : List Reg} {s t v : Hw} (h : RegsKept l s t) (h' : RegsKept l t v) : RegsKept l s v :=
  fun r u hr => (h' r u hr).trans (h r u hr)

theorem RegsKept.mono {l m : List Reg} {s t : Hw} (h : RegsKept l s t) (hm : ∀ r ∈ l, r ∈ m) : RegsKept m s t :=
  fun r u hr => h r u (fun hl => hr (hm r hl))

theorem RegsKept.of_regs {l : List Reg} {s t : Hw} (h : t.regs = s.regs) : RegsKept l s t := fun r u _ => Hw.rd_congr h r u

theorem RegsKept.fset {l : List Reg} {s t : Hw} (h : RegsKept l s t) (f : Fld) (x u : Nat) (hf : f.reg ∈ l) :
    RegsKept l s (t.fset f x u) :=
  fun r v hr => (Hw.rd_fset_reg (f := f) (q := r) t x u v (by rintro rfl; exact hr hf)).trans (h r v hr)

theorem RegsKept.wr {l : List Reg} {s t : Hw} (h : RegsKept l s t) (q : Reg) (x : Reg32) (u : Nat) (hf : q ∈ l) :
    RegsKept l s (t.wr q u x) :=
  fun r v hr => (Hw.rd_wr_reg (r := q) (q := r) t u v x (by rintro rfl; exact hr hf)).trans (h r v hr)

theorem RegsKept.bump {l : List Reg} {s t : Hw} (h : RegsKept l s t) (f : Fld) (u n : Nat) (hf : f.reg ∈ l) :
    RegsKept l s (t.bump f u n) :=
  fun r v hr => (Hw.rd_bump_reg (f := f) (q := r) t u v n (by rintro rfl; exact hr hf)).trans (h r v hr)

theorem RegsKept.raise {l : List Reg} {s t : Hw} (h : RegsKept l s t) (code a0 a1 : Nat) (w : Who) (hl : ∀ r ∈ eventRegs, r ∈ l) :
    RegsKept l s (t.raise code a0 a1 w) :=
  fun r u hr => (Hw.rd_raise t code a0 a1 w r u (fun he => hr (hl r he))).trans (h r u hr)

/-! ### The rest -/

theorem RegsOnly.refl (s : Hw) : RegsOnly s s := rfl

theorem RegsOnly.fset {s t : Hw} (h : RegsOnly s t) (f : Fld) (x u : Nat) : RegsOnly s (t.fset f x u) := by
  unfold RegsOnly at *; rw [h]; rfl

theorem RegsOnly.wr {s t : Hw} (h : RegsOnly s t) (r : Reg) (x : Reg32) (u : Nat) : RegsOnly s (t.wr r u x) := by
  unfold RegsOnly at *; rw [h]; rfl

theorem RegsOnly.bump {s t : Hw} (h : RegsOnly s t) (f : Fld) (u n : Nat) : RegsOnly s (t.bump f u n) := by
  unfold Hw.bump; split
  · exact h
  · exact h.wr _ _ _

theorem EventsOnly.refl (s : Hw) : EventsOnly s s := rfl

theorem EventsOnly.of_regsOnly {s t : Hw} (h : RegsOnly s t) : EventsOnly s t := by
  unfold RegsOnly at h; unfold EventsOnly; rw [h]

theorem EventsOnly.trans {s t v : Hw} (h : EventsOnly s t) (h' : EventsOnly t v) : EventsOnly s v := by
  unfold EventsOnly at *; rw [h', h]

theorem EventsOnly.fset {s t : Hw} (h : EventsOnly s t) (f : Fld) (x u : Nat) : EventsOnly s (t.fset f x u) :=
  h.trans (.of_regsOnly ((RegsOnly.refl t).fset f x u))

theorem EventsOnly.bump {s t : Hw} (h : EventsOnly s t) (f : Fld) (u n : Nat) : EventsOnly s (t.bump f u n) :=
  h.trans (.of_regsOnly ((RegsOnly.refl t).bump f u n))

theorem Hw.trace_eventsOnly (s : Hw) (r : List Byte) : EventsOnly s (s.trace r) := by
  unfold Hw.trace
  split
  · split
    · rfl
    · exact .of_regsOnly ((RegsOnly.refl s).bump _ _ _)
  · rfl

/-- Raising an event changes nothing but what events change. -/
theorem EventsOnly.of_raise (s : Hw) (code a0 a1 : Nat) (w : Who) : EventsOnly s (s.raise code a0 a1 w) := by
  have h1 : ∀ (x : Hw) e, EventsOnly x (x.queueEvent e) := by
    intro x e
    rcases x.queueEvent_cases e with ⟨_, e⟩ | ⟨_, e⟩ <;> rw [e]
    · rfl
    · simp [EventsOnly, Hw.bump, Hw.wr]
  have h2 : ∀ (x : Hw) e, EventsOnly x (x.logEvent e) := by
    intro x e
    unfold Hw.logEvent
    split
    · split
      · rfl
      · simp [EventsOnly, Hw.bump, Hw.wr]
    · rfl
  have h3 : ∀ (x : Hw) e, EventsOnly x (x.traceEvent e) := by
    intro x e
    rcases x.traceEvent_cases e with e | ⟨r, e⟩ <;> rw [e]
    · rfl
    · exact x.trace_eventsOnly r
  exact (h1 _ _).trans ((h2 _ _).trans (h3 _ _))

theorem EventsOnly.raise {s t : Hw} (h : EventsOnly s t) (code a0 a1 : Nat) (w : Who) : EventsOnly s (t.raise code a0 a1 w) :=
  h.trans (.of_raise t code a0 a1 w)

/-- What an event raised with room says. -/
theorem Raises.of_raise {s t : Hw} (h : EventRoom s) (hw : t.host.waiting = s.host.waiting) (code a0 a1 : Nat) (w : Who) :
    Raises s (t.raise code a0 a1 w) code a0 a1 := by
  refine ⟨t.eventRec code a0 a1 w, rfl, rfl, rfl, ?_⟩
  rw [Hw.raise_host _ _ _ _ _ (by rw [hw]; exact h)]
  simp [hw]

end Sys2Proof.Machine
end

