-- ==== Sys2Proof/Laws/Memory.lean ====
section
/-!
SUPPORT. The laws of device memory: a byte read after one is written, that every operation of memory keeps the canonical
form, and what the writes of bytes at memory keys leave alone.
-/
namespace Sys2Proof.Machine

/-! ### Reading after a write -/

@[simp] theorem Mem.putByte_dflt (m : Mem) (k : Nat) (b : Byte) : (m.putByte k b).dflt = m.dflt := rfl
@[simp] theorem Mem.putByte_syn (m : Mem) (k : Nat) (b : Byte) : (m.putByte k b).syn = m.syn := rfl
@[simp] theorem Mem.putByte_free (m : Mem) (k : Nat) (b : Byte) : (m.putByte k b).free = m.free := rfl
@[simp] theorem Mem.putSyn_dflt (m : Mem) (w e : Nat) : (m.putSyn w e).dflt = m.dflt := rfl
@[simp] theorem Mem.putSyn_cells (m : Mem) (w e : Nat) : (m.putSyn w e).cells = m.cells := rfl
@[simp] theorem Mem.putSyn_free (m : Mem) (w e : Nat) : (m.putSyn w e).free = m.free := rfl

theorem Mem.byte_putByte (m : Mem) (k a : Nat) (b : Byte) : (m.putByte k b).byte a = if k = a then b else m.byte a := by
  unfold Mem.byte Mem.putByte Sparse.get
  exact Sparse.getD_find?_put _ _ _ _ _ _ (fun h => by rw [h]; rfl)

@[simp] theorem Mem.byte_putSyn (m : Mem) (w e a : Nat) : (m.putSyn w e).byte a = m.byte a := rfl

theorem Mem.syn_putSyn (m : Mem) (w e v : Nat) :
    Sparse.get 0 (m.putSyn w e).syn v = if w = v then BitVec.ofNat 8 e else Sparse.get 0 m.syn v := by
  unfold Mem.putSyn; exact Sparse.get_put _ _ _ _ _

theorem Mem.byte_markDross (m : Mem) (k a : Nat) : (m.markDross k).byte a = m.byte a := by
  unfold Mem.markDross
  generalize List.range 16 = l
  induction l generalizing m with
  | nil => rfl
  | cons x l ih => rw [List.foldl_cons, ih, Mem.byte_putSyn]

/-! ### The canonical form -/

theorem Mem.wf_reset : Mem.reset.wf := by decide

theorem Mem.wf_putByte {m : Mem} (h : m.wf) (k : Nat) (b : Byte) : (m.putByte k b).wf :=
  ⟨Sparse.wf_put m.dflt m.cells k b h.1, h.2⟩

theorem Mem.wf_putSyn {m : Mem} (h : m.wf) (w e : Nat) : (m.putSyn w e).wf :=
  ⟨h.1, Sparse.wf_put (fun _ => (0 : Byte)) m.syn w (BitVec.ofNat 8 e) h.2⟩

/-- A fold of steps that each keep the canonical form keeps it. -/
theorem Mem.wf_foldl {α : Type} (f : Mem → α → Mem) (hf : ∀ m a, m.wf → (f m a).wf) (l : List α) :
    ∀ m : Mem, m.wf → (l.foldl f m).wf := by
  induction l with
  | nil => intro m h; exact h
  | cons a l ih => intro m h; exact ih _ (hf m a h)

theorem Mem.wf_markDross {m : Mem} (h : m.wf) (k : Nat) : (m.markDross k).wf :=
  Mem.wf_foldl _ (fun _ _ h => Mem.wf_putSyn h _ _) _ _ h

/-- An unlisted key outside a stretch that becomes free reads as before. -/
theorem Mem.dflt_setFree (m : Mem) (lo hi n k : Nat) (h : ¬ (lo ≤ k ∧ k ≤ hi)) : (m.setFree lo hi n).dflt k = m.dflt k := by
  unfold Mem.dflt Mem.setFree
  have hp : (decide (lo ≤ k) && decide (k ≤ hi)) = false := by
    rw [Bool.and_eq_false_iff]; simp only [decide_eq_false_iff_not]; omega
  simp only [List.find?_cons, hp]
  congr 1
  induction m.free with
  | nil => rfl
  | cons e l ih =>
    simp only [List.filter_cons, List.find?_cons]
    by_cases he : (decide (lo ≤ e.1) && decide (e.2.1 ≤ hi)) = true
    · have : (decide (e.1 ≤ k) && decide (k ≤ e.2.1)) = false := by
        rw [Bool.and_eq_false_iff]; simp only [Bool.and_eq_true, decide_eq_true_eq] at he
        simp only [decide_eq_false_iff_not]; omega
      simp only [he, this, Bool.not_true, Bool.false_eq_true, if_false]
      exact ih
    · simp only [Bool.not_eq_true] at he
      simp only [he, Bool.not_false, if_true, List.find?_cons]
      split <;> simp_all

theorem Mem.wf_setFree {m : Mem} (h : m.wf) (lo hi n : Nat) : (m.setFree lo hi n).wf := by
  refine ⟨Sparse.wf_filter m.dflt _ _ _ h.1 ?_, Sparse.wf_filter _ _ _ _ h.2 (fun _ _ _ => rfl)⟩
  intro e _ he
  apply Mem.dflt_setFree
  simp only [Bool.not_eq_true', Bool.and_eq_false_iff, decide_eq_false_iff_not] at he
  omega

theorem Mem.wf_writeWord {m : Mem} (h : m.wf) (w : Nat) (bs : List (Nat × Byte)) : (m.writeWord w bs).1.wf := by
  have hp : ∀ m : Mem, m.wf → (bs.foldl (fun m b => m.putByte (w * 8 + b.1) b.2) m).wf :=
    fun m hm => Mem.wf_foldl _ (fun _ _ h => Mem.wf_putByte h _ _) _ _ hm
  unfold Mem.writeWord
  simp only
  split
  · exact Mem.wf_putSyn (hp m h) _ _
  · split
    · exact hp m h
    · exact hp m h
    · exact Mem.wf_putSyn (hp _ (Mem.wf_putByte h _ _)) _ _
    · exact Mem.wf_putSyn (hp m h) _ _
    · exact Mem.wf_markDross (hp m h) _

theorem Mem.wf_copyRun {m : Mem} (h : m.wf) (src dst n : Nat) : (m.copyRun src dst n).wf :=
  Mem.wf_foldl _ (fun _ _ h => Mem.wf_putSyn h _ _) _ _ (Mem.wf_foldl _ (fun _ _ h => Mem.wf_putByte h _ _) _ _ h)

theorem Mem.wf_zeroRun {m : Mem} (h : m.wf) (dst n : Nat) : (m.zeroRun dst n).wf :=
  Mem.wf_foldl _ (fun _ _ h => Mem.wf_putSyn h _ _) _ _ (Mem.wf_foldl _ (fun _ _ h => Mem.wf_putByte h _ _) _ _ h)

theorem Mem.wf_correctWord {m : Mem} (h : m.wf) (w : Nat) : (m.correctWord w).wf := by
  unfold Mem.correctWord
  split
  · exact Mem.wf_putSyn (Mem.wf_putByte h _ _) _ _
  · exact Mem.wf_putSyn h _ _
  · exact h

theorem Mem.wf_flip {m : Mem} (h : m.wf) (w mask check : Nat) : (m.flip w mask check).wf :=
  Mem.wf_putSyn (Mem.wf_foldl _ (fun _ _ h => Mem.wf_putByte h _ _) _ _ h) _ _

theorem Mem.wf_zeroChannel {m : Mem} (h : m.wf) (c : Nat) : (m.zeroChannel c).wf :=
  ⟨Sparse.wf_filter m.dflt m.dflt _ _ h.1 (fun _ _ _ => rfl), Sparse.wf_filter _ _ _ _ h.2 (fun _ _ _ => rfl)⟩

/-! ### Counting a write's merges changes no memory -/

theorem Hw.foldl_mem {α : Type} (f : Hw → α → Hw) (hf : ∀ s a, (f s a).mem = s.mem) (l : List α) :
    ∀ s : Hw, (l.foldl f s).mem = s.mem := by
  induction l with
  | nil => intro s; rfl
  | cons a l ih => intro s; rw [List.foldl_cons, ih, hf]

@[simp] theorem Hw.raiseOnce_mem (s : Hw) (code key a0 a1 : Nat) (w : Who) : (s.raiseOnce code key a0 a1 w).mem = s.mem := by
  unfold Hw.raiseOnce; split <;> simp

@[simp] theorem Hw.observe_mem (s : Hw) (p cause part : Nat) : (s.observe p cause part).mem = s.mem := by
  unfold Hw.observe; simp only; split <;> simp

@[simp] theorem Hw.copyLog_mem (s : Hw) (p cause : Nat) : (s.copyLog p cause).1.mem = s.mem := by
  unfold Hw.copyLog; simp only; split
  · rfl
  · split <;> simp [Hw.hostWrite]

@[simp] theorem Hw.storeCorrection_mem (s : Hw) (p : Nat) : (s.storeCorrection p).mem = s.mem := by
  unfold Hw.storeCorrection; simp only; split <;> simp [Hw.modPhys]

@[simp] theorem Hw.countMerge_mem (s : Hw) (w : Nat) (ce ue : Bool) : (s.countMerge w ce ue).mem = s.mem := by
  unfold Hw.countMerge; simp only; split <;> (try split) <;> (try split) <;> simp

@[simp] theorem Hw.takeForwarded_mem (s : Hw) (w : Nat) (b : Bool) : (s.takeForwarded w b).mem = s.mem := by
  unfold Hw.takeForwarded; simp only; split
  · split <;> simp
  · rfl

@[simp] theorem Hw.noteErrs_mem (s : Hw) (c n : Nat) : (s.noteErrs c n).mem = s.mem := by
  unfold Hw.noteErrs; split <;> simp [Hw.modChan]

@[simp] theorem Hw.queueScrub_mem (s : Hw) (c a : Nat) : (s.queueScrub c a).mem = s.mem := by simp [Hw.queueScrub, Hw.modChan]

@[simp] theorem Hw.countSingle_mem (s : Hw) (c : Nat) (e : Syndrome) : (s.countSingle c e).mem = s.mem := by simp [Hw.countSingle]

@[simp] theorem Hw.offAccess_mem (s : Hw) (c p : Nat) : (s.offAccess c p).mem = s.mem := by simp [Hw.offAccess]

@[simp] theorem Hw.propose_mem (s : Hw) (c p n : Nat) : (s.propose c p n).mem = s.mem := by
  unfold Hw.propose; split
  · rfl
  · split <;> simp

@[simp] theorem Hw.reportWord_mem (s : Hw) (w : Nat) : (s.reportWord w).mem = s.mem := by simp [Hw.reportWord, Hw.modPhys]

@[simp] theorem Hw.noteMirror_mem (s : Hw) (l : List Nat) : (s.noteMirror l).mem = s.mem := by
  unfold Hw.noteMirror; split <;> rfl

@[simp] theorem Hw.stageDrop_mem (s : Hw) (a : Nat) : (s.stageDrop a).mem = s.mem := by
  simp [Hw.stageDrop]

/-! ### Writes at memory keys and at device addresses keep the canonical form -/

/-- A fold of steps that each keep the canonical form of memory keeps it. -/
theorem Hw.wf_foldl {α : Type} (f : Hw → α → Hw) (hf : ∀ s a, s.mem.wf → (f s a).mem.wf) (l : List α) :
    ∀ s : Hw, s.mem.wf → (l.foldl f s).mem.wf := by
  induction l with
  | nil => intro s h; exact h
  | cons a l ih => intro s h; exact ih _ (hf s a h)

theorem Hw.wf_accountWords {s : Hw} (h : s.mem.wf) (a : Nat) (es : List (Nat × Syndrome)) (event : Nat) :
    (s.accountWords a es event).mem.wf := by
  have h1 : ∀ c, ((es.filter (·.2.single)).foldl (fun s e => s.countSingle c e.2) s).mem = s.mem :=
    fun c => Hw.foldl_mem _ (fun _ _ => Hw.countSingle_mem _ _ _) _ _
  unfold Hw.accountWords
  simp only
  split
  · split
    · rw [h1]; exact h
    · rw [Hw.queueScrub_mem, h1]; exact h
  · simp only [Hw.propose_mem, Hw.raise_mem, Hw.bump_mem, h1]
    exact Mem.wf_markDross h _

theorem Hw.wf_mergeAtoms {s : Hw} (h : s.mem.wf) (gs : List (Nat × List (Nat × Byte))) : (s.mergeAtoms gs).1.mem.wf := by
  unfold Hw.mergeAtoms
  suffices H : ∀ (l : List Nat) (r : Hw × List Nat), r.1.mem.wf → (l.foldl (fun (r : Hw × List Nat) a =>
      let es := r.1.withSyn (r.1.mergeReads a gs)
      let ue := (es.filter (fun e => e.2 == .uncorrectable)).length
      ((r.1.accountWords a es 0x5011).bump F.FLT_UE_COUNT 0 ue, if ue = 0 then r.2 else r.2 ++ [a])) r).1.mem.wf from H _ (s, []) h
  intro l
  induction l with
  | nil => intro r hr; exact hr
  | cons a l ih => intro r hr; exact ih _ (by simpa using Hw.wf_accountWords hr _ _ _)

theorem Hw.wf_writeKeys {s : Hw} (h : s.mem.wf) (c : Sparse Byte) : (s.writeKeys c).mem.wf := by
  unfold Hw.writeKeys
  refine Mem.wf_foldl _ (fun _ _ h => Mem.wf_markDross h _) _ _ ?_
  refine Hw.wf_foldl _ (fun s g h => ?_) _ _ (Hw.wf_mergeAtoms h _)
  rw [Hw.takeForwarded_mem, Hw.countMerge_mem]
  exact Mem.wf_writeWord h _ _

theorem Hw.wf_writeAddrs {s : Hw} (h : s.mem.wf) (c : Sparse Byte) : (s.writeAddrs c).mem.wf := by
  unfold Hw.writeAddrs
  simp only
  rw [Hw.noteMirror_mem]
  apply Hw.wf_writeKeys
  rw [Hw.foldl_mem _ (fun s e => Hw.offAccess_mem s _ _)]
  rw [show ∀ (l : Sparse Byte) (f : Hw × Sparse Byte → Nat × Byte → Hw × Sparse Byte) (z : Hw × Sparse Byte),
    (∀ r e, (f r e).1.mem = r.1.mem) → (l.foldl f z).1.mem = z.1.mem from ?_]
  · split
    · simpa using h
    · exact h
  · intro r e
    split
    · split <;> simp
    · rfl
    · rfl
    · simp
  · intro l f z hf
    induction l generalizing z with
    | nil => rfl
    | cons e l ih => rw [List.foldl_cons, ih, hf]

theorem Hw.wf_writeRun {s : Hw} (h : s.mem.wf) (a : Nat) (bs : List Byte) : (s.writeRun a bs).mem.wf :=
  Hw.wf_writeAddrs h _

theorem Hw.wf_invertAtom {s : Hw} (h : s.mem.wf) (a : Nat) : (s.invertAtom a).mem.wf := by
  unfold Hw.invertAtom
  split
  · split
    · simpa using h
    · split
      · simpa using h
      · simpa using Mem.wf_markDross h _
  · exact Mem.wf_markDross h _
  · exact h

theorem Hw.wf_markDross {s : Hw} (h : s.mem.wf) (a : Nat) : (s.markDross a).mem.wf := by
  unfold Hw.markDross; rw [Hw.bump_mem]; exact Hw.wf_invertAtom h a

theorem Hw.wf_takeAtom {s : Hw} (h : s.mem.wf) (k : Nat) (ws : List Nat) : (s.takeAtom k ws).mem.wf := by
  have h1 : ∀ l : List Nat, (l.foldl Hw.reportWord s).mem = s.mem := fun l => Hw.foldl_mem _ (fun _ _ => Hw.reportWord_mem _ _) _ _
  unfold Hw.takeAtom
  simp only
  split
  · split
    · rw [h1]; exact h
    · simp only [Hw.bump_mem, h1]; exact Mem.wf_markDross h _
  · rw [Hw.foldl_mem _ (fun _ _ => Hw.takeForwarded_mem _ _ _), Hw.bump_mem]
    split
    · exact h
    · exact Hw.wf_accountWords h _ _ _

theorem Hw.wf_takeWords {s : Hw} (h : s.mem.wf) (ws : List Nat) : (s.takeWords ws).mem.wf :=
  Hw.wf_foldl _ (fun _ _ h => Hw.wf_takeAtom h _ _) _ _ h

/-- Memory of which no word has an error has none in any range. -/
theorem Hw.errorWords_clean {s : Hw} (h : s.mem.syn = []) (lo hi : Nat) : s.errorWords lo hi = [] := by
  unfold Hw.errorWords; rw [h]; split <;> rfl
/-- A consumer takes in nothing and meets no dross where no word has an error and no page is offline. -/
theorem Hw.consumeBy_clean {s : Hw} (h : s.mem.syn = []) (o : s.mu.offline = []) (spans : List Span) : s.consumeBy spans = (s, none) := by
  have h1 : ∀ l : List Span, l.flatMap (fun _ => ([] : List Nat)) = [] := by intro l; induction l <;> simp_all
  have h2 : ∀ l : List Span, l.findSome? (fun _ => (none : Option Nat)) = none := by intro l; induction l <;> simp_all
  unfold Hw.consumeBy
  simp only [Hw.errorWords_clean h, o, List.filter_nil, h1, List.isEmpty_nil, if_true, List.find?_nil, Option.map_none, h2]
  rfl
theorem Hw.consume_clean {s : Hw} (h : s.mem.syn = []) (o : s.mu.offline = []) (ranges : List (Nat × Nat)) : s.consume ranges = (s, none) :=
  Hw.consumeBy_clean h o _
/-- Taking in bytes keeps the canonical form. -/
theorem Hw.wf_consumeBy {s : Hw} (h : s.mem.wf) (spans : List Span) : (s.consumeBy spans).1.mem.wf := by
  unfold Hw.consumeBy
  simp only
  rw [Hw.foldl_mem _ (fun _ _ => Hw.offAccess_mem _ _ _)]
  exact Hw.wf_takeWords h _

end Sys2Proof.Machine
end

