-- ==== Sys2Proof/WellFormed.lean ====
section
/-!
DEFINITION. Well-formed commands: the operands are ones the row's rule admits.
-/
namespace Sys2Proof

/-- Whether a command is well formed. -/
def Instr.wf : Instr → Bool
  | .streamWindowWrite _ off data _ => decide (0 < data.length) && decide (off.toNat + data.length ≤ 0x4000)
  | .badBar0Access off size _ =>
    -- R9: neither a 32-bit access at a multiple of 4 nor a 64-bit access at a multiple of 4
    decide (0 < size.toNat) && !(decide (off.toNat % 4 = 0) && (decide (size.toNat = 4) || decide (size.toNat = 8)))
  | .registerWrite off _ _ _ => decide (off.toNat % 4 = 0)
  | .pairLoRead off _ => decide (off.toNat % 4 = 0)
  | .pairHiRead off => decide (off.toNat % 4 = 0)
  | .rcRegisterRead off => decide (off.toNat % 4 = 0)
  | .bar4Read _ len => decide (0 < len.toNat) && decide (len.toNat ≤ 4096)
  | .bar4Write _ data _ => decide (0 < data.length) && decide (data.length ≤ 512)
  | .writeData _ _ _ _ _ _ data _ => decide (0 < data.length) && decide (data.length ≤ 2048)
  | .crowWriteData _ _ _ _ _ _ data _ => decide (0 < data.length) && decide (data.length ≤ 2048)
  | .readResponse _ _ _ data _ => decide (0 < data.length) && decide (data.length ≤ 2048)
  | .collectiveData _ _ _ _ _ data _ => decide (0 < data.length) && decide (data.length ≤ 2048)
  | .readRequest _ _ _ _ _ _ len => decide (0 < len.1.toNat) && decide (len.1.toNat ≤ 2048)
  | .channelRetrainDone us => decide (us.toNat ≤ 2000)
  | .channelRetrainTimeout us => decide (us.toNat ≤ 2000)
  | .manifest _ entries => decide (entries.length ≤ 64)
  | .pcieLinkTrained speed width _ =>
    decide (1 ≤ speed.toNat) && decide (speed.toNat ≤ 6) && [1, 4, 8, 16].contains width.toNat
  | _ => true

end Sys2Proof
end

