-- ==== Sys2Proof/Tests/Slice0.lean ====
section
/-!
SUPPORT. The model's own tests: for every statement with hypotheses, states and operands that meet them, clause by clause
(`wit_…`); the commands that are not well formed; and single steps with results written out from the spec (`test_…`).
-/
-- One check at a time: each takes a thread with a large stack.
set_option Elab.async false
set_option maxRecDepth 20000
namespace Sys2Proof.Tests
open Sys2Proof Sys2Proof.Machine

/-! ### Small states -/

/-- A machine with the hardware state given. -/
def mk (h : Hw) : State := { State.reset with hw := h }
/-- The hardware state that a step leaves. -/
def after (r : Host.Outcome State Fault Refusal) : Hw := match r with | .next t => t.hw | _ => Hw.reset
/-- BAR0 is live, with GDDR7 mapped, the host link up with Bus Master Enable, and beats running, in FULL service. -/
def full : Hw :=
  { Hw.reset with
    regs := [(1, 1), (274, 2)]
    boot := { Boot.reset with phase := .live, full := true, smbUp := true }
    mu := { MemUnit.reset with mapped := true }
    host := { HostIf.reset with linkUp := true, cfg := [(1, 6)] } }
/-- Its registers: BEAT.STATUS.RUN and ID.SERVICE.LEVEL. -/
theorem full_regs : full.regs = (((Hw.reset.fset F.ID_SERVICE_LEVEL 2).fset F.BEAT_STATUS_RUN 1)).regs := by decide
/-- The same in WARM and in BARE service. -/
def warm : Hw := full.fset F.ID_SERVICE_LEVEL 1
def bare : Hw := ({ Hw.reset with
    boot := { Boot.reset with phase := .live, smbUp := true }
    mu := { MemUnit.reset with stagingCh := some 32 }
    host := { HostIf.reset with linkUp := true, cfg := [(1, 6)] } } : Hw)
/-- A start-up phase. -/
def inPhase (p : Phase) : Hw := { Hw.reset with boot := { Boot.reset with phase := p } }
/-- An event. -/
def anEvent : EventRec :=
  { code := 0xB001, arg0 := 1, arg1 := 2, job := none, stream := none, kind := 0, unit := 0, beat := 0, cycle := 0, early := false }

theorem LeadsTo_gddr (s : Hw) (a k n : Nat) (h : (List.range n).all (fun i => s.place (a + i) == .gddr (k + i)) = true) :
    LeadsTo s a k n := by
  intro i hi
  exact .inl (by simpa using List.all_eq_true.mp h i (by simpa using hi))
theorem Unguarded_all (s : Hw) (a k n : Nat)
    (h : (List.range n).all (fun i => !s.inTable (a + i) && !s.lockedAt (a + i) && !s.seedGuard (k + i)) = true) : Unguarded s a k n := by
  intro i hi
  have := List.all_eq_true.mp h i (by simpa using hi)
  simp only [Bool.and_eq_true, Bool.not_eq_true'] at this
  exact ⟨this.1.1, this.1.2, this.2⟩

/-! ### Witnesses: power, sideband, test block -/

theorem wit_PowerGovernor :
    (mk full).hw.served = true ∧ (mk full).hw.powered = true ∧ (mk full).hw.pwr.vinLow = false ∧
    46000 ≤ (46000 : BitVec 16).toNat ∧ (47999 : BitVec 16).toNat < 48000 ∧ EventRoom (mk full).hw ∧
    (mk (full.modPwr (fun x => { x with vinLow := true }))).hw.pwr.vinLow = true ∧
    48000 ≤ (48000 : BitVec 16).toNat ∧ (56000 : BitVec 16).toNat ≤ 56000 ∧
    (mk full).hw.pwr.coolant = none ∧ (119 : BitVec 16).toInt < 120 ∧ 320 < (321 : BitVec 16).toInt := by
  unfold EventRoom; decide
theorem wit_SidebandCommands :
    (mk full).hw.sbUp = true ∧ (mk full).hw.powered = true ∧ 1500 ≤ bits (1500 : BitVec 32).toNat 0 13 ∧
    bits (4200 : BitVec 32).toNat 0 13 ≤ 4200 ∧ bits (1499 : BitVec 32).toNat 0 13 < 1500 ∧ 4200 < bits (4201 : BitVec 32).toNat 0 13 ∧
    EventRoom (mk full).hw ∧
    (mk ((full.fset F.SB_ALERT_STATUS_STOP 1).fset F.SB_ALERT_MASK_MASK 127)).hw.alerting = true := by
  unfold EventRoom; decide
theorem wit_TestBlock :
    (mk full).hw.bar0Open = true ∧ (mk (full.fset F.TST_PERMIT_ALLOW 1)).hw.flag F.TST_PERMIT_ALLOW = true ∧ (mk full).hw.level ≠ 0 ∧
    (0x5454 : BitVec 16) ≠ 0x5453 ∧ EventRoom (mk full).hw ∧ (mk full).hw.regsLive = true := by
  unfold EventRoom; decide
/-- An armed block; the link is in service. -/
def armed : Hw := (full.fset F.TST_ARM_ARMED 1).fset F.TST_PERMIT_ALLOW 1
/-- An armed block that asks for an injection of a kind with a count. -/
def asking (count : Nat) : Hw := armed.fset F.TST_INJ_CTL_COUNT count
/-- An injection that waits for its write, or for nothing more. -/
def inject (kind : Nat) : Hw :=
  { armed with test := { Test.reset with inj := some { kind := kind, idx := 0, loom := 0, left := 0, part := 0, addr := 0, seq := none } } }
theorem wit_Injections :
    (mk armed).hw.regsLive = true ∧ EventRoom (mk armed).hw ∧ (mk armed).hw.flag F.TST_INJ_CTL_GO = false ∧
    -- one waits already; one is accepted
    (mk (armed.fset F.TST_INJ_CTL_GO 1)).hw.flag F.TST_INJ_CTL_GO = true ∧ (mk (armed.fset F.TST_INJ_CTL_GO 1)).hw.regsLive = true ∧
    (mk armed).hw.flag F.TST_ARM_ARMED = true ∧ (mk armed).hw.injMapped (mk armed).hw.injAddr = true ∧
    (mk ((asking 1).fset F.LNK_LSTATE_STATE 2)).hw.linkUp 0 = true ∧ (asking 1).fget F.TST_INJ_CTL_COUNT ≠ 0 ∧ (asking 1).fget F.TST_INJ_CTL_INDEX = 0 ∧
    -- the four reasons
    (mk full).hw.flag F.TST_ARM_ARMED = false ∧ EventRoom (mk full).hw ∧ (asking 0).fget F.TST_INJ_CTL_COUNT = 0 ∧
    ((asking 1).fset F.TST_INJ_CTL_PART 6).fget F.TST_INJ_CTL_PART = 6 ∧
    (let s := (mk (armed.wr .TST_INJ_ADDR_HI 0 0xFF)).hw
     s.flag F.TST_ARM_ARMED = true ∧ s.flag F.TST_INJ_CTL_GO = false ∧ s.injMapped s.injAddr = false) ∧
    (mk (asking 1)).hw.admitted ((asking 1).fget F.TST_INJ_CTL_INDEX) = false ∧ (mk (asking 1)).hw.linkUp 0 = false ∧
    -- one is made, of each shape
    (∀ k ∈ [0, 1, 2], ∃ j, (mk (inject k)).hw.test.inj = some j ∧ j.kind = k ∧ j.left = 0 ∧ (mk (inject k)).hw.leads j.addr = true ∧
      (mk (inject k)).hw.channelHeld (j.addr / 128 * 128) = false ∧ (mk (inject k)).hw.place j.addr = .gddr 0) ∧ EventRoom (mk (inject 0)).hw := by
  unfold EventRoom
  refine ⟨?_, ?_, ?_, ?_, ?_, ?_, ?_, ?_, ?_, ?_, ?_, ?_, ?_, ?_, ?_, ?_, ?_, ?_, ?_⟩
  case refine_18 => intro k hk; exact ⟨_, rfl, rfl, rfl, by revert k; decide +kernel⟩
  all_goals decide +kernel
/-! ### Witnesses: host interface -/

theorem wit_Bar0Reads :
    (mk full).hw.bar0Open = true ∧
    -- a _LO register and its _HI register; the last register below the MSI-X tables; one with a counter that a read clears
    regAt (0x0040008 : BitVec 28).toNat = some ⟨.BEAT_COUNT_LO, 0, 0⟩ ∧ Reg.hiOf .BEAT_COUNT_LO = some .BEAT_COUNT_HI ∧
    regAt (0x004000C : BitVec 28).toNat = some ⟨.BEAT_COUNT_HI, 0, 0⟩ ∧ Reg.hiOf .BEAT_COUNT_HI = none ∧
    regAt (0x0070048 : BitVec 28).toNat = some ⟨.UPD_ABORTS, 0, 0⟩ ∧ Reg.hiOf .UPD_ABORTS = none ∧
    (mk full).hw.level ≠ 0 ∧ bareOffset (0x0000014 : BitVec 28).toNat = true ∧ (0x0040008 : BitVec 28).toNat < 0xF0_0000 ∧
    tileWindow ≤ tileWindow ∧ (regAt (tileWindow + 0x1004)).isSome = true ∧
    Sparse.find? (mk { full with host := { full.host with armed := [(regKey .BEAT_COUNT_HI 0, 7)] } }).hw.host.armed
      ((⟨.BEAT_COUNT_HI, 0, 0⟩ : RegAt).pair .BEAT_COUNT_HI) = some 7 ∧
    Sparse.find? (mk full).hw.host.armed ((⟨.BEAT_COUNT_HI, 0, 0⟩ : RegAt).pair .BEAT_COUNT_HI) = none ∧
    EventRoom (mk full).hw := by
  unfold EventRoom; decide +kernel
theorem wit_RegisterWrites :
    (mk full).hw.bar0Open = true ∧ regAt (0x005_0000 : BitVec 28).toNat = some ⟨.STRM_SEL, 0, 0⟩ ∧ Reg.STRM_SEL ∉ ownWrites ∧
    (mk full).hw.offers (0x005_0000 : BitVec 28).toNat = true ∧ (0x005_0000 : BitVec 28).toNat < 0xF0_0000 ∧
    EventRoom (mk full).hw ∧ (mk (inPhase .imaged)).hw.bar0Open = false := by
  unfold EventRoom; decide +kernel
theorem wit_HostLink :
    (mk (inPhase .fuses)).hw.boot.phase ∉ [Phase.off, .sequencing, .reset, .stopped] ∧
    (mk { full with host := { full.host with training := true, lastLink := (5, 16) } }).hw.host.training = true ∧
    (5, 16) ≠ ((0 : Nat), (0 : Nat)) ∧ ((5 : Nat), 16) ≠ ((6 : BitVec 3).toNat, (16 : BitVec 5).toNat) ∧ (mk full).hw.host.lastLink = (0, 0) ∧
    EventRoom (mk full).hw ∧
    (mk { inPhase .imaged with host := { HostIf.reset with linkUp := true } }).hw.host.linkUp = true ∧ (mk (inPhase .imaged)).hw.bar0Open = false ∧
    (mk full).hw.host.linkUp = true ∧ (mk full).hw.bar0Open = true ∧
    -- the least and the greatest size
    32 ≤ bits (0xC00 : BitVec 32).toNat 8 6 + 20 ∧ bits (0xC00 : BitVec 32).toNat 8 6 + 20 ≤ 39 ∧
    32 ≤ bits (0x1300 : BitVec 32).toNat 8 6 + 20 ∧ bits (0x1300 : BitVec 32).toNat 8 6 + 20 ≤ 39 := by
  unfold EventRoom; decide +kernel
/-- The event ring is enabled and an event waits. -/
def ringing : Hw := ({ full with host := { full.host with waiting := [anEvent], dropped := 1 } } : Hw).fset F.HIF_EVT_CTL_EN 1
/-- Vector 3 is due, masked in the table; MSI-X is enabled. -/
def vectored (mask : Reg32) : Hw :=
  { full with host := { full.host with cfg := [(1, 6), (20, 0x8000_0000)], pendingMsgs := [(3, (1, 0))], msix := [(15, mask)] } }
theorem wit_EventDelivery :
    (mk ringing).hw.host.waiting = anEvent :: [] ∧ (mk ringing).hw.flag F.HIF_EVT_CTL_EN = true ∧ (mk ringing).hw.busMaster = true ∧
    (mk ringing).hw.ringRoom = true ∧ (mk ringing).hw.host.dropped ≠ 0 ∧ ([] : List EventRec).length < 256 ∧
    (mk { ringing with host := { ringing.host with dropped := 0 } }).hw.host.dropped = 0 ∧
    (mk (vectored 0)).hw.msixDue 3 = true ∧ (mk (vectored 0)).hw.msixOn = true ∧ (mk (vectored 0)).hw.busMaster = true ∧
    (mk (vectored 0)).hw.msixMasked 3 = false ∧ (mk (vectored 1)).hw.msixDue 3 = true ∧ (mk (vectored 1)).hw.msixMasked 3 = true := by
  decide +kernel
theorem wit_Bar4Access :
    -- read, write and AtomicOp of the 4 bytes at 0
    (mk full).hw.bar0Open = true ∧ (mk full).hw.level ≠ 0 ∧ (0 : BitVec 40).toNat + 4 ≤ (mk full).hw.bar4Size ∧
    (∀ i < 4, (mk full).hw.bar4At ((0 : BitVec 40).toNat + i) = .dev (0 + i)) ∧ LeadsTo (mk full).hw 0 0 4 ∧ Unguarded (mk full).hw 0 0 4 ∧
    (4 : BitVec 13).toNat = 4 ∧ 4 = 2 ^ (2 : Fin 5).val ∧ (0 : Nat) < storeBase ∧
    (mk full).hw.mem.syndrome (0 / 8) ≠ .dross ∧ (mk full).hw.mem.syndrome (0 / 8) ≠ .uncorrectable ∧ (mk full).hw.mem.syn = [] ∧
    -- BARE service
    (mk bare).hw.bar0Open = true ∧ (mk bare).hw.level = 0 ∧ (mk bare).hw.mu.stagingCh.isSome = true ∧
    (0x101_0000 - 4) + 4 ≤ (mk bare).hw.bar4Size ∧ (0x101_0000 - 4) + 4 ≤ 0x101_0000 ∧
    (∀ i < 4, (mk bare).hw.lockedAt (0x101_0000 - 4 + i) = false) ∧
    -- past the aperture by one byte
    (mk full).hw.bar4Size < (BitVec.ofNat 40 ((mk full).hw.bar4Size - 3)).toNat + (4 : BitVec 13).toNat ∧
    (mk full).hw.bar4Size < (BitVec.ofNat 40 ((mk full).hw.bar4Size - 3)).toNat + 2 ^ (2 : Fin 5).val ∧
    (mk full).hw.bar4Size < (BitVec.ofNat 40 ((mk full).hw.bar4Size - 3)).toNat + ([0, 0, 0, 0] : List Byte).length := by
  refine ⟨?_, ?_, ?_, ?_, LeadsTo_gddr _ _ _ _ ?_, Unguarded_all _ _ _ _ ?_, ?_⟩ <;> decide +kernel
/-- Copy queue 0 is enabled and selected, with a descriptor posted, halted or with a copy in progress. -/
def copying (halted : Nat) (j : Option CopyJob) : Hw :=
  ((({ full with host := { full.host with copies := match j with | some j => [(0, j)] | none => [] } } : Hw).fset F.HIF_COPY_CTL_EN 1).fset
    F.HIF_COPY_TAIL_COUNT 1).fset F.HIF_COPY_CTL_HALTED halted
def aCopy (toHost : Bool) : CopyJob := { host := 0x1000, dev := 0, len := 128, toHost := toHost, notify := true, setsel := 0, tag := 5, failed := 0 }
theorem wit_CopyQueues :
    (mk (copying 0 none)).hw.copyLive (0 : Fin 4) = true ∧
    (mk (copying 0 none)).hw.fget F.HIF_COPY_HEAD_COUNT (0 : Fin 4) ≠ (mk (copying 0 none)).hw.fget F.HIF_COPY_TAIL_COUNT (0 : Fin 4) ∧
    Sparse.find? (mk (copying 0 none)).hw.host.copies (0 : Fin 4) = none ∧
    (mk (copying 0 none)).hw.copyFail (BitVec.ofNat 256 (128 <<< 128)) = 0 ∧ (mk (copying 0 none)).hw.copyFail 0 ≠ 0 ∧ (3 : Nat) ≠ 0 ∧
    EventRoom (mk (copying 0 none)).hw ∧
    (mk (copying 0 (some (aCopy true)))).hw.copyLive (0 : Fin 4) = true ∧ (mk full).hw.level ≠ 0 ∧
    Sparse.find? (mk (copying 0 (some (aCopy true)))).hw.host.copies (0 : Fin 4) = some (aCopy true) ∧
    Sparse.find? (mk (copying 0 (some (aCopy false)))).hw.host.copies (0 : Fin 4) = some (aCopy false) ∧
    (mk (copying 0 (some (aCopy true)))).hw.copyMapped 0 128 = true ∧ LeadsTo (mk (copying 0 (some (aCopy true)))).hw 0 0 128 ∧
    Unguarded (mk (copying 0 (some (aCopy false)))).hw 0 0 128 ∧ selScope 0 ≠ 2 ∧ (mk (copying 0 none)).hw.mem.syn = [] ∧
    (List.replicate 128 (0 : Byte)).length = 128 ∧
    (mk (copying 1 none)).hw.bar0Open = true ∧ (mk (copying 1 none)).hw.fget F.HIF_COPY_SEL_QUEUE = (0 : Fin 4) ∧
    (mk (copying 1 none)).hw.flag F.HIF_COPY_CTL_HALTED (0 : Fin 4) = true := by
  unfold EventRoom
  refine ⟨?_, ?_, ?_, ?_, ?_, ?_, ?_, ?_, ?_, ?_, ?_, ?_, LeadsTo_gddr _ _ _ _ ?_, Unguarded_all _ _ _ _ ?_, ?_⟩ <;> decide +kernel
theorem wit_HostResets :
    (mk full).hw.boot.phase ≠ .off ∧ (mk full).hw.boot.phase ≠ .stopped ∧
    (mk { full with host := { full.host with resetCause := some 3 } }).hw.host.resetCause = some 3 ∧
    (mk { full with host := { full.host with resetCause := some 3 } }).hw.host.linkUp = true ∧ EventRoom (mk full).hw := by
  unfold EventRoom; decide
/-! ### Commands at the head of a queue -/

/-- A command record: opcode, CTRL, operand references and parameters. -/
def com (op ctl : Nat) (ops params : List Nat) (tag : Nat := 0) : Record64 :=
  let put := fun (b : Nat) (l : List Nat) => ((List.range l.length).zip l).foldl (fun a e => a + (e.2 <<< (b + 32 * e.1))) 0
  BitVec.ofNat 512 (op + ((op / 16 - 1) <<< 8) + (tag <<< 16) + (ctl <<< 64) + put 96 ops + put 288 params)
/-- A reference to descriptor i. -/
def ref (i : Nat) : Nat := 0x4000_0000 + i
/-- The bytes that are not zero of descriptors of region 1, for job 0: a vector of n elements, an m × n matrix, and an m × n
compressed-row matrix, of a format, at 0x100 × b. -/
def vec (fmt b n : Nat) : List (Nat × Nat) := [(0, 1 + 16 * fmt), (1, 1), (4, 1), (9, b), (16, n - 1), (19, 1)]
def mat (fmt b m n : Nat) : List (Nat × Nat) := [(0, 1 + 16 * fmt), (1, 2), (4, 1), (9, b), (16, m - 1), (19, n), (24, n - 1), (27, 1)]
def crow (fmt b m n : Nat) : List (Nat × Nat) := [(0, 3 + 16 * fmt), (1, 2), (4, 1), (9, b), (16, m - 1), (24, n - 1)]
/-- An image from its bytes. -/
def image (l : List (Nat × Nat)) : Record64 := BitVec.ofNat 512 (l.foldl (fun a e => a + (e.2 <<< (8 * e.1))) 0)
/-- Device memory with descriptors from 0x1_0000 on. -/
def table (ds : List (List (Nat × Nat))) : Mem :=
  let cells := ((List.range ds.length).zip ds).flatMap (fun d => d.2.map (fun e => (0x1_0000 + 64 * d.1 + e.1, BitVec.ofNat 8 e.2)))
  { Mem.reset with cells := cells.filter (fun e => e.2 != 0) }
/-- A GDDR7 region of 1 MiB from 0 on, for job 0. -/
def region1 : BitVec 128 := BitVec.ofNat 128 (0x10_0000 <<< 64)
/-- FULL service with a table of descriptors at 0x1_0000 and region 1. -/
def withTable (ds : List (List (Nat × Nat))) : Hw :=
  { full with regs := [(1, 1), (74, 0x1_0000), (76, 16), (274, 2)], mem := table ds, regions := [(1, region1)] }
theorem withTable_regs : (withTable []).regs = ((full.wr .STRM_TDESC_BASE_LO 0 0x1_0000).fset F.STRM_TDESC_CAP_COUNT 16).regs := by decide
/-- Tile 0 with frame 0, whose queue 0 is bound to stream 1 with the command at its head; the stream stands at a position. -/
def runOn (s : Hw) (w : Record64) (c : StreamCtx := StreamCtx.reset) (carry : Bool := false) : Hw :=
  { s with
    regs := s.regs ++ [(600, 33), (602, 0), (608, 1)]
    phys := [(0, { Phys.reset with st := .in_, loomOkA := true, loomOkB := true })]
    tiles := [(0, { Tile.reset with
      frame := some 0
      fs := { FrameState.empty with ctxs := [(1, c)] }
      queues := [(0, { QueueState.reset with
        bind := { Binding.none with stream := 1, valid := true, cl := carry, cs := carry }
        bound := true, fetched := [w], fetchedDross := [false] })] })] }
/-- Its registers: stream 1 is enabled, with frame 0 and one command in its ring. -/
theorem runOn_regs (w : Record64) :
    (runOn full w).regs = (((full.fset F.STRM_CTL_ENABLE 1 1).fset F.STRM_FRAME_FRAME 0 1).wr .STRM_TAIL 1 1).regs := by
  show full.regs ++ _ = _
  decide
/-- The head of queue 0 of tile 0. -/
def hd (s : Hw) : Head := (s.head 0 0).getD { n := 0, ctx := StreamCtx.reset, w := 0, dross := true }
/-! ### Witnesses: streams, latches, mailbox, control commands -/

theorem wit_StreamWindows :
    (mk full).hw.regsLive = true ∧ (mk full).hw.boot.phase = .live ∧ (63 : Nat) < 64 ∧ (List.replicate 64 (0 : Byte)).length = 64 ∧
    63 < 4096 - (mk full).hw.depth (1 : BitVec 16).toNat ∧
    LeadsTo (mk full).hw ((mk full).hw.ringAddr (1 : BitVec 16).toNat ((mk full).hw.tail (1 : BitVec 16).toNat + 63)) 4032 64 ∧
    Unguarded (mk full).hw ((mk full).hw.ringAddr (1 : BitVec 16).toNat ((mk full).hw.tail (1 : BitVec 16).toNat + 63)) 4032 64 ∧
    -- a ring with room for 63 commands
    4096 - (mk (full.wr .STRM_TAIL 1 4033)).hw.depth (1 : BitVec 16).toNat ≤ 63 ∧
    EventRoom (mk full).hw := by
  unfold EventRoom
  refine ⟨?_, ?_, ?_, ?_, ?_, LeadsTo_gddr _ _ _ _ ?_, Unguarded_all _ _ _ _ ?_, ?_⟩ <;> decide +kernel
/-- Stream 1 with one command written to its window, and the tie-off of one command. -/
def oneWritten : Hw := (full.fset F.STRM_CTL_ENABLE 1 1).setStream 1 { StreamSt.reset with written := 1, shadowDue := true }
theorem wit_TieOff :
    (mk oneWritten).hw.tieOffCheck (1 : BitVec 16).toNat 0x101 = some 0xB005 ∧
    (mk oneWritten).hw.tieOffCheck (1 : BitVec 16).toNat 0x1 = none ∧
    ((mk oneWritten).hw.getStream (1 : BitVec 16).toNat).debt = 0 ∧ ((mk oneWritten).hw.getStream (1 : BitVec 16).toNat).notify = [] ∧
    ((mk oneWritten).hw.getStream (1 : BitVec 16).toNat).shadowDue = true ∧
    (mk oneWritten).hw.flag F.STRM_CTL_ENABLE (1 : BitVec 16).toNat = true ∧
    (mk (oneWritten.fset F.STRM_CTL_SHADOW_EN 1 1)).hw.flag F.STRM_CTL_SHADOW_EN (1 : BitVec 16).toNat = true ∧
    (mk oneWritten).hw.busMaster = true := by decide +kernel
theorem wit_StreamControl :
    (mk full).hw.regsLive = true ∧ 0 = (mk full).hw.fget F.STRM_SEL_STREAM ∧
    (mk (full.fset F.STRM_STATE_HALTED 1)).hw.flag F.STRM_STATE_HALTED 0 = true ∧ (mk full).hw.flag F.STRM_STATE_HALTED 0 = false ∧
    ((mk (full.setStream 1 { StreamSt.reset with resetPending := true })).hw.getStream (1 : BitVec 16).toNat).resetPending = true ∧
    (mk (full.fset F.STRM_FRAME_FRAME 0xF_FFFF)).hw.fget F.STRM_FRAME_FRAME 0 = 0xF_FFFF := by decide +kernel
/-- A set, no host's, has reached latch 0 in this cycle; a clear of it is on its way. -/
def setting : Hw := { full with latches := { Latches.reset with ops := [⟨0, true, 0, 0⟩], setCycle := full.boot.ticks, setNow := [(0, false)] } }
theorem wit_GlobalLatches :
    (mk full).hw.regsLive = true ∧
    (mk { full with latches := { Latches.reset with ops := [⟨4095, false, 0, 0⟩] } }).hw.latches.ops[(0 : BitVec 16).toNat]? =
      some ⟨4095, false, 0, 0⟩ ∧
    NoSetNow (mk full).hw 0 ∧ ¬ NoSetNow (mk setting).hw 0 ∧ SetNow (mk setting).hw ((mk setting).hw.fget F.STRM_GLATCH_SEL_LATCH) ∧
    (mk setting).hw.regsLive = true ∧ (mk setting).hw.latches.ops[(0 : BitVec 16).toNat]? = some ⟨0, true, 0, 0⟩ ∧
    (mk ((full.wr .LNK_RT_MASK_LO 5 1).fset F.LNK_LSTATE_STATE 2)).hw.routeOf (5 : BitVec 12).toNat 0 0 = some 0 := by
  unfold NoSetNow SetNow; decide +kernel
theorem wit_MailboxStarts :
    (mk (withTable [])).hw.regsLive = true ∧ (mk (withTable [])).hw.mail = none ∧ (mk (withTable [])).hw.mu.mapped = true ∧
    (mk { full with mail := some (MailOp.of 1) }).hw.mail ≠ none ∧ EventRoom (mk full).hw ∧ (mk (withTable [])).hw.tableCap ≠ 0 ∧
    (15 : BitVec 20).toNat < (mk (withTable [])).hw.tableCap ∧
    ((mk (withTable [])).hw.descCheck (15 : BitVec 20).toNat (image (vec 0 0 1) - 1)).code = 1 ∧
    ((mk (withTable [])).hw.descCheck (16 : BitVec 20).toNat (image (vec 0 0 1) - 1)).code ≠ 1 ∧
    Sparse.find? (mk (withTable [])).hw.regions ((1 : BitVec 20).toNat % 4096) = some region1 ∧
    (mk full).hw.regionCheck 1 region1 = (1, 0) ∧ ((mk (withTable [])).hw.regionCheck 2 region1).1 ≠ 1 ∧
    (mk (withTable [])).hw.regionInUse 1 = false ∧ (mk (withTable [vec 0 0 1])).hw.regionInUse 1 = true := by
  unfold EventRoom; decide +kernel
/-- The entry of descriptor 15. -/
theorem wit_MailboxEntry :
    LeadsTo (withTable []) ((withTable []).tableBase + 64 * (15 : BitVec 20).toNat) 0x1_03C0 64 ∧
    ∀ i < 64, (withTable []).lockedAt ((withTable []).tableBase + 64 * (15 : BitVec 20).toNat + i) = false ∧
      (withTable []).seedGuard (0x1_03C0 + i) = false := by
  refine ⟨LeadsTo_gddr _ _ _ _ ?_, ?_⟩ <;> decide +kernel
theorem wit_MailboxEnds :
    (mk { full with mail := some { MailOp.of 1 with destroy := some 3 } }).hw.mail = some { MailOp.of 1 with destroy := some 3 } ∧
    (mk { full with mail := some (MailOp.of 1) }).hw.mail = some (MailOp.of 1) ∧
    0 < (mk (full.fset F.STRM_TDESC_LIVE_COUNT 1)).hw.fget F.STRM_TDESC_LIVE_COUNT := by decide
/-! ### Witnesses: control commands and queues -/

/-- A context inside slot 2 at command 5, with RID 7, counter 0 at 2 and flag 0 set. -/
def inSlot : StreamCtx :=
  { StreamCtx.reset with pos := .slot 2 7 5, counters := [(0, 2)], comps := 1, stack := [.ring 9, .slot 2 7 1] }
/-- The command heads queue 0 of tile 0 and issues now. -/
def issues (s : Hw) (op : Nat) : Bool :=
  let h := hd s
  decide (s.tileOfStream h.n = some 0 ∧ (s.getTile 0).frame = some (s.fget F.STRM_FRAME_FRAME h.n) ∧
    s.head 0 0 = some h ∧ Com.opcode h.w = op ∧ s.dutyOpen 0 = true ∧ h.dross = false ∧
    s.issueWhy 0 0 h (if formatOk h.w then s.takeOps 0 h.ctx h.w else []) = 1 ∧ (s.breakpoints h).2 = false ∧
    ((s.breakpoints h).1.takeNamed 0 h).2 = none ∧ (((s.issuing 0 h).leaveHead 0 0 h).commonChecks ((s.issuing 0 h).cmdOf 0 0 h)).2 = 0)
/-- A state and its head meet the two premises of the statements about commands. -/
theorem issues_ready (s : Hw) (op : Nat) (h : issues s op = true) :
    HomeOn (mk s).hw (0 : Fin 512) (hd s).n ∧ Ready (mk s).hw (0 : Fin 512) (0 : Fin 4) op (hd s) := by
  have := of_decide_eq_true h
  exact ⟨⟨this.1, this.2.1⟩, this.2.2⟩

theorem wit_ControlCommands :
    issues (runOn full (com 0x70 0 [] [5])) 0x70 = true ∧ issues (runOn full (com 0x71 0 [] [5])) 0x71 = true ∧
    issues (runOn full (com 0x72 0 [] [1, 2])) 0x72 = true ∧ issues (runOn full (com 0x75 0 [] [])) 0x75 = true ∧
    -- SET of tile latches 0 and 63
    issues (runOn full (com 0x76 0 [] [0x4000 + (0x403F <<< 16)])) 0x76 = true ∧ issues (runOn full (com 0x79 0 [] [])) 0x79 = true ∧
    issues (runOn full (com 0x7A 0 [] [])) 0x7A = true := by decide +kernel
theorem wit_MarkCommand :
    issues (runOn full (com 0x80 0 [] [1, 2])) 0x80 = true ∧
    (let s := (((runOn full (com 0x80 0 [] [1, 2])).fset F.DBG_TRACE_CTL_SRC_MARK 1).fset F.DBG_TRACE_CTL_EN 1).fset F.DBG_TRACE_CTL_RUNNING 1
     issues s 0x80 = true ∧ s.flag F.DBG_TRACE_CTL_SRC_MARK = true ∧ s.flag F.DBG_TRACE_CTL_SRC_CMD = false ∧
       s.flag F.DBG_TRACE_CTL_SRC_EVENT = false ∧ s.flag F.DBG_TRACE_CTL_EN = true ∧ s.flag F.DBG_TRACE_CTL_RUNNING = true ∧
       s.flag F.DBG_TRACE_CTL_FULL = false ∧ s.test.trace = [] ∧ s.fget F.DBG_TRACE_COUNT_COUNT < 2 ^ s.fget F.DBG_TRACE_CTL_LOG2 ∧
       32 ≤ s.capacity ∧ (List.range 32).all (fun i => s.place i == .gddr i) = true ∧
       (List.range 32).all (fun i => !s.inTable i && !s.lockedAt i && !s.seedGuard i) = true) := by decide +kernel
theorem wit_ControlFlow :
    -- BR in the ring, and in a slot: taken and not taken
    issues (runOn full (com 0x73 0x80 [] [4095])) 0x73 = true ∧ brTaken StreamCtx.reset (com 0x73 0x80 [] [4095]) = true ∧
    brTaken StreamCtx.reset (com 0x73 0 [] [1]) = false ∧ issues (runOn full (com 0x73 0 [] [1])) 0x73 = true ∧
    issues (runOn full (com 0x73 0x80 [] [10]) inSlot) 0x73 = true ∧ (5 : Int) + signed 32 (Com.param (com 0x73 0x80 [] [10]) 0) = (15 : Nat) ∧
    -- LOOP with its counter at 2 and at 1
    issues (runOn full (com 0x74 0 [] [0xFFFF_FFFB]) inSlot) 0x74 = true ∧ inSlot.counter 0 ≠ 1 ∧
    (5 : Int) + signed 32 (Com.param (com 0x74 0 [] [0xFFFF_FFFB]) 0) = (0 : Nat) ∧
    ({ inSlot with counters := [(0, 1)] } : StreamCtx).counter 0 = 1 ∧
    issues (runOn full (com 0x74 0 [] [0xFFFF_FFFB]) { inSlot with counters := [(0, 1)] }) 0x74 = true ∧
    -- CALL with none and with four positions kept
    issues (runOn full (com 0x77 0 [] [3, 0])) 0x77 = true ∧
    Sparse.get 0 ((runOn full (com 0x77 0 [] [3, 0])).getPhys ((runOn full (com 0x77 0 [] [3, 0])).physOf 0)).rid 3 = 0 ∧
    issues (runOn full (com 0x77 0 [] [3, 0]) { inSlot with stack := List.replicate 4 (.ring 0) }) 0x77 = true ∧
    -- RET to the ring
    issues (runOn full (com 0x78 0 [] []) inSlot) 0x78 = true ∧ inSlot.stack = .ring 9 :: [.slot 2 7 1] := by decide +kernel
/-- A SCALAR.LOAD of descriptor 0, and its entry with a final status. -/
def loading : Hw := runOn (withTable [vec 0 0 1]) (com 0x7B 0 [ref 0] [3])
def flown (st : Nat) : InFlight :=
  { (InFlight.mk 4 (com 0x7B 0 [ref 0] [3]) 0 0 1 (.done st) .none [] [] [] 0 0 0 0 [] [] [] [] 0 none [] 0) with latched := 5 }
theorem wit_CommandsComplete :
    (let s := runOn full (com 0x79 0 [] []) { StreamCtx.reset with flight := [flown 0] }
     s.findFlight (0 : Fin 512) (0 : Fin 4) (4 : BitVec 32).toNat = some (1, flown 0) ∧ HomeOn s (0 : Fin 512) 1 ∧
       s.mayComplete (0 : Fin 512) 1 (flown 0) = true ∧ Com.opcode (flown 0).cmd ∉ [0x60, 0x61]) ∧
    (let s := runOn full (com 0x79 0 [] []) { StreamCtx.reset with flight := [flown 9] }
     s.findFlight (0 : Fin 512) (0 : Fin 4) (4 : BitVec 32).toNat = some (1, flown 9) ∧ statusCode 9 = 9) ∧
    issues (runOn full (com 0x7B 0x10 [] [3, 7])) 0x7B = true ∧ refKind (Com.op (com 0x7B 0x10 [] [3, 7]) 0) = 0 ∧
    issues loading 0x7B = true ∧ refKind (Com.op (com 0x7B 0 [ref 0] [3]) 0) = 1 ∧ loading.mem.syn = [] ∧ loading.mu.offline = [] := by
  unfold HomeOn; decide +kernel
/-- Stream 1 stands at the ring's first command, or in slot 2, with nothing fetched. -/
def unfetched (c : StreamCtx) : Hw := (runOn full 0 c).modQueue 0 0 (fun v => { v with fetched := [], fetchedDross := [] })
theorem wit_QueueWatch :
    1 = ((mk (unfetched StreamCtx.reset)).hw.getQueue (0 : Fin 512) (0 : Fin 4)).bind.stream ∧
    ((mk (unfetched StreamCtx.reset)).hw.getQueue (0 : Fin 512) (0 : Fin 4)).bound = true ∧
    (mk (unfetched StreamCtx.reset)).hw.mayIssue 1 = true ∧
    ((mk (unfetched StreamCtx.reset)).hw.getQueue (0 : Fin 512) (0 : Fin 4)).fetched = [] ∧
    ((mk (unfetched StreamCtx.reset)).hw.ctxOn (0 : Fin 512) 1).pos = .ring 0 ∧
    1 = ((mk (unfetched StreamCtx.reset)).hw.tail 1 + 2 ^ 32 - 0) % 2 ^ 32 ∧
    (mk (unfetched StreamCtx.reset)).hw.ringAddr 1 0 + 64 ≤ (mk (unfetched StreamCtx.reset)).hw.capacity ∧
    (mk (unfetched StreamCtx.reset)).hw.mem.syn = [] ∧ (mk (unfetched StreamCtx.reset)).hw.mu.offline = [] ∧
    ((mk (unfetched inSlot)).hw.ctxOn (0 : Fin 512) 1).pos = .slot 2 7 5 ∧
    Sparse.get 0 ((mk (unfetched inSlot)).hw.getPhys ((mk (unfetched inSlot)).hw.physOf (0 : Fin 512))).rid 2 ≠ 7 ∧
    ((mk (unfetched inSlot)).hw.getPhys ((mk (unfetched inSlot)).hw.physOf (0 : Fin 512))).rtnDross = [] ∧
    (let c := { inSlot with pos := .slot 2 0 15 }
     ((mk (unfetched c)).hw.ctxOn (0 : Fin 512) 1).pos = .slot 2 0 15 ∧
     Sparse.get 0 ((mk (unfetched c)).hw.getPhys ((mk (unfetched c)).hw.physOf (0 : Fin 512))).rid 2 = 0) := by decide +kernel
/-- A WAIT of tile latch 5, and of global latch 5. -/
def blocked (sel : Nat) : Hw := (runOn full (BitVec.ofNat 512 ((com 0x79 0 [] []).toNat + (sel <<< 32)))).setStream 1 { StreamSt.reset with waitBeats := 3 }
theorem wit_Watches :
    (mk (blocked 0x4005)).hw.deadlockMask (0 : Fin 512) ≠ 0 ∧ EventRoom (mk (blocked 0x4005)).hw ∧
    (mk (blocked 0x8005)).hw.watchedSel (1 : BitVec 16).toNat = some 0x8005 ∧
    (mk ((blocked 0x8005).fset F.STRM_WAIT_LIMIT_BEATS 3)).hw.fget F.STRM_WAIT_LIMIT_BEATS ≠ 0 ∧
    (mk ((blocked 0x8005).fset F.STRM_WAIT_LIMIT_BEATS 3)).hw.fget F.STRM_WAIT_LIMIT_BEATS ≤
      ((mk (blocked 0x8005)).hw.getStream (1 : BitVec 16).toNat).waitBeats := by
  unfold EventRoom; decide +kernel
/-- A load of slot 2 is outstanding on tile 0, with a stream at a position. -/
def loadOut (c : StreamCtx) : Hw := (runOn full 0 c).modPhys 0 (fun p => { p with loads := [⟨2, 7, 0, false, [], []⟩] })
theorem wit_RoutineLoads :
    (mk (loadOut StreamCtx.reset)).hw.regsLive = true ∧ (mk full).hw.flag F.TILE_RTN_LOAD_CTL_GO (0 : Fin 512) = false ∧
    (mk full).hw.flag F.STRM_RTN_BCAST_CTL_GO = false ∧ (0 < 512 ∧ (mk (loadOut StreamCtx.reset)).hw.admitted 0 = true) ∧
    ((mk (loadOut StreamCtx.reset)).hw.getPhys ((mk (loadOut StreamCtx.reset)).hw.physOf (0 : Fin 512))).loads[(0 : BitVec 8).toNat]? =
      some ⟨2, 7, 0, false, [], []⟩ ∧
    0 + 1024 ≤ (mk full).hw.capacity ∧ (mk full).hw.mem.syn = [] ∧ (mk full).hw.mu.offline = [] ∧
    (mk (loadOut StreamCtx.reset)).hw.inside (0 : Fin 512) 2 = false ∧ EventRoom (mk full).hw ∧
    (mk (loadOut inSlot)).hw.inside (0 : Fin 512) 2 = true ∧
    ((mk (loadOut inSlot)).hw.getPhys ((mk (loadOut inSlot)).hw.physOf (0 : Fin 512))).held.length < 4 := by
  unfold EventRoom; decide +kernel
/-! ### Witnesses: Finisher, Shuttle, looms -/

/-- The command over descriptors 0, 1, … heads queue 0, with or without its carry areas. -/
def onTable (op ctl : Nat) (ds : List (List (Nat × Nat))) (params : List Nat) (carry : Bool := true)
    (ops : List Nat := (List.range ds.length).map ref) : Hw :=
  runOn (withTable ds) (com op ctl ops params) StreamCtx.reset carry
/-- An FP32 descriptor of one element in three dimensions. -/
def cube : List (Nat × Nat) := [(0, 1), (1, 3), (4, 1), (9, 64), (19, 1), (27, 1), (35, 1)]
def cmd (s : Hw) : Cmd := s.cmdAt 0 0 (hd s)
/-- The command issues, nothing is dross, its carry area is there or not, and its check answers c. -/
def meets (s : Hw) (op : Nat) (missing : Bool) (check : Hw → Cmd → Nat) (c : Nat) : Bool :=
  issues s op && s.mem.syn.isEmpty && s.mu.offline.isEmpty && (s.taken 0 0 (hd s)).carryMissing (cmd s) == missing &&
    check (s.taken 0 0 (hd s)) (cmd s) == c
def fin (s : Hw) (op : Nat) (check : Cmd → Nat) (c : Nat) : Bool :=
  meets s op false (fun _ x => check x) c && finFormatOk (cmd s) && decide (rowLen ((cmd s).o 0).writeShape ≤ 262144)

theorem wit_FinisherCommands :
    fin (onTable 0x30 0 [vec 0 4 1, vec 0 8 1] []) 0x30 ewCheck 0 = true ∧ fin (onTable 0x31 0 [vec 0 4 1, vec 0 16 2] []) 0x31 rowCheck 0 = true ∧
    fin (onTable 0x32 0 [mat 0 12 2 2, mat 0 20 2 2, mat 0 28 2 2] [0x3F80_0000]) 0x32 normCheck 0 = true ∧
    fin (onTable 0x33 0 [mat 0 12 2 2, mat 0 20 2 2] []) 0x33 smaxCheck 0 = true ∧ fin (onTable 0x34 0 [vec 0 4 1, vec 0 8 1] []) 0x34 castCheck 0 = true ∧
    fin (onTable 0x35 0 [vec 10 24 1, vec 0 8 1] []) 0x35 scaleCheck 0 = true ∧
    -- a source of another shape
    fin (onTable 0x34 0 [vec 0 4 1, vec 0 16 2] []) 0x34 castCheck St.shape = true ∧ St.shape ≠ 0 := by decide +kernel
theorem wit_ElementResults :
    (let s := onTable 0x30 0 [vec 0 4 1, vec 0 8 1] []
     fin s 0x30 ewCheck 0 = true ∧ ((cmd s).o 0).writeShape = [1] ∧ ((cmd s).o 0).scaled = false ∧ Desc.padWrite ((cmd s).o 0).img = false ∧
       (cmd s).has 4 = false ∧ ((cmd s).o 0).byteAt [0] = 0x400 ∧ (fmtBits ((cmd s).o 0).fmt + 7) / 8 = 4 ∧
       (List.range 4).all (fun i => s.place (0x400 + i) == .gddr (0x400 + i)) = true ∧
       (List.range 4).all (fun i => !s.inTable (0x400 + i) && !s.lockedAt (0x400 + i) && !s.seedGuard (0x400 + i)) = true) ∧
    fin (onTable 0x34 0 [vec 0 4 1, vec 0 8 1] []) 0x34 castCheck 0 = true ∧ ((cmd (onTable 0x34 0 [vec 0 4 1, vec 0 8 1] [])).o 0).writeShape = [1] ∧
    fin (onTable 0x31 0 [vec 0 4 1, vec 0 16 2] []) 0x31 rowCheck 0 = true ∧ ((cmd (onTable 0x31 0 [vec 0 4 1, vec 0 16 2] [])).o 1).readShape = [2] ∧
    ((cmd (onTable 0x31 0 [vec 0 4 1, vec 0 16 2] [])).o 0).writeShape = [1] := by decide +kernel
/-- A SCORE of a query of one element against the sketch of a weight of as many columns. -/
def sketched : Hw :=
  let s := onTable 0x27 0x10 [mat 1 52 1 1, vec 0 44 40, vec 0 4 1, vec 0 8 1] [1]
  { s with mem := { s.mem with cells := (0x2C08, 1) :: s.mem.cells } }
theorem wit_ShuttleCommands :
    meets (onTable 0x20 0 [mat 0 32 1 1, vec 0 4 1, mat 0 36 1 1] [1]) 0x20 false (fun _ x => (indexedOf x).check) 0 = true ∧
    meets (onTable 0x21 0 [mat 0 32 1 1, vec 0 4 1, mat 0 36 1 1] [1]) 0x21 false (fun _ x => (indexedOf x).check) 0 = true ∧
    meets (onTable 0x22 0 [mat 0 32 1 1, vec 0 4 1, mat 0 36 1 1] [1]) 0x22 false (fun _ x => (indexedOf x).check) 0 = true ∧
    ((cmd (onTable 0x22 0 [mat 0 32 1 1, vec 0 4 1, mat 0 36 1 1] [1])).o 2).fmt ≠ 10 ∧
    meets (onTable 0x24 0 [mat 0 32 1 1, vec 0 16 2, mat 0 36 1 1] [] true [ref 0, ref 1, 0, 0, ref 2]) 0x24 false (fun _ x => mergeCheck x) 0 = true ∧
    meets (onTable 0x25 0 [vec 0 4 1, vec 0 8 1, vec 0 44 1, vec 0 48 1, mat 0 36 1 1] []) 0x25 false (fun _ x => sortCheck x) 0 = true ∧
    meets (onTable 0x26 0 [vec 0 4 1, vec 0 8 1, vec 0 40 3, vec 0 44 1, vec 0 48 1, mat 0 32 1 1] [1, 1, 1]) 0x26 false (fun _ x => routeCheck x) 0 = true ∧
    meets (onTable 0x27 0 [mat 1 52 1 1, vec 0 44 40] []) 0x27 false sketchCheck 0 = true ∧
    meets sketched 0x27 false sketchCheck 0 = true ∧ Com.modeBit (cmd sketched).w 4 = true ∧
    meets (onTable 0x40 0 [vec 0 4 1, vec 0 8 1] []) 0x40 false (fun _ x => moveCheck x) 0 = true ∧
    meets (onTable 0x22 0 [mat 0 32 1 1, vec 0 4 1, mat 0 36 1 1] [1] false) 0x22 true (fun _ _ => 0) 0 = true := by decide +kernel
theorem wit_LoomCommands :
    meets (onTable 0x10 0 [mat 1 52 1 1, mat 1 56 1 1, mat 0 32 1 1] []) 0x10 false mmCheck 0 = true ∧
    meets (onTable 0x11 0 [mat 1 52 1 1, mat 1 56 1 1, mat 1 52 1 1, mat 0 32 1 1, mat 0 36 1 1] []) 0x11 false mm2Check 0 = true ∧
    meets (onTable 0x12 0x400 [cube, cube, cube] [1]) 0x12 false convCheck 0 = true ∧
    meets (onTable 0x23 0 [crow 1 60 1 1, mat 1 56 1 1, mat 0 32 1 1] []) 0x23 false (fun _ x => spmmCheck x) 0 = true ∧
    meets (onTable 0x13 0 [mat 1 52 1 1] []) 0x13 false heddleCheck 0 = true := by decide +kernel
/-- The state in which the MM of a 1 × 1 product has left its block in the loom. -/
def blockWaits : Hw := after (exec (.mm 0 0) (mk (onTable 0x10 0 [mat 1 52 1 1, mat 1 56 1 1, mat 0 32 1 1] [])))
/-- The same of a command with S set. -/
def blockSkips : Hw :=
  let s := onTable 0x10 0 [mat 1 52 1 1, mat 1 56 1 1, mat 0 32 1 1] []
  after (exec (.mm 0 0) (mk (s.modQueue 0 0 (fun v => { v with fetched := v.fetched.map (fun w => w ||| 0x4000) }))))
/-- Whether the first block of loom A passes its checks with the faults given, and whether its command has S set; the home frame of its
stream is resident and no operand is more than plain. -/
def blockPasses (s : Hw) (held : Bool) (faults : List (BitVec 12 × BitVec 32)) : Option (Bool × Bool) :=
  match s.firstBlock 0 false held with
  | none => none
  | some (e, x) =>
    match blockOf (s.wake x) x e.index false with
    | none => none
    | some p =>
      if s.tileOfStream x.n = some 0 && (s.getTile 0).frame == some (s.fget F.STRM_FRAME_FRAME x.n) && x.t == 0 && x.has p.dst &&
          x.named.all (fun q => !q.2.scaled && !q.2.crow && !Desc.padWrite q.2.img) then
        some ((s.drainCheck x 0 false p faults).2.1, Com.skip x.w)
      else none
/-- The block is of one element, drained once, and its place is 4 bytes of GDDR7 that nothing guards. -/
def oneElement (s : Hw) : Bool :=
  match s.firstBlock 0 false false with
  | none => false
  | some (e, x) =>
    match blockOf (s.wake x) x e.index false with
    | none => false
    | some p =>
      let a := (x.o p.dst).byteAt ((p.idx p.m0 p.n0).map Int.ofNat)
      p.mb == 1 && p.nb == 1 && !p.acc && ((p.accs []).map List.length == [1]) && (fmtBits (x.o p.dst).fmt + 7) / 8 == 4 &&
        (List.range 4).all (fun i => s.place (a + i) == .gddr (a + i) && !s.inTable (a + i) && !s.lockedAt (a + i) && !s.seedGuard (a + i))
def repeats (s : Hw) : Hw := s.modTile 0 (fun x => { x with blocks := x.blocks.map (fun e => { e with held := true }) })
theorem wit_LoomBlocks :
    blockPasses blockWaits false [] = some (true, false) ∧ oneElement blockWaits = true ∧ blockWaits.mem.syn = [] ∧ blockWaits.mu.offline = [] ∧
    blockPasses blockWaits false [(0, 0x4000_0000)] = some (false, false) ∧
    blockPasses blockSkips false [(0, 0x4000_0000)] = some (false, true) ∧ (blockSkips.getPhys (blockSkips.physOf 0)).observed = false ∧
    blockPasses (repeats blockWaits) true [] = some (true, false) ∧ blockPasses (repeats blockWaits) true [(0, 0x4000_0000)] = some (false, false) ∧
    blockWaits.host.waiting.length < 200 ∧ (mk blockWaits).Ok ∧ (mk blockSkips).Ok := by
  decide +kernel
/-- The source of an EW and of a CAST, and the first operand of an MM2, hold dross. -/
def dirty (s : Hw) (a : Nat) : Hw := { s with mem := s.mem.markDross a }
def eats (s : Hw) (op : Nat) (check : Hw → Cmd → Nat) : Bool :=
  issues s op && ((s.taken 0 0 (hd s)).consumeBy (cmd s).sourceSpans).2.isSome && check (s.taken 0 0 (hd s)) (cmd s) == 0 &&
    !(s.taken 0 0 (hd s)).carryMissing (cmd s) && finFormatOk (cmd s) && decide (rowLen ((cmd s).o 0).writeShape ≤ 262144)
theorem wit_DrossAborts :
    eats (dirty (onTable 0x30 0 [vec 0 4 1, vec 0 8 1] []) 0x800) 0x30 (fun _ x => ewCheck x) = true ∧
    eats (dirty (onTable 0x34 0 [vec 0 4 1, vec 0 8 1] []) 0x800) 0x34 (fun _ x => castCheck x) = true ∧
    eats (dirty (onTable 0x11 0 [mat 1 52 1 1, mat 1 56 1 1, mat 1 60 1 1, mat 0 32 1 1, mat 0 36 1 1] []) 0x3400) 0x11 mm2Check = true := by
  decide +kernel
/-! ### Witnesses: transfers, collectives, links -/

/-- A vector on module 5: a descriptor of region 2. -/
def farVec (fmt b n : Nat) : List (Nat × Nat) := [(0, 1 + 16 * fmt), (1, 1), (4, 2), (9, b), (16, n - 1), (19, 1)]
def withFar (s : Hw) : Hw := { s with regions := [(1, region1), (2, BitVec.ofNat 128 ((0x10_0000 <<< 64) + (3 <<< 40) + (5 <<< 42)))] }
def transfers (op : Nat) (far : Bool) : Hw :=
  withFar (onTable op 0 (if far then [vec 0 4 1, farVec 0 8 1] else [vec 0 4 1, vec 0 8 1]) [])
def crosses (op : Nat) (far : Bool) : Bool :=
  let s := transfers op far
  issues s op && s.mem.syn.isEmpty && s.mu.offline.isEmpty && transferCheck (cmd s) == 0 && ((cmd s).o 1).reachesFar == far
theorem wit_TransferCommands :
    crosses 0x50 false = true ∧ crosses 0x50 true = true ∧ crosses 0x51 false = true ∧ crosses 0x51 true = true ∧
    FarWhole ((cmd (transfers 0x50 true)).o 1) ∧ FarWhole ((cmd (transfers 0x51 true)).o 1) := by
  unfold FarWhole; decide +kernel
/-- Region 1 is shared; data from module 5 to address 0 of job 0. -/
def shared : Hw := { (full.wr .LNK_RT_MASK_LO 5 1).fset F.LNK_LSTATE_STATE 2 with regions := [(1, BitVec.ofNat 128 ((0x10_0000 <<< 64) + (1 <<< 54)))] }
theorem wit_ArrivingAccesses :
    ¬ ((mk shared).hw.fget F.TWIN_STATUS_STATE = 4 ∧ (5 : BitVec 16).toNat = (mk shared).hw.twinId ∧ bit (7 : BitVec 32).toNat 31 = true) ∧
    ((5 : BitVec 16).toNat, (7 : BitVec 32).toNat, (0 : BitVec 64).toNat) ∉ (mk shared).hw.lnk.seen ∧
    (mk shared).hw.farAllowed (0 : BitVec 16).toNat (0 : BitVec 64).toNat 4 = true ∧ ([1, 2, 3, 4] : List Byte).length = 4 ∧
    LeadsTo (mk shared).hw (bits (0 : BitVec 64).toNat 0 40) 0 4 ∧ Unguarded (mk shared).hw (bits (0 : BitVec 64).toNat 0 40) 0 4 ∧
    (mk shared).hw.routeOf (5 : BitVec 16).toNat 0 0 = some 0 ∧
    ((5 : BitVec 16).toNat, (7 : BitVec 32).toNat, (0 : BitVec 64).toNat) ∈
      (mk { shared with lnk := { shared.lnk with seen := [(5, 7, 0)] } }).hw.lnk.seen ∧
    -- one byte past the region
    (mk shared).hw.farAllowed (0 : BitVec 16).toNat (0xF_FFFD : BitVec 64).toNat 4 = false ∧ EventRoom (mk shared).hw ∧
    (mk shared).hw.farAllowed (0 : BitVec 16).toNat (0 : BitVec 64).toNat (4 : BitVec 12).toNat = true ∧ Clean (mk shared).hw ∧
    (0 : BitVec 64).toNat % 128 + (128 : BitVec 12).toNat ≤ 128 ∧ (5 : BitVec 16).toNat ≠ (mk shared).hw.me ∧
    (mk shared).hw.routeOf (5 : BitVec 16).toNat (7 : BitVec 32).toNat (5 * 2 ^ 52 + bits (0 : BitVec 64).toNat 0 40 / 128 * 128) = some 0 ∧
    (mk shared).hw.routeOf (5 : BitVec 16).toNat (7 : BitVec 32).toNat ((mk shared).hw.me * 2 ^ 52 + bits (0 : BitVec 64).toNat 0 40 / 128 * 128) = some 0 := by
  unfold EventRoom Clean
  refine ⟨?_, ?_, ?_, ?_, LeadsTo_gddr _ _ _ _ ?_, Unguarded_all _ _ _ _ ?_, ?_⟩ <;> decide +kernel
/-- Transfer 7 of stream 1: a GET of 4 bytes from far address 0x100 to address 0x400. -/
def aGet : Xfer := { stream := 1, num := 4, get := true, total := 4, acked := 0, parts := [(0x100, 0x400, 4)], panels := none, sched := false }
def under : Hw := { full with lnk := { full.lnk with xfers := [(7, aGet)] } }
theorem wit_TransferAnswers :
    Sparse.find? (mk under).hw.lnk.xfers (7 : BitVec 32).toNat = some aGet ∧ aGet.panels = none ∧
    aGet.parts.find? (fun p => aGet.get && (bits (0x100 : BitVec 64).toNat 52 12 == (mk under).hw.me || bits (0x100 : BitVec 64).toNat 52 12 == bits p.1 52 12) &&
      decide (bits p.1 0 40 ≤ bits (0x100 : BitVec 64).toNat 0 40) &&
      decide (bits (0x100 : BitVec 64).toNat 0 40 + ([1, 2, 3, 4] : List Byte).length ≤ bits p.1 0 40 + p.2.2)) = some (0x100, 0x400, 4) ∧
    (mk under).hw.getDest aGet = none ∧ (0 : BitVec 16).toNat = (mk under).hw.me ∧
    ((mk under).hw.me, (7 : BitVec 32).toNat, (0x100 : BitVec 64).toNat) ∉ (mk under).hw.lnk.seen ∧
    LeadsTo (mk under).hw (0x400 + (bits (0x100 : BitVec 64).toNat 0 40 - bits 0x100 0 40)) 0x400 4 ∧
    Unguarded (mk under).hw (0x400 + (bits (0x100 : BitVec 64).toNat 0 40 - bits 0x100 0 40)) 0x400 4 ∧
    ((mk under).hw.ctxOf aGet.stream).flight.find? (fun f => f.num == aGet.num) = none ∧
    aGet.acked + (3 : BitVec 32).toNat < aGet.total ∧ aGet.total ≤ aGet.acked + (4 : BitVec 32).toNat := by
  refine ⟨?_, ?_, ?_, ?_, ?_, ?_, LeadsTo_gddr _ _ _ _ ?_, Unguarded_all _ _ _ _ ?_, ?_⟩ <;> decide +kernel
/-- Group 0 at 0x2_0000: job 0, two ranks, of which rank 0 is stream 1 here, and module 5 is next. -/
def withGroup (s : Hw) : Hw :=
  ({ s with mem := { s.mem with cells := s.mem.cells ++ [(0x2_0001, 0x80), (0x2_0002, 2), (0x2_0006, 1), (0x2_0008, 5), (0x2_0020, 1)] } } : Hw)
    |>.wr .LNK_GROUP_BASE_LO 0 0x2_0000 |>.fset F.LNK_GROUP_COUNT_COUNT 1
def group0 : Group := { job := 0, p := 2, first := 0, here := 1, next := 5, streams := [1] }
def joins (op n m : Nat) : Bool :=
  let s := withGroup (onTable op 0 [vec 0 4 n, vec 0 8 m] [])
  issues s op && ((s.taken 0 0 (hd s)).groupRec (Com.param (cmd s).w 0)).2 == some group0 && collCheck (s.taken 0 0 (hd s)) (cmd s) == 0
theorem wit_CollectiveCommands :
    joins 0x52 2 2 = true ∧ joins 0x53 1 2 = true ∧ joins 0x54 2 1 = true ∧ group0.rankOf 1 = some 0 ∧ group0.ranks = [0] ∧
    (withGroup full).lnk.early = [] ∧ (withGroup full).lnk.abortedColls = [] ∧ (withGroup full).lnk.colls = [] := by decide +kernel
/-- A participant of group 0 that gathers: its ALLGATHER is command 4 of stream 1. -/
def taker : Coll := { group := 0, inst := 0, rank := 0, stream := 1, num := 4, word := 0, expect := 8, beat := 0, warned := false, got := [], took := [], failed := false }
def gathering : Hw :=
  withGroup { runOn full 0 { StreamCtx.reset with flight := [{ flown 0 with cmd := com 0x53 0 [] [], stage := .running }] } with
    lnk := { LinkUnit.reset with colls := [taker] } }
theorem wit_CollectiveTraffic :
    (∀ z ∈ (mk (withGroup full)).hw.lnk.colls, z.expect ≠ 0 ∨ (mk (withGroup full)).hw.collUnsent z = true) ∧
    (∀ z ∈ (mk gathering).hw.lnk.colls, z.expect ≠ 0 ∨ (mk gathering).hw.collUnsent z = true) ∧ (mk (withGroup full)).hw.lnk.abortedColls = [] ∧
    (mk (withGroup full)).hw.groupRec (bits (0 : BitVec 64).toNat 0 12) = ((mk (withGroup full)).hw, some group0) ∧ 0 = group0.first % group0.p ∧
    (mk (withGroup full)).hw.lnk.colls.find? (fun k => k.group == bits (0 : BitVec 64).toNat 0 12 && k.rank == 0 &&
      k.inst % 256 == bits (0 : BitVec 64).toNat 12 8) = none ∧
    (mk (withGroup full)).hw.instAhead (bits (0 : BitVec 64).toNat 0 12) 0 (bits (0 : BitVec 64).toNat 12 8) = true ∧
    (mk gathering).hw.lnk.colls.find? (fun k => k.group == bits (0 : BitVec 64).toNat 0 12 && k.rank == 0 &&
      k.inst % 256 == bits (0 : BitVec 64).toNat 12 8) = some taker ∧
    ((mk gathering).hw.ctxOf 1).flight.find? (fun e => e.num == 4) =
      some { flown 0 with cmd := com 0x53 0 [] [], stage := .running } ∧
    Com.opcode (com 0x53 0 [] []) = 0x53 ∧ group0.ranks = [0] ∧ ([1, 2, 3, 4] : List Byte).length < taker.expect ∧
    ((mk gathering).hw.groupRec (0 : BitVec 12).toNat).2 = some group0 ∧
    taker ∈ (mk gathering).hw.lnk.colls ∧ taker.warned = false ∧
    (mk ((gathering.fset F.LNK_COLL_LIMIT_BEATS 3).wr .BEAT_COUNT_LO 0 3)).hw.fget F.LNK_COLL_LIMIT_BEATS ≠ 0 ∧
    taker.beat + (mk ((gathering.fset F.LNK_COLL_LIMIT_BEATS 3).wr .BEAT_COUNT_LO 0 3)).hw.fget F.LNK_COLL_LIMIT_BEATS ≤
      (mk ((gathering.fset F.LNK_COLL_LIMIT_BEATS 3).wr .BEAT_COUNT_LO 0 3)).hw.beatNo ∧ EventRoom (mk gathering).hw := by
  unfold EventRoom; decide +kernel
/-- A flit for module 9 from module 7 that has waited for a route since beat 0. -/
def lost : Hw :=
  ((({ full with lnk := { LinkUnit.reset with noRoute := [({ Flit.idle with cls := 3, src := 7, dst := 9 }, 0, none)] } } : Hw).fset
    F.LNK_COLL_LIMIT_UNREACH_LIMIT 2).wr .BEAT_COUNT_LO 0 2).wr .LNK_RT_MASK_LO 7 1 |>.fset F.LNK_LSTATE_STATE 2
theorem wit_Unreachable :
    (mk lost).hw.lnk.noRoute[(0 : BitVec 16).toNat]? = some ({ Flit.idle with cls := 3, src := 7, dst := 9 }, 0, none) ∧ (3 : Nat) ≠ 1 ∧
    7 ≠ (mk lost).hw.me ∧ 0 + (mk lost).hw.fget F.LNK_COLL_LIMIT_UNREACH_LIMIT ≤ (mk lost).hw.beatNo ∧ EventRoom (mk lost).hw ∧
    (mk lost).hw.routeOf 7 0 0 = some 0 := by
  unfold EventRoom; decide +kernel
/-- Link 0 in a state of LNK.LSTATE, as its record says. -/
def linked (st : Nat) (x : Link) (lanes : Nat := 0) : Hw :=
  ((full.setLink 0 x).fset F.LNK_LSTATE_STATE st).fset F.LNK_LSTATE_LANES lanes
def flit3 : Flit := { Flit.idle with cls := 3, dst := 9 }
def sent (fails : Nat) (resend : Bool) : Replay := { seq := 65535, fails := fails, resend := resend, flit := flit3, records := [], ack := 0 }
def up : Link := { Link.reset with trained := true, credits := 1, dyn := [flit3] }
/-- A plan whose entry gives slot 0 of link 0, whose partner is of the module's beat group, to stream 1 from cycle 0 for 64 cycles (R46), and the
scheduled flit of that stream. -/
def sched1 : Link := { up with sched := [{ flit3 with cls := 2, stream := 1 }], identity := some (5, 1, 64) }
def slotted : Hw :=
  let s := (linked 2 sched1).fset F.BEAT_GROUP_GROUP_ID 1
  { s with beat := { s.beat with cur := { Entry.empty with bytes := [(0x8240, 1), (0x8244, 1)] } } }
theorem wit_LinkSending :
    (mk full).hw.fget F.TWIN_STATUS_STATE ≠ 5 ∧ Link.reset.trained = false ∧ (mk (linked 0 Link.reset)).hw.getLink (0 : Fin 64) = Link.reset ∧
    (mk (linked 1 up)).hw.getLink (0 : Fin 64) = up ∧ up.trained = true ∧ (mk (linked 1 up)).hw.lstate (0 : Fin 64) ≠ 2 ∧
    (mk (linked 1 up)).hw.lstate (0 : Fin 64) ≠ 3 ∧ (mk (linked 2 up)).hw.lstate (0 : Fin 64) = 2 ∧ (mk (linked 3 up)).hw.lstate (0 : Fin 64) = 3 ∧
    -- a flit to resend; none, and no credit; none, and a dynamic flit; a long message
    ({ up with replay := [sent 0 true] } : Link).replay.findIdx? (fun r => r.resend) = some 0 ∧
    ({ up with replay := [sent 0 true] } : Link).replay[0]? = some (sent 0 true) ∧ up.replay.findIdx? (fun r => r.resend) = none ∧
    up.replay.length < 256 ∧ up.long = [] ∧ ((mk (linked 2 up)).hw.slotStream (0 : Fin 64)).bind (fun n => up.sched.findIdx? (fun f => f.stream == n)) = none ∧
    0 < up.credits ∧ up.dyn = flit3 :: [] ∧ ({ up with credits := 0 } : Link).credits = 0 ∧ ({ up with long := [flit3] } : Link).long = flit3 :: [] ∧
    -- timeouts of the oldest flit at its 1st, 9th and 17th failure
    (sent 0 false).resend = false ∧ (sent 0 false).fails ≠ 8 ∧ (sent 15 false).fails < 16 ∧ (sent 8 false).fails = 8 ∧ 16 ≤ (sent 16 false).fails ∧
    (sent 0 true).resend = true ∧ EventRoom (mk full).hw ∧
    -- a flit scheduled for the slot, and one towards a module of no shared group
    (mk slotted).hw.getLink (0 : Fin 64) = sched1 ∧ ((mk slotted).hw.readySched (0 : Fin 64)).getLink (0 : Fin 64) = sched1 ∧
    (mk (linked 2 up)).hw.groupShared (0 : Fin 64) = false ∧ ((mk (linked 2 up)).hw.readySched (0 : Fin 64)).getLink (0 : Fin 64) = up ∧
    ((mk (linked 1 up)).hw.readySched (0 : Fin 64)).getLink (0 : Fin 64) = up ∧
    -- a marker that waits while a flit is resent
    (([ctlRecord 1 0 0 16 0] : List (BitVec 128)).takeWhile edgeRecord).take (5 - (sent 0 true).records.length) = [ctlRecord 1 0 0 16 0] ∧ sched1.long = [] ∧ sched1.partnerHold = false ∧
    ((mk slotted).hw.slotStream (0 : Fin 64)).bind (fun n => sched1.sched.findIdx? (fun f => f.stream == n)) = some 0 ∧
    sched1.sched[0]? = some { flit3 with cls := 2, stream := 1 } := by
  unfold EventRoom; (repeat' apply And.intro) <;> decide +kernel
/-- A flit's number on the wire: class 3 with sequence number n, for module 0. -/
def onWire (n : Nat) : BitVec 10240 := BitVec.ofNat 10240 (n + (3 <<< 32))
theorem wit_LinkReceiving :
    (mk (linked 2 up)).hw.getLink (0 : Fin 64) = up ∧ up.trained = true ∧ (mk (linked 2 up)).hw.lstate (0 : Fin 64) = 2 ∧
    headerOf (toBytes 1280 (onWire 1).toNat) false false = some (1 + (3 <<< 32)) ∧ headerOf (toBytes 1280 (onWire 1).toNat) false true = none ∧
    headerZero (1 + (3 <<< 32)) = true ∧ headerZero (1 + (3 <<< 32) + (1 <<< 38)) = false ∧ bit (1 + (3 <<< 32)) 35 = false ∧
    bits (1 + (3 <<< 32)) 32 2 = 3 ∧ bits (1 + (3 <<< 32)) 0 16 = (up.rxSeq + 1) % 65536 ∧
    (flitOf (mk (linked 2 up)).hw.me (1 + (3 <<< 32)) ((toBytes 1280 (onWire 1).toNat).drop 128)).dst = (mk (linked 2 up)).hw.me ∧
    (flitOf (mk (linked 2 up)).hw.me (1 + (3 <<< 32)) ((toBytes 1280 (onWire 1).toNat).drop 128)).drossForm = false ∧
    (∀ i < 5, bits (ofBytes (((toBytes 1280 (onWire 1).toNat).drop (48 + 16 * i)).take 16)) 0 8 = 0) ∧
    bits (2 + (3 <<< 32)) 0 16 ≠ (up.rxSeq + 1) % 65536 ∧
    -- an idle flit that tells of a flit missing
    headerOf (toBytes 1280 (BitVec.ofNat 10240 7).toNat) false false = some 7 ∧ headerZero 7 = true ∧ bit 7 35 = false ∧ bits 7 32 2 = 0 ∧
    bits 7 0 16 ≠ up.rxSeq ∧ (mk (linked 1 up)).hw.lstate (0 : Fin 64) ≠ 2 ∧
    (mk (linked 1 up)).hw.lstate (0 : Fin 64) ≠ 3 ∧ Link.reset.trained = false := by decide +kernel
theorem wit_LinkLanes :
    (mk (linked 2 up)).hw.lstate (0 : Fin 64) = 2 ∧ (mk (linked 3 up)).hw.lstate (0 : Fin 64) = 3 ∧ (mk (linked 1 up)).hw.lstate (0 : Fin 64) ≠ 2 ∧
    (mk (linked 1 up)).hw.lstate (0 : Fin 64) ≠ 3 ∧ (mk (linked 2 up)).hw.fget F.LNK_LSTATE_LANES (0 : Fin 64) = 0 ∧
    32 ≤ ({ up with bad0 := 32 } : Link).bad0 ∧ ({ up with bad0 := 32 } : Link).bad1 < 32 ∧
    (mk (linked 2 up 2)).hw.fget F.LNK_LSTATE_LANES (0 : Fin 64) = 2 ∧ (mk (linked 2 up 1)).hw.fget F.LNK_LSTATE_LANES (0 : Fin 64) = 1 ∧
    (mk (linked 2 up)).hw.fget F.LNK_RETRAIN_THR_COUNT ≤ ({ up with replaysWindow := 65535 } : Link).replaysWindow ∧
    up.replaysWindow < (mk (linked 2 up)).hw.fget F.LNK_RETRAIN_THR_COUNT ∧ EventRoom (mk (linked 2 up)).hw := by
  unfold EventRoom; (repeat' apply And.intro) <;> decide +kernel
theorem wit_LinkTraining :
    (0 : Fin 64).val / 8 = (0 : Fin 8).val ∧ (mk (inPhase .fuses)).hw.coreUp = true ∧ (mk (inPhase .fuses)).hw.lstate (0 : Fin 64) = 0 ∧
    (mk (inPhase .fuses)).hw.getLink (0 : Fin 64) = Link.reset ∧ Link.reset.disable = false ∧
    Link.reset.st = .in_ ∧ (mk (linked 1 Link.reset)).hw.lstate (0 : Fin 64) = 1 ∧ Link.reset.trained = false ∧ Link.reset.reported = false ∧
    ({ Link.reset with reported := true } : Link).reported = true ∧ up.trained = true ∧ up.identity = none ∧
    ({ up with lastPeer := some 4 } : Link).lastPeer = some 4 ∧ 4 ≠ (5 : BitVec 12).toNat ∧
    ({ up with identity := some (5, 0, 64), peerReady := true } : Link).identity = some (5, 0, 64) ∧
    ({ up with identity := some (5, 0, 64), peerReady := true } : Link).peerReady = true ∧ EventRoom (mk (linked 1 up)).hw ∧
    (mk (linked 1 { up with identity := some (5, 0, 64), peerReady := true })).hw.getLink (0 : Fin 64) =
      { up with identity := some (5, 0, 64), peerReady := true } ∧
    (mk (linked 1 up)).hw.boot.imageValid = false ∧
    (let x : Link := { up with identity := some (5, 0, 64), peerReady := true }
     let s := (mk ({ linked 1 x with boot := { full.boot with imageValid := true } } : Hw)).hw
     s.boot.imageValid = true ∧ s.getLink (0 : Fin 64) = x ∧ s.lstate (0 : Fin 64) = 1 ∧ EventRoom s) := by
  unfold EventRoom; (repeat' apply And.intro) <;> decide +kernel
/-! ### Witnesses: plans and beats -/

/-- Blank memory reads as zeros, so an entry fetched from it has none of its bytes set. -/
theorem peek_blank (s : Hw) (h : s.mem = Mem.reset) (a : Nat) : s.peek a = 0 := by
  have hb : ∀ k, s.mem.goodByte k = 0 := by
    intro k; rw [h]; rfl
  unfold Hw.peek; split <;> simp [hb]
theorem nonzero_blank (s : Hw) (h : s.mem = Mem.reset) (a n : Nat) : nonzero (s.peekRun a n) = [] := by
  have : s.peekRun a n = (List.range n).map (fun _ => (0 : Byte)) := by
    unfold Hw.peekRun; exact List.map_congr_left (fun i _ => peek_blank s h _)
  unfold nonzero runCells
  rw [this, List.filter_eq_nil_iff]
  intro e he
  obtain ⟨p, hp, rfl⟩ := List.mem_map.mp he
  have := (List.of_mem_zip hp).2
  obtain ⟨_, _, h0⟩ := List.mem_map.mp this
  simp [← h0]
theorem fetch_blank (s : Hw) (h : s.mem = Mem.reset) (o : s.mu.offline = []) (b i : Nat)
    (c : ¬ s.capacity < b + 0x1_0000 * i + 0xA240) (f : s.entryFails ({ bytes := [], routes := [] } : Entry) = []) :
    (s.fetchEntry b i).2.2.1 = none := by
  unfold Hw.fetchEntry
  simp only [c, if_false, nonzero_blank s h]
  have hn : min 4096 ({ bytes := [], routes := [] } : Entry).routeCount * 16 = 0 := by decide
  simp [hn, Hw.consume_clean (show s.mem.syn = [] by rw [h]; rfl) o, f, lowest]
/-- WARM service with a plan of one entry; GDDR7 is blank. -/
def planned : Hw := (warm.fset F.BEAT_CUR_LEN_LEN 1).fset F.BEAT_NEXT_LEN_LEN 1
/-- The same after PLAN_NEXT.GO. -/
def asked : Hw := ({ planned with beat := { planned.beat with pendingGo := some 0 } } : Hw).fset F.BEAT_PLAN_NEXT_GO 1
def unmapped (s : Hw) : Hw := { s with mu := MemUnit.reset }
/-- The clock has made the steps of the edge window before the one given. -/
def inEdge (step : Nat) (sw : Bool) (s : Hw) : Hw := { s with beat := { s.beat with edge := { EdgeRun.none with step := step, sw := sw } } }
def lateIn (s : Hw) : Hw := ({ s with beat := { s.beat with cycle := 60000 } } : Hw).wr .BEAT_NEXT_AT_LO 0 1
theorem fetched_planned : ((mk planned).hw.fetchEntry 0 0).2.2.1 = none :=
  fetch_blank _ rfl rfl _ _ (by decide +kernel) (by decide +kernel)
theorem fetched_asked : ((mk asked).hw.fetchEntry 0 0).2.2.1 = none :=
  fetch_blank _ rfl rfl _ _ (by decide +kernel) (by decide +kernel)
theorem wit_PlanCommands :
    ((mk planned).hw.fetchEntry 0 0).2.2.1 = none ∧ ((mk asked).hw.fetchEntry 0 0).2.2.1 = none ∧
    (mk warm).hw.planLen = 0 ∧ (mk planned).hw.running = true ∧ (mk planned).hw.planLen ≠ 0 ∧ (mk planned).hw.beat.next = none ∧
    (mk planned).hw.beat.nextBad = false ∧ (mk planned).hw.planBase = 0 ∧
    (0 : Nat) = ((mk planned).hw.fget F.BEAT_ENTRY_INDEX + 1) % (mk planned).hw.planLen ∧
    -- without GDDR7
    (mk (unmapped planned)).hw.running = true ∧ (mk (unmapped planned)).hw.planLen ≠ 0 ∧ (mk (unmapped planned)).hw.beat.next = none ∧
    (mk (unmapped planned)).hw.beat.nextBad = false ∧ ((mk (unmapped planned)).hw.fetchEntry 0 0).2.2.1 = some 0 ∧
    EventRoom ((mk (unmapped planned)).hw.fetchEntry 0 0).1 ∧
    -- PLAN_NEXT.GO: ignored, refused and taken
    (mk (inPhase .fuses)).hw.regsLive = false ∧ (mk asked).hw.flag F.BEAT_PLAN_NEXT_GO = true ∧ (mk planned).hw.regsLive = true ∧
    (mk planned).hw.flag F.BEAT_PLAN_NEXT_GO = false ∧ (mk (unmapped planned)).hw.capacity = 0 ∧ (mk (unmapped planned)).hw.regsLive = true ∧
    EventRoom (mk planned).hw ∧ (mk planned).hw.capacity ≠ 0 ∧ (mk warm).hw.fget F.BEAT_NEXT_LEN_LEN = 0 ∧
    (mk planned).hw.level = 1 ∧ (mk planned).hw.rd64 .BEAT_NEXT_AT_LO .BEAT_NEXT_AT_HI = 0 ∧ (mk planned).hw.fget F.BEAT_NEXT_LEN_LEN = 1 ∧
    (mk planned).hw.fget F.BEAT_NEXT_LEN_START < 1 ∧
    (mk (full.wr .BEAT_NEXT_AT_LO 0 1)).hw.rd64 .BEAT_NEXT_AT_LO .BEAT_NEXT_AT_HI = 1 ∧ 8192 ≤ (mk (full.wr .BEAT_NEXT_AT_LO 0 1)).hw.cyclesTo 1 ∧
    (mk (full.wr .BEAT_NEXT_AT_LO 0 1)).hw.level = 2 ∧ (mk (lateIn full)).hw.cyclesTo 1 < 8192 ∧
    -- CANCEL, in time and too late
    (mk asked).hw.beat.pendingGo.isSome = true ∧ (mk asked).hw.beat.edge.step ≤ 3 ∧ (mk asked).hw.regsLive = true ∧
    (let s := (mk (inEdge 4 true asked)).hw
     3 < s.beat.edge.step ∧ s.beat.edge.sw = true ∧ s.beat.pendingGo.isSome = true ∧ s.regsLive = true ∧ EventRoom s) ∧
    -- the start entry
    (mk asked).hw.beat.start = none ∧ (mk asked).hw.switchTooLate = false ∧ (mk (unmapped asked)).hw.switchTooLate = false ∧ (mk asked).hw.nextBase = 0 ∧
    (mk asked).hw.fget F.BEAT_NEXT_LEN_START = 0 ∧ ((mk (unmapped asked)).hw.fetchEntry 0 0).2.2.1 = some 0 ∧
    (mk (unmapped asked)).hw.beat.pendingGo.isSome = true ∧ EventRoom ((mk (unmapped asked)).hw.fetchEntry 0 0).1 ∧
    (let s := { asked with beat := { asked.beat with switchAt := 1, cycle := 60000 } }
     (mk s).hw.beat.switchAt ≠ 0 ∧ (mk s).hw.cyclesTo (mk s).hw.beat.switchAt < 8192 ∧ EventRoom (mk s).hw) := by
  unfold EventRoom
  refine ⟨fetched_planned, fetched_asked, ?_⟩
  decide +kernel
/-- Frame 0 comes to tile 0 in the next beat; another tile 0 has saved it. -/
def coming : Hw := ({ full with beat := { full.beat with next := some Entry.empty } } : Hw).fset F.BEAT_CUR_LEN_LEN 1
def saved0 : Hw := { full with tiles := [(0, { Tile.reset with writeBack := some 0 })] }
/-- A partition of one page of stream 1 on tile 0, with a backing, to be filled. -/
def backed (b : Nat) : Hw :=
  let bind : Binding := { Binding.none with stream := 1, psize := 1, budget := 1, valid := true }
  let c : QueueState := { QueueState.reset with bind := bind, bound := true }
  { full with
    beat := { full.beat with cycle := 64 }
    tiles := [(0, { Tile.reset with queues := [(0, c)] })]
    phys := [(0, { Phys.reset with resident := [{ stream := 1, pbase := 0, psize := 1, backing := b, filled := false }] })] }
def findsIn (b : Nat) : Bool :=
  let s := (mk (backed b)).hw
  (s.getPhys (s.physOf (0 : Fin 512))).resident.find? (fun r => r.stream == (s.getQueue (0 : Fin 512) (0 : Fin 4)).bind.stream &&
      r.pbase == (s.getQueue (0 : Fin 512) (0 : Fin 4)).bind.pbase && r.psize == (s.getQueue (0 : Fin 512) (0 : Fin 4)).bind.psize && !r.filled) ==
    some { stream := 1, pbase := 0, psize := 1, backing := b, filled := false }
theorem wit_FramesAndPartitions :
    (mk coming).hw.running = true ∧ (mk coming).hw.incoming = some Entry.empty ∧ (mk coming).hw.frameFor Entry.empty (0 : Fin 512) = some 0 ∧
    ((mk coming).hw.getTile (0 : Fin 512)).frame ≠ some 0 ∧ (mk coming).hw.inPool 0 = true ∧
    (mk coming).hw.frameAddr 0 + 0x8000 ≤ (mk coming).hw.capacity ∧
    ((mk coming).hw.mem.cells.any (fun c => decide (((mk coming).hw.frameState 0).1 ≤ c.1) && decide (c.1 ≤ ((mk coming).hw.frameState 0).2))) = false ∧
    (mk saved0).hw.running = true ∧ ((mk saved0).hw.getTile (0 : Fin 512)).writeBack = some 0 ∧
    (mk saved0).hw.frameAddr 0 + 0x8000 ≤ (mk saved0).hw.capacity ∧ (mk saved0).hw.fget F.TWIN_STATUS_STATE ≠ 4 ∧
    (mk (backed 0)).hw.running = true ∧ (mk (backed 0)).Ok ∧ findsIn 0 = true ∧ (mk (backed 0x8000)).Ok ∧ findsIn 0x8000 = true ∧
    0x8000 + 1 * 4096 ≤ (mk (backed 0x8000)).hw.capacity ∧ (mk (backed 0x8000)).hw.mu.offline = [] ∧
    -- its queue's budget of 64 cycles
    ((mk (backed 0)).hw.getQueue (0 : Fin 512) (0 : Fin 4)).bound = true ∧ ((mk (backed 0)).hw.getQueue (0 : Fin 512) (0 : Fin 4)).spent = false ∧
    ((mk (backed 0)).hw.getQueue (0 : Fin 512) (0 : Fin 4)).bind.budget = 1 ∧ (mk (backed 0)).hw.beat.cycle = 64 ∧
    (64 : Int) < (mk (backed 0)).hw.windowEnd ∧ ((mk (backed 0)).hw.getQueue (0 : Fin 512) (1 : Fin 4)).bound = false := by decide +kernel
/-- A member of beat group 5, whose markers come on links 1 and 2, from master 3; it is the backup master itself. -/
def member (primary any master : Nat) : Hw :=
  let s := ((((full.fset F.BEAT_GROUP_GROUP_ID 5).fset F.BEAT_STATUS_GROUPED 1).fset F.BEAT_UPLINK_PRIMARY 1).fset F.BEAT_UPLINK_SECONDARY 2).fset
    F.BEAT_HOLDOVER_BEATS 16
  { s with beat := { s.beat with master := 3, backup := 0, missPrimary := primary, missAny := any, missMaster := master } }
/-- The master of a beat group whose backup master is module 3. -/
def leader : Hw :=
  let s := (member 0 0 0).fset F.BEAT_STATUS_MASTER 1
  { s with beat := { s.beat with master := 0, backup := 3 } }
theorem wit_BeatGroups :
    (mk (member 0 0 0)).hw.running = true ∧ (mk full).hw.fget F.BEAT_GROUP_GROUP_ID = 0xFFF ∧ EventRoom (mk full).hw ∧
    (mk (member 0 0 0)).hw.fget F.BEAT_GROUP_GROUP_ID ≠ 0xFFF ∧ (5 : BitVec 12).toNat = (mk (member 0 0 0)).hw.fget F.BEAT_GROUP_GROUP_ID ∧
    (6 : BitVec 12).toNat ≠ (mk (member 0 0 0)).hw.fget F.BEAT_GROUP_GROUP_ID ∧
    (16 : BitVec 5).toNat = (mk (member 0 0 0)).hw.fget F.BEAT_LEN_LOG2 ∧ (mk (member 0 0 0)).hw.flag F.BEAT_STATUS_MASTER = false ∧
    (mk (member 0 0 0)).hw.flag F.BEAT_STATUS_GROUPED = true ∧ (1 : Fin 64).val = (mk (member 0 0 0)).hw.fget F.BEAT_UPLINK_PRIMARY ∧
    (2 : Fin 64).val ≠ (mk (member 0 0 0)).hw.fget F.BEAT_UPLINK_PRIMARY ∧ (2 : Fin 64).val = (mk (member 0 0 0)).hw.fget F.BEAT_UPLINK_SECONDARY ∧
    (mk (member 0 0 0)).hw.flag F.BEAT_UPLINK_ON_SECONDARY = false ∧
    (let s := ((member 0 0 0).fset F.LNK_LSTATE_PEER_VALID 1 1).fset F.LNK_LSTATE_PEER 3 1
     (mk s).hw.flag F.LNK_LSTATE_PEER_VALID (1 : Fin 64) = true ∧ (mk s).hw.fget F.LNK_LSTATE_PEER (1 : Fin 64) = (3 : BitVec 12).toNat ∧
       (mk s).hw.fget F.BEAT_GROUP_GROUP_ID = 5 ∧ (mk s).hw.flag F.BEAT_STATUS_GROUPED = true) ∧
    (3 : BitVec 12).toNat = (mk (member 0 0 0)).hw.beat.master ∧ (9 : BitVec 12).toNat ≠ (mk (member 0 0 0)).hw.beat.master ∧
    (9 : BitVec 12).toNat ≠ (mk (member 0 0 0)).hw.beat.backup ∧ (mk (member 8 8 8)).hw.beat.backup = (mk (member 8 8 8)).hw.me ∧
    (mk leader).hw.flag F.BEAT_STATUS_MASTER = true ∧ (mk leader).hw.me = (mk leader).hw.beat.master ∧ (mk leader).hw.running = true ∧
    (3 : BitVec 12).toNat = (mk leader).hw.beat.backup ∧ (3 : BitVec 12).toNat ≠ (mk leader).hw.me ∧
    (5 : BitVec 12).toNat = (mk leader).hw.fget F.BEAT_GROUP_GROUP_ID ∧ (1 : Fin 64).val = (mk leader).hw.fget F.BEAT_UPLINK_PRIMARY ∧
    (mk (member 4 0 0)).hw.running = true ∧ 4 ≤ (mk (member 4 0 0)).hw.beat.missPrimary ∧ (mk (member 4 0 0)).hw.flag F.BEAT_STATUS_GROUPED = true ∧
    (mk (member 4 0 0)).hw.flag F.BEAT_STATUS_MASTER = false ∧ (mk (member 4 0 0)).hw.flag F.BEAT_UPLINK_ON_SECONDARY = false ∧
    EventRoom (mk (member 4 0 0)).hw ∧ (mk (member 16 16 7)).hw.fget F.BEAT_HOLDOVER_BEATS ≤ (mk (member 16 16 7)).hw.beat.missAny ∧
    8 ≤ (mk (member 8 8 8)).hw.beat.missMaster ∧ (mk (member 3 15 7)).hw.beat.missPrimary < 4 ∧
    (mk (member 3 15 7)).hw.beat.missAny < (mk (member 3 15 7)).hw.fget F.BEAT_HOLDOVER_BEATS ∧ (mk (member 3 15 7)).hw.beat.missMaster < 8 := by
  unfold EventRoom; decide +kernel
theorem wit_EdgeWindow :
    (mk full).hw.running = true ∧ (mk bare).hw.running = false ∧
    (∀ sw : Bool, (mk (inEdge 5 sw planned)).hw.running = true ∧ (mk (inEdge 5 sw planned)).hw.beat.edge.step = 5 ∧
      (mk (inEdge 5 sw planned)).hw.beat.edge.sw = sw ∧ (mk (inEdge 5 sw planned)).hw.beat.joining = false ∧
      (mk (inEdge 5 sw planned)).hw.beat.rejoining = false ∧ (mk (inEdge 5 sw planned)).hw.planLen = 1) ∧
    (mk (inEdge 8 false full)).hw.beat.edge.step = 8 ∧ (mk (inEdge 8 false full)).hw.running = true := by decide +kernel
/-! ### Witnesses: commits -/

/-- Layer 0 of the table at 0x3_0000: rule S, valid, its master in descriptor 1 and its first state in descriptor 2; its step size
for step 5 is written. -/
def layered (s : Hw) : Hw :=
  (((({ s with mem := { s.mem with cells := s.mem.cells ++ [(0x3_0000, 1), (0x3_0020, 1), (0x3_0023, 0x80), (0x3_0028, 2), (0x3_002B, 0x80)] } } : Hw).fset F.UPD_MODE_DUAL 0).wr
    .UPD_LAYER_BASE_LO 0 0x3_0000).fset F.UPD_LAYER_COUNT_COUNT 1).wr64 .UPD_STEPTAG_LO .UPD_STEPTAG_HI 5
def applied (x : Layer) : Hw :=
  let s := layered (onTable 0x60 0 [vec 0 4 1, vec 0 8 1, vec 0 12 1] [0, 5, 0] true [ref 0])
  ({ s with layers := [(0, x)] } : Hw).fset F.UPD_JOB_CTL_EN 1
/-- The layer after the prepare of step 5: it waits for its decision, or for its write. -/
def prepared : Layer := { Layer.reset with pending := true, last := { Prepared.none with step := 5 } }
def applies (x : Layer) (write : Bool) : Bool :=
  let s := applied x
  let c : Cmd := { s.cmdAt 0 0 (hd s) with latched := 0 }
  let s1 := s.taken 0 0 (hd s)
  let s2 := if s1.writeApply (hd s).w then s1 else s1.openRound 0 5
  issues s 0x60 && s.mem.syn.isEmpty && s.mu.offline.isEmpty && s.level == 2 && s1.writeApply (hd s).w == write &&
    (match s2.layerOk 0 with
      | none => false
      | some e =>
        let a : ApplyJob := { l := 0, e := e, lay := c.lay, live := s2.dual && (s2.getLayer 0).epoch, dual := s2.dual }
        (s2.applyChecks c a).2 == 0 && (write || ((s2.applyChecks c a).1.applyRound c a).2 == 0))
theorem wit_CommitCommands :
    (let s := (runOn full (com 0x61 0 [] [5, 0])).fset F.UPD_JOB_CTL_EN 1
     issues s 0x61 = true ∧ s.level = 2 ∧ s.jobOf (hd s).n = 0 ∧ s.flag F.UPD_JOB_CTL_EN = true ∧ s.roundOpen 0 = false ∧ s.lastStep 0 < 5 ∧
       Com.param64 (hd s).w 0 = 5) ∧
    issues (runOn full (com 0x62 0 [] [0, 0])) 0x62 = true ∧ Com.param64 (com 0x62 0 [] [0, 0]) 0 ≤ (runOn full (com 0x62 0 [] [0, 0])).lastStep 0 ∧
    issues (runOn full (com 0x62 0 [] [5, 0])) 0x62 = true ∧ (runOn full (com 0x62 0 [] [5, 0])).lastStep 0 < Com.param64 (com 0x62 0 [] [5, 0]) 0 ∧
    -- APPLY outside FULL service, a prepare, a write, and a write already allowed
    issues ((applied Layer.reset).fset F.ID_SERVICE_LEVEL 1) 0x60 = true ∧ ((applied Layer.reset).fset F.ID_SERVICE_LEVEL 1).level ≠ 2 ∧
    applies Layer.reset false = true ∧ applies { prepared with pending := false, awaitWrite := true } true = true ∧
    applies { prepared with pending := false, mayWrite := true } true = true := by decide +kernel
/-- Job 0 with an enabled record: root module r, shards in all and here; a round that is open. -/
def round (r shards local' : Nat) (x : Job) : Hw :=
  let s := (((full.fset F.UPD_JOB_CTL_EN 1).fset F.UPD_JOB_CTL_ROOT r).fset F.UPD_JOB_SHARDS_SHARDS shards).fset F.UPD_JOB_SHARDS_LOCAL local'
  ({ s with jobs := [(0, x)] } : Hw).fset F.UPD_JOB_OUTCOME_ROUND_OPEN 1
def voted : ReadyMsg := { src := 3, t := 0, votes := 0, digest := 0, layers := 0 }
def decided : Decision := { step := 5, outcome := 1, group := 0, flip := 0, exps := 0, layers := [], beat := 0, cycle := 0 }
theorem wit_CommitRounds :
    (let s := (mk (round 0 2 1 { Job.reset with step := 5, rootStep := 5 })).hw
     s.rootHere 0 = true ∧ (s.getJob 0).rootStep = (5 : BitVec 64).toNat ∧ (s.getJob 0).lastDecision = none ∧ s.lastStep 0 < 5 ∧
       EventRoom s ∧ (3 : BitVec 12).toNat ^^^ 1 ∉ (s.getJob 0).standing ∧ (s.getJob 0).msgs = [] ∧
       ({ s.getJob 0 with msgs := [voted] } : Job).held < s.fget F.UPD_JOB_SHARDS_SHARDS 0 ∧
       s.fget F.UPD_COMMIT_TIMEOUT_BEATS ≤ ({ Job.reset with rootAge := 65535 } : Job).rootAge) ∧
    -- a vote that comes after its step was decided
    (let s := (mk (round 0 2 1 { Job.reset with lastDecision := some decided, past := [decided] })).hw
     s.rootHere 0 = true ∧ (s.getJob 0).lastDecision = some decided ∧ (5 : BitVec 64).toNat ≤ decided.step ∧
       List.find? (fun d => d.step == (5 : BitVec 64).toNat) (s.getJob 0).past = some decided ∧ EventRoom s ∧ (3 : BitVec 12).toNat ≠ s.me) ∧
    (let s := (mk (round 0 2 1 { Job.reset with step := 5, rootStep := 5, msgs := [voted] })).hw
     s.rootHere 0 = true ∧ (∃ e ∈ (s.getJob 0).msgs, e.src = (3 : BitVec 12).toNat) ∧ (∀ e ∈ (s.getJob 0).msgs, e.src ≠ (4 : BitVec 12).toNat) ∧
       s.fget F.UPD_JOB_SHARDS_SHARDS 0 ≤ ({ s.getJob 0 with msgs := (s.getJob 0).msgs ++ [{ voted with src := 4 }] } : Job).held) ∧
    (let s := (mk (round 7 2 1 { Job.reset with step := 5, ready := 1, age := 65535 })).hw
     s.flag F.UPD_JOB_CTL_EN 0 = true ∧ s.roundOpen 0 = true ∧ s.readySent 0 = false ∧ s.draining = false ∧
       s.fget F.UPD_JOB_SHARDS_LOCAL 0 ≤ (s.getJob 0).ready ∧ s.applying 0 = false ∧ s.fget F.UPD_JOB_CTL_ROOT 0 ≠ s.me) ∧
    (let s := (mk (round 7 2 1 { Job.reset with step := 5, age := 65535 })).hw
     (s.getJob 0).ready < s.fget F.UPD_JOB_SHARDS_LOCAL 0 ∧ s.fget F.UPD_COMMIT_TIMEOUT_BEATS ≤ (s.getJob 0).age ∧ s.roundOpen 0 = true ∧
       s.readySent 0 = false ∧ EventRoom s ∧ s.flag F.UPD_JOB_CTL_EN 0 = true ∧ s.draining = false ∧ s.fget F.UPD_JOB_CTL_ROOT 0 ≠ s.me) ∧
    (let s := (mk ((round 7 2 1 { Job.reset with step := 5, sentAge := 65539 }).fset F.UPD_JOB_OUTCOME_READY_SENT 1)).hw
     s.roundOpen 0 = true ∧ s.readySent 0 = true ∧ (s.getJob 0).step = (5 : BitVec 64).toNat ∧ (s.getJob 0).due = none ∧ (1 : BitVec 2) ≠ 0 ∧
       s.fget F.UPD_COMMIT_TIMEOUT_BEATS + 4 ≤ (s.getJob 0).sentAge ∧ EventRoom s ∧ (s.getJob 0).step ≠ (6 : BitVec 64).toNat) := by
  unfold EventRoom; decide +kernel
/-! ### Witnesses: faults, assay, units in and out -/

/-- Stream 1 of job 0 is enabled. -/
def streamOn : Hw := full.fset F.STRM_CTL_ENABLE 1 1
/-- The word at offset 8 of the store of physical tile 0 waits for its correction: check bit 0 has an error. -/
def wornStore (bad : Bool) : Hw :=
  { full with
    mem := { Mem.reset with syn := if bad then [(storeKey 0 8 / 8, 1)] else [] }
    phys := [(0, { Phys.reset with st := .in_, writeback := [8] })] }
theorem wit_AbortsAndCorrections :
    (∀ e ∈ (mk streamOn).hw.lnk.aborts, (mk streamOn).hw.beatNo < e.2.2 + 64 → ¬ (e.1 = (3 : BitVec 12).toNat ∧ e.2.1 = (1 : BitVec 16).toNat)) ∧
    (mk streamOn).hw.streamsOfJob (0 : BitVec 12).toNat = [1] ∧ (mk streamOn).hw.flag F.STRM_STATE_FAULTED 1 = false ∧
    (mk streamOn).hw.lifeUnits ((mk streamOn).hw.delayCycles ((mk streamOn).hw.fget F.LNK_DELAY_CYCLES (0 : Fin 64))) < (1000 : BitVec 16).toNat ∧
    EventRoom (mk streamOn).hw ∧
    (∃ e ∈ (mk { streamOn with lnk := { LinkUnit.reset with aborts := [(3, 1, 0)] } }).hw.lnk.aborts,
      (mk streamOn).hw.beatNo < e.2.2 + 64 ∧ e.1 = (3 : BitVec 12).toNat ∧ e.2.1 = (1 : BitVec 16).toNat) ∧
    8 = (1 : BitVec 19).toNat * 8 ∧ 8 ∉ ((mk full).hw.getPhys (0 : Fin 576)).writeback ∧ 8 ∈ ((mk (wornStore true)).hw.getPhys (0 : Fin 576)).writeback ∧
    (mk (wornStore true)).hw.mem.singleBit (storeKey (0 : Fin 576) 8 / 8) = true ∧
    (mk (wornStore false)).hw.mem.singleBit (storeKey (0 : Fin 576) 8 / 8) = false := by
  unfold EventRoom; decide +kernel
/-- Physical tile 0, the home of logical tile 0, which the plan gives to assay. -/
def assayed (x : Phys) : Hw := { full with phys := [(0, { x with st := .in_ })], tiles := [(0, { Tile.reset with assay := true })] }
def obs : Phys := { Phys.reset with st := .in_, observed := true }
theorem wit_AssayAndObservation :
    (mk (assayed { Phys.reset with part := 0 })).hw.test.inj = none ∧ (mk (assayed { Phys.reset with part := 0 })).hw.assayOn (0 : Fin 576) = true ∧
    (mk (assayed { Phys.reset with part := 0 })).hw.getPhys (0 : Fin 576) = { Phys.reset with part := 0, st := .in_ } ∧
    (Sparse.find? (mk (assayed { Phys.reset with part := 0 })).hw.flt.refs 0).all (fun r => r == (7 : BitVec 64).toNat) = true ∧
    (mk (assayed { Phys.reset with part := 4, setCount := 0 })).hw.assayOn (0 : Fin 576) = true ∧
    (mk (assayed { Phys.reset with part := 4, setCount := 0 })).hw.getPhys (0 : Fin 576) = { Phys.reset with part := 4, setCount := 0, st := .in_ } ∧
    (mk (assayed { Phys.reset with part := 5, rerun := true })).hw.getPhys (0 : Fin 576) = { Phys.reset with part := 5, rerun := true, st := .in_ } ∧
    (mk (assayed { Phys.reset with part := 5, rerun := true })).hw.host.waiting.length < 255 ∧
    -- a tile past its assay period, and one within it
    (mk full).hw.physOf (0 : Fin 512) = (0 : Fin 576) ∧
    (let s := (mk { (full.fset F.FLT_ASSAY_PERIOD_BEATS 1) with phys := [(0, { Phys.reset with st := .in_ })] }).hw
     s.running = true ∧ s.admitted (0 : Fin 512) = true ∧ (s.getPhys 0).tithe = 0 ∧
       s.fget F.FLT_ASSAY_PERIOD_BEATS ≤ (s.getPhys 0).since + 1 + s.assayBeats ∧ EventRoom s) ∧
    (mk (assayed Phys.reset)).hw.admitted (0 : Fin 512) = true ∧ (mk full).hw.admitted (0 : Fin 512) = false ∧
    (let s := (mk ((assayed Phys.reset).fset F.FLT_ASSAY_PERIOD_BEATS 65535)).hw
     (s.getPhys 0).since + 1 + s.assayBeats < s.fget F.FLT_ASSAY_PERIOD_BEATS) ∧
    -- observation
    obs.observed = true ∧ obs.st.serves = true ∧ obs.obsPart ≠ 1 ∧ obs.obsLeft = 0 ∧ obs.retireDue = false ∧ obs.fails = 0 ∧
    obs.obsRerun = 0 ∧ bit ({ obs with obsRerun := 1 } : Phys).obsRerun 0 = true ∧
    (mk { full with phys := [(64, { obs with st := .spare })] }).hw.getPhys (64 : Fin 576) = { obs with st := .spare } ∧
    (mk (assayed { Phys.reset with part := 5 })).hw.assayOn (0 : Fin 576) = true ∧ ((mk (assayed { Phys.reset with part := 5 })).hw.runFleets (0 : Fin 576)).2 = true ∧
    (mk (assayed obs)).hw.getPhys (0 : Fin 576) = obs ∧ (mk (assayed obs)).hw.running = true ∧ (mk (assayed obs)).hw.test.inj = none ∧
    (mk ((assayed obs).fset F.FLT_OBS_RETIRE 1)).hw.fget F.FLT_OBS_RETIRE ≤ obs.fails + 1 ∧
    0 < ({ obs with fails := 1, obsFurther := true } : Phys).fails ∧
    (mk (assayed { obs with fails := 1, obsFurther := true })).hw.getPhys (0 : Fin 576) = { obs with fails := 1, obsFurther := true } ∧
    (mk (assayed { obs with fails := 1 })).hw.getPhys (0 : Fin 576) = { obs with fails := 1 } ∧ EventRoom (mk (assayed obs)).hw := by
  unfold EventRoom; decide +kernel
/-- FLT.UNIT_SEL selects unit 0 of a kind; tile 0, channel 0 and link 0 are in a state. -/
def units (kind : Nat) (st : UnitSt) : Hw :=
  ({ full with
    phys := [(0, { Phys.reset with st := st })], chans := [(0, { Chan.reset with st := st })], links := [(0, { Link.reset with st := st })] } : Hw).fset
    F.FLT_UNIT_SEL_KIND kind
def unitIs (kind : Nat) (st : UnitSt) : Bool :=
  let s := (mk (units kind st)).hw
  decide (0 < unitCount kind ∧ kind = s.fget F.FLT_UNIT_SEL_KIND ∧ 0 = s.fget F.FLT_UNIT_SEL_INDEX ∧ s.regsLive = true ∧
    s.unitPending kind 0 = false ∧ s.unitSt kind 0 = st ∧ s.host.waiting.length < 256)
theorem wit_UnitsOutAndBack :
    unitIs 0 .in_ = true ∧ (mk (units 0 .in_)).hw.logicalOf 0 = some 0 ∧ unitIs 0 .spare = true ∧
    unitIs 1 .in_ = true ∧ (mk (units 1 .in_)).hw.channelRefusal = 0 ∧ (mk (units 1 .in_)).hw.mu.props = [] ∧ (mk (units 1 .in_)).hw.mu.retraining = none ∧
    (let s := (mk { units 1 .in_ with mu := { full.mu with retraining := some (1, 0) } }).hw
     s.channelRefusal = 0 ∧ s.mu.props = [] ∧ s.mu.retraining.isSome = true ∧ s.unitSt 1 0 = .in_) ∧
    (mk { units 1 .in_ with mu := { full.mu with windowOff := true } }).hw.channelRefusal ≠ 0 ∧
    (mk { units 1 .in_ with mu := { full.mu with windowOff := true } }).hw.unitSt 1 0 = .in_ ∧
    unitIs 2 .in_ = true ∧ (mk ((units 2 .in_).fset F.LNK_LSTATE_STATE 2)).hw.lstate 0 = 2 ∧
    (mk ((units 2 .in_).fset F.LNK_LSTATE_STATE 2)).hw.unitSt 2 0 = .in_ ∧ (mk (units 2 .in_)).hw.lstate 0 ≠ 2 ∧
    -- to enable
    unitIs 0 .out = true ∧ unitIs 1 .out = true ∧ unitIs 2 .out = true ∧ unitIs 0 .retired = true ∧ unitIs 0 .draining = true ∧
    unitIs 1 .draining = true ∧ UnitSt.spare ∉ [UnitSt.out, .retired, .draining] ∧
    -- drained: a spare place's tile, the channel out of the map, a link with nothing to resend
    (0 : Fin 3).val = 0 ∧ (0 : BitVec 10).toNat = 0 ∧ (2 : Fin 3).val = 2 ∧
    (let s := (mk { units 0 .draining with phys := [(64, { Phys.reset with st := .draining })] }).hw
     s.unitSt 0 (64 : BitVec 10).toNat = .draining ∧ s.drained 0 64 = true ∧ EventRoom s) ∧
    (let s := (mk { units 1 .draining with mu := { full.mu with windowOff := true, outCh := some 0 } }).hw
     s.unitSt 1 0 = .draining ∧ s.drained 1 0 = true) ∧
    (mk (units 2 .draining)).hw.unitSt 2 0 = .draining ∧ (mk (units 2 .draining)).hw.drained 2 0 = true ∧
    (mk (units 0 .in_)).hw.unitSt 0 0 ≠ .draining ∧
    -- returning
    unitIs 0 .assaying = true ∧ ((mk (units 0 .assaying)).hw.getPhys 0).returning = false ∧ unitIs 1 .assaying = true ∧
    (mk (units 1 .assaying)).hw.mu.retraining = none ∧ (mk (units 1 .assaying)).hw.mu.copy = none ∧ (mk (units 1 .assaying)).hw.mu.copyDue = none ∧
    ((mk (units 1 .assaying)).hw.getChan 0).due = none ∧ (mk (units 1 .assaying)).hw.mu.heldAcc = [] ∧
    ((mk { units 1 .assaying with mu := { full.mu with retraining := some (0, 2) } }).hw.mu.retraining.map (fun e => e.1)) = some 0 ∧
    unitIs 2 .assaying = true ∧ (mk ((units 2 .assaying).fset F.LNK_LSTATE_STATE 2)).hw.lstate 0 = 2 := by
  unfold EventRoom; (repeat' apply And.intro) <;> decide +kernel
/-! ### Witnesses: memory, the Pattern unit, security -/

/-- The word at address 8 has a syndrome; its atom waits to be scrubbed. -/
def worn (e : BitVec 8) : Hw :=
  { full with mem := { Mem.reset with syn := [(1, e)] }, chans := [(0, { Chan.reset with st := .in_, scrubQ := [0] })] }
theorem wit_MemoryAccesses :
    (0 : BitVec 40).toNat / 128 * 128 = 0 ∧ (mk full).hw.place 0 = .gddr 0 ∧ (0 : BitVec 3).toNat < (mk full).hw.fget F.MEM_REPLAY_MAX_TRIES ∧
    min (7 : BitVec 3).toNat ((mk full).hw.fget F.MEM_REPLAY_MAX_TRIES) = (mk full).hw.fget F.MEM_REPLAY_MAX_TRIES ∧ EventRoom (mk full).hw ∧
    (∀ w ∈ (mk (worn 1)).hw.atomErrors 0, (mk (worn 1)).hw.mem.syndrome w ≠ .uncorrectable) ∧ (mk (worn 1)).hw.place 0 = .gddr 0 ∧
    (mk (worn 3)).hw.atomErrors 0 = [1] ∧ (mk (worn 3)).hw.mem.syndrome 1 = .uncorrectable ∧ (mk (worn 3)).hw.place 0 = .gddr 0 ∧
    EventRoom (mk (worn 3)).hw ∧ (mk full).hw.channelHeld 0 = false ∧ (mk (worn 3)).hw.channelHeld 0 = false ∧
    (mk { full with mu := { full.mu with retraining := some (0, 0) } }).hw.channelHeld 0 = true ∧
    (mk { full with mu := { full.mu with retraining := some (0, 0) } }).hw.place 0 = .gddr 0 ∧
    ((mk (worn 1)).hw.mu.retraining.map (fun e => e.1)) ≠ some (0 : Fin 40).val ∧
    -- scrubbing
    ((mk full).hw.getChan (0 : Fin 40)).scrubQ = [] ∧ ((mk (worn 1)).hw.getChan (0 : Fin 40)).scrubQ = 0 :: [] ∧
    (mk (worn 1)).hw.atomErrors 0 = [1] ∧ (mk (worn 1)).hw.mem.singleBit 1 = true ∧
    (mk (full.fset F.MEM_SCRUB_RATE_RATE 0)).hw.fget F.MEM_SCRUB_RATE_RATE = 0 ∧
    (let s := (mk (full.fset F.MEM_SCRUB_RATE_RATE 1)).hw
     s.fget F.MEM_SCRUB_RATE_RATE ≠ 0 ∧ s.mu.copy = none ∧ s.capacity ≠ 0 ∧ s.mu.scrubCh + 1 < 40) ∧
    (let s := (mk (({ full with mu := { full.mu with scrubCh := 39 } } : Hw).fset F.MEM_SCRUB_RATE_RATE 1)).hw
     40 ≤ s.mu.scrubCh + 1 ∧ s.fget F.MEM_SCRUB_POS_ROW + 1 < 0x200_0000 ∧ (s.fset F.MEM_SCRUB_POS_ROW 0x1FF_FFFF).fget F.MEM_SCRUB_POS_ROW + 1 = 0x200_0000) := by
  unfold EventRoom; decide +kernel
/-- Channel 0 in service with n errors in this beat, and a retraining at some beat before. -/
def noisy (n : Nat) (last : Option Nat) : Hw :=
  (({ full with chans := [(0, { Chan.reset with st := .in_, errs := [(0, n)], lastRetrain := last })] } : Hw).fset F.MEM_RETRAIN_THR_COUNT 4).fset
    F.MEM_RETRAIN_THR_HOLDOFF 1
def busy (s : Hw) : Hw := { s with mu := { s.mu with retraining := some (1, 0) } }
theorem wit_ChannelsAndPages :
    ((mk (noisy 3 none)).hw.getChan (0 : Fin 40)).st = .in_ ∧ ((mk (noisy 3 none)).hw.getChan (0 : Fin 40)).due = none ∧
    (mk (noisy 3 none)).hw.errCount (0 : Fin 40) < (mk (noisy 3 none)).hw.fget F.MEM_RETRAIN_THR_COUNT ∧
    (mk (noisy 4 none)).hw.fget F.MEM_RETRAIN_THR_COUNT ≤ (mk (noisy 4 none)).hw.errCount (0 : Fin 40) ∧
    (mk (noisy 4 (some 0))).hw.heldOff (0 : Fin 40) = true ∧ EventRoom (mk (noisy 4 (some 0))).hw ∧
    (mk (noisy 4 (some 0))).hw.fget F.MEM_RETRAIN_THR_COUNT ≤ (mk (noisy 4 (some 0))).hw.errCount (0 : Fin 40) ∧
    (mk (busy (noisy 4 none))).hw.heldOff (0 : Fin 40) = false ∧ (mk (busy (noisy 4 none))).hw.mu.retraining.isSome = true ∧
    (mk (noisy 4 none)).hw.heldOff (0 : Fin 40) = false ∧ (mk (noisy 4 none)).hw.mu.retraining = none ∧ (mk (noisy 4 none)).hw.mu.copy = none ∧
    (mk (noisy 4 none)).hw.mu.copyDue = none ∧ (∀ k < (0 : Fin 40).val, (mk (noisy 4 none)).hw.retrainWaits k = false) ∧ EventRoom (mk (noisy 4 none)).hw ∧
    -- the retraining of channel 1 ends
    (mk (busy full)).hw.mu.retraining = some (1, 0) ∧ EventRoom (mk (busy full)).hw ∧ (0 : Nat) ≠ 2 ∧
    (mk (busy full)).hw.mu.heldAcc = [] ∧ (mk (busy full)).hw.mu.copyDue = none ∧ (mk (busy full)).hw.mu.copy = none ∧
    (mk (busy { full with mu := { full.mu with copyDue := some false, outCh := some 3 } })).hw.mu.copyDue = some false ∧ ((mk (busy full)).hw.getChan 1).newRate = none ∧
    -- copies
    (let s := (mk { full with mu := { full.mu with outCh := some 3, copy := some false } }).hw
     s.mu.outCh = some 3 ∧ s.mu.copy = some false ∧ EventRoom s) ∧
    (let s := (mk { full with mu := { full.mu with outCh := some 3, copy := some true } }).hw
     s.mu.outCh = some 3 ∧ s.mu.copy = some true) ∧
    -- proposals
    (let s := (mk { full with mu := { full.mu with props := [(0, 3, 5, 1, false)] } }).hw
     Sparse.find? s.mu.props (0 : BitVec 4).toNat = some (3, 5, 1, false) ∧ EventRoom s ∧ s.regsLive = true ∧
       (s.mu.offline.filter (fun e => e.1 == 3)).length + Accepted s 3 0 < 256) ∧
    (let s := (mk { full with mu := { full.mu with props := [(0, 3, 5, 1, false)], offline := (List.range 256).map (fun i => (3, i + 8)) } }).hw
     256 ≤ (s.mu.offline.filter (fun e => e.1 == 3)).length + Accepted s 3 0 ∧ s.regsLive = true ∧ EventRoom s) ∧
    (let s := (mk { full with mu := { full.mu with props := [(0, 3, 5, 1, true)] } }).hw
     Sparse.find? s.mu.props (0 : BitVec 4).toNat = some (3, 5, 1, true) ∧ EventRoom s ∧ s.regsLive = true) := by
  unfold EventRoom; decide +kernel
/-- The bytes that are not zero of a container (R433, R434): a header with a length and flags, the section table, and more. -/
def container (len flags : Nat) (sects : List (Nat × Nat × Nat)) (more : List (Nat × Nat)) : List (Nat × Nat) :=
  let word := fun (o v : Nat) => [(o, v % 256), (o + 1, v / 256 % 256)]
  let entry := fun (i : Nat) (e : Nat × Nat × Nat) => [(64 + 16 * i, e.1)] ++ word (64 + 16 * i + 4) e.2.1 ++ word (64 + 16 * i + 8) e.2.2
  ([(0, 0x42), (1, 0x52), (2, 0x4B), (3, 0x31), (4, 1), (6, sects.length)] ++ word 8 len ++ [(20, flags)] ++
    ((List.range sects.length).zip sects).flatMap (fun (e : Nat × Nat × Nat × Nat) => entry e.1 e.2) ++ more).filter (fun (e : Nat × Nat) => e.2 != 0)
/-- An image of sections SILICON, MEMORY, LINKS and SIGNATURE, and a pattern container of one pattern. -/
def anImage : List (Nat × Nat) := container 6048 0 [(1, 512, 256), (2, 768, 0), (3, 768, 0), (15, 768, 5280)] []
def aPattern : List (Nat × Nat) := container 6048 1 [(9, 512, 136), (15, 768, 5280)] [(512, 1), (523, 1), (524, 1)]
/-- A container in the staging area, and the image at the start of the flash, whose other bytes are erased. -/
def staged (l : List (Nat × Nat)) : State :=
  mk { full with mem := { Mem.reset with cells := l.map (fun e => (e.1, BitVec.ofNat 8 e.2)) } }
def zeros : List Nat := List.range 513 ++ (List.range 16).map (768 + ·) ++ [6045, 6046, 6047]
def flashed (h : Hw) : State :=
  { mk h with flash := zeros.map (fun a => (a, BitVec.ofNat 8 (Sparse.get 0 anImage a))) }
/-- A container whose signer is programmed and whose signature verifies passes its check: what the two standards answer is free (log 13). -/
theorem passes (fu : Fuses) (g : Src) (e : Sect) (h1 : headerFail g = none) (h2 : layoutFail g = none) (h3 : g.sectOf 15 = some e)
    (h4 : signerFail fu g e.off = none) (h5 : signatureFail g e.off = none) (h6 : ¬ g.svn < fu.floor)
    (h7 : g.sects.flatMap (bodyFails fu g) = []) : containerFail fu g = none := by
  unfold containerFail
  simp [h1, h2, h3, h4, h5, h6, h7]
theorem stage_passes (s : State) (e : Sect) (o : s.hw.mu.offline = []) (y : s.hw.mem.syn = []) (v : s.hw.level ≠ 0) (b : s.hw.stageBase + 6048 ≤ s.hw.capacity)
    (n : s.hw.stageSrc.len = 6048) (h1 : headerFail s.hw.stageSrc = none) (h2 : layoutFail s.hw.stageSrc = none) (h3 : s.hw.stageSrc.sectOf 15 = some e)
    (h4 : signerFail s.fuses s.hw.stageSrc e.off = none) (h5 : signatureFail s.hw.stageSrc e.off = none)
    (h6 : ¬ s.hw.stageSrc.svn < s.fuses.floor) (h7 : s.hw.stageSrc.sects.flatMap (bodyFails s.fuses s.hw.stageSrc) = []) :
    (s.hw.stageCheck s.fuses).2.1 = 0 := by
  have hc : ∀ lo hi, s.hw.consume [(lo, hi)] = (s.hw, none) := fun _ _ => Hw.consume_clean y o _
  have ht : ∀ o n, o + n ≤ 6048 → s.hw.stageTake o n = (s.hw, none) := by
    intro o n h
    unfold Hw.stageTake
    have : s.hw.stageBase + o + n ≤ s.hw.capacity := by omega
    simp [v, hc, this]
  unfold Hw.stageCheck
  simp [ht 0 512 (by omega), n, ht 512 5536 (by omega), passes _ _ e h1 h2 h3 h4 h5 h6 h7, h1]
def aSect (i : Nat) : Sect := { at_ := 64 + 16 * i, type := 15, off := 768, len := 5280 }
theorem image_passes (h4 : signerFail (staged anImage).fuses (staged anImage).hw.stageSrc 768 = none)
    (h5 : signatureFail (staged anImage).hw.stageSrc 768 = none) : ((staged anImage).hw.stageCheck (staged anImage).fuses).2.1 = 0 :=
  stage_passes _ (aSect 3) rfl rfl (by decide +kernel) (by decide +kernel) (by decide +kernel) (by decide +kernel) (by decide +kernel) (by decide +kernel)
    h4 h5 (by decide +kernel) (by decide +kernel)
theorem pattern_passes (h4 : signerFail (staged aPattern).fuses (staged aPattern).hw.stageSrc 768 = none)
    (h5 : signatureFail (staged aPattern).hw.stageSrc 768 = none) : ((staged aPattern).hw.stageCheck (staged aPattern).fuses).2.1 = 0 :=
  stage_passes _ (aSect 1) rfl rfl (by decide +kernel) (by decide +kernel) (by decide +kernel) (by decide +kernel) (by decide +kernel) (by decide +kernel)
    h4 h5 (by decide +kernel) (by decide +kernel)
/-- The flash as a function: the bytes listed, and 0xFF. -/
def flashFun : Src := fun a =>
  if a < 513 ∨ (768 ≤ a ∧ a < 784) ∨ (6045 ≤ a ∧ a < 6048) then BitVec.ofNat 8 (Sparse.get 0 anImage a) else 0xFF
theorem find_mapped (f : Nat → Byte) (l : List Nat) (a : Nat) :
    Sparse.find? (l.map (fun x => (x, f x))) a = if a ∈ l then some (f a) else none := by
  induction l with
  | nil => rfl
  | cons x l ih =>
    simp only [List.map_cons, Sparse.find?, ih, List.mem_cons]
    by_cases hx : x = a
    · simp [hx]
    · simp [hx, Ne.symm hx]
theorem flash_fun : imageSrc (flashed Hw.reset).flash = flashFun := by
  funext a
  unfold imageSrc flashByte flashed flashFun
  simp only [Sparse.get, find_mapped]
  have hm : a ∈ zeros ↔ a < 513 ∨ (768 ≤ a ∧ a < 784) ∨ (6045 ≤ a ∧ a < 6048) := by
    unfold zeros
    simp only [List.mem_append, List.mem_range, List.mem_map, List.mem_cons, List.not_mem_nil, or_false]
    constructor
    · rintro ((h | ⟨k, h, rfl⟩) | h) <;> omega
    · rintro (h | h | h)
      · exact .inl (.inl h)
      · exact .inl (.inr ⟨a - 768, by omega, by omega⟩)
      · exact .inr (by omega)
  by_cases h : a ∈ zeros
  · simp [h, hm.mp h]
  · simp [h, mt hm.mpr h]
theorem flash_passes (h : Hw) (h4 : signerFail Fuses.reset (imageSrc (flashed Hw.reset).flash) 768 = none)
    (h5 : signatureFail (imageSrc (flashed Hw.reset).flash) 768 = none) : containerFail (flashed h).fuses (imageSrc (flashed h).flash) = none := by
  show containerFail Fuses.reset (imageSrc (flashed Hw.reset).flash) = none
  rw [flash_fun] at h4 h5 ⊢
  exact passes Fuses.reset flashFun (aSect 3) (by decide +kernel) (by decide +kernel) (by decide +kernel) h4 h5 (by decide +kernel) (by decide +kernel)
/-- An operation of PAT.FLASH, and one of SEC, run. -/
def running (op code : Nat) (s : Hw) : Hw := { s with pat := { s.pat with op := some (patOp op code 0 0) } }
def aSec (op slot code : Nat) : SecOp := { op := op, slot := slot, code := code, signer := 0, digest := 5 }
def secures (o : SecOp) (cert : List Byte := []) : Hw := { full with pat := { full.pat with sec := some o, cert := cert } }
/-- In FULL service without GDDR7. -/
def unstaged : Hw := { full with mu := MemUnit.reset }
theorem wit_FlashOperations :
    (mk full).hw.bar0Open = true ∧ (mk (running 1 1 full)).hw.pat.op.isSome = true ∧ EventRoom (mk (running 1 1 full)).hw ∧
    (mk (running 1 1 full)).hw.bar0Open = true ∧ (mk full).hw.pat.op = none ∧
    (mk unstaged).hw.stageOk = false ∧ (mk unstaged).hw.pat.op = none ∧ (mk unstaged).hw.bar0Open = true ∧
    (mk full).hw.stageOk = true ∧ ((flashRw 1 none (mk full).hw).stageCheck (mk full).fuses).2 = (1, some 0) ∧
    ((flashRw 2 (some true) (mk full).hw).stageCheck (mk full).fuses).2 = (1, some 0) ∧
    ((flashRw 4 none (mk full).hw).stageCheck (mk full).fuses).2 = (1, some 0) ∧
    -- an image and a pattern container in the staging area
    (staged anImage).hw.bar0Open = true ∧ (staged anImage).hw.pat.op = none ∧ (staged anImage).hw.stageOk = true ∧
    (staged anImage).hw.stageSrc.patterns = false ∧ (staged aPattern).hw.stageSrc.patterns = true ∧ (staged aPattern).hw.stageOk = true ∧
    (staged aPattern).hw.bar0Open = true ∧ (staged aPattern).hw.pat.op = none := by
  unfold EventRoom; decide +kernel
/-- An event record that waits for the log. -/
def logged (h : Hw) : Hw := { h with pat := { h.pat with logWait := [anEvent] } }
theorem wit_FlashResults :
    (mk (running 1 2 full)).hw.pat.op = some (patOp 1 2 0 0) ∧ (patOp 1 2 0 0).recast = false ∧ EventRoom (mk (running 1 2 full)).hw ∧ (2 : Nat) ≠ 1 ∧
    (mk (running 2 1 full)).hw.pat.op = some (patOp 2 1 0 0) ∧ (mk (running 5 1 full)).hw.pat.op = some (patOp 5 1 0 0) ∧
    (mk (running 1 1 full)).hw.pat.op = some (patOp 1 1 0 0) ∧ (mk (running 4 1 full)).hw.pat.op = some (patOp 4 1 0 0) ∧
    EventRoom (mk (running 2 1 full)).hw ∧
    (let s := (mk ((running 3 1 full).fset F.PAT_FLASH_LEN_BYTES 4)).hw
     s.pat.op = some (patOp 3 1 0 0) ∧ s.level ≠ 0 ∧ min (s.fget F.PAT_FLASH_LEN_BYTES) 0x100_0000 = 4 ∧ s.stageBase = 0 ∧ EventRoom s ∧
       (List.range 4).all (fun i => s.place (0 + i) == .gddr (0 + i)) = true ∧
       (List.range 4).all (fun i => !s.inTable (0 + i) && !s.lockedAt (0 + i) && !s.seedGuard (0 + i)) = true) ∧
    -- RECAST
    (mk (running 1 1 full)).hw.bar0Open = true ∧ (mk (running 1 1 full)).hw.pat.op.isSome = true ∧ EventRoom (mk (running 1 1 full)).hw ∧
    (mk bare).hw.pat.op = none ∧ (mk bare).hw.level = 0 ∧ (mk bare).hw.bar0Open = true ∧
    (flashed full).hw.bar0Open = true ∧ (flashed full).hw.pat.op = none ∧ (flashed full).hw.level ≠ 0 ∧ (2 : BitVec 4).toNat ∈ [2, 5, 6, 7, 8] ∧
    ((imageSrc (flashed full).flash).sectOf 2).isSome = true ∧
    -- EVENT_LOG_APPEND
    (mk (logged full)).hw.pat.logWait = anEvent :: [] ∧ (mk (logged full)).hw.logFree = true ∧ (mk (logged full)).hw.pat.logLost = 0 ∧
    (mk (logged (running 2 1 full))).hw.logFree = false ∧ (mk (logged (running 2 1 full))).hw.pat.logWait = anEvent :: [] := by
  unfold EventRoom; decide +kernel
theorem wit_SecurityOperations :
    (mk full).hw.bar0Open = true ∧ (mk full).hw.pat.sec = none ∧ (mk (secures (aSec 1 0 1))).hw.bar0Open = true ∧
    (mk (secures (aSec 1 0 1))).hw.pat.sec.isSome = true ∧ EventRoom (mk (secures (aSec 1 0 1))).hw ∧
    (mk (secures (aSec 4 3 2))).hw.pat.sec = some (aSec 4 3 2) ∧ (aSec 4 3 2).code ≠ 1 ∧ (aSec 4 3 2).code ∈ [2, 3, 5] ∧
    (mk (secures (aSec 1 0 1))).hw.pat.sec = some (aSec 1 0 1) ∧ (aSec 1 0 1).op ∈ [1, 2, 3] ∧
    (let s := (mk (secures (aSec 2 0 1) [1, 2, 3])).hw
     s.pat.sec = some (aSec 2 0 1) ∧ s.level ≠ 0 ∧ s.stageBase = 0 ∧
       (List.range 3).all (fun i => s.place (0x100_2000 + i) == .gddr (0x100_2000 + i)) = true ∧
       (let u := { s with pat := { s.pat with sec := none } }
        (List.range 3).all (fun i => !u.inTable (0x100_2000 + i) && !u.lockedAt (0x100_2000 + i) && !u.seedGuard (0x100_2000 + i)) = true)) ∧
    (mk (secures (aSec 4 2 1))).hw.pat.sec = some (aSec 4 2 1) ∧ (mk full).fuses.digestBits 2 ||| (aSec 4 2 1).digest = (aSec 4 2 1).digest ∧
    (mk (secures (aSec 5 2 1))).hw.pat.sec = some (aSec 5 2 1) ∧ (mk (secures (aSec 6 0 1))).hw.pat.sec = some (aSec 6 0 1) ∧
    EventRoom (mk (secures (aSec 4 2 1))).hw := by
  unfold EventRoom; decide +kernel
/-! ### Witnesses: power and start-up -/

def ms (n : Nat) (s : Hw) : Hw := { s with boot := { s.boot with ticks := n * 1_050_000 } }
def stopped (why n : Nat) : Hw := (ms n { inPhase .stopped with boot := { (inPhase .stopped).boot with smbUp := true, mrst := true } }).fset F.SB_STATE_LAST_STOP why
theorem wit_PowerAndResets :
    (mk full).hw.boot.phase = .live ∧ Phase.live ≠ .off ∧ Phase.live ≠ .stopped ∧ (mk full).hw.pat.sec = none ∧ (mk full).hw.sbUp = true ∧
    Phase.live ∉ [Phase.off, .reset, .stopped] ∧ (mk Hw.reset).hw.boot.phase = .off ∧ (mk Hw.reset).hw.boot.overvolt = false ∧
    (mk { Hw.reset with boot := { Boot.reset with overvolt := true } }).hw.boot.overvolt = true ∧
    (mk (inPhase .reset)).hw.boot.phase = .reset ∧
    -- stopped: by loss of the reference clock; 5 s ago; and less than that
    (mk (stopped 2 0)).hw.boot.phase = .stopped ∧ (mk (stopped 2 0)).hw.fget F.SB_STATE_LAST_STOP = 2 ∧
    (mk (stopped 1 0)).hw.fget F.SB_STATE_LAST_STOP ≠ 2 ∧ (mk (stopped 1 5000)).hw.boot.mrst = true ∧ (mk (stopped 1 5000)).hw.sbUp = true ∧
    5000 ≤ (mk (stopped 1 5000)).hw.millis ∧ (mk (stopped 1 4999)).hw.millis < 5000 ∧ (mk (stopped 1 4999)).hw.sbUp = true ∧
    (mk (stopped 1 4999)).hw.boot.mrst = true ∧ (mk (stopped 1 4999)).hw.boot.phase = .stopped := by decide +kernel
/-- WARM service, ready, in beat group 5. -/
def readyIn (group : Nat) : Hw := (warm.fset F.ID_BOOT_READY 1).fset F.BEAT_GROUP_GROUP_ID group
def promoting (p : Bool) (m : Option (Nat × Nat × Nat)) : Hw :=
  let s := (readyIn 5).fset F.BEAT_GROUP_MASTER 9
  { s with boot := { s.boot with promoting := p }, beat := { s.beat with marker := m } }
/-- Wave 0 runs, with three tiles assayed in it. -/
def inWave : Hw :=
  { full with boot := { full.boot with tileWave := some 0 }
              phys := [0, 1, 2].map (fun i => (waveTile 0 i, { Phys.reset with st := .assaying })) }
theorem wit_StartUpRows :
    (mk (inPhase .sequencing)).hw.boot.phase = .sequencing ∧
    (mk (inPhase .fuses)).hw.boot.phase = .fuses ∧ containerFail (mk (inPhase .fuses)).fuses (imageSrc (mk (inPhase .fuses)).flash) = some (1, some 0) ∧
    EventRoom (mk (inPhase .fuses)).hw ∧ (flashed (inPhase .fuses)).hw.boot.phase = .fuses ∧
    (mk (inPhase .imaged)).hw.boot.phase = .imaged ∧ EventRoom (mk (inPhase .imaged)).hw ∧ (mk (inPhase .imaged)).hw.boot.imageValid = false ∧
    ({ Boot.reset with phase := .imaged, imageValid := true } : Boot).imageValid = true ∧
    -- waves
    (mk full).hw.served = true ∧ (mk full).hw.boot.tileWave = none ∧ (mk full).hw.fget F.ID_BOOT_TILE_WAVES = (0 : Fin 9) ∧
    waveTile (0 : Fin 9) (0 : Fin 64) ∉ (mk full).fuses.outTiles ∧ unrepairable (mk full).fuses (waveTile (0 : Fin 9) (0 : Fin 64)) = false ∧
    unrepairable { Fuses.reset with loom := [(0, 1 <<< 28)] } (waveTile (0 : Fin 9) (0 : Fin 64)) = true ∧
    (let s := (mk inWave).hw
     s.boot.tileWave = some (0 : Fin 9).val ∧ (∀ i : Fin 64, (s.getPhys (waveTile (0 : Fin 9) i)).setCount = 0) ∧
       (∀ n ∈ [(0 : Fin 64), 1, 2], (s.getPhys (waveTile (0 : Fin 9) n)).st = .assaying) ∧
       Sparse.find? s.flt.refs (0 : Fin 9).val = none ∧ (1 : BitVec 3) ≠ 0 ∧ (2 : BitVec 2).getLsbD 1 = true ∧ s.host.waiting.length < 254 ∧
       EventRoom s) ∧
    (mk full).hw.boot.memWave = none ∧ (mk full).hw.fget F.ID_BOOT_MEM_WAVES = (0 : Fin 5) ∧ (mk full).hw.mem.free = [] ∧
    (let s := (mk { full with boot := { full.boot with memWave := some 4 } }).hw
     s.boot.memWave = some (4 : Fin 5).val ∧ s.boot.failedCh ++ (bitList 8 (0 : BitVec 8).toNat).map (32 + ·) = [] ∧
       s.boot.failedCh ++ (bitList 8 (1 : BitVec 8).toNat).map (32 + ·) = [32] ∧
       1 < (s.boot.failedCh ++ (bitList 8 (3 : BitVec 8).toNat).map (32 + ·)).length ∧ EventRoom s) ∧
    -- readiness
    (let s := (mk ({ full with links := (List.range 64).map (fun i => (i, { Link.reset with firstDone := true })) }.fset F.ID_BOOT_TILES_DONE 1)).hw
     s.canBeReady = true ∧ s.flag F.ID_BOOT_READY = false ∧ EventRoom s) ∧
    -- promotion: in no group, as master, and as a member
    (mk (readyIn 0xFFF)).hw.served = true ∧ (mk (readyIn 0xFFF)).hw.level = 1 ∧ (mk (readyIn 0xFFF)).hw.flag F.ID_BOOT_READY = true ∧
    (mk (readyIn 0xFFF)).hw.beat.cycle = 0 ∧ (mk (readyIn 0xFFF)).hw.host.waiting.length < 255 ∧ (mk (readyIn 0xFFF)).hw.inNoGroup = true ∧
    (mk ((readyIn 5).fset F.BEAT_GROUP_MASTER 0)).hw.groupMaster = true ∧ (mk ((readyIn 5).fset F.BEAT_GROUP_MASTER 0)).hw.served = true ∧
    (mk (promoting true none)).hw.inNoGroup = false ∧ (mk (promoting true none)).hw.groupMaster = false ∧ (mk (promoting true none)).hw.boot.promoting = true ∧
    (mk (promoting true none)).hw.level = 1 ∧ (mk (promoting true none)).hw.flag F.ID_BOOT_READY = true ∧ (mk (promoting true none)).hw.served = true ∧
    (mk (promoting false (some (1, 9, 1)))).hw.boot.promoting = false ∧ (mk (promoting false (some (1, 9, 1)))).hw.beat.marker.isSome = true ∧
    (mk (promoting false none)).hw.beat.marker = none ∧ EventRoom (mk (promoting false none)).hw ∧
    (mk (promoting false none)).hw.beat.backup = (mk (promoting false none)).hw.me ∧ (mk ((promoting false none).fset F.LNK_MODULE_ID 2)).hw.beat.backup ≠ (mk ((promoting false none).fset F.LNK_MODULE_ID 2)).hw.me ∧
    (mk ((promoting false none).fset F.LNK_MODULE_ID 2)).hw.groupMaster = false ∧ (mk ((promoting false none).fset F.LNK_MODULE_ID 2)).hw.served = true := by
  unfold EventRoom; (repeat' apply And.intro) <;> decide +kernel
/-- In a state of TWIN.STATUS, link 0 being a twin link in service, whose neighbour is the twin. -/
def twinned (st : Nat) (t : Twin := Twin.reset) : Hw :=
  (((({ full with twin := t } : Hw).fset F.TWIN_STATUS_STATE st).wr .TWIN_LINKS_LO 0 1).fset F.LNK_LSTATE_STATE 2).fset F.LNK_LSTATE_PEER 1
theorem wit_TwinAttaching :
    (mk (twinned 0)).hw.twinState = 0 ∧ (mk (twinned 1)).hw.twinState = 1 ∧ (0 : Fin 64).val ∈ (mk (twinned 1)).hw.twinLinks ∧
    (1 : Fin 64).val ∉ (mk (twinned 1)).hw.twinLinks ∧ (mk (twinned 1)).hw.level = 2 ∧ (mk (twinned 1)).hw.twin.attachSelf = false ∧
    EventRoom (mk (twinned 1)).hw ∧ (mk (twinned 3)).hw.twinState = 3 ∧ (0 : Fin 64).val ∈ (mk (twinned 3)).hw.twinLinks ∧
    (mk (twinned 3 { Twin.reset with lastHello := some 0 })).hw.twinReachable = true ∧ (mk (twinned 3)).hw.twinReachable = false ∧
    EventRoom (mk (twinned 3)).hw ∧ (mk (twinned 2)).hw.twinState = 2 ∧ (mk (twinned 2)).hw.regsLive = true ∧
    (mk (twinned 2)).hw.twin.attachPeer = false ∧ (mk (twinned 2 { Twin.reset with attachPeer := true })).hw.twin.attachPeer = true ∧
    (mk (twinned 2 { Twin.reset with attachSelf := true })).hw.twin.attachSelf = true ∧ (mk (twinned 6)).hw.twinState = 6 ∧ (mk (twinned 0)).hw.twinState = 0 ∧ (mk Hw.reset).hw.regsLive = false ∧
    -- stand-ins
    (mk (full.fset F.UPD_JOB_CTL_ROOT 3)).hw.rootHere (0 : BitVec 12).toNat = false ∧ (mk (full.fset F.UPD_JOB_CTL_EN 1)).hw.rootHere (0 : BitVec 12).toNat = true ∧
    (∃ e ∈ ((mk (({ full with jobs := [(0, { Job.reset with standIns := [(3, none)] })] } : Hw).fset F.UPD_JOB_CTL_EN 1)).hw.getJob
      (0 : BitVec 12).toNat).standIns, e.1 = (3 : BitVec 12).toNat) ∧ EventRoom (mk (full.fset F.UPD_JOB_CTL_EN 1)).hw := by
  unfold EventRoom; decide +kernel
/-- A manifest of one line, asked for, by a module whose twin is linked and does not yet run. -/
def askedFor (s : Hw) (info : Nat) : Hw :=
  ({ s with twin := { s.twin with requested := some (0, info), peerState := 2 } } : Hw).fset F.TWIN_STATUS_LIVE 1
theorem wit_Reseeding :
    (mk (twinned 0)).hw.twinState = 0 ∧ (mk (twinned 1)).hw.twinState = 1 ∧ (mk (twinned 1)).hw.regsLive = true ∧
    EventRoom (mk (twinned 1)).hw ∧ (mk (twinned 2)).hw.regsLive = true ∧ (mk (twinned 2)).hw.twinState ≠ 0 ∧ (mk (twinned 2)).hw.twinState ≠ 1 ∧
    (mk (twinned 2)).hw.twinLinks.head? = some (0 : Fin 64).val ∧ (mk (twinned 2)).hw.twin.requested = none ∧
    (let s := (mk (askedFor (twinned 2) ((twinned 2).seedInfo))).hw
     s.twin.requested = some (0, (twinned 2).seedInfo) ∧ s.seedReason ((twinned 2).seedInfo) ([BitVec.ofNat 128 (256 <<< 64)].map entryRange) = 0 ∧
       s.seedReason ((twinned 2).seedInfo) ([BitVec.ofNat 128 (255 <<< 64)].map entryRange) ≠ 0 ∧ [BitVec.ofNat 128 (256 <<< 64)].length ≠ 64 ∧
       (List.replicate 64 (0 : BitVec 128)).length = 64 ∧ EventRoom s) ∧
    (mk (twinned 2)).hw.twinState = 2 ∧ EventRoom (mk (twinned 2)).hw ∧
    (mk (twinned 5 { Twin.reset with handedOver := true })).hw.twinState = 5 ∧
    (mk (twinned 5 { Twin.reset with handedOver := true })).hw.twin.handedOver = true ∧ EventRoom (mk (twinned 5 { Twin.reset with handedOver := true })).hw ∧
    -- the copy
    (mk (twinned 5)).hw.twin.copyDone = false ∧ (mk (twinned 5)).hw.twin.copied = manifestBytes (mk (twinned 5)).hw.twin.manifest ∧
    (mk (twinned 5)).hw.twin.joinStep = 0 ∧
    (let s := (mk ((twinned 5 { Twin.reset with joinStep := 1 }).wr .UPD_JOB_STEP_LO 0 1)).hw
     s.twin.joinStep ≠ 0 ∧ s.twin.joinStep ≤ s.lastStep (s.fget F.TWIN_JOIN_JOB_JOB) ∧ s.twinState = 5 ∧ EventRoom s) ∧
    (mk (twinned 4)).hw.twinState = 4 ∧ (mk (twinned 4)).hw.twin.handover = none := by
  unfold EventRoom; decide +kernel
theorem wit_StepsizeWrite : (mk full).hw.regsLive = true := by decide +kernel
theorem wit_ModuleResetWrite :
    (mk full).hw.boot.phase = .live ∧ (0x4D52_0001 : BitVec 32).toNat >>> 16 = 0x4D52 ∧ bit (0x4D52_0001 : BitVec 32).toNat 0 = true ∧
    (0x4D53_0001 : BitVec 32).toNat >>> 16 ≠ 0x4D52 ∧ bit (0x4D52_0000 : BitVec 32).toNat 0 = false ∧ EventRoom (mk full).hw := by
  unfold EventRoom; decide +kernel
theorem wit_KeptByEveryStep : (∃ t, step { mk full with pending := [.stepsizeWrite 3 7] } = .next t) := ⟨_, rfl⟩
/-! ### Commands that are not well formed (each check of `Instr.wf` refuses one) -/

theorem test_not_well_formed :
    (Instr.streamWindowWrite 0 0 [] false).wf = false ∧ (Instr.streamWindowWrite 0 0x3FFC (List.replicate 8 0) false).wf = false ∧
    (Instr.badBar0Access 0 4 false).wf = false ∧ (Instr.badBar0Access 0 0 false).wf = false ∧ (Instr.registerWrite 2 false 0 false).wf = false ∧
    (Instr.pairLoRead 1 false).wf = false ∧ (Instr.pairHiRead 1).wf = false ∧ (Instr.rcRegisterRead 3).wf = false ∧
    (Instr.bar4Read 0 0).wf = false ∧ (Instr.bar4Read 0 4097).wf = false ∧ (Instr.bar4Write 0 [] false).wf = false ∧
    (Instr.writeData 0 0 0 0 0 0 [] 0).wf = false ∧ (Instr.crowWriteData 0 0 0 0 0 0 [] 0).wf = false ∧ (Instr.readResponse 0 0 0 [] 0).wf = false ∧
    (Instr.collectiveData 0 0 0 0 0 [] 0).wf = false ∧ (Instr.readRequest 0 0 0 0 0 0 (0, 0, false)).wf = false ∧ (Instr.readRequest 0 0 0 0 0 0 (2049, 0, false)).wf = false ∧
    (Instr.channelRetrainDone 2001).wf = false ∧ (Instr.channelRetrainTimeout 2001).wf = false ∧
    (Instr.manifest 0 (List.replicate 65 0)).wf = false ∧ (Instr.pcieLinkTrained 0 16 false).wf = false ∧ (Instr.pcieLinkTrained 7 16 false).wf = false ∧
    (Instr.pcieLinkTrained 5 2 false).wf = false := by decide +kernel
theorem test_well_formed :
    (Instr.streamWindowWrite 0 0x3FF8 (List.replicate 8 0) false).wf = true ∧ (Instr.badBar0Access 2 4 false).wf = true ∧
    (Instr.registerWrite 4 true 0 false).wf = true ∧ (Instr.bar4Read 0 4096).wf = true ∧ (Instr.manifest 0 (List.replicate 64 0)).wf = true ∧
    (Instr.pcieLinkTrained 6 16 true).wf = true := by decide +kernel
/-- No row of the table spells its command in bits. -/
theorem test_no_words : decodeTableWord 0 0 = none ∧ decodeTableWord 32 0x30 = none ∧ State.reset.withFetchWord 32 0x30 = State.reset := by decide +kernel

/-! ### Operations, with results from the spec's own examples -/

/-- R336 to R339, and the example of chapter 11: the line at 0x12_3456_7800 lies on C18 at row 7,635,497. -/
theorem test_line_place : full.position 0x12_3456_7800 = (18, 7_635_497) := by decide +kernel
/-- R347, and the example of chapter 11: with C18 out, the line lies on C39 at row 32,911,352. -/
theorem test_line_moved : ({ full with mu := { full.mu with windowOff := true, outCh := some 18 } } : Hw).position 0x12_3456_7800 = (39, 32_911_352) := by
  decide +kernel
/-- R20, and the example of chapter 1: logical tile 37 is at die 0, column 5, row 1. -/
theorem test_home_tile : physDie (homePhys 37) = 0 ∧ physCol (homePhys 37) = 5 ∧ physRow (homePhys 37) = 1 := by decide +kernel
/-- R80, and the example of chapter 3: 500.0, −150.0, 0.15 and 0.01 as E4M3; 0.15 and 0.01 rounded to FP32 before. -/
theorem test_e4m3 :
    encodeFloat 3 none false (.fin false 500 0) = (0x7E, true) ∧ encodeFloat 3 none false (.fin true 150 0) = (0xF1, false) ∧
    encodeFloat 3 none false (decodeFloat 0 0x3E19_999A) = (0x22, false) ∧ encodeFloat 3 none false (decodeFloat 0 0x3C23_D70A) = (0, false) := by decide +kernel
/-- R76: FP32 patterns of chapter 3. -/
theorem test_fp32 : encodeFloat 0 none false (.fin false 3 0) = (0x4040_0000, false) ∧ decodeFloat 0 0x3F80_0000 = .fin false 0x80_0000 (-23) ∧
    encodeFloat 0 none false (.fin false 1 (-127)) = (0, false) := by decide +kernel
/-- R212, and the example of chapter 7: the slice S1 reaches from byte 4,198,400 to byte 11,545,599 of its region. -/
def s1 : Record64 :=
  let dim := fun (j size stride lo hi : Nat) => (size + (stride <<< 24) + (lo <<< 55) + (hi <<< 58)) <<< (128 + 64 * j)
  BitVec.ofNat 512 (0x0411 + (5_269_248 <<< 64) + dim 0 4 524_800 1 1 + dim 1 47 10_496 1 1 + dim 2 79 128 1 1 + dim 3 127 1 0 0)
theorem test_range : Desc.range s1 = (4_198_400, 11_545_599) ∧ Desc.readShape s1 = [7, 50, 82, 128] ∧ Desc.writeShape s1 = [5, 48, 80, 128] := by
  decide +kernel
/-- R411, and the example of chapter 14: at 16 GiB, BAR4 offset 0x3456_7800 leads to 0x12_3456_7800 from a base of 72 GiB, and offset
0x3_8940_0000 to the store of tile 37. -/
theorem test_bar4_windows :
    (full.wr .HIF_BAR4_BASE_HI 0 0x12).bar4Size = 0x4_0000_0000 ∧ (full.wr .HIF_BAR4_BASE_HI 0 0x12).bar4At 0x3456_7800 = .dev 0x12_3456_7800 ∧
    full.bar4At 0x3_8940_0000 = .dev (storeAddr 37) := by decide +kernel

/-! ### Single commands -/

def run (c : Instr) (h : Hw) : Hw := after (exec c (mk h))
/-- R10: UPD.COMMIT_TIMEOUT at 0x7_001C takes its RW fields and no more. -/
theorem test_register_write :
    (run (.registerWrite 0x7_001C false 0xFFFF_FF05 false) full).fget F.UPD_COMMIT_TIMEOUT_BEATS = 5 ∧
    (run (.registerWrite 0x7_001C false 0xFFFF_FF05 false) full).rd .UPD_COMMIT_TIMEOUT 0 = 0xF05 := by decide +kernel
/-- R8: the two halves of the beat number are of one instant. -/
theorem test_pair_read :
    (let s := run (.pairLoRead 0x4_0008 false) ((full.wr .BEAT_COUNT_LO 0 7).wr .BEAT_COUNT_HI 0 3)
     s.host.resp = some { data := toBytes 4 7, poisoned := false, status := 0 } ∧
       (run (.pairHiRead 0x4_000C) (s.wr .BEAT_COUNT_HI 0 9)).host.resp = some { data := toBytes 4 3, poisoned := false, status := 0 }) := by decide +kernel
/-- R270. -/
theorem test_stepsize :
    (run (.stepsizeWrite 3 0x3F80_0000) full).rd .UPD_STEPSIZE 3 = 0x3F80_0000 ∧ (run (.stepsizeWrite 3 0x3F80_0000) full).rd .UPD_STEPTAG_HI 3 = 0xFFFF_FFFF ∧
    (run (.stepsizeWrite 3 0x3F80_0000) full).fget F.UPD_STEPGEN_GEN 3 = 1 := by decide +kernel
/-- R427: a wrong key. -/
theorem test_module_reset_key : (run (.moduleResetWrite 0x1234_0001) full).host.waiting.map (fun e => (e.code, e.arg0)) = [(0x8040, 0x1234_0001)] := by
  decide +kernel
/-- R412: what BAR4 writes, it reads. -/
theorem test_bar4 : (run (.bar4Read 0x101 2) (run (.bar4Write 0x100 [1, 2, 3, 4] false) full)).host.resp =
    some { data := [2, 3], poisoned := false, status := 0 } := by decide +kernel
/-- R413: a poisoned write makes dross, and a read of it is poisoned. -/
theorem test_bar4_poisoned : ((run (.bar4Read 0x100 4) (run (.bar4Write 0x100 [1, 2, 3, 4] true) full)).host.resp.map (fun r => r.poisoned)) = some true := by
  decide +kernel
/-- R178: EW.ADD of 1.0 and 2.0 stores 3.0. -/
theorem test_ew_add :
    (let s := onTable 0x30 0x10 [vec 0 4 1, vec 0 8 1, vec 0 12 1] []
     let t := run (.ew 0 0) ({ s with mem := { s.mem with cells := [(0x802, 0x80), (0x803, 0x3F), (0xC03, 0x40)] ++ s.mem.cells } })
     t.peekRun 0x400 4 = [0x00, 0x00, 0x40, 0x40]) := by decide +kernel
/-- R95: CAST of 1 + 2⁻⁸ from FP32 to BF16 ties to even, 1.0. -/
theorem test_cast_tie :
    (let s := onTable 0x34 0 [vec 1 4 1, vec 0 8 1] []
     let t := run (.cast 0 0) ({ s with mem := { s.mem with cells := [(0x801, 0x80), (0x802, 0x80), (0x803, 0x3F)] ++ s.mem.cells } })
     t.peekRun 0x400 2 = [0x80, 0x3F]) := by decide +kernel
/-- R248: SETC and ADDC; LOOP counts down and goes back. -/
theorem test_counters :
    ((run (.addc 0 0) (runOn full (com 0x71 0 [] [0xFFFF_FFFF]) { StreamCtx.reset with counters := [(0, 5)] })).ctxOn 0 1).counter 0 = 4 ∧
    ((run (.setc 0 0) (runOn full (com 0x70 0 [] [9]))).ctxOn 0 1).counter 0 = 9 ∧
    ((run (.loop 0 0) (runOn full (com 0x74 0 [] [0xFFFF_FFFB]) inSlot)).ctxOn 0 1).pos = .slot 2 7 0 := by decide +kernel
/-- R251: SET of tile latch 63. -/
theorem test_set_latch : bit ((run (.set 0 0) (runOn full (com 0x76 0 [] [0x403F]))).getTile 0).fs.latches.toNat 63 = true := by decide +kernel
/-- R301: a word read with one error is the word without it: check bits are a code of distance four. -/
theorem test_correction :
    (let m : Mem := { Mem.reset with cells := [(8, 1)], syn := [(1, BitVec.ofNat 8 (hsiaoDataColumns.getD 0 0))] }
     m.goodByte 8 = 0 ∧ (m.correctWord 1).byte 8 = 0 ∧ (m.correctWord 1).syndrome 1 = .clean) := by decide +kernel
/-- R396: both sides have attached. -/
theorem test_attach : (run .attach (twinned 2 { Twin.reset with attachPeer := true })).twinState = 3 := by decide +kernel
/-- R358: an untrained link sends nothing. -/
theorem test_flit_untrained : run (.flitTime 3) full = full := by decide +kernel
/-- R461: power comes, and the module is off again when it goes. -/
theorem test_power : (run (.powerOn 2) Hw.reset).boot.phase = .sequencing ∧ (run .powerLoss full).boot.phase = .off := by decide +kernel
/-- Without power, with nothing commanded, nothing happens. -/
theorem test_off_idles : step State.reset = .next State.reset := by rfl

end Sys2Proof.Tests
end

section
/-!
PROOFS. The host's 32-bit and 64-bit accesses of BAR0 (R8, R9, R10, R13, R415): setting some of a register's fields, what a read of
a register returns and changes, what a write changes, and the accesses of another size or alignment.
-/
namespace Sys2Proof.Machine

/-! ### The fields of a register -/

/-- The tables list the fields of a register from its low bits to its high ones, none over another. -/
theorem Reg.fields_ascend (r : Reg) : r.spec.fields.Pairwise (fun f g => f.lo + f.width ≤ g.lo) := by cases r <;> decide

theorem Reg.fields_inside (r : Reg) : ∀ f ∈ r.spec.fields, f.lo + f.width ≤ 32 := by cases r <;> decide

/-- Sets the field f of register r of unit u to x f, where p chooses it. -/
def Hw.setFieldIf (r : Reg) (u : Nat) (p : FieldSpec → Bool) (x : FieldSpec → Nat) (s : Hw) (f : FieldSpec) : Hw :=
  if p f then s.fset ⟨r, f.lo, f.width⟩ (x f) u else s

/-- Sets each listed field that p chooses: the shape of `Hw.setRw` and `Hw.clearRc`. -/
def Hw.setFields (s : Hw) (r : Reg) (u : Nat) (p : FieldSpec → Bool) (x : FieldSpec → Nat) (l : List FieldSpec) : Hw :=
  l.foldl (Hw.setFieldIf r u p x) s

theorem Hw.setRw_eq_setFields (s : Hw) (r : Reg) (u v : Nat) :
    s.setRw r u v = s.setFields r u (fun f => f.acc == Acc.rw) (fun f => bits v f.lo f.width) r.spec.fields := rfl

/-- R10: clearing the RC fields sets them to 0; a router's counters also record the moment (R512), in no register. -/
theorem Hw.regs_clearRc (s : Hw) (r : Reg) (u : Nat) :
    (s.clearRc r u).regs = (s.setFields r u (fun f => f.acc == Acc.rc) (fun _ => 0) r.spec.fields).regs := by
  unfold Hw.clearRc
  split <;> rfl

section
variable (r : Reg) (u : Nat) (p : FieldSpec → Bool) (x : FieldSpec → Nat)

theorem Hw.setFields_cons (s : Hw) (f : FieldSpec) (l : List FieldSpec) :
    s.setFields r u p x (f :: l) = (Hw.setFieldIf r u p x s f).setFields r u p x l := rfl

theorem Hw.rd_setFieldIf (s : Hw) (f : FieldSpec) {q : Reg} {v : Nat} (h : ¬(r = q ∧ u = v)) :
    (Hw.setFieldIf r u p x s f).rd q v = s.rd q v := by
  unfold Hw.setFieldIf
  split
  · rw [Hw.rd_fset, if_neg h]
  · rfl

/-- Setting fields leaves every other register and every other unit as it was. -/
theorem Hw.rd_setFields (s : Hw) (l : List FieldSpec) {q : Reg} {v : Nat} (h : ¬(r = q ∧ u = v)) :
    (s.setFields r u p x l).rd q v = s.rd q v := by
  induction l generalizing s with
  | nil => rfl
  | cons f l ih => rw [Hw.setFields_cons, ih, Hw.rd_setFieldIf r u p x s f h]

theorem RegsKept.setFields (s : Hw) (l : List FieldSpec) : RegsKept [r] s (s.setFields r u p x l) :=
  fun q _ hq => Hw.rd_setFields r u p x s l (by rintro ⟨rfl, -⟩; exact hq List.mem_cons_self)

theorem RegsOnly.setFields {s t : Hw} (h : RegsOnly s t) (l : List FieldSpec) : RegsOnly s (t.setFields r u p x l) := by
  induction l generalizing t with
  | nil => exact h
  | cons f l ih =>
    refine ih ?_
    unfold Hw.setFieldIf
    split
    · exact h.fset _ _ _
    · exact h

theorem Hw.fget_setFieldIf_self (s : Hw) (f : FieldSpec) (hf : f.lo + f.width ≤ 32) :
    (Hw.setFieldIf r u p x s f).fget ⟨r, f.lo, f.width⟩ u =
      if p f then x f % 2 ^ f.width else s.fget ⟨r, f.lo, f.width⟩ u := by
  unfold Hw.setFieldIf
  split
  · exact Hw.fget_fset_self s ⟨r, f.lo, f.width⟩ (x f) u (decide_eq_true hf)
  · rfl

theorem Hw.fget_setFieldIf_apart (s : Hw) (f g : FieldSpec) (hf : f.lo + f.width ≤ 32)
    (h : g.lo + g.width ≤ f.lo ∨ f.lo + f.width ≤ g.lo) :
    (Hw.setFieldIf r u p x s f).fget ⟨r, g.lo, g.width⟩ u = s.fget ⟨r, g.lo, g.width⟩ u := by
  unfold Hw.setFieldIf
  split
  · exact Hw.fget_fset_field s ⟨r, f.lo, f.width⟩ ⟨r, g.lo, g.width⟩ (x f) u rfl (decide_eq_true hf) h
  · rfl

/-- A field below all the listed ones keeps its value. -/
theorem Hw.fget_setFields_below (s : Hw) (l : List FieldSpec) (hl : ∀ f ∈ l, f.lo + f.width ≤ 32) (g : FieldSpec)
    (hg : ∀ f ∈ l, g.lo + g.width ≤ f.lo) :
    (s.setFields r u p x l).fget ⟨r, g.lo, g.width⟩ u = s.fget ⟨r, g.lo, g.width⟩ u := by
  induction l generalizing s with
  | nil => rfl
  | cons f l ih =>
    rw [List.forall_mem_cons] at hl hg
    rw [Hw.setFields_cons, ih _ hl.2 hg.2, Hw.fget_setFieldIf_apart r u p x s f g hl.1 (.inl hg.1)]

/-- A listed field takes its value where it is chosen, and otherwise keeps the one it had. -/
theorem Hw.fget_setFields (s : Hw) (l : List FieldSpec) (hl : ∀ f ∈ l, f.lo + f.width ≤ 32)
    (ha : l.Pairwise (fun f g => f.lo + f.width ≤ g.lo)) (g : FieldSpec) (hg : g ∈ l) :
    (s.setFields r u p x l).fget ⟨r, g.lo, g.width⟩ u =
      if p g then x g % 2 ^ g.width else s.fget ⟨r, g.lo, g.width⟩ u := by
  induction l generalizing s with
  | nil => cases hg
  | cons f l ih =>
    rw [List.forall_mem_cons] at hl
    rw [List.pairwise_cons] at ha
    rw [Hw.setFields_cons]
    rcases List.mem_cons.1 hg with rfl | hg
    · rw [Hw.fget_setFields_below r u p x _ l hl.2 g ha.1, Hw.fget_setFieldIf_self r u p x s g hl.1]
    · rw [ih _ hl.2 ha.2 hg, Hw.fget_setFieldIf_apart r u p x s f g hl.1 (.inr (ha.1 g hg))]

end

/-- R10: a write sets the RW fields and leaves the others. -/
theorem Hw.fget_setRw (s : Hw) (r : Reg) (u v : Nat) (f : FieldSpec) (hf : f ∈ r.spec.fields) :
    (s.setRw r u v).fget ⟨r, f.lo, f.width⟩ u =
      if f.acc = Acc.rw then bits v f.lo f.width else s.fget ⟨r, f.lo, f.width⟩ u := by
  rw [Hw.setRw_eq_setFields, Hw.fget_setFields r u _ _ s _ r.fields_inside r.fields_ascend f hf]
  simp only [beq_iff_eq, Nat.mod_eq_of_lt (bits_lt v f.lo f.width)]

/-- R10: a read leaves the RC fields 0 and the others as they were. -/
theorem Hw.fget_clearRc (s : Hw) (r : Reg) (u : Nat) (f : FieldSpec) (hf : f ∈ r.spec.fields) :
    (s.clearRc r u).fget ⟨r, f.lo, f.width⟩ u = if f.acc = Acc.rc then 0 else s.fget ⟨r, f.lo, f.width⟩ u := by
  rw [Hw.fget_congr (s.regs_clearRc r u), Hw.fget_setFields r u _ _ s _ r.fields_inside r.fields_ascend f hf]
  simp only [beq_iff_eq, Nat.zero_mod]

theorem RegsKept.clearRc (s : Hw) (r : Reg) (u : Nat) : RegsKept [r] s (s.clearRc r u) :=
  (RegsKept.setFields r u _ _ s _).trans (.of_regs (s.regs_clearRc r u))

/-- The fields of a register depend on the low 32 bits written. -/
theorem bits_mod_two_pow_32 (v lo w : Nat) (h : lo + w ≤ 32) : bits (v % 0x1_0000_0000) lo w = bits v lo w := by
  rw [show 0x1_0000_0000 = 2 ^ 32 from rfl]
  apply Nat.eq_of_testBit_eq
  intro i
  simp only [testBit_bits, Nat.testBit_mod_two_pow]
  by_cases hi : i < w
  · have : i + lo < 32 := by omega
    simp [hi, this]
  · simp [hi]

/-! ### Reads -/

theorem toBytes_zero (n : Nat) : toBytes n 0 = List.replicate n 0 := by
  induction n with
  | zero => rfl
  | succ n ih => rw [toBytes, Nat.zero_div, ih, List.replicate_succ]; rfl

/-- An offset below or above the MSI-X tables (R407) fails the access's test for them. -/
theorem not_msixTest {o : Nat} (h : o < 0xF0_0000 ∨ tileWindow ≤ o) : ¬ (0xF0_0000 ≤ o && o < tileWindow) = true := by
  simp only [Bool.and_eq_true, decide_eq_true_eq]; omega

/-- R8: reading a `_LO` half arms the capture of its `_HI` half. -/
theorem Hw.readReg_lo (s : Hw) (fu : Fuses) {a : RegAt} {hi : Reg} (h : a.reg.hiOf = some hi) :
    s.readReg fu a =
      ({ s with host := { s.host with
          armed := Sparse.set s.host.armed (a.pair hi) (BitVec.ofNat 32 (s.regValue fu hi (s.unitFor a))) } },
        s.regValue fu a.reg (s.unitFor a)) := by
  unfold Hw.readReg; rw [h]

/-- R8: reading a register whose capture is armed returns the capture and disarms it. -/
theorem Hw.readReg_armed (s : Hw) (fu : Fuses) {a : RegAt} {v : Reg32} (h : a.reg.hiOf = none)
    (hv : Sparse.find? s.host.armed (a.pair a.reg) = some v) :
    s.readReg fu a = ({ s with host := { s.host with armed := Sparse.erase s.host.armed (a.pair a.reg) } }, v.toNat) := by
  simp only [Hw.readReg, h, hv]

/-- R10: any other read returns the register's value and clears its RC fields. -/
theorem Hw.readReg_live (s : Hw) (fu : Fuses) {a : RegAt} (h : a.reg.hiOf = none)
    (hv : Sparse.find? s.host.armed (a.pair a.reg) = none) :
    s.readReg fu a = (s.clearRc a.reg (s.unitFor a), s.regValue fu a.reg (s.unitFor a)) := by
  simp only [Hw.readReg, h, hv]

/-- Outside the MSI-X tables, a 32-bit read of an offset that the service level offers reads the register there. -/
theorem Hw.read32_reg (s : Hw) (fu : Fuses) {o : Nat} {a : RegAt} (hat : regAt o = some a)
    (hlevel : s.level ≠ 0 ∨ bareOffset o = true) (hmsix : o < 0xF0_0000 ∨ tileWindow ≤ o) :
    s.read32 fu o = s.readReg fu a := by
  have hblock : ¬ (s.level = 0 && !bareOffset o && o < 0xF0_0000) = true := by
    rcases hlevel with h | h <;> simp [h]
  have htile : ¬ (s.level = 0 && tileWindow ≤ o) = true := by
    rcases hlevel with h | h
    · simp [h]
    · simp only [bareOffset, decide_eq_true_eq] at h
      rw [Bool.and_eq_true, decide_eq_true_eq, decide_eq_true_eq, tileWindow]
      rintro ⟨-, h'⟩
      omega
  unfold Hw.read32
  rw [if_neg hblock, if_neg (not_msixTest hmsix), if_neg htile, hat]

/-- R8: a 64-bit read of a pair returns both halves of one instant and disarms the capture. -/
theorem Hw.read64_pair (s : Hw) (fu : Fuses) {o : Nat} {a : RegAt} {hi : Reg} (hat : regAt o = some a)
    (hhi : a.reg.hiOf = some hi) (hlevel : s.level ≠ 0 ∨ bareOffset o = true) :
    s.read64 fu o =
      ({ s with host := { s.host with armed := Sparse.erase s.host.armed (a.pair hi) } },
        s.regValue fu a.reg (s.unitFor a) + s.regValue fu hi (s.unitFor a) * 2 ^ 32) := by
  have hblock : ¬ (s.level = 0 && !bareOffset o) = true := by
    rcases hlevel with h | h <;> simp [h]
  simp only [Hw.read64, hat, hhi, Option.bind_some, Option.map_some, if_neg hblock, Nat.shiftLeft_eq]

theorem Hw.bar0Read_32 (s : Hw) (fu : Fuses) (o : Nat) (hopen : s.bar0Open = true) :
    s.bar0Read fu o false = (s.read32 fu o).1.reply (toBytes 4 (s.read32 fu o).2) := by
  simp [Hw.bar0Read, hopen]

theorem Hw.bar0Read_64 (s : Hw) (fu : Fuses) (o : Nat) (hopen : s.bar0Open = true) :
    s.bar0Read fu o true = (s.read64 fu o).1.reply (toBytes 8 (s.read64 fu o).2) := by
  simp [Hw.bar0Read, hopen]

/-! ### Accesses of another size or alignment -/

/-- Counting and raising an event change no register but the counter and those of events. -/
theorem RegsKeptEv.bump_raise {s t : Hw} (f : Fld) (ht : t.regs = (s.bump f).regs) (code a0 a1 : Nat) (w : Who) :
    RegsKeptEv [f.reg] s (t.raise code a0 a1 w) :=
  (((RegsKept.refl _ s).bump f 0 1 (by simp)).trans (.of_regs ht)).raise code a0 a1 w (by simp [eventRegs])

/-- A counter that is none of those of events shows, after the event, the count made before it. -/
theorem Hw.rd_bump_raise {s t : Hw} (f : Fld) (hf : f.reg ∉ eventRegs) (ht : t.regs = (s.bump f).regs) (code a0 a1 : Nat) (w : Who) :
    (t.raise code a0 a1 w).rd f.reg 0 = satAdd (s.rd f.reg 0) 1 := by
  rw [Hw.rd_raise _ _ _ _ _ _ _ hf, Hw.rd_congr ht, Hw.rd_bump, if_pos ⟨rfl, rfl⟩]

/-- R9: while BAR0 is live, a bad access counts and raises event 0x8020, and a read is answered with zeros. -/
theorem Hw.badAccess_open (s : Hw) (o size : Nat) (write : Bool) (hopen : s.bar0Open = true) :
    s.badAccess o size write =
      if write then (s.bump F.HIF_BAD_ACCESS_COUNT).raise 0x8020 o size
      else ((s.bump F.HIF_BAD_ACCESS_COUNT).raise 0x8020 o size).reply (List.replicate size 0) := by
  simp [Hw.badAccess, hopen, toBytes_zero]

/-- R9 (BAD_BAR0_ACCESS). -/
theorem Completes.badBar0Access (s : State) (hopen : s.hw.bar0Open = true) (off : BitVec 28) (size : BitVec 13) (write : Bool)
    (hroom : EventRoom s.hw) :
    Completes (.badBar0Access off size write) s (fun t =>
      Raises s.hw t 0x8020 off.toNat size.toNat ∧ (write = false → Replied t (List.replicate size.toNat 0)) ∧
      (write = true → t.host.resp = s.hw.host.resp) ∧
      t.rd .HIF_BAD_ACCESS 0 = satAdd (s.hw.rd .HIF_BAD_ACCESS 0) 1 ∧ RegsKeptEv [.HIF_BAD_ACCESS] s.hw t ∧ t.mem = s.hw.mem) := by
  refine .of_onHw (fun h => h.badAccess off.toNat size.toNat write) rfl ?_
  have hraise : Raises s.hw ((s.hw.bump F.HIF_BAD_ACCESS_COUNT).raise 0x8020 off.toNat size.toNat) 0x8020 off.toNat size.toNat :=
    .of_raise hroom (by rw [Hw.bump_host]) _ _ _ _
  have hcount := Hw.rd_bump_raise (s := s.hw) F.HIF_BAD_ACCESS_COUNT (by decide) rfl 0x8020 off.toNat size.toNat {}
  have hkept := RegsKeptEv.bump_raise (s := s.hw) F.HIF_BAD_ACCESS_COUNT rfl 0x8020 off.toNat size.toNat {}
  have hmem : ((s.hw.bump F.HIF_BAD_ACCESS_COUNT).raise 0x8020 off.toNat size.toNat).mem = s.hw.mem := by simp
  rw [Hw.badAccess_open _ _ _ _ hopen]
  cases write with
  | false => exact ⟨hraise, fun _ => rfl, nofun, hcount, hkept, hmem⟩
  | true =>
    refine ⟨hraise, nofun, fun _ => ?_, hcount, hkept, hmem⟩
    rw [if_pos rfl, Hw.raise_host _ _ _ _ _ (by rw [Hw.bump_host]; exact hroom), Hw.bump_host]

theorem Completes.mono {c : Instr} {s : State} {P Q : Hw → Prop} (h : Completes c s P) (hpq : ∀ t, P t → Q t) : Completes c s Q := by
  obtain ⟨t, ht, hp⟩ := h
  exact ⟨t, ht, hpq t hp⟩

section
variable {s : State} {off : BitVec 28} {a : RegAt} (hopen : s.hw.bar0Open = true) (hat : regAt off.toNat = some a)
  (hlevel : s.hw.level ≠ 0 ∨ bareOffset off.toNat = true)
include hopen hat hlevel

/-- R8: a 64-bit read of a pair (PAIR_LO_READ). -/
theorem Completes.pairRead64 {hi : Reg} (hhi : a.reg.hiOf = some hi) :
    Completes (.pairLoRead off true) s (fun t =>
      Replied t (toBytes 8 (s.hw.regValue s.fuses a.reg (s.hw.unitFor a) + s.hw.regValue s.fuses hi (s.hw.unitFor a) * 2 ^ 32)) ∧
      Sparse.find? t.host.armed (a.pair hi) = none ∧
      t = { s.hw with host := { s.hw.host with armed := t.host.armed, resp := t.host.resp } }) := by
  refine .of_onHw (fun h => h.bar0Read s.fuses off.toNat true) rfl ?_
  rw [Hw.bar0Read_64 _ _ _ hopen, Hw.read64_pair _ _ hat hhi hlevel]
  exact ⟨rfl, (Sparse.find?_erase _ _ _).trans (if_pos rfl), rfl⟩

variable (hmsix : off.toNat < 0xF0_0000 ∨ tileWindow ≤ off.toNat)
include hmsix

/-- A 32-bit read reads the register and answers with its four bytes. -/
theorem bar0Read_reg : s.hw.bar0Read s.fuses off.toNat false =
    (s.hw.readReg s.fuses a).1.reply (toBytes 4 (s.hw.readReg s.fuses a).2) := by
  rw [Hw.bar0Read_32 _ _ _ hopen, Hw.read32_reg _ _ hat hlevel hmsix]

/-- R8: a 32-bit read of a `_LO` register (PAIR_LO_READ). -/
theorem Completes.pairRead32 {hi : Reg} (hhi : a.reg.hiOf = some hi) :
    Completes (.pairLoRead off false) s (fun t =>
      Replied t (toBytes 4 (s.hw.regValue s.fuses a.reg (s.hw.unitFor a))) ∧
      Sparse.find? t.host.armed (a.pair hi) = some (BitVec.ofNat 32 (s.hw.regValue s.fuses hi (s.hw.unitFor a))) ∧
      (∀ k, k ≠ a.pair hi → Sparse.find? t.host.armed k = Sparse.find? s.hw.host.armed k) ∧
      t = { s.hw with host := { s.hw.host with armed := t.host.armed, resp := t.host.resp } }) := by
  refine .of_onHw (fun h => h.bar0Read s.fuses off.toNat false) rfl ?_
  rw [bar0Read_reg hopen hat hlevel hmsix, Hw.readReg_lo _ _ hhi]
  exact ⟨rfl, (Sparse.find?_set _ _ _ _).trans (if_pos rfl), fun k hk => (Sparse.find?_set _ _ _ _).trans (if_neg (Ne.symm hk)), rfl⟩

/-- R8: a 32-bit read of a register whose capture is armed (PAIR_HI_READ). -/
theorem Completes.capturedRead {v : Reg32} (hhi : a.reg.hiOf = none)
    (hv : Sparse.find? s.hw.host.armed (a.pair a.reg) = some v) :
    Completes (.pairHiRead off) s (fun t =>
      Replied t (toBytes 4 v.toNat) ∧ Sparse.find? t.host.armed (a.pair a.reg) = none ∧
      t = { s.hw with host := { s.hw.host with armed := t.host.armed, resp := t.host.resp } }) := by
  refine .of_onHw (fun h => h.bar0Read s.fuses off.toNat false) rfl ?_
  rw [bar0Read_reg hopen hat hlevel hmsix, Hw.readReg_armed _ _ hhi hv]
  exact ⟨rfl, (Sparse.find?_erase _ _ _).trans (if_pos rfl), rfl⟩

/-- R10: a 32-bit read of a register of which no capture is armed (PAIR_HI_READ, RC_REGISTER_READ). -/
theorem Completes.liveRead {c : Instr} (hc : exec c s = s.onHw (fun h => h.bar0Read s.fuses off.toNat false))
    (hhi : a.reg.hiOf = none) (hv : Sparse.find? s.hw.host.armed (a.pair a.reg) = none) :
    Completes c s (fun t =>
      Replied t (toBytes 4 (s.hw.regValue s.fuses a.reg (s.hw.unitFor a))) ∧
      (∀ f ∈ a.reg.spec.fields, t.fget ⟨a.reg, f.lo, f.width⟩ (s.hw.unitFor a) =
        if f.acc = Acc.rc then 0 else s.hw.fget ⟨a.reg, f.lo, f.width⟩ (s.hw.unitFor a)) ∧
      RegsKept [a.reg] s.hw t) := by
  refine .of_onHw (fun h => h.bar0Read s.fuses off.toNat false) hc ?_
  rw [bar0Read_reg hopen hat hlevel hmsix, Hw.readReg_live _ _ hhi hv]
  exact ⟨rfl, fun f hf => Hw.fget_clearRc s.hw a.reg _ f hf, RegsKept.clearRc s.hw a.reg _⟩

end

/-- Settles O6, by the value that each kind of read finds: of a pair's `_LO` half, of an armed capture, of the live register. -/
theorem bar0Reads : Obligations.Bar0Reads := by
  unfold Obligations.Bar0Reads
  intro s hopen
  refine ⟨fun off a hat hlevel hmsix => ⟨fun hi hhi => ?_, fun hhi => ⟨fun v hv => ?_, fun hv => ⟨?_, ?_⟩⟩⟩, ?_⟩
  · exact ⟨.pairRead32 hopen hat hlevel hmsix hhi, .pairRead64 hopen hat hlevel hhi⟩
  · exact .capturedRead hopen hat hlevel hmsix hhi hv
  · exact (Completes.liveRead hopen hat hlevel hmsix rfl hhi hv).mono fun _ ⟨hreply, _⟩ => hreply
  · exact .liveRead hopen hat hlevel hmsix rfl hhi hv
  · exact fun off size write hroom => .badBar0Access s hopen off size write hroom

/-! ### Writes -/

/-- R8: an access that disarms a capture changes nothing but the captures. -/
theorem Hw.disarm_eq (s : Hw) (a : RegAt) : ∃ c, s.disarm a = { s with host := { s.host with armed := c } } := by
  unfold Hw.disarm
  split
  · exact ⟨_, rfl⟩
  · split <;> exact ⟨_, rfl⟩

theorem Hw.disarm_regs (s : Hw) (a : RegAt) : (s.disarm a).regs = s.regs := by
  obtain ⟨c, h⟩ := s.disarm_eq a
  rw [h]

/-- A write that disarms a capture and sets RW fields changes nothing but registers and captures. -/
theorem Hw.setRw_disarm_eq (s : Hw) (a : RegAt) (r : Reg) (u v : Nat) :
    ∃ regs c, (s.disarm a).setRw r u v = { s with regs := regs, host := { s.host with armed := c } } := by
  obtain ⟨c, hc⟩ := s.disarm_eq a
  have hset : RegsOnly (s.disarm a) ((s.disarm a).setRw r u v) := RegsOnly.setFields r u _ _ (.refl _) _
  exact ⟨((s.disarm a).setRw r u v).regs, c, hset.trans (by rw [hc])⟩

/-- No rule ignores a write of a register outside `ownWrites`. -/
theorem Hw.ignored_none (s : Hw) {r : Reg} (u o v : Nat) (h : r ∉ ownWrites) : s.ignored r u o v = none := by
  unfold Hw.ignored
  split
  -- the last arm; every other names a register of `ownWrites`
  case h_36 => rfl
  all_goals exact (h (by decide)).elim

/-- A write of a register outside `ownWrites` has no effect on the machine but that its RW fields are set. -/
theorem Hw.writeEffect_rw (s : Hw) {r : Reg} (u v : Nat) (h : r ∉ ownWrites) : s.writeEffect r u v = s.setRw r u v := by
  unfold Hw.writeEffect
  split
  -- the last arm, as above
  case h_29 => rfl
  all_goals exact (h (by decide)).elim

theorem State.writeEffect_rw (s : State) {r : Reg} (u v : Nat) (h : r ∉ ownWrites) :
    s.writeEffect r u v = { s with hw := s.hw.setRw r u v } := by
  unfold State.writeEffect
  split
  -- the last arm, as above
  case h_5 => rw [Hw.writeEffect_rw _ _ _ h]
  all_goals exact (h (by decide)).elim

/-- Outside the MSI-X tables, a 32-bit write of a register outside `ownWrites` disarms its capture and sets its RW fields. -/
theorem State.write32_rw (s : State) {o : Nat} (v : Nat) {a : RegAt} (hat : regAt o = some a) (hoffers : s.hw.offers o = true)
    (hmsix : o < 0xF0_0000 ∨ tileWindow ≤ o) (hown : a.reg ∉ ownWrites) :
    s.write32 o v = { s with hw := (s.hw.disarm a).setRw a.reg (s.hw.unitFor a) v } := by
  simp only [State.write32, hoffers, Bool.not_true, Bool.false_eq_true, if_false, if_neg (not_msixTest hmsix), hat,
    Hw.ignored_none _ _ _ _ hown, State.writeEffect_rw _ _ _ hown]

theorem exec_registerWrite (s : State) (off : BitVec 28) (wide : Bool) (v : BitVec 64) (poisoned : Bool) :
    exec (.registerWrite off wide v poisoned) s = .next (s.registerWrite off.toNat wide v.toNat poisoned) := rfl

/-- R10: a 32-bit write that is not poisoned (REGISTER_WRITE). -/
theorem Completes.registerWrite_rw (s : State) (off : BitVec 28) (v : BitVec 64) (a : RegAt) (hopen : s.hw.bar0Open = true)
    (hat : regAt off.toNat = some a) (hoffers : s.hw.offers off.toNat = true)
    (hmsix : off.toNat < 0xF0_0000 ∨ tileWindow ≤ off.toNat) (hown : a.reg ∉ ownWrites) :
    Completes (.registerWrite off false v false) s (fun t =>
      (∀ f ∈ a.reg.spec.fields, t.fget ⟨a.reg, f.lo, f.width⟩ (s.hw.unitFor a) =
        if f.acc = Acc.rw then bits v.toNat f.lo f.width else s.hw.fget ⟨a.reg, f.lo, f.width⟩ (s.hw.unitFor a)) ∧
      (∀ u, u ≠ s.hw.unitFor a → t.rd a.reg u = s.hw.rd a.reg u) ∧ RegsKept [a.reg] s.hw t ∧
      t = { s.hw with regs := t.regs, host := { s.hw.host with armed := t.host.armed } }) := by
  refine ⟨(s.hw.disarm a).setRw a.reg (s.hw.unitFor a) (v.toNat % 0x1_0000_0000), ?_, ?_, ?_, ?_, ?_⟩
  · simp only [exec_registerWrite, State.registerWrite, hopen, Bool.not_true, Bool.false_eq_true, if_false,
      State.write32_rw s _ hat hoffers hmsix hown]
  · intro f hf
    rw [Hw.fget_setRw _ _ _ _ f hf, bits_mod_two_pow_32 _ _ _ (a.reg.fields_inside f hf), Hw.fget_congr (s.hw.disarm_regs a)]
  · intro u hu
    rw [Hw.setRw_eq_setFields, Hw.rd_setFields _ _ _ _ _ _ (by rintro ⟨-, rfl⟩; exact hu rfl), Hw.rd_congr (s.hw.disarm_regs a)]
  · exact (RegsKept.of_regs (s.hw.disarm_regs a)).trans (RegsKept.setFields _ _ _ _ _ _)
  · obtain ⟨regs, c, h⟩ := s.hw.setRw_disarm_eq a a.reg (s.hw.unitFor a) (v.toNat % 0x1_0000_0000)
    rw [h]

/-- R415: a poisoned access counts, is recorded, and then raises event 0x8022. -/
theorem Hw.poisonRx_eq (s : Hw) (addr bar : Nat) : ∃ t : Hw, s.poisonRx addr bar = t.raise 0x8022 addr bar ∧
    t.regs = (s.bump F.HIF_POISON_RX_COUNT).regs ∧ t.host = { s.host with aerPoison := true } ∧ t.mem = s.mem :=
  ⟨_, rfl, rfl, rfl, s.bump_mem F.HIF_POISON_RX_COUNT 0 1⟩

/-- R415: a poisoned write (REGISTER_WRITE). -/
theorem Completes.registerWrite_poisoned (s : State) (off : BitVec 28) (v : BitVec 64) (hopen : s.hw.bar0Open = true)
    (hroom : EventRoom s.hw) (wide : Bool) :
    Completes (.registerWrite off wide v true) s (fun t =>
      Raises s.hw t 0x8022 off.toNat 0 ∧ t.host.aerPoison = true ∧
      t.rd .HIF_POISON_RX 0 = satAdd (s.hw.rd .HIF_POISON_RX 0) 1 ∧ RegsKeptEv [.HIF_POISON_RX] s.hw t ∧ t.mem = s.hw.mem) := by
  obtain ⟨t, heq, hregs, hhost, hmem⟩ := s.hw.poisonRx_eq off.toNat 0
  refine ⟨s.hw.poisonRx off.toNat 0, ?_, ?_, ?_, ?_, ?_, ?_⟩
  · simp [exec_registerWrite, State.registerWrite, hopen]
  · rw [heq]
    exact .of_raise hroom (by rw [hhost]) _ _ _ _
  · rw [heq, Hw.raise_host _ _ _ _ _ (by rw [hhost]; exact hroom), hhost]
  · rw [heq]
    exact Hw.rd_bump_raise F.HIF_POISON_RX_COUNT (by decide) hregs _ _ _ _
  · rw [heq]
    exact RegsKeptEv.bump_raise F.HIF_POISON_RX_COUNT hregs _ _ _ _
  · rw [heq, Hw.raise_mem, hmem]

/-- R462: before BAR0 is live. -/
theorem exec_registerWrite_closed (s : State) (off : BitVec 28) (v : BitVec 64) (hclosed : s.hw.bar0Open = false) (wide poisoned : Bool) :
    exec (.registerWrite off wide v poisoned) s = .next s := by
  simp [exec_registerWrite, State.registerWrite, hclosed]

/-- Settles O7, by the three fates of a write: it sets the RW fields, it is poisoned, or BAR0 is not live. -/
theorem registerWrites : Obligations.RegisterWrites := by
  unfold Obligations.RegisterWrites
  intro s off v
  refine ⟨fun a hopen hat hoffers hmsix hown => ?_, fun hopen hroom wide => ?_, fun hclosed wide poisoned => ?_⟩
  · exact .registerWrite_rw s off v a hopen hat hoffers hmsix hown
  · exact .registerWrite_poisoned s off v hopen hroom wide
  · exact exec_registerWrite_closed s off v hclosed wide poisoned

end Sys2Proof.Machine
end

section
/-!
PROOFS. What the accounting of memory accesses leaves alone: raising an event at most once a beat, the counting of the words that
controllers and consumers read (R301, R340), and the writes at device addresses (R308, R353, R400, R446).
-/
namespace Sys2Proof.Machine

/-- The counters and the ring pointer that accesses of memory move. -/
def memRegs : List Reg :=
  eventRegs ++ [.FLT_UE, .FLT_DROSS_MADE, .FLT_DROSS_PASSED, .FLT_CE_STORE, .FLT_TLOG_NEXT, .MEM_CH_CE, .MEM_CH_DEV_CE, .MEM_CH_UE,
    .MEM_PROP_DROP, .MEM_OFF_ACCESS, .PAT_STAGE_DROP]

/-- What accesses of memory leave alone, besides registers: all but memory, what counts, logs and proposes, and what waits for the host. -/
def Hw.apartFromMem (s : Hw) : Hw :=
  { s with
    regs := [], mem := Mem.reset, host := HostIf.reset, phys := [], chans := []
    mu := { s.mu with props := [], forwarded := [], served := [] }
    twin := { s.twin with mirror := [] }
    pat := { s.pat with logWait := [], logLost := 0 }
    test := { s.test with trace := [] } }

/-- From s to t there have been accesses of memory only; the events raised wait behind those that waited. -/
structure MemWork (s t : Hw) : Prop where
  regs : RegsKept memRegs s t
  waiting : s.host.waiting <+: t.host.waiting
  rest : t.apartFromMem = s.apartFromMem

namespace MemWork

theorem refl (s : Hw) : MemWork s s := ⟨.refl _ s, List.prefix_refl _, rfl⟩

theorem trans {s t v : Hw} (h : MemWork s t) (h' : MemWork t v) : MemWork s v :=
  ⟨h.regs.trans h'.regs, h.waiting.trans h'.waiting, h'.rest.trans h.rest⟩

theorem foldl {α : Type} (f : Hw → α → Hw) (hf : ∀ s a, MemWork s (f s a)) (l : List α) : ∀ s : Hw, MemWork s (l.foldl f s) := by
  induction l with
  | nil => exact refl
  | cons a l ih => exact fun s => (hf s a).trans (ih _)

theorem foldl_fst {α β : Type} (f : Hw × β → α → Hw × β) (hf : ∀ r a, MemWork r.1 (f r a).1) (l : List α) :
    ∀ r : Hw × β, MemWork r.1 (l.foldl f r).1 := by
  induction l with
  | nil => exact fun r => refl r.1
  | cons a l ih => exact fun r => (hf r a).trans (ih _)

/-- The state of an answer that pairs it with more; stated so that checking it compares states, never the answers. -/
theorem fst_mk {α : Type} {s t : Hw} (b : α) (h : MemWork s t) : MemWork s (t, b).1 := h

/-- What shares registers and the waiting events with s, and differs only where accesses of memory may change it. -/
theorem of_rest {s t : Hw} (hr : t.regs = s.regs) (hh : t.host.waiting = s.host.waiting) (h : t.apartFromMem = s.apartFromMem) :
    MemWork s t := ⟨.of_regs hr, by rw [hh], h⟩

theorem of_bump (s : Hw) (f : Fld) (u n : Nat) (hf : f.reg ∈ memRegs := by decide) : MemWork s (s.bump f u n) := by
  refine ⟨(RegsKept.refl _ s).bump f u n hf, by rw [Hw.bump_host], ?_⟩
  unfold Hw.bump
  split <;> rfl

theorem of_fset (s : Hw) (f : Fld) (x u : Nat) (hf : f.reg ∈ memRegs := by decide) : MemWork s (s.fset f x u) :=
  ⟨(RegsKept.refl _ s).fset f x u hf, by rw [Hw.fset_host], rfl⟩

theorem of_raise (s : Hw) (code a0 a1 : Nat) (w : Who) : MemWork s (s.raise code a0 a1 w) := by
  refine ⟨(RegsKept.refl _ s).raise code a0 a1 w (by decide), ?_, ?_⟩
  · rcases s.raise_host_cases code a0 a1 w with h | h <;> simp [h]
  · have h := EventsOnly.of_raise s code a0 a1 w
    unfold EventsOnly at h
    rw [h]
    rfl

theorem raise {s t : Hw} (h : MemWork s t) (code a0 a1 : Nat) (w : Who) : MemWork s (t.raise code a0 a1 w) := h.trans (of_raise ..)

theorem bump {s t : Hw} (h : MemWork s t) (f : Fld) (u n : Nat) (hf : f.reg ∈ memRegs := by decide) : MemWork s (t.bump f u n) :=
  h.trans (of_bump _ _ _ _ hf)

theorem of_mem (s : Hw) (m : Mem) : MemWork s { s with mem := m } := of_rest rfl rfl rfl

theorem of_setPhys (s : Hw) (p : Nat) (x : Phys) : MemWork s (s.setPhys p x) := of_rest rfl rfl rfl

theorem of_modPhys (s : Hw) (p : Nat) (f : Phys → Phys) : MemWork s (s.modPhys p f) := of_setPhys s p _

theorem of_modChan (s : Hw) (c : Nat) (f : Chan → Chan) : MemWork s (s.modChan c f) := of_rest rfl rfl rfl

theorem of_raiseOnce (s : Hw) (code key a0 a1 : Nat) (w : Who) : MemWork s (s.raiseOnce code key a0 a1 w) := by
  unfold Hw.raiseOnce
  split
  · exact refl s
  · have h : MemWork s { s with host := { s.host with once := (code, key) :: s.host.once } } := of_rest rfl rfl rfl
    exact h.raise _ _ _ _

/-! ### Reports of a store -/

theorem of_observe (s : Hw) (p cause part : Nat) : MemWork s (s.observe p cause part) := by
  unfold Hw.observe
  simp only
  split
  · exact of_setPhys s p _
  · exact (of_setPhys s p _).raise _ _ _ _

theorem of_hostWrite (s : Hw) (a : Nat) (bs : List Byte) : MemWork s (s.hostWrite a bs) := of_rest rfl rfl rfl

theorem of_copyLog (s : Hw) (p cause : Nat) : MemWork s (s.copyLog p cause).1 := by
  have hwrite : ∀ a bs, MemWork s (if s.busMaster then s.hostWrite a bs else s) := fun a bs => by
    cases s.busMaster with
    | true => exact of_hostWrite s a bs
    | false => exact refl s
  unfold Hw.copyLog
  by_cases hn : s.fget F.FLT_TLOG_SLOTS_COUNT = 0
  · rw [if_pos hn]
    exact refl s
  · rw [if_neg hn]
    exact (hwrite _ _).trans (of_fset _ F.FLT_TLOG_NEXT_SLOT _ 0)

theorem of_storeCorrection (s : Hw) (p : Nat) : MemWork s (s.storeCorrection p) := by
  unfold Hw.storeCorrection
  simp only
  split
  · exact (((of_bump s F.FLT_CE_STORE_COUNT 0 1).trans (of_modPhys _ p _)).raise _ _ _ _).trans ((of_observe _ _ _ _).trans (of_copyLog _ _ _))
  · exact (of_bump s F.FLT_CE_STORE_COUNT 0 1).trans (of_modPhys _ p _)

/-! ### Accounting of GDDR7 -/

theorem of_noteErrs (s : Hw) (c n : Nat) : MemWork s (s.noteErrs c n) := by
  unfold Hw.noteErrs
  split
  · exact refl s
  · exact of_modChan s c _

theorem of_countSingle (s : Hw) (c : Nat) (e : Syndrome) : MemWork s (s.countSingle c e) :=
  ((of_bump s F.MEM_CH_CE_COUNT _ _).bump F.MEM_CH_DEV_CE_COUNT _ _).trans (of_noteErrs _ _ _)

theorem of_props (s : Hw) (l : Sparse (Nat × Nat × Nat × Bool)) : MemWork s { s with mu := { s.mu with props := l } } := of_rest rfl rfl rfl

theorem of_propose (s : Hw) (c page cause : Nat) : MemWork s (s.propose c page cause) := by
  unfold Hw.propose
  split
  · exact refl s
  · split
    · exact of_bump s F.MEM_PROP_DROP_COUNT 0 1
    · exact (of_props s _).raise _ _ _ _

theorem of_accountWords (s : Hw) (a : Nat) (es : List (Nat × Syndrome)) (event : Nat) : MemWork s (s.accountWords a es event) := by
  have hones : ∀ c (l : List (Nat × Syndrome)), MemWork s (l.foldl (fun s e => s.countSingle c e.2) s) := fun c l =>
    foldl (fun s (e : Nat × Syndrome) => s.countSingle c e.2) (fun s e => of_countSingle s c e.2) l s
  unfold Hw.accountWords
  simp only
  split
  · split
    · exact hones _ _
    · exact (hones _ _).trans (of_modChan _ _ _)
  · exact (((((hones _ _).trans (of_mem _ _)).bump F.FLT_DROSS_MADE_COUNT 0 1).bump F.MEM_CH_UE_COUNT _ _).raise _ _ _ _).trans
      (of_propose _ _ _ _)

theorem of_accountRun (s : Hw) (a n : Nat) : MemWork s (s.accountRun a n) :=
  foldl _ (fun s k => of_accountWords s k _ _) _ s

theorem of_offAccess (s : Hw) (c page : Nat) : MemWork s (s.offAccess c page) := (of_bump s F.MEM_OFF_ACCESS_COUNT 0 1).trans (of_raiseOnce _ _ _ _ _ _)

theorem of_countMerge (s : Hw) (w : Nat) (ce ue : Bool) : MemWork s (s.countMerge w ce ue) := by
  have hce : MemWork s (if ce then (if storeBase ≤ w * 8 then s.storeCorrection ((w * 8 - storeBase) / 0x40_0000) else s) else s) := by
    split
    · split
      · exact of_storeCorrection s _
      · exact refl s
    · exact refl s
  unfold Hw.countMerge
  simp only
  cases ue with
  | true => exact (hce.bump F.FLT_UE_COUNT 0 1).bump F.FLT_DROSS_MADE_COUNT 0 1
  | false => exact hce

theorem of_takeForwarded (s : Hw) (w : Nat) (counts : Bool) : MemWork s (s.takeForwarded w counts) := by
  unfold Hw.takeForwarded
  split
  · have h : MemWork s { s with mu := { s.mu with forwarded := s.mu.forwarded.filter (fun x => x != w) } } := of_rest rfl rfl rfl
    simp only
    split
    · exact h.bump F.FLT_UE_COUNT 0 1
    · exact h
  · exact refl s

/-! ### Writes -/

theorem of_mergeAtoms (s : Hw) (gs : List (Nat × List (Nat × Byte))) : MemWork s (s.mergeAtoms gs).1 :=
  foldl_fst _ (fun _ _ => (of_accountWords _ _ _ _).bump F.FLT_UE_COUNT 0 _) _ (s, [])

theorem of_writeKeys (s : Hw) (c : Sparse Byte) : MemWork s (s.writeKeys c) := by
  refine ((of_mergeAtoms s _).trans (foldl _ (fun s g => ?_) _ _)).trans (of_mem _ _)
  exact ((of_mem s _).trans (of_countMerge _ _ _ _)).trans (of_takeForwarded _ _ _)

theorem of_noteMirror (s : Hw) (l : List Nat) : MemWork s (s.noteMirror l) := by
  unfold Hw.noteMirror
  split
  · exact of_rest rfl rfl rfl
  · exact refl s

theorem of_stageDrop (s : Hw) (a : Nat) : MemWork s (s.stageDrop a) := (of_bump s F.PAT_STAGE_DROP_COUNT 0 1).trans (of_raiseOnce _ _ _ _ _ _)

end MemWork

/-- The key at which a write of one byte at a device address takes effect, if it does: the step of `Hw.writeAddrs`. -/
def Hw.writeStep (r : Hw × Sparse Byte) (e : Nat × Byte) : Hw × Sparse Byte :=
  match r.1.place e.1 with
  | .gddr a => if r.1.seedGuard a then (r.1.raiseOnce 0x7022 0 a (a >>> 32) { kind := 4 }, r.2) else (r.1, Sparse.set r.2 a e.2)
  | .store k _ _ => (r.1, Sparse.set r.2 k e.2)
  | .offlined _ _ => r
  | .unmapped => (r.1.raiseOnce 0x5051 0 e.1 (e.1 >>> 32), r.2)

namespace MemWork

theorem of_writeStep (r : Hw × Sparse Byte) (e : Nat × Byte) : MemWork r.1 (Hw.writeStep r e).1 := by
  unfold Hw.writeStep
  split
  · split
    · exact of_raiseOnce _ _ _ _ _ _
    · exact refl _
  · exact refl _
  · exact refl _
  · exact of_raiseOnce _ _ _ _ _ _

theorem of_writeAddrs (s : Hw) (c : Sparse Byte) : MemWork s (s.writeAddrs c) := by
  have hdrop : ∀ hit : Option Nat, MemWork s (match hit with | some a => s.stageDrop a | none => s) := fun hit => by
    cases hit with
    | none => exact refl s
    | some a => exact of_stageDrop s a
  exact ((((hdrop _).trans (foldl_fst Hw.writeStep of_writeStep _ (_, []))).trans (foldl (fun s (e : Nat × Nat) => s.offAccess e.1 e.2)
    (fun s e => of_offAccess s e.1 e.2) _ _)).trans (of_writeKeys _ _)).trans
    (of_noteMirror _ _)

theorem of_invertAtom (s : Hw) (a : Nat) : MemWork s (s.invertAtom a) := by
  unfold Hw.invertAtom
  split
  · split
    · exact of_stageDrop s _
    · split
      · exact of_raiseOnce _ _ _ _ _ _
      · exact (of_mem s _).trans (of_noteMirror _ _)
  · exact of_mem s _
  · exact refl s

theorem of_markDross (s : Hw) (a : Nat) : MemWork s (s.markDross a) := (of_invertAtom s a).bump F.FLT_DROSS_MADE_COUNT 0 _

/-! ### What consumers take in -/

theorem of_reportWord (s : Hw) (w : Nat) : MemWork s (s.reportWord w) := of_setPhys s _ _

theorem of_takeAtom (s : Hw) (k : Nat) (ws : List Nat) : MemWork s (s.takeAtom k ws) := by
  unfold Hw.takeAtom
  simp only
  split
  · have h : MemWork s ((ws.filter s.mem.singleBit).foldl Hw.reportWord s) := foldl Hw.reportWord of_reportWord _ s
    split
    · exact h
    · exact ((h.trans (of_mem _ _)).bump F.FLT_UE_COUNT 0 _).bump F.FLT_DROSS_MADE_COUNT 0 1
  · refine trans (bump ?_ F.FLT_UE_COUNT 0 _) (foldl _ (fun s w => of_takeForwarded s w true) _ _)
    split
    · exact of_rest rfl rfl rfl
    · exact of_accountWords s _ _ _

theorem of_takeWords (s : Hw) (ws : List Nat) : MemWork s (s.takeWords ws) := foldl _ (fun s k => of_takeAtom s k _) _ s

theorem of_consumeBy (s : Hw) (spans : List Span) : MemWork s (s.consumeBy spans).1 :=
  (of_takeWords s _).trans (foldl _ (fun s _ => of_offAccess s _ _) _ _)

theorem of_consume (s : Hw) (ranges : List (Nat × Nat)) : MemWork s (s.consume ranges).1 := of_consumeBy s _

/-! ### What stays -/

variable {s t : Hw}

theorem rd (h : MemWork s t) (r : Reg) (u : Nat := 0) (hr : r ∉ memRegs := by decide) : t.rd r u = s.rd r u := h.regs r u hr

theorem fget (h : MemWork s t) (f : Fld) (u : Nat := 0) (hr : f.reg ∉ memRegs := by decide) : t.fget f u = s.fget f u := by
  unfold Hw.fget; rw [h.rd f.reg u hr]

theorem flag (h : MemWork s t) (f : Fld) (u : Nat := 0) (hr : f.reg ∉ memRegs := by decide) : t.flag f u = s.flag f u := by
  unfold Hw.flag; rw [h.fget f u hr]

theorem beat (h : MemWork s t) : t.beat = s.beat := congrArg (·.beat) h.rest
theorem tiles (h : MemWork s t) : t.tiles = s.tiles := congrArg (·.tiles) h.rest
theorem frames (h : MemWork s t) : t.frames = s.frames := congrArg (·.frames) h.rest
theorem streams (h : MemWork s t) : t.streams = s.streams := congrArg (·.streams) h.rest
theorem links (h : MemWork s t) : t.links = s.links := congrArg (·.links) h.rest
theorem free (h : MemWork s t) : t.free = s.free := congrArg (·.free) h.rest
theorem offline (h : MemWork s t) : t.mu.offline = s.mu.offline := congrArg (·.mu.offline) h.rest

end MemWork

end Sys2Proof.Machine
end

section
/-!
PROOFS. The plan entries that the beat controller fetches, and the switch commands (R50 to R54, R460).
-/
namespace Sys2Proof.Machine

theorem MemWork.of_fetchEntry (s : Hw) (base i : Nat) : MemWork s (s.fetchEntry base i).1 := by
  unfold Hw.fetchEntry
  extract_lets a e0 n p e unmappedAt s1 c r bad
  have hs1 : MemWork s s1 := by
    cases hu : unmappedAt with
    | none =>
      simp only [s1, hu]
      exact refl s
    | some _ =>
      simp only [s1, hu]
      exact of_raiseOnce s _ _ _ _ _
  have hc : MemWork s c.1 := hs1.trans (of_consume s1 _)
  have hr : MemWork s r.1 := by
    by_cases hn : n = 0
    · have h : r = (c.1, none) := if_pos hn
      rw [h]
      exact fst_mk _ hc
    · have h : r = c.1.consume [(p, p + n - 1)] := if_neg hn
      rw [h]
      exact hc.trans (of_consume c.1 _)
  split
  · exact fst_mk _ (of_raiseOnce s _ _ _ _ _)
  · exact fst_mk _ hr

/-- The event that a raise with room leaves among those that wait. -/
theorem Hw.mem_waiting_raise {s : Hw} (h : EventRoom s) (code a0 a1 : Nat) (w : Who) :
    s.eventRec code a0 a1 w ∈ (s.raise code a0 a1 w).host.waiting := by
  rw [s.raise_host code a0 a1 w h]
  simp

theorem RegsKeptEv.raise {l : List Reg} {s t : Hw} (h : RegsKeptEv l s t) (code a0 a1 : Nat) (w : Who) :
    RegsKeptEv l s (t.raise code a0 a1 w) :=
  RegsKept.raise h code a0 a1 w (by intro r hr; fin_cases hr <;> simp)

theorem Hw.raise_waiting_subset (s : Hw) (code a0 a1 : Nat) (w : Who) : s.host.waiting ⊆ (s.raise code a0 a1 w).host.waiting :=
  (MemWork.of_raise s code a0 a1 w).waiting.subset

/-! ### The next entry -/

theorem Hw.planFetched_idle {s : Hw} (h : s.running = false ∨ s.planLen = 0 ∨ s.beat.next.isSome = true ∨ s.beat.nextBad = true) :
    s.planFetched = s := by
  unfold Hw.planFetched
  rw [if_pos]
  rcases h with h | h | h | h <;> simp [h]

/-- R53: the fetched entry fails: it is held and counted, with event 0x1024, and 0x4003 where dross was met. -/
def Hw.holdEntry (t : Hw) (i off base : Nat) (dross : Bool) : Hw :=
  let t1 := ((t.modBeat (fun b => { b with nextBad := true })).bump F.BEAT_HELD_COUNT).raise 0x1024 i off beatWho
  if dross then t1.raise 0x4003 i base beatWho else t1

theorem Hw.holdEntry_holds {s t : Hw} {i off base : Nat} (dross : Bool) (ht : MemWork s t) (hroom : EventRoom t) :
    (t.holdEntry i off base dross).beat = { s.beat with nextBad := true } ∧
    (t.holdEntry i off base dross).rd .BEAT_HELD 0 = satAdd (s.rd .BEAT_HELD 0) 1 ∧
    ∃ e ∈ (t.holdEntry i off base dross).host.waiting, e.code = 0x1024 ∧ e.arg0 = i % 2 ^ 32 ∧ e.arg1 = off % 2 ^ 32 := by
  have hcount : ((t.modBeat (fun b => { b with nextBad := true })).bump F.BEAT_HELD_COUNT).rd .BEAT_HELD 0 =
      satAdd (s.rd .BEAT_HELD 0) 1 := by
    rw [Hw.rd_bump, if_pos ⟨rfl, rfl⟩, ← ht.rd .BEAT_HELD]
    rfl
  have hbeat : ((t.modBeat (fun b => { b with nextBad := true })).bump F.BEAT_HELD_COUNT).beat = { s.beat with nextBad := true } := by
    rw [Hw.bump_beat, ← ht.beat]
    rfl
  have hevent := Hw.mem_waiting_raise (s := (t.modBeat (fun b => { b with nextBad := true })).bump F.BEAT_HELD_COUNT)
    (by rw [EventRoom, Hw.bump_host]; exact hroom) 0x1024 i off beatWho
  cases dross with
  | true =>
    refine ⟨by rw [← hbeat]; exact (Hw.raise_beat _ _ _ _ _).trans (Hw.raise_beat _ _ _ _ _), ?_, _,
      Hw.raise_waiting_subset _ _ _ _ _ hevent, rfl, rfl, rfl⟩
    exact (Hw.rd_raise _ _ _ _ _ _ _ (by decide)).trans ((Hw.rd_raise _ _ _ _ _ _ _ (by decide)).trans hcount)
  | false =>
    exact ⟨by rw [← hbeat]; exact Hw.raise_beat _ _ _ _ _, (Hw.rd_raise _ _ _ _ _ _ _ (by decide)).trans hcount, _, hevent, rfl, rfl, rfl⟩

section Fetched

variable {s : Hw} {i off : Nat} {r : Hw × Entry × Option Nat × Bool}

theorem Hw.planFetched_valid (hrun : s.running = true) (hlen : s.planLen ≠ 0) (hnext : s.beat.next = none) (hbad : s.beat.nextBad = false)
    (hi : i = (s.fget F.BEAT_ENTRY_INDEX + 1) % s.planLen) (hr : r = s.fetchEntry s.planBase i) (hok : r.2.2.1 = none) :
    s.planFetched = r.1.modBeat (fun b => { b with next := some r.2.1 }) := by
  unfold Hw.planFetched
  rw [if_neg (by simp [hrun, hlen, hnext, hbad])]
  simp only [← hi, ← hr, hok]

theorem Hw.planFetched_invalid (hrun : s.running = true) (hlen : s.planLen ≠ 0) (hnext : s.beat.next = none) (hbad : s.beat.nextBad = false)
    (hi : i = (s.fget F.BEAT_ENTRY_INDEX + 1) % s.planLen) (hr : r = s.fetchEntry s.planBase i) (hoff : r.2.2.1 = some off) :
    s.planFetched = r.1.holdEntry i off s.planBase r.2.2.2 := by
  unfold Hw.planFetched
  rw [if_neg (by simp [hrun, hlen, hnext, hbad])]
  simp only [← hi, ← hr, hoff, Hw.holdEntry]

end Fetched

/-! ### Ending a switch -/

theorem Hw.endSwitch_beat (s : Hw) (result : Nat) :
    (s.endSwitch result).beat = { s.beat with pendingGo := none, start := none, switchAt := 0 } := rfl

theorem Hw.endSwitch_host (s : Hw) (result : Nat) : (s.endSwitch result).host = s.host := rfl

theorem Hw.endSwitch_result (s : Hw) {result : Nat} (h : result < 8) : (s.endSwitch result).fget F.BEAT_PLAN_NEXT_RESULT = result := by
  unfold Hw.endSwitch
  rw [Hw.fget_fset_self _ F.BEAT_PLAN_NEXT_RESULT]
  exact Nat.mod_eq_of_lt h

theorem Hw.endSwitch_go (s : Hw) (result : Nat) : (s.endSwitch result).flag F.BEAT_PLAN_NEXT_GO = false := by
  unfold Hw.endSwitch
  rw [Hw.flag_fset_apart _ _ _ _ _ _ (by decide) (by decide), Hw.flag, Hw.fget_fset_self _ F.BEAT_PLAN_NEXT_GO]
  rfl

theorem Hw.endSwitch_regs (s : Hw) (result : Nat) : RegsKept [.BEAT_PLAN_NEXT] s (s.endSwitch result) :=
  ((RegsKept.of_regs rfl).fset F.BEAT_PLAN_NEXT_GO 0 0 (by decide)).fset F.BEAT_PLAN_NEXT_RESULT result 0 (by decide)

/-- R50, R51: a refused switch is pending no more, with its RESULT. -/
theorem Hw.refuseSwitch_ends (s : Hw) {result : Nat} (h : result < 8) (off : Nat) :
    (s.refuseSwitch result off).fget F.BEAT_PLAN_NEXT_RESULT = result ∧ (s.refuseSwitch result off).flag F.BEAT_PLAN_NEXT_GO = false ∧
    (s.refuseSwitch result off).beat.pendingGo = none := by
  refine ⟨?_, ?_, ?_⟩
  · rw [Hw.refuseSwitch, Hw.fget_raise _ _ _ _ _ F.BEAT_PLAN_NEXT_RESULT, Hw.endSwitch_result s h]
  · rw [Hw.refuseSwitch, Hw.flag_raise _ _ _ _ _ F.BEAT_PLAN_NEXT_GO, Hw.endSwitch_go]
  · rw [Hw.refuseSwitch, Hw.raise_beat, Hw.endSwitch_beat]

theorem Hw.refuseSwitch_raises {s : Hw} (h : EventRoom s) (result off : Nat) : Raises s (s.refuseSwitch result off) 0x1021 result off :=
  .of_raise h (by rw [Hw.endSwitch_host]) _ _ _ _

/-! ### GO and CANCEL -/

theorem Hw.planGo_ignored {s : Hw} (h : s.regsLive = false ∨ s.flag F.BEAT_PLAN_NEXT_GO = true) : s.planGo = s := by
  unfold Hw.planGo
  rw [if_pos]
  rcases h with h | h <;> simp [h]

theorem Hw.planGo_unmapped {s : Hw} (hlive : s.regsLive = true) (hgo : s.flag F.BEAT_PLAN_NEXT_GO = false) (hcap : s.capacity = 0) :
    s.planGo = s.raise 0x8053 0x4_002C 0 beatWho := by
  unfold Hw.planGo
  rw [if_neg (by simp [hlive, hgo]), if_pos hcap]

theorem Hw.planGo_refused {s : Hw} (hlive : s.regsLive = true) (hgo : s.flag F.BEAT_PLAN_NEXT_GO = false) (hcap : s.capacity ≠ 0)
    (hr : s.goRefusal ≠ 0) : s.planGo = s.refuseSwitch s.goRefusal 0xFFFF := by
  unfold Hw.planGo
  rw [if_neg (by simp [hlive, hgo]), if_neg hcap]
  exact if_pos hr

theorem Hw.planGo_pending {s : Hw} (hlive : s.regsLive = true) (hgo : s.flag F.BEAT_PLAN_NEXT_GO = false) (hcap : s.capacity ≠ 0)
    (hr : s.goRefusal = 0) : s.planGo = (s.fset F.BEAT_PLAN_NEXT_GO 1).modBeat (fun b => { b with
      pendingGo := some s.test.moved, start := none, switchAt := s.rd64 .BEAT_NEXT_AT_LO .BEAT_NEXT_AT_HI }) := by
  unfold Hw.planGo
  rw [if_neg (by simp [hlive, hgo]), if_neg hcap]
  exact if_neg (by simp [hr])

theorem Hw.goRefusal_invalid {s : Hw} (h : s.fget F.BEAT_NEXT_LEN_LEN = 0 ∨ 4096 < s.fget F.BEAT_NEXT_LEN_LEN ∨
    s.fget F.BEAT_NEXT_LEN_LEN ≤ s.fget F.BEAT_NEXT_LEN_START ∨ (s.level = 1 ∧ s.rd64 .BEAT_NEXT_AT_LO .BEAT_NEXT_AT_HI ≠ 0)) :
    s.goRefusal = 2 := by
  unfold Hw.goRefusal
  exact if_pos (by simpa [or_assoc] using h)

/-- R51: the registers name a plan, and a beat only in FULL service. -/
theorem Hw.goRefusal_valid {s : Hw} (hpos : 0 < s.fget F.BEAT_NEXT_LEN_LEN) (hlen : s.fget F.BEAT_NEXT_LEN_LEN ≤ 4096)
    (hstart : s.fget F.BEAT_NEXT_LEN_START < s.fget F.BEAT_NEXT_LEN_LEN)
    (hwarm : s.level = 1 → s.rd64 .BEAT_NEXT_AT_LO .BEAT_NEXT_AT_HI = 0) :
    s.goRefusal = if s.rd64 .BEAT_NEXT_AT_LO .BEAT_NEXT_AT_HI ≠ 0 ∧ s.cyclesTo (s.rd64 .BEAT_NEXT_AT_LO .BEAT_NEXT_AT_HI) < 8192 then 3
      else 0 := by
  unfold Hw.goRefusal
  have hvalid : ¬ (s.fget F.BEAT_NEXT_LEN_LEN = 0 ∨ 4096 < s.fget F.BEAT_NEXT_LEN_LEN ∨
      s.fget F.BEAT_NEXT_LEN_LEN ≤ s.fget F.BEAT_NEXT_LEN_START ∨ (s.level = 1 ∧ s.rd64 .BEAT_NEXT_AT_LO .BEAT_NEXT_AT_HI ≠ 0)) := by
    rintro (h | h | h | ⟨h, hat⟩)
    · omega
    · omega
    · omega
    · exact hat (hwarm h)
  simp only
  rw [if_neg (by simpa [or_assoc] using hvalid)]
  simp

theorem Hw.planCancel_ends {s : Hw} (hlive : s.regsLive = true) (hgo : s.beat.pendingGo.isSome = true)
    (h : s.beat.edge.step ≤ 3 ∨ s.beat.edge.sw = false) : s.planCancel = s.endSwitch 4 := by
  unfold Hw.planCancel
  rw [if_neg (by simp [hlive, Option.isSome_iff_ne_none.mp hgo]), if_neg]
  rcases h with h | h
  · simp [Nat.not_lt.mpr h]
  · simp [h]

theorem Hw.planCancel_late {s : Hw} (hlive : s.regsLive = true) (hgo : s.beat.pendingGo.isSome = true) (hstep : 3 < s.beat.edge.step)
    (hsw : s.beat.edge.sw = true) : s.planCancel = s.raise 0x1023 s.beatNo 0 beatWho := by
  unfold Hw.planCancel
  rw [if_neg (by simp [hlive, Option.isSome_iff_ne_none.mp hgo]), if_pos (by simp [hstep, hsw])]

/-! ### The start entry -/

/-- R50: the start entry fails: the request is refused, with event 0x4003 after that where dross was met. -/
def Hw.refuseStart (t : Hw) (i off base : Nat) (dross : Bool) : Hw :=
  let t1 := t.refuseSwitch 2 off
  if dross then t1.raise 0x4003 i base beatWho else t1

theorem Hw.refuseStart_ends {t : Hw} {i off base : Nat} (dross : Bool) (hroom : EventRoom t) :
    (t.refuseStart i off base dross).fget F.BEAT_PLAN_NEXT_RESULT = 2 ∧ (t.refuseStart i off base dross).flag F.BEAT_PLAN_NEXT_GO = false ∧
    (t.refuseStart i off base dross).beat.pendingGo = none ∧
    ∃ e ∈ (t.refuseStart i off base dross).host.waiting, e.code = 0x1021 ∧ e.arg0 = 2 ∧ e.arg1 = off % 2 ^ 32 := by
  obtain ⟨hresult, hgo, hpending⟩ := t.refuseSwitch_ends (show 2 < 8 by decide) off
  have hevent := Hw.mem_waiting_raise (s := t.endSwitch 2) (by rw [EventRoom, Hw.endSwitch_host]; exact hroom) 0x1021 2 off beatWho
  cases dross with
  | true =>
    exact ⟨(Hw.fget_raise _ _ _ _ _ F.BEAT_PLAN_NEXT_RESULT 0).trans hresult, (Hw.flag_raise _ _ _ _ _ F.BEAT_PLAN_NEXT_GO 0).trans hgo,
      by rw [← hpending]; exact congrArg (·.pendingGo) (Hw.raise_beat _ _ _ _ _), _, Hw.raise_waiting_subset _ _ _ _ _ hevent, rfl, rfl, rfl⟩
  | false => exact ⟨hresult, hgo, hpending, _, hevent, rfl, rfl, rfl⟩

section Fetched

variable {s : Hw} {i off : Nat} {r : Hw × Entry × Option Nat × Bool}

theorem Hw.startFetched_valid (hgo : s.beat.pendingGo.isSome = true) (hstart : s.beat.start = none) (hintime : s.switchTooLate = false)
    (hr : r = s.fetchEntry s.nextBase (s.fget F.BEAT_NEXT_LEN_START)) (hok : r.2.2.1 = none) :
    s.startFetched = r.1.modBeat (fun b => { b with start := some r.2.1 }) := by
  unfold Hw.startFetched
  rw [if_neg (by simp [Option.isSome_iff_ne_none.mp hgo, hstart]), if_neg (by simp [hintime])]
  simp only [← hr, hok]

theorem Hw.startFetched_invalid (hgo : s.beat.pendingGo.isSome = true) (hstart : s.beat.start = none) (hintime : s.switchTooLate = false)
    (hr : r = s.fetchEntry s.nextBase (s.fget F.BEAT_NEXT_LEN_START)) (hoff : r.2.2.1 = some off) :
    s.startFetched = r.1.refuseStart (s.fget F.BEAT_NEXT_LEN_START) off s.nextBase r.2.2.2 := by
  unfold Hw.startFetched
  rw [if_neg (by simp [Option.isSome_iff_ne_none.mp hgo, hstart]), if_neg (by simp [hintime])]
  simp only [← hr, hoff, Hw.refuseStart]

end Fetched

theorem Hw.startFetched_late {s : Hw} (hgo : s.beat.pendingGo.isSome = true) (hstart : s.beat.start = none)
    (hlate : s.switchTooLate = true) : s.startFetched = s.refuseSwitch 3 0xFFFF := by
  unfold Hw.startFetched
  rw [if_neg (by simp [Option.isSome_iff_ne_none.mp hgo, hstart]), if_pos hlate]

theorem Hw.switchLate_late {s : Hw} (hgo : s.beat.pendingGo.isSome = true) (hstart : s.beat.start = none)
    (hlate : s.switchTooLate = true) : s.switchLate = s.refuseSwitch 3 0xFFFF := by
  unfold Hw.switchLate
  rw [if_pos (by simp [hgo, hstart, hlate])]

/-! ### O39 -/

theorem exec_planEntryFetched (s : State) : exec .planEntryFetched s = s.onHw Hw.planFetched := rfl
theorem exec_planNextGo (s : State) : exec .planNextGo s = s.onHw Hw.planGo := rfl
theorem exec_planNextCancel (s : State) : exec .planNextCancel s = s.onHw Hw.planCancel := rfl
theorem exec_planStartEntryValidated (s : State) : exec .planStartEntryValidated s = s.onHw Hw.startFetched := rfl
theorem exec_planSwitchLate (s : State) : exec .planSwitchLate s = s.onHw Hw.switchLate := rfl

/-- R50: GO where nothing refuses it. -/
theorem Hw.planGo_sets {s : Hw} (hlive : s.regsLive = true) (hgo : s.flag F.BEAT_PLAN_NEXT_GO = false) (hcap : s.capacity ≠ 0)
    (hr : s.goRefusal = 0) : s.planGo.flag F.BEAT_PLAN_NEXT_GO = true ∧ RegsKept [.BEAT_PLAN_NEXT] s s.planGo ∧
      s.planGo.beat = { s.beat with pendingGo := some s.test.moved, start := none, switchAt := s.rd64 .BEAT_NEXT_AT_LO .BEAT_NEXT_AT_HI } := by
  rw [Hw.planGo_pending hlive hgo hcap hr]
  refine ⟨?_, ((RegsKept.refl _ s).fset F.BEAT_PLAN_NEXT_GO 1 0 (by decide)).trans (.of_regs rfl), rfl⟩
  show (s.fset F.BEAT_PLAN_NEXT_GO 1).flag F.BEAT_PLAN_NEXT_GO = true
  rw [Hw.flag, Hw.fget_fset_self _ F.BEAT_PLAN_NEXT_GO]
  rfl

/-- Settles O39, by the fates of a fetched entry and of a switch request. -/
theorem planCommands : Obligations.PlanCommands := by
  unfold Obligations.PlanCommands
  intro s
  refine ⟨fun h => ?_, fun i r hrun hlen hnext hbad hi hr => ⟨fun hok => ?_, fun off hoff hroom => ?_⟩, fun len at_ hlen hat =>
    ⟨fun h => ?_, fun hlive hgo hcap hroom => ?_, fun hlive hgo hcap => ⟨fun h hroom => ?_, fun hpos hmax hstart hwarm =>
      ⟨fun hnamed hlate hroom => ?_, fun hintime => ?_⟩⟩⟩, fun hlive hgo => ⟨fun h => ?_, fun hstep hsw hroom => ?_⟩,
    fun r hgo hstart hr => ⟨fun hintime hok => ?_, fun off hintime hoff hroom => ?_, fun hnamed hlate hroom c hc => ?_⟩⟩
  · exact .of_onHw _ (exec_planEntryFetched s) (Hw.planFetched_idle h)
  · refine .of_onHw _ (exec_planEntryFetched s) ?_
    have hwork : MemWork s.hw r.1 := hr ▸ .of_fetchEntry _ _ _
    rw [Hw.planFetched_valid hrun hlen hnext hbad hi hr hok, ← hwork.beat]
    rfl
  · refine .of_onHw _ (exec_planEntryFetched s) ?_
    rw [Hw.planFetched_invalid hrun hlen hnext hbad hi hr hoff]
    exact Hw.holdEntry_holds _ (hr ▸ .of_fetchEntry _ _ _) hroom
  · exact .of_onHw _ (exec_planNextGo s) (Hw.planGo_ignored h)
  · refine .of_onHw _ (exec_planNextGo s) ?_
    rw [Hw.planGo_unmapped hlive hgo hcap]
    exact ⟨.of_raise hroom rfl _ _ _ _, Hw.raise_beat _ _ _ _ _, RegsKeptEv.raise (.refl _ _) _ _ _ _⟩
  · refine .of_onHw _ (exec_planNextGo s) ?_
    have href : s.hw.goRefusal = 2 := Hw.goRefusal_invalid (by rw [← hlen, ← hat]; exact h)
    rw [Hw.planGo_refused hlive hgo hcap (by rw [href]; decide), href]
    obtain ⟨hresult, -, hpending⟩ := s.hw.refuseSwitch_ends (show 2 < 8 by decide) 0xFFFF
    exact ⟨hresult, hpending, Hw.refuseSwitch_raises hroom _ _⟩
  · rw [hlen] at hpos hmax hstart
    rw [hat] at hwarm hnamed hlate
    refine .of_onHw _ (exec_planNextGo s) ?_
    have href : s.hw.goRefusal = 3 := (Hw.goRefusal_valid hpos hmax hstart hwarm).trans (if_pos ⟨hnamed, hlate⟩)
    rw [Hw.planGo_refused hlive hgo hcap (by rw [href]; decide), href]
    obtain ⟨hresult, -, hpending⟩ := s.hw.refuseSwitch_ends (show 3 < 8 by decide) 0xFFFF
    exact ⟨hresult, hpending, Hw.refuseSwitch_raises hroom _ _⟩
  · rw [hlen] at hpos hmax hstart
    rw [hat] at hwarm hintime ⊢
    have href : s.hw.goRefusal = 0 :=
      (Hw.goRefusal_valid hpos hmax hstart hwarm).trans (if_neg (fun h => absurd h.2 (Int.not_lt.mpr (hintime h.1))))
    exact .of_onHw _ (exec_planNextGo s) (Hw.planGo_sets hlive hgo hcap href)
  · refine .of_onHw _ (exec_planNextCancel s) ?_
    rw [Hw.planCancel_ends hlive hgo h]
    exact ⟨rfl, Hw.endSwitch_go _ _, Hw.endSwitch_result _ (by decide), Hw.endSwitch_regs _ _⟩
  · refine .of_onHw _ (exec_planNextCancel s) ?_
    rw [Hw.planCancel_late hlive hgo hstep hsw]
    exact ⟨.of_raise hroom rfl _ _ _ _, Hw.raise_beat _ _ _ _ _, RegsKeptEv.raise (.refl _ _) _ _ _ _⟩
  · refine .of_onHw _ (exec_planStartEntryValidated s) ?_
    have hwork : MemWork s.hw r.1 := hr ▸ .of_fetchEntry _ _ _
    rw [Hw.startFetched_valid hgo hstart hintime hr hok, ← hwork.beat]
    rfl
  · refine .of_onHw _ (exec_planStartEntryValidated s) ?_
    rw [Hw.startFetched_invalid hgo hstart hintime hr hoff]
    exact Hw.refuseStart_ends _ hroom
  · have hlate' : s.hw.switchTooLate = true := by simp [Hw.switchTooLate, hnamed, hlate]
    obtain ⟨hresult, hgone, hpending⟩ := s.hw.refuseSwitch_ends (show 3 < 8 by decide) 0xFFFF
    have hends := And.intro hresult (And.intro hgone (And.intro hpending (Hw.refuseSwitch_raises hroom 3 0xFFFF)))
    rcases List.mem_pair.mp hc with rfl | rfl
    · exact .of_onHw _ (exec_planStartEntryValidated s) (by rw [Hw.startFetched_late hgo hstart hlate']; exact hends)
    · exact .of_onHw _ (exec_planSwitchLate s) (by rw [Hw.switchLate_late hgo hstart hlate']; exact hends)

end Sys2Proof.Machine
end

section
/-!
PROOFS. Beat groups (R67 to R73): what a marker does to the beat controller, and how a member loses its markers.
-/
namespace Sys2Proof.Machine

/-! ### Records taken from and put on links -/

/-- Besides links nothing differs. -/
def LinksOnly (s t : Hw) : Prop := t = { s with links := t.links }

namespace LinksOnly

theorem refl (s : Hw) : LinksOnly s s := rfl

theorem trans {s t v : Hw} (h : LinksOnly s t) (h' : LinksOnly t v) : LinksOnly s v := by
  unfold LinksOnly at *
  rw [h', h]

theorem foldl {α : Type} (f : Hw → α → Hw) (hf : ∀ s a, LinksOnly s (f s a)) (l : List α) : ∀ s : Hw, LinksOnly s (l.foldl f s) := by
  induction l with
  | nil => exact refl
  | cons a l ih => exact fun s => (hf s a).trans (ih _)

theorem of_setLink (s : Hw) (l : Nat) (x : Link) : LinksOnly s (s.setLink l x) := rfl

theorem of_sendRecord (s : Hw) (l : Nat) (r : BitVec 128) : LinksOnly s (s.sendRecord l r) := rfl

theorem of_takeRecord (s : Hw) (l type : Nat) : LinksOnly s (s.takeRecord l type) := by
  unfold Hw.takeRecord
  simp only
  split
  · exact of_setLink _ _ _
  · exact refl s

variable {s t : Hw}

theorem regs (h : LinksOnly s t) : t.regs = s.regs := by rw [h]
theorem beat (h : LinksOnly s t) : t.beat = s.beat := by rw [h]
theorem host (h : LinksOnly s t) : t.host = s.host := by rw [h]
theorem boot (h : LinksOnly s t) : t.boot = s.boot := by rw [h]

theorem rd (h : LinksOnly s t) (r : Reg) (u : Nat) : t.rd r u = s.rd r u := Hw.rd_congr h.regs r u
theorem fget (h : LinksOnly s t) (f : Fld) (u : Nat) : t.fget f u = s.fget f u := Hw.fget_congr h.regs f u
theorem flag (h : LinksOnly s t) (f : Fld) (u : Nat) : t.flag f u = s.flag f u := Hw.flag_congr h.regs f u

end LinksOnly

theorem Hw.flag_fset_self (s : Hw) (f : Fld) (x u : Nat) (h : f.ok = true := by decide) :
    (s.fset f x u).flag f u = (x % 2 ^ f.width == 1) := by
  unfold Hw.flag
  rw [Hw.fget_fset_self s f x u h]

/-! ### What a marker does -/

/-- A marker is heard: whether it came on the primary link, and whether the module must step down for its master. -/
def Hw.hearMarker (s : Hw) (prim down : Bool) (master : Nat) : Hw :=
  (if down then s.stepDown else s).modBeat (fun b => { b with
    gotPrimary := b.gotPrimary || prim, gotAny := true, gotMaster := b.gotMaster || master == s.fget F.BEAT_GROUP_MASTER })

/-- A marker on the primary link brings the module back to it. -/
def Hw.backToPrimary (s : Hw) (prim : Bool) : Hw :=
  if prim && s.flag F.BEAT_UPLINK_ON_SECONDARY then s.fset F.BEAT_UPLINK_ON_SECONDARY 0 else s

/-- The phase, the number and the master of a marker are taken; s is the state in which it arrived. -/
def Hw.takePhase (s2 s : Hw) (l master offset beat : Nat) : Hw :=
  (s2.modBeat (fun b => { b with
    phase := some (s.phaseError l offset), marker := some (beat, master, l), gotMaster := true,
    cycle := if b.joining && b.marker.isNone then min (s.delayCycles (s.fget F.LNK_DELAY_CYCLES l) + offset) s.windowEnd.toNat else b.cycle,
    rejoining := b.rejoining || b.outside })).fset F.BEAT_GROUP_MASTER master

/-- A grouped member passes a marker on to the links that it does not come from. -/
def Hw.passMarker (s : Hw) (master beat : Nat) : Hw :=
  if s.level = 2 && s.flag F.BEAT_STATUS_GROUPED then
    (s.admittedLinks.filter (fun k => k != s.fget F.BEAT_UPLINK_PRIMARY && k != s.fget F.BEAT_UPLINK_SECONDARY)).foldl
      (fun s k => s.sendRecord k (s.markerRec master beat)) s
  else s

/-- A marker of the module's group and length, from its master or the backup, on one of its two links. -/
def Hw.acceptMarker (s : Hw) (prim down : Bool) (l master offset beat : Nat) : Hw :=
  let s2 := (s.hearMarker prim down master).backToPrimary prim
  if !(prim || s2.flag F.BEAT_UPLINK_ON_SECONDARY || !s2.flag F.BEAT_STATUS_GROUPED) then s2
  else ((s2.takePhase s l master offset beat).depthFrom l master).passMarker master beat

variable {s : Hw} {l group master log2 offset beat : Nat}

/-- A marker that arrives where beats run and that is of the module's group and beat length. -/
def Hw.ownMarker (s : Hw) (group log2 : Nat) : Prop :=
  s.fget F.BEAT_GROUP_GROUP_ID ≠ 0xFFF ∧ group = s.fget F.BEAT_GROUP_GROUP_ID ∧ log2 = s.fget F.BEAT_LEN_LOG2

theorem Hw.beatMarker_eq (hrun : (s.takeRecord l 1).running = true) (hown : (s.takeRecord l 1).ownMarker group log2) :
    s.beatMarker l group master log2 offset beat =
      let t := s.takeRecord l 1
      let prim := l == t.fget F.BEAT_UPLINK_PRIMARY
      let down := t.flag F.BEAT_STATUS_MASTER && t.me == t.beat.master && master == t.beat.backup && master != t.me
      if (t.flag F.BEAT_STATUS_MASTER && !down) || !(prim || l == t.fget F.BEAT_UPLINK_SECONDARY) ||
        !(master == t.beat.master || master == t.beat.backup) then t
      else t.acceptMarker prim down l master offset beat := by
  obtain ⟨hid, hgroup, hlog2⟩ := hown
  unfold Hw.beatMarker
  generalize s.takeRecord l 1 = t at *
  rw [if_neg (by simp [hrun]), if_neg (by simp [hid, hgroup, hlog2])]
  rfl

theorem Hw.beatMarker_foreign (hrun : (s.takeRecord l 1).running = true) (hforeign : ¬ (s.takeRecord l 1).ownMarker group log2) :
    s.beatMarker l group master log2 offset beat = (s.takeRecord l 1).raise 0x1044 l group { kind := 3, unit := l } := by
  unfold Hw.beatMarker
  generalize s.takeRecord l 1 = t at *
  rw [if_neg (by simp [hrun]), if_pos]
  simp only [Hw.ownMarker] at hforeign
  simp only [Bool.or_eq_true, decide_eq_true_eq]
  tauto

/-! ### What the parts of taking a marker change -/

theorem Hw.passMarker_linksOnly (s : Hw) (master beat : Nat) : LinksOnly s (s.passMarker master beat) := by
  unfold Hw.passMarker
  split
  · exact .foldl _ (fun s k => .of_sendRecord s k _) _ s
  · exact .refl s

theorem Hw.depthFrom_beat (s : Hw) (l master : Nat) : (s.depthFrom l master).beat = s.beat := by
  unfold Hw.depthFrom
  split
  · exact Hw.fset_beat _ _ _ _
  · split
    · rfl
    · exact Hw.fset_beat _ _ _ _

theorem Hw.depthFrom_fget (s : Hw) (l master : Nat) (f : Fld) (u : Nat) (hf : F.BEAT_GROUP_DEPTH.apart f = true := by decide) :
    (s.depthFrom l master).fget f u = s.fget f u := by
  unfold Hw.depthFrom
  split
  · exact Hw.fget_fset_apart _ _ _ _ _ _ (by decide) hf
  · split
    · rfl
    · exact Hw.fget_fset_apart _ _ _ _ _ _ (by decide) hf

theorem Hw.depthFrom_peer {s : Hw} {l master : Nat} (hvalid : s.flag F.LNK_LSTATE_PEER_VALID l = true)
    (hpeer : s.fget F.LNK_LSTATE_PEER l = master) : (s.depthFrom l master).fget F.BEAT_GROUP_DEPTH = 1 := by
  unfold Hw.depthFrom
  rw [if_pos (by simp [hvalid, hpeer]), Hw.fget_fset_self _ F.BEAT_GROUP_DEPTH]
  rfl

theorem Hw.takePhase_fget (s2 s : Hw) (l master offset beat : Nat) (f : Fld) (u : Nat)
    (hf : F.BEAT_GROUP_MASTER.apart f = true := by decide) : (s2.takePhase s l master offset beat).fget f u = s2.fget f u :=
  Hw.fget_fset_apart _ _ _ _ _ _ (by decide) hf

theorem Hw.takePhase_master (s2 s : Hw) {l master offset beat : Nat} (h : master < 2 ^ 12) :
    (s2.takePhase s l master offset beat).fget F.BEAT_GROUP_MASTER = master := by
  unfold Hw.takePhase
  rw [Hw.fget_fset_self _ F.BEAT_GROUP_MASTER]
  exact Nat.mod_eq_of_lt h

theorem Hw.backToPrimary_beat (s : Hw) (prim : Bool) : (s.backToPrimary prim).beat = s.beat := by
  unfold Hw.backToPrimary
  split
  · exact Hw.fset_beat _ _ _ _
  · rfl

theorem Hw.backToPrimary_fget (s : Hw) (prim : Bool) (f : Fld) (u : Nat) (hf : F.BEAT_UPLINK_ON_SECONDARY.apart f = true := by decide) :
    (s.backToPrimary prim).fget f u = s.fget f u := by
  unfold Hw.backToPrimary
  split
  · exact Hw.fget_fset_apart _ _ _ _ _ _ (by decide) hf
  · rfl

theorem Hw.backToPrimary_primary (s : Hw) : (s.backToPrimary true).flag F.BEAT_UPLINK_ON_SECONDARY = false := by
  unfold Hw.backToPrimary
  cases h : s.flag F.BEAT_UPLINK_ON_SECONDARY with
  | true =>
    rw [if_pos (by simp), Hw.flag_fset_self _ F.BEAT_UPLINK_ON_SECONDARY]
    rfl
  | false => rw [if_neg (by simp), h]

theorem Hw.hearMarker_regs (s : Hw) (prim : Bool) (master : Nat) : (s.hearMarker prim false master).regs = s.regs := rfl

/-! ### A marker on the primary link -/

theorem Hw.acceptMarker_primary (s : Hw) (down : Bool) (l master offset beat : Nat) :
    s.acceptMarker true down l master offset beat =
      ((((s.hearMarker true down master).backToPrimary true).takePhase s l master offset beat).depthFrom l master).passMarker master beat := by
  unfold Hw.acceptMarker
  simp

theorem Hw.acceptMarker_primary_beat (s : Hw) (down : Bool) (l master offset beat : Nat) :
    (s.acceptMarker true down l master offset beat).beat =
      (((s.hearMarker true down master).backToPrimary true).takePhase s l master offset beat).beat := by
  rw [Hw.acceptMarker_primary, (Hw.passMarker_linksOnly _ _ _).beat, Hw.depthFrom_beat]

theorem Hw.acceptMarker_primary_fget (s : Hw) (down : Bool) (l master offset beat : Nat) (f : Fld) (u : Nat)
    (hf : F.BEAT_GROUP_DEPTH.apart f = true := by decide) : (s.acceptMarker true down l master offset beat).fget f u =
      (((s.hearMarker true down master).backToPrimary true).takePhase s l master offset beat).fget f u := by
  rw [Hw.acceptMarker_primary, (Hw.passMarker_linksOnly _ _ _).fget _ _, Hw.depthFrom_fget _ _ _ _ _ hf]

/-- R68, R71: the phase, the number and the master are the marker's, and the module is on its primary link. -/
theorem Hw.acceptMarker_primary_takes (s : Hw) (down : Bool) (l master offset beat : Nat) (hm : master < 2 ^ 12) :
    (s.acceptMarker true down l master offset beat).beat.phase = some (s.phaseError l offset) ∧
    (s.acceptMarker true down l master offset beat).beat.marker = some (beat, master, l) ∧
    (s.acceptMarker true down l master offset beat).beat.gotPrimary = true ∧
    (s.acceptMarker true down l master offset beat).beat.gotAny = true ∧
    (s.acceptMarker true down l master offset beat).beat.gotMaster = true ∧
    (s.acceptMarker true down l master offset beat).fget F.BEAT_GROUP_MASTER = master ∧
    (s.acceptMarker true down l master offset beat).flag F.BEAT_UPLINK_ON_SECONDARY = false := by
  rw [Hw.acceptMarker_primary_beat, Hw.acceptMarker_primary_fget _ _ _ _ _ _ F.BEAT_GROUP_MASTER, Hw.takePhase_master _ _ hm]
  refine ⟨rfl, rfl, ?_, ?_, rfl, rfl, ?_⟩
  · show ((s.hearMarker true down master).backToPrimary true).beat.gotPrimary = true
    rw [Hw.backToPrimary_beat]
    exact Bool.or_true _
  · show ((s.hearMarker true down master).backToPrimary true).beat.gotAny = true
    rw [Hw.backToPrimary_beat]
    rfl
  · rw [Hw.flag, Hw.acceptMarker_primary_fget _ _ _ _ _ _ F.BEAT_UPLINK_ON_SECONDARY,
      Hw.takePhase_fget _ _ _ _ _ _ F.BEAT_UPLINK_ON_SECONDARY]
    exact Hw.backToPrimary_primary _

/-- R67: a member behind the master itself is at depth 1. -/
theorem Hw.acceptMarker_primary_depth {s : Hw} {l master : Nat} (offset beat : Nat) (hvalid : s.flag F.LNK_LSTATE_PEER_VALID l = true)
    (hpeer : s.fget F.LNK_LSTATE_PEER l = master) :
    (s.acceptMarker true false l master offset beat).fget F.BEAT_GROUP_DEPTH = 1 := by
  have hsame : ∀ f : Fld, F.BEAT_GROUP_MASTER.apart f = true → F.BEAT_UPLINK_ON_SECONDARY.apart f = true →
      (((s.hearMarker true false master).backToPrimary true).takePhase s l master offset beat).fget f l = s.fget f l := fun f h h' => by
    rw [Hw.takePhase_fget _ _ _ _ _ _ f _ h, Hw.backToPrimary_fget _ _ f _ h', Hw.fget_congr (s.hearMarker_regs true master)]
  rw [Hw.acceptMarker_primary, (Hw.passMarker_linksOnly _ _ _).fget _ _]
  refine Hw.depthFrom_peer ?_ ?_
  · rw [Hw.flag, hsame F.LNK_LSTATE_PEER_VALID (by decide) (by decide)]
    exact hvalid
  · rw [hsame F.LNK_LSTATE_PEER (by decide) (by decide), hpeer]

/-- R73: a master that hears its backup on the primary link is master no more. -/
theorem Hw.acceptMarker_primary_stepsDown (s : Hw) (l master offset beat : Nat) :
    (s.acceptMarker true true l master offset beat).flag F.BEAT_STATUS_MASTER = false ∧
    (s.acceptMarker true true l master offset beat).flag F.BEAT_STATUS_GROUPED = false ∧
    (s.acceptMarker true true l master offset beat).beat.outside = true ∧
    (s.acceptMarker true true l master offset beat).beat.rejoining = true := by
  have hflag : ∀ f : Fld, F.BEAT_GROUP_DEPTH.apart f = true → F.BEAT_GROUP_MASTER.apart f = true →
      F.BEAT_UPLINK_ON_SECONDARY.apart f = true → (s.acceptMarker true true l master offset beat).flag f = s.stepDown.flag f :=
    fun f h h' h'' => by
      rw [Hw.flag, Hw.acceptMarker_primary_fget _ _ _ _ _ _ f _ h, Hw.takePhase_fget _ _ _ _ _ _ f _ h', Hw.backToPrimary_fget _ _ f _ h'']
      rfl
  refine ⟨?_, ?_, ?_, ?_⟩
  · rw [hflag F.BEAT_STATUS_MASTER (by decide) (by decide) (by decide), Hw.stepDown,
      Hw.flag_fset_apart _ _ F.BEAT_STATUS_MASTER _ _ _ (by decide) (by decide), Hw.flag_fset_self _ F.BEAT_STATUS_MASTER]
    rfl
  · rw [hflag F.BEAT_STATUS_GROUPED (by decide) (by decide) (by decide), Hw.stepDown, Hw.flag_fset_self _ F.BEAT_STATUS_GROUPED]
    rfl
  · rw [Hw.acceptMarker_primary_beat]
    show ((s.hearMarker true true master).backToPrimary true).beat.outside = true
    rw [Hw.backToPrimary_beat]
    rfl
  · rw [Hw.acceptMarker_primary_beat]
    show (((s.hearMarker true true master).backToPrimary true).beat.rejoining || _) = true
    rw [Hw.backToPrimary_beat]
    rfl

/-! ### A marker on the secondary link of a member that is on its primary -/

theorem Hw.acceptMarker_secondary {s : Hw} (l master offset beat : Nat) (hon : s.flag F.BEAT_UPLINK_ON_SECONDARY = false)
    (hgrouped : s.flag F.BEAT_STATUS_GROUPED = true) :
    s.acceptMarker false false l master offset beat = s.hearMarker false false master := by
  unfold Hw.acceptMarker
  simp only [Hw.backToPrimary, Bool.false_and, Bool.false_eq_true, if_false, Hw.flag_congr (s.hearMarker_regs false master),
    hon, hgrouped, Bool.not_true, Bool.or_false, Bool.not_false, if_true]

/-! ### Losing the markers -/

theorem Hw.primaryLoss_early {s : Hw} (h : s.beat.missPrimary < 4) : s.primaryLoss = s := by
  unfold Hw.primaryLoss
  rw [if_neg (by simp [Nat.not_le.mpr h])]

theorem Hw.leaveGroup_early {s : Hw} (h : s.beat.missAny < s.fget F.BEAT_HOLDOVER_BEATS) : s.leaveGroup = s := by
  unfold Hw.leaveGroup
  rw [if_neg (by simp [Nat.not_le.mpr h])]

theorem Hw.takeOver_early {s : Hw} (h : s.beat.missMaster < 8 ∨ s.beat.backup ≠ s.me) : s.takeOver = s := by
  unfold Hw.takeOver
  rw [if_neg]
  rcases h with h | h
  · simp [Nat.not_le.mpr h]
  · simp [h]

theorem Hw.follows_of {s : Hw} (hrun : s.running = true) (hgrouped : s.flag F.BEAT_STATUS_GROUPED = true)
    (hmaster : s.flag F.BEAT_STATUS_MASTER = false) : s.follows = true := by
  simp [Hw.follows, hrun, hgrouped, hmaster]

theorem Hw.primaryLoss_eq {s : Hw} (hf : s.follows = true) (hon : s.flag F.BEAT_UPLINK_ON_SECONDARY = false) (h : 4 ≤ s.beat.missPrimary) :
    s.primaryLoss = (s.fset F.BEAT_UPLINK_ON_SECONDARY 1).raise 0x1042 (s.fget F.BEAT_UPLINK_SECONDARY) 0 beatWho := by
  unfold Hw.primaryLoss
  rw [if_pos (by simp [hf, hon, h])]

theorem Hw.leaveGroup_eq {s : Hw} (hf : s.follows = true) (h : s.fget F.BEAT_HOLDOVER_BEATS ≤ s.beat.missAny) :
    s.leaveGroup = (((s.modBeat (fun b => { b with outside := true, rejoining := false, phase := none })).fset F.BEAT_STATUS_GROUPED 0).fset
      F.BEAT_STATUS_HOLDOVER 0).raise 0x1041 s.beatNo 0 beatWho := by
  unfold Hw.leaveGroup
  rw [if_pos (by simp [hf, h])]

theorem Hw.takeOver_eq {s : Hw} (hf : s.follows = true) (hbackup : s.beat.backup = s.me) (h : 8 ≤ s.beat.missMaster) :
    s.takeOver = s.becomeMaster.raise 0x1043 s.beatNo s.me beatWho := by
  unfold Hw.takeOver
  rw [if_pos (by simp [hf, hbackup, h])]

/-- Registers kept before an event is raised are kept, but for the counters of events, after it. -/
theorem RegsKept.then_raise {l : List Reg} {s t : Hw} (h : RegsKept l s t) (code a0 a1 : Nat) (w : Who) :
    RegsKeptEv l s (t.raise code a0 a1 w) :=
  RegsKeptEv.raise (h.mono (fun _ hr => by simp [hr])) code a0 a1 w

/-- R71: the module listens to its secondary link. -/
theorem Hw.primaryLoss_switches {s : Hw} (hroom : EventRoom s) (hf : s.follows = true) (hon : s.flag F.BEAT_UPLINK_ON_SECONDARY = false)
    (h : 4 ≤ s.beat.missPrimary) : s.primaryLoss.flag F.BEAT_UPLINK_ON_SECONDARY = true ∧
      Raises s s.primaryLoss 0x1042 (s.fget F.BEAT_UPLINK_SECONDARY) 0 ∧ RegsKeptEv [.BEAT_UPLINK] s s.primaryLoss ∧
      s.primaryLoss.beat = s.beat := by
  rw [Hw.primaryLoss_eq hf hon h]
  have hkept : RegsKept [.BEAT_UPLINK] s (s.fset F.BEAT_UPLINK_ON_SECONDARY 1) := (RegsKept.refl _ s).fset _ _ _ (by decide)
  refine ⟨?_, .of_raise hroom (by rw [Hw.fset_host]) _ _ _ _, hkept.then_raise _ _ _ _, by rw [Hw.raise_beat, Hw.fset_beat]⟩
  rw [Hw.flag_raise _ _ _ _ _ F.BEAT_UPLINK_ON_SECONDARY, Hw.flag_fset_self _ F.BEAT_UPLINK_ON_SECONDARY]
  rfl

/-- R71: the module leaves its group. -/
theorem Hw.leaveGroup_leaves {s : Hw} (hroom : EventRoom s) (hf : s.follows = true) (h : s.fget F.BEAT_HOLDOVER_BEATS ≤ s.beat.missAny) :
    s.leaveGroup.beat = { s.beat with outside := true, rejoining := false, phase := none } ∧
    s.leaveGroup.flag F.BEAT_STATUS_GROUPED = false ∧ s.leaveGroup.flag F.BEAT_STATUS_HOLDOVER = false ∧
    Raises s s.leaveGroup 0x1041 s.beatNo 0 ∧ RegsKeptEv [.BEAT_STATUS] s s.leaveGroup := by
  rw [Hw.leaveGroup_eq hf h]
  have hkept : RegsKept [.BEAT_STATUS] s (((s.modBeat (fun b => { b with outside := true, rejoining := false, phase := none })).fset
      F.BEAT_STATUS_GROUPED 0).fset F.BEAT_STATUS_HOLDOVER 0) :=
    (RegsKept.fset (.of_regs rfl) F.BEAT_STATUS_GROUPED 0 0 (by decide)).fset F.BEAT_STATUS_HOLDOVER 0 0 (by decide)
  refine ⟨by rw [Hw.raise_beat, Hw.fset_beat, Hw.fset_beat]; rfl, ?_, ?_, .of_raise hroom (by rw [Hw.fset_host, Hw.fset_host]; rfl) _ _ _ _,
    hkept.then_raise _ _ _ _⟩
  · rw [Hw.flag_raise _ _ _ _ _ F.BEAT_STATUS_GROUPED, Hw.flag_fset_apart _ _ F.BEAT_STATUS_GROUPED _ _ _ (by decide) (by decide),
      Hw.flag_fset_self _ F.BEAT_STATUS_GROUPED]
    rfl
  · rw [Hw.flag_raise _ _ _ _ _ F.BEAT_STATUS_HOLDOVER, Hw.flag_fset_self _ F.BEAT_STATUS_HOLDOVER]
    rfl

theorem Hw.me_lt (s : Hw) : s.me < 2 ^ 12 := s.fget_lt F.LNK_MODULE_ID 0

/-- R73, R469: the registers of a module that becomes the master of its group. -/
theorem Hw.becomeMaster_regs (s : Hw) : s.becomeMaster.flag F.BEAT_STATUS_MASTER = true ∧ s.becomeMaster.flag F.BEAT_STATUS_GROUPED = true ∧
    s.becomeMaster.fget F.BEAT_GROUP_MASTER = s.me ∧ s.becomeMaster.fget F.BEAT_GROUP_DEPTH = 0 ∧
    RegsKept [.BEAT_STATUS, .BEAT_GROUP] s s.becomeMaster := by
  unfold Hw.becomeMaster
  refine ⟨?_, ?_, ?_, ?_, ?_⟩
  · repeat rw [Hw.flag_fset_apart _ _ F.BEAT_STATUS_MASTER _ _ _ (by decide) (by decide)]
    rw [Hw.flag_fset_self _ F.BEAT_STATUS_MASTER]
    rfl
  · repeat rw [Hw.flag_fset_apart _ _ F.BEAT_STATUS_GROUPED _ _ _ (by decide) (by decide)]
    rw [Hw.flag_fset_self _ F.BEAT_STATUS_GROUPED]
    rfl
  · rw [Hw.fget_fset_apart _ _ F.BEAT_GROUP_MASTER _ _ _ (by decide) (by decide), Hw.fget_fset_self _ F.BEAT_GROUP_MASTER]
    exact Nat.mod_eq_of_lt s.me_lt
  · rw [Hw.fget_fset_self _ F.BEAT_GROUP_DEPTH]
    rfl
  · exact ((((((RegsKept.of_regs rfl).fset F.BEAT_STATUS_MASTER 1 0 (by decide)).fset F.BEAT_STATUS_GROUPED 1 0 (by decide)).fset
      F.BEAT_STATUS_HOLDOVER 0 0 (by decide)).fset F.BEAT_GROUP_MASTER s.me 0 (by decide)).fset F.BEAT_GROUP_DEPTH 0 0 (by decide))

theorem Hw.becomeMaster_host (s : Hw) : s.becomeMaster.host = s.host := by
  unfold Hw.becomeMaster
  simp only [Hw.fset_host]
  rfl

/-- R73: the backup master takes over. -/
theorem Hw.takeOver_takes {s : Hw} (hroom : EventRoom s) (hf : s.follows = true) (hbackup : s.beat.backup = s.me) (h : 8 ≤ s.beat.missMaster) :
    s.takeOver.flag F.BEAT_STATUS_MASTER = true ∧ s.takeOver.flag F.BEAT_STATUS_GROUPED = true ∧
    s.takeOver.fget F.BEAT_GROUP_MASTER = s.me ∧ s.takeOver.fget F.BEAT_GROUP_DEPTH = 0 ∧
    Raises s s.takeOver 0x1043 s.beatNo s.me ∧ RegsKeptEv [.BEAT_STATUS, .BEAT_GROUP] s s.takeOver := by
  obtain ⟨hmaster, hgrouped, hid, hdepth, hkept⟩ := s.becomeMaster_regs
  rw [Hw.takeOver_eq hf hbackup h]
  refine ⟨?_, ?_, ?_, ?_, .of_raise hroom (by rw [Hw.becomeMaster_host]) _ _ _ _, hkept.then_raise _ _ _ _⟩
  · rw [Hw.flag_raise _ _ _ _ _ F.BEAT_STATUS_MASTER, hmaster]
  · rw [Hw.flag_raise _ _ _ _ _ F.BEAT_STATUS_GROUPED, hgrouped]
  · rw [Hw.fget_raise _ _ _ _ _ F.BEAT_GROUP_MASTER, hid]
  · rw [Hw.fget_raise _ _ _ _ _ F.BEAT_GROUP_DEPTH, hdepth]

/-! ### O41 -/

theorem exec_beatMarker (l : Fin 64) (g m : BitVec 12) (log2 : BitVec 5) (off : BitVec 16) (n : BitVec 64) (s : State) :
    exec (.beatMarker l g m log2 off n) s = s.onHw (fun h => h.beatMarker l g.toNat m.toNat log2.toNat off.toNat n.toNat) := rfl
theorem exec_markerPrimaryLoss (s : State) : exec .markerPrimaryLoss s = s.onHw Hw.primaryLoss := rfl
theorem exec_leaveBeatGroup (s : State) : exec .leaveBeatGroup s = s.onHw Hw.leaveGroup := rfl
theorem exec_backupMasterTakeover (s : State) : exec .backupMasterTakeover s = s.onHw Hw.takeOver := rfl

section Marker

variable {s t : Hw} {l group master log2 : Nat} (offset beat : Nat)

theorem Hw.phaseError_linksOnly (h : LinksOnly s t) (l offset : Nat) : t.phaseError l offset = s.phaseError l offset := by
  simp only [Hw.phaseError, Hw.beatLen, Hw.delayCycles, h.fget, h.beat, h.boot]

theorem Hw.ownMarker_congr (h : LinksOnly s t) : t.ownMarker group log2 ↔ s.ownMarker group log2 := by
  unfold Hw.ownMarker
  rw [h.fget F.BEAT_GROUP_GROUP_ID, h.fget F.BEAT_LEN_LOG2]

/-- R67: a marker of another group or length. -/
theorem Hw.beatMarker_ignored (hroom : EventRoom s) (hrun : s.running = true) (hforeign : ¬ s.ownMarker group log2) :
    Raises s (s.beatMarker l group master log2 offset beat) 0x1044 l group ∧ (s.beatMarker l group master log2 offset beat).beat = s.beat ∧
    RegsKeptEv [] s (s.beatMarker l group master log2 offset beat) := by
  have h := LinksOnly.of_takeRecord s l 1
  rw [Hw.beatMarker_foreign (by rw [Hw.running, h.flag]; exact hrun) (by rw [Hw.ownMarker_congr h]; exact hforeign)]
  exact ⟨.of_raise hroom (by rw [h.host]) _ _ _ _, by rw [Hw.raise_beat, h.beat], (RegsKept.of_regs h.regs).then_raise _ _ _ _⟩

/-- The marker comes from the master or the backup, on one of the two links of a module that takes it. -/
structure Hw.Accepts (s : Hw) (l master : Nat) (prim down : Bool) : Prop where
  prim_eq : prim = (l == s.fget F.BEAT_UPLINK_PRIMARY)
  down_eq : down = (s.flag F.BEAT_STATUS_MASTER && s.me == s.beat.master && master == s.beat.backup && master != s.me)
  role : (s.flag F.BEAT_STATUS_MASTER && !down) = false
  link : prim = true ∨ l = s.fget F.BEAT_UPLINK_SECONDARY
  src : master = s.beat.master ∨ master = s.beat.backup

theorem Hw.Accepts.linksOnly {prim down : Bool} (ha : s.Accepts l master prim down) (h : LinksOnly s t) : t.Accepts l master prim down := by
  refine ⟨?_, ?_, ?_, ?_, ?_⟩
  · rw [h.fget]; exact ha.prim_eq
  · rw [h.flag, Hw.me, h.fget, h.beat]; exact ha.down_eq
  · rw [h.flag]; exact ha.role
  · rw [h.fget]; exact ha.link
  · rw [h.beat]; exact ha.src

theorem Hw.beatMarker_accepted {prim down : Bool} (hrun : s.running = true) (hown : s.ownMarker group log2)
    (ha : s.Accepts l master prim down) :
    s.beatMarker l group master log2 offset beat = (s.takeRecord l 1).acceptMarker prim down l master offset beat := by
  have h := LinksOnly.of_takeRecord s l 1
  obtain ⟨hprim, hdown, hrole, hlink, hsrc⟩ := ha.linksOnly h
  rw [Hw.beatMarker_eq (by rw [Hw.running, h.flag]; exact hrun) (by rw [Hw.ownMarker_congr h]; exact hown)]
  simp only [← hprim, ← hdown]
  rw [if_neg]
  simp only [hrole, Bool.false_or, Bool.or_eq_true, Bool.not_eq_true', Bool.or_eq_false_iff, beq_eq_false_iff_ne]
  rintro (⟨hp, hl⟩ | ⟨hm, hb⟩)
  · rcases hlink with h | h
    · exact absurd h (by simp [hp])
    · exact hl h
  · rcases hsrc with h | h
    · exact hm h
    · exact hb h

/-- R67: a marker of a module that is neither the master nor the backup. -/
theorem Hw.beatMarker_stranger (hrun : s.running = true) (hown : s.ownMarker group log2) (hm : master ≠ s.beat.master)
    (hb : master ≠ s.beat.backup) : s.beatMarker l group master log2 offset beat = s.takeRecord l 1 := by
  have h := LinksOnly.of_takeRecord s l 1
  rw [Hw.beatMarker_eq (by rw [Hw.running, h.flag]; exact hrun) (by rw [Hw.ownMarker_congr h]; exact hown)]
  simp only [h.beat]
  rw [if_pos (by simp [hm, hb])]

end Marker

/-- Settles O41, by whose marker arrives and on which link, and by how long none has. -/
theorem beatGroups : Obligations.BeatGroups := by
  unfold Obligations.BeatGroups
  intro s
  refine ⟨fun l g m log2 off n hrun => ⟨fun hforeign hroom => ?_, fun hid hgroup hlog2 => ⟨fun hsrc hmaster hgrouped =>
      ⟨fun hprim => ?_, fun hnprim hsec hon => ?_⟩, fun hm hb => ?_, fun hmaster hme hb hnme hprim => ?_⟩⟩,
    fun hrun hgrouped hmaster => ⟨fun hon hmiss hroom => ?_, fun hmiss hroom => ?_, fun hbackup hmiss hroom => ?_⟩,
    fun h => ?_, fun h => ?_, fun h => ?_⟩
  · exact .of_onHw _ (exec_beatMarker l g m log2 off n s) (Hw.beatMarker_ignored _ _ hroom hrun (by unfold Hw.ownMarker; tauto))
  · have ha : s.hw.Accepts l m.toNat true false := ⟨by simp [hprim], by simp [hmaster], by simp [hmaster], .inl rfl, hsrc⟩
    have hlink := LinksOnly.of_takeRecord s.hw l 1
    refine .of_onHw _ (exec_beatMarker l g m log2 off n s) ?_
    simp only [Hw.beatMarker_accepted off.toNat n.toNat hrun ⟨hid, hgroup, hlog2⟩ ha]
    obtain ⟨hphase, hmark, hgotp, hgota, hgotm, hid', hon⟩ :=
      (s.hw.takeRecord l 1).acceptMarker_primary_takes false l m.toNat off.toNat n.toNat m.isLt
    refine ⟨?_, hmark, hgotp, hgota, hgotm, hid', hon, fun hvalid hpeer => ?_⟩
    · rw [hphase, Hw.phaseError_linksOnly hlink]
    · exact Hw.acceptMarker_primary_depth _ _ (by rw [hlink.flag]; exact hvalid) (by rw [hlink.fget]; exact hpeer)
  · have ha : s.hw.Accepts l m.toNat false false := ⟨by simp [hnprim], by simp [hmaster], by simp [hmaster], .inr hsec, hsrc⟩
    have hlink := LinksOnly.of_takeRecord s.hw l 1
    refine .of_onHw _ (exec_beatMarker l g m log2 off n s) ?_
    simp only [Hw.beatMarker_accepted off.toNat n.toNat hrun ⟨hid, hgroup, hlog2⟩ ha]
    rw [Hw.acceptMarker_secondary _ _ _ _ (by rw [hlink.flag]; exact hon) (by rw [hlink.flag]; exact hgrouped)]
    refine ⟨rfl, ?_, ?_, ?_, .of_regs ((Hw.hearMarker_regs _ _ _).trans hlink.regs)⟩
    · rw [← hlink.beat]
      exact Bool.or_false _
    · rw [← hlink.beat]
      rfl
    · rw [← hlink.beat]
      rfl
  · refine .of_onHw _ (exec_beatMarker l g m log2 off n s) ?_
    simp only [Hw.beatMarker_stranger off.toNat n.toNat hrun ⟨hid, hgroup, hlog2⟩ hm hb]
    have hlink := LinksOnly.of_takeRecord s.hw l 1
    exact ⟨hlink.beat, .of_regs hlink.regs⟩
  · have ha : s.hw.Accepts l m.toNat true true := ⟨by simp [hprim], by simp [hmaster, ← hme, ← hb, hnme], by simp, .inl rfl, .inr hb⟩
    refine .of_onHw _ (exec_beatMarker l g m log2 off n s) ?_
    simp only [Hw.beatMarker_accepted off.toNat n.toNat hrun ⟨hid, hgroup, hlog2⟩ ha]
    obtain ⟨hmas, hgr, hout, hrejoin⟩ := (s.hw.takeRecord l 1).acceptMarker_primary_stepsDown l m.toNat off.toNat n.toNat
    obtain ⟨-, -, -, -, -, hid', -⟩ := (s.hw.takeRecord l 1).acceptMarker_primary_takes true l m.toNat off.toNat n.toNat m.isLt
    exact ⟨hmas, hgr, hout, hrejoin, hid'⟩
  · exact .of_onHw _ (exec_markerPrimaryLoss s) (Hw.primaryLoss_switches hroom (Hw.follows_of hrun hgrouped hmaster) hon hmiss)
  · exact .of_onHw _ (exec_leaveBeatGroup s) (Hw.leaveGroup_leaves hroom (Hw.follows_of hrun hgrouped hmaster) hmiss)
  · exact .of_onHw _ (exec_backupMasterTakeover s) (Hw.takeOver_takes hroom (Hw.follows_of hrun hgrouped hmaster) hbackup hmiss)
  · exact .of_onHw _ (exec_markerPrimaryLoss s) (Hw.primaryLoss_early h)
  · exact .of_onHw _ (exec_leaveBeatGroup s) (Hw.leaveGroup_early h)
  · exact .of_onHw _ (exec_backupMasterTakeover s) (Hw.takeOver_early h)

end Sys2Proof.Machine
end

section
/-!
PROOFS. Sending on a link (R359, R360, R363 to R365, R380, R381, R383): what a flit time puts on the wire and keeps for replay, and what
a flit that no ACK covers becomes.
-/
namespace Sys2Proof.Machine

/-! ### Counting and perturbing while a flit is sent -/

/-- The counters that the sending of a flit moves, but for those of replays. -/
def sendRegs : List Reg :=
  eventRegs ++ [.LNK_SCHED_HOLD, .LNK_TX_FLITS, .LNK_DROSS_FORM, .LNK_ELIDED, .DBG_PC_VAL_LO, .DBG_PC_VAL_HI, .TST_PERT_HITS]

/-- From s to t a flit has been counted, perturbed and traced: the links and the beat are as before. -/
structure SendWork (s t : Hw) : Prop where
  regs : RegsKept sendRegs s t
  links : t.links = s.links
  beat : t.beat = s.beat

namespace SendWork

theorem refl (s : Hw) : SendWork s s := ⟨.refl _ s, rfl, rfl⟩

theorem trans {s t v : Hw} (h : SendWork s t) (h' : SendWork t v) : SendWork s v :=
  ⟨h.regs.trans h'.regs, h'.links.trans h.links, h'.beat.trans h.beat⟩

theorem foldl {α : Type} (f : Hw → α → Hw) (hf : ∀ s a, SendWork s (f s a)) (l : List α) : ∀ s : Hw, SendWork s (l.foldl f s) := by
  induction l with
  | nil => exact refl
  | cons a l ih => exact fun s => (hf s a).trans (ih _)

theorem of_bump (s : Hw) (f : Fld) (u n : Nat) (hf : f.reg ∈ sendRegs := by decide) : SendWork s (s.bump f u n) :=
  ⟨(RegsKept.refl _ s).bump f u n hf, Hw.bump_links _ _ _ _, Hw.bump_beat _ _ _ _⟩

theorem of_raise (s : Hw) (code a0 a1 : Nat) (w : Who) : SendWork s (s.raise code a0 a1 w) :=
  ⟨(RegsKept.refl _ s).raise _ _ _ _ (by decide), Hw.raise_links _ _ _ _ _, Hw.raise_beat _ _ _ _ _⟩

theorem of_test (s : Hw) (x : Test) : SendWork s { s with test := x } := ⟨.of_regs rfl, rfl, rfl⟩

theorem of_pcEvent (s : Hw) (ev t n k : Nat) : SendWork s (s.pcEvent ev t n k) := by
  have hcount : ∀ (v : Hw) (x u : Nat), SendWork v (v.wr64 .DBG_PC_VAL_LO .DBG_PC_VAL_HI x u) := fun v x u =>
    ⟨((RegsKept.refl _ v).wr .DBG_PC_VAL_LO _ u (by decide)).wr .DBG_PC_VAL_HI _ u (by decide), rfl, rfl⟩
  unfold Hw.pcEvent
  split
  · refine foldl _ (fun v i => ?_) _ s
    simp only
    split
    · exact hcount v _ _
    · exact refl v
  · exact refl s

theorem of_opportunity (s : Hw) (kind idx t n : Nat) : SendWork s (s.opportunity kind idx t n) := by
  unfold Hw.opportunity
  split
  · exact refl s
  · refine foldl _ (fun v k => ?_) _ s
    simp only
    split
    · split
      · exact ((of_test v _).trans (of_bump _ F.TST_PERT_HITS_COUNT _ _)).trans (of_pcEvent _ _ _ _ _)
      · exact of_test v _
    · exact refl v

theorem of_hitWire (s : Hw) (l seq : Nat) (data : Bool) : SendWork s (s.hitWire l seq data).1 := by
  unfold Hw.hitWire
  split
  · split
    · exact of_test s _
    · exact refl s
  · exact refl s

variable {s t : Hw}

theorem getLink (h : SendWork s t) (l : Nat) : t.getLink l = s.getLink l := by unfold Hw.getLink; rw [h.links]

theorem fget (h : SendWork s t) (f : Fld) (u : Nat) (hf : f.reg ∉ sendRegs := by decide) : t.fget f u = s.fget f u := by
  unfold Hw.fget; rw [h.regs f.reg u hf]

theorem lstate (h : SendWork s t) (l : Nat) : t.lstate l = s.lstate l := h.fget F.LNK_LSTATE_STATE l

end SendWork

/-! ### What a link's choice and its records depend on -/

/-- Two states agree in what a link's choice and its stamps read besides the link itself: the beat, the service level and the partner. -/
structure SameSlots (s t : Hw) (l : Nat) : Prop where
  beat : t.beat = s.beat
  level : t.level = s.level
  beatNo : t.beatNo = s.beatNo
  beatLen : t.beatLen = s.beatLen
  lstate : t.lstate l = s.lstate l
  slotStream : t.slotStream l = s.slotStream l

theorem Hw.slotStream_congr {s t : Hw} {l : Nat} (hbeat : t.beat = s.beat) (hid : (t.getLink l).identity = (s.getLink l).identity)
    (hf : ∀ f ∈ [F.ID_SERVICE_LEVEL, F.BEAT_STATUS_RUN, F.BEAT_GROUP_GROUP_ID, F.BEAT_LEN_LOG2, F.BEAT_TRIM_TRIM], t.fget f 0 = s.fget f 0) :
    t.slotStream l = s.slotStream l := by
  simp only [List.mem_cons, List.not_mem_nil, or_false, forall_eq_or_imp, forall_eq] at hf
  obtain ⟨hlevel, hrun, hgroup, hlen, htrim⟩ := hf
  have hrun' : t.running = s.running := by rw [Hw.running, Hw.flag, hrun]; rfl
  have hshared : t.groupShared l = s.groupShared l := by rw [Hw.groupShared, hgroup, hid, hbeat]; rfl
  have hend : t.windowEnd = s.windowEnd := by rw [Hw.windowEnd, Hw.beatLen, Hw.trim, hlen, htrim]; rfl
  unfold Hw.slotStream Hw.level
  rw [hlevel, hrun', hshared, hend, hbeat]

theorem Hw.beatNo_congr {s t : Hw} (hlo : t.rd .BEAT_COUNT_LO 0 = s.rd .BEAT_COUNT_LO 0) (hhi : t.rd .BEAT_COUNT_HI 0 = s.rd .BEAT_COUNT_HI 0) :
    t.beatNo = s.beatNo := by
  unfold Hw.beatNo Hw.rd64
  rw [hlo, hhi]

theorem Hw.beatLen_congr {s t : Hw} (h : t.fget F.BEAT_LEN_LOG2 0 = s.fget F.BEAT_LEN_LOG2 0) : t.beatLen = s.beatLen := by
  unfold Hw.beatLen
  rw [h]

theorem SameSlots.of_linksOnly {s t : Hw} {l : Nat} (h : LinksOnly s t) (hid : (t.getLink l).identity = (s.getLink l).identity) :
    SameSlots s t l where
  beat := h.beat
  level := h.fget _ _
  beatNo := Hw.beatNo_congr (h.rd _ _) (h.rd _ _)
  beatLen := Hw.beatLen_congr (h.fget _ _)
  lstate := h.fget _ _
  slotStream := Hw.slotStream_congr h.beat hid (fun f _ => h.fget f 0)

theorem SameSlots.of_sendWork {s t : Hw} (h : SendWork s t) (l : Nat) : SameSlots s t l where
  beat := h.beat
  level := h.fget F.ID_SERVICE_LEVEL 0
  beatNo := Hw.beatNo_congr (h.regs .BEAT_COUNT_LO 0 (by decide)) (h.regs .BEAT_COUNT_HI 0 (by decide))
  beatLen := Hw.beatLen_congr (h.fget F.BEAT_LEN_LOG2 0)
  lstate := h.lstate l
  slotStream := Hw.slotStream_congr h.beat (by rw [h.getLink]) (fun f hf => h.fget f 0 (by fin_cases hf <;> decide))

theorem SameSlots.trans {s t v : Hw} {l : Nat} (h : SameSlots s t l) (h' : SameSlots t v l) : SameSlots s v l where
  beat := h'.beat.trans h.beat
  level := h'.level.trans h.level
  beatNo := h'.beatNo.trans h.beatNo
  beatLen := h'.beatLen.trans h.beatLen
  lstate := h'.lstate.trans h.lstate
  slotStream := h'.slotStream.trans h.slotStream

theorem SameSlots.stampRecord {s t : Hw} {l : Nat} (h : SameSlots s t l) : t.stampRecord = s.stampRecord := by
  funext r
  simp only [Hw.stampRecord, h.beat, h.beatNo, h.beatLen]

/-- What a link chooses (R360), from its own queues, its state and the stream whose slot it is in. -/
def Link.choice (x : Link) (lstate : Nat) (slot : Option Nat) : Choice :=
  match x.replay.findIdx? (fun r => r.resend) with
  | some i => .resend i
  | none =>
    if lstate ≠ 2 || 256 ≤ x.replay.length then .idle
    else if !x.long.isEmpty then .long
    else match slot with
      | some i => if x.partnerHold then (if !x.dyn.isEmpty && 0 < x.credits then .dyn else .idle) else .sched i
      | none => if !x.dyn.isEmpty && 0 < x.credits then .dyn else .idle

/-- The place of the slot's flit in a link's scheduled queue. -/
def Link.slotAt (x : Link) (n : Option Nat) : Option Nat := n.bind (fun n => x.sched.findIdx? (fun f => f.stream == n))

theorem Hw.choose_eq (s : Hw) (l : Nat) : s.choose l = (s.getLink l).choice (s.lstate l) ((s.getLink l).slotAt (s.slotStream l)) := rfl

/-! ### The scheduled data that a flit time may carry -/

theorem Sparse.filter_ne_set {α : Type} (m : Sparse α) (a : Nat) (x : α) :
    (Sparse.set m a x).filter (fun e => e.1 != a) = m.filter (fun e => e.1 != a) := by
  induction m with
  | nil => simp [Sparse.set]
  | cons e m ih =>
    obtain ⟨k, v⟩ := e
    simp only [Sparse.set]
    split
    · next h => simp [h]
    · split
      · simp
      · next h _ => simp [h, ih]

theorem Sparse.filter_ne_put {α : Type} [DecidableEq α] (d : α) (m : Sparse α) (a : Nat) (x : α) :
    (Sparse.put d m a x).filter (fun e => e.1 != a) = m.filter (fun e => e.1 != a) := by
  unfold Sparse.put
  split
  · rw [Sparse.erase_eq_filter, List.filter_filter]
    congr 1
    funext e
    by_cases h : e.1 = a <;> simp [h]
  · exact Sparse.filter_ne_set m a x

/-- Two maps that differ at one key only answer a search alike that never takes that key. -/
theorem List.find?_of_filter_ne {α : Type} {m m' : List (Nat × α)} {a : Nat} (p : Nat × α → Bool) (hp : ∀ e, p e = true → e.1 ≠ a)
    (h : m'.filter (fun e => e.1 != a) = m.filter (fun e => e.1 != a)) : m'.find? p = m.find? p := by
  have hskip : ∀ l : List (Nat × α), l.find? p = (l.filter (fun e => e.1 != a)).find? p := fun l => by
    rw [List.find?_filter]
    congr 1
    funext e
    by_cases he : p e = true
    · simp [he, hp e he]
    · simp [he]
  rw [hskip m', hskip m, h]

/-- The link that has no slot for a stream and that holds a flit of it whose route leads over link l. -/
def Hw.lender (s : Hw) (l n : Nat) : Option (Nat × Link) :=
  List.find? (fun (e : Nat × Link) => (e.1 != l && (List.range 16).all (fun i => (s.beat.cur.slot e.1 i).2.2 == 0 || (s.beat.cur.slot e.1 i).1 != n)) &&
    e.2.sched.any (fun f => f.stream == n && (s.routeLinks f.dst).contains l)) s.links

/-- That flit. -/
def Hw.lent (s : Hw) (l n : Nat) : Option Flit :=
  (s.lender l n).bind (fun e => (e.2.sched.findIdx? (fun f => f.stream == n && (s.routeLinks f.dst).contains l)).bind (fun i => e.2.sched[i]?))

/-- R71, R364: link x with the scheduled data that its flit time may carry. -/
def Hw.readied (s : Hw) (l : Nat) (x : Link) : Link :=
  if !s.groupShared l || s.level ≠ 2 then { x with sched := [], dyn := x.dyn ++ x.sched.map (fun f => { f with cls := 3 }) }
  else match s.slotStream l with
    | none => x
    | some n => if x.sched.any (fun f => f.stream == n) then x else { x with sched := x.sched ++ (s.lent l n).toList }

theorem Link.demote_nothing {x : Link} (g : Flit → Flit) (h : x.sched = []) : { x with sched := [], dyn := x.dyn ++ x.sched.map g } = x := by
  cases x
  subst h
  simp

theorem Link.lend_nothing (x : Link) : { x with sched := x.sched ++ (none : Option Flit).toList } = x := by
  cases x
  simp

theorem Hw.readied_outside {s : Hw} {l : Nat} (h : (!s.groupShared l || s.level ≠ 2) = true) (x : Link) :
    s.readied l x = { x with sched := [], dyn := x.dyn ++ x.sched.map (fun f => { f with cls := 3 }) } := if_pos h

theorem Hw.readySched_getLink (s : Hw) (l : Nat) : (s.readySched l).getLink l = s.readied l (s.getLink l) := by
  by_cases hout : (!s.groupShared l || s.level ≠ 2) = true
  · rw [Hw.readied_outside hout]
    unfold Hw.readySched
    simp only
    rw [if_pos hout]
    split
    · next h => exact (Link.demote_nothing _ (List.isEmpty_iff.mp h)).symm
    · exact Hw.getLink_setLink_self _ _ _
  · unfold Hw.readySched Hw.readied
    simp only
    rw [if_neg hout, if_neg hout]
    cases hslot : s.slotStream l with
    | none => rfl
    | some n =>
      simp only
      by_cases hany : (s.getLink l).sched.any (fun f => f.stream == n) = true
      · rw [if_pos hany, if_pos hany]
      · rw [if_neg hany, if_neg hany]
        unfold Hw.lent
        cases hfind : s.lender l n with
        | none =>
          unfold Hw.lender at hfind
          rw [hfind]
          exact (Link.lend_nothing _).symm
        | some e =>
          obtain ⟨k, y⟩ := e
          unfold Hw.lender at hfind
          rw [hfind]
          simp only [Option.bind_some]
          cases y.sched.findIdx? (fun f => f.stream == n && (s.routeLinks f.dst).contains l) with
          | none => exact (Link.lend_nothing _).symm
          | some i => exact Hw.getLink_setLink_self _ _ _

theorem Hw.readySched_linksOnly (s : Hw) (l : Nat) : LinksOnly s (s.readySched l) := by
  unfold Hw.readySched
  simp only
  split
  · split
    · exact .refl s
    · exact .of_setLink _ _ _
  · split
    · exact .refl s
    · split
      · exact .refl s
      · split
        · exact .refl s
        · split
          · exact .refl s
          · exact (LinksOnly.of_setLink _ _ _).trans (.of_setLink _ _ _)

theorem Hw.routeLinks_congr {s t : Hw} (h : t.regs = s.regs) : t.routeLinks = s.routeLinks := by
  have hup : t.linkUp = s.linkUp := by
    funext l
    unfold Hw.linkUp
    rw [Hw.fget_congr h]
  funext m
  unfold Hw.routeLinks Hw.rd64
  rw [hup, Hw.rd_congr h, Hw.rd_congr h, Hw.rd_congr h, Hw.rd_congr h]

/-- What a link may carry is read from registers, the beat, its partner and the other links. -/
theorem Hw.readied_congr {s t : Hw} {l : Nat} (h : LinksOnly s t) (hid : (t.getLink l).identity = (s.getLink l).identity)
    (hothers : t.links.filter (fun e => e.1 != l) = s.links.filter (fun e => e.1 != l)) : t.readied l = s.readied l := by
  have hslots := SameSlots.of_linksOnly h hid
  have hshared : t.groupShared l = s.groupShared l := by
    unfold Hw.groupShared
    rw [h.fget, hid, h.beat]
  have hlent : ∀ n, t.lent l n = s.lent l n := fun n => by
    unfold Hw.lent Hw.lender
    rw [Hw.routeLinks_congr h.regs, h.beat, List.find?_of_filter_ne _ (fun e he => ?_) hothers]
    simp only [Bool.and_eq_true, bne_iff_ne] at he
    exact he.1.1
  funext x
  unfold Hw.readied
  rw [hshared, hslots.level, hslots.slotStream]
  simp only [hlent]

theorem Hw.ageReplays_cases (s : Hw) (l : Nat) :
    ∃ w b, s.ageReplays l = s ∨ s.ageReplays l = s.setLink l { s.getLink l with replaysWindow := w, replayBeats := b } := by
  unfold Hw.ageReplays
  simp only
  split
  · exact ⟨0, [], .inl rfl⟩
  · exact ⟨_, _, .inr rfl⟩

theorem Hw.readied_replays (s : Hw) (l : Nat) (x : Link) (w : Nat) (b : List (Nat × Nat)) :
    s.readied l { x with replaysWindow := w, replayBeats := b } = { s.readied l x with replaysWindow := w, replayBeats := b } := by
  unfold Hw.readied
  split
  · rfl
  · split
    · rfl
    · simp only
      split
      · rfl
      · rfl

/-- The state in which a flit time chooses, outside a re-seed: replays of old beats are forgotten, and the scheduled data is ready. -/
def Hw.readyLink (s : Hw) (l : Nat) : Hw := (s.ageReplays l).readySched l

theorem Hw.ageReplays_linksOnly (s : Hw) (l : Nat) : LinksOnly s (s.ageReplays l) := by
  obtain ⟨w, b, h | h⟩ := s.ageReplays_cases l
  · rw [h]; exact .refl s
  · rw [h]; exact .of_setLink _ _ _

theorem Hw.readyLink_linksOnly (s : Hw) (l : Nat) : LinksOnly s (s.readyLink l) :=
  (s.ageReplays_linksOnly l).trans (Hw.readySched_linksOnly _ l)

/-- But for the count of its replays, the link is as making its scheduled data ready leaves it. -/
theorem Hw.readyLink_getLink (s : Hw) (l : Nat) :
    ∃ w b, (s.readyLink l).getLink l = { (s.readySched l).getLink l with replaysWindow := w, replayBeats := b } := by
  unfold Hw.readyLink
  rw [Hw.readySched_getLink, Hw.readySched_getLink]
  obtain ⟨w, b, h | h⟩ := s.ageReplays_cases l
  · rw [h]
    exact ⟨_, _, rfl⟩
  · have hone : ({ s.getLink l with replaysWindow := w, replayBeats := b } : Link).identity = (s.getLink l).identity := rfl
    rw [h, Hw.readied_congr (.of_setLink s l _) (by rw [Hw.getLink_setLink_self]) (Sparse.filter_ne_put _ _ _ _),
      Hw.getLink_setLink_self, Hw.readied_replays]
    exact ⟨w, b, rfl⟩

theorem Hw.readied_identity (s : Hw) (l : Nat) (x : Link) : (s.readied l x).identity = x.identity := by
  unfold Hw.readied
  split
  · rfl
  · split
    · rfl
    · split <;> rfl

theorem Hw.readied_trained (s : Hw) (l : Nat) (x : Link) : (s.readied l x).trained = x.trained := by
  unfold Hw.readied
  split
  · rfl
  · split
    · rfl
    · split <;> rfl

theorem Hw.readyLink_sameSlots (s : Hw) (l : Nat) : SameSlots s (s.readyLink l) l := by
  refine .of_linksOnly (s.readyLink_linksOnly l) ?_
  obtain ⟨w, b, h⟩ := s.readyLink_getLink l
  rw [h, Hw.readySched_getLink]
  exact Hw.readied_identity _ _ _

/-! ### On the wire -/

/-- What a link says of itself in a flit with the number seq (R359). -/
def Hw.says (s : Hw) (l seq : Nat) : LinkSays :=
  ⟨seq, (s.getLink l).rxSeq, s.lstate l != 2 && s.lstate l != 3, (s.getLink l).nack, (s.getLink l).hold, (s.getLink l).freed % 65536⟩

/-- A flit that goes on the wire is counted, where it is no idle one. -/
def Hw.countSent (s : Hw) (l seq : Nat) (f : Flit) : Hw :=
  if f.cls = 0 then (s.hitWire l seq (2 ≤ f.cls)).1 else ((s.hitWire l seq (2 ≤ f.cls)).1.bump F.LNK_TX_FLITS_COUNT l).pcEvent 11 0 0 1

theorem SendWork.of_countSent (s : Hw) (l seq : Nat) (f : Flit) : SendWork s (s.countSent l seq f) := by
  unfold Hw.countSent
  split
  · exact .of_hitWire _ _ _ _
  · exact ((SendWork.of_hitWire _ _ _ _).trans (.of_bump _ F.LNK_TX_FLITS_COUNT _ _)).trans (.of_pcEvent _ _ _ _ _)

theorem Hw.putWire_eq (s : Hw) (l seq : Nat) (f : Flit) (recs : List (BitVec 128)) :
    s.putWire l seq f recs = (s.countSent l seq f).setLink l { (s.countSent l seq f).getLink l with
      freed := 0, wire := f.bytes (s.says l seq) recs, wireBad := (s.hitWire l seq (2 ≤ f.cls)).2 } := rfl

/-- What putting a flit on the wire leaves of the link. -/
theorem Hw.putWire_getLink (s : Hw) (l seq : Nat) (f : Flit) (recs : List (BitVec 128)) :
    ∃ bad, (s.putWire l seq f recs).getLink l = { s.getLink l with freed := 0, wireBad := bad, wire := f.bytes (s.says l seq) recs } := by
  rw [Hw.putWire_eq, Hw.getLink_setLink_self, (SendWork.of_countSent s l seq f).getLink]
  exact ⟨_, rfl⟩

theorem Hw.putWire_rd (s : Hw) (l seq : Nat) (f : Flit) (recs : List (BitVec 128)) (r : Reg) (u : Nat) (hr : r ∉ sendRegs) :
    (s.putWire l seq f recs).rd r u = s.rd r u := by
  rw [Hw.putWire_eq]
  exact (SendWork.of_countSent s l seq f).regs r u hr

/-! ### A new flit -/

/-- The record of a new flit for replay. -/
def Link.replayOf (x : Link) (f : Flit) (recs : List (BitVec 128)) : Replay :=
  { seq := (x.txSeq + 1) % 65536, fails := 0, resend := false, flit := f, records := recs, ack := x.rxSeq }

theorem Hw.putNew_getLink (s : Hw) (l : Nat) (f : Flit) :
    ∃ bad, (s.putNew l f).getLink l = { s.getLink l with
      txSeq := ((s.getLink l).txSeq + 1) % 65536, records := (s.getLink l).records.drop 5
      replay := (s.getLink l).replay ++ [(s.getLink l).replayOf f (((s.getLink l).records.take 5).map s.stampRecord)]
      freed := 0, wireBad := bad
      wire := f.bytes (s.says l (((s.getLink l).txSeq + 1) % 65536)) (((s.getLink l).records.take 5).map s.stampRecord) } := by
  have hlost : ∀ v : Hw, SendWork s v → SendWork s (if f.drossForm then (v.bump F.LNK_DROSS_FORM_COUNT l).raise 0x6010 l
      (((s.getLink l).txSeq + 1) % 65536) (linkWho l) else v) := fun v hv => by
    split
    · exact (hv.trans (.of_bump _ F.LNK_DROSS_FORM_COUNT _ _)).trans (.of_raise _ _ _ _ _)
    · exact hv
  have hwork : SendWork s (if 2 ≤ f.cls then s.opportunity 4 l 0 f.stream else s) := by
    split
    · exact .of_opportunity _ _ _ _ _
    · exact .refl s
  unfold Hw.putNew
  simp only [(SendWork.of_bump _ F.LNK_ELIDED_COUNT l _).getLink]
  obtain ⟨bad, hput⟩ := Hw.putWire_getLink _ l (((s.getLink l).txSeq + 1) % 65536) f (((s.getLink l).records.take 5).map s.stampRecord)
  refine ⟨bad, hput.trans ?_⟩
  simp only [Hw.says, Hw.getLink_setLink_self, Hw.lstate, Link.replayOf]
  rw [Hw.fget_congr (Hw.setLink_regs _ _ _), (hlost _ hwork).fget F.LNK_LSTATE_STATE]

/-! ### One flit time -/

/-- R363, R391: the records of the edge that wait and find room beside those of a flit that is resent. -/
def Link.edgeRecords (x : Link) (e : Replay) : List (BitVec 128) := (x.records.takeWhile edgeRecord).take (5 - e.records.length)

/-- A flit is resent with the records given (R363, R380, R381). -/
def Hw.resend (s : Hw) (l : Nat) (x : Link) (i : Nat) (e : Replay) (recs : List (BitVec 128)) : Hw :=
  ((s.setLink l { x with
    records := x.records.drop (x.edgeRecords e).length
    replay := setNth { e with resend := false, records := recs, ack := x.rxSeq } x.replay i
    replaysWindow := x.replaysWindow + 1, replayBeats := countReplay s.beatNo x.replayBeats }).putWire l e.seq e.flit recs).bump
    F.LNK_REPLAYS_COUNT l

/-- A link sends what it has chosen. -/
def Hw.sendChosen (s : Hw) (l : Nat) (x : Link) : Choice → Hw
  | .resend i => match x.replay[i]? with
    | some e => s.resend l x i e ((x.edgeRecords e ++ e.records).map s.stampRecord)
    | none => s
  | .long => match x.long with
    | f :: rest => (s.setLink l { x with long := rest }).putNew l f
    | [] => s
  | .sched i => match x.sched[i]? with
    | some f => (s.setLink l { x with sched := x.sched.eraseIdx i }).putNew l f
    | none => s
  | .dyn => match x.dyn with
    | f :: rest => (s.setLink l { x with dyn := rest, credits := x.credits - 1 }).putNew l f
    | [] => s
  | .idle => (s.setLink l { x with records := x.records.drop 5 }).putWire l x.txSeq Flit.idle ((x.records.take 5).map s.stampRecord)

/-- The slot time that HOLD alone keeps from scheduled data is counted (R364). -/
def Hw.countHold (s : Hw) (l : Nat) : Hw := if s.slotLost l then s.bump F.LNK_SCHED_HOLD_COUNT l else s

theorem SendWork.of_countHold (s : Hw) (l : Nat) : SendWork s (s.countHold l) := by
  unfold Hw.countHold
  split
  · exact .of_bump _ F.LNK_SCHED_HOLD_COUNT _ _
  · exact .refl s

theorem Hw.flitTime_untrained {s : Hw} {l : Nat} (h : (s.getLink l).trained = false) : s.flitTime l = s := by
  unfold Hw.flitTime
  rw [if_pos (by simp [h])]

theorem Hw.flitTime_trained {s : Hw} {l : Nat} (htwin : s.fget F.TWIN_STATUS_STATE ≠ 5) (h : (s.getLink l).trained = true) :
    s.flitTime l = if (s.readyLink l).lstate l ≠ 2 && (s.readyLink l).lstate l ≠ 3 then
        (s.readyLink l).putWire l ((s.readyLink l).getLink l).txSeq Flit.idle [(s.readyLink l).identityRec false]
      else ((s.readyLink l).countHold l).sendChosen l ((s.readyLink l).getLink l) (((s.readyLink l).countHold l).choose l) := by
  have hseed : (s.ageReplays l).seedRefill l = s.ageReplays l := by
    unfold Hw.seedRefill
    exact if_pos (by simp [(s.ageReplays_linksOnly l).fget, htwin])
  unfold Hw.flitTime Hw.readyLink
  rw [if_neg (by simp [h]), hseed]
  generalize (s.ageReplays l).readySched l = t
  rfl

section Admitted

variable {s : Hw} {l : Nat} {x : Link}

/-- A trained link that is admitted or draining sends what it chooses from its queues, from a state with the slots and the stamps of s. -/
theorem Hw.flitTime_admitted (hx : x = (s.readySched l).getLink l) (htwin : s.fget F.TWIN_STATUS_STATE ≠ 5) (htrained : x.trained = true)
    (hup : s.lstate l = 2 ∨ s.lstate l = 3) :
    ∃ t w b, s.flitTime l = t.sendChosen l { x with replaysWindow := w, replayBeats := b } (x.choice (s.lstate l) (x.slotAt (s.slotStream l))) ∧
      SameSlots s t l ∧ RegsKept sendRegs s t := by
  obtain ⟨w, b, hlink⟩ := s.readyLink_getLink l
  rw [← hx] at hlink
  have hready := s.readyLink_sameSlots l
  have hhold := SendWork.of_countHold (s.readyLink l) l
  have hslots := hready.trans (.of_sendWork hhold l)
  refine ⟨(s.readyLink l).countHold l, w, b, ?_, hslots, (RegsKept.of_regs (s.readyLink_linksOnly l).regs).trans hhold.regs⟩
  rw [Hw.flitTime_trained htwin (by rw [← htrained, hx, Hw.readySched_getLink, Hw.readied_trained]), if_neg, hlink, Hw.choose_eq,
    hhold.getLink, hlink, hslots.lstate, hslots.slotStream]
  · rfl
  · rw [hready.lstate]
    rcases hup with h | h <;> simp [h]

/-- What a flit says of an admitted or draining link whose queues are those of x. -/
theorem Hw.says_of {t : Hw} {y : Link} (hup : t.lstate l = 2 ∨ t.lstate l = 3) (hlink : t.getLink l = y) (seq : Nat) :
    t.says l seq = ⟨seq, y.rxSeq, false, y.nack, y.hold, y.freed % 65536⟩ := by
  unfold Hw.says
  rw [hlink]
  rcases hup with h | h <;> simp [h]

/-- R360: where a link has nothing to send, it sends an idle flit with the records that wait. -/
theorem Hw.flitTime_idle (hx : x = (s.readySched l).getLink l) (htwin : s.fget F.TWIN_STATUS_STATE ≠ 5) (htrained : x.trained = true)
    (hup : s.lstate l = 2 ∨ s.lstate l = 3) (hidle : x.choice (s.lstate l) (x.slotAt (s.slotStream l)) = .idle) :
    ((s.flitTime l).getLink l).wire = Flit.idle.bytes ⟨x.txSeq, x.rxSeq, false, x.nack, x.hold, x.freed % 65536⟩
      ((x.records.take 5).map s.stampRecord) ∧
    ((s.flitTime l).getLink l).replay = x.replay ∧ ((s.flitTime l).getLink l).records = x.records.drop 5 := by
  obtain ⟨t, w, b, heq, hslots, -⟩ := Hw.flitTime_admitted hx htwin htrained hup
  rw [heq, hidle]
  simp only [Hw.sendChosen]
  obtain ⟨bad, hput⟩ := Hw.putWire_getLink (t.setLink l { x with replaysWindow := w, replayBeats := b, records := x.records.drop 5 }) l x.txSeq
    Flit.idle ((x.records.take 5).map t.stampRecord)
  rw [hput, Hw.getLink_setLink_self, Hw.says_of (by rw [← hslots.lstate] at hup; exact hup) (Hw.getLink_setLink_self _ _ _), hslots.stampRecord]
  exact ⟨rfl, rfl, rfl⟩

theorem Hw.resend_getLink {t : Hw} (hup : t.lstate l = 2 ∨ t.lstate l = 3) (x : Link) (i : Nat) (e : Replay) (recs : List (BitVec 128)) :
    ∃ w b bad, (t.resend l x i e recs).getLink l = { x with
      records := x.records.drop (x.edgeRecords e).length
      replay := setNth { e with resend := false, records := recs, ack := x.rxSeq } x.replay i
      replaysWindow := w, replayBeats := b, freed := 0, wireBad := bad
      wire := e.flit.bytes ⟨e.seq, x.rxSeq, false, x.nack, x.hold, x.freed % 65536⟩ recs } := by
  unfold Hw.resend
  rw [Hw.getLink, Hw.bump_links]
  obtain ⟨bad, hput⟩ := Hw.putWire_getLink (t.setLink l { x with
    records := x.records.drop (x.edgeRecords e).length
    replay := setNth { e with resend := false, records := recs, ack := x.rxSeq } x.replay i
    replaysWindow := x.replaysWindow + 1, replayBeats := countReplay t.beatNo x.replayBeats }) l e.seq e.flit recs
  refine ⟨x.replaysWindow + 1, countReplay t.beatNo x.replayBeats, bad, hput.trans ?_⟩
  rw [Hw.getLink_setLink_self, Hw.says_of (t := t.setLink l _) hup (Hw.getLink_setLink_self _ _ _)]

theorem Hw.resend_counts (t : Hw) (l : Nat) (x : Link) (i : Nat) (e : Replay) (recs : List (BitVec 128)) :
    (t.resend l x i e recs).rd .LNK_REPLAYS l = satAdd (t.rd .LNK_REPLAYS l) 1 := by
  unfold Hw.resend
  rw [Hw.rd_bump, if_pos ⟨rfl, rfl⟩, Hw.putWire_rd _ _ _ _ _ _ _ (by decide)]
  rfl

/-- R363, R380: the first flit marked for it is resent. -/
theorem Hw.flitTime_resend {i : Nat} {e : Replay} (hx : x = (s.readySched l).getLink l) (htwin : s.fget F.TWIN_STATUS_STATE ≠ 5)
    (htrained : x.trained = true) (hup : s.lstate l = 2 ∨ s.lstate l = 3) (hfirst : x.replay.findIdx? (fun r => r.resend) = some i)
    (he : x.replay[i]? = some e) :
    ((s.flitTime l).getLink l).wire = e.flit.bytes ⟨e.seq, x.rxSeq, false, x.nack, x.hold, x.freed % 65536⟩
      ((x.edgeRecords e ++ e.records).map s.stampRecord) ∧
    ((s.flitTime l).getLink l).replay = setNth
      { e with resend := false, records := (x.edgeRecords e ++ e.records).map s.stampRecord, ack := x.rxSeq } x.replay i ∧
    ((s.flitTime l).getLink l).records = x.records.drop (x.edgeRecords e).length ∧
    (s.flitTime l).rd .LNK_REPLAYS l = satAdd (s.rd .LNK_REPLAYS l) 1 := by
  obtain ⟨t, w, b, heq, hslots, hregs⟩ := Hw.flitTime_admitted hx htwin htrained hup
  have hchosen : x.choice (s.lstate l) (x.slotAt (s.slotStream l)) = .resend i := by simp only [Link.choice, hfirst]
  have hresend : s.flitTime l = t.resend l { x with replaysWindow := w, replayBeats := b } i e ((x.edgeRecords e ++ e.records).map s.stampRecord) := by
    have hfetch : ({ x with replaysWindow := w, replayBeats := b } : Link).replay[i]? = some e := he
    rw [heq, hchosen, ← hslots.stampRecord]
    simp only [Hw.sendChosen, hfetch]
    rfl
  obtain ⟨w', b', bad, hlink⟩ := Hw.resend_getLink (by rw [hslots.lstate]; exact hup) { x with replaysWindow := w, replayBeats := b } i e
    ((x.edgeRecords e ++ e.records).map s.stampRecord)
  rw [hresend, hlink, Hw.resend_counts, hregs .LNK_REPLAYS l (by decide)]
  exact ⟨rfl, rfl, rfl, rfl⟩

/-- R360, R380: a new flit takes the next number and is kept for replay. -/
theorem Hw.putNew_from {t : Hw} {y : Link} (f : Flit) (hslots : SameSlots s t l) (hup : s.lstate l = 2) :
    ∃ bad, ((t.setLink l y).putNew l f).getLink l = { y with
      txSeq := (y.txSeq + 1) % 65536, records := y.records.drop 5
      replay := y.replay ++ [y.replayOf f ((y.records.take 5).map s.stampRecord)]
      freed := 0, wireBad := bad
      wire := f.bytes ⟨(y.txSeq + 1) % 65536, y.rxSeq, false, y.nack, y.hold, y.freed % 65536⟩ ((y.records.take 5).map s.stampRecord) } := by
  obtain ⟨bad, hput⟩ := Hw.putNew_getLink (t.setLink l y) l f
  have hstamp : (t.setLink l y).stampRecord = s.stampRecord := by
    rw [← hslots.stampRecord]
    rfl
  refine ⟨bad, hput.trans ?_⟩
  rw [Hw.getLink_setLink_self, hstamp, Hw.says_of (.inl ((show (t.setLink l y).lstate l = t.lstate l from rfl).trans (hslots.lstate.trans hup)))
    (Hw.getLink_setLink_self _ _ _)]

/-- The queue that a new flit leaves, in the state and the link from which it is sent: the choice of the flit that an admitted link sends
where it resends none. -/
theorem Hw.sendChosen_new {t : Hw} {f : Flit} (hfirst : x.replay.findIdx? (fun r => r.resend) = none) (hroom : x.replay.length < 256)
    (slot : Option Nat) (hf : (∃ rest, x.long = f :: rest) ∨
      (x.long = [] ∧ x.partnerHold = false ∧ ∃ i, slot = some i ∧ x.sched[i]? = some f) ∨
      (x.long = [] ∧ (slot = none ∨ x.partnerHold = true) ∧ 0 < x.credits ∧ ∃ rest, x.dyn = f :: rest)) :
    ∃ long sched dyn credits, t.sendChosen l x (x.choice 2 slot) =
        (t.setLink l { x with long := long, sched := sched, dyn := dyn, credits := credits }).putNew l f ∧
      (x.long = [] → slot = none ∨ x.partnerHold = true → credits = x.credits - 1) := by
  have hroom' : ¬ 256 ≤ x.replay.length := by omega
  rcases hf with ⟨rest, hlong⟩ | ⟨hlong, hhold, i, hslot, hi⟩ | ⟨hlong, hslot, hcredits, rest, hdyn⟩
  · refine ⟨rest, x.sched, x.dyn, x.credits, ?_, fun h => absurd h (by simp [hlong])⟩
    have hchosen : x.choice 2 slot = .long := by simp [Link.choice, hfirst, hroom', hlong]
    rw [hchosen]
    simp only [Hw.sendChosen, hlong]
  · refine ⟨x.long, x.sched.eraseIdx i, x.dyn, x.credits, ?_, fun _ h => absurd h (by simp [hslot, hhold])⟩
    have hchosen : x.choice 2 slot = .sched i := by simp [Link.choice, hfirst, hroom', hlong, hslot, hhold]
    rw [hchosen]
    simp only [Hw.sendChosen, hi]
  · refine ⟨x.long, x.sched, rest, x.credits - 1, ?_, fun _ _ => rfl⟩
    have hchosen : x.choice 2 slot = .dyn := by
      cases slot with
      | none => simp [Link.choice, hfirst, hroom', hlong, hdyn, hcredits]
      | some i => simp [Link.choice, hfirst, hroom', hlong, hdyn, hcredits, hslot.resolve_left (by simp)]
    rw [hchosen]
    simp only [Hw.sendChosen, hdyn]

/-- R360, R364, R365: the flit that an admitted link sends next is new, and kept for replay. -/
theorem Hw.flitTime_new {f : Flit} (hx : x = (s.readySched l).getLink l) (htwin : s.fget F.TWIN_STATUS_STATE ≠ 5) (htrained : x.trained = true)
    (hup : s.lstate l = 2) (hfirst : x.replay.findIdx? (fun r => r.resend) = none) (hroom : x.replay.length < 256)
    (hf : (∃ rest, x.long = f :: rest) ∨
      (x.long = [] ∧ x.partnerHold = false ∧ ∃ i, x.slotAt (s.slotStream l) = some i ∧ x.sched[i]? = some f) ∨
      (x.long = [] ∧ (x.slotAt (s.slotStream l) = none ∨ x.partnerHold = true) ∧ 0 < x.credits ∧ ∃ rest, x.dyn = f :: rest)) :
    ((s.flitTime l).getLink l).wire = f.bytes ⟨(x.txSeq + 1) % 65536, x.rxSeq, false, x.nack, x.hold, x.freed % 65536⟩
      ((x.records.take 5).map s.stampRecord) ∧
    ((s.flitTime l).getLink l).replay = x.replay ++ [x.replayOf f ((x.records.take 5).map s.stampRecord)] ∧
    ((s.flitTime l).getLink l).txSeq = (x.txSeq + 1) % 65536 ∧ ((s.flitTime l).getLink l).records = x.records.drop 5 ∧
    ((s.flitTime l).getLink l).freed = 0 ∧
    (x.long = [] → x.slotAt (s.slotStream l) = none ∨ x.partnerHold = true → ((s.flitTime l).getLink l).credits = x.credits - 1) := by
  obtain ⟨t, w, b, heq, hslots, -⟩ := Hw.flitTime_admitted hx htwin htrained (.inl hup)
  obtain ⟨long, sched, dyn, credits, hsend, hcredits⟩ :=
    Hw.sendChosen_new (t := t) (l := l) (x := { x with replaysWindow := w, replayBeats := b }) hfirst hroom _ hf
  obtain ⟨bad, hput⟩ := Hw.putNew_from (l := l) (y := { x with
    replaysWindow := w, replayBeats := b, long := long, sched := sched, dyn := dyn, credits := credits }) f hslots hup
  have hall : s.flitTime l = _ := heq.trans ((congrArg (fun c => t.sendChosen l _ (x.choice c _)) hup).trans hsend)
  rw [hall, hput]
  exact ⟨rfl, rfl, rfl, rfl, rfl, hcredits⟩

/-- R360, R361: before admission a trained link sends idle flits with its identity. -/
theorem Hw.flitTime_unadmitted (hx : x = (s.readySched l).getLink l) (htwin : s.fget F.TWIN_STATUS_STATE ≠ 5) (htrained : x.trained = true)
    (h2 : s.lstate l ≠ 2) (h3 : s.lstate l ≠ 3) :
    ((s.flitTime l).getLink l).wire =
      Flit.idle.bytes ⟨x.txSeq, x.rxSeq, true, x.nack, x.hold, x.freed % 65536⟩ [s.identityRec false] ∧
    ((s.flitTime l).getLink l).txSeq = x.txSeq ∧ ((s.flitTime l).getLink l).replay = x.replay := by
  obtain ⟨w, b, hlink⟩ := s.readyLink_getLink l
  rw [← hx] at hlink
  have hlinks := s.readyLink_linksOnly l
  have hlstate := (s.readyLink_sameSlots l).lstate
  have hid : (s.readyLink l).identityRec false = s.identityRec false := by
    unfold Hw.identityRec Hw.me
    rw [hlinks.boot, hlinks.fget, hlinks.fget]
  obtain ⟨bad, hput⟩ := Hw.putWire_getLink (s.readyLink l) l x.txSeq Flit.idle [s.identityRec false]
  rw [Hw.flitTime_trained htwin (by rw [← htrained, hx, Hw.readySched_getLink, Hw.readied_trained]), if_pos (by simp [hlstate, h2, h3]), hid,
    hlink, hput, hlink]
  have hsays : (s.readyLink l).says l x.txSeq = ⟨x.txSeq, x.rxSeq, true, x.nack, x.hold, x.freed % 65536⟩ := by
    have hnot : (s.lstate l != 2 && s.lstate l != 3) = true := by simp [h2, h3]
    unfold Hw.says
    rw [hlink, hlstate, hnot]
  rw [hsays]
  exact ⟨rfl, rfl, rfl⟩

end Admitted

end Sys2Proof.Machine
end

section
/-!
PROOFS. A flit that no ACK covers (R368, R380, R381, R383): its resends, its dross form, and a link that fails.
-/
namespace Sys2Proof.Machine

/-- From s to t traffic has been put on links or set down in the link unit: the registers, the host's side and what each link keeps for
replay are as before. -/
structure Reroutes (s t : Hw) : Prop where
  regs : t.regs = s.regs
  host : t.host = s.host
  replay : ∀ k, (t.getLink k).replay = (s.getLink k).replay

namespace Reroutes

theorem refl (s : Hw) : Reroutes s s := ⟨rfl, rfl, fun _ => rfl⟩

theorem trans {s t v : Hw} (h : Reroutes s t) (h' : Reroutes t v) : Reroutes s v :=
  ⟨h'.regs.trans h.regs, h'.host.trans h.host, fun k => (h'.replay k).trans (h.replay k)⟩

theorem foldl {α : Type} (f : Hw → α → Hw) (hf : ∀ s a, Reroutes s (f s a)) (l : List α) : ∀ s : Hw, Reroutes s (l.foldl f s) := by
  induction l with
  | nil => exact refl
  | cons a l ih => exact fun s => (hf s a).trans (ih _)

theorem of_lnk (s : Hw) (x : LinkUnit) : Reroutes s { s with lnk := x } := ⟨rfl, rfl, fun _ => rfl⟩

theorem of_setLink (s : Hw) (l : Nat) (x : Link) (h : x.replay = (s.getLink l).replay) : Reroutes s (s.setLink l x) := by
  refine ⟨rfl, rfl, fun k => ?_⟩
  rw [Hw.getLink_setLink]
  split
  · next hk => rw [h, hk]
  · rfl

theorem of_sendFlit (s : Hw) (f : Flit) (sched : Bool) : Reroutes s (s.sendFlit f sched) := by
  unfold Hw.sendFlit
  split
  · simp only
    split
    · exact of_setLink s _ _ rfl
    · split
      · exact of_setLink s _ _ rfl
      · exact of_setLink s _ _ rfl
  · exact of_lnk s _

theorem of_sendRecord (s : Hw) (l : Nat) (r : BitVec 128) : Reroutes s (s.sendRecord l r) := of_setLink s l _ rfl

theorem of_routeRecord (s : Hw) (dst : Nat) (r : BitVec 128) : Reroutes s (s.routeRecord dst r) := by
  unfold Hw.routeRecord
  split
  · exact of_sendRecord s _ r
  · exact of_lnk s _

theorem of_resendFlit (s : Hw) (l : Nat) (f : Flit) : Reroutes s (s.resendFlit l f) := by
  unfold Hw.resendFlit
  simp only
  split
  · exact of_sendFlit s f false
  · split
    · refine of_setLink s _ _ ?_
      split <;> rfl
    · exact of_lnk s _

theorem of_resendRecord (s : Hw) (l : Nat) (r : BitVec 128) : Reroutes s (s.resendRecord l r) := by
  unfold Hw.resendRecord
  split
  · exact of_routeRecord s _ r
  · split
    · exact of_sendRecord s _ r
    · exact of_lnk s _

theorem of_resends (s : Hw) (l : Nat) (fl : List Flit) (rs : List (BitVec 128)) :
    Reroutes s (rs.foldl (fun s r => s.resendRecord l r) (fl.foldl (fun s f => s.resendFlit l f) s)) :=
  (foldl _ (fun s f => of_resendFlit s l f) fl s).trans (foldl _ (fun s r => of_resendRecord s l r) rs _)

end Reroutes

/-- R368: rerouting counts, and changes neither the host's side nor what links keep for replay. -/
theorem Hw.rerouteLink_keeps (s : Hw) (l : Nat) (replay : List Replay) (recs : List (BitVec 128)) (flits : List Flit) :
    RegsKept [.LNK_REROUTED] s (s.rerouteLink l replay recs flits) ∧ (s.rerouteLink l replay recs flits).host = s.host ∧
    ∀ k, ((s.rerouteLink l replay recs flits).getLink k).replay = (s.getLink k).replay := by
  unfold Hw.rerouteLink
  simp only
  split
  · have h := Reroutes.of_resends s l ((replay.map (·.flit)).filter (fun f => f.cls != 0) ++ flits)
      ((replay.flatMap (·.records)).filter (fun r => recordTwin r || !recordLocal r) ++ recs.filter (fun r => recordTwin r || !recordLocal r))
    exact ⟨(RegsKept.of_regs h.regs).bump F.LNK_REROUTED_COUNT l _ (by decide), (Hw.bump_host _ _ _ _).trans h.host,
      fun k => by rw [Hw.getLink, Hw.bump_links]; exact h.replay k⟩
  · have h := fun x => (Reroutes.of_lnk s x).trans (Reroutes.of_resends _ l flits (recs.filter (fun r => recordTwin r || !recordLocal r)))
    exact ⟨.of_regs (h _).regs, (h _).host, (h _).replay⟩

theorem Hw.linkStop_keeps (s : Hw) (l st : Nat) (hst : st < 4) :
    (s.linkStop l st).lstate l = st ∧ ((s.linkStop l st).getLink l).replay = [] ∧ (s.linkStop l st).host = s.host := by
  unfold Hw.linkStop
  simp only
  obtain ⟨hregs, hhost, hreplay⟩ := Hw.rerouteLink_keeps (((s.doubtLink l).setLink l { s.getLink l with
    trained := false, txSeq := 0, rxSeq := 0, replay := [], credits := 0, freed := 0, partnerHold := false, nack := false,
    records := [], long := [], sched := [], dyn := [], identity := none, peerReady := false, replaysWindow := 0, replayBeats := [],
    bad0 := 0, bad1 := 0, taken := [] }).fset F.LNK_LSTATE_STATE st l) l (s.getLink l).replay (s.getLink l).records
    ((s.getLink l).long ++ (s.getLink l).sched ++ (s.getLink l).dyn)
  refine ⟨?_, ?_, hhost⟩
  · unfold Hw.lstate Hw.fget
    rw [hregs _ _ (by decide)]
    exact (Hw.fget_fset_self _ F.LNK_LSTATE_STATE _ _).trans (Nat.mod_eq_of_lt hst)
  · rw [hreplay, Hw.getLink, Hw.fset_links, ← Hw.getLink, Hw.getLink_setLink_self]

theorem Hw.takeTwinBit_keeps (s : Hw) (l : Nat) : (s.takeTwinBit l).lstate l = s.lstate l ∧
    ((s.takeTwinBit l).getLink l).replay = (s.getLink l).replay ∧ (s.takeTwinBit l).host = s.host := by
  unfold Hw.takeTwinBit
  split
  · exact ⟨rfl, rfl, rfl⟩
  · refine ⟨?_, ?_, rfl⟩
    · unfold Hw.lstate
      rw [Hw.modLink, Hw.fget_congr (Hw.setLink_regs _ _ _), Hw.fget_wr64 _ _ _ _ (by decide) (by decide)]
    · rw [Hw.modLink, Hw.getLink_setLink_self]
      rfl

/-- R383: an admitted link that fails trains again. -/
theorem Hw.linkFail_admitted {s v : Hw} {l : Nat} (cause : Nat) (hup : s.lstate l = 2) (hroom : EventRoom v) (hhost : s.host = v.host) :
    (s.linkFail l cause).lstate l = 1 ∧ ((s.linkFail l cause).getLink l).replay = [] ∧ Raises v (s.linkFail l cause) 0x6002 l cause := by
  obtain ⟨hst, hreplay, hhost1⟩ := s.linkStop_keeps l 1 (by decide)
  obtain ⟨hst2, hreplay2, hhost2⟩ := (s.linkStop l 1).takeTwinBit_keeps l
  unfold Hw.linkFail
  rw [if_pos hup]
  refine ⟨?_, ?_, .of_raise hroom (by rw [Hw.bump_host, hhost2, hhost1, hhost]) _ _ _ _⟩
  · unfold Hw.lstate at *
    rw [Hw.fget_raise _ _ _ _ _ F.LNK_LSTATE_STATE, Hw.fget_bump_reg (g := F.LNK_LSTATE_STATE) _ _ _ _ (by decide), hst2, hst]
  · rw [Hw.getLink, Hw.raise_links, Hw.bump_links, ← Hw.getLink, hreplay2, hreplay]

/-! ### The replay timeout -/

section Timeout

variable {s : Hw} {l : Nat} {e : Replay} {rest : List Replay}

theorem Hw.failReplay_nothing (h : (s.getLink l).replay = [] ∨ ∃ e rest, (s.getLink l).replay = e :: rest ∧ e.resend = true) :
    s.failReplay l = s := by
  unfold Hw.failReplay
  rcases h with h | ⟨e, rest, h, hresend⟩
  · simp only [h]
  · simp only [h, hresend, if_true]

/-- The link with its oldest flit, and those after it, marked for resending: the oldest after its failure number k. -/
def Link.failed (x : Link) (e : Replay) (rest : List Replay) (k : Nat) : Link :=
  { x with replay := { e with fails := k, resend := true, flit := if k = 9 then { e.flit with drossForm := true } else e.flit } ::
    rest.map (fun r => { r with resend := true }) }

theorem Hw.failReplay_eq (h : (s.getLink l).replay = e :: rest) (hresend : e.resend = false) :
    s.failReplay l =
      let s1 := s.setLink l ((s.getLink l).failed e rest (e.fails + 1))
      let s2 := if e.fails + 1 = 9 then (s1.bump F.LNK_DROSS_FORM_COUNT l).raise 0x6010 l e.seq (linkWho l) else s1
      if 17 ≤ e.fails + 1 then s2.linkFail l 2 else s2 := by
  unfold Hw.failReplay
  simp only [h, hresend, Bool.false_eq_true, if_false]
  rfl

theorem Hw.failReplay_resends (h : (s.getLink l).replay = e :: rest) (hresend : e.resend = false) (h8 : e.fails ≠ 8) (h16 : e.fails < 16) :
    s.failReplay l = s.setLink l { s.getLink l with
      replay := { e with fails := e.fails + 1, resend := true } :: rest.map (fun r => { r with resend := true }) } := by
  have h9 : e.fails + 1 ≠ 9 := by omega
  rw [Hw.failReplay_eq h hresend]
  simp only [Link.failed, h9, if_false, show ¬ 17 ≤ e.fails + 1 by omega]

/-- R381: at its 9th failure a flit takes dross form. -/
theorem Hw.failReplay_dross (hroom : EventRoom s) (h : (s.getLink l).replay = e :: rest) (hresend : e.resend = false) (h8 : e.fails = 8) :
    ((s.failReplay l).getLink l).replay = { e with fails := 9, resend := true, flit := { e.flit with drossForm := true } } ::
      rest.map (fun r => { r with resend := true }) ∧
    (s.failReplay l).rd .LNK_DROSS_FORM l = satAdd (s.rd .LNK_DROSS_FORM l) 1 ∧ Raises s (s.failReplay l) 0x6010 l e.seq := by
  have heq : s.failReplay l = ((s.setLink l ((s.getLink l).failed e rest 9)).bump F.LNK_DROSS_FORM_COUNT l).raise 0x6010 l e.seq (linkWho l) := by
    rw [Hw.failReplay_eq h hresend, h8]
    rfl
  rw [heq]
  refine ⟨?_, ?_, .of_raise hroom (by rw [Hw.bump_host]; rfl) _ _ _ _⟩
  · rw [Hw.getLink, Hw.raise_links, Hw.bump_links, ← Hw.getLink, Hw.getLink_setLink_self]
    rfl
  · rw [Hw.rd_raise _ _ _ _ _ _ _ (by decide), Hw.rd_bump, if_pos ⟨rfl, rfl⟩]
    rfl

/-- R381, R383: when its dross form has failed 8 times an admitted link trains again. -/
theorem Hw.failReplay_fails (hroom : EventRoom s) (h : (s.getLink l).replay = e :: rest) (hresend : e.resend = false) (h16 : 16 ≤ e.fails)
    (hup : s.lstate l = 2) :
    (s.failReplay l).lstate l = 1 ∧ ((s.failReplay l).getLink l).replay = [] ∧ Raises s (s.failReplay l) 0x6002 l 2 := by
  have heq : s.failReplay l = (s.setLink l ((s.getLink l).failed e rest (e.fails + 1))).linkFail l 2 := by
    rw [Hw.failReplay_eq h hresend]
    simp only [show e.fails + 1 ≠ 9 by omega, if_false, show 17 ≤ e.fails + 1 by omega, if_true]
  rw [heq]
  exact Hw.linkFail_admitted 2 hup hroom rfl

end Timeout

/-! ### O35 -/

theorem exec_flitTime (l : Fin 64) (s : State) : exec (.flitTime l) s = s.onHw (fun h => h.flitTime l) := rfl
theorem exec_replayTimeout (l : Fin 64) (s : State) : exec (.replayTimeout l) s = s.onHw (fun h => h.failReplay l) := rfl

/-- The cases in which an admitted link has nothing to send. -/
theorem Link.choice_idle {x : Link} {lstate : Nat} {slot : Option Nat} (hfirst : x.replay.findIdx? (fun r => r.resend) = none)
    (h : lstate = 3 ∨ 256 ≤ x.replay.length ∨
      (x.long = [] ∧ (slot = none ∨ x.partnerHold = true) ∧ (x.dyn = [] ∨ x.credits = 0))) : x.choice lstate slot = .idle := by
  rcases h with h | h | ⟨hlong, hslot, hdyn⟩
  · simp [Link.choice, hfirst, h]
  · simp [Link.choice, hfirst, h]
  · have hnone : (!x.dyn.isEmpty && decide (0 < x.credits)) = false := by rcases hdyn with h | h <;> simp [h]
    cases slot with
    | none => simp only [Link.choice, hfirst, hlong, List.isEmpty_nil, Bool.not_true, Bool.false_eq_true, if_false, hnone, ite_self]
    | some i =>
      simp only [Link.choice, hfirst, hlong, List.isEmpty_nil, Bool.not_true, Bool.false_eq_true, if_false, hnone,
        hslot.resolve_left (by simp), if_true, ite_self]

/-- Settles O35, by what a link chooses for a flit time and by how often its oldest flit has failed. -/
theorem linkSending : Obligations.LinkSending := by
  unfold Obligations.LinkSending
  rintro s l x seq recs slot hx htwin rfl rfl rfl
  refine ⟨fun h => ?_, fun h => ?_, fun htrained h2 h3 => ?_, fun htrained hup => ⟨fun i e mark sent hfirst he hmark hsent => ?_,
      fun hfirst h => ?_, fun hfirst hadm hroom f hf => ?_⟩,
    fun e rest h hresend => ⟨fun h8 h16 => ?_, fun h8 hroom => ?_, fun h16 hup hroom => ?_⟩, fun h => ?_⟩
  · exact .of_onHw _ (exec_flitTime l s) (Hw.flitTime_untrained (by rw [← h, hx, Hw.readySched_getLink, Hw.readied_trained]))
  · rw [hx, Hw.readySched_getLink, Hw.readied_outside]
    rcases h with h | h <;> simp [h]
  · exact .of_onHw _ (exec_flitTime l s) (Hw.flitTime_unadmitted hx htwin htrained h2 h3)
  · subst hmark hsent
    exact .of_onHw _ (exec_flitTime l s) (Hw.flitTime_resend hx htwin htrained hup hfirst he)
  · exact .of_onHw _ (exec_flitTime l s) (Hw.flitTime_idle hx htwin htrained hup (Link.choice_idle hfirst h))
  · exact .of_onHw _ (exec_flitTime l s) (Hw.flitTime_new hx htwin htrained hadm hfirst hroom hf)
  · exact .of_onHw _ (exec_replayTimeout l s) (Hw.failReplay_resends h hresend h8 h16)
  · exact .of_onHw _ (exec_replayTimeout l s) (Hw.failReplay_dross hroom h hresend h8)
  · exact .of_onHw _ (exec_replayTimeout l s) (Hw.failReplay_fails hroom h hresend h16 hup)
  · exact .of_onHw _ (exec_replayTimeout l s) (Hw.failReplay_nothing h)

end Sys2Proof.Machine
end

section
/-!
PROOFS. Stretches of memory: what a run filled with zeros, copied or left free reads as, and that the accounting of a read of GDDR7
leaves the tile stores alone (R59, R520, R340).
-/
namespace Sys2Proof.Machine

/-! ### Bytes and check bytes -/

theorem Sparse.find?_eq_none_of {α : Type} {l : Sparse α} {k : Nat} (h : ∀ e ∈ l, e.1 ≠ k) : Sparse.find? l k = none := by
  induction l with
  | nil => rfl
  | cons e l ih =>
    obtain ⟨j, v⟩ := e
    have hj : j ≠ k := h (j, v) List.mem_cons_self
    simp only [Sparse.find?, if_neg hj]
    exact ih (fun e he => h e (List.mem_cons_of_mem _ he))

/-- Looking up a key in a list from which other keys have been removed. -/
theorem Sparse.find?_filter_of {α : Type} {l : Sparse α} {k : Nat} (p : Nat × α → Bool) (h : ∀ v, p (k, v) = true) :
    Sparse.find? (l.filter p) k = Sparse.find? l k := by
  induction l with
  | nil => rfl
  | cons e l ih =>
    obtain ⟨j, v⟩ := e
    by_cases hj : j = k
    · subst hj
      simp [h v, Sparse.find?]
    · by_cases hp : p (j, v) = true <;> simp [hp, Sparse.find?, hj, ih]

namespace Mem

/-- A reader gets the stored byte of a word with good check bytes. -/
theorem goodByte_of_good {m : Mem} {k : Nat} (h : Sparse.get 0 m.syn (k / 8) = 0) : m.goodByte k = m.byte k := by
  have hs : m.syndrome (k / 8) = .clean := by unfold syndrome; rw [h]; rfl
  unfold goodByte
  simp only [hs]

/-- What a reader gets depends on the byte, its place in the word and the word's check byte. -/
theorem goodByte_congr {m m' : Mem} {k k' : Nat} (hb : m.byte k = m'.byte k')
    (hs : Sparse.get 0 m.syn (k / 8) = Sparse.get 0 m'.syn (k' / 8)) (hk : k % 8 = k' % 8) : m.goodByte k = m'.goodByte k' := by
  unfold goodByte syndrome
  simp only [hb, hs, hk]

/-- Where all writes of a key write b, and one does or it held b, the key holds b. -/
theorem byte_foldl_putByte {α : Type} (key : α → Nat) (val : α → Byte) (k : Nat) (b : Byte) (l : List α) : ∀ m : Mem,
    (∀ a ∈ l, key a = k → val a = b) → (m.byte k = b ∨ ∃ a ∈ l, key a = k) →
    (l.foldl (fun r a => r.putByte (key a) (val a)) m).byte k = b := by
  induction l with
  | nil => intro m _ h; simpa using h
  | cons a l ih =>
    intro m hv h
    refine ih _ (fun a ha => hv a (List.mem_cons_of_mem _ ha)) ?_
    rw [byte_putByte]
    by_cases hk : key a = k
    · exact .inl (by rw [if_pos hk]; exact hv a List.mem_cons_self hk)
    · rw [if_neg hk]
      simpa [hk] using h

/-- The same for the check byte of a word. -/
theorem syn_foldl_putSyn {α : Type} (key : α → Nat) (val : α → Nat) (w : Nat) (e : BitVec 8) (l : List α) : ∀ m : Mem,
    (∀ a ∈ l, key a = w → BitVec.ofNat 8 (val a) = e) → (Sparse.get 0 m.syn w = e ∨ ∃ a ∈ l, key a = w) →
    Sparse.get 0 (l.foldl (fun r a => r.putSyn (key a) (val a)) m).syn w = e := by
  induction l with
  | nil => intro m _ h; simpa using h
  | cons a l ih =>
    intro m hv h
    refine ih _ (fun a ha => hv a (List.mem_cons_of_mem _ ha)) ?_
    rw [syn_putSyn]
    by_cases hk : key a = w
    · exact .inl (by rw [if_pos hk]; exact hv a List.mem_cons_self hk)
    · rw [if_neg hk]
      simpa [hk] using h

theorem syn_foldl_putByte {α : Type} (key : α → Nat) (val : α → Byte) (l : List α) : ∀ m : Mem,
    (l.foldl (fun r a => r.putByte (key a) (val a)) m).syn = m.syn := by
  induction l with
  | nil => exact fun _ => rfl
  | cons a l ih => exact fun m => ih _

theorem byte_foldl_putSyn {α : Type} (key : α → Nat) (val : α → Nat) (k : Nat) (l : List α) : ∀ m : Mem,
    (l.foldl (fun r a => r.putSyn (key a) (val a)) m).byte k = m.byte k := by
  induction l with
  | nil => exact fun _ => rfl
  | cons a l ih => exact fun m => ih _

/-- A byte that is neither listed nor in a free stretch is 0. -/
theorem byte_of_not_busy {m : Mem} {a n i : Nat} (hi : i < n) (h : i ∉ m.busy a n) : m.byte (a + i) = 0 := by
  simp only [busy, List.mem_append, not_or, List.mem_map, List.mem_filter, List.mem_flatMap, List.mem_range, Bool.and_eq_true,
    decide_eq_true_eq, not_exists, not_and] at h
  obtain ⟨hcells, hfree⟩ := h
  have hcell : Sparse.find? m.cells (a + i) = none := Sparse.find?_eq_none_of (fun e he hk => by
    exact hcells e ⟨he, by omega, by omega⟩ (by omega))
  have hdflt : m.free.find? (fun e => decide (e.1 ≤ a + i) && decide (a + i ≤ e.2.1)) = none := by
    rw [List.find?_eq_none]
    intro f hf hin
    simp only [Bool.and_eq_true, decide_eq_true_eq] at hin
    obtain ⟨hlo, hhi⟩ := hin
    have hmin : min (a + n) (f.2.1 + 1) > a + i := by omega
    have hmax : max a f.1 ≤ a + i := by omega
    exact hfree f hf (a + i - max a f.1) (by omega) (by omega)
  unfold byte dflt Sparse.get
  rw [hcell, hdflt]
  rfl

/-- A word of a range without an error listed has a good check byte. -/
theorem syn_of_not_error {m : Mem} {a n w : Nat} (hlo : a / 8 ≤ w) (hhi : w * 8 < a + n) (h : w ∉ m.errors a n) :
    Sparse.get 0 m.syn w = 0 := by
  have hnone : Sparse.find? m.syn w = none := Sparse.find?_eq_none_of (fun e he hk => by
    subst hk
    exact h (List.mem_map.2 ⟨e, List.mem_filter.2 ⟨he, by simp [hlo, hhi]⟩, rfl⟩))
  unfold Sparse.get
  rw [hnone]
  rfl

theorem mem_errors {m : Mem} {a n w : Nat} (h : w ∈ m.errors a n) : a / 8 ≤ w ∧ w * 8 < a + n := by
  simp only [errors, List.mem_map, List.mem_filter, Bool.and_eq_true, decide_eq_true_eq] at h
  obtain ⟨e, ⟨_, he⟩, rfl⟩ := h
  exact he

/-! ### Runs -/

theorem goodByte_zeroRun {m : Mem} {a n i : Nat} (hi : i < n) : (m.zeroRun a n).goodByte (a + i) = 0 := by
  unfold zeroRun
  simp only
  rw [goodByte_of_good]
  · rw [byte_foldl_putSyn (fun w => w) (fun _ => 0)]
    refine byte_foldl_putByte (fun j => a + j) (fun _ => 0) _ _ _ _ (fun _ _ _ => rfl) ?_
    by_cases hb : i ∈ m.busy a n
    · exact .inr ⟨i, hb, rfl⟩
    · exact .inl (byte_of_not_busy hi hb)
  · refine syn_foldl_putSyn (fun w => w) (fun _ => 0) _ _ _ _ (fun _ _ _ => rfl) ?_
    rw [syn_foldl_putByte (fun j => a + j) (fun _ => 0)]
    by_cases he : (a + i) / 8 ∈ m.errors a n
    · exact .inr ⟨_, he, rfl⟩
    · exact .inl (syn_of_not_error (by omega) (by omega) he)

/-- A run filled with zeros leaves what lies below it alone. -/
theorem byte_zeroRun_below {m : Mem} {a n k : Nat} (hk : k < a) : (m.zeroRun a n).byte k = m.byte k := by
  unfold zeroRun
  rw [byte_foldl_putSyn (fun w => w) (fun _ => 0)]
  exact byte_foldl_putByte (fun j => a + j) (fun _ => 0) _ _ _ _ (fun j _ hj => by omega) (.inl rfl)

theorem syn_zeroRun_below {m : Mem} {a n w : Nat} (hw : w < a / 8) :
    Sparse.get 0 (m.zeroRun a n).syn w = Sparse.get 0 m.syn w := by
  unfold zeroRun
  simp only
  refine syn_foldl_putSyn (fun w => w) (fun _ => 0) _ _ _ _ (fun v hv h => ?_) (.inl ?_)
  · have := (mem_errors hv).1
    omega
  · rw [syn_foldl_putByte (fun j => a + j) (fun _ => 0)]

theorem byte_copyRun {m : Mem} {src dst n i : Nat} (hi : i < n) : (m.copyRun src dst n).byte (dst + i) = m.byte (src + i) := by
  unfold copyRun
  simp only
  rw [byte_foldl_putSyn (fun k => dst / 8 + k) (fun k => (Sparse.get 0 m.syn (src / 8 + k)).toNat)]
  refine byte_foldl_putByte (fun j => dst + j) (fun j => m.byte (src + j)) _ _ _ _ (fun j _ hj => ?_) ?_
  · rw [show j = i by omega]
  · by_cases hs : i ∈ m.busy src n ++ m.busy dst n
    · exact .inr ⟨i, hs, rfl⟩
    · simp only [List.mem_append, not_or] at hs
      exact .inl ((byte_of_not_busy hi hs.2).trans (byte_of_not_busy hi hs.1).symm)

theorem syn_copyRun {m : Mem} {src dst n i : Nat} (hsrc : src % 8 = 0) (hdst : dst % 8 = 0) (hi : i < n) :
    Sparse.get 0 (m.copyRun src dst n).syn ((dst + i) / 8) = Sparse.get 0 m.syn ((src + i) / 8) := by
  have hd : (dst + i) / 8 = dst / 8 + i / 8 := by omega
  have hs : (src + i) / 8 = src / 8 + i / 8 := by omega
  unfold copyRun
  simp only
  rw [hd, hs]
  refine syn_foldl_putSyn (fun k => dst / 8 + k) (fun k => (Sparse.get 0 m.syn (src / 8 + k)).toNat) _ _ _ _ (fun j _ hj => ?_) ?_
  · rw [show j = i / 8 by omega]
    exact BitVec.ofNat_toNat _ _
  · rw [syn_foldl_putByte (fun j => dst + j) (fun j => m.byte (src + j))]
    by_cases h1 : src / 8 + i / 8 ∈ m.errors src n
    · exact .inr ⟨i / 8, List.mem_append_left _ (List.mem_map.2 ⟨_, h1, by omega⟩), rfl⟩
    · by_cases h2 : dst / 8 + i / 8 ∈ m.errors dst n
      · exact .inr ⟨i / 8, List.mem_append_right _ (List.mem_map.2 ⟨_, h2, by omega⟩), rfl⟩
      · exact .inl ((syn_of_not_error (by omega) (by omega) h2).trans (syn_of_not_error (by omega) (by omega) h1).symm)

theorem goodByte_copyRun {m : Mem} {src dst n i : Nat} (hsrc : src % 8 = 0) (hdst : dst % 8 = 0) (hi : i < n) :
    (m.copyRun src dst n).goodByte (dst + i) = m.goodByte (src + i) :=
  goodByte_congr (byte_copyRun hi) (syn_copyRun hsrc hdst hi) (by omega)

theorem goodByte_zeroRun_below {m : Mem} {a n k : Nat} (hk : k / 8 < a / 8) : (m.zeroRun a n).goodByte k = m.goodByte k :=
  goodByte_congr (byte_zeroRun_below (by omega)) (syn_zeroRun_below hk) rfl

/-! ### Stretches left free -/

theorem goodByte_setFree {m : Mem} {lo hi n k : Nat} (hlo : lo ≤ k) (hhi : k ≤ hi) :
    (m.setFree lo hi n).goodByte k = Config.freeByte n k := by
  have hcell : Sparse.find? (m.setFree lo hi n).cells k = none := Sparse.find?_eq_none_of (fun e he hk => by
    have := (List.mem_filter.1 he).2
    simp [hk, hlo, hhi] at this)
  have hsyn : Sparse.find? (m.setFree lo hi n).syn (k / 8) = none := Sparse.find?_eq_none_of (fun e he hk => by
    have := (List.mem_filter.1 he).2
    simp only [hk, Bool.not_eq_true', Bool.and_eq_false_iff, decide_eq_false_iff_not] at this
    omega)
  rw [goodByte_of_good (by unfold Sparse.get; rw [hsyn]; rfl)]
  unfold byte Sparse.get
  rw [hcell]
  simp [dflt, setFree, hlo, hhi]

theorem byte_setFree_outside {m : Mem} {lo hi n k : Nat} (h : k < lo ∨ hi < k) : (m.setFree lo hi n).byte k = m.byte k := by
  unfold byte Sparse.get
  rw [dflt_setFree _ _ _ _ _ (by omega)]
  have hcell : Sparse.find? (m.setFree lo hi n).cells k = Sparse.find? m.cells k := Sparse.find?_filter_of _ (fun v => by
    simp only [Bool.not_eq_true', Bool.and_eq_false_iff, decide_eq_false_iff_not]
    omega)
  rw [hcell]

theorem syn_markDross_apart {m : Mem} {k w : Nat} (h : w / 16 ≠ k / 128) : Sparse.get 0 (m.markDross k).syn w = Sparse.get 0 m.syn w := by
  refine syn_foldl_putSyn (fun i => k / 128 * 16 + i) (fun _ => 0xFF) _ _ _ _ (fun i hi he => ?_) (.inl rfl)
  have := List.mem_range.1 hi
  omega

theorem goodByte_markDross_apart {m : Mem} {k a : Nat} (h : a / 128 ≠ k / 128) : (m.markDross k).goodByte a = m.goodByte a :=
  goodByte_congr (byte_markDross _ _ _) (syn_markDross_apart (by omega)) rfl

end Mem

/-! ### Accounting of GDDR7 and the stores -/

/-- From s to t the physical tiles are the same, and a reader gets the same bytes of their stores. -/
structure StoresKept (s t : Hw) : Prop where
  phys : t.phys = s.phys
  good : ∀ k, storeBase ≤ k → t.mem.goodByte k = s.mem.goodByte k

namespace StoresKept

theorem refl (s : Hw) : StoresKept s s := ⟨rfl, fun _ _ => rfl⟩

theorem trans {s t v : Hw} (h : StoresKept s t) (h' : StoresKept t v) : StoresKept s v :=
  ⟨h'.phys.trans h.phys, fun k hk => (h'.good k hk).trans (h.good k hk)⟩

theorem of_mem {s t : Hw} (hp : t.phys = s.phys) (hm : t.mem = s.mem) : StoresKept s t := ⟨hp, fun _ _ => by rw [hm]⟩

theorem bump {s t : Hw} (h : StoresKept s t) (f : Fld) (u n : Nat) : StoresKept s (t.bump f u n) :=
  h.trans (of_mem (Hw.bump_phys _ _ _ _) (Hw.bump_mem _ _ _ _))

theorem raise {s t : Hw} (h : StoresKept s t) (code a0 a1 : Nat) (w : Who) : StoresKept s (t.raise code a0 a1 w) :=
  h.trans (of_mem (Hw.raise_phys _ _ _ _ _) (Hw.raise_mem _ _ _ _ _))

theorem foldl {α : Type} (f : Hw → α → Hw) (l : List α) (hf : ∀ a ∈ l, ∀ s, StoresKept s (f s a)) :
    ∀ s : Hw, StoresKept s (l.foldl f s) := by
  induction l with
  | nil => exact refl
  | cons a l ih => exact fun s => (hf a List.mem_cons_self s).trans (ih (fun a ha => hf a (List.mem_cons_of_mem _ ha)) _)

theorem of_countSingle (s : Hw) (c : Nat) (e : Syndrome) : StoresKept s (s.countSingle c e) := by
  refine of_mem ?_ (Hw.countSingle_mem _ _ _)
  unfold Hw.countSingle Hw.noteErrs
  split <;> simp [Hw.modChan, Hw.setChan]

theorem of_propose (s : Hw) (c page cause : Nat) : StoresKept s (s.propose c page cause) := by
  refine of_mem ?_ (Hw.propose_mem _ _ _ _)
  unfold Hw.propose
  split
  · rfl
  · split <;> simp

theorem of_accountWords (s : Hw) {a : Nat} (ha : a < storeBase) (es : List (Nat × Syndrome)) (event : Nat) :
    StoresKept s (s.accountWords a es event) := by
  have hones : ∀ c (l : List (Nat × Syndrome)), StoresKept s (l.foldl (fun s e => s.countSingle c e.2) s) := fun c l =>
    foldl (fun s (e : Nat × Syndrome) => s.countSingle c e.2) l (fun e _ s => of_countSingle s c e.2) s
  have hdross : ∀ t : Hw, StoresKept t { t with mem := t.mem.markDross a } := fun t =>
    ⟨rfl, fun k hk => Mem.goodByte_markDross_apart (by unfold storeBase at *; omega)⟩
  unfold Hw.accountWords
  simp only
  split
  · split
    · exact hones _ _
    · exact (hones _ _).trans (of_mem rfl (Hw.queueScrub_mem _ _ _))
  · exact (((((hones _ _).trans (hdross _)).bump F.FLT_DROSS_MADE_COUNT 0 1).bump F.MEM_CH_UE_COUNT _ _).raise _ _ _ _).trans (of_propose _ _ _ _)

theorem of_accountRun (s : Hw) {a n : Nat} (h : a + n ≤ storeBase) : StoresKept s (s.accountRun a n) := by
  refine foldl _ _ (fun k hk s => of_accountWords s ?_ _ _) s
  simp only [List.mem_eraseDups, List.mem_map, List.mem_filter, Bool.and_eq_true, decide_eq_true_eq] at hk
  obtain ⟨e, ⟨_, _, he⟩, rfl⟩ := hk
  unfold storeBase at *
  omega

end StoresKept

theorem Hw.capacity_le (s : Hw) : s.capacity ≤ storeBase := by
  unfold Hw.capacity windowBase storeBase
  split
  · omega
  · split <;> omega

end Sys2Proof.Machine
end

section
/-!
PROOFS. Staging a frame, filling a partition and the end of a budget (R49, R55, R57, R59).
-/
namespace Sys2Proof.Machine

theorem exec_frameStaged (k : Fin 512) (back : Bool) (s : State) : exec (.frameStaged k back) s =
    s.onHw (fun h => if !h.running then h else if back then h.frameBack k.val else h.stageFrame k.val) := rfl
theorem exec_partitionFilled (k : Fin 512) (q : Fin 4) (s : State) : exec (.partitionFilled k q) s =
    s.onHw (fun h => if h.running then h.partitionFilled k.val q.val else h) := rfl
theorem exec_budgetExhausted (k : Fin 512) (q : Fin 4) (s : State) : exec (.budgetExhausted k q) s =
    s.onHw (fun h => h.budgetOut k.val q.val) := rfl

theorem Hw.getTile_modTile_self (s : Hw) (t : Nat) (f : Tile → Tile) : (s.modTile t f).getTile t = f (s.getTile t) :=
  Hw.getTile_setTile_self _ _ _

theorem Hw.getQueue_modQueue_self (s : Hw) (t q : Nat) (f : QueueState → QueueState) :
    (s.modQueue t q f).getQueue t q = f (s.getQueue t q) := by
  unfold Hw.modQueue Hw.setQueue
  unfold Hw.getQueue
  rw [Hw.getTile_setTile_self]
  exact Sparse.get_put_self _ _ _ _

theorem Hw.getPhys_modPhys_self (s : Hw) (p : Nat) (f : Phys → Phys) : (s.modPhys p f).getPhys p = f (s.getPhys p) :=
  Hw.getPhys_setPhys_self _ _ _

/-! ### Staging -/

theorem Hw.accountRun_clean {s : Hw} (h : s.mem.syn = []) (a n : Nat) : s.accountRun a n = s := by
  unfold Hw.accountRun
  rw [h]
  rfl

/-- The set that is staged of a frame not written since the Totha saved it. -/
theorem Hw.readFrame_set {s : Hw} {f : Nat} (hcap : s.frameAddr f + 0x8000 ≤ s.capacity)
    (hnew : (s.mem.cells.any (fun c => decide ((s.frameState f).1 ≤ c.1) && decide (c.1 ≤ (s.frameState f).2))) = false) :
    (s.readFrame f).2.1 = s.getFrame f := by
  unfold Hw.readFrame
  simp only [if_neg (Nat.not_lt.2 hcap), hnew, Bool.false_eq_true, if_false]

/-- Where nothing in memory has an error, none is found as a frame is read, and memory stays. -/
theorem Hw.readFrame_clean {s : Hw} {f : Nat} (hcap : s.frameAddr f + 0x8000 ≤ s.capacity) (h : Clean s) :
    (s.readFrame f).2.2.1 = none ∧ (s.readFrame f).1.mem = s.mem := by
  unfold Hw.readFrame
  simp only [if_neg (Nat.not_lt.2 hcap), Hw.errorWords_clean h.1, h.2, Hw.accountRun_clean h.1]
  refine ⟨?_, by simp⟩
  rw [List.find?_eq_none]
  simp

/-- R57: a frame of mapped GDDR7 that stands in the pool is staged from there. -/
theorem Hw.stageFrame_eq {s : Hw} {k f : Nat} {e : Entry} (hin : s.incoming = some e) (hf : s.frameFor e k = some f)
    (hother : (s.getTile k).frame ≠ some f) (hpool : s.inPool f = true) :
    s.stageFrame k = (s.readFrame f).1.modTile k (fun x => { x with
      staged := some (f, (s.readFrame f).2.1), stagedDross := (s.readFrame f).2.2.1, stagedUe := (s.readFrame f).2.2.2 }) := by
  have hheld : s.heldElsewhere k f = false := by
    unfold Hw.heldElsewhere
    have hany : (s.tiles.any fun e => e.1 != k && e.2.frame == some f) = false := by
      rw [List.any_eq_false]
      intro x hx
      have := List.all_eq_true.1 hpool x hx
      simp only [Bool.and_eq_true, bne_iff_ne] at this
      simp [this.1]
    rw [hany, Bool.and_false]
  unfold Hw.stageFrame
  simp only [hin, Option.bind_some, hf, beq_eq_false_iff_ne.2 hother, hheld, hpool, Bool.not_true, Bool.false_eq_true, if_false]

/-! ### Write-back -/

/-- R57: a frame of mapped GDDR7 that no re-seed guards is written back. -/
theorem Hw.frameBack_mem {s : Hw} {k f : Nat} (hf : (s.getTile k).writeBack = some f) (hcap : s.frameAddr f + 0x8000 ≤ s.capacity)
    (hseed : s.fget F.TWIN_STATUS_STATE ≠ 4) :
    ((s.frameBack k).getTile k).writeBack = none ∧
      (s.frameBack k).mem = s.mem.setFree (s.frameAddr f + 0x40) (s.frameAddr f + 0x603F) s.free := by
  have hguard : ∀ a, s.seedGuard a = false := fun a => by simp [Hw.seedGuard, hseed]
  have heq : s.frameBack k = ({ s.modTile k (fun x => { x with writeBack := none }) with
      mem := s.mem.setFree (s.frameAddr f + 0x40) (s.frameAddr f + 0x603F) s.free, free := s.free + 1 } : Hw).noteMirror
      (atomsOf (s.frameAddr f + 0x40) (s.frameAddr f + 0x603F)) := by
    unfold Hw.frameBack
    simp only [hf, if_neg (Nat.not_lt.2 hcap), Hw.frameState, hguard, Bool.or_self, Bool.false_eq_true, if_false]
    rfl
  rw [heq]
  constructor
  · unfold Hw.getTile
    rw [(MemWork.of_noteMirror _ _).tiles]
    exact congrArg Tile.writeBack (Hw.getTile_modTile_self s k (fun x => { x with writeBack := none }))
  · exact Hw.noteMirror_mem _ _

/-! ### Filling -/

/-- R59: n bytes of a store, at a key, filled from a backing of whole words in mapped GDDR7. -/
theorem StoresKept.of_fillRun {s : Hw} {key g n : Nat} (hg : g % 8 = 0) (hcap : g + n ≤ s.capacity) (hon : s.mu.offline = []) :
    StoresKept { s with mem := (s.mem.zeroRun key n).copyRun g key n } (s.fillRun key g n) := by
  have hfits : min n (s.capacity - g) = n := by omega
  have hoff : ∀ t : Hw, t.mu.offline = s.mu.offline → t.mu.offline.isEmpty = true := fun t ht => by rw [ht, hon]; rfl
  have hall : MemWork s (({ s with mem := (s.mem.zeroRun key n).copyRun g key n } : Hw).bump F.FLT_DROSS_PASSED_COUNT 0
      (s.mem.drossIn g n).length |>.accountRun g n) :=
    ((MemWork.of_mem s _).bump F.FLT_DROSS_PASSED_COUNT 0 _).trans (.of_accountRun _ _ _)
  unfold Hw.fillRun
  simp only [hfits, Nat.lt_irrefl, if_false, hg, if_true, hoff _ hall.offline]
  exact ((refl _).bump _ _ _).trans (of_accountRun _ (hcap.trans s.capacity_le))

/-- The bytes of the backing are those of the store after the fill. -/
theorem Hw.goodByte_fillRun {s : Hw} {key g n i : Nat} (hkey : storeBase ≤ key) (h8 : key % 8 = 0) (hg : g % 8 = 0)
    (hcap : g + n ≤ s.capacity) (hon : s.mu.offline = []) (hi : i < n) :
    (s.fillRun key g n).mem.goodByte (key + i) = s.mem.goodByte (g + i) := by
  have hle := s.capacity_le
  calc (s.fillRun key g n).mem.goodByte (key + i)
      = ((s.mem.zeroRun key n).copyRun g key n).goodByte (key + i) := (StoresKept.of_fillRun hg hcap hon).good _ (by omega)
    _ = (s.mem.zeroRun key n).goodByte (g + i) := Mem.goodByte_copyRun hg h8 hi
    _ = s.mem.goodByte (g + i) := Mem.goodByte_zeroRun_below (by omega)

/-- R59: the incoming partition of a queue is filled, and is resident as filled. -/
theorem Hw.partitionFilled_eq {s : Hw} {k q : Nat} {r : Resident}
    (hr : (s.getPhys (s.physOf k)).resident.find? (fun r => r.stream == (s.getQueue k q).bind.stream && r.pbase == (s.getQueue k q).bind.pbase &&
      r.psize == (s.getQueue k q).bind.psize && !r.filled) = some r) {t : Hw}
    (ht : t = if r.backing = 0 then { s with mem := s.mem.zeroRun (storeKey (s.physOf k) (r.pbase * 4096)) (r.psize * 4096) }
      else s.fillRun (storeKey (s.physOf k) (r.pbase * 4096)) r.backing (r.psize * 4096)) (hphys : t.phys = s.phys) :
    { r with filled := true } ∈ ((s.partitionFilled k q).getPhys (s.physOf k)).resident ∧ (s.partitionFilled k q).mem = t.mem := by
  have heq : s.partitionFilled k q = t.modPhys (s.physOf k) (fun x => { x with
      resident := x.resident.map (fun e => if e == r then { e with filled := true } else e) }) := by
    unfold Hw.partitionFilled
    simp only [hr, ht]
  rw [heq]
  refine ⟨?_, rfl⟩
  rw [Hw.getPhys_modPhys_self]
  refine List.mem_map.2 ⟨r, ?_, by simp⟩
  unfold Hw.getPhys
  rw [hphys]
  exact List.mem_of_find?_eq_some hr

theorem storeBase_le_storeKey (p off : Nat) : storeBase ≤ storeKey p off := by unfold storeKey; omega

theorem storeKey_page_mod (p b : Nat) : storeKey p (b * 4096) % 8 = 0 := by unfold storeKey storeBase; omega

/-! ### The end of a budget -/

/-- A queue whose budget has run out is spent, with the reason BUDGET. -/
theorem Hw.budgetOut_spent {s : Hw} {k q : Nat} (hrun : s.running = true) (hbound : (s.getQueue k q).bound = true)
    (hspent : (s.getQueue k q).spent = false) (hbudget : (s.getQueue k q).bind.budget ≠ 0)
    (hover : (s.getQueue k q).bind.budget * 64 ≤ s.beat.cycle) (hin : (s.beat.cycle : Int) < s.windowEnd) :
    ((s.budgetOut k q).getQueue k q).spent = true ∧ ((s.budgetOut k q).getQueue k q).why = 5 := by
  unfold Hw.budgetOut
  simp only [hrun, hbound, hspent, hbudget, hover, hin, Bool.not_false, Bool.and_self, decide_true, ne_eq, not_false_eq_true, if_true,
    Hw.getQueue_modQueue_self, and_self]

/-- A queue that is not bound, or is spent, or has no budget or some of it left, stays as it is. -/
theorem Hw.budgetOut_idle {s : Hw} {k q : Nat} (h : (s.getQueue k q).bound = false ∨ (s.getQueue k q).spent = true ∨
    (s.getQueue k q).bind.budget = 0 ∨ s.beat.cycle < (s.getQueue k q).bind.budget * 64) : s.budgetOut k q = s := by
  unfold Hw.budgetOut
  refine if_neg fun hc => ?_
  simp only [Bool.and_eq_true, decide_eq_true_eq, Bool.not_eq_true'] at hc
  obtain ⟨⟨⟨⟨⟨_, hbound⟩, hspent⟩, hbudget⟩, hover⟩, _⟩ := hc
  rcases h with h | h | h | h
  · rw [h] at hbound; cases hbound
  · rw [h] at hspent; cases hspent
  · exact hbudget h
  · omega

/-- Settles O40, clause by clause: the set is read as it stands in the pool, the state bytes are left free, the store is filled with
zeros or a copy of its backing, and a budget is looked at alone. -/
theorem framesAndPartitions : Obligations.FramesAndPartitions := by
  unfold Obligations.FramesAndPartitions
  intro s k q hrun
  refine ⟨fun e f hin hf hother hpool hcap hnew => ?_, fun f hf hcap hseed => ?_, fun r p key hp hkey _ hr => ⟨fun hz => ?_, fun hnz h8 hcap hon => ?_⟩,
    fun hbound hspent hbudget hover hwin => ?_, fun h => ?_⟩
  · refine .of_onHw _ (exec_frameStaged k false s) ?_
    simp only [hrun, Bool.not_true, Bool.false_eq_true, if_false, Hw.stageFrame_eq hin hf hother hpool, Hw.getTile_modTile_self,
      Hw.readFrame_set hcap hnew, true_and]
    exact fun hc => Hw.readFrame_clean hcap hc
  · refine .of_onHw _ (exec_frameStaged k true s) ?_
    simp only [hrun, Bool.not_true, Bool.false_eq_true, if_false, if_true]
    obtain ⟨hback, hmem⟩ := Hw.frameBack_mem hf hcap hseed
    refine ⟨hback, fun i hlo hhi => ?_, fun i hi => ?_⟩
    · rw [hmem]
      exact Mem.goodByte_setFree hlo (by omega)
    · rw [hmem]
      exact Mem.byte_setFree_outside (by omega)
  · subst hp hkey
    refine .of_onHw _ (exec_partitionFilled k q s) ?_
    simp only [hrun, if_true]
    obtain ⟨hres, hmem⟩ := Hw.partitionFilled_eq hr (if_pos hz).symm rfl
    refine ⟨hres, fun i hi => ?_⟩
    rw [hmem]
    exact Mem.goodByte_zeroRun hi
  · subst hp hkey
    refine .of_onHw _ (exec_partitionFilled k q s) ?_
    simp only [hrun, if_true]
    obtain ⟨hres, hmem⟩ := Hw.partitionFilled_eq hr (if_neg hnz).symm (StoresKept.of_fillRun h8 hcap hon).phys
    refine ⟨hres, fun i hi => ?_⟩
    rw [hmem]
    exact Hw.goodByte_fillRun (storeBase_le_storeKey _ _) (storeKey_page_mod _ _) h8 hcap hon hi
  · exact .of_onHw _ (exec_budgetExhausted k q s) (Hw.budgetOut_spent hrun hbound hspent hbudget hover hwin)
  · exact .of_onHw _ (exec_budgetExhausted k q s) (Hw.budgetOut_idle h)

end Sys2Proof.Machine
end

section
/-!
PROOFS. A stream whose home frame is resident (R225): what leaves its context alone, and what completing a command of it does to it
(R234, R243 to R246, R250).
-/
namespace Sys2Proof.Machine

/-! ### What goes on beside the streams -/

/-- The fields of a stream that say where it stands and whether it is faulted, and its status codes. -/
def streamFlds : List Fld := [F.STRM_FRAME_FRAME, F.STRM_STATE_FAULTED, F.STRM_STATUS_ACC_CODES]

/-- From s to t the tiles, memory, the regions, the channels, the offlined pages and those fields have stayed. -/
structure Beside (s t : Hw) : Prop where
  tiles : t.tiles = s.tiles
  mem : t.mem = s.mem
  regions : t.regions = s.regions
  chans : t.chans = s.chans
  offline : t.mu.offline = s.mu.offline
  flds : ∀ f ∈ streamFlds, ∀ u, t.fget f u = s.fget f u

namespace Beside

theorem refl (s : Hw) : Beside s s := ⟨rfl, rfl, rfl, rfl, rfl, fun _ _ _ => rfl⟩

theorem trans {s t v : Hw} (h : Beside s t) (h' : Beside t v) : Beside s v :=
  ⟨h'.tiles.trans h.tiles, h'.mem.trans h.mem, h'.regions.trans h.regions, h'.chans.trans h.chans, h'.offline.trans h.offline,
    fun f hf u => (h'.flds f hf u).trans (h.flds f hf u)⟩

theorem foldl {α : Type} (f : Hw → α → Hw) (hf : ∀ s a, Beside s (f s a)) (l : List α) : ∀ s : Hw, Beside s (l.foldl f s) := by
  induction l with
  | nil => exact refl
  | cons a l ih => exact fun s => (hf s a).trans (ih _)

/-- What shares the registers, the tiles, memory and the memory unit. -/
theorem of_eq {s t : Hw} (hr : t.regs = s.regs) (ht : t.tiles = s.tiles) (hm : t.mem = s.mem) (hg : t.regions = s.regions)
    (hc : t.chans = s.chans) (ho : t.mu = s.mu) : Beside s t := ⟨ht, hm, hg, hc, by rw [ho], fun f _ u => Hw.fget_congr hr f u⟩

theorem of_wr (s : Hw) (r : Reg) (u : Nat) (x : Reg32) (h : ∀ f ∈ streamFlds, r ≠ f.reg := by decide) : Beside s (s.wr r u x) :=
  ⟨rfl, rfl, rfl, rfl, rfl, fun f hf v => Hw.fget_wr_reg s x u v (h f hf)⟩

theorem of_fset (s : Hw) (f : Fld) (x u : Nat) (hok : f.ok = true := by decide) (h : streamFlds.all f.apart = true := by decide) :
    Beside s (s.fset f x u) :=
  ⟨rfl, rfl, rfl, rfl, rfl, fun g hg v => Hw.fget_fset_apart s f g x u v hok (List.all_eq_true.1 h g hg)⟩

theorem of_bump (s : Hw) (f : Fld) (u n : Nat) (h : ∀ g ∈ streamFlds, f.reg ≠ g.reg := by decide) : Beside s (s.bump f u n) :=
  ⟨Hw.bump_tiles _ _ _ _, Hw.bump_mem _ _ _ _, Hw.bump_regions _ _ _ _, Hw.bump_chans _ _ _ _, by rw [Hw.bump_mu],
    fun g hg v => Hw.fget_bump_reg s u v n (h g hg)⟩

theorem of_raise (s : Hw) (code a0 a1 : Nat) (w : Who) : Beside s (s.raise code a0 a1 w) :=
  ⟨Hw.raise_tiles _ _ _ _ _, Hw.raise_mem _ _ _ _ _, Hw.raise_regions _ _ _ _ _, Hw.raise_chans _ _ _ _ _, by rw [Hw.raise_mu],
    fun f hf u => Hw.fget_raise s code a0 a1 w f u (by revert f; decide)⟩

theorem of_raiseOnce (s : Hw) (code key a0 a1 : Nat) (w : Who) : Beside s (s.raiseOnce code key a0 a1 w) := by
  unfold Hw.raiseOnce
  split
  · exact refl s
  · exact (of_eq rfl rfl rfl rfl rfl rfl : Beside s { s with host := { s.host with once := (code, key) :: s.host.once } }).trans
      (of_raise _ _ _ _ _)

theorem of_setStream (s : Hw) (n : Nat) (x : StreamSt) : Beside s (s.setStream n x) := of_eq rfl rfl rfl rfl rfl rfl

variable {s t : Hw}

theorem fset (h : Beside s t) (f : Fld) (x u : Nat) (hok : f.ok = true := by decide) (ha : streamFlds.all f.apart = true := by decide) :
    Beside s (t.fset f x u) := h.trans (of_fset t f x u hok ha)

theorem raise (h : Beside s t) (code a0 a1 : Nat) (w : Who) : Beside s (t.raise code a0 a1 w) := h.trans (of_raise t code a0 a1 w)

theorem setStream (h : Beside s t) (n : Nat) (x : StreamSt) : Beside s (t.setStream n x) := h.trans (of_setStream t n x)

theorem shadowTouch (h : Beside s t) (n : Nat) : Beside s (t.shadowTouch n) := h.setStream n _

theorem of_shadowTouch (s : Hw) (n : Nat) : Beside s (s.shadowTouch n) := of_setStream s n _

theorem of_latches (s : Hw) (x : Latches) : Beside s { s with latches := x } := of_eq rfl rfl rfl rfl rfl rfl

theorem of_test (s : Hw) (x : Test) : Beside s { s with test := x } := of_eq rfl rfl rfl rfl rfl rfl

theorem of_sendGlatch (s : Hw) (n : Nat) (clear : Bool) : Beside s (s.sendGlatch n clear) := by
  unfold Hw.sendGlatch
  exact of_latches s _

theorem of_routeRecord (s : Hw) (m : Nat) (r : BitVec 128) : Beside s (s.routeRecord m r) := by
  unfold Hw.routeRecord
  split
  · exact of_eq rfl rfl rfl rfl rfl rfl
  · exact of_eq rfl rfl rfl rfl rfl rfl

theorem of_sendRemote (s : Hw) (stream entry far latch job : Nat) (clear : Bool) : Beside s (s.sendRemote stream entry far latch job clear) := by
  unfold Hw.sendRemote
  exact (of_latches s _).trans (of_routeRecord _ _ _)

theorem of_trace (s : Hw) (r : List Byte) : Beside s (s.trace r) := by
  rcases s.trace_cases r with h | ⟨l, h⟩ | h <;> rw [h]
  · exact refl s
  · exact of_test s l
  · exact of_bump s F.DBG_TRACE_LOST_COUNT 0 1

theorem of_traceCmd (s : Hw) (kind t q n tag tail : Nat) : Beside s (s.traceCmd kind t q n tag tail) := by
  unfold Hw.traceCmd
  split
  · exact of_trace s _
  · exact refl s

theorem of_pcEvent (s : Hw) (ev t n k : Nat) : Beside s (s.pcEvent ev t n k) := by
  have hcount : ∀ (v : Hw) (x u : Nat), Beside v (v.wr64 .DBG_PC_VAL_LO .DBG_PC_VAL_HI x u) := fun v x u =>
    (of_wr v .DBG_PC_VAL_LO u _).trans (of_wr _ .DBG_PC_VAL_HI u _)
  unfold Hw.pcEvent
  split
  · refine foldl _ (fun v i => ?_) _ s
    simp only
    split
    · exact hcount v _ _
    · exact refl v
  · exact refl s

theorem of_opportunity (s : Hw) (kind idx t n : Nat) : Beside s (s.opportunity kind idx t n) := by
  unfold Hw.opportunity
  split
  · exact refl s
  · refine foldl _ (fun v k => ?_) _ s
    simp only
    split
    · split
      · exact ((of_test v _).trans (of_bump _ F.TST_PERT_HITS_COUNT _ _)).trans (of_pcEvent _ _ _ _ _)
      · exact of_test v _
    · exact refl v

theorem of_retireSlots (s : Hw) (n k : Nat) : Beside s (s.retireSlots n k) := by
  have hshadow : ∀ (v : Hw) (b : Prop) [Decidable b], Beside s v → Beside s (if b then v else v.shadowTouch n) := fun v b _ h => by
    split
    · exact h
    · exact h.shadowTouch n
  unfold Hw.retireSlots
  simp only
  exact (hshadow _ _ ((((refl s).fset F.STRM_RETIRED_COUNT _ n).setStream _ _).setStream _ _)).trans
    (foldl _ (fun v e => of_raise v _ _ _ _) _ _)

theorem ctxOn (h : Beside s t) (k n : Nat) : t.ctxOn k n = s.ctxOn k n := by
  unfold Hw.ctxOn Hw.getTile; rw [h.tiles]

theorem getQueue (h : Beside s t) (k q : Nat) : t.getQueue k q = s.getQueue k q := by
  unfold Hw.getQueue Hw.getTile; rw [h.tiles]

theorem frame (h : Beside s t) (n : Nat) : t.fget F.STRM_FRAME_FRAME n = s.fget F.STRM_FRAME_FRAME n := h.flds _ (by decide) n

theorem codes (h : Beside s t) (n : Nat) : t.fget F.STRM_STATUS_ACC_CODES n = s.fget F.STRM_STATUS_ACC_CODES n :=
  h.flds _ (by decide) n

theorem faulted (h : Beside s t) (n : Nat) : t.flag F.STRM_STATE_FAULTED n = s.flag F.STRM_STATE_FAULTED n := by
  unfold Hw.flag; rw [h.flds F.STRM_STATE_FAULTED (by decide) n]

end Beside

/-! ### The home of a stream -/

/-- Where the first entry of a map that passes a test stands under a key, it stands there again once that key is given a value that
passes. -/
theorem Sparse.first_put {α : Type} [DecidableEq α] (d : α) (p : α → Bool) (m : Sparse α) (k : Nat) (x : α) (hd : x ≠ d) (hp : p x = true)
    (h : (List.find? (fun e => p e.2) m).map (·.1) = some k) : (List.find? (fun e => p e.2) (Sparse.put d m k x)).map (·.1) = some k := by
  unfold Sparse.put
  rw [if_neg hd]
  induction m with
  | nil => cases h
  | cons e m ih =>
    obtain ⟨j, v⟩ := e
    simp only [Sparse.set]
    split
    · simp [hp]
    · next hj =>
      split
      · simp [hp]
      · by_cases hv : p v = true
        · simp [hv, hj] at h
        · simp only [List.find?_cons, hv] at h ⊢
          exact ih h

@[simp] theorem Hw.ctxOn_setCtxOn_self (s : Hw) (k n : Nat) (c : StreamCtx) : (s.setCtxOn k n c).ctxOn k n = c := by
  unfold Hw.setCtxOn Hw.ctxOn
  rw [Hw.getTile_setTile_self]
  exact Sparse.get_put_self _ _ _ _

@[simp] theorem Hw.getQueue_setCtxOn (s : Hw) (k n q : Nat) (c : StreamCtx) : (s.setCtxOn k n c).getQueue k q = s.getQueue k q := by
  unfold Hw.setCtxOn Hw.getQueue
  rw [Hw.getTile_setTile_self]
  rfl

@[simp] theorem Hw.ctxOn_modQueue (s : Hw) (k q n : Nat) (f : QueueState → QueueState) : (s.modQueue k q f).ctxOn k n = s.ctxOn k n := by
  unfold Hw.modQueue Hw.setQueue Hw.ctxOn
  rw [Hw.getTile_setTile_self]
  rfl

namespace HomeOn

variable {s t : Hw} {k n : Nat}

theorem of_tiles (h : HomeOn s k n) (ht : t.tiles = s.tiles) (hf : t.fget F.STRM_FRAME_FRAME n = s.fget F.STRM_FRAME_FRAME n) :
    HomeOn t k n := by
  unfold HomeOn Hw.tileOfStream Hw.getTile at *
  rw [ht, hf]
  exact h

theorem beside (h : HomeOn s k n) (hb : Beside s t) : HomeOn t k n := h.of_tiles hb.tiles (hb.frame n)

theorem setTile (h : HomeOn s k n) {x : Tile} (hx : x.frame = (s.getTile k).frame) : HomeOn (s.setTile k x) k n := by
  obtain ⟨htile, hframe⟩ := h
  have hne : x ≠ Tile.reset := fun hr => by rw [hr, hframe] at hx; cases hx
  refine ⟨?_, by rw [Hw.getTile_setTile_self, hx, hframe]; rfl⟩
  unfold Hw.tileOfStream at htile ⊢
  simp only [Hw.fget_setTile] at htile ⊢
  split at htile
  · cases htile
  · next hf =>
    simp only [hf, if_false]
    exact Sparse.first_put Tile.reset (fun x => x.frame == some (s.fget F.STRM_FRAME_FRAME n)) s.tiles k x hne
      (by rw [hx, hframe]; exact beq_self_eq_true _) htile

theorem setCtxOn (h : HomeOn s k n) (m : Nat) (c : StreamCtx) : HomeOn (s.setCtxOn k m c) k n := h.setTile rfl

theorem modQueue (h : HomeOn s k n) (q : Nat) (f : QueueState → QueueState) : HomeOn (s.modQueue k q f) k n := h.setTile rfl

theorem ctxOf_eq (h : HomeOn s k n) : s.ctxOf n = s.ctxOn k n := by
  unfold Hw.ctxOf
  rw [h.1]

theorem setCtxOf_eq (h : HomeOn s k n) (c : StreamCtx) : s.setCtxOf n c = s.setCtxOn k n c := by
  unfold Hw.setCtxOf
  rw [h.1]

theorem modFlight_eq (h : HomeOn s k n) (num : Nat) (f : InFlight → InFlight) :
    s.modFlight n num f = s.setCtxOn k n { s.ctxOn k n with flight := (s.ctxOn k n).flight.map (fun e => if e.num = num then f e else e) } := by
  unfold Hw.modFlight
  rw [h.ctxOf_eq, h.setCtxOf_eq]

end HomeOn

/-! ### Completion -/

/-- From s to t commands of stream n, at home on tile k, have completed and retired: of its context only commands in flight have left,
and what had completed has stayed so. -/
structure Closing (k n : Nat) (s t : Hw) : Prop where
  home : HomeOn t k n
  mem : t.mem = s.mem
  codes : t.fget F.STRM_STATUS_ACC_CODES n = s.fget F.STRM_STATUS_ACC_CODES n
  queue : ∀ q, t.getQueue k q = s.getQueue k q
  slots : (t.ctxOn k n).slots = (s.ctxOn k n).slots
  issued : (t.ctxOn k n).issued = (s.ctxOn k n).issued
  pos : (t.ctxOn k n).pos = (s.ctxOn k n).pos
  flight : ∀ g ∈ (t.ctxOn k n).flight, ∃ e ∈ (s.ctxOn k n).flight, e.num = g.num ∧ (e.stage = .completed → g.stage = .completed)

/-- Of stream n on tile k every command of a number in flight has completed. -/
def NumDone (s : Hw) (k n num : Nat) : Prop := ∀ g ∈ (s.ctxOn k n).flight, g.num = num → g.stage = .completed

namespace Closing

variable {k n : Nat} {s t v : Hw}

theorem refl (h : HomeOn s k n) : Closing k n s s := ⟨h, rfl, rfl, fun _ => rfl, rfl, rfl, rfl, fun g hg => ⟨g, hg, rfl, id⟩⟩

theorem trans (h : Closing k n s t) (h' : Closing k n t v) : Closing k n s v where
  home := h'.home
  mem := h'.mem.trans h.mem
  codes := h'.codes.trans h.codes
  queue := fun q => (h'.queue q).trans (h.queue q)
  slots := h'.slots.trans h.slots
  issued := h'.issued.trans h.issued
  pos := h'.pos.trans h.pos
  flight := fun g hg => by
    obtain ⟨e, he, hnum, hdone⟩ := h'.flight g hg
    obtain ⟨d, hd, hnum', hdone'⟩ := h.flight e he
    exact ⟨d, hd, hnum'.trans hnum, fun hc => hdone (hdone' hc)⟩

theorem of_beside (hs : HomeOn s k n) (h : Beside s t) : Closing k n s t := by
  have hc := h.ctxOn k n
  exact ⟨hs.beside h, h.mem, h.codes n, h.getQueue k, by rw [hc], by rw [hc], by rw [hc], fun g hg => ⟨g, by rwa [hc] at hg, rfl, id⟩⟩

theorem beside (h : Closing k n s t) (hb : Beside t v) : Closing k n s v := h.trans (of_beside h.home hb)

/-- A change of the tile that leaves its frame, its queues and the stream's context alone. -/
theorem of_setTile (hs : HomeOn s k n) {x : Tile} (hf : x.frame = (s.getTile k).frame) (hq : x.queues = (s.getTile k).queues)
    (hc : x.fs.ctxs = (s.getTile k).fs.ctxs) : Closing k n s (s.setTile k x) := by
  have hctx : (s.setTile k x).ctxOn k n = s.ctxOn k n := by
    unfold Hw.ctxOn FrameState.ctx
    rw [Hw.getTile_setTile_self, hc]
  have hqueue : ∀ q, (s.setTile k x).getQueue k q = s.getQueue k q := fun q => by
    unfold Hw.getQueue Tile.queue
    rw [Hw.getTile_setTile_self, hq]
  exact ⟨hs.setTile hf, rfl, rfl, hqueue, by rw [hctx], by rw [hctx], by rw [hctx], fun g hg => ⟨g, by rwa [hctx] at hg, rfl, id⟩⟩

/-- A change of the flight entries alone. -/
theorem of_flight (hs : HomeOn s k n) (l : List InFlight)
    (h : ∀ g ∈ l, ∃ e ∈ (s.ctxOn k n).flight, e.num = g.num ∧ (e.stage = .completed → g.stage = .completed)) :
    Closing k n s (s.setCtxOn k n { s.ctxOn k n with flight := l }) :=
  ⟨hs.setCtxOn _ _, rfl, rfl, fun q => Hw.getQueue_setCtxOn _ _ _ _ _, by rw [Hw.ctxOn_setCtxOn_self], by rw [Hw.ctxOn_setCtxOn_self],
    by rw [Hw.ctxOn_setCtxOn_self], by rw [Hw.ctxOn_setCtxOn_self]; exact h⟩

theorem numDone (h : Closing k n s t) {num : Nat} (hd : NumDone s k n num) : NumDone t k n num := fun g hg hnum => by
  obtain ⟨e, he, hn, hdone⟩ := h.flight g hg
  exact hdone (hd e he (hn.trans hnum))

theorem of_modFlight (hs : HomeOn s k n) (num : Nat) : Closing k n s (s.modFlight n num (fun e => { e with stage := .completed })) := by
  rw [hs.modFlight_eq]
  refine of_flight hs _ fun g hg => ?_
  obtain ⟨e, he, rfl⟩ := List.mem_map.1 hg
  refine ⟨e, he, ?_⟩
  split
  · exact ⟨rfl, fun _ => rfl⟩
  · exact ⟨rfl, id⟩

theorem numDone_modFlight (hs : HomeOn s k n) (num : Nat) :
    NumDone (s.modFlight n num (fun e => { e with stage := .completed })) k n num := by
  intro g hg hnum
  rw [hs.modFlight_eq, Hw.ctxOn_setCtxOn_self] at hg
  obtain ⟨e, he, rfl⟩ := List.mem_map.1 hg
  split
  · rfl
  · next hne =>
    rw [if_neg hne] at hnum
    exact absurd hnum hne

theorem setTile (h : Closing k n s t) {x : Tile} (hf : x.frame = (t.getTile k).frame) (hq : x.queues = (t.getTile k).queues)
    (hc : x.fs.ctxs = (t.getTile k).fs.ctxs) : Closing k n s (t.setTile k x) := h.trans (of_setTile h.home hf hq hc)

theorem fset (h : Closing k n s t) (f : Fld) (x u : Nat) (hok : f.ok = true := by decide)
    (hframe : f.apart F.STRM_FRAME_FRAME = true := by decide) (hcodes : f.apart F.STRM_STATUS_ACC_CODES = true := by decide) :
    Closing k n s (t.fset f x u) :=
  h.trans ⟨h.home.of_tiles rfl (Hw.fget_fset_apart _ _ _ _ _ _ hok hframe), rfl, Hw.fget_fset_apart _ _ _ _ _ _ hok hcodes, fun _ => rfl,
    rfl, rfl, rfl, fun g hg => ⟨g, hg, rfl, id⟩⟩

theorem shadowTouch (h : Closing k n s t) (m : Nat) : Closing k n s (t.shadowTouch m) := h.beside (.of_shadowTouch t m)

theorem of_faultStream (hs : HomeOn s k n) (cause : Nat) : Closing k n s (s.faultStream n cause) := by
  unfold Hw.faultStream
  split
  · exact refl hs
  · simp only [hs.ctxOf_eq, hs.setCtxOf_eq]
    have hdrop : Closing k n s (s.setCtxOn k n { s.ctxOn k n with flight := (s.ctxOn k n).flight.filter (fun f => f.stage == .completed) }) :=
      of_flight hs _ fun g hg => ⟨g, (List.mem_filter.1 hg).1, rfl, id⟩
    generalize s.setCtxOn k n { s.ctxOn k n with flight := (s.ctxOn k n).flight.filter (fun f => f.stage == .completed) } = t at hdrop ⊢
    simp only [hdrop.home.1]
    refine (((hdrop.setTile ?_ ?_ ?_).fset F.STRM_STATE_FAULTED 1 n).fset F.STRM_STATE_CAUSE cause n).shadowTouch n <;> rfl

theorem of_changeLatch (hs : HomeOn s k n) (latch : Nat) (clear : Bool) : Closing k n s (s.changeLatch n latch clear) := by
  unfold Hw.changeLatch
  simp only [hs.1]
  unfold Hw.modTile
  refine of_setTile hs ?_ ?_ ?_ <;>
    simp only [apply_ite Tile.frame, apply_ite Tile.queues, apply_ite Tile.fs, apply_ite FrameState.ctxs, ite_self]

theorem of_applySel (hs : HomeOn s k n) (remotes : List (Nat × Nat × Nat)) (x : Nat) : Closing k n s (s.applySel n remotes x) := by
  unfold Hw.applySel
  split
  · exact of_changeLatch hs _ _
  · exact of_beside hs (.of_sendGlatch _ _ _)
  · split
    · exact of_beside hs (.of_sendRemote _ _ _ _ _ _ _)
    · exact refl hs
  · exact refl hs

theorem foldl {α : Type} (f : Hw → α → Hw) (hf : ∀ s a, HomeOn s k n → Closing k n s (f s a)) (l : List α) :
    ∀ s : Hw, HomeOn s k n → Closing k n s (l.foldl f s) := by
  induction l with
  | nil => exact fun s hs => refl hs
  | cons a l ih => exact fun s hs => (hf s a hs).trans (ih _ (hf s a hs).home)

theorem of_applySets (hs : HomeOn s k n) (remotes : List (Nat × Nat × Nat)) (w : Record64) : Closing k n s (s.applySets n remotes w) :=
  foldl _ (fun _ x hs => of_applySel hs remotes x) _ s hs

theorem of_retire (hs : HomeOn s k n) : Closing k n s (s.retire n) := by
  unfold Hw.retire
  simp only [hs.ctxOf_eq, hs.setCtxOf_eq]
  have hdrop : ∀ i, Closing k n s (s.setCtxOn k n { s.ctxOn k n with flight := (s.ctxOn k n).flight.drop i }) := fun i =>
    of_flight hs _ fun g hg => ⟨g, List.mem_of_mem_drop hg, rfl, id⟩
  split
  · exact hdrop _
  · exact (hdrop _).beside (.of_retireSlots _ _ _)

end Closing

/-- R244: s with the code of a status entered in `STRM.STATUS_ACC`. -/
def Hw.withCode (s : Hw) (n st : Nat) : Hw :=
  if statusCode st = 0 then s
  else s.fset F.STRM_STATUS_ACC_CODES (s.fget F.STRM_STATUS_ACC_CODES n ||| (1 <<< (statusCode st - 1))) n

theorem Hw.withCode_ok (s : Hw) (n : Nat) {st : Nat} (h : statusCode st = 0) : s.withCode n st = s := if_pos h

/-- The code's bit stands in the accumulator. -/
theorem Hw.bit_withCode (s : Hw) (n : Nat) {st : Nat} (h0 : statusCode st ≠ 0) (h9 : statusCode st ≤ 9) :
    bit ((s.withCode n st).fget F.STRM_STATUS_ACC_CODES n) (statusCode st - 1) = true := by
  unfold Hw.withCode
  rw [if_neg h0, Hw.fget_fset_self _ F.STRM_STATUS_ACC_CODES]
  have hlt : statusCode st - 1 < 9 := by omega
  have hbit : ∀ x i, bit x i = Nat.testBit x i := fun x i => by
    unfold bit
    rw [Nat.testBit_eq_decide_div_mod_eq, Nat.shiftRight_eq_div_pow]
    rfl
  rw [hbit]
  change Nat.testBit (_ % 2 ^ 9) _ = true
  rw [Nat.testBit_mod_two_pow, Nat.testBit_or, Nat.one_shiftLeft, Nat.testBit_two_pow_self]
  simp [hlt]

theorem Hw.withCode_tiles (s : Hw) (n st : Nat) : (s.withCode n st).tiles = s.tiles := by
  unfold Hw.withCode; split <;> rfl

theorem Hw.withCode_mem (s : Hw) (n st : Nat) : (s.withCode n st).mem = s.mem := by
  unfold Hw.withCode; split <;> rfl

theorem HomeOn.withCode {s : Hw} {k n : Nat} (h : HomeOn s k n) (st : Nat) : HomeOn (s.withCode n st) k n := by
  refine h.of_tiles (s.withCode_tiles n st) ?_
  unfold Hw.withCode
  split
  · rfl
  · exact Hw.fget_fset_apart _ F.STRM_STATUS_ACC_CODES F.STRM_FRAME_FRAME _ _ _ (by decide) (by decide)

theorem Hw.withCode_ctxOn (s : Hw) (k n st : Nat) : (s.withCode n st).ctxOn k n = s.ctxOn k n := by
  unfold Hw.ctxOn Hw.getTile; rw [Hw.withCode_tiles]

/-- Besides the code nothing of a stream's that counts here changes as a status is entered. -/
theorem Beside.of_accStatus (s : Hw) (n num tag st : Nat) : Beside (s.withCode n st) (s.accStatus n num tag st) := by
  have hflags : Beside (s.withCode n st) ((s.withCode n st).fset F.STRM_STATUS_ACC_FLAGS
      ((s.withCode n st).fget F.STRM_STATUS_ACC_FLAGS n ||| bits st 4 4) n) := of_fset _ F.STRM_STATUS_ACC_FLAGS _ _
  have hshadow : ∀ (t v : Hw) (b : Prop) [Decidable b], Beside t v → Beside t (if b then v else v.shadowTouch n) := fun t v b _ h => by
    split
    · exact h
    · exact h.shadowTouch n
  unfold Hw.accStatus
  simp only
  split
  · exact ((((hshadow _ _ _ hflags).fset F.STRM_ERR_TAG_TAG _ _).fset F.STRM_ERR_TAG_CODE _ _).fset F.STRM_ERR_COUNT_ISSUED _ _).raise _ _ _ _
  · exact hshadow _ _ _ hflags

/-- R244 to R246: a command that completes enters its status; no entry of its number is outstanding then. -/
theorem Closing.of_complete {s : Hw} {k n : Nat} (hs : HomeOn s k n) (f : InFlight) (st : Nat) :
    Closing k n (s.withCode n st) (s.complete n f st) ∧ NumDone (s.complete n f st) k n f.num := by
  have hacc : Closing k n (s.withCode n st) ((s.accStatus n f.num (Com.tag f.cmd) st).traceCmd 4 f.tile f.queue n (Com.tag f.cmd) st) :=
    of_beside (hs.withCode st) ((Beside.of_accStatus s n _ _ st).trans (.of_traceCmd _ _ _ _ _ _ _))
  have hmark := of_modFlight hacc.home f.num
  have hdone := numDone_modFlight hacc.home f.num
  unfold Hw.complete
  simp only
  split
  · have hfault := of_faultStream hmark.home 4
    exact ⟨(hacc.trans hmark).trans hfault, hfault.numDone hdone⟩
  · have hsets := of_applySets hmark.home f.remotes f.cmd
    have hretire := hsets.trans (of_retire hsets.home)
    exact ⟨(hacc.trans hmark).trans hretire, hretire.numDone hdone⟩

end Sys2Proof.Machine
end

section
/-!
PROOFS. The issue of a command (R242, R261, R305): the state in which the head of a queue that is ready issues, what its leaving the head
does to its stream, and the entry under which it is in flight.
-/
namespace Sys2Proof.Machine

/-! ### What a ready head issues as -/

/-- A command that passes the common checks leaves the state as it was. -/
theorem Hw.commonChecks_ok {s : Hw} {x : Cmd} (h : (s.commonChecks x).2 = 0) : (s.commonChecks x).1 = s ∧ formatOk x.w = true := by
  by_cases hf : formatOk x.w = true
  · refine ⟨?_, hf⟩
    generalize hr : s.commonChecks x = r at h
    unfold Hw.commonChecks at hr
    simp only [hf, Bool.not_true, Bool.false_eq_true, if_false] at hr
    split at hr
    · subst hr; cases h
    split at hr
    · subst hr; cases h
    split at hr
    · subst hr; cases h
    split at hr
    · subst hr; cases h
    split at hr
    · subst hr; cases h
    split at hr
    · subst hr; cases h
    split at hr
    · subst hr; cases h
    · subst hr; rfl
  · unfold Hw.commonChecks at h
    simp only [hf, Bool.not_false, if_true] at h
    cases h

/-- Nothing abandoned waits on the queue of a head that nothing but its unit holds. -/
theorem Hw.again_of_claimWhy {s : Hw} {t q : Nat} {h : Head} {ops : List (Option Opnd)} (hc : s.claimWhy t q h ops = 1) :
    s.again t q = none := by
  unfold Hw.claimWhy at hc
  split at hc
  · cases hc
  · split at hc
    · cases hc
    · next _ hn =>
      simp only [Bool.or_eq_true, not_or, Bool.not_eq_true, Option.isSome_eq_false_iff, Option.isNone_iff_eq_none] at hn
      exact hn.1.2

theorem Hw.claimWhy_of_issueWhy {s : Hw} {t q : Nat} {h : Head} {ops : List (Option Opnd)} (hi : s.issueWhy t q h ops = 1) :
    s.claimWhy t q h ops = 1 := by
  unfold Hw.issueWhy at hi
  by_contra hne
  rw [if_pos hne] at hi
  exact hne hi

theorem Hw.head_spec {s : Hw} {t q : Nat} {h : Head} (hh : s.head t q = some h) :
    h.ctx = s.ctxOn t h.n ∧ s.mayIssue h.n = true := by
  unfold Hw.head at hh
  simp only at hh
  split at hh
  · next hc =>
    split at hh
    · cases hh
    · cases hh
      simp only [Bool.and_eq_true] at hc
      exact ⟨rfl, hc.2⟩
  · cases hh

/-- R242: a head that is ready issues: its unit's meaning is given the state as taken, the command and status 0. -/
theorem Hw.issue_ready {s : Hw} {t q op : Nat} {h : Head} (hr : Ready s t q op h) (sel : Record64 → Bool) (hsel : sel h.w = true)
    (body : Hw → Cmd → Nat → Hw) : s.issue t q sel body = body (s.taken t q h) (s.cmdAt t q h) 0 := by
  obtain ⟨hhead, _, hopen, hdross, hwhy, hbreak, hnamed, hchecks⟩ := hr
  have hagain := Hw.again_of_claimWhy (Hw.claimWhy_of_issueWhy hwhy)
  have hwhy' : s.issueWhy t q h (s.opsOf t h) = 1 := hwhy
  have hst := (Hw.commonChecks_ok hchecks).1
  unfold Hw.issue
  simp only [hagain, hhead, hsel, hopen, hdross, hwhy', hbreak, hnamed, Bool.not_true, Bool.or_self, Bool.false_eq_true, if_false, ne_eq,
    not_true_eq_false]
  unfold Hw.issuing at hchecks hst
  rw [hchecks, hst]
  rfl

theorem Ready.formatOk {s : Hw} {t q op : Nat} {h : Head} (hr : Ready s t q op h) : formatOk h.w = true := by
  obtain ⟨_, _, _, _, _, _, _, hchecks⟩ := hr
  exact (Hw.commonChecks_ok hchecks).2

/-! ### Taking in what the head names -/

theorem Beside.of_bpHit (s : Hw) (i : Nat) (h : Head) : Beside s (s.bpHit i h) := by
  unfold Hw.bpHit
  extract_lets s0 s1 s2
  have h0 : Beside s s0 := by
    change Beside s (if _ then _ else _)
    split
    · exact of_fset s F.DBG_TRACE_CTL_RUNNING 1 0
    · exact refl s
  have h1 : Beside s s1 := (h0.fset F.DBG_BP_CTL_HIT 1 i).raise _ _ _ _
  have h2 : Beside s s2 := by
    change Beside s (if _ then _ else _)
    split
    · exact h1.fset F.DBG_TRACE_CTL_RUNNING 0 0
    · exact h1
  split
  · exact (h2.fset F.STRM_STATE_HALTED 1 h.n).shadowTouch h.n
  · exact h2.setStream _ _

theorem Beside.of_breakpoints (s : Hw) (h : Head) : Beside s (s.breakpoints h).1 :=
  (foldl _ (fun v i => of_bpHit v i h) _ s).setStream _ _

theorem Beside.of_readTable (s : Hw) (ids : List Nat) : Beside s (s.readTable ids) := by
  unfold Hw.readTable
  split
  · exact of_raiseOnce s _ _ _ _ _
  · exact refl s

theorem MemWork.of_readTable (s : Hw) (ids : List Nat) : MemWork s (s.readTable ids) := by
  unfold Hw.readTable
  split
  · exact of_raiseOnce s _ _ _ _ _
  · exact refl s

/-- What is found of one structure after another, as far as the first that is dross. -/
theorem MemWork.of_takeNamed (s : Hw) (t : Nat) (h : Head) : MemWork s (s.takeNamed t h).1 := by
  refine (of_readTable s _).trans (foldl_fst _ (fun r e => ?_) _ (_, none))
  split
  · exact refl _
  · exact of_consume _ _

theorem Hw.consume_mem {s : Hw} (h : s.mem.syn = []) (ranges : List (Nat × Nat)) : (s.consume ranges).1.mem = s.mem := by
  have h1 : ∀ l : List Span, l.flatMap (fun _ => ([] : List Nat)) = [] := by intro l; induction l <;> simp_all
  unfold Hw.consume Hw.consumeBy
  simp only [Hw.errorWords_clean h, List.filter_nil, h1]
  exact Hw.foldl_mem _ (fun _ _ => Hw.offAccess_mem _ _ _) _ _

/-- Memory of which no word has an error stays as the head's structures are taken in. -/
theorem Hw.takeNamed_mem {s : Hw} (h : s.mem.syn = []) (t : Nat) (hd : Head) : (s.takeNamed t hd).1.mem = s.mem := by
  have hfold : ∀ (l : List (Nat × Nat)) (r : Hw × Option Nat), r.1.mem = s.mem →
      (l.foldl (fun (r : Hw × Option Nat) e => if r.2.isSome then r else r.1.takeIn e.1 e.2) r).1.mem = s.mem := fun l => by
    induction l with
    | nil => exact fun r hr => hr
    | cons e l ih =>
      refine fun r hr => ih _ ?_
      change (if r.2.isSome then r else r.1.takeIn e.1 e.2).1.mem = s.mem
      split
      · exact hr
      · exact (Hw.consume_mem (by rw [hr]; exact h) _).trans hr
  exact hfold _ _ (Beside.of_readTable s _).mem

/-- Where nothing has an error and no page is offline nothing else changes either. -/
theorem Beside.of_takeNamed {s : Hw} (hc : Clean s) (t : Nat) (hd : Head) : Beside s (s.takeNamed t hd).1 := by
  have hfold : ∀ (l : List (Nat × Nat)) (r : Hw × Option Nat), Clean r.1 →
      (l.foldl (fun (r : Hw × Option Nat) e => if r.2.isSome then r else r.1.takeIn e.1 e.2) r).1 = r.1 := fun l => by
    induction l with
    | nil => exact fun r _ => rfl
    | cons e l ih =>
      intro r hr
      have hstep : (if r.2.isSome then r else r.1.takeIn e.1 e.2).1 = r.1 := by
        split
        · rfl
        · unfold Hw.takeIn
          rw [Hw.consume_clean hr.1 hr.2]
      rw [List.foldl_cons, ih _ (by rw [hstep]; exact hr), hstep]
  have htable := of_readTable s ((s.takeOps t hd.ctx hd.w).flatMap (fun o => match o with
    | some o => o.id :: (if o.scaled then [Desc.scaleDesc o.img] else [])
    | none => []))
  have hclean : Clean (s.readTable ((s.takeOps t hd.ctx hd.w).flatMap (fun o => match o with
    | some o => o.id :: (if o.scaled then [Desc.scaleDesc o.img] else [])
    | none => []))) := ⟨by rw [htable.mem]; exact hc.1, by rw [htable.offline]; exact hc.2⟩
  have heq := hfold (((((s.takeOps t hd.ctx hd.w).flatMap (fun o => match o with
    | some o => o.id :: (if o.scaled then [Desc.scaleDesc o.img] else [])
    | none => [])).filter (fun i => i < s.tableCap)).map (fun i => (s.tableBase + 64 * i, 64))) ++
    (((remoteSels hd.w).filter (fun x => selLatch x < s.fget F.STRM_RLATCH_COUNT_COUNT)).map (fun x => (s.rlatchAddr (selLatch x), 8)))) (_, none) hclean
  exact heq ▸ htable

end Sys2Proof.Machine
end

section
/-!
PROOFS. A command that has left the head of its queue (R242, R261), and its entry in flight (R243).
-/
namespace Sys2Proof.Machine

/-- The stream's context once its command has left the head. -/
def StreamCtx.left (c : StreamCtx) (w : Record64) : StreamCtx :=
  { c with issued := c.issued + 1, pos := c.pos.next, castSeq := if Com.stoch w then (c.castSeq + 1) % 0x1_0000_0000 else c.castSeq }

/-- Besides the context and the queue of a head nothing of a stream's changes as it leaves. -/
theorem Beside.of_leaveHead (s : Hw) (t q : Nat) (h : Head) :
    Beside ((s.setCtxOn t h.n ((s.ctxOn t h.n).left h.w)).modQueue t q
      (fun v => { v with fetched := v.fetched.drop 1, fetchedDross := v.fetchedDross.drop 1, why := 1 })) (s.leaveHead t q h) := by
  unfold Hw.leaveHead
  exact ((((of_latches _ _).setStream _ _).trans (of_traceCmd _ _ _ _ _ _ _)).trans (of_pcEvent _ _ _ _ _)).trans (of_opportunity _ _ _ _ _)

theorem Hw.setCtxOn_mem (s : Hw) (k n : Nat) (c : StreamCtx) : (s.setCtxOn k n c).mem = s.mem := rfl
theorem Hw.setCtxOn_regions (s : Hw) (k n : Nat) (c : StreamCtx) : (s.setCtxOn k n c).regions = s.regions := rfl
theorem Hw.setCtxOn_chans (s : Hw) (k n : Nat) (c : StreamCtx) : (s.setCtxOn k n c).chans = s.chans := rfl
theorem Hw.flag_setCtxOn (s : Hw) (k n : Nat) (c : StreamCtx) (f : Fld) (u : Nat) : (s.setCtxOn k n c).flag f u = s.flag f u := rfl
theorem Hw.flag_modQueue (s : Hw) (k q : Nat) (g : QueueState → QueueState) (f : Fld) (u : Nat) :
    (s.modQueue k q g).flag f u = s.flag f u := rfl

/-- The head h of queue q of tile k has issued: its stream's context and its queue are those that its leaving made, but for the flight. -/
structure HeadGone (k q : Nat) (h : Head) (s t : Hw) : Prop where
  home : HomeOn t k h.n
  issued : (t.ctxOn k h.n).issued = h.ctx.issued + 1
  pos : (t.ctxOn k h.n).pos = h.ctx.pos.next
  slots : (t.ctxOn k h.n).slots = h.ctx.slots
  queue : (t.getQueue k q).fetched = (s.getQueue k q).fetched.drop 1
  running : t.flag F.STRM_STATE_FAULTED h.n = false

namespace HeadGone

variable {k q : Nat} {h : Head} {s t v : Hw}

theorem next (hg : HeadGone k q h s t) : NextInLine s t k q h := ⟨hg.pos, hg.queue⟩

/-- What has the tiles and the fields of a stream that t has. -/
theorem of_eq (hg : HeadGone k q h s t) (ht : v.tiles = t.tiles) (hf : ∀ f ∈ streamFlds, ∀ u, v.fget f u = t.fget f u) :
    HeadGone k q h s v := by
  have hctx : v.ctxOn k h.n = t.ctxOn k h.n := by unfold Hw.ctxOn Hw.getTile; rw [ht]
  have hqueue : v.getQueue k q = t.getQueue k q := by unfold Hw.getQueue Hw.getTile; rw [ht]
  exact ⟨hg.home.of_tiles ht (hf F.STRM_FRAME_FRAME (by decide) _), by rw [hctx, hg.issued], by rw [hctx, hg.pos], by rw [hctx, hg.slots],
    by rw [hqueue, hg.queue], by rw [Hw.flag, hf F.STRM_STATE_FAULTED (by decide)]; exact hg.running⟩

theorem beside (hg : HeadGone k q h s t) (hb : Beside t v) : HeadGone k q h s v := hg.of_eq hb.tiles hb.flds

theorem memWork (hg : HeadGone k q h s t) (hm : MemWork t v) : HeadGone k q h s v :=
  hg.of_eq hm.tiles (fun f hf u => hm.fget f u (by revert f; decide))

/-- A change of the flight entries alone. -/
theorem setFlight (hg : HeadGone k q h s t) (l : List InFlight) :
    HeadGone k q h s (t.setCtxOn k h.n { t.ctxOn k h.n with flight := l }) :=
  ⟨hg.home.setCtxOn _ _, by rw [Hw.ctxOn_setCtxOn_self]; exact hg.issued, by rw [Hw.ctxOn_setCtxOn_self]; exact hg.pos,
    by rw [Hw.ctxOn_setCtxOn_self]; exact hg.slots, by rw [Hw.getQueue_setCtxOn]; exact hg.queue, hg.running⟩

/-- The entry of command x, which does not find its stream faulted, in flight. -/
theorem fly_eq (hg : HeadGone k q h s t) {x : Cmd} (hk : x.t = k) (hn : x.n = h.n) (stage : Stage) (unit : UnitUse) :
    ∃ l, t.fly x stage unit = t.setCtxOn k h.n { t.ctxOn k h.n with flight := l } ∧ x.entry t.beatNo stage unit ∈ l := by
  subst hk
  unfold Hw.fly
  rw [hn]
  simp only [hg.running, Bool.false_eq_true, if_false]
  exact ⟨_, rfl, List.mem_append_right _ List.mem_cons_self⟩

/-- A command whose effect is made, or that is not executed, has issued and waits with its status. -/
theorem fly (hg : HeadGone k q h s t) {x : Cmd} (hk : x.t = k) (hn : x.n = h.n) (hnum : x.num = h.ctx.issued.toNat) (hw : x.w = h.w)
    (st : Nat) (unit : UnitUse) :
    HeadGone k q h s (t.fly x (.done st) unit) ∧ Issued (t.fly x (.done st) unit) k h st ∧ (t.fly x (.done st) unit).mem = t.mem ∧
      (t.fly x (.done st) unit).regions = t.regions ∧ (t.fly x (.done st) unit).chans = t.chans := by
  obtain ⟨l, heq, hmem⟩ := hg.fly_eq hk hn (.done st) unit
  rw [heq]
  have hg' := hg.setFlight l
  have hflight : x.entry t.beatNo (.done st) unit ∈ ((t.setCtxOn k h.n { t.ctxOn k h.n with flight := l }).ctxOn k h.n).flight := by
    rw [Hw.ctxOn_setCtxOn_self]
    exact hmem
  exact ⟨hg', ⟨hg'.issued, x.entry t.beatNo (.done st) unit, hflight, hnum, hw, rfl⟩, Hw.setCtxOn_mem _ _ _ _, Hw.setCtxOn_regions _ _ _ _,
    Hw.setCtxOn_chans _ _ _ _⟩

end HeadGone

/-! ### The state as taken -/

/-- What leaving the head does not touch. -/
theorem Hw.leaveHead_rest (s : Hw) (k q : Nat) (h : Head) : (s.leaveHead k q h).mem = s.mem ∧ (s.leaveHead k q h).regions = s.regions ∧
    (s.leaveHead k q h).chans = s.chans ∧ (s.leaveHead k q h).mu.offline = s.mu.offline := by
  have hleave := Beside.of_leaveHead s k q h
  exact ⟨hleave.mem, hleave.regions, hleave.chans, hleave.offline⟩

theorem HeadGone.of_leaveHead {s v : Hw} {k q : Nat} {h : Head} (hs : HomeOn v k h.n) (hctx : v.ctxOn k h.n = h.ctx)
    (hqueue : v.getQueue k q = s.getQueue k q) (hrun : v.flag F.STRM_STATE_FAULTED h.n = false) :
    HeadGone k q h s (v.leaveHead k q h) := by
  refine HeadGone.beside ?_ (Beside.of_leaveHead v k q h)
  refine ⟨(hs.setCtxOn _ _).modQueue _ _, ?_, ?_, ?_, ?_, by rw [Hw.flag_modQueue, Hw.flag_setCtxOn]; exact hrun⟩
  · rw [Hw.ctxOn_modQueue, Hw.ctxOn_setCtxOn_self, hctx]; rfl
  · rw [Hw.ctxOn_modQueue, Hw.ctxOn_setCtxOn_self, hctx]; rfl
  · rw [Hw.ctxOn_modQueue, Hw.ctxOn_setCtxOn_self, hctx]; rfl
  · rw [Hw.getQueue_modQueue_self, Hw.getQueue_setCtxOn, hqueue]

/-- Taking in what a head names leaves the tiles and the fields of its stream alone. -/
theorem Hw.issuing_kept (s : Hw) (k : Nat) (h : Head) :
    (s.issuing k h).tiles = s.tiles ∧ ∀ f ∈ streamFlds, ∀ u, (s.issuing k h).fget f u = s.fget f u := by
  have hbreak := Beside.of_breakpoints s h
  have hnamed := MemWork.of_takeNamed (s.breakpoints h).1 k h
  exact ⟨hnamed.tiles.trans hbreak.tiles, fun f hf u => (hnamed.fget f u (by revert f; decide)).trans (hbreak.flds f hf u)⟩

theorem Hw.issuing_mem {s : Hw} (hsyn : s.mem.syn = []) (k : Nat) (h : Head) : (s.issuing k h).mem = s.mem := by
  have hbreak := Beside.of_breakpoints s h
  exact (Hw.takeNamed_mem (by rw [hbreak.mem]; exact hsyn) k h).trans hbreak.mem

/-- A ready head that is taken is gone. -/
theorem Ready.headGone {s : Hw} {k q op : Nat} {h : Head} (hr : Ready s k q op h) (hs : HomeOn s k h.n) :
    HeadGone k q h s (s.taken k q h) := by
  obtain ⟨hctx, hmay⟩ := Hw.head_spec hr.1
  obtain ⟨htiles, hflds⟩ := s.issuing_kept k h
  unfold Hw.taken
  generalize s.issuing k h = v at htiles hflds
  refine HeadGone.of_leaveHead (hs.of_tiles htiles (hflds _ (by decide) _)) ?_ ?_ ?_
  · rw [hctx]; unfold Hw.ctxOn Hw.getTile; rw [htiles]
  · unfold Hw.getQueue Hw.getTile; rw [htiles]
  · simp only [Hw.mayIssue, Bool.and_eq_true, Bool.not_eq_true'] at hmay
    rw [Hw.flag, hflds F.STRM_STATE_FAULTED (by decide)]
    exact hmay.2

/-- Memory is what the taking in of what the head names has made of it. -/
theorem Hw.memAsTaken_taken (s : Hw) (k q : Nat) (h : Head) : MemAsTaken s (s.taken k q h) k h := by
  obtain ⟨hmem, _⟩ := (s.issuing k h).leaveHead_rest k q h
  exact ⟨hmem, fun hsyn => hmem.trans (s.issuing_mem hsyn k h)⟩

/-- Where nothing has an error and no page is offline, only the stream and its queue change. -/
theorem Hw.taken_clean {s : Hw} (hc : Clean s) (k q : Nat) (h : Head) :
    Clean (s.taken k q h) ∧ (s.taken k q h).mem = s.mem ∧ (s.taken k q h).regions = s.regions ∧ (s.taken k q h).chans = s.chans := by
  have hbreak := Beside.of_breakpoints s h
  have hissue : Beside s (s.issuing k h) := hbreak.trans (.of_takeNamed ⟨by rw [hbreak.mem]; exact hc.1, by rw [hbreak.offline]; exact hc.2⟩ k h)
  unfold Hw.taken
  generalize s.issuing k h = v at hissue
  obtain ⟨hmem, hregions, hchans, hoff⟩ := v.leaveHead_rest k q h
  rw [hissue.mem] at hmem
  exact ⟨⟨by rw [hmem]; exact hc.1, by rw [hoff, hissue.offline]; exact hc.2⟩, hmem, hregions.trans hissue.regions, hchans.trans hissue.chans⟩

end Sys2Proof.Machine
end

section
/-!
PROOFS. COMMAND_COMPLETE and SCALAR.LOAD (R243 to R248).
-/
namespace Sys2Proof.Machine

theorem exec_commandComplete (k : Fin 512) (q : Fin 4) (num : BitVec 32) (s : State) :
    exec (.commandComplete k q num) s = s.onHw (fun h => h.commandComplete k.val q.val num.toNat) := rfl
theorem exec_scalarLoad (k : Fin 512) (q : Fin 4) (s : State) : exec (.scalarLoad k q) s = s.onHw (fun h => h.scalarLoad k.val q.val) := rfl

/-! ### COMMAND_COMPLETE -/

/-- A command that completes with code 0 changes no code. -/
theorem Closing.of_complete_ok {s : Hw} {k n : Nat} (hs : HomeOn s k n) (f : InFlight) {st : Nat} (h : statusCode st = 0) :
    Closing k n s (s.complete n f st) ∧ NumDone (s.complete n f st) k n f.num := by
  have hc := of_complete hs f st
  rwa [Hw.withCode_ok s n h] at hc

theorem Closing.of_completeFences {k n : Nat} (i : Nat) : ∀ {s : Hw}, HomeOn s k n → Closing k n s (s.completeFences n i) := by
  induction i with
  | zero => exact fun hs => refl hs
  | succ i ih =>
    intro s hs
    unfold Hw.completeFences
    split
    · exact refl hs
    · next f _ _ =>
      split
      · have hf := (of_complete_ok hs f (rfl : statusCode 0 = 0)).1
        exact hf.trans (ih hf.home)
      · exact refl hs

/-- A scalar slot of a stream at home, written: that slot alone differs. -/
theorem Hw.setSlot_home {s : Hw} {k n : Nat} (hs : HomeOn s k n) (j : Nat) (v : Reg32) (fp : Bool) :
    s.setSlot n j v fp = s.setCtxOn k n { s.ctxOn k n with slots := Sparse.put (0, false) (s.ctxOn k n).slots j (v, fp) } := by
  unfold Hw.setSlot
  rw [hs.ctxOf_eq, hs.setCtxOf_eq]

theorem Hw.slotOf_setSlot {s : Hw} {k n : Nat} (hs : HomeOn s k n) (j i : Nat) (v : Reg32) (fp : Bool) :
    ((s.setSlot n j v fp).ctxOn k n).slotOf i = if j = i then (v, fp) else (s.ctxOn k n).slotOf i := by
  rw [Hw.setSlot_home hs, Hw.ctxOn_setCtxOn_self]
  exact Sparse.get_put _ _ _ _ _

theorem StreamCtx.slotOf_congr {c d : StreamCtx} (h : c.slots = d.slots) (j : Nat) : c.slotOf j = d.slotOf j := by
  unfold StreamCtx.slotOf; rw [h]

/-- The state in which a command completes: its scalar slot is written. -/
def Hw.slotDone (s : Hw) (n : Nat) (f : InFlight) (st : Nat) : Hw :=
  if (Com.opcode f.cmd = 0x7B || Com.opcode f.cmd = 0x62) && statusCode st = 0 then
    (match slotWritten f.cmd with
      | some k => s.setSlot n k (BitVec.ofNat 32 f.latched) (bit f.latched 32)
      | none => s)
  else s

theorem HomeOn.slotDone {s : Hw} {k n : Nat} (hs : HomeOn s k n) (f : InFlight) (st : Nat) :
    HomeOn (s.slotDone n f st) k n ∧ (s.slotDone n f st).mem = s.mem ∧
      (s.slotDone n f st).fget F.STRM_STATUS_ACC_CODES n = s.fget F.STRM_STATUS_ACC_CODES n := by
  unfold Hw.slotDone
  split
  · split
    · rw [Hw.setSlot_home hs]
      exact ⟨hs.setCtxOn _ _, rfl, rfl⟩
    · exact ⟨hs, rfl, rfl⟩
  · exact ⟨hs, rfl, rfl⟩

/-- R248: SCALAR.LOAD writes its slot as it completes with code 0. -/
theorem Hw.slotDone_scalar {s : Hw} {k n : Nat} (hs : HomeOn s k n) (f : InFlight) {st : Nat} (hop : Com.opcode f.cmd = 0x7B)
    (hst : statusCode st = 0) : ((s.slotDone n f st).ctxOn k n).slotOf (Com.param f.cmd 0 % 16) = (BitVec.ofNat 32 f.latched, bit f.latched 32) := by
  have hslot : slotWritten f.cmd = some (Com.param f.cmd 0 % 16) := by unfold slotWritten; rw [hop]; rfl
  unfold Hw.slotDone
  simp only [hop, hst, hslot, decide_true, Bool.true_or, Bool.and_self, if_true]
  rw [Hw.slotOf_setSlot hs, if_pos rfl]

/-- R243 to R245: a command but READY and APPLY completes: its slot is written, its status entered, and no entry of its number is
outstanding. -/
theorem Closing.of_closeFlight {s : Hw} {k n : Nat} (hs : HomeOn s k n) (f : InFlight) (st : Nat) (hop : Com.opcode f.cmd ∉ [0x60, 0x61]) :
    Closing k n ((s.slotDone n f st).withCode n st) (s.closeFlight k n f st) ∧ NumDone (s.closeFlight k n f st) k n f.num := by
  simp only [List.mem_cons, List.not_mem_nil, or_false, not_or] at hop
  obtain ⟨h60, h61⟩ := hop
  obtain ⟨hcomplete, hdone⟩ := of_complete (hs.slotDone f st).1 f st
  unfold Hw.closeFlight
  simp only [h60, h61, decide_false, Bool.false_and, Bool.false_eq_true, if_false]
  have hall : ∀ v, Beside ((s.slotDone n f st).complete n f st) v → Closing k n ((s.slotDone n f st).withCode n st) (v.completeFences n 16) ∧
      NumDone (v.completeFences n 16) k n f.num := fun v hv => by
    have hfences := (of_beside hcomplete.home hv).trans (of_completeFences 16 (hcomplete.home.beside hv))
    exact ⟨hcomplete.trans hfences, hfences.numDone hdone⟩
  split
  · exact hall _ (.of_raise _ _ _ _ _)
  · exact hall _ (.refl _)

/-! ### SCALAR.LOAD -/

/-- R242: a command that completes in the cycle it issues: its entry is in flight before, and is outstanding no more. -/
theorem HeadGone.completeNow {s t : Hw} {k q : Nat} {h : Head} (hg : HeadGone k q h s t) {x : Cmd} (hk : x.t = k) (hn : x.n = h.n)
    (hnum : x.num = h.ctx.issued.toNat) :
    Completed (t.completeNow x 0) k h ∧ NextInLine s (t.completeNow x 0) k q h ∧ (t.completeNow x 0).mem = t.mem ∧
      ((t.completeNow x 0).ctxOn k h.n).slots = (t.ctxOn k h.n).slots := by
  obtain ⟨l, heq, _⟩ := hg.fly_eq hk hn .running .none
  have hg' := hg.setFlight l
  have heq' : t.completeNow x 0 = (t.setCtxOn k h.n { t.ctxOn k h.n with flight := l }).complete h.n
      (x.entry (t.setCtxOn k h.n { t.ctxOn k h.n with flight := l }).beatNo .running .none) 0 := by
    unfold Hw.completeNow
    simp only [heq, hn, hg'.running, Bool.false_eq_true, if_false]
  obtain ⟨hclose, hdone⟩ := Closing.of_complete_ok hg'.home (x.entry (t.setCtxOn k h.n { t.ctxOn k h.n with flight := l }).beatNo .running .none)
    (rfl : statusCode 0 = 0)
  rw [heq']
  refine ⟨⟨hclose.issued.trans hg'.issued, fun f hf hfn => hdone f hf (hfn.trans hnum.symm)⟩, ⟨hclose.pos.trans hg'.pos, ?_⟩, hclose.mem, ?_⟩
  · rw [hclose.queue, hg'.queue]
  · rw [hclose.slots, Hw.ctxOn_setCtxOn_self]

/-- The only operand of SCALAR.LOAD stands where its reference is a descriptor. -/
theorem Hw.cmdAt_has_scalar {s : Hw} {k q : Nat} {h : Head} (hop : Com.opcode h.w = 0x7B) (hf : formatOk h.w = true) :
    (s.cmdAt k q h).has 0 = (refKind (Com.op h.w 0) == 1) := by
  have hrole : roleAt h.w 0 = .optSrc := by unfold roleAt roles; rw [hop]; rfl
  have hops : (s.cmdAt k q h).ops = (s.issuing k h).takeOps k h.ctx h.w := if_pos hf
  have hnth : nth none ((s.issuing k h).takeOps k h.ctx h.w) 0 = if roleAt h.w 0 != .no && refKind (refAt h.w 0) == 1 then
      some ((s.issuing k h).takeOpnd k (refDesc h.ctx (refAt h.w 0))) else none := rfl
  have href : refAt h.w 0 = Com.op h.w 0 := rfl
  unfold Cmd.has
  rw [hops, hnth, hrole, href]
  cases hk : refKind (Com.op h.w 0) == 1 <;> rfl

/-- What SCALAR.LOAD of a descriptor's element, where nothing is dross, comes to: it waits with a status, and memory is as it was taken. -/
theorem HeadGone.scalarRead {s t : Hw} {k q : Nat} {h : Head} (hg : HeadGone k q h s t) {x : Cmd} (hk : x.t = k) (hn : x.n = h.n)
    (hnum : x.num = h.ctx.issued.toNat) (hw : x.w = h.w) {v : Hw}
    (hv : (∃ st, v = t.turned x st) ∨ ∃ (c : Hw) (l st : Nat), Beside t c ∧ v = c.done { x with latched := l } st) :
    (∃ st, Issued v k h st) ∧ NextInLine s v k q h ∧ (v.ctxOn k h.n).slots = h.ctx.slots ∧ v.mem = t.mem := by
  rcases hv with ⟨st, rfl⟩ | ⟨c, l, st, hb, rfl⟩
  · obtain ⟨hg', hissued, hmem, _⟩ := hg.fly hk hn hnum hw st .none
    exact ⟨⟨st, hissued⟩, hg'.next, hg'.slots, hmem⟩
  · obtain ⟨hg', hissued, hmem, _⟩ := (hg.beside hb).fly (x := { x with latched := l }) hk hn hnum hw st (c.unitNeed x.w)
    exact ⟨⟨st, hissued⟩, hg'.next, hg'.slots, hmem.trans hb.mem⟩

theorem Beside.of_countSat (s : Hw) (n i : Nat) : Beside s (s.countSat n i).1 := by
  unfold Hw.countSat
  split
  · exact refl s
  · exact of_bump s F.NUM_SATURATED_COUNT n i

/-- A slot written of a head that is gone: of its stream's context nothing else differs. -/
theorem HeadGone.setSlot {s t : Hw} {k q : Nat} {h : Head} (hg : HeadGone k q h s t) (j : Nat) (v : Reg32) (fp : Bool) :
    HeadGone k q { h with ctx := { h.ctx with slots := Sparse.put (0, false) h.ctx.slots j (v, fp) } } s (t.setSlot h.n j v fp) := by
  rw [Hw.setSlot_home hg.home, hg.slots]
  exact ⟨hg.home.setCtxOn _ _, by rw [Hw.ctxOn_setCtxOn_self]; exact hg.issued, by rw [Hw.ctxOn_setCtxOn_self]; exact hg.pos,
    by rw [Hw.ctxOn_setCtxOn_self], by rw [Hw.getQueue_setCtxOn]; exact hg.queue, hg.running⟩

theorem Hw.setSlot_mem {s : Hw} {k n : Nat} (hs : HomeOn s k n) (j : Nat) (v : Reg32) (fp : Bool) : (s.setSlot n j v fp).mem = s.mem := by
  rw [Hw.setSlot_home hs, Hw.setCtxOn_mem]

/-- The scalar load of the model, on a head that is ready. -/
theorem Hw.scalarLoad_ready {s : Hw} {k q : Nat} {h : Head} (hr : Ready s k q 0x7B h) :
    (refKind (Com.op h.w 0) = 0 → s.scalarLoad k q = ((s.taken k q h).setSlot h.n (Com.param h.w 0) (BitVec.ofNat 32 (Com.param h.w 1))
      (!Com.modeBit h.w 4)).completeNow (s.cmdAt k q h) 0) ∧
    (refKind (Com.op h.w 0) = 1 → Clean (s.taken k q h) →
      (∃ st, s.scalarLoad k q = (s.taken k q h).turned (s.cmdAt k q h) st) ∨
      ∃ (c : Hw) (l st : Nat), Beside (s.taken k q h) c ∧ s.scalarLoad k q = c.done { s.cmdAt k q h with latched := l } st) := by
  have hop := hr.2.1
  have hhas := Hw.cmdAt_has_scalar (s := s) (k := k) (q := q) hop hr.formatOk
  have hissue := Hw.issue_ready hr (fun w => Com.opcode w == 0x7B) (beq_iff_eq.2 hop)
  constructor
  · intro h0
    rw [h0] at hhas
    unfold Hw.scalarLoad
    rw [hissue]
    simp only [hhas]
    rfl
  · intro h1 hc
    rw [h1] at hhas
    have hbeside := Beside.refl (s.taken k q h)
    have hw : (s.cmdAt k q h).w = h.w := rfl
    unfold Hw.scalarLoad
    rw [hissue]
    generalize s.cmdAt k q h = x at *
    generalize s.taken k q h = t at *
    simp only [hhas, Hw.consume_clean hc.1 hc.2, ne_eq, not_true_eq_false, if_false, beq_self_eq_true, Bool.not_true, Bool.false_eq_true]
    split
    · exact .inl ⟨_, rfl⟩
    · split
      · exact .inr ⟨_, _, _, .of_countSat _ _ _, rfl⟩
      · exact .inr ⟨_, _, _, hbeside, rfl⟩

/-- Settles O21: completion is followed through the stream's context at home (`Closing`), and the scalar load through its issue
(`HeadGone`). -/
theorem commandsComplete : Obligations.CommandsComplete := by
  unfold Obligations.CommandsComplete
  intro s k q
  refine ⟨fun num n f st hfind hstage hs hmay hop => ?_, fun h hs hr => ⟨fun h0 => ?_, fun h1 hsyn hoff => ?_⟩⟩
  · refine .of_onHw _ (exec_commandComplete k q num s) ?_
    have heq : s.hw.commandComplete k.val q.val num.toNat = s.hw.closeFlight k n f st := by
      unfold Hw.commandComplete
      simp only [hfind, hmay, hstage, Bool.not_true, Bool.false_eq_true, if_false]
    obtain ⟨hhome, hmem, hcodes⟩ := hs.slotDone f st
    obtain ⟨hclose, hdone⟩ := Closing.of_closeFlight hs f st hop
    rw [heq]
    refine ⟨hdone, by rw [hclose.mem, Hw.withCode_mem, hmem], fun h0 h9 => ?_, fun h0 => ?_, fun h7 h0 => ?_⟩
    · rw [hclose.codes]
      exact Hw.bit_withCode _ _ h0 h9
    · rw [hclose.codes, Hw.withCode_ok _ _ h0, hcodes]
    · rw [← Hw.slotDone_scalar hs f h7 h0]
      refine StreamCtx.slotOf_congr ?_ _
      rw [hclose.slots, Hw.withCode_ctxOn]
  · refine .of_onHw _ (exec_scalarLoad k q s) ?_
    rw [(Hw.scalarLoad_ready hr).1 h0]
    have hg := hr.headGone hs
    have htaken := s.hw.memAsTaken_taken k q h
    have hmem := Hw.setSlot_mem hg.home (Com.param h.w 0) (BitVec.ofNat 32 (Com.param h.w 1)) (!Com.modeBit h.w 4)
    have hslot := hg.setSlot (Com.param h.w 0) (BitVec.ofNat 32 (Com.param h.w 1)) (!Com.modeBit h.w 4)
    obtain ⟨hcompleted, hnext, hm, hs'⟩ := hslot.completeNow (x := s.hw.cmdAt k q h) rfl rfl rfl
    have hread : ∀ j, (((((s.hw.taken k q h).setSlot h.n (Com.param h.w 0) (BitVec.ofNat 32 (Com.param h.w 1)) (!Com.modeBit h.w 4)).completeNow
        (s.hw.cmdAt k q h) 0)).ctxOn k h.n).slotOf j = if Com.param h.w 0 = j then (BitVec.ofNat 32 (Com.param h.w 1), !Com.modeBit h.w 4)
        else h.ctx.slotOf j := fun j => by
      rw [StreamCtx.slotOf_congr hs', Hw.slotOf_setSlot hg.home, StreamCtx.slotOf_congr hg.slots]
    exact ⟨hcompleted, hnext, by rw [hread, if_pos rfl], fun j hj => by rw [hread, if_neg (Ne.symm hj)], (hm.trans hmem).trans htaken.1,
      fun hsyn => (hm.trans hmem).trans (htaken.2 hsyn)⟩
  · refine .of_onHw _ (exec_scalarLoad k q s) ?_
    obtain ⟨hclean, hmem, _⟩ := Hw.taken_clean ⟨hsyn, hoff⟩ k q h
    obtain ⟨hissued, hnext, hslots, hm⟩ := (hr.headGone hs).scalarRead rfl rfl rfl rfl ((Hw.scalarLoad_ready hr).2 h1 hclean)
    exact ⟨hissued, hnext, hslots, hm.trans hmem⟩

end Sys2Proof.Machine
end

section
/-!
PROOFS. What the clock, the steps of an edge window and the begin of a beat leave alone: the registers of the plan and of the beat, the beat
controller, and the events that wait (R37, R39, R59, R235).
-/
namespace Sys2Proof.Machine

/-- The registers in which the beat number and the plan stand. -/
def planRegs : List Reg :=
  [.BEAT_COUNT_LO, .BEAT_COUNT_HI, .BEAT_CUR_BASE_LO, .BEAT_CUR_BASE_HI, .BEAT_CUR_LEN, .BEAT_ENTRY, .BEAT_STATUS, .BEAT_PLAN_NEXT,
   .BEAT_NEXT_BASE_LO, .BEAT_NEXT_BASE_HI, .BEAT_NEXT_LEN]

/-- The same, with what the trim and the markers of a beat depend on. -/
def edgeRegs : List Reg := planRegs ++ [.BEAT_TRIM, .BEAT_LEN, .BEAT_GROUP, .ID_SERVICE, .LNK_MODULE, .LNK_LSTATE]

/-- From s to t the registers listed and the beat controller have stayed, and the events raised wait behind those that waited. -/
structure EdgeWork (L : List Reg) (s t : Hw) : Prop where
  regs : ∀ r ∈ L, ∀ u, t.rd r u = s.rd r u
  beat : t.beat = s.beat
  waiting : s.host.waiting <+: t.host.waiting

namespace EdgeWork

variable {L : List Reg} {s t v : Hw}

theorem refl (s : Hw) : EdgeWork L s s := ⟨fun _ _ _ => rfl, rfl, List.prefix_refl _⟩

theorem trans (h : EdgeWork L s t) (h' : EdgeWork L t v) : EdgeWork L s v :=
  ⟨fun r hr u => (h'.regs r hr u).trans (h.regs r hr u), h'.beat.trans h.beat, h.waiting.trans h'.waiting⟩

theorem mono {L' : List Reg} (h : EdgeWork L s t) (hl : ∀ r ∈ L', r ∈ L) : EdgeWork L' s t :=
  ⟨fun r hr u => h.regs r (hl r hr) u, h.beat, h.waiting⟩

theorem foldl {α : Type} (f : Hw → α → Hw) (hf : ∀ s a, EdgeWork L s (f s a)) (l : List α) : ∀ s : Hw, EdgeWork L s (l.foldl f s) := by
  induction l with
  | nil => exact refl
  | cons a l ih => exact fun s => (hf s a).trans (ih _)

theorem of_eq (hr : t.regs = s.regs) (hb : t.beat = s.beat) (hh : t.host.waiting = s.host.waiting) : EdgeWork L s t :=
  ⟨fun r _ u => Hw.rd_congr hr r u, hb, by rw [hh]⟩

theorem of_memWork (h : MemWork s t) (hl : ∀ r ∈ L, r ∉ memRegs := by decide) : EdgeWork L s t :=
  ⟨fun r hr u => h.rd r u (hl r hr), h.beat, h.waiting⟩

theorem fset (h : EdgeWork L s t) (f : Fld) (x u : Nat) (hf : ∀ r ∈ L, f.reg ≠ r := by decide) : EdgeWork L s (t.fset f x u) :=
  h.trans ⟨fun r hr v => Hw.rd_fset_reg (f := f) (q := r) t x u v (hf r hr), rfl, List.prefix_refl _⟩

theorem wr (h : EdgeWork L s t) (q : Reg) (x : Reg32) (u : Nat) (hf : ∀ r ∈ L, q ≠ r := by decide) : EdgeWork L s (t.wr q u x) :=
  h.trans ⟨fun r hr v => Hw.rd_wr_reg (r := q) (q := r) t u v x (hf r hr), rfl, List.prefix_refl _⟩

theorem bump (h : EdgeWork L s t) (f : Fld) (u n : Nat) (hf : ∀ r ∈ L, f.reg ≠ r := by decide) : EdgeWork L s (t.bump f u n) :=
  h.trans ⟨fun r hr v => Hw.rd_bump_reg (f := f) (q := r) t u v n (hf r hr), Hw.bump_beat _ _ _ _, by rw [Hw.bump_host]⟩

theorem raise (h : EdgeWork L s t) (code a0 a1 : Nat) (w : Who) (hl : ∀ r ∈ L, r ∉ memRegs := by decide) :
    EdgeWork L s (t.raise code a0 a1 w) := h.trans (of_memWork (.of_raise t code a0 a1 w) hl)

theorem setStream (h : EdgeWork L s t) (n : Nat) (x : StreamSt) : EdgeWork L s (t.setStream n x) := h.trans (of_eq rfl rfl rfl)

theorem shadowTouch (h : EdgeWork L s t) (n : Nat) : EdgeWork L s (t.shadowTouch n) := h.setStream n _

theorem modTile (h : EdgeWork L s t) (k : Nat) (f : Tile → Tile) : EdgeWork L s (t.modTile k f) := h.trans (of_eq rfl rfl rfl)

theorem modPhys (h : EdgeWork L s t) (p : Nat) (f : Phys → Phys) : EdgeWork L s (t.modPhys p f) := h.trans (of_eq rfl rfl rfl)

theorem modChan (h : EdgeWork L s t) (c : Nat) (f : Chan → Chan) : EdgeWork L s (t.modChan c f) := h.trans (of_eq rfl rfl rfl)

theorem modLink (h : EdgeWork L s t) (l : Nat) (f : Link → Link) : EdgeWork L s (t.modLink l f) := h.trans (of_eq rfl rfl rfl)

theorem of_sendRecord (s : Hw) (l : Nat) (r : BitVec 128) : EdgeWork L s (s.sendRecord l r) := of_eq rfl rfl rfl

theorem of_routeRecord (s : Hw) (m : Nat) (r : BitVec 128) : EdgeWork L s (s.routeRecord m r) := by
  unfold Hw.routeRecord
  split
  · exact of_sendRecord s _ r
  · exact of_eq rfl rfl rfl

theorem of_pcEvent (s : Hw) (ev t n k : Nat) (hlo : ∀ r ∈ L, Reg.DBG_PC_VAL_LO ≠ r := by decide)
    (hhi : ∀ r ∈ L, Reg.DBG_PC_VAL_HI ≠ r := by decide) : EdgeWork L s (s.pcEvent ev t n k) := by
  unfold Hw.pcEvent
  split
  · refine foldl _ (fun v i => ?_) _ s
    simp only
    split
    · exact ((refl v).wr .DBG_PC_VAL_LO _ i hlo).wr .DBG_PC_VAL_HI _ i hhi
    · exact refl v
  · exact refl s

theorem rd64 (h : EdgeWork L s t) {lo hi : Reg} (u : Nat := 0) (hlo : lo ∈ L := by decide) (hhi : hi ∈ L := by decide) :
    t.rd64 lo hi u = s.rd64 lo hi u := by unfold Hw.rd64; rw [h.regs lo hlo, h.regs hi hhi]

theorem fget (h : EdgeWork L s t) (f : Fld) (u : Nat := 0) (hf : f.reg ∈ L := by decide) : t.fget f u = s.fget f u := by
  unfold Hw.fget; rw [h.regs f.reg hf]

theorem flag (h : EdgeWork L s t) (f : Fld) (u : Nat := 0) (hf : f.reg ∈ L := by decide) : t.flag f u = s.flag f u := by
  unfold Hw.flag; rw [h.fget f u hf]

theorem beatNo (h : EdgeWork edgeRegs s t) : t.beatNo = s.beatNo := h.rd64

end EdgeWork

/-! ### Partitions at the begin of a beat -/

theorem MemWork.of_spillRun (s : Hw) (k g n : Nat) : MemWork s (s.spillRun k g n) := by
  unfold Hw.spillRun
  extract_lets fits s0 s1 byte s2
  have h0 : MemWork s s0 := by
    change MemWork s (if _ then _ else _)
    split
    · exact of_raiseOnce _ _ _ _ _ _
    · exact refl s
  have h1 : MemWork s s1 := h0.bump F.FLT_DROSS_PASSED_COUNT 0 _
  split
  · exact h1
  · split
    · exact (h1.trans (of_mem _ _)).trans (of_noteMirror _ _)
    · refine (h1.trans (of_writeAddrs _ _)).trans (foldl _ (fun v w => ?_) _ _)
      simp only
      split
      · split
        · split
          · exact refl v
          · exact of_mem v _
        · exact refl v
      · split
        · exact (of_invertAtom v _).trans (of_invertAtom _ _)
        · exact (of_invertAtom v _).trans (of_invertAtom _ _)
        · exact refl v

theorem MemWork.of_spill (s : Hw) (p : Nat) (r : Resident) : MemWork s (s.spill p r) := by
  unfold Hw.spill
  extract_lets s1
  have h1 : MemWork s s1 := of_modPhys s p _
  split
  · exact h1
  · exact h1.trans (of_spillRun _ _ _ _)

theorem MemWork.of_backingRead (s : Hw) (f : Nat) : MemWork s (s.backingRead f) := by
  unfold Hw.backingRead
  extract_lets a
  split
  · exact of_raiseOnce _ _ _ _ _ _
  · exact refl s

theorem MemWork.of_placePartitions (s : Hw) (t : Nat) : MemWork s (s.placePartitions t) := by
  unfold Hw.placePartitions
  split
  · exact refl s
  · next f _ =>
    extract_lets p qs bs same goes s1 new
    have h1 : MemWork s s1 := foldl _ (fun v r => of_spill v p r) _ s
    have h2 : MemWork s (if new.isEmpty then s1 else s1.backingRead f) := by
      split
      · exact h1
      · exact h1.trans (of_backingRead _ _)
    exact h2.trans (of_modPhys _ _ _)

/-! ### The trace -/

namespace EdgeWork

variable {L : List Reg} {s t : Hw}

theorem of_traceOut (s : Hw) (r : List Byte) : EdgeWork edgeRegs s (s.traceOut r) := by
  unfold Hw.traceOut
  extract_lets n cap a s1
  split
  · exact (refl s).bump F.DBG_TRACE_LOST_COUNT 0 1
  · split
    · exact ((refl s).bump F.DBG_TRACE_LOST_COUNT 0 1).trans (of_memWork (.of_raiseOnce _ _ _ _ _ _))
    · have h1 : EdgeWork edgeRegs s s1 := (of_memWork (.of_writeAddrs s _)).fset F.DBG_TRACE_COUNT_COUNT _ 0
      split
      · exact (h1.fset F.DBG_TRACE_CTL_FULL 1 0).fset F.DBG_TRACE_CTL_RUNNING 0 0
      · exact h1

theorem of_drainTrace (s : Hw) : EdgeWork edgeRegs s s.drainTrace :=
  (of_eq rfl rfl rfl : EdgeWork edgeRegs s { s with test := { s.test with trace := [] } }).trans (foldl _ of_traceOut _ _)

theorem of_trace (s : Hw) (r : List Byte) : EdgeWork edgeRegs s (s.trace r) := by
  rcases s.trace_cases r with h | ⟨l, h⟩ | h <;> rw [h]
  · exact refl s
  · exact of_eq rfl rfl rfl
  · exact (refl s).bump F.DBG_TRACE_LOST_COUNT 0 1

/-! ### Cycle 0 of a beat -/

theorem of_installSeed (s : Hw) (n : Nat) : EdgeWork L s (s.installSeed n) := by
  have hset : ∀ (v : Hw) (c : StreamCtx), EdgeWork L v (v.setCtxOf n c) := fun v c => by
    unfold Hw.setCtxOf
    split
    · exact of_eq rfl rfl rfl
    · simp only
      split
      · exact refl v
      · exact of_eq rfl rfl rfl
  unfold Hw.installSeed
  simp only
  split
  · exact ((refl s).setStream n _).trans (hset _ _)
  · exact refl s

theorem of_assayBeat (s : Hw) (inc : Option Entry) : EdgeWork edgeRegs s (s.assayBeat inc) := by
  unfold Hw.assayBeat
  extract_lets given tithed s1 s2 s3
  have h1 : EdgeWork edgeRegs s s1 := foldl _ (fun v t => by
    split
    · exact (refl v).modTile t _
    · exact refl v) _ s
  have h2 : EdgeWork edgeRegs s s2 := h1.bump F.FLT_TITHES_COUNT 0 _
  have h3 : EdgeWork edgeRegs s s3 := h2.trans (foldl _ (fun v t => (refl v).modPhys _ _) _ _)
  refine h3.trans (foldl _ (fun v p => ?_) _ _)
  extract_lets s4
  have h4 : EdgeWork edgeRegs v s4 := (refl v).modPhys p _
  split
  · exact h4.modPhys p _
  · exact h4

theorem of_releaseWaits (s : Hw) : EdgeWork L s s.releaseWaits := of_eq rfl rfl rfl

theorem of_resendQueries (s : Hw) : EdgeWork L s s.resendQueries := foldl _ (fun v _ => of_routeRecord v _ _) _ s

theorem of_sendMarkers (s : Hw) : EdgeWork L s s.sendMarkers := by
  unfold Hw.sendMarkers
  split
  · exact foldl _ (fun v l => of_sendRecord v l _) _ s
  · exact refl s

theorem of_sendHellos (s : Hw) : EdgeWork L s s.sendHellos := by
  unfold Hw.sendHellos
  split
  · exact refl s
  · exact foldl _ (fun v l => of_sendRecord v l _) _ s

theorem of_shadowsDue (s : Hw) : EdgeWork L s s.shadowsDue := of_eq rfl rfl rfl

/-! ### Steps 5 to 7 -/

theorem of_bindQueue (s : Hw) (t q : Nat) (b : Binding) : EdgeWork edgeRegs s (s.bindQueue t q b) := by
  unfold Hw.bindQueue
  extract_lets old f home bound keep v s1 s2
  have h1 : EdgeWork edgeRegs s s1 := of_eq rfl rfl rfl
  split
  · exact h1.raise _ _ _ _
  · split
    · have h2 : EdgeWork edgeRegs s s2 := by
        change EdgeWork edgeRegs s (if _ then _ else _)
        split
        · exact h1
        · exact (h1.fset F.STRM_STATE_BOUND 1 _).shadowTouch _
      exact (h2.fset F.STRM_STATE_TILE t _).fset F.STRM_STATE_QUEUE q _
    · exact h1

theorem of_bindAll (s : Hw) (inc : Option Entry) : EdgeWork edgeRegs s (s.bindAll inc) := by
  unfold Hw.bindAll
  extract_lets before live s1 now
  have h1 : EdgeWork edgeRegs s s1 := foldl _ (fun v t => by
    split
    · exact foldl _ (fun v q => of_bindQueue v t q _) _ v
    · exact (refl v).modTile t _) _ s
  exact h1.trans (foldl _ (fun v n => ((refl v).fset F.STRM_STATE_BOUND 0 n).shadowTouch n) _ _)

theorem of_admitRoutines (s : Hw) (t : Nat) : EdgeWork edgeRegs s (s.admitRoutines t) :=
  foldl _ (fun v _ => (((refl v).modPhys _ _).trans (of_memWork (.of_setPhys _ _ _))).raise _ _ _ _) _ s

theorem of_channelReturns (s : Hw) (c : Nat) : EdgeWork edgeRegs s (s.channelReturns c) := by
  unfold Hw.channelReturns
  split
  · extract_lets s1
    have h1 : EdgeWork edgeRegs s s1 := (refl s).modChan c _
    refine EdgeWork.raise (EdgeWork.raise (h1.trans ?_) _ _ _ _) _ _ _ _
    exact of_eq rfl rfl rfl
  · exact refl s

theorem of_linkReturns (s : Hw) (l : Nat) : EdgeWork edgeRegs s (s.linkReturns l) := by
  unfold Hw.linkReturns
  split
  · exact ((refl s).modLink l _).raise _ _ _ _
  · exact refl s

theorem of_startTraining (s : Hw) (l : Nat) : EdgeWork planRegs s (s.startTraining l) := by
  have htwin : EdgeWork planRegs s (s.takeTwinBit l) := by
    unfold Hw.takeTwinBit
    split
    · exact refl s
    · exact (((refl s).wr .TWIN_LINKS_LO _ 0).wr .TWIN_LINKS_HI _ 0).modLink l _
  unfold Hw.startTraining
  simp only
  split
  · exact htwin.fset F.LNK_LSTATE_STATE 1 l
  · exact refl s

theorem of_setUnit (s : Hw) (kind i : Nat) (st : UnitSt) (pend dis en : Bool) : EdgeWork L s (s.setUnit kind i st pend dis en) := by
  unfold Hw.setUnit
  split
  · exact (refl s).modPhys i _
  · exact (refl s).modChan i _
  · exact (refl s).modLink i _

theorem of_startReturn (s : Hw) (kind i : Nat) : EdgeWork planRegs s (s.startReturn kind i) := by
  unfold Hw.startReturn
  simp only
  split
  · split
    · exact (of_setUnit s _ _ _ _ _ _).modPhys i _
    · exact (of_setUnit s _ _ _ _ _ _).modChan i _
    · exact ((of_setUnit s _ _ _ _ _ _).modLink i _).trans (of_startTraining _ _)
  · exact refl s

theorem of_armEdge (s : Hw) : EdgeWork edgeRegs s s.armEdge := by
  unfold Hw.armEdge
  split
  · exact (((refl s).fset F.TST_ARM_PENDING 0 0).fset F.TST_ARM_ARMED 1 0).raise _ _ _ _
  · exact refl s

theorem toPlan (h : EdgeWork edgeRegs s t) : EdgeWork planRegs s t := h.mono (by decide)

theorem of_enables (s : Hw) : EdgeWork planRegs s s.enables := by
  unfold Hw.enables
  extract_lets ps cs ls s1 s2 s3 s4
  have h1 : EdgeWork planRegs s s1 := foldl _ (fun v c => (of_channelReturns v c).toPlan) _ s
  have h2 : EdgeWork planRegs s s2 := h1.trans (foldl _ (fun v l => (of_linkReturns v l).toPlan) _ _)
  have h3 : EdgeWork planRegs s s3 := h2.trans (foldl _ (fun v p => of_startReturn v 0 p) _ _)
  have h4 : EdgeWork planRegs s s4 := h3.trans (foldl _ (fun v c => of_startReturn v 1 c) _ _)
  exact (h4.trans (foldl _ (fun v l => of_startReturn v 2 l) _ _)).trans (of_armEdge _).toPlan

end EdgeWork

end Sys2Proof.Machine
end

section
/-!
PROOFS. The clock within a beat, and the begin of a beat (R37 to R39, R67, R235).
-/
namespace Sys2Proof.Machine

/-! ### Counters of cycles -/

/-- From s to t counters have counted: the registers of the beat, the beat controller and what concerns the host have stayed. -/
structure Counted (s t : Hw) : Prop where
  regs : ∀ r ∈ edgeRegs, ∀ u, t.rd r u = s.rd r u
  beat : t.beat = s.beat
  host : t.host = s.host

namespace Counted

variable {s t v : Hw}

theorem refl (s : Hw) : Counted s s := ⟨fun _ _ _ => rfl, rfl, rfl⟩

theorem trans (h : Counted s t) (h' : Counted t v) : Counted s v :=
  ⟨fun r hr u => (h'.regs r hr u).trans (h.regs r hr u), h'.beat.trans h.beat, h'.host.trans h.host⟩

theorem foldl {α : Type} (f : Hw → α → Hw) (hf : ∀ s a, Counted s (f s a)) (l : List α) : ∀ s : Hw, Counted s (l.foldl f s) := by
  induction l with
  | nil => exact refl
  | cons a l ih => exact fun s => (hf s a).trans (ih _)

theorem of_eq (hr : t.regs = s.regs) (hb : t.beat = s.beat) (hh : t.host = s.host) : Counted s t :=
  ⟨fun r _ u => Hw.rd_congr hr r u, hb, hh⟩

theorem wr (h : Counted s t) (q : Reg) (x : Reg32) (u : Nat) (hf : ∀ r ∈ edgeRegs, q ≠ r := by decide) : Counted s (t.wr q u x) :=
  h.trans ⟨fun r hr v => Hw.rd_wr_reg (r := q) (q := r) t u v x (hf r hr), rfl, rfl⟩

theorem bump (h : Counted s t) (f : Fld) (u n : Nat) (hf : ∀ r ∈ edgeRegs, f.reg ≠ r := by decide) : Counted s (t.bump f u n) :=
  h.trans ⟨fun r hr v => Hw.rd_bump_reg (f := f) (q := r) t u v n (hf r hr), Hw.bump_beat _ _ _ _, Hw.bump_host _ _ _ _⟩

theorem drawn (h : Counted s t) : Counted s { t with free := t.free + 1 } := h.trans (of_eq rfl rfl rfl)

theorem of_pcEvent (s : Hw) (ev t n k : Nat) : Counted s (s.pcEvent ev t n k) := by
  unfold Hw.pcEvent
  split
  · refine foldl _ (fun v i => ?_) _ s
    simp only
    split
    · exact ((refl v).wr .DBG_PC_VAL_LO _ i).wr .DBG_PC_VAL_HI _ i
    · exact refl v
  · exact refl s

theorem pcEvent (h : Counted s t) (ev k n i : Nat) : Counted s (t.pcEvent ev k n i) := h.trans (of_pcEvent _ _ _ _ _)

theorem of_trace (s : Hw) (r : List Byte) : Counted s (s.trace r) := by
  rcases s.trace_cases r with h | ⟨l, h⟩ | h <;> rw [h]
  · exact refl s
  · exact of_eq rfl rfl rfl
  · exact (refl s).bump F.DBG_TRACE_LOST_COUNT 0 1

theorem of_blockedCycles (s : Hw) (t q k : Nat) : Counted s (s.blockedCycles t q k) := by
  unfold Hw.blockedCycles
  split
  · exact refl s
  · next h _ =>
    split
    · exact refl s
    · extract_lets b stop n r
      have h1 : Counted s ((s.bump F.BEAT_BUBBLE_UNITS h.n (r / 64)).setStream h.n { s.getStream h.n with bubbleRem := r % 64 }) :=
        ((refl s).bump F.BEAT_BUBBLE_UNITS _ _).trans (of_eq rfl rfl rfl)
      exact h1.pcEvent _ _ _ _

theorem stallCycles (h : Counted s t) (k n : Nat) (f : Fld) (hf : ∀ r ∈ edgeRegs, f.reg ≠ r := by decide) :
    Counted s (t.stallCycles k n f) := h.drawn.bump f k _ hf

theorem of_busyCycles (s : Hw) (t k : Nat) : Counted s (s.busyCycles t k) := by
  unfold Hw.busyCycles
  extract_lets stream loom s1 s2
  have h1 : Counted s s1 := by
    change Counted s (match loom with | some f => _ | none => s)
    cases loom with
    | some f => exact (((refl s).pcEvent _ _ _ _).stallCycles _ _ F.LOOM_HEDDLE_STALL_CYCLES).stallCycles _ _ F.LOOM_FEED_STALL_CYCLES
    | none => exact refl s
  have h2 : Counted s s2 := by
    change Counted s (match s.busyPart t 2 with | some f => _ | none => s1)
    cases s.busyPart t 2 with
    | some f => exact ((h1.pcEvent _ _ _ _).stallCycles _ _ F.SHTL_FETCH_STALL_CYCLES).stallCycles _ _ F.SHTL_LANE_BUSY_CYCLES
    | none => exact h1
  split
  · exact ((h2.pcEvent _ _ _ _).bump F.FIN_BUSY_CYCLES_CYCLES _ _).stallCycles _ _ F.FIN_STORE_STALL_CYCLES
  · exact h2

theorem of_closedCycles (s : Hw) (k : Nat) : Counted s (s.closedCycles k) := by
  unfold Hw.closedCycles
  split
  · exact refl s
  · refine foldl _ (fun v t => ?_) _ s
    split
    · exact refl v
    · exact of_pcEvent v _ _ _ _

/-- A counter of events that counts a free number. -/
theorem drawnCounter (h : Counted s t) (x u : Nat) :
    Counted s (({ t with free := t.free + 1 } : Hw).wr64 .DBG_PC_VAL_LO .DBG_PC_VAL_HI x u) :=
  (h.drawn.wr .DBG_PC_VAL_LO _ u).wr .DBG_PC_VAL_HI _ u

theorem of_bankWaits (s : Hw) : Counted s s.bankWaits := by
  unfold Hw.bankWaits
  split
  · refine foldl _ (fun v i => ?_) _ s
    split
    · exact (refl v).drawnCounter _ i
    · exact refl v
  · exact refl s

theorem of_perturbWaits (s : Hw) (k : Nat) : Counted s (s.perturbWaits k) := by
  unfold Hw.perturbWaits
  extract_lets hits s1
  split
  · exact refl s
  · have h1 : Counted s s1 := foldl _ (fun v i => (refl v).drawn.bump F.TST_PERT_HITS_COUNT i _) _ s
    split
    · refine h1.trans (foldl _ (fun v i => ?_) _ _)
      split
      · exact (refl v).drawnCounter _ i
      · exact refl v
    · exact h1

theorem edgeWork (h : Counted s t) : EdgeWork edgeRegs s t := ⟨h.regs, h.beat, by rw [h.host]⟩

end Counted

/-- The beat controller but for the cycle and the step of the edge window. -/
def Beat.still (b : Beat) : Beat := { b with cycle := 0, edge := { b.edge with step := 0 } }

/-- R4, R37: as the clock runs within a beat, of the beat controller only the cycle changes. -/
theorem Hw.clock_spec (s : Hw) (k : Nat) :
    (∀ r ∈ edgeRegs, ∀ u, (s.clock k).rd r u = s.rd r u) ∧ (s.clock k).beat.still = s.beat.still ∧ (s.clock k).host = s.host := by
  unfold Hw.clock
  extract_lets k b x s1 ts s3 s2 s4
  have h1 : Counted s s1 := .of_eq rfl rfl rfl
  have h2 : Counted s s2 := by
    change Counted s (if s1.running = true then _ else s1)
    split
    · refine h1.trans ((((Counted.foldl _ (fun v t => Counted.foldl _ (fun v q => Counted.of_blockedCycles v t q _) _ v) _ _).trans
        (Counted.foldl _ (fun v t => Counted.of_busyCycles v t _) _ _)).trans (Counted.of_closedCycles _ _)).trans (Counted.of_bankWaits _))
    · exact h1
  have h4 : Counted s s4 := (h2.trans (.of_perturbWaits _ _)).pcEvent _ _ _ _
  split
  · exact ⟨h4.regs, by rw [← h4.beat]; rfl, h4.host⟩
  · exact ⟨h4.regs, congrArg Beat.still h4.beat, h4.host⟩

/-! ### The begin of a beat -/

/-- R38, R68: s with the trim and the number of the beat that begins, at its cycle 0. -/
def Hw.beatOpened (s : Hw) (trim : Int) (n : Nat) : Hw :=
  ((({ s with host := { s.host with once := [] } } : Hw).fset F.BEAT_TRIM_TRIM (satField 5 (max (-8) (min 8 trim)))).wr64
    .BEAT_COUNT_LO .BEAT_COUNT_HI (n % (1 <<< 64))).modBeat (fun b => { b with cycle := 0, edge := EdgeRun.none })

/-- The state in which a beat's markers are sent. -/
def Hw.beatPlaced (s : Hw) (inc : Option Entry) (trim : Int) (n : Nat) : Hw :=
  let s3 := (s.beatOpened trim n).heldTiles.foldl Hw.placePartitions (s.beatOpened trim n)
  let s4 := (s3.boundQueues.map (fun p => (s3.getQueue p.1 p.2).bind.stream)).foldl Hw.installSeed s3
  (s4.assayBeat inc).releaseWaits.resendQueries

theorem Hw.beginBeat_eq (s : Hw) (inc : Option Entry) (trim : Int) (n : Nat) :
    s.beginBeat inc trim n = (s.beatPlaced inc trim n).sendMarkers.sendHellos.shadowsDue.drainTrace := rfl

namespace EdgeWork

theorem of_beatPlaced (s : Hw) (inc : Option Entry) (trim : Int) (n : Nat) :
    EdgeWork edgeRegs (s.beatOpened trim n) (s.beatPlaced inc trim n) := by
  unfold Hw.beatPlaced
  extract_lets s3 s4
  have h3 : EdgeWork edgeRegs (s.beatOpened trim n) s3 := foldl _ (fun v t => of_memWork (.of_placePartitions v t)) _ _
  have h4 : EdgeWork edgeRegs (s.beatOpened trim n) s4 := h3.trans (foldl _ (fun v n => of_installSeed v n) _ _)
  exact ((h4.trans (of_assayBeat _ _)).trans (of_releaseWaits _)).trans (of_resendQueries _)

theorem of_markersSent (s : Hw) : EdgeWork edgeRegs s s.sendMarkers.sendHellos.shadowsDue.drainTrace :=
  (((of_sendMarkers s).trans (of_sendHellos _)).trans (of_shadowsDue _)).trans (of_drainTrace _)

theorem of_beginBeat (s : Hw) (inc : Option Entry) (trim : Int) (n : Nat) :
    EdgeWork edgeRegs (s.beatOpened trim n) (s.beginBeat inc trim n) := by
  rw [Hw.beginBeat_eq]
  exact (of_beatPlaced s inc trim n).trans (of_markersSent _)

end EdgeWork

/-- The trim of the beat lies within eight cycles either way. -/
theorem Hw.trim_beatOpened (s : Hw) (trim : Int) (n : Nat) : (s.beatOpened trim n).trim = max (-8) (min 8 trim) := by
  have hfield : (s.beatOpened trim n).fget F.BEAT_TRIM_TRIM = satField 5 (max (-8) (min 8 trim)) % 2 ^ 5 := by
    refine (Hw.fget_wr64 _ (lo := .BEAT_COUNT_LO) (hi := .BEAT_COUNT_HI) _ _ _ (by decide) (by decide)).trans ?_
    exact Hw.fget_fset_self _ F.BEAT_TRIM_TRIM _ _
  have hread : ∀ v : Int, -8 ≤ v → v ≤ 8 → signed 5 (satField 5 v % 2 ^ 5) = v := by decide +revert
  unfold Hw.trim
  rw [hfield]
  exact hread _ (by omega) (by omega)

theorem Hw.beatNo_beatOpened (s : Hw) (trim : Int) (n : Nat) : (s.beatOpened trim n).beatNo = n % 2 ^ 64 := by
  refine (Hw.rd64_wr64 _ (lo := .BEAT_COUNT_LO) (hi := .BEAT_COUNT_HI) _ _ (by decide)).trans ?_
  rw [Nat.one_shiftLeft, Nat.mod_mod]

/-! ### Markers -/

/-- A record that waits on a link waits there still after records have been sent. -/
theorem Hw.mem_records_sendRecord {s : Hw} {l : Nat} {r : BitVec 128} (k : Nat) (x : BitVec 128) (h : r ∈ (s.getLink l).records) :
    r ∈ ((s.sendRecord k x).getLink l).records := by
  unfold Hw.sendRecord
  rw [Hw.getLink_setLink]
  split
  · next hk =>
    subst hk
    simp only
    split
    · exact List.mem_cons_of_mem _ h
    · exact List.mem_append_left _ h
  · exact h

theorem Hw.mem_records_foldl {l : Nat} {r : BitVec 128} (f : Hw → Nat → BitVec 128) (ls : List Nat) : ∀ {s : Hw}, r ∈ (s.getLink l).records →
    r ∈ ((ls.foldl (fun s k => s.sendRecord k (f s k)) s).getLink l).records := by
  induction ls with
  | nil => exact fun h => h
  | cons k ls ih => exact fun h => ih (Hw.mem_records_sendRecord k _ h)

/-- A record sent on links, one after another, that depends on registers alone waits on each of them. -/
theorem Hw.mem_records_sent {l : Nat} {r : BitVec 128} (f : Hw → Nat → BitVec 128) (ls : List Nat) : ∀ {s : Hw},
    (∀ v, EdgeWork edgeRegs s v → ∀ k, f v k = r) → l ∈ ls → r ∈ ((ls.foldl (fun s k => s.sendRecord k (f s k)) s).getLink l).records := by
  induction ls with
  | nil => exact fun _ h => absurd h List.not_mem_nil
  | cons k ls ih =>
    intro s hf hl
    rcases List.mem_cons.1 hl with rfl | hl
    · refine Hw.mem_records_foldl f ls ?_
      change r ∈ ((s.sendRecord l (f s l)).getLink l).records
      rw [hf s (.refl s)]
      unfold Hw.sendRecord
      rw [Hw.getLink_setLink, if_pos rfl]
      simp only
      split
      · exact List.mem_cons_self
      · exact List.mem_append_right _ List.mem_cons_self
    · exact ih (fun v hv => hf v ((EdgeWork.of_sendRecord s k _).trans hv)) hl

namespace EdgeWork

variable {s t : Hw}

theorem markerRec (h : EdgeWork edgeRegs s t) (m n : Nat) : t.markerRec m n = s.markerRec m n := by
  unfold Hw.markerRec
  rw [h.fget F.BEAT_GROUP_GROUP_ID, h.fget F.BEAT_LEN_LOG2]

theorem marker (h : EdgeWork edgeRegs s t) : t.markerRec t.me t.beatNo = s.markerRec s.me s.beatNo := by
  rw [h.markerRec, h.beatNo, Hw.me, h.fget F.LNK_MODULE_ID]
  rfl

theorem admittedLinks (h : EdgeWork edgeRegs s t) : t.admittedLinks = s.admittedLinks := by
  unfold Hw.admittedLinks
  congr 1
  funext l
  unfold Hw.linkUp
  rw [h.fget F.LNK_LSTATE_STATE l]

end EdgeWork

theorem Hw.traceOut_kept (s : Hw) (r : List Byte) : (s.traceOut r).links = s.links ∧ (s.traceOut r).streams = s.streams := by
  have hwrite : ∀ a, (s.writeRun a r).links = s.links ∧ (s.writeRun a r).streams = s.streams := fun a =>
    ⟨(MemWork.of_writeAddrs s (runCells a r)).links, (MemWork.of_writeAddrs s (runCells a r)).streams⟩
  have honce : ∀ (v : Hw) a, (v.raiseOnce 0x5051 0 a (a >>> 32)).links = v.links ∧ (v.raiseOnce 0x5051 0 a (a >>> 32)).streams = v.streams :=
    fun v a => ⟨(MemWork.of_raiseOnce v _ _ _ _ _).links, (MemWork.of_raiseOnce v _ _ _ _ _).streams⟩
  unfold Hw.traceOut
  simp only
  split
  · simp only [Hw.bump_links, Hw.bump_streams, and_self]
  · split
    · simp only [honce, Hw.bump_links, Hw.bump_streams, and_self]
    · split
      · simp only [Hw.fset_links, Hw.fset_streams, hwrite, and_self]
      · simp only [Hw.fset_links, Hw.fset_streams, hwrite, and_self]

theorem Hw.drainTrace_kept (s : Hw) : s.drainTrace.links = s.links ∧ s.drainTrace.streams = s.streams := by
  have hfold : ∀ (l : List (List Byte)) (v : Hw), (l.foldl Hw.traceOut v).links = v.links ∧ (l.foldl Hw.traceOut v).streams = v.streams := fun l => by
    induction l with
    | nil => exact fun v => ⟨rfl, rfl⟩
    | cons r l ih => exact fun v => ⟨(ih _).1.trans (v.traceOut_kept r).1, (ih _).2.trans (v.traceOut_kept r).2⟩
  exact hfold _ _

/-- R67: the marker of a master waits on every admitted link as its beat begins. -/
theorem Hw.markers_beginBeat {s t : Hw} (ht : t = s.sendMarkers.sendHellos.shadowsDue.drainTrace) (hm : t.flag F.BEAT_STATUS_MASTER = true)
    (hl : t.level = 2) {l : Nat} (hin : l ∈ t.admittedLinks) : t.markerRec t.me t.beatNo ∈ (t.getLink l).records := by
  have hwork : EdgeWork edgeRegs s t := by rw [ht]; exact .of_markersSent s
  rw [hwork.flag F.BEAT_STATUS_MASTER] at hm
  rw [Hw.level, hwork.fget F.ID_SERVICE_LEVEL] at hl
  rw [hwork.admittedLinks] at hin
  rw [hwork.marker]
  have hsent : s.markerRec s.me s.beatNo ∈ (s.sendMarkers.getLink l).records := by
    unfold Hw.sendMarkers
    have hlevel : s.level = 2 := hl
    simp only [hm, hlevel, Bool.true_and, decide_true, if_true]
    exact Hw.mem_records_sent (fun v _ => v.markerRec v.me v.beatNo) _ (fun v hv _ => hv.marker) hin
  have hhello : s.markerRec s.me s.beatNo ∈ (s.sendMarkers.sendHellos.getLink l).records := by
    unfold Hw.sendHellos
    split
    · exact hsent
    · exact Hw.mem_records_foldl (fun v _ => ctlRecord 0x0A 0xFFF v.me 16
        (v.twinState + (if v.flag F.TWIN_STATUS_LIVE then 8 else 0) + (v.beatNo <<< 16))) _ hsent
  have hlinks : t.links = s.sendMarkers.sendHellos.links := by rw [ht]; exact (Hw.drainTrace_kept _).1
  unfold Hw.getLink at hhello ⊢
  rw [hlinks]
  exact hhello

/-! ### Depth shadows -/

theorem Sparse.get_of_all {α : Type} {d : α} {m : Sparse α} {p : α → Prop} (hd : p d) (h : ∀ e ∈ m, p e.2) (n : Nat) : p (Sparse.get d m n) := by
  induction m with
  | nil => exact hd
  | cons e m ih =>
    obtain ⟨k, v⟩ := e
    unfold Sparse.get Sparse.find?
    split
    · exact h (k, v) List.mem_cons_self
    · exact ih (fun e he => h e (List.mem_cons_of_mem _ he))

/-- R235: no shadow field is marked as changed in the beat that begins. -/
theorem Hw.shadowDirty_beginBeat {s t : Hw} (ht : t = s.shadowsDue.drainTrace) (n : Nat) : (t.getStream n).shadowDirty = false := by
  unfold Hw.getStream
  rw [ht, (Hw.drainTrace_kept _).2]
  refine Sparse.get_of_all (p := fun x : StreamSt => x.shadowDirty = false) rfl (fun e he => ?_) n
  obtain ⟨f, _, rfl⟩ := List.mem_map.1 he
  rfl

end Sys2Proof.Machine
end

section
/-!
PROOFS. The edge window (R37 to R39, R50, R53, R67, R68, R235): step 5 advances or switches the plan and gives the number of the next beat,
and what comes after leaves that alone.
-/
namespace Sys2Proof.Machine

theorem exec_edgeWindow (s : State) : exec .edgeWindow s = s.onHw Hw.edgeWindow := rfl

/-! ### The begin of a step -/

/-- From s to t the clock has run and steps of the edge window have passed that concern neither the plan nor the beat. -/
structure StepWork (s t : Hw) : Prop where
  regs : ∀ r ∈ planRegs, ∀ u, t.rd r u = s.rd r u
  still : t.beat.still = s.beat.still
  waiting : s.host.waiting <+: t.host.waiting

namespace StepWork

variable {s t v : Hw}

theorem trans (h : StepWork s t) (h' : StepWork t v) : StepWork s v :=
  ⟨fun r hr u => (h'.regs r hr u).trans (h.regs r hr u), h'.still.trans h.still, h.waiting.trans h'.waiting⟩

theorem of_edgeWork (h : EdgeWork planRegs s t) : StepWork s t := ⟨h.regs, by rw [h.beat], h.waiting⟩

theorem of_clock (s : Hw) (k : Nat) : StepWork s (s.clock k) := by
  obtain ⟨hregs, hstill, hhost⟩ := s.clock_spec k
  exact ⟨fun r hr => hregs r (List.mem_append_left _ hr), hstill, by rw [hhost]⟩

theorem edge (h : StepWork s t) : t.beat.edge.inc = s.beat.edge.inc ∧ t.beat.edge.sw = s.beat.edge.sw ∧
    t.beat.edge.trim = s.beat.edge.trim ∧ t.beat.edge.number = s.beat.edge.number :=
  ⟨congrArg (·.edge.inc) h.still, congrArg (·.edge.sw) h.still, congrArg (·.edge.trim) h.still, congrArg (·.edge.number) h.still⟩

end StepWork

/-- R39: s as step i begins: the clock has come to its offset. -/
def Hw.stepBegun (s : Hw) (i : Nat) : Hw :=
  let s1 := s.clock (s.windowEnd + edgeOffset i - s.beat.cycle).toNat
  let s2 := s1.modBeat (fun b => { b with edge := { b.edge with step := i + 1 } })
  if i ≠ 0 && s2.flag F.DBG_TRACE_CTL_SRC_EDGE then s2.trace (s2.traceRec 5 i 0 0 0 s2.beatNo) else s2

theorem Hw.edgeStep_eq (s : Hw) (i : Nat) : s.edgeStep i = (s.stepBegun i).edgeBody i := rfl

theorem Hw.stepBegun_spec (s : Hw) (i : Nat) : StepWork s (s.stepBegun i) ∧ (s.stepBegun i).host = s.host := by
  obtain ⟨hregs, hstill, hhost⟩ := s.clock_spec (s.windowEnd + edgeOffset i - s.beat.cycle).toNat
  unfold Hw.stepBegun
  generalize s.clock (s.windowEnd + edgeOffset i - s.beat.cycle).toNat = c at hregs hstill hhost ⊢
  extract_lets s1 s2
  have hdone : ∀ v, Counted s2 v → StepWork s v ∧ v.host = s.host := fun v hv => by
    have hhost' : v.host = s.host := hv.host.trans hhost
    exact ⟨⟨fun r hr u => (hv.regs r (List.mem_append_left _ hr) u).trans (hregs r (List.mem_append_left _ hr) u), by rw [hv.beat]; exact hstill,
      by rw [hhost']⟩, hhost'⟩
  split
  · exact hdone _ (.of_trace _ _)
  · exact hdone _ (.refl _)

theorem StepWork.of_edgeStep {i : Nat} (hi : i = 6 ∨ i = 7) (s : Hw) : StepWork s (s.edgeStep i) := by
  rw [Hw.edgeStep_eq]
  refine (s.stepBegun_spec i).1.trans (of_edgeWork ?_)
  rcases hi with rfl | rfl
  · exact EdgeWork.foldl _ (fun v t => (EdgeWork.of_admitRoutines v t).toPlan) _ _
  · exact .of_enables _

/-! ### The plan -/

/-- From s to t the plan's entry in force, its successor and a pending switch have stayed. -/
structure PlanKept (s t : Hw) : Prop where
  regs : ∀ r ∈ [Reg.BEAT_CUR_BASE_LO, .BEAT_CUR_BASE_HI, .BEAT_CUR_LEN, .BEAT_ENTRY, .BEAT_PLAN_NEXT], ∀ u, t.rd r u = s.rd r u
  held : t.flag F.BEAT_STATUS_HELD = s.flag F.BEAT_STATUS_HELD
  cur : t.beat.cur = s.beat.cur
  next : t.beat.next = s.beat.next
  nextBad : t.beat.nextBad = s.beat.nextBad
  pendingGo : t.beat.pendingGo = s.beat.pendingGo
  waiting : s.host.waiting <+: t.host.waiting

namespace PlanKept

variable {s t v : Hw}

theorem refl (s : Hw) : PlanKept s s := ⟨fun _ _ _ => rfl, rfl, rfl, rfl, rfl, rfl, List.prefix_refl _⟩

theorem trans (h : PlanKept s t) (h' : PlanKept t v) : PlanKept s v :=
  ⟨fun r hr u => (h'.regs r hr u).trans (h.regs r hr u), h'.held.trans h.held, h'.cur.trans h.cur, h'.next.trans h.next,
    h'.nextBad.trans h.nextBad, h'.pendingGo.trans h.pendingGo, h.waiting.trans h'.waiting⟩

theorem foldl {α : Type} (f : Hw → α → Hw) (hf : ∀ s a, PlanKept s (f s a)) (l : List α) : ∀ s : Hw, PlanKept s (l.foldl f s) := by
  induction l with
  | nil => exact refl
  | cons a l ih => exact fun s => (hf s a).trans (ih _)

theorem of_step (h : StepWork s t) : PlanKept s t where
  regs := fun r hr => h.regs r (by revert r; decide)
  held := by unfold Hw.flag Hw.fget; rw [h.regs .BEAT_STATUS (by decide)]
  cur := congrArg (·.cur) h.still
  next := congrArg (·.next) h.still
  nextBad := congrArg (·.nextBad) h.still
  pendingGo := congrArg (·.pendingGo) h.still
  waiting := h.waiting

theorem of_edgeWork (h : EdgeWork edgeRegs s t) : PlanKept s t := of_step (.of_edgeWork h.toPlan)

theorem fset (h : PlanKept s t) (f : Fld) (x u : Nat) (hok : f.ok = true := by decide) (ha : f.apart F.BEAT_STATUS_HELD = true := by decide)
    (hf : ∀ r ∈ [Reg.BEAT_CUR_BASE_LO, .BEAT_CUR_BASE_HI, .BEAT_CUR_LEN, .BEAT_ENTRY, .BEAT_PLAN_NEXT], f.reg ≠ r := by decide) :
    PlanKept s (t.fset f x u) :=
  h.trans ⟨fun r hr v => Hw.rd_fset_reg (f := f) (q := r) t x u v (hf r hr), Hw.flag_fset_apart _ f F.BEAT_STATUS_HELD _ _ _ hok ha,
    rfl, rfl, rfl, rfl, List.prefix_refl _⟩

theorem raise (h : PlanKept s t) (code a0 a1 : Nat) (w : Who) : PlanKept s (t.raise code a0 a1 w) :=
  h.trans (of_edgeWork (.of_memWork (.of_raise t code a0 a1 w)))

/-- A change of the beat controller that concerns its group, its routes or its edge window alone. -/
theorem modBeat (h : PlanKept s t) (f : Beat → Beat) (hf : ∀ b, (f b).cur = b.cur ∧ (f b).next = b.next ∧ (f b).nextBad = b.nextBad ∧
    (f b).pendingGo = b.pendingGo) : PlanKept s (t.modBeat f) := by
  obtain ⟨hcur, hnext, hbad, hgo⟩ := hf t.beat
  exact h.trans ⟨fun _ _ _ => rfl, rfl, hcur, hnext, hbad, hgo, List.prefix_refl _⟩

theorem of_installRoutes (s : Hw) : PlanKept s s.installRoutes := by
  unfold Hw.installRoutes
  extract_lets e r s1
  have h1 : PlanKept s s1 := (refl s).modBeat _ (fun _ => ⟨rfl, rfl, rfl, rfl⟩)
  exact h1.trans (foldl _ (fun v i => (of_edgeWork (((EdgeWork.refl v).bump F.BEAT_DEMOTED_COUNT 0 1))).raise _ _ _ _) _ _)

/-- The state of an answer that pairs it with more. -/
theorem fst_mk {α : Type} (b : α) (h : PlanKept s t) : PlanKept s (t, b).1 := h

theorem of_groupEdge (s : Hw) : PlanKept s s.groupEdge.1 := by
  have hjoin : ∀ (v : Hw) (m d : Nat), PlanKept s v → PlanKept s (((v.modBeat (fun b => { b with
      joining := false, rejoining := false, outside := false, missPrimary := 0, missAny := 0, missMaster := 0 })).fset
      F.BEAT_STATUS_GROUPED 1).raise 0x1040 m d beatWho) := fun v m d h => by
    refine PlanKept.raise (PlanKept.fset (PlanKept.modBeat h _ ?_) F.BEAT_STATUS_GROUPED 1 0) _ _ _ _
    exact fun _ => ⟨rfl, rfl, rfl, rfl⟩
  unfold Hw.groupEdge
  extract_lets b miss s1 s2 n join s3
  have h1 : PlanKept s s1 := (refl s).modBeat _ (fun _ => ⟨rfl, rfl, rfl, rfl⟩)
  have h2 : PlanKept s s2 := by
    change PlanKept s (match b.phase with | some e => _ | none => s1)
    cases b.phase with
    | some e => exact h1.fset F.BEAT_TRIM_PHASE _ 0
    | none => exact h1
  split
  · split
    · exact hjoin _ _ _ h2
    · exact h2
  · split
    · split
      · split
        · exact hjoin _ _ _ h2
        · exact h2
      · exact h2
    · split
      · have h3 : PlanKept s s3 := h2.fset F.BEAT_STATUS_HOLDOVER _ 0
        split
        · refine fst_mk _ (PlanKept.modBeat h3 _ ?_)
          exact fun _ => ⟨rfl, rfl, rfl, rfl⟩
        · exact h3
      · exact h2

theorem of_beatOpened (s : Hw) (trim : Int) (n : Nat) : PlanKept s (s.beatOpened trim n) := by
  have hcount : ∀ (v : Hw) (x : Nat), PlanKept v (v.wr64 .BEAT_COUNT_LO .BEAT_COUNT_HI x) := fun v x =>
    ⟨fun r hr u => ((EdgeWork.refl v).wr .BEAT_COUNT_LO _ 0 (by decide) |>.wr .BEAT_COUNT_HI _ 0 (by decide)).regs r hr u,
      by unfold Hw.flag; rw [Hw.fget_wr64 v x 0 0 (by decide) (by decide)], rfl, rfl, rfl, rfl, List.prefix_refl _⟩
  have honce : PlanKept s { s with host := { s.host with once := [] } } := ⟨fun _ _ _ => rfl, rfl, rfl, rfl, rfl, rfl, List.prefix_refl _⟩
  exact ((honce.fset F.BEAT_TRIM_TRIM _ 0).trans (hcount _ _)).modBeat _ (fun _ => ⟨rfl, rfl, rfl, rfl⟩)

end PlanKept

/-! ### The number of the next beat -/

/-- Outside a join the next beat's number is one more. -/
theorem Hw.groupEdge_number {s : Hw} (hj : s.beat.joining = false) (hr : s.beat.rejoining = false) : s.groupEdge.2.2 = s.beatNo + 1 := by
  unfold Hw.groupEdge
  simp only [hj, hr, Bool.false_and, Bool.false_eq_true, if_false]
  split
  · split <;> rfl
  · rfl

/-- From s to t neither the beat number nor a pending join has changed. -/
structure JoinKept (s t : Hw) : Prop where
  number : t.beatNo = s.beatNo
  joining : t.beat.joining = s.beat.joining
  rejoining : t.beat.rejoining = s.beat.rejoining

namespace JoinKept

variable {s t v : Hw}

theorem trans (h : JoinKept s t) (h' : JoinKept t v) : JoinKept s v :=
  ⟨h'.number.trans h.number, h'.joining.trans h.joining, h'.rejoining.trans h.rejoining⟩

theorem of_step (h : StepWork s t) : JoinKept s t :=
  ⟨Hw.beatNo_congr (h.regs _ (by decide) _) (h.regs _ (by decide) _), congrArg (·.joining) h.still, congrArg (·.rejoining) h.still⟩

theorem of_edgeWork (h : EdgeWork edgeRegs s t) : JoinKept s t := of_step (.of_edgeWork h.toPlan)

theorem fset (h : JoinKept s t) (f : Fld) (x u : Nat) (hlo : f.reg ≠ .BEAT_COUNT_LO := by decide) (hhi : f.reg ≠ .BEAT_COUNT_HI := by decide) :
    JoinKept s (t.fset f x u) := h.trans ⟨Hw.rd64_fset t x u 0 hlo hhi, rfl, rfl⟩

theorem modBeat (h : JoinKept s t) (f : Beat → Beat) (hj : ∀ b, (f b).joining = b.joining) (hr : ∀ b, (f b).rejoining = b.rejoining) :
    JoinKept s (t.modBeat f) := h.trans ⟨rfl, hj t.beat, hr t.beat⟩

theorem raise (h : JoinKept s t) (code a0 a1 : Nat) (w : Who) : JoinKept s (t.raise code a0 a1 w) :=
  h.trans (of_edgeWork (.of_memWork (.of_raise t code a0 a1 w)))

theorem endSwitch (h : JoinKept s t) (result : Nat) : JoinKept s (t.endSwitch result) := by
  refine JoinKept.fset (JoinKept.fset (JoinKept.modBeat h _ ?_ ?_) F.BEAT_PLAN_NEXT_GO 0 0) F.BEAT_PLAN_NEXT_RESULT result 0
  · exact fun _ => rfl
  · exact fun _ => rfl

theorem of_advancePlan (s : Hw) (inc : Option Entry) (sw : Bool) : JoinKept s (s.advancePlan inc sw) := by
  have hrefl : JoinKept s s := ⟨rfl, rfl, rfl⟩
  have hbase : ∀ x, JoinKept s (s.wr64 .BEAT_CUR_BASE_LO .BEAT_CUR_BASE_HI x) := fun x => by
    refine ⟨?_, rfl, rfl⟩
    unfold Hw.beatNo Hw.wr64
    rw [Hw.rd64_wr _ _ _ _ (by decide) (by decide), Hw.rd64_wr _ _ _ _ (by decide) (by decide)]
  unfold Hw.advancePlan
  extract_lets e k s1 k'
  split
  · have h1 : JoinKept s s1 := (((hbase _).fset F.BEAT_CUR_LEN_LEN _ 0).fset F.BEAT_ENTRY_INDEX k 0).fset F.BEAT_STATUS_HELD 0 0
    have h2 : JoinKept s (s1.endSwitch 1) := h1.endSwitch 1
    clear_value s1
    refine JoinKept.raise (JoinKept.modBeat h2 _ ?_ ?_) _ _ _ _
    · exact fun _ => rfl
    · exact fun _ => rfl
  · split
    · exact hrefl
    · refine JoinKept.modBeat ((hrefl.fset F.BEAT_ENTRY_INDEX k' 0).fset F.BEAT_STATUS_HELD _ 0) _ ?_ ?_
      · exact fun _ => rfl
      · exact fun _ => rfl

theorem of_installRoutes (s : Hw) : JoinKept s s.installRoutes := by
  unfold Hw.installRoutes
  extract_lets e r s1
  have h1 : JoinKept s s1 := ⟨rfl, rfl, rfl⟩
  refine h1.trans (of_edgeWork (EdgeWork.foldl _ (fun v i => ?_) _ _))
  exact ((EdgeWork.refl v).bump F.BEAT_DEMOTED_COUNT 0 1).raise _ _ _ _

end JoinKept

end Sys2Proof.Machine
end

section
/-!
PROOFS. What an edge window comes to (R37 to R39, R50, R53, R68).
-/
namespace Sys2Proof.Machine

/-! ### The plan advances or switches -/

theorem Hw.fget_modBeat (s : Hw) (g : Beat → Beat) (f : Fld) (u : Nat) : (s.modBeat g).fget f u = s.fget f u := rfl
theorem Hw.flag_modBeat (s : Hw) (g : Beat → Beat) (f : Fld) (u : Nat) : (s.modBeat g).flag f u = s.flag f u := rfl

/-- R53: without a switch the plan's index advances, and the entry taken is in force. -/
theorem Hw.advancePlan_next {s : Hw} (inc : Option Entry) (hlen : s.planLen ≠ 0) (hmax : s.planLen ≤ 4096) :
    (s.advancePlan inc false).beat.cur = inc.getD Entry.empty ∧
      (s.advancePlan inc false).fget F.BEAT_ENTRY_INDEX = (s.fget F.BEAT_ENTRY_INDEX + 1) % s.planLen ∧
      (s.advancePlan inc false).flag F.BEAT_STATUS_HELD = s.beat.nextBad ∧ (s.advancePlan inc false).beat.next = none ∧
      (s.advancePlan inc false).beat.nextBad = false ∧ (s.advancePlan inc false).planBase = s.planBase := by
  have hlt : (s.fget F.BEAT_ENTRY_INDEX + 1) % s.planLen < s.planLen := Nat.mod_lt _ (Nat.pos_of_ne_zero hlen)
  unfold Hw.advancePlan
  simp only [Bool.false_eq_true, if_false, if_neg hlen]
  refine ⟨rfl, ?_, ?_, rfl, rfl, ?_⟩
  · rw [Hw.fget_modBeat, Hw.fflag, Hw.fget_fset_apart _ F.BEAT_STATUS_HELD F.BEAT_ENTRY_INDEX _ _ _ (by decide) (by decide),
      Hw.fget_fset_self _ F.BEAT_ENTRY_INDEX]
    exact Nat.mod_eq_of_lt (by change _ < 4096; omega)
  · rw [Hw.flag_modBeat, Hw.fflag, Hw.flag_fset_self _ F.BEAT_STATUS_HELD]
    cases s.beat.nextBad <;> rfl
  · change (Hw.rd64 (((s.fset F.BEAT_ENTRY_INDEX _).fset F.BEAT_STATUS_HELD _)) .BEAT_CUR_BASE_LO .BEAT_CUR_BASE_HI) % _ / _ * _ = _
    rw [Hw.rd64_fset _ _ _ _ (by decide) (by decide), Hw.rd64_fset _ _ _ _ (by decide) (by decide)]
    rfl

/-- R50: the plan that a switch makes current. -/
def Hw.planSwitched (s : Hw) (inc : Option Entry) : Hw :=
  (((((s.wr64 .BEAT_CUR_BASE_LO .BEAT_CUR_BASE_HI s.nextBase).fset F.BEAT_CUR_LEN_LEN (s.fget F.BEAT_NEXT_LEN_LEN)).fset
    F.BEAT_ENTRY_INDEX (s.fget F.BEAT_NEXT_LEN_START)).fset F.BEAT_STATUS_HELD 0).endSwitch 1).modBeat (fun b => { b with
      cur := inc.getD Entry.empty, curIdx := s.fget F.BEAT_NEXT_LEN_START, next := none, nextBad := false })

theorem Hw.advancePlan_switch (s : Hw) (inc : Option Entry) : s.advancePlan inc true =
    (s.planSwitched inc).raise 0x1020 (s.beatNo + 1) (s.fget F.BEAT_NEXT_LEN_START) beatWho := rfl

theorem Hw.fget_endSwitch (s : Hw) (result : Nat) (f : Fld) (hf : f.reg ≠ .BEAT_PLAN_NEXT) :
    (s.endSwitch result).fget f 0 = s.fget f 0 := by
  unfold Hw.endSwitch
  rw [Hw.fget_fset_reg _ _ _ _ (Ne.symm hf), Hw.fget_fset_reg _ _ _ _ (Ne.symm hf), Hw.fget_modBeat]

theorem Hw.rd64_endSwitch (s : Hw) (result : Nat) {lo hi : Reg} (hlo : Reg.BEAT_PLAN_NEXT ≠ lo) (hhi : Reg.BEAT_PLAN_NEXT ≠ hi) :
    (s.endSwitch result).rd64 lo hi = s.rd64 lo hi := by
  unfold Hw.endSwitch
  rw [Hw.rd64_fset _ _ _ _ hlo hhi, Hw.rd64_fset _ _ _ _ hlo hhi]
  rfl

theorem Hw.rd64_modBeat (s : Hw) (g : Beat → Beat) (lo hi : Reg) : (s.modBeat g).rd64 lo hi = s.rd64 lo hi := rfl

theorem Hw.planBase_planSwitched (s : Hw) (inc : Option Entry) : (s.planSwitched inc).planBase = s.nextBase := by
  have hbase : (s.planSwitched inc).rd64 .BEAT_CUR_BASE_LO .BEAT_CUR_BASE_HI = s.nextBase % 2 ^ 64 := by
    unfold Hw.planSwitched
    rw [Hw.rd64_modBeat, Hw.rd64_endSwitch _ _ (by decide) (by decide), Hw.rd64_fset _ _ _ _ (by decide) (by decide),
      Hw.rd64_fset _ _ _ _ (by decide) (by decide), Hw.rd64_fset _ _ _ _ (by decide) (by decide)]
    exact Hw.rd64_wr64 _ (lo := .BEAT_CUR_BASE_LO) (hi := .BEAT_CUR_BASE_HI) _ _ (by decide)
  unfold Hw.planBase
  rw [hbase]
  unfold Hw.nextBase
  generalize s.rd64 .BEAT_NEXT_BASE_LO .BEAT_NEXT_BASE_HI = a
  simp only [Nat.one_shiftLeft]
  omega

theorem Hw.planLen_planSwitched (s : Hw) (inc : Option Entry) : (s.planSwitched inc).planLen = s.fget F.BEAT_NEXT_LEN_LEN := by
  unfold Hw.planLen Hw.planSwitched
  rw [Hw.fget_modBeat, Hw.fget_endSwitch _ _ _ (by decide),
    Hw.fget_fset_apart _ F.BEAT_STATUS_HELD F.BEAT_CUR_LEN_LEN _ _ _ (by decide) (by decide),
    Hw.fget_fset_apart _ F.BEAT_ENTRY_INDEX F.BEAT_CUR_LEN_LEN _ _ _ (by decide) (by decide), Hw.fget_fset_self _ F.BEAT_CUR_LEN_LEN]
  exact Nat.mod_eq_of_lt (s.fget_lt F.BEAT_NEXT_LEN_LEN 0)

theorem Hw.index_planSwitched (s : Hw) (inc : Option Entry) : (s.planSwitched inc).fget F.BEAT_ENTRY_INDEX = s.fget F.BEAT_NEXT_LEN_START := by
  unfold Hw.planSwitched
  rw [Hw.fget_modBeat, Hw.fget_endSwitch _ _ _ (by decide),
    Hw.fget_fset_apart _ F.BEAT_STATUS_HELD F.BEAT_ENTRY_INDEX _ _ _ (by decide) (by decide), Hw.fget_fset_self _ F.BEAT_ENTRY_INDEX]
  exact Nat.mod_eq_of_lt (s.fget_lt F.BEAT_NEXT_LEN_START 0)

theorem Hw.result_planSwitched (s : Hw) (inc : Option Entry) : (s.planSwitched inc).fget F.BEAT_PLAN_NEXT_RESULT = 1 := by
  unfold Hw.planSwitched
  rw [Hw.fget_modBeat, Hw.endSwitch_result _ (by decide)]

theorem Hw.go_planSwitched (s : Hw) (inc : Option Entry) : (s.planSwitched inc).flag F.BEAT_PLAN_NEXT_GO = false := by
  unfold Hw.planSwitched
  rw [Hw.flag_modBeat, Hw.endSwitch_go]

theorem Hw.host_planSwitched (s : Hw) (inc : Option Entry) : (s.planSwitched inc).host = s.host := by
  simp only [Hw.planSwitched, Hw.modBeat, Hw.endSwitch_host, Hw.fset_host, Hw.wr64_host]

theorem Hw.planSwitched_spec (s : Hw) (inc : Option Entry) : (s.planSwitched inc).beat.cur = inc.getD Entry.empty ∧
    (s.planSwitched inc).planBase = s.nextBase ∧ (s.planSwitched inc).planLen = s.fget F.BEAT_NEXT_LEN_LEN ∧
    (s.planSwitched inc).fget F.BEAT_ENTRY_INDEX = s.fget F.BEAT_NEXT_LEN_START ∧ (s.planSwitched inc).fget F.BEAT_PLAN_NEXT_RESULT = 1 ∧
    (s.planSwitched inc).flag F.BEAT_PLAN_NEXT_GO = false ∧ (s.planSwitched inc).beat.pendingGo = none ∧
    (s.planSwitched inc).host = s.host :=
  ⟨rfl, s.planBase_planSwitched inc, s.planLen_planSwitched inc, s.index_planSwitched inc, s.result_planSwitched inc, s.go_planSwitched inc,
    rfl, s.host_planSwitched inc⟩

namespace PlanKept

variable {s t : Hw}

theorem fget (h : PlanKept s t) (f : Fld)
    (hf : f.reg ∈ [Reg.BEAT_CUR_BASE_LO, .BEAT_CUR_BASE_HI, .BEAT_CUR_LEN, .BEAT_ENTRY, .BEAT_PLAN_NEXT] := by decide) : t.fget f = s.fget f := by
  unfold Hw.fget; rw [h.regs f.reg hf]

theorem flag (h : PlanKept s t) (f : Fld)
    (hf : f.reg ∈ [Reg.BEAT_CUR_BASE_LO, .BEAT_CUR_BASE_HI, .BEAT_CUR_LEN, .BEAT_ENTRY, .BEAT_PLAN_NEXT] := by decide) : t.flag f = s.flag f := by
  unfold Hw.flag; rw [h.fget f hf]

theorem planBase (h : PlanKept s t) : t.planBase = s.planBase := by
  unfold Hw.planBase Hw.rd64; rw [h.regs .BEAT_CUR_BASE_LO (by decide), h.regs .BEAT_CUR_BASE_HI (by decide)]

end PlanKept

/-! ### The window as a whole -/

/-- R39: s at the end of an edge window of which the steps from i on were to come, and the next beat begun. -/
def Hw.beatAfter (s : Hw) : Hw :=
  let s2 := s.clock (s.windowEnd + 1024 - s.beat.cycle).toNat
  s2.beginBeat s2.beat.edge.inc s2.beat.edge.trim s2.beat.edge.number

/-- The begin of a beat, from the state that the steps of the edge window left. -/
theorem Hw.beatAfter_spec (s : Hw) : PlanKept s s.beatAfter ∧ s.beatAfter.beatNo = s.beat.edge.number % 2 ^ 64 ∧
    s.beatAfter.trim = max (-8) (min 8 s.beat.edge.trim) := by
  have hclock := StepWork.of_clock s (s.windowEnd + 1024 - s.beat.cycle).toNat
  unfold Hw.beatAfter
  generalize s.clock (s.windowEnd + 1024 - s.beat.cycle).toNat = v at hclock
  obtain ⟨_, _, htrim, hnumber⟩ := hclock.edge
  have hbegin := EdgeWork.of_beginBeat v v.beat.edge.inc v.beat.edge.trim v.beat.edge.number
  refine ⟨((PlanKept.of_step hclock).trans (.of_beatOpened v _ _)).trans (.of_edgeWork hbegin), ?_, ?_⟩
  · rw [hbegin.beatNo, Hw.beatNo_beatOpened, hnumber]
  · rw [Hw.trim, hbegin.fget F.BEAT_TRIM_TRIM, ← htrim]
    exact Hw.trim_beatOpened v _ _

/-- What holds of a beat's begin whatever went before. -/
theorem Hw.beginBeat_fresh (s : Hw) (inc : Option Entry) (trim : Int) (n : Nat) {t : Hw} (ht : t = s.beginBeat inc trim n) :
    t.beat.cycle = 0 ∧ t.beat.edge = EdgeRun.none ∧ -8 ≤ t.trim ∧ t.trim ≤ 8 ∧ (∀ n, (t.getStream n).shadowDirty = false) ∧
      (t.flag F.BEAT_STATUS_MASTER = true → t.level = 2 → ∀ l ∈ t.admittedLinks, t.markerRec t.me t.beatNo ∈ (t.getLink l).records) := by
  have hbegin : EdgeWork edgeRegs (s.beatOpened trim n) t := by rw [ht]; exact .of_beginBeat s inc trim n
  have htrim : t.trim = max (-8) (min 8 trim) := by
    rw [Hw.trim, hbegin.fget F.BEAT_TRIM_TRIM]
    exact Hw.trim_beatOpened s trim n
  rw [Hw.beginBeat_eq] at ht
  refine ⟨by rw [hbegin.beat]; rfl, by rw [hbegin.beat]; rfl, by rw [htrim]; omega, by rw [htrim]; omega, fun n => ?_, fun hm hl l hin => ?_⟩
  · exact Hw.shadowDirty_beginBeat ht n
  · exact Hw.markers_beginBeat ht hm hl hin

/-- R39: an edge window is its steps that have not begun, and the begin of the next beat. -/
theorem Hw.edgeWindow_eq {s : Hw} (hrun : s.running = true) :
    s.edgeWindow = (((List.range 8).filter (fun i => decide (s.beat.edge.step ≤ i))).foldl Hw.edgeStep s).beatAfter := by
  unfold Hw.edgeWindow Hw.beatAfter
  simp only [hrun, Bool.not_true, Bool.false_eq_true, if_false]

/-- The answer of a beat group to step 5 is kept for the begin of the next beat. -/
def Hw.keepAnswer (g : Hw × Int × Nat) : Hw := g.1.modBeat (fun b => { b with edge := { b.edge with trim := g.2.1, number := g.2.2 } })

theorem Hw.edgeBody_five (v : Hw) : v.edgeBody 5 = Hw.keepAnswer
    (((v.advancePlan v.beat.edge.inc v.beat.edge.sw).installRoutes).bindAll v.beat.edge.inc).groupEdge := rfl

theorem Hw.keepAnswer_number (g : Hw × Int × Nat) : (Hw.keepAnswer g).beat.edge.number = g.2.2 := rfl

theorem PlanKept.of_keepAnswer (g : Hw × Int × Nat) : PlanKept g.1 (Hw.keepAnswer g) := by
  refine PlanKept.modBeat (.refl g.1) _ ?_
  exact fun _ => ⟨rfl, rfl, rfl, rfl⟩

/-- Step 5, outside a join: the plan has advanced from a state that s led to with the clock, and the next beat's number is known. -/
theorem Hw.edgeStep_five {s : Hw} (hj : s.beat.joining = false) (hr : s.beat.rejoining = false) :
    PlanKept ((s.stepBegun 5).advancePlan s.beat.edge.inc s.beat.edge.sw) (s.edgeStep 5) ∧ (s.edgeStep 5).beat.edge.number = s.beatNo + 1 := by
  obtain ⟨hbegun, _⟩ := s.stepBegun_spec 5
  obtain ⟨hinc, hsw, _, _⟩ := hbegun.edge
  rw [Hw.edgeStep_eq]
  generalize s.stepBegun 5 = v at hbegun hinc hsw
  have hjoin : JoinKept s (((v.advancePlan s.beat.edge.inc s.beat.edge.sw).installRoutes).bindAll s.beat.edge.inc) :=
    (((JoinKept.of_step hbegun).trans (.of_advancePlan v _ _)).trans (.of_installRoutes _)).trans (.of_edgeWork (.of_bindAll _ _))
  have hplan : PlanKept (v.advancePlan s.beat.edge.inc s.beat.edge.sw)
      (((v.advancePlan s.beat.edge.inc s.beat.edge.sw).installRoutes).bindAll s.beat.edge.inc) :=
    (PlanKept.of_installRoutes _).trans (.of_edgeWork (.of_bindAll _ _))
  have hbody := v.edgeBody_five
  rw [hinc, hsw] at hbody
  rw [hbody]
  generalize ((v.advancePlan s.beat.edge.inc s.beat.edge.sw).installRoutes).bindAll s.beat.edge.inc = g at hjoin hplan
  constructor
  · exact (hplan.trans (.of_groupEdge g)).trans (.of_keepAnswer _)
  · rw [Hw.keepAnswer_number, Hw.groupEdge_number (hjoin.joining.trans hj) (hjoin.rejoining.trans hr), hjoin.number]

/-- Settles O42: the steps that the clock has left are followed from step 5 on (`PlanKept`), and the begin of the beat from any state. -/
theorem edgeWindow : Obligations.EdgeWindow := by
  unfold Obligations.EdgeWindow
  intro s e he
  refine ⟨fun hrun => ?_, fun hrun => ⟨?_, fun hstep hj hr => ?_, fun hstep => ?_⟩⟩
  · refine .of_onHw _ (exec_edgeWindow s) ?_
    unfold Hw.edgeWindow
    simp only [hrun, Bool.not_false, if_true]
  · refine .of_onHw _ (exec_edgeWindow s) ?_
    rw [Hw.edgeWindow_eq hrun]
    exact Hw.beginBeat_fresh _ _ _ _ rfl
  · refine .of_onHw _ (exec_edgeWindow s) ?_
    have hwindow : s.hw.edgeWindow = (((s.hw.edgeStep 5).edgeStep 6).edgeStep 7).beatAfter := by
      have hsteps : (List.range 8).filter (fun i => decide (5 ≤ i)) = [5, 6, 7] := by decide
      rw [Hw.edgeWindow_eq hrun, ← he, hstep, hsteps, List.foldl_cons, List.foldl_cons, List.foldl_cons, List.foldl_nil]
    obtain ⟨hfive, hnumber⟩ := Hw.edgeStep_five hj hr
    have hlate := (StepWork.of_edgeStep (.inl rfl) (s.hw.edgeStep 5)).trans (StepWork.of_edgeStep (.inr rfl) _)
    obtain ⟨hafter, hbeat, _⟩ := Hw.beatAfter_spec (((s.hw.edgeStep 5).edgeStep 6).edgeStep 7)
    have hkept := (hfive.trans (PlanKept.of_step hlate)).trans hafter
    obtain ⟨_, _, _, hlast⟩ := hlate.edge
    obtain ⟨hbegun, hhost⟩ := s.hw.stepBegun_spec 5
    rw [hwindow]
    rw [hlast, hnumber] at hbeat
    rw [← he] at hkept
    generalize (((s.hw.edgeStep 5).edgeStep 6).edgeStep 7).beatAfter = t at hkept hbeat
    generalize s.hw.stepBegun 5 = v at hbegun hhost hkept
    have hfget : ∀ f : Fld, f.reg ∈ planRegs → v.fget f = s.hw.fget f := fun f hf => by unfold Hw.fget; rw [hbegun.regs f.reg hf]
    have hlen : v.planLen = s.hw.planLen := hfget F.BEAT_CUR_LEN_LEN (by decide)
    refine ⟨hbeat, fun hsw h0 h4096 => ?_, fun hsw => ?_⟩
    · rw [hsw] at hkept
      obtain ⟨hcur, hidx, hheld, hnext, hbad, hbase⟩ := Hw.advancePlan_next (s := v) e.inc (by rw [hlen]; exact h0) (by rw [hlen]; exact h4096)
      have hvbase : v.planBase = s.hw.planBase := by
        unfold Hw.planBase Hw.rd64
        rw [hbegun.regs .BEAT_CUR_BASE_LO (by decide), hbegun.regs .BEAT_CUR_BASE_HI (by decide)]
      exact ⟨hkept.cur.trans hcur, by rw [hkept.fget F.BEAT_ENTRY_INDEX, hidx, hlen, hfget F.BEAT_ENTRY_INDEX (by decide)],
        hkept.held.trans (hheld.trans (congrArg (·.nextBad) hbegun.still)), hkept.next.trans hnext, hkept.nextBad.trans hbad,
        hkept.planBase.trans (hbase.trans hvbase)⟩
    · rw [hsw, Hw.advancePlan_switch] at hkept
      obtain ⟨hcur, hbase, hl, hidx, hresult, hgo, hpending, hhost'⟩ := v.planSwitched_spec e.inc
      have hraised := PlanKept.of_edgeWork (.of_memWork (.of_raise (v.planSwitched e.inc) 0x1020 (v.beatNo + 1) (v.fget F.BEAT_NEXT_LEN_START) beatWho))
      have hall := hraised.trans hkept
      have hvnext : v.nextBase = s.hw.nextBase := by
        unfold Hw.nextBase Hw.rd64
        rw [hbegun.regs .BEAT_NEXT_BASE_LO (by decide), hbegun.regs .BEAT_NEXT_BASE_HI (by decide)]
      have hstart := hfget F.BEAT_NEXT_LEN_START (by decide)
      have hno : v.beatNo = s.hw.beatNo := (JoinKept.of_step hbegun).number
      refine ⟨hall.cur.trans hcur, hall.planBase.trans (hbase.trans hvnext),
        (hall.fget F.BEAT_CUR_LEN_LEN).trans (hl.trans (hfget F.BEAT_NEXT_LEN_LEN (by decide))),
        (hall.fget F.BEAT_ENTRY_INDEX).trans (hidx.trans hstart), (hall.fget F.BEAT_PLAN_NEXT_RESULT).trans hresult,
        (hall.flag F.BEAT_PLAN_NEXT_GO).trans hgo, hall.pendingGo.trans hpending, fun hroom => ?_⟩
      have hwaiting : (v.planSwitched e.inc).host.waiting = s.hw.host.waiting := by rw [hhost', hhost]
      obtain ⟨ev, hcode, ha0, ha1, hqueue⟩ := Raises.of_raise (s := s.hw) (by unfold EventRoom; omega) hwaiting 0x1020 (v.beatNo + 1)
        (v.fget F.BEAT_NEXT_LEN_START) beatWho
      refine ⟨ev, hkept.waiting.subset ?_, hcode, by rw [ha0, hno], by rw [ha1, hstart]⟩
      rw [hqueue]
      exact List.mem_append_right _ List.mem_cons_self
  · refine .of_onHw _ (exec_edgeWindow s) ?_
    have hwindow : s.hw.edgeWindow = s.hw.beatAfter := by
      rw [Hw.edgeWindow_eq hrun, ← he, hstep]
      rfl
    obtain ⟨_, hbeat, htrim⟩ := s.hw.beatAfter_spec
    rw [hwindow, he]
    exact ⟨hbeat, htrim⟩

end Sys2Proof.Machine
end

section
/-!
PROOFS. What a unit's run leaves alone (R301, R304, R340): where no word of memory has an error other than dross, the controllers have
nothing to count, and the channels stay.
-/
namespace Sys2Proof.Machine

/-! ### Memory without bit errors -/

/-- Every word of a memory is clean or dross. -/
def Mem.NoBitErrors (m : Mem) : Prop := ∀ w, m.syndrome w = .clean ∨ m.syndrome w = .dross

namespace Mem.NoBitErrors

theorem of_clean {m : Mem} (h : m.syn = []) : m.NoBitErrors := fun w => by
  unfold Mem.syndrome
  rw [h]
  exact .inl rfl

variable {m : Mem}

theorem of_syn {m' : Mem} (h : m.NoBitErrors) (hs : m'.syn = m.syn) : m'.NoBitErrors := fun w => by
  unfold Mem.syndrome
  rw [hs]
  exact h w

theorem putSyn (h : m.NoBitErrors) (w : Nat) {e : Nat} (he : readSyndrome (BitVec.ofNat 8 e).toNat ∈ [Syndrome.clean, .dross]) :
    (m.putSyn w e).NoBitErrors := fun v => by
  unfold Mem.syndrome
  rw [Mem.syn_putSyn]
  split
  · simpa using he
  · exact h v

theorem cleared (h : m.NoBitErrors) (w : Nat) : (m.putSyn w 0).NoBitErrors := h.putSyn w (by decide)

theorem putAll (h : m.NoBitErrors) (at_ : Nat → Nat) {e : Nat} (he : readSyndrome (BitVec.ofNat 8 e).toNat ∈ [Syndrome.clean, .dross])
    (l : List Nat) : (l.foldl (fun m i => m.putSyn (at_ i) e) m).NoBitErrors := by
  induction l generalizing m with
  | nil => exact h
  | cons i l ih => exact ih (h.putSyn _ he)

theorem markDross (h : m.NoBitErrors) (k : Nat) : (m.markDross k).NoBitErrors := by
  unfold Mem.markDross
  generalize List.range 16 = l
  exact h.putAll (fun i => k / 128 * 16 + i) (by decide) l

theorem markAll (h : m.NoBitErrors) (l : List Nat) : (l.foldl Mem.markDross m).NoBitErrors := by
  induction l generalizing m with
  | nil => exact h
  | cons k l ih =>
    rw [List.foldl_cons]
    exact ih (h.markDross k)

/-- R308: a write meets no error. -/
theorem writeWord (h : m.NoBitErrors) (w : Nat) (bs : List (Nat × Byte)) :
    (m.writeWord w bs).1.NoBitErrors ∧ (m.writeWord w bs).2 = (false, false) := by
  have hput : (bs.foldl (fun m b => m.putByte (w * 8 + b.1) b.2) m).NoBitErrors :=
    h.of_syn (Mem.syn_foldl_putByte (fun b : Nat × Byte => w * 8 + b.1) (fun b => b.2) bs m)
  unfold Mem.writeWord
  simp only
  split
  · exact ⟨hput.cleared w, rfl⟩
  · rcases h w with hw | hw
    · rw [hw]; exact ⟨hput, rfl⟩
    · rw [hw]; exact ⟨hput, rfl⟩

theorem not_single (h : m.NoBitErrors) (w : Nat) : (m.syndrome w).single = false := by
  rcases h w with hw | hw <;> rw [hw] <;> rfl

theorem not_uncorrectable (h : m.NoBitErrors) (w : Nat) : (m.syndrome w == .uncorrectable) = false := by
  rcases h w with hw | hw <;> rw [hw] <;> rfl

end Mem.NoBitErrors

/-- From s, whose memory has no bit errors, to t the channels have stayed, and memory still has none. -/
def Quiet (s t : Hw) : Prop := s.mem.NoBitErrors → t.mem.NoBitErrors ∧ t.chans = s.chans

namespace Quiet

theorem refl (s : Hw) : Quiet s s := fun h => ⟨h, rfl⟩

theorem trans {s t v : Hw} (h : Quiet s t) (h' : Quiet t v) : Quiet s v := fun hs => by
  obtain ⟨ht, hc⟩ := h hs
  obtain ⟨hv, hc'⟩ := h' ht
  exact ⟨hv, hc'.trans hc⟩

theorem foldl {α : Type} (f : Hw → α → Hw) (hf : ∀ s a, Quiet s (f s a)) (l : List α) : ∀ s : Hw, Quiet s (l.foldl f s) := by
  induction l with
  | nil => exact refl
  | cons a l ih => exact fun s => (hf s a).trans (ih _)

theorem foldl_fst {α β : Type} (f : Hw × β → α → Hw × β) (hf : ∀ r a, Quiet r.1 (f r a).1) (l : List α) :
    ∀ r : Hw × β, Quiet r.1 (l.foldl f r).1 := by
  induction l with
  | nil => exact fun r => refl r.1
  | cons a l ih => exact fun r => (hf r a).trans (ih _)

theorem of_eq {s t : Hw} (hm : t.mem = s.mem) (hc : t.chans = s.chans) : Quiet s t := fun h => ⟨by rw [hm]; exact h, hc⟩

theorem of_beside {s t : Hw} (h : Beside s t) : Quiet s t := of_eq h.mem h.chans

theorem of_syn (s : Hw) {m : Mem} (h : s.mem.NoBitErrors → m.NoBitErrors) : Quiet s { s with mem := m } := fun hs => ⟨h hs, rfl⟩

theorem of_bump (s : Hw) (f : Fld) (u n : Nat) : Quiet s (s.bump f u n) := of_eq (Hw.bump_mem _ _ _ _) (Hw.bump_chans _ _ _ _)

theorem bump {s t : Hw} (h : Quiet s t) (f : Fld) (u n : Nat) : Quiet s (t.bump f u n) := h.trans (of_bump _ _ _ _)

theorem of_raiseOnce (s : Hw) (code key a0 a1 : Nat) (w : Who) : Quiet s (s.raiseOnce code key a0 a1 w) := .of_beside (.of_raiseOnce s _ _ _ _ _)

theorem of_offAccess (s : Hw) (c page : Nat) : Quiet s (s.offAccess c page) := (of_bump s _ _ _).trans (of_raiseOnce _ _ _ _ _ _)

theorem of_stageDrop (s : Hw) (a : Nat) : Quiet s (s.stageDrop a) := (of_bump s _ _ _).trans (of_raiseOnce _ _ _ _ _ _)

theorem of_noteMirror (s : Hw) (l : List Nat) : Quiet s (s.noteMirror l) := by
  unfold Hw.noteMirror
  split
  · exact of_eq rfl rfl
  · exact refl s

end Quiet

/-! ### Accounting -/

/-- Words with syndromes that no controller counts. -/
def QuietWords (es : List (Nat × Syndrome)) : Prop := ∀ e ∈ es, e.2.single = false ∧ (e.2 == Syndrome.uncorrectable) = false

theorem Mem.NoBitErrors.withSyn {s : Hw} (h : s.mem.NoBitErrors) (ws : List Nat) : QuietWords (s.withSyn ws) := fun e he => by
  obtain ⟨w, _, rfl⟩ := List.mem_map.1 he
  exact ⟨h.not_single w, h.not_uncorrectable w⟩

theorem QuietWords.uncorrectable {es : List (Nat × Syndrome)} (h : QuietWords es) : es.filter (fun e => e.2 == .uncorrectable) = [] :=
  List.filter_eq_nil_iff.2 fun e he => by simp [(h e he).2]

theorem QuietWords.single {es : List (Nat × Syndrome)} (h : QuietWords es) : es.filter (·.2.single) = [] :=
  List.filter_eq_nil_iff.2 fun e he => by simp [(h e he).1]

/-- R340: a controller that reads words without bit errors has nothing to count. -/
theorem Hw.accountWords_quiet (s : Hw) (a : Nat) {es : List (Nat × Syndrome)} (event : Nat) (h : QuietWords es) :
    s.accountWords a es event = s := by
  unfold Hw.accountWords
  simp only [h.single, h.uncorrectable, List.foldl_nil, List.length_nil, List.isEmpty_nil, if_true]

namespace Quiet

theorem of_takeForwarded (s : Hw) (w : Nat) (counts : Bool) : Quiet s (s.takeForwarded w counts) := by
  unfold Hw.takeForwarded
  split
  · simp only
    split
    · exact (of_eq rfl rfl : Quiet s { s with mu := { s.mu with forwarded := s.mu.forwarded.filter (fun x => x != w) } }).bump _ _ _
    · exact of_eq rfl rfl
  · exact refl s

theorem of_accountWords (s : Hw) (a : Nat) (ws : List Nat) (event : Nat) : Quiet s (s.accountWords a (s.withSyn ws) event) := fun h => by
  rw [s.accountWords_quiet a event (h.withSyn ws)]
  exact ⟨h, rfl⟩

theorem of_mergeAtoms (s : Hw) (gs : List (Nat × List (Nat × Byte))) : Quiet s (s.mergeAtoms gs).1 :=
  foldl_fst _ (fun r a => (of_accountWords r.1 a _ _).bump F.FLT_UE_COUNT 0 _) _ (s, [])

/-- R308: the words of a write, one after another. -/
theorem of_writeWord (s : Hw) (w : Nat) (bs : List (Nat × Byte)) (counts : Bool) :
    Quiet s ((({ s with mem := (s.mem.writeWord w bs).1 } : Hw).countMerge w (s.mem.writeWord w bs).2.1 (s.mem.writeWord w bs).2.2).takeForwarded w
      counts) := fun h => by
  obtain ⟨hmem, hmet⟩ := h.writeWord w bs
  rw [hmet]
  exact ((of_syn s fun _ => hmem).trans (of_takeForwarded _ w counts)) h

theorem of_marks (s : Hw) (l : List Nat) : Quiet s { s with mem := l.foldl Mem.markDross s.mem } := of_syn s fun h => h.markAll l

theorem of_writeKeys (s : Hw) (c : Sparse Byte) : Quiet s (s.writeKeys c) := by
  unfold Hw.writeKeys
  refine ((of_mergeAtoms s _).trans (foldl _ (fun s g => ?_) _ _)).trans (of_marks _ _)
  exact of_writeWord s g.1 g.2 _

theorem of_writeStep (r : Hw × Sparse Byte) (e : Nat × Byte) : Quiet r.1 (Hw.writeStep r e).1 := by
  unfold Hw.writeStep
  split
  · split
    · exact of_raiseOnce _ _ _ _ _ _
    · exact refl _
  · exact refl _
  · exact refl _
  · exact of_raiseOnce _ _ _ _ _ _

theorem of_writeAddrs (s : Hw) (c : Sparse Byte) : Quiet s (s.writeAddrs c) := by
  have hdrop : ∀ hit : Option Nat, Quiet s (match hit with | some a => s.stageDrop a | none => s) := fun hit => by
    cases hit with
    | none => exact refl s
    | some a => exact of_stageDrop s a
  exact ((((hdrop _).trans (foldl_fst Hw.writeStep of_writeStep _ (_, []))).trans (foldl (fun s (e : Nat × Nat) => s.offAccess e.1 e.2)
    (fun s e => of_offAccess s e.1 e.2) _ _)).trans (of_writeKeys _ _)).trans (of_noteMirror _ _)

theorem of_invertAtom (s : Hw) (a : Nat) : Quiet s (s.invertAtom a) := by
  unfold Hw.invertAtom
  split
  · split
    · exact of_stageDrop s _
    · split
      · exact of_raiseOnce _ _ _ _ _ _
      · exact (of_syn s fun h => h.markDross _).trans (of_noteMirror _ _)
  · exact of_syn s fun h => h.markDross _
  · exact refl s

/-- R301: a consumer that takes in words without bit errors makes no dross and counts nothing. -/
theorem of_takeAtom (s : Hw) (k : Nat) (ws : List Nat) : Quiet s (s.takeAtom k ws) := fun h => by
  have hue : ws.filter (fun w => s.mem.syndrome w == .uncorrectable) = [] :=
    List.filter_eq_nil_iff.2 fun w _ => by rw [h.not_uncorrectable]; exact Bool.false_ne_true
  have hsingle : ws.filter s.mem.singleBit = [] :=
    List.filter_eq_nil_iff.2 fun w _ => by rw [Mem.singleBit, h.not_single]; exact Bool.false_ne_true
  unfold Hw.takeAtom
  simp only [hue, hsingle, List.length_nil, List.foldl_nil, if_true]
  split
  · exact ⟨h, rfl⟩
  · have hread : Quiet s (if s.mu.served.contains k then { s with mu := { s.mu with served := s.mu.served.filter (fun x => x != k) } }
        else s.accountWords k (s.withSyn (s.atomErrors k)) 0x5011) := by
      split
      · exact of_eq rfl rfl
      · exact of_accountWords s _ _ _
    exact ((hread.bump F.FLT_UE_COUNT 0 0).trans (foldl _ (fun s w => of_takeForwarded s w true) _ _)) h

theorem of_consumeBy (s : Hw) (spans : List Span) : Quiet s (s.consumeBy spans).1 :=
  (foldl (fun s k => s.takeAtom k _) (fun s k => of_takeAtom s k _) _ s).trans (foldl _ (fun s _ => of_offAccess s _ _) _ _)

end Quiet

end Sys2Proof.Machine
end

section
/-!
PROOFS. What the runs of the Shuttle's commands and of MOVE leave alone (R152 to R167, R240, R304).
-/
namespace Sys2Proof.Machine

/-- From s to t a unit has worked: the tiles, the regions and the fields of the streams have stayed, and of the channels nothing has changed
that bit errors would have. -/
structure UnitWork (s t : Hw) : Prop where
  tiles : t.tiles = s.tiles
  regions : t.regions = s.regions
  flds : ∀ f ∈ streamFlds, ∀ u, t.fget f u = s.fget f u
  quiet : Quiet s t

namespace UnitWork

theorem refl (s : Hw) : UnitWork s s := ⟨rfl, rfl, fun _ _ _ => rfl, .refl s⟩

theorem trans {s t v : Hw} (h : UnitWork s t) (h' : UnitWork t v) : UnitWork s v :=
  ⟨h'.tiles.trans h.tiles, h'.regions.trans h.regions, fun f hf u => (h'.flds f hf u).trans (h.flds f hf u), h.quiet.trans h'.quiet⟩

theorem foldl {α : Type} (f : Hw → α → Hw) (hf : ∀ s a, UnitWork s (f s a)) (l : List α) : ∀ s : Hw, UnitWork s (l.foldl f s) := by
  induction l with
  | nil => exact refl
  | cons a l ih => exact fun s => (hf s a).trans (ih _)

theorem foldl_fst {α β : Type} (f : Hw × β → α → Hw × β) (hf : ∀ r a, UnitWork r.1 (f r a).1) (l : List α) :
    ∀ r : Hw × β, UnitWork r.1 (l.foldl f r).1 := by
  induction l with
  | nil => exact fun r => refl r.1
  | cons a l ih => exact fun r => (hf r a).trans (ih _)

/-- The state of an answer that pairs it with more; stated so that checking it compares states, never the answers. -/
theorem fst_mk {α : Type} {s t : Hw} (b : α) (h : UnitWork s t) : UnitWork s (t, b).1 := h

theorem of_beside {s t : Hw} (h : Beside s t) : UnitWork s t := ⟨h.tiles, h.regions, h.flds, .of_beside h⟩

/-- What accesses of memory do is a unit's work as far as it is quiet. -/
theorem of_memWork {s t : Hw} (h : MemWork s t) (hq : Quiet s t) : UnitWork s t :=
  ⟨h.tiles, congrArg (·.regions) h.rest, fun f hf u => h.fget f u (by revert f; decide), hq⟩

/-! ### Memory -/

theorem of_writeAddrs (s : Hw) (c : Sparse Byte) : UnitWork s (s.writeAddrs c) := of_memWork (.of_writeAddrs s c) (.of_writeAddrs s c)

theorem of_invertAtom (s : Hw) (a : Nat) : UnitWork s (s.invertAtom a) := of_memWork (.of_invertAtom s a) (.of_invertAtom s a)

theorem of_consumeBy (s : Hw) (spans : List Span) : UnitWork s (s.consumeBy spans).1 := of_memWork (.of_consumeBy s spans) (.of_consumeBy s spans)

theorem of_free (s : Hw) (n : Nat) : UnitWork s { s with free := n } := of_beside (.of_eq rfl rfl rfl rfl rfl rfl)

theorem of_bump (s : Hw) (f : Fld) (u n : Nat) (h : ∀ g ∈ streamFlds, f.reg ≠ g.reg := by decide) : UnitWork s (s.bump f u n) :=
  of_beside (.of_bump s f u n h)

theorem of_raise (s : Hw) (code a0 a1 : Nat) (w : Who) : UnitWork s (s.raise code a0 a1 w) := of_beside (.of_raise s code a0 a1 w)

variable {s t : Hw}

theorem bump (h : UnitWork s t) (f : Fld) (u n : Nat) (hf : ∀ g ∈ streamFlds, f.reg ≠ g.reg := by decide) : UnitWork s (t.bump f u n) :=
  h.trans (of_bump t f u n hf)

theorem raise (h : UnitWork s t) (code a0 a1 : Nat) (w : Who) : UnitWork s (t.raise code a0 a1 w) := h.trans (of_raise t code a0 a1 w)

theorem of_passDross (s : Hw) (addrs : List Nat) : UnitWork s (s.passDross addrs) :=
  (foldl _ of_invertAtom _ s).bump F.FLT_DROSS_PASSED_COUNT 0 _

/-- Dross is passed on where there is any. -/
theorem passOn (h : UnitWork s t) (l : List Nat) : UnitWork s (if l.isEmpty then t else t.passDross l) := by
  split
  · exact h
  · exact h.trans (of_passDross t l)

/-- R301: a unit's run on memory without errors takes in what it names and goes on. -/
theorem of_consuming (hc : Clean s) (x : Cmd) (kind : Nat) (spans : List Span) {run : Hw → Hw × Nat} (h : UnitWork s (run s).1) :
    UnitWork s (s.consuming x kind spans run).1 := by
  unfold Hw.consuming
  rw [Hw.consumeBy_clean hc.1 hc.2]
  exact h

/-! ### Operands -/

theorem of_writeRun (s : Hw) (a : Nat) (bs : List Byte) : UnitWork s (s.writeRun a bs) := of_writeAddrs s _

theorem of_writeRaw (s : Hw) (o : Opnd) (els : List (List Nat × Nat)) : UnitWork s (s.writeRaw o els) := of_writeAddrs s _

theorem of_writeList (s : Hw) (o : Opnd) (l : List Nat) : UnitWork s (s.writeList o l) := of_writeRaw s o _

theorem of_writeElems (s : Hw) (o : Opnd) (w : Writer) (els : List (List Nat × FVal)) : UnitWork s (s.writeElems o w els).1 := by
  unfold Hw.writeElems
  split
  · exact fst_mk _ ((of_writeAddrs s _).passOn _)
  · exact fst_mk _ (of_writeAddrs s _)

theorem of_writePanel (s : Hw) (o : Opnd) (p : Nat) (rows : List (List Nat)) : UnitWork s (s.writePanel o p rows) :=
  (of_writeRun s _ _).trans (of_writeRun _ _ _)

theorem of_writePanels (s : Hw) (o : Opnd) (pats : List Nat) : UnitWork s (s.writePanels o pats) :=
  foldl _ (fun s p => of_writePanel s o p _) _ s

theorem of_writeTensor (s : Hw) (o : Opnd) (w : Writer) (vals : List FVal) : UnitWork s (s.writeTensor o w vals).1 := by
  unfold Hw.writeTensor
  simp only
  split
  · exact fst_mk _ (of_writePanels s o _)
  · exact of_writeElems s o w _

theorem of_writeHalo (s : Hw) (o : Opnd) : UnitWork s (s.writeHalo o) := by
  unfold Hw.writeHalo
  split
  · exact of_writeAddrs s _
  · exact refl s

theorem of_setPhys (s : Hw) (p : Nat) (x : Phys) : UnitWork s (s.setPhys p x) := of_beside (.of_eq rfl rfl rfl rfl rfl rfl)

theorem of_touch (s : Hw) (t : Nat) (o : Opnd) : UnitWork s (s.touch t o) := by
  unfold Hw.touch
  simp only
  split
  · exact refl s
  · split
    · exact of_setPhys s _ _
    · split
      · exact of_setPhys s _ _
      · exact of_setPhys s _ _

theorem of_leaveDests (s : Hw) (x : Cmd) : UnitWork s (s.leaveDests x) := by
  unfold Hw.leaveDests
  refine foldl _ (fun v p => ?_) _ s
  exact (of_writeHalo v p.2).trans (of_touch _ x.t p.2)

theorem of_countSat (s : Hw) (n k : Nat) : UnitWork s (s.countSat n k).1 := by
  unfold Hw.countSat
  split
  · exact refl s
  · exact of_bump s F.NUM_SATURATED_COUNT n k

theorem of_moveElems (s : Hw) (src dst : Opnd) (pairs : List (Option (List Int) × List Nat)) : UnitWork s (s.moveElems src dst pairs).1 := by
  unfold Hw.moveElems
  split
  · refine fst_mk _ (passOn ?_ _)
    refine foldl_fst _ (fun r q => ?_) _ (s, 0, [])
    obtain ⟨k0, b, idxs, got⟩ := q
    simp only
    split
    · exact of_writeAddrs r.1 _
    · exact of_writeAddrs r.1 _
  · exact fst_mk _ ((of_writeRaw s dst _).passOn _)

theorem of_movePanels (s : Hw) (src dst : Opnd) (from_ : List Nat → Option (List Int)) : UnitWork s (s.movePanels src dst from_) := by
  refine foldl _ (fun t p => ?_) _ s
  simp only
  split
  · exact (of_writePanel t dst p _).trans (of_passDross _ _)
  · exact of_writePanel t dst p _

/-! ### Lists -/

theorem of_noteCoords (s : Hw) (x : Cmd) (l : List (Nat × Coord)) : UnitWork s (s.noteCoords x l).1 := by
  unfold Hw.noteCoords
  simp only
  split
  · exact (of_bump s F.SHTL_IDX_BAD_COUNT x.t _).raise _ _ _ _
  · exact of_bump s F.SHTL_IDX_BAD_COUNT x.t _

theorem of_noteSegments (s : Hw) (x : Cmd) (segs : List (Option (List Nat))) : UnitWork s (s.noteSegments x segs).1 := by
  unfold Hw.noteSegments
  split
  · exact of_raise s _ _ _ _
  · exact refl s

theorem of_clobber (s : Hw) (o : Opnd) : UnitWork s (s.clobber o) := (of_writeRaw s o _).trans (of_free _ _)

/-! ### The runs -/

theorem of_gatherWindow (s : Hw) (x : Cmd) (v : Indexed) (raw : List (List Int)) (win : List (Nat × Coord)) :
    UnitWork s (s.gatherWindow x v raw win).1 := by
  unfold Hw.gatherWindow
  extract_lets pairs good first count s1 r
  have h1 : UnitWork s s1 := of_consumeBy s _
  have hr : UnitWork s r.1 := by
    change UnitWork s (if _ then _ else _ : Hw × Nat).1
    split
    · exact h1
    · exact h1.trans (of_moveElems s1 _ _ _)
  exact fst_mk _ ((hr.bump F.SHTL_GATHERED_COUNT x.t _).bump F.SHTL_DEDUP_COUNT x.t _)

theorem of_scatterWindow (s : Hw) (x : Cmd) (v : Indexed) (win : List (Nat × Coord)) : UnitWork s (s.scatterWindow x v win).1 := by
  unfold Hw.scatterWindow
  exact fst_mk _ (((of_consumeBy s _).trans (of_moveElems _ _ _ _)).bump F.SHTL_SCATTERED_COUNT x.t _)

theorem of_runIndexed (hc : Clean s) (x : Cmd) {f : Hw → Indexed → List (List Int) → List (Nat × Coord) → Hw × Nat}
    (hf : ∀ s v raw w, UnitWork s (f s v raw w).1) : UnitWork s (s.runIndexed x f).1 := by
  unfold Hw.runIndexed
  refine of_consuming hc x 1 _ ?_
  extract_lets cs raw n r s1 c
  have hr : UnitWork s r.1 :=
    (of_noteCoords s x cs).trans (foldl_fst (fun (r : Hw × Nat) w => ((f r.1 (indexedOf x) raw w).1, r.2 + (f r.1 (indexedOf x) raw w).2))
      (fun r w => hf r.1 _ raw w) (windows cs) (n.1, 0))
  have h1 : UnitWork s s1 := by
    change UnitWork s (if _ then _ else _)
    split
    · exact hr.trans (of_movePanels _ _ _ _)
    · exact hr
  exact fst_mk _ ((h1.trans (of_countSat s1 _ _)).trans (of_leaveDests _ x))

theorem of_writeLines (s : Hw) (x : Cmd) (v : Indexed) (ls : List Line) : UnitWork s (s.writeLines x v ls).1 :=
  fst_mk _ ((of_writeElems s v.ind x.wr _).bump F.SHTL_SCATTERED_COUNT x.t ls.length)

/-- R153, R156: a contribution touches memory only where it drives a line of the merge buffer out. -/
theorem of_contribute (r : Hw × Nat × List Line) (x : Cmd) (v : Indexed) (e : Nat) (b : Nat × Nat × Nat × Nat) (vals : List FVal) :
    UnitWork r.1 (Hw.contribute r x v e b vals).1 := by
  obtain ⟨s, sat, lines⟩ := r
  unfold Hw.contribute
  simp only
  split
  · exact refl s
  · split
    · split
      · exact (of_writeLines s x v _).bump F.SHTL_MERGE_EVICT_COUNT x.t 1
      · exact refl s
    · exact refl s

theorem of_loseShared (s : Hw) (x : Cmd) (mine : List (Nat × Nat)) : UnitWork s (s.loseShared x mine) := by
  unfold Hw.loseShared
  extract_lets theirs hit cells
  split
  · exact refl s
  · exact (of_writeAddrs s cells).trans (of_free _ _)

theorem of_runScatterAdd (hc : Clean s) (x : Cmd) : UnitWork s (s.runScatterAdd x).1 := by
  unfold Hw.runScatterAdd
  refine of_consuming hc x 1 _ ?_
  extract_lets cs of blocks dSpans iSpans
  refine of_consuming hc x 1 _ ?_
  extract_lets n r w c
  have hr : UnitWork s r.1 := by
    refine (of_noteCoords s x cs).trans (foldl_fst _ (fun r win => ?_) (windows cs) (n.1, 0, []))
    exact foldl_fst _ (fun r g => of_contribute r x _ _ _ _) _ r
  exact fst_mk _ ((((hr.trans (of_writeLines _ x _ _)).trans (of_countSat _ _ _)).trans (of_loseShared _ x _)).trans (of_leaveDests _ x))

theorem of_runMerge (hc : Clean s) (x : Cmd) : UnitWork s (s.runMerge x).1 := by
  unfold Hw.runMerge
  extract_lets src dst lists
  refine of_consuming hc x 1 _ ?_
  extract_lets
  refine of_consuming hc x 1 _ ?_
  extract_lets n1 n2 term els r c
  have h2 : UnitWork s n2.1 := (of_noteSegments s x _).trans (of_noteCoords _ x _)
  have hr : UnitWork s r.1 := (h2.bump F.SHTL_GATHERED_COUNT x.t _).trans (of_writeTensor _ dst x.wr els)
  exact fst_mk _ ((hr.trans (of_countSat _ _ _)).trans (of_leaveDests _ x))

theorem of_runSort (hc : Clean s) (x : Cmd) : UnitWork s (s.runSort x).1 := by
  unfold Hw.runSort
  extract_lets topk seg
  refine of_consuming hc x 1 _ ?_
  extract_lets pairs
  split
  · exact fst_mk _ ((((of_noteSegments s x _).trans (of_writeList _ _ _)).trans (of_writeList _ _ _)).trans (of_leaveDests _ x))
  · exact fst_mk _ ((((of_clobber s _).trans (of_writeList _ _ _)).trans (of_writeList _ _ _)).trans (of_leaveDests _ x))

theorem of_runRoute (hc : Clean s) (x : Cmd) : UnitWork s (s.runRoute x).1 := by
  unfold Hw.runRoute
  extract_lets k e policy
  refine of_consuming hc x 1 _ ?_
  extract_lets ch n cs c choice bk lists placed offs disp ret g isIn gates s1 s2 ovf
  have h1 : UnitWork s s1 := ((((of_noteCoords s x _).trans (of_writeList _ _ _)).trans (of_writeList _ _ _)).trans (of_writeList _ _ _)).trans
    (of_writeList _ _ _)
  have h2 : UnitWork s s2 := h1.trans (of_leaveDests s1 x)
  refine fst_mk _ ?_
  split
  · exact h2
  · exact (h2.bump F.SHTL_ROUTE_OVF_COUNT x.t ovf).raise _ _ _ _

theorem of_writeSketch (s : Hw) (a seed step k n fmt : Nat) (w : Nat → Nat → LEl) : UnitWork s (s.writeSketch a seed step k n fmt w) :=
  (of_writeRun s _ _).trans (of_writeRun _ _ _)

theorem of_sketchBuild (s : Hw) (x : Cmd) : UnitWork s (s.sketchBuild x).1 :=
  fst_mk _ ((of_writeSketch s _ _ _ _ _ _ _).trans (of_leaveDests _ x))

theorem of_sketchScore (s : Hw) (x : Cmd) : UnitWork s (s.sketchScore x).1 := by
  unfold Hw.sketchScore
  extract_lets q sk
  simp only
  exact ((((of_writeList s _ _).trans (of_writeList _ _ _)).bump F.SHTL_SKETCH_SEL_COUNT x.t _).trans (of_leaveDests _ x))

theorem of_runMove (s : Hw) (x : Cmd) : UnitWork s (s.runMove x).1 := by
  unfold Hw.runMove
  extract_lets d a s0
  have h0 : UnitWork s s0 := of_consumeBy s _
  split
  · exact fst_mk _ ((h0.trans (of_movePanels _ _ _ _)).trans (of_leaveDests _ x))
  · exact fst_mk _ (((h0.trans (of_moveElems _ _ _ _)).trans (of_countSat _ _ _)).trans (of_leaveDests _ x))

end UnitWork

end Sys2Proof.Machine
end

section
/-!
PROOFS. A Shuttle or move command that is taken runs (R63, R136, R240).
-/
namespace Sys2Proof.Machine

/-! ### A command that has left the head, and what its unit does -/

namespace HeadGone

variable {k q : Nat} {h : Head} {s t v : Hw}

theorem unitWork (hg : HeadGone k q h s t) (hu : UnitWork t v) : HeadGone k q h s v := hg.of_eq hu.tiles hu.flds

/-- A change of tile k that leaves its frame, its queues and the contexts alone. -/
theorem modTile (hg : HeadGone k q h s t) (f : Tile → Tile) (hframe : ∀ x, (f x).frame = x.frame) (hqueue : ∀ x, (f x).queues = x.queues)
    (hctxs : ∀ x, (f x).fs.ctxs = x.fs.ctxs) : HeadGone k q h s (t.modTile k f) := by
  have hctx : (t.modTile k f).ctxOn k h.n = t.ctxOn k h.n := by
    unfold Hw.ctxOn FrameState.ctx
    rw [Hw.getTile_modTile_self, hctxs]
  have hq : (t.modTile k f).getQueue k q = t.getQueue k q := by
    unfold Hw.getQueue Tile.queue
    rw [Hw.getTile_modTile_self, hqueue]
  exact ⟨hg.home.setTile (hframe _), by rw [hctx, hg.issued], by rw [hctx, hg.pos], by rw [hctx, hg.slots], by rw [hq, hg.queue], hg.running⟩

end HeadGone

/-- Loading a bank of a loom leaves the contexts of a frame alone. -/
theorem FrameState.ctxs_loads (looms : List Bool) (hs : List Heddle) (f : FrameState) :
    (looms.foldl (fun fs b => hs.foldl (fun fs h => fs.load (loomNo b) h) fs) f).ctxs = f.ctxs := by
  have hone : ∀ (b : Bool) (l : List Heddle) (f : FrameState), (l.foldl (fun fs h => fs.load (loomNo b) h) f).ctxs = f.ctxs := fun b l => by
    induction l with
    | nil => exact fun _ => rfl
    | cons h l ih => exact fun f => (ih _).trans rfl
  induction looms generalizing f with
  | nil => rfl
  | cons b l ih => exact (ih _).trans (hone b hs f)

/-- R104: loading the looms of tile k leaves a command that has left the head, memory, the regions and the channels alone. -/
theorem HeadGone.loadLooms {k q : Nat} {h : Head} {s t : Hw} (hg : HeadGone k q h s t) (looms : List Bool) (hs : List Heddle) :
    HeadGone k q h s (t.loadLooms k looms hs) ∧ (t.loadLooms k looms hs).mem = t.mem ∧ (t.loadLooms k looms hs).regions = t.regions ∧
      (t.loadLooms k looms hs).chans = t.chans := by
  unfold Hw.loadLooms Hw.unpin
  split
  · exact ⟨hg, rfl, rfl, rfl⟩
  · refine ⟨(hg.modTile _ ?_ ?_ ?_).modTile _ ?_ ?_ ?_, rfl, rfl, rfl⟩
    · exact fun _ => rfl
    · exact fun _ => rfl
    · exact fun _ => rfl
    · exact fun _ => rfl
    · exact fun _ => rfl
    · exact fun x => FrameState.ctxs_loads looms hs x.fs

/-- R136: s1, in which the head h has left its queue, has become t by the run of its unit. -/
structure RunKeeps (s s1 t : Hw) (k q : Nat) (h : Head) : Prop where
  gone : HeadGone k q h s t
  regions : t.regions = s1.regions
  chans : t.chans = s1.chans

theorem UnitWork.keeps {s s1 t : Hw} {k q : Nat} {h : Head} (hu : UnitWork s1 t) (hc : Clean s1) (hg : HeadGone k q h s s1) :
    RunKeeps s s1 t k q h := by
  obtain ⟨_, hchans⟩ := hu.quiet (.of_clean hc.1)
  exact ⟨hg.unitWork hu, hu.regions, hchans⟩

/-! ### Issue -/

section

variable {s : Hw} {k q op : Nat} {h : Head}

/-- R242: a unit's head that is ready is taken, or turned away on its carry areas or its own checks. -/
theorem Hw.unitRun_ready (hr : Ready s k q op h) (check : Hw → Cmd → Nat) (run : Hw → Cmd → Hw) :
    s.unitRun k q op check run =
      if (s.taken k q h).carryMissing (s.cmdAt k q h) then
        ((s.taken k q h).raise 0x1015 (s.cmdAt k q h).n (Com.opcode (s.cmdAt k q h).w)
          { kind := 1, unit := (s.cmdAt k q h).t, stream := some (s.cmdAt k q h).n, job := some ((s.taken k q h).jobOf (s.cmdAt k q h).n) }).turned
          (s.cmdAt k q h) St.carry
      else if check (s.taken k q h) (s.cmdAt k q h) ≠ 0 then
        (s.taken k q h).turned (s.cmdAt k q h) (check (s.taken k q h) (s.cmdAt k q h))
      else run (s.taken k q h) (s.cmdAt k q h) := by
  have hop : (Com.opcode h.w == op) = true := beq_iff_eq.2 hr.2.1
  unfold Hw.unitRun
  rw [Hw.issue_ready hr (fun w => Com.opcode w == op) hop]
  rfl

/-- R63: without the carry area it needs a command waits with CARRY, and nothing is done. -/
theorem Hw.unitRun_carry (hs : HomeOn s k h.n) (hc : Clean s) (hr : Ready s k q op h)
    (hm : (s.taken k q h).carryMissing (s.cmdAt k q h) = true) (check : Hw → Cmd → Nat) (run : Hw → Cmd → Hw) :
    Issued (s.unitRun k q op check run) k h St.carry ∧ NextInLine s (s.unitRun k q op check run) k q h ∧
      (s.unitRun k q op check run).mem = s.mem := by
  obtain ⟨_, hmem, _, _⟩ := s.taken_clean hc k q h
  rw [Hw.unitRun_ready hr, if_pos hm]
  have hraise := Beside.of_raise (s.taken k q h) 0x1015 (s.cmdAt k q h).n (Com.opcode (s.cmdAt k q h).w)
    { kind := 1, unit := (s.cmdAt k q h).t, stream := some (s.cmdAt k q h).n, job := some ((s.taken k q h).jobOf (s.cmdAt k q h).n) }
  have hg := (hr.headGone hs).beside hraise
  obtain ⟨hgone, hissued, hstay, _, _⟩ := hg.fly (x := s.cmdAt k q h) rfl rfl rfl rfl St.carry .none
  exact ⟨hissued, hgone.next, hstay.trans (hraise.mem.trans hmem)⟩

/-- R136, R242: with the carry area it needs a command that passes its check runs. -/
theorem Hw.unitRun_runs (hr : Ready s k q op h) (hm : (s.taken k q h).carryMissing (s.cmdAt k q h) = false) {check : Hw → Cmd → Nat}
    (hcheck : check (s.taken k q h) (s.cmdAt k q h) = 0) (run : Hw → Cmd → Hw) :
    s.unitRun k q op check run = run (s.taken k q h) (s.cmdAt k q h) := by
  rw [Hw.unitRun_ready hr, if_neg (by rw [hm]; exact Bool.false_ne_true), if_neg (by rw [hcheck]; exact fun hne => hne rfl)]

/-- R243: a command whose run has kept what it must waits with the status of its result. -/
theorem RunKeeps.done {r : Hw × Nat} (hc : Clean s) (hk : RunKeeps s (s.taken k q h) r.1 k q h) :
    HeadGone k q h s (r.1.done (s.cmdAt k q h) r.2) ∧ Ran s (r.1.done (s.cmdAt k q h) r.2) k q h r := by
  obtain ⟨_, _, hregions, hchans⟩ := s.taken_clean hc k q h
  obtain ⟨hgone, hissued, hmem, hreg, hch⟩ := hk.gone.fly (x := s.cmdAt k q h) rfl rfl rfl rfl r.2 (r.1.unitNeed (s.cmdAt k q h).w)
  exact ⟨hgone, hissued, hgone.next, hmem, hreg.trans (hk.regions.trans hregions), hch.trans (hk.chans.trans hchans)⟩

/-- A command of a unit whose run leaves alone what it must is executed. -/
theorem Hw.unitCommand_ran (hc : Clean s) (hr : Ready s k q op h) (hm : (s.taken k q h).carryMissing (s.cmdAt k q h) = false)
    {check : Hw → Cmd → Nat} (hcheck : check (s.taken k q h) (s.cmdAt k q h) = 0) {run : Hw → Cmd → Hw × Nat}
    (hk : RunKeeps s (s.taken k q h) (run (s.taken k q h) (s.cmdAt k q h)).1 k q h) :
    Ran s (s.unitCommand k q op check run) k q h (run (s.taken k q h) (s.cmdAt k q h)) := by
  unfold Hw.unitCommand
  rw [Hw.unitRun_runs hr hm hcheck]
  exact (hk.done hc).2

end

/-- What only the entries in flight of a number differ in has issued as well, where they keep their command and their stage. -/
theorem Ran.modFlight {s t : Hw} {k q : Nat} {h : Head} {r : Hw × Nat} (hr : Ran s t k q h r) (hg : HeadGone k q h s t) (num : Nat)
    (f : InFlight → InFlight) (hf : ∀ e, (f e).num = e.num ∧ (f e).cmd = e.cmd ∧ (f e).stage = e.stage) :
    Ran s (t.modFlight h.n num f) k q h r := by
  obtain ⟨⟨_, e, he, hnum, hcmd, hstage⟩, _, hmem, hregions, hchans⟩ := hr
  rw [hg.home.modFlight_eq]
  have hg' := hg.setFlight ((t.ctxOn k h.n).flight.map (fun e => if e.num = num then f e else e))
  refine ⟨⟨hg'.issued, if e.num = num then f e else e, ?_, ?_⟩, hg'.next, (Hw.setCtxOn_mem _ _ _ _).trans hmem,
    (Hw.setCtxOn_regions _ _ _ _).trans hregions, (Hw.setCtxOn_chans _ _ _ _).trans hchans⟩
  · rw [Hw.ctxOn_setCtxOn_self]
    exact List.mem_map_of_mem he
  · obtain ⟨hfnum, hfcmd, hfstage⟩ := hf e
    split
    · exact ⟨hfnum.trans hnum, hfcmd.trans hcmd, hfstage.trans hstage⟩
    · exact ⟨hnum, hcmd, hstage⟩

end Sys2Proof.Machine
end

section
/-!
PROOFS. The Shuttle's commands and MOVE (R136, R152 to R167, R240).
-/
namespace Sys2Proof.Machine

theorem exec_gather (k : Fin 512) (q : Fin 4) (s : State) : exec (.gather k q) s = s.onHw (fun h =>
    h.unitCommand k q 0x20 (fun _ x => (indexedOf x).check) (fun s x => s.runIndexed x (fun s v raw w => s.gatherWindow x v raw w))) := rfl
theorem exec_scatter (k : Fin 512) (q : Fin 4) (s : State) : exec (.scatter k q) s = s.onHw (fun h =>
    h.unitCommand k q 0x21 (fun _ x => (indexedOf x).check) (fun s x => s.runIndexed x (fun s v _ w => s.scatterWindow x v w))) := rfl
theorem exec_merge (k : Fin 512) (q : Fin 4) (s : State) : exec (.merge k q) s = s.onHw (fun h =>
    h.unitCommand k q 0x24 (fun _ x => mergeCheck x) (fun s x => s.runMerge x)) := rfl
theorem exec_sort (k : Fin 512) (q : Fin 4) (s : State) : exec (.sort k q) s = s.onHw (fun h =>
    h.unitCommand k q 0x25 (fun _ x => sortCheck x) (fun s x => s.runSort x)) := rfl
theorem exec_route (k : Fin 512) (q : Fin 4) (s : State) : exec (.route k q) s = s.onHw (fun h =>
    h.unitCommand k q 0x26 (fun _ x => routeCheck x) (fun s x => s.runRoute x)) := rfl
theorem exec_move (k : Fin 512) (q : Fin 4) (s : State) : exec (.move k q) s = s.onHw (fun h =>
    h.unitCommand k q 0x40 (fun _ x => moveCheck x) (fun s x => s.runMove x)) := rfl

/-- R153, R156: what SCATTER_ADD does once its checks pass. -/
def Hw.scatterAdds (s : Hw) (x : Cmd) : Hw :=
  ((s.runScatterAdd x).1.done x (s.runScatterAdd x).2).modFlight x.n x.num (fun f => { f with added := addedBy s x })

/-- R165 to R167: what SKETCH makes of its operands, with the projection loaded. -/
def Hw.sketches (s : Hw) (x : Cmd) : Hw × Nat :=
  if Com.modeBit x.w 4 then (s.loadProjection x).sketchScore x else (s.loadProjection x).sketchBuild x

theorem exec_scatterAdd (k : Fin 512) (q : Fin 4) (s : State) : exec (.scatterAdd k q) s = s.onHw (fun h =>
    h.unitRun k q 0x22 (fun _ x => if (x.o 2).fmt = 10 then St.format else (indexedOf x).check) Hw.scatterAdds) := rfl
theorem exec_sketch (k : Fin 512) (q : Fin 4) (s : State) : exec (.sketch k q) s = s.onHw (fun h =>
    h.unitCommand k q 0x27 sketchCheck (fun s x => s.consuming x 1 x.sourceSpans (fun s => s.sketches x))) := rfl

section

variable {s : Hw} {k q : Nat} {h : Head}

/-- SKETCH on memory without errors keeps what a run must. -/
theorem RunKeeps.of_sketches (hc : Clean (s.taken k q h)) (hg : HeadGone k q h s (s.taken k q h)) :
    RunKeeps s (s.taken k q h) ((s.taken k q h).sketches (s.cmdAt k q h)).1 k q h := by
  have hload : HeadGone k q h s ((s.taken k q h).loadProjection (s.cmdAt k q h)) ∧
      ((s.taken k q h).loadProjection (s.cmdAt k q h)).mem = (s.taken k q h).mem ∧
      ((s.taken k q h).loadProjection (s.cmdAt k q h)).regions = (s.taken k q h).regions ∧
      ((s.taken k q h).loadProjection (s.cmdAt k q h)).chans = (s.taken k q h).chans := hg.loadLooms _ _
  obtain ⟨hgone, hmem, hregions, hchans⟩ := hload
  unfold Hw.sketches
  generalize (s.taken k q h).loadProjection (s.cmdAt k q h) = v at hgone hmem hregions hchans
  have hwork : UnitWork v (if Com.modeBit (s.cmdAt k q h).w 4 then v.sketchScore (s.cmdAt k q h) else v.sketchBuild (s.cmdAt k q h)).1 := by
    split
    · exact .of_sketchScore v _
    · exact .of_sketchBuild v _
  obtain ⟨_, hch⟩ := hwork.quiet (.of_clean (hmem ▸ hc.1))
  exact ⟨hgone.unitWork hwork, hwork.regions.trans hregions, hch.trans hchans⟩

/-- SCATTER_ADD is executed, and its entry keeps the blocks that it has added into. -/
theorem Hw.scatterAdds_ran (hs : HomeOn s k h.n) (hc : Clean s) (hr : Ready s k q 0x22 h) :
    Ran s ((s.taken k q h).scatterAdds (s.cmdAt k q h)) k q h ((s.taken k q h).runScatterAdd (s.cmdAt k q h)) := by
  obtain ⟨hclean, _, _, _⟩ := s.taken_clean hc k q h
  have hkeeps := (UnitWork.of_runScatterAdd hclean (s.cmdAt k q h)).keeps hclean (hr.headGone hs)
  obtain ⟨hgone, hran⟩ := hkeeps.done (r := (s.taken k q h).runScatterAdd (s.cmdAt k q h)) hc
  refine hran.modFlight hgone _ _ ?_
  exact fun _ => ⟨rfl, rfl, rfl⟩

end

/-- Settles O26: each run leaves alone the tiles, the regions, the fields of the streams and, on memory without errors, the channels
(`UnitWork`). -/
theorem shuttleCommands : Obligations.ShuttleCommands := by
  unfold Obligations.ShuttleCommands
  rintro s k q h _ _ hs hc rfl rfl
  obtain ⟨hclean, _, _, _⟩ := s.hw.taken_clean hc k q h
  refine ⟨fun c op hcop hr hm => ?_, fun hm => ⟨fun hr hcheck => ?_, fun hr hcheck => ?_, fun hr hfmt hcheck => ?_, fun hr hcheck => ?_,
    fun hr hcheck => ?_, fun hr hcheck => ?_, fun hr hcheck => ?_, fun hr hcheck => ?_⟩⟩
  · have hcarry := fun check run => Hw.unitRun_carry hs hc hr hm check run
    simp only [List.mem_cons, List.not_mem_nil, or_false] at hcop
    obtain ⟨rfl, rfl⟩ | ⟨rfl, rfl⟩ | ⟨rfl, rfl⟩ | ⟨rfl, rfl⟩ | ⟨rfl, rfl⟩ | ⟨rfl, rfl⟩ | ⟨rfl, rfl⟩ | ⟨rfl, rfl⟩ := hcop
    · exact .of_onHw _ (exec_gather k q s) (hcarry _ _)
    · exact .of_onHw _ (exec_scatter k q s) (hcarry _ _)
    · exact .of_onHw _ (exec_scatterAdd k q s) (hcarry _ _)
    · exact .of_onHw _ (exec_merge k q s) (hcarry _ _)
    · exact .of_onHw _ (exec_sort k q s) (hcarry _ _)
    · exact .of_onHw _ (exec_route k q s) (hcarry _ _)
    · exact .of_onHw _ (exec_sketch k q s) (hcarry _ _)
    · exact .of_onHw _ (exec_move k q s) (hcarry _ _)
  · refine .of_onHw _ (exec_gather k q s) (Hw.unitCommand_ran hc hr hm hcheck ?_)
    exact (UnitWork.of_runIndexed hclean _ fun v i raw w => .of_gatherWindow v _ i raw w).keeps hclean (hr.headGone hs)
  · refine .of_onHw _ (exec_scatter k q s) (Hw.unitCommand_ran hc hr hm hcheck ?_)
    exact (UnitWork.of_runIndexed hclean _ fun v i _ w => .of_scatterWindow v _ i w).keeps hclean (hr.headGone hs)
  · refine .of_onHw _ (exec_scatterAdd k q s) ?_
    rw [Hw.unitRun_runs hr hm ((if_neg hfmt).trans hcheck)]
    exact Hw.scatterAdds_ran hs hc hr
  · refine .of_onHw _ (exec_merge k q s) (Hw.unitCommand_ran hc hr hm hcheck ?_)
    exact (UnitWork.of_runMerge hclean _).keeps hclean (hr.headGone hs)
  · refine .of_onHw _ (exec_sort k q s) (Hw.unitCommand_ran hc hr hm hcheck ?_)
    exact (UnitWork.of_runSort hclean _).keeps hclean (hr.headGone hs)
  · refine .of_onHw _ (exec_route k q s) (Hw.unitCommand_ran hc hr hm hcheck ?_)
    exact (UnitWork.of_runRoute hclean _).keeps hclean (hr.headGone hs)
  · refine .of_onHw _ (exec_sketch k q s) ?_
    have hrun : (s.hw.taken k q h).consuming (s.hw.cmdAt k q h) 1 (s.hw.cmdAt k q h).sourceSpans (fun v => v.sketches (s.hw.cmdAt k q h)) =
        (s.hw.taken k q h).sketches (s.hw.cmdAt k q h) := by
      unfold Hw.consuming
      rw [Hw.consumeBy_clean hclean.1 hclean.2]
    have hran := Hw.unitCommand_ran (run := fun v x => v.consuming x 1 x.sourceSpans (fun v => v.sketches x)) hc hr hm hcheck
      (by rw [hrun]; exact .of_sketches hclean (hr.headGone hs))
    rw [hrun] at hran
    exact hran
  · refine .of_onHw _ (exec_move k q s) (Hw.unitCommand_ran hc hr hm hcheck ?_)
    exact (UnitWork.of_runMove _ _).keeps hclean (hr.headGone hs)

end Sys2Proof.Machine
end

section
/-!
PROOFS. The address map (R218, R347, R353, R400, R446): on what it depends where an address leads and whether a write to it is discarded, and
what leaves that alone from the issue of a command to its entry in flight.
-/
namespace Sys2Proof.Machine

/-- The registers on which the guards of a write depend: the state of the twin, the lock of the staging area, its place and the level of
service. -/
def mapRegs : List Reg := [.TWIN_STATUS, .PAT_STATUS, .PAT_STAGE_BASE_LO, .PAT_STAGE_BASE_HI, .ID_SERVICE]

/-- What of the memory unit the address map can depend on: all but what it counts and proposes. -/
def MemUnit.forMap (x : MemUnit) : MemUnit := { x with props := [], forwarded := [], served := [] }

/-- From s to t all that the address map and the guards of a write depend on has stayed. -/
structure MapKept (s t : Hw) : Prop where
  regs : ∀ r ∈ mapRegs, ∀ u, t.rd r u = s.rd r u
  mu : t.mu.forMap = s.mu.forMap
  chans : t.chans = s.chans
  flt : t.flt = s.flt
  manifest : t.twin.manifest = s.twin.manifest
  sec : t.pat.sec = s.pat.sec

namespace MapKept

theorem refl (s : Hw) : MapKept s s := ⟨fun _ _ _ => rfl, rfl, rfl, rfl, rfl, rfl⟩

variable {s t v : Hw}

theorem trans (h : MapKept s t) (h' : MapKept t v) : MapKept s v :=
  ⟨fun r hr u => (h'.regs r hr u).trans (h.regs r hr u), h'.mu.trans h.mu, h'.chans.trans h.chans, h'.flt.trans h.flt,
    h'.manifest.trans h.manifest, h'.sec.trans h.sec⟩

theorem foldl {α : Type} (f : Hw → α → Hw) (hf : ∀ s a, MapKept s (f s a)) (l : List α) : ∀ s : Hw, MapKept s (l.foldl f s) := by
  induction l with
  | nil => exact refl
  | cons a l ih => exact fun s => (hf s a).trans (ih _)

/-! ### What the map decides -/

theorem fget (h : MapKept s t) (f : Fld) (u : Nat := 0) (hf : f.reg ∈ mapRegs := by decide) : t.fget f u = s.fget f u := by
  unfold Hw.fget; rw [h.regs f.reg hf]

theorem place (h : MapKept s t) (a : Nat) : t.place a = s.place a := by
  have hmapped : t.mu.mapped = s.mu.mapped := (congrArg MemUnit.mapped h.mu :)
  have hwindow : t.mu.windowOff = s.mu.windowOff := (congrArg MemUnit.windowOff h.mu :)
  have hout : t.mu.outCh = s.mu.outCh := (congrArg MemUnit.outCh h.mu :)
  have hcopy : t.mu.copy = s.mu.copy := (congrArg MemUnit.copy h.mu :)
  have hrow : t.mu.copyRow = s.mu.copyRow := (congrArg MemUnit.copyRow h.mu :)
  have hoffline : t.mu.offline = s.mu.offline := (congrArg MemUnit.offline h.mu :)
  unfold Hw.place Hw.capacity Hw.position Hw.rehomed Hw.getChan Hw.physOf
  rw [hmapped, hwindow, hout, hcopy, hrow, hoffline, h.chans, h.flt]

theorem lockedAt (h : MapKept s t) (a : Nat) : t.lockedAt a = s.lockedAt a := by
  unfold Hw.lockedAt Hw.flag Hw.stageBase Hw.level Hw.rd64
  rw [h.fget F.PAT_STATUS_LOCKED, h.fget F.ID_SERVICE_LEVEL, h.regs _ (by decide), h.regs .PAT_STAGE_BASE_HI (by decide), h.sec]

theorem seedGuard (h : MapKept s t) (a : Nat) : t.seedGuard a = s.seedGuard a := by
  unfold Hw.seedGuard
  rw [h.fget F.TWIN_STATUS_STATE, h.manifest]

/-- A reader gets the same byte where memory too has stayed. -/
theorem peek (h : MapKept s t) (hm : t.mem = s.mem) (a : Nat) : t.peek a = s.peek a := by
  unfold Hw.peek
  rw [h.place, hm]

/-! ### What leaves it alone -/

/-- What shares the registers and the units with s. -/
theorem of_eq (hr : t.regs = s.regs) (hm : t.mu = s.mu) (hc : t.chans = s.chans) (hf : t.flt = s.flt) (ht : t.twin = s.twin)
    (hp : t.pat = s.pat) : MapKept s t := ⟨fun r _ u => Hw.rd_congr hr r u, by rw [hm], hc, hf, by rw [ht], by rw [hp]⟩

/-- What accesses of memory do, where they leave the channels alone. -/
theorem of_memWork (h : MemWork s t) (hc : t.chans = s.chans) : MapKept s t :=
  ⟨fun r hr u => h.rd r u (by revert r; decide), congrArg (·.mu) h.rest, hc, congrArg (·.flt) h.rest, congrArg (·.twin.manifest) h.rest,
    congrArg (·.pat.sec) h.rest⟩

theorem wr (h : MapKept s t) (q : Reg) (u : Nat) (x : Reg32) (hq : ∀ r ∈ mapRegs, q ≠ r := by decide) : MapKept s (t.wr q u x) :=
  h.trans ⟨fun r hr v => Hw.rd_wr_reg t u v x (hq r hr), rfl, rfl, rfl, rfl, rfl⟩

theorem fset (h : MapKept s t) (f : Fld) (x u : Nat) (hf : ∀ r ∈ mapRegs, f.reg ≠ r := by decide) : MapKept s (t.fset f x u) :=
  h.wr f.reg u _ hf

theorem bump (h : MapKept s t) (f : Fld) (u n : Nat) (hf : ∀ r ∈ mapRegs, f.reg ≠ r := by decide) : MapKept s (t.bump f u n) :=
  h.trans ⟨fun r hr v => Hw.rd_bump_reg t u v n (hf r hr), by rw [Hw.bump_mu], Hw.bump_chans _ _ _ _, Hw.bump_flt _ _ _ _,
    by rw [Hw.bump_twin], by rw [Hw.bump_pat]⟩

theorem raise (h : MapKept s t) (code a0 a1 : Nat) (w : Who) : MapKept s (t.raise code a0 a1 w) :=
  h.trans (of_memWork (.of_raise t code a0 a1 w) (Hw.raise_chans _ _ _ _ _))

theorem setStream (h : MapKept s t) (n : Nat) (x : StreamSt) : MapKept s (t.setStream n x) := h.trans (of_eq rfl rfl rfl rfl rfl rfl)

theorem of_test (s : Hw) (x : Test) : MapKept s { s with test := x } := of_eq rfl rfl rfl rfl rfl rfl

theorem of_setPhys (s : Hw) (p : Nat) (x : Phys) : MapKept s (s.setPhys p x) := of_eq rfl rfl rfl rfl rfl rfl

theorem of_setCtxOn (s : Hw) (k n : Nat) (c : StreamCtx) : MapKept s (s.setCtxOn k n c) := of_eq rfl rfl rfl rfl rfl rfl

theorem of_traceCmd (s : Hw) (kind k q n tag tail : Nat) : MapKept s (s.traceCmd kind k q n tag tail) := by
  unfold Hw.traceCmd
  split
  · generalize s.traceRec kind q k n tag tail = r
    rcases s.trace_cases r with h | ⟨l, h⟩ | h <;> rw [h]
    · exact refl s
    · exact of_test s l
    · exact (refl s).bump F.DBG_TRACE_LOST_COUNT 0 1
  · exact refl s

theorem of_pcEvent (s : Hw) (ev k n c : Nat) : MapKept s (s.pcEvent ev k n c) := by
  unfold Hw.pcEvent
  split
  · refine foldl _ (fun v i => ?_) _ s
    simp only
    split
    · exact ((refl v).wr .DBG_PC_VAL_LO i _).wr .DBG_PC_VAL_HI i _
    · exact refl v
  · exact refl s

theorem of_opportunity (s : Hw) (kind i k n : Nat) : MapKept s (s.opportunity kind i k n) := by
  unfold Hw.opportunity
  split
  · exact refl s
  · refine foldl _ (fun v j => ?_) _ s
    simp only
    split
    · split
      · exact ((of_test v _).bump F.TST_PERT_HITS_COUNT _ _).trans (of_pcEvent _ _ _ _ _)
      · exact of_test v _
    · exact refl v

theorem of_bpHit (s : Hw) (i : Nat) (h : Head) : MapKept s (s.bpHit i h) := by
  unfold Hw.bpHit
  extract_lets s0 s1 s2
  have h0 : MapKept s s0 := by
    change MapKept s (if _ then _ else _)
    split
    · exact (refl s).fset F.DBG_TRACE_CTL_RUNNING 1 0
    · exact refl s
  have h1 : MapKept s s1 := (h0.fset F.DBG_BP_CTL_HIT 1 i).raise _ _ _ _
  have h2 : MapKept s s2 := by
    change MapKept s (if _ then _ else _)
    split
    · exact h1.fset F.DBG_TRACE_CTL_RUNNING 0 0
    · exact h1
  split
  · exact (h2.fset F.STRM_STATE_HALTED 1 h.n).setStream _ _
  · exact h2.setStream _ _

theorem of_breakpoints (s : Hw) (h : Head) : MapKept s (s.breakpoints h).1 :=
  (foldl _ (fun v i => of_bpHit v i h) _ s).setStream _ _

theorem of_leaveHead (s : Hw) (k q : Nat) (h : Head) : MapKept s (s.leaveHead k q h) := by
  unfold Hw.leaveHead
  refine MapKept.trans ?_ (of_opportunity _ _ _ _ _)
  refine MapKept.trans ?_ (of_pcEvent _ _ _ _ _)
  refine MapKept.trans ?_ (of_traceCmd _ _ _ _ _ _ _)
  exact of_eq rfl rfl rfl rfl rfl rfl

/-- Taking in what a head names and leaving the head, where nothing has an error and no page is offline. -/
theorem of_taken (hc : Clean s) (k q : Nat) (h : Head) : MapKept s (s.taken k q h) := by
  have hbreak := Beside.of_breakpoints s h
  have hclean : Clean (s.breakpoints h).1 := ⟨by rw [hbreak.mem]; exact hc.1, by rw [hbreak.offline]; exact hc.2⟩
  exact ((of_breakpoints s h).trans (of_memWork (.of_takeNamed _ k h) (Beside.of_takeNamed hclean k h).chans)).trans (of_leaveHead _ k q h)

theorem of_fly (s : Hw) (x : Cmd) (stage : Stage) (unit : UnitUse) : MapKept s (s.fly x stage unit) := by
  unfold Hw.fly
  split
  · exact refl s
  · exact of_setCtxOn s _ _ _

theorem of_touch (s : Hw) (k : Nat) (o : Opnd) : MapKept s (s.touch k o) := by
  unfold Hw.touch
  simp only
  split
  · exact refl s
  · split
    · exact of_setPhys s _ _
    · split
      · exact of_setPhys s _ _
      · exact of_setPhys s _ _

theorem of_countSat (s : Hw) (n k : Nat) : MapKept s (s.countSat n k).1 := by
  unfold Hw.countSat
  split
  · exact refl s
  · exact (refl s).bump F.NUM_SATURATED_COUNT n k

/-- Writes into memory without errors. -/
theorem of_writeAddrs (h : s.mem.syn = []) (c : Sparse Byte) : MapKept s (s.writeAddrs c) := by
  obtain ⟨_, hchans⟩ := Quiet.of_writeAddrs s c (.of_clean h)
  exact of_memWork (.of_writeAddrs s c) hchans

end MapKept

end Sys2Proof.Machine
end

section
/-!
PROOFS. What is read back of a run of bytes written at device addresses, where no word of memory has an error and nothing discards the write
(R308, R353, R400, R446).
-/
namespace Sys2Proof.Machine

/-! ### Cells that spell a run of bytes -/

/-- The cells are those of the run bs from a on, in any order. -/
structure Spells (c : Sparse Byte) (a : Nat) (bs : List Byte) : Prop where
  only : ∀ e ∈ c, ∃ i, ∃ h : i < bs.length, e = (a + i, bs[i])
  all : ∀ i < bs.length, ∃ e ∈ c, e.1 = a + i

theorem Sparse.mem_foldl_set {l m : Sparse Byte} {e : Nat × Byte} (h : e ∈ l.foldl (fun m e => Sparse.set m e.1 e.2) m) : e ∈ m ∨ e ∈ l := by
  induction l generalizing m with
  | nil => exact .inl h
  | cons x l ih =>
    rcases ih h with hm | hl
    · rcases Sparse.mem_set m x.1 x.2 e hm with rfl | hm
      · exact .inr List.mem_cons_self
      · exact .inl hm
    · exact .inr (List.mem_cons_of_mem _ hl)

/-- A key is listed exactly where a lookup finds it. -/
theorem Sparse.listed_iff {m : Sparse Byte} {k : Nat} : (∃ e ∈ m, e.1 = k) ↔ (Sparse.find? m k).isSome = true := by
  induction m with
  | nil => simp
  | cons e m ih =>
    by_cases he : e.1 = k
    · simp [Sparse.find?, he]
    · simp [Sparse.find?, he, ← ih]

theorem Sparse.listed_foldl_set {l m : Sparse Byte} {k : Nat} (h : (∃ e ∈ m, e.1 = k) ∨ ∃ e ∈ l, e.1 = k) :
    ∃ e ∈ l.foldl (fun m e => Sparse.set m e.1 e.2) m, e.1 = k := by
  induction l generalizing m with
  | nil => simpa using h
  | cons x l ih =>
    refine ih ?_
    by_cases hx : x.1 = k
    · exact .inl (Sparse.listed_iff.2 (by rw [Sparse.find?_set, if_pos hx]; rfl))
    · refine h.imp (fun hm => Sparse.listed_iff.2 (by rw [Sparse.find?_set, if_neg hx]; exact Sparse.listed_iff.1 hm)) ?_
      rintro ⟨e, he, rfl⟩
      exact ⟨e, (List.mem_cons.1 he).resolve_left (fun h => hx (by rw [h])), rfl⟩

namespace Spells

variable {c : Sparse Byte} {a : Nat} {bs : List Byte}

theorem of_runCells (a : Nat) (bs : List Byte) : Spells (runCells a bs) a bs where
  only := fun e he => by
    unfold runCells at he
    obtain ⟨p, hp, rfl⟩ := List.mem_map.1 he
    obtain ⟨i, hi, rfl⟩ := List.mem_iff_getElem.1 hp
    simp only [List.length_zip, List.length_range, Nat.min_self] at hi
    exact ⟨i, hi, by simp⟩
  all := fun i hi => by
    refine ⟨(a + i, bs[i]), List.mem_map.2 ⟨(i, bs[i]), List.mem_iff_getElem.2 ⟨i, by simpa using hi, by simp⟩, rfl⟩, rfl⟩

theorem of_singleton (a : Nat) (b : Byte) : Spells [(a, b)] a [b] where
  only := fun e he => ⟨0, by simp, by simpa using he⟩
  all := fun i hi => ⟨(a, b), by simp, by simp at hi; omega⟩

/-- Listed in a map, one after another. -/
theorem foldl_set (h : Spells c a bs) : Spells (c.foldl (fun m e => Sparse.set m e.1 e.2) []) a bs where
  only := fun e he => h.only e ((Sparse.mem_foldl_set he).resolve_left List.not_mem_nil)
  all := fun i hi => Sparse.listed_foldl_set (.inr (h.all i hi))

/-- The same run under other keys. -/
theorem rekey (h : Spells c a bs) (k : Nat) : Spells (c.map (fun e => (k + (e.1 - a), e.2))) k bs where
  only := fun e he => by
    obtain ⟨x, hx, rfl⟩ := List.mem_map.1 he
    obtain ⟨i, hi, rfl⟩ := h.only x hx
    exact ⟨i, hi, by simp⟩
  all := fun i hi => by
    obtain ⟨e, he, hk⟩ := h.all i hi
    exact ⟨_, List.mem_map_of_mem he, by simp [hk]⟩

/-- Written byte by byte, the run is read. -/
theorem byte (h : Spells c a bs) (m : Mem) {i : Nat} (hi : i < bs.length) :
    (c.foldl (fun m e => m.putByte e.1 e.2) m).byte (a + i) = bs[i] := by
  refine Mem.byte_foldl_putByte (fun e : Nat × Byte => e.1) (fun e => e.2) _ _ _ _ (fun e he hk => ?_) (.inr (h.all i hi))
  obtain ⟨j, hj, rfl⟩ := h.only e he
  simp only [Nat.add_left_cancel_iff] at hk
  simp only [hk]

end Spells

/-! ### Writes at memory keys -/

/-- R308: a write of a word meets nothing where no word has an error. -/
theorem Mem.writeWord_clean {m : Mem} (h : m.syn = []) (w : Nat) (bs : List (Nat × Byte)) :
    m.writeWord w bs = (bs.foldl (fun m b => m.putByte (w * 8 + b.1) b.2) m, false, false) := by
  have hput : (bs.foldl (fun m b => m.putByte (w * 8 + b.1) b.2) m).syn = [] :=
    (Mem.syn_foldl_putByte (fun b : Nat × Byte => w * 8 + b.1) (fun b => b.2) bs m).trans h
  have hword : m.syndrome w = .clean := by
    unfold Mem.syndrome
    rw [h]
    rfl
  unfold Mem.writeWord
  simp only [hword]
  split
  · generalize bs.foldl (fun m b => m.putByte (w * 8 + b.1) b.2) m = v at hput
    have hclear : v.putSyn w 0 = v := by
      unfold Mem.putSyn
      rw [hput, show Sparse.put 0 [] w (BitVec.ofNat 8 0) = ([] : Sparse (BitVec 8)) from rfl, ← hput]
    rw [hclear]
  · rfl

/-- The words of a list of cells, byte by byte, are its cells. -/
theorem foldl_groupWords (c : Sparse Byte) : ∀ m : Mem,
    (groupWords c).foldl (fun m g => g.2.foldl (fun m b => m.putByte (g.1 * 8 + b.1) b.2) m) m = c.foldl (fun m e => m.putByte e.1 e.2) m := by
  induction c with
  | nil => exact fun _ => rfl
  | cons e c ih =>
    obtain ⟨k, b⟩ := e
    intro m
    have hk : k / 8 * 8 + k % 8 = k := by omega
    rw [List.foldl_cons, ← ih, groupWords]
    split
    · next hg =>
      rw [hg]
      split
      · next hw => simp only [List.foldl_cons, ← hw, hk]
      · simp only [List.foldl_cons, List.foldl_nil, hk]
    · next hg =>
      rw [hg]
      simp only [List.foldl_cons, List.foldl_nil, hk]

/-- Cells written where no word has an error are written as they are. -/
theorem Hw.writeKeys_mem {s : Hw} (h : s.mem.syn = []) (c : Sparse Byte) :
    (s.writeKeys c).mem = c.foldl (fun m e => m.putByte e.1 e.2) s.mem := by
  have hmerge : s.mergeAtoms (groupWords c) = (s, []) := by
    unfold Hw.mergeAtoms
    rw [h]
    rfl
  have hwords : ∀ (l : List (Nat × List (Nat × Byte))) (v : Hw), v.mem.syn = [] →
      (l.foldl (fun s g => (({ s with mem := (s.mem.writeWord g.1 g.2).1 } : Hw).countMerge g.1 (s.mem.writeWord g.1 g.2).2.1
        (s.mem.writeWord g.1 g.2).2.2).takeForwarded g.1 (g.2.length != 8)) v).mem =
      l.foldl (fun m g => g.2.foldl (fun m b => m.putByte (g.1 * 8 + b.1) b.2) m) v.mem := fun l => by
    induction l with
    | nil => exact fun _ _ => rfl
    | cons g l ih =>
      intro v hv
      have hsyn := Mem.syn_foldl_putByte (fun b : Nat × Byte => g.1 * 8 + b.1) (fun b => b.2) g.2 v.mem
      rw [List.foldl_cons, ih]
      · rw [Hw.takeForwarded_mem, Hw.countMerge_mem, Mem.writeWord_clean hv]
        rfl
      · rw [Hw.takeForwarded_mem, Hw.countMerge_mem, Mem.writeWord_clean hv]
        exact hsyn.trans hv
  unfold Hw.writeKeys
  rw [hmerge]
  exact (hwords _ s h).trans (foldl_groupWords c s.mem)

/-! ### Writes at device addresses -/

/-- A byte written at device address a is stored at key k: the address leads there, and neither a lock nor a re-seed guards it. -/
def Hw.Takes (s : Hw) (a k : Nat) : Prop :=
  s.lockedAt a = false ∧ s.seedGuard k = false ∧ (s.place a = .gddr k ∨ ∃ p o, s.place a = .store k p o)

theorem Hw.takes_of_leadsTo {s : Hw} {a k n : Nat} (hl : LeadsTo s a k n) (hu : Unguarded s a k n) {i : Nat} (hi : i < n) :
    s.Takes (a + i) (k + i) := by
  obtain ⟨_, hlock, hseed⟩ := hu i hi
  exact ⟨hlock, hseed, hl i hi⟩

theorem Hw.Takes.kept {s t : Hw} {a k : Nat} (h : s.Takes a k) (hm : MapKept s t) : t.Takes a k := by
  unfold Hw.Takes
  rw [hm.lockedAt, hm.seedGuard, hm.place]
  exact h

theorem Hw.Takes.peek {s : Hw} {a k : Nat} (h : s.Takes a k) : s.peek a = s.mem.goodByte k := by
  obtain ⟨_, _, hp | ⟨p, o, hp⟩⟩ := h <;> simp only [Hw.peek, hp]

theorem Hw.writeStep_takes {r : Hw × Sparse Byte} {e : Nat × Byte} {k : Nat} (h : r.1.Takes e.1 k) :
    Hw.writeStep r e = (r.1, Sparse.set r.2 k e.2) := by
  obtain ⟨_, hseed, hp | ⟨p, o, hp⟩⟩ := h
  · simp only [Hw.writeStep, hp, hseed, Bool.false_eq_true, if_false]
  · simp only [Hw.writeStep, hp]

theorem Hw.foldl_writeStep_takes {s : Hw} (key : Nat → Nat) (c : Sparse Byte) : (∀ e ∈ c, s.Takes e.1 (key e.1)) → ∀ m : Sparse Byte,
    c.foldl Hw.writeStep (s, m) = (s, (c.map (fun e => (key e.1, e.2))).foldl (fun m e => Sparse.set m e.1 e.2) m) := by
  induction c with
  | nil => exact fun _ _ => rfl
  | cons e c ih =>
    intro h m
    rw [List.foldl_cons, Hw.writeStep_takes (r := (s, m)) (h e List.mem_cons_self), ih (fun x hx => h x (List.mem_cons_of_mem _ hx))]
    rfl

/-- R353, R400, R446: where every byte is taken, nothing is discarded. -/
theorem Hw.writeAddrs_mem {s : Hw} (hc : Clean s) (key : Nat → Nat) {c : Sparse Byte} (h : ∀ e ∈ c, s.Takes e.1 (key e.1)) :
    (s.writeAddrs c).mem = ((c.map (fun e => (key e.1, e.2))).foldl (fun m e => Sparse.set m e.1 e.2) []).foldl
      (fun m e => m.putByte e.1 e.2) s.mem := by
  have hhit : (if s.flag F.PAT_STATUS_LOCKED || s.pat.sec.isSome then (List.find? (fun e => s.lockedAt e.1) c).map (·.1) else none) = none := by
    have hfind : List.find? (fun e => s.lockedAt e.1) c = none := List.find?_eq_none.2 fun e he => by rw [(h e he).1]; exact Bool.false_ne_true
    rw [hfind]
    split <;> rfl
  have hfold : c.foldl Hw.writeStep (s, []) = _ := Hw.foldl_writeStep_takes key c h []
  unfold Hw.writeAddrs
  rw [hhit]
  simp only [Option.isSome_none, Bool.false_eq_true, if_false, hc.2, List.isEmpty_nil, if_true, List.foldl_nil]
  rw [Hw.noteMirror_mem]
  change ((c.foldl Hw.writeStep (s, [])).1.writeKeys (c.foldl Hw.writeStep (s, [])).2).mem = _
  rw [hfold]
  exact Hw.writeKeys_mem hc.1 _

/-- A run of bytes that is written and taken is read back. -/
theorem Hw.peekRun_writeAddrs {s : Hw} (hc : Clean s) {c : Sparse Byte} {a k : Nat} {bs : List Byte} (hs : Spells c a bs)
    (h : ∀ i < bs.length, s.Takes (a + i) (k + i)) : (s.writeAddrs c).peekRun a bs.length = bs := by
  have hmem := Hw.writeAddrs_mem hc (fun x => k + (x - a)) (c := c) fun e he => by
    obtain ⟨i, hi, rfl⟩ := hs.only e he
    simpa using h i hi
  refine List.ext_getElem (by simp [Hw.peekRun]) fun i hi _ => ?_
  have hi : i < bs.length := by simpa [Hw.peekRun] using hi
  have hgood : Sparse.get 0 (s.writeAddrs c).mem.syn ((k + i) / 8) = 0 := by
    rw [hmem, Mem.syn_foldl_putByte (fun e : Nat × Byte => e.1) (fun e => e.2), hc.1]
    rfl
  calc ((s.writeAddrs c).peekRun a bs.length)[i]
      = (s.writeAddrs c).peek (a + i) := by simp [Hw.peekRun]
    _ = (s.writeAddrs c).mem.goodByte (k + i) := ((h i hi).kept (.of_writeAddrs hc.1 c)).peek
    _ = (s.writeAddrs c).mem.byte (k + i) := Mem.goodByte_of_good hgood
    _ = bs[i] := by rw [hmem]; exact (hs.rekey k).foldl_set.byte s.mem hi

end Sys2Proof.Machine
end

section
/-!
PROOFS. The first element of an unscaled operand: where it lies, and what is read of it once a value has been written there (R76, R77, R99,
R202).
-/
namespace Sys2Proof.Machine

theorem length_toBytes (n x : Nat) : (toBytes n x).length = n := by
  induction n generalizing x with
  | zero => rfl
  | succ n ih => simp [toBytes, ih]

/-- R6: the number that the n low bytes of a number spell. -/
theorem ofBytes_toBytes (n x : Nat) : ofBytes (toBytes n x) = x % 256 ^ n := by
  induction n generalizing x with
  | zero => simp [toBytes, ofBytes, Nat.mod_one]
  | succ n ih =>
    have hbyte : x % 256 % 2 ^ 8 = x % 256 := by omega
    simp only [toBytes, ofBytes, ih, BitVec.toNat_ofNat, hbyte]
    rw [Nat.pow_succ', Nat.mod_mul]

/-- R76: an element is a nibble or whole bytes. -/
theorem fmtBits_cases (f : Nat) : fmtBits f = 4 ∨ 8 ∣ fmtBits f := by
  unfold fmtBits
  split <;> decide

/-! ### Where it lies -/

theorem Desc.elemOff_first (d : Record64) : Desc.elemOff d [0] = 0 := by simp [Desc.elemOff]

theorem elemPlace_zero (addr : Nat) (d : Record64) : elemPlace addr d 0 = (addr, false) := by simp [elemPlace]

/-- The second nibble of the first byte. -/
theorem elemPlace_one {d : Record64} (h : fmtBits (Desc.format d) = 4) (addr : Nat) : elemPlace addr d 1 = (addr, true) := by
  simp [elemPlace, h, show (4 : Int).fdiv 8 = 0 from rfl]

theorem Opnd.byteAt_first (o : Opnd) : o.byteAt [0] = o.addr := by
  rw [Opnd.byteAt, Desc.elemOff_first, elemPlace_zero]

theorem linear_first (shape : List Nat) : linear shape [0] = 0 := by
  cases shape with
  | nil => rfl
  | cons n l => simp [linear]

/-! ### Reading it -/

theorem Opnd.raw_first_nibble {o : Opnd} (h : fmtBits o.fmt = 4) (s : Hw) : o.raw s [0] = bits (s.peek o.addr).toNat 0 4 := by
  unfold Opnd.raw Hw.rawElem
  rw [Desc.elemOff_first, elemPlace_zero]
  simp only [show fmtBits (Desc.format o.img) = 4 from h]
  rfl

theorem Opnd.raw_first_bytes {o : Opnd} {n : Nat} (h : fmtBits o.fmt = 8 * n) (s : Hw) : o.raw s [0] = ofBytes (s.peekRun o.addr n) := by
  unfold Opnd.raw Hw.rawElem
  rw [Desc.elemOff_first, elemPlace_zero]
  simp only [show fmtBits (Desc.format o.img) = 8 * n from h]
  split
  · omega
  · rw [Nat.mul_div_cancel_left n (by decide)]

/-- What an operand reads depends on memory as a reader gets it. -/
theorem Hw.rawElem_congr {s t : Hw} (h : ∀ a, t.peek a = s.peek a) (addr : Nat) (d : Record64) (off : Int) :
    t.rawElem addr d off = s.rawElem addr d off := by
  unfold Hw.rawElem Hw.peekRun
  simp only [h]

theorem Opnd.readVal_congr {s t : Hw} (h : ∀ a, t.peek a = s.peek a) (o : Opnd) (idx : List Nat) : o.readVal t idx = o.readVal s idx := by
  unfold Opnd.readVal Opnd.value Opnd.code Opnd.raw
  simp only [Hw.rawElem_congr h]

theorem operandAt_congr {s t : Hw} (h : ∀ a, t.peek a = s.peek a) (x : Cmd) (i : Nat) (ds idx : List Nat) :
    operandAt t x i ds idx = operandAt s x i ds idx := by
  unfold operandAt
  simp only [Opnd.readVal_congr h]

/-! ### Writing it -/

/-- The bytes in which pattern p is put as the first element of o, with the nibble beside it where that is not used (R77). -/
def Hw.firstCells (s : Hw) (o : Opnd) (p : Nat) : Sparse Byte := padNibble s (s.putElem [] o.addr o.img 0 p) o [0]

/-- R77: the nibble beside an element is left, or written as zero. -/
theorem padNibble_cases (s : Hw) (c : Sparse Byte) (o : Opnd) (idx : List Int) : padNibble s c o idx = c ∨
    (fmtBits o.fmt = 4 ∧ padNibble s c o idx = s.putElem c o.addr o.img (Desc.elemOff o.img idx + 1) 0) := by
  unfold padNibble
  extract_lets last n
  split
  · next h =>
    simp only [Bool.and_eq_true, decide_eq_true_eq] at h
    exact .inr ⟨h.1.1, rfl⟩
  · exact .inl rfl

theorem Hw.firstCells_bytes (s : Hw) {o : Opnd} {n : Nat} (h : fmtBits o.fmt = 8 * n) (p : Nat) :
    Spells (s.firstCells o p) o.addr (toBytes n p) := by
  have hput : s.putElem [] o.addr o.img 0 p = (runCells o.addr (toBytes n p)).foldl (fun m e => Sparse.set m e.1 e.2) [] := by
    unfold Hw.putElem
    rw [elemPlace_zero]
    simp only [show fmtBits (Desc.format o.img) = 8 * n from h]
    split
    · omega
    · rw [Nat.mul_div_cancel_left n (by decide)]
  unfold Hw.firstCells
  rcases padNibble_cases s (s.putElem [] o.addr o.img 0 p) o [0] with hpad | ⟨h4, _⟩
  · rw [hpad, hput]
    exact (Spells.of_runCells _ _).foldl_set
  · omega

/-- A nibble put at a place takes the other one from the byte gathered so far, or from memory. -/
theorem Hw.putElem_nibble (s : Hw) {d : Record64} (h : fmtBits (Desc.format d) = 4) (c : Sparse Byte) {addr a : Nat} {off : Int} {high : Bool}
    (hplace : elemPlace addr d off = (a, high)) (p : Nat) : s.putElem c addr d off p =
      Sparse.set c a (BitVec.ofNat 8 (setBits ((Sparse.find? c a).getD (s.peek a)).toNat (if high then 4 else 0) 4 p)) := by
  unfold Hw.putElem
  rw [hplace]
  simp only [h]

theorem toNat_setNibble (b : Byte) {lo : Nat} (h : lo ≤ 4) (v : Nat) : (BitVec.ofNat 8 (setBits b.toNat lo 4 v)).toNat = setBits b.toNat lo 4 v := by
  rw [BitVec.toNat_ofNat, Nat.mod_eq_of_lt (setBits_lt b.toNat lo 4 v 8 b.isLt (by omega))]

theorem Hw.firstCells_nibble (s : Hw) {o : Opnd} (h : fmtBits o.fmt = 4) (p : Nat) :
    ∃ b : Byte, s.firstCells o p = [(o.addr, b)] ∧ bits b.toNat 0 4 = p % 2 ^ 4 := by
  have hput : ∃ b : Byte, s.putElem [] o.addr o.img 0 p = [(o.addr, b)] ∧ bits b.toNat 0 4 = p % 2 ^ 4 := by
    refine ⟨_, s.putElem_nibble h [] (elemPlace_zero _ _) p, ?_⟩
    rw [toNat_setNibble _ (by decide)]
    exact bits_setBits_self _ _ _ _
  obtain ⟨b, hput, hb⟩ := hput
  unfold Hw.firstCells
  rw [hput]
  rcases padNibble_cases s [(o.addr, b)] o [0] with hpad | ⟨_, hpad⟩
  · exact ⟨b, hpad, hb⟩
  · rw [Desc.elemOff_first, Int.zero_add, s.putElem_nibble h _ (elemPlace_one h _)] at hpad
    refine ⟨_, hpad.trans (by simp only [Sparse.set, if_true]; rfl), ?_⟩
    rw [toNat_setNibble _ (by decide), bits_setBits_other _ _ _ _ _ _ (by decide)]
    simpa [Sparse.find?] using hb

/-- The bytes put spell the pattern, cut to the element's bits, to whoever reads them. -/
theorem Opnd.raw_of_firstCells {s t : Hw} {o : Opnd} {p k : Nat} (hc : Clean s)
    (htake : ∀ i < (fmtBits o.fmt + 7) / 8, s.Takes (o.addr + i) (k + i)) (ht : ∀ a, t.peek a = (s.writeAddrs (s.firstCells o p)).peek a) :
    o.raw t [0] = p % 2 ^ fmtBits o.fmt := by
  have hread : o.raw t [0] = o.raw (s.writeAddrs (s.firstCells o p)) [0] := Hw.rawElem_congr ht _ _ _
  rw [hread]
  rcases fmtBits_cases o.fmt with h | ⟨n, h⟩
  · obtain ⟨b, hcells, hb⟩ := s.firstCells_nibble h p
    have hrun := Hw.peekRun_writeAddrs hc (c := s.firstCells o p) (a := o.addr) (k := k) (bs := [b]) (hcells ▸ .of_singleton _ _)
      fun i hi => htake i (by rw [h]; simpa using hi)
    have hpeek : (s.writeAddrs (s.firstCells o p)).peek o.addr = b := by simpa [Hw.peekRun] using hrun
    rw [Opnd.raw_first_nibble h, hpeek, hb, h]
  · have hrun := Hw.peekRun_writeAddrs hc (k := k) (s.firstCells_bytes h p)
      fun i hi => htake i (by rw [length_toBytes] at hi; omega)
    rw [length_toBytes] at hrun
    rw [Opnd.raw_first_bytes h, hrun, ofBytes_toBytes, h, Nat.pow_mul]

/-- R99: a value written to the first element of an unscaled destination is cast to its format. -/
theorem Hw.writeElems_first {s : Hw} {o : Opnd} (h : o.scaled = false) (w : Writer) (v : FVal) :
    (s.writeElems o w [([0], v)]).1 = s.writeAddrs (s.firstCells o (castElem o.fmt (w.rnd o.fmt 0) w.sat v).1) := by
  unfold Hw.writeElems Hw.plainCells Hw.firstCells
  simp only [h, Bool.false_eq_true, if_false, List.foldl_cons, List.foldl_nil, linear_first, List.map_cons, List.map_nil, Int.ofNat_eq_natCast,
    Nat.cast_zero, Desc.elemOff_first]

theorem MapKept.of_writeElems_first {s : Hw} (hs : s.mem.syn = []) {o : Opnd} (h : o.scaled = false) (w : Writer) (v : FVal) :
    MapKept s (s.writeElems o w [([0], v)]).1 := by
  rw [Hw.writeElems_first h]
  exact .of_writeAddrs hs _

end Sys2Proof.Machine
end

section
/-!
PROOFS. EW, CAST and ROW with a destination of one element (R174, R178, R180, R190).
-/
namespace Sys2Proof.Machine

/-! ### What a Finisher command leaves besides its elements -/

theorem Hw.touch_mem (s : Hw) (k : Nat) (o : Opnd) : (s.touch k o).mem = s.mem := by
  unfold Hw.touch
  simp only
  split
  · rfl
  · split
    · rfl
    · split <;> rfl

theorem Hw.countSat_mem (s : Hw) (n k : Nat) : (s.countSat n k).1.mem = s.mem := by
  unfold Hw.countSat
  split
  · rfl
  · exact Hw.bump_mem _ _ _ _

theorem Hw.fly_mem (s : Hw) (x : Cmd) (stage : Stage) (unit : UnitUse) : (s.fly x stage unit).mem = s.mem := by
  unfold Hw.fly
  split
  · rfl
  · exact Hw.setCtxOn_mem _ _ _ _

theorem Hw.writeHalo_of_not_padWrite (s : Hw) {o : Opnd} (h : Desc.padWrite o.img = false) : s.writeHalo o = s :=
  if_neg (by rw [h]; exact Bool.false_ne_true)

/-- Where no halo is written, finishing a command changes neither memory nor the address map. -/
theorem Hw.finish_kept (s : Hw) {x : Cmd} (hpad : ∀ p ∈ x.named, isDst (roleAt x.w p.1) = true → Desc.padWrite p.2.img = false) (sat rows : Nat) :
    MapKept s (s.finish x sat rows).1 ∧ (s.finish x sat rows).1.mem = s.mem := by
  have hdests : ∀ l : List (Nat × Opnd), (∀ p ∈ l, Desc.padWrite p.2.img = false) → ∀ v : Hw,
      l.foldl (fun s p => (s.writeHalo p.2).touch x.t p.2) v = l.foldl (fun s p => s.touch x.t p.2) v := fun l => by
    induction l with
    | nil => exact fun _ _ => rfl
    | cons p l ih =>
      intro h v
      rw [List.foldl_cons, v.writeHalo_of_not_padWrite (h p List.mem_cons_self)]
      exact ih (fun q hq => h q (List.mem_cons_of_mem _ hq)) _
  unfold Hw.finish
  extract_lets dsts s1 els atoms s2
  have hs1 : s1 = dsts.foldl (fun s p => s.touch x.t p.2) s := hdests dsts
    (fun p hp => hpad p (List.mem_filter.1 hp).1 (List.mem_filter.1 hp).2) s
  have h1 : MapKept s s1 := hs1 ▸ MapKept.foldl _ (fun v p => .of_touch v _ _) _ s
  have hmem : s1.mem = s.mem := hs1 ▸ Hw.foldl_mem (fun s (p : Nat × Opnd) => s.touch x.t p.2) (fun v p => v.touch_mem _ _) dsts s
  have h2 : MapKept s s2 := ((h1.bump F.FIN_ELEMENTS_COUNT _ _).bump F.FIN_ROWS_COUNT _ _).bump F.FIN_STASH_ATOMS_COUNT _ _
  have hmem2 : s2.mem = s1.mem := by simp only [s2, Hw.bump_mem]
  exact ⟨h2.trans (.of_countSat _ _ _), (s2.countSat_mem _ _).trans (hmem2.trans hmem)⟩

theorem Cmd.mem_named {x : Cmd} {p : Nat × Opnd} (h : p ∈ x.named) : p.2 = x.o p.1 ∧ x.has p.1 = true := by
  obtain ⟨i, _, hi⟩ := List.mem_filterMap.1 h
  obtain ⟨o, ho, rfl⟩ := Option.map_eq_some_iff.1 hi
  simp [Cmd.o, Cmd.has, ho]

/-- R240: the destination of a ROW or a CAST is its first operand. -/
theorem roleAt_row_cast {w : Record64} (h : Com.opcode w = 0x31 ∨ Com.opcode w = 0x34) {i : Nat} (hi : isDst (roleAt w i) = true) : i = 0 := by
  have hroles : roles w = [.dst, .src] := by
    unfold roles
    rcases h with h | h <;> simp only [h]
  unfold roleAt at hi
  rw [hroles] at hi
  rcases i with _ | _ | i
  · rfl
  · exact absurd hi (by decide)
  · exact absurd hi (by simp [nth, isDst])

/-- R240: an EW has its destination first, and for SAVE one at position 4. -/
theorem roleAt_ew {w : Record64} (h : Com.opcode w = 0x30) {i : Nat} (hi : isDst (roleAt w i) = true) : i = 0 ∨ i = 4 := by
  have hval : ∀ b : Bool, isDst (if b then Role.val else .no) = false := by decide
  unfold roleAt roles at hi
  simp only [h] at hi
  rcases i with _ | _ | _ | _ | _ | i
  · exact .inl rfl
  · exact absurd hi Bool.false_ne_true
  · simp [nth, hval] at hi
  · simp [nth, hval] at hi
  · exact .inr rfl
  · exact absurd hi (by simp [nth, isDst])

/-! ### A Finisher command that runs -/

/-- The opcodes of the Finisher's commands. -/
def finisherOps : List Nat := [0x30, 0x31, 0x32, 0x33, 0x34, 0x35]

/-- R63: a Finisher command needs no carry area. -/
theorem Hw.carryMissing_finisher {s : Hw} {k q op : Nat} {h : Head} (hr : Ready s k q op h) (hop : op ∈ finisherOps) :
    (s.taken k q h).carryMissing (s.cmdAt k q h) = false := by
  have hcode : Com.opcode (s.cmdAt k q h).w = op := hr.2.1
  have hformat : formatOk (s.cmdAt k q h).w = true := hr.formatOk
  have hclass : Com.cls (s.cmdAt k q h).w + 1 = op / 16 := by
    unfold formatOk at hformat
    simp only [Bool.and_eq_true, beq_iff_eq, hcode] at hformat
    tauto
  have hfin : ∀ o ∈ finisherOps, o / 16 = 3 ∧ usesMerge o = false := by decide
  obtain ⟨h3, hmerge⟩ := hfin op hop
  have h2 : Com.cls (s.cmdAt k q h).w = 2 := by omega
  simp [Hw.carryMissing, h2, hcode, hmerge]

/-- R242: a Finisher command that issues and passes its checks runs, and meets no dross where there is none. -/
theorem Hw.finisher_runs {s : Hw} {k q op : Nat} {h : Head} (hc : Clean s) (hr : Ready s k q op h) (hop : op ∈ finisherOps) {check : Cmd → Nat}
    (hformat : finFormatOk (s.cmdAt k q h) = true) (hrow : op ≠ 0x31 → rowLen ((s.cmdAt k q h).o 0).writeShape ≤ 262_144)
    (hcheck : check (s.cmdAt k q h) = 0) (run : Hw → Cmd → Hw × Nat) :
    s.finisher k q op check run =
      (run (s.taken k q h) (s.cmdAt k q h)).1.done (s.cmdAt k q h) (run (s.taken k q h) (s.cmdAt k q h)).2 := by
  obtain ⟨hclean, _, _, _⟩ := s.taken_clean hc k q h
  have hlong : (op != 0x31 && decide (262_144 < rowLen ((s.cmdAt k q h).o 0).writeShape)) = false := by
    rcases eq_or_ne op 0x31 with rfl | hne
    · rfl
    · simp [Nat.not_lt.2 (hrow hne)]
  unfold Hw.finisher Hw.unitCommand
  rw [Hw.unitRun_runs hr (Hw.carryMissing_finisher hr hop)]
  · unfold Hw.consuming
    simp only [Hw.consumeBy_clean hclean.1 hclean.2]
  · simp only [hformat, hlong, hcheck, Bool.not_true, Bool.false_eq_true, if_false]

/-! ### Its one element -/

/-- The destination of command x is one unscaled element without a halo, whose bytes lead to the memory keys from key on, and nothing discards
a write of them. -/
structure WritesOne (s : Hw) (x : Cmd) (key : Nat) : Prop where
  format : finFormatOk x = true
  shape : (x.o 0).writeShape = [1]
  scaled : (x.o 0).scaled = false
  halo : Desc.padWrite (x.o 0).img = false
  leads : LeadsTo s ((x.o 0).byteAt [0]) key ((fmtBits (x.o 0).fmt + 7) / 8)
  opens : Unguarded s ((x.o 0).byteAt [0]) key ((fmtBits (x.o 0).fmt + 7) / 8)

/-- R99: the pattern of the value v in the destination's format. -/
def Cmd.castFirst (x : Cmd) (v : FVal) : Nat :=
  (castElem (x.o 0).fmt (x.wr.rnd (x.o 0).fmt 0) x.wr.sat v).1 % 2 ^ fmtBits (x.o 0).fmt

section

variable {s : Hw} {k q key op : Nat} {h : Head}

/-- R206: an EW without SAVE, a ROW or a CAST whose destination asks for no halo writes none. -/
theorem WritesOne.no_halo {x : Cmd} (h1 : WritesOne s x key) (hop : Com.opcode x.w ∈ [0x30, 0x31, 0x34])
    (h4 : Com.opcode x.w = 0x30 → x.has 4 = false) : ∀ p ∈ x.named, isDst (roleAt x.w p.1) = true → Desc.padWrite p.2.img = false := by
  intro p hp hdst
  obtain ⟨ho, hhas⟩ := Cmd.mem_named hp
  have hfirst : p.1 = 0 := by
    simp only [List.mem_cons, List.not_mem_nil, or_false] at hop
    rcases hop with hew | hop
    · exact (roleAt_ew hew hdst).resolve_right fun he => by rw [he, h4 hew] at hhas; cases hhas
    · exact roleAt_row_cast hop hdst
  rw [ho, hfirst]
  exact h1.halo

/-- A reader gets the same bytes once a command has been taken. -/
theorem Hw.taken_peek (hc : Clean s) (a : Nat) : (s.taken k q h).peek a = s.peek a := by
  obtain ⟨_, hmem, _, _⟩ := s.taken_clean hc k q h
  exact (MapKept.of_taken hc k q h).peek hmem a

/-- What is read of the destination after a Finisher command whose run has written the value v to its one element. -/
theorem Hw.finisher_result (hc : Clean s) (hr : Ready s k q op h) (hop : op ∈ [0x30, 0x31, 0x34]) (h1 : WritesOne s (s.cmdAt k q h) key)
    (h4 : op = 0x30 → (s.cmdAt k q h).has 4 = false) {check : Cmd → Nat} (hcheck : check (s.cmdAt k q h) = 0) {run : Hw → Cmd → Hw × Nat}
    {v : FVal} {sat rows : Nat} (hrun : run (s.taken k q h) (s.cmdAt k q h) =
      ((s.taken k q h).writeElems ((s.cmdAt k q h).o 0) (s.cmdAt k q h).wr [([0], v)]).1.finish (s.cmdAt k q h) sat rows) :
    ((s.cmdAt k q h).o 0).raw (s.finisher k q op check run) [0] = (s.cmdAt k q h).castFirst v := by
  have hcode : Com.opcode (s.cmdAt k q h).w = op := hr.2.1
  have hhalo := h1.no_halo (hcode ▸ hop) (hcode ▸ h4)
  have htaken := MapKept.of_taken hc k q h
  obtain ⟨hclean, _, _, _⟩ := s.taken_clean hc k q h
  have hfin : [0x30, 0x31, 0x34] ⊆ finisherOps := by decide
  rw [Hw.finisher_runs hc hr (hfin hop) h1.format (fun _ => by rw [h1.shape]; decide) hcheck, hrun]
  generalize s.cmdAt k q h = x at h1 hhalo
  generalize s.taken k q h = s1 at htaken hclean
  have hread : ∀ u : Hw, ∀ a, ((u.finish x sat rows).1.done x (u.finish x sat rows).2).peek a = u.peek a := fun u => by
    obtain ⟨hkept, hmem⟩ := u.finish_kept hhalo sat rows
    exact (hkept.trans (.of_fly _ _ _ _)).peek ((Hw.fly_mem _ _ _ _).trans hmem)
  refine Opnd.raw_of_firstCells hclean (k := key) (fun i hi => ?_) fun a => ?_
  · have hleads := h1.leads
    have hopens := h1.opens
    rw [Opnd.byteAt_first] at hleads hopens
    exact (Hw.takes_of_leadsTo hleads hopens hi).kept htaken
  · rw [← Hw.writeElems_first h1.scaled, hread]

end

/-! ### EW, CAST and ROW -/

/-- R178: the result of an EW for the destination index idx. -/
def Hw.ewAt (s : Hw) (x : Cmd) (ds idx : List Nat) : FVal :=
  ewValue x.w (operandAt s x 1 ds idx) (if ewUsesB (ewOp x.w) then operandAt s x 2 ds idx else .zero false)
    (if ewUsesC (ewOp x.w) then operandAt s x 3 ds idx else .zero false)

theorem Hw.ewAt_congr {s t : Hw} (h : ∀ a, t.peek a = s.peek a) (x : Cmd) (ds idx : List Nat) : t.ewAt x ds idx = s.ewAt x ds idx := by
  unfold Hw.ewAt
  simp only [operandAt_congr h]

theorem rowsOf_vector (n : Nat) : rowsOf [n] = [[]] := rfl
theorem rowLen_vector (n : Nat) : rowLen [n] = n := rfl
theorem groupsOf_one : groupsOf 1 = [[0]] := by decide

theorem Hw.runEw_one (s : Hw) {x : Cmd} (hshape : (x.o 0).writeShape = [1]) (h4 : x.has 4 = false) : ∃ sat,
    s.runEw x = (s.writeElems (x.o 0) x.wr [([0], s.ewAt x [1] [0])]).1.finish x sat 0 := by
  unfold Hw.runEw
  simp only [hshape, h4, rowsOf_vector, rowLen_vector, groupsOf_one, List.foldl_cons, List.foldl_nil, List.map_cons, List.map_nil, List.nil_append,
    Bool.false_eq_true, if_false]
  exact ⟨_, rfl⟩

theorem Hw.runCast_one (s : Hw) {x : Cmd} (hshape : (x.o 0).writeShape = [1]) : ∃ sat,
    s.runCast x = (s.writeElems (x.o 0) x.wr [([0], (x.o 1).readVal s [0])]).1.finish x sat 0 := by
  unfold Hw.runCast Hw.writePass
  simp only [hshape, rowsOf_vector, rowLen_vector, groupsOf_one, List.foldl_cons, List.foldl_nil, List.map_cons, List.map_nil, List.nil_append]
  exact ⟨_, rfl⟩

theorem Hw.runRow_vector (s : Hw) {x : Cmd} (hscaled : (x.o 0).scaled = false) {n : Nat} (hshape : (x.o 1).readShape = [n]) : ∃ sat,
    s.runRow x = (s.writeElems (x.o 0) x.wr [([0], rowResult (Com.mode x.w 4 4)
      ((List.range n).map (fun i => (x.o 1).readVal s [i])))]).1.finish x sat 1 := by
  unfold Hw.runRow Hw.writeBlocks
  simp only [hshape, hscaled, rowsOf_vector, rowLen_vector, List.foldl_cons, List.foldl_nil, List.nil_append, List.isEmpty_nil, if_true,
    Bool.not_false, List.length_cons, List.length_nil]
  exact ⟨_, rfl⟩

theorem exec_ew (k : Fin 512) (q : Fin 4) (s : State) : exec (.ew k q) s = s.onHw (fun h => h.finisher k q 0x30 ewCheck Hw.runEw) := rfl
theorem exec_row (k : Fin 512) (q : Fin 4) (s : State) : exec (.row k q) s = s.onHw (fun h => h.finisher k q 0x31 rowCheck Hw.runRow) := rfl
theorem exec_cast (k : Fin 512) (q : Fin 4) (s : State) : exec (.cast k q) s = s.onHw (fun h => h.finisher k q 0x34 castCheck Hw.runCast) := rfl

/-- Settles O25: the run writes the one element from operands that read as before the issue, and what comes after it up to the entry in flight
keeps both memory and the address map (`MapKept`). -/
theorem elementResults : Obligations.ElementResults := by
  unfold Obligations.ElementResults
  rintro s k q h _ key - hc rfl hfmt hshape hscaled hhalo hleads hopens
  have h1 : WritesOne s.hw (s.hw.cmdAt k q h) key := ⟨hfmt, hshape, hscaled, hhalo, hleads, hopens⟩
  have hread : ∀ a, (s.hw.taken k q h).peek a = s.hw.peek a := Hw.taken_peek hc
  refine ⟨fun hr hcheck h4 => ?_, fun hr hcheck => ?_, fun n hr hcheck hsrc => ?_⟩
  · obtain ⟨_, hrun⟩ := (s.hw.taken k q h).runEw_one hshape h4
    rw [Hw.ewAt_congr hread] at hrun
    exact .of_onHw _ (exec_ew k q s) (Hw.finisher_result hc hr (by decide) h1 (fun _ => h4) hcheck hrun)
  · obtain ⟨_, hrun⟩ := (s.hw.taken k q h).runCast_one hshape
    rw [Opnd.readVal_congr hread] at hrun
    exact .of_onHw _ (exec_cast k q s) (Hw.finisher_result hc hr (by decide) h1 (fun hop => absurd hop (by decide)) hcheck hrun)
  · obtain ⟨_, hrun⟩ := (s.hw.taken k q h).runRow_vector hscaled hsrc
    simp only [Opnd.readVal_congr hread] at hrun
    exact .of_onHw _ (exec_row k q s) (Hw.finisher_result hc hr (by decide) h1 (fun hop => absurd hop (by decide)) hcheck hrun)

end Sys2Proof.Machine
end

section
/-!
PROOFS. What the runs of the Finisher's commands leave alone (R174 to R191).
-/
namespace Sys2Proof.Machine

namespace UnitWork

variable {s t v : Hw}

/-! ### Destinations -/

/-- Of two ways to go on, each a unit's work, the one that is taken. -/
theorem ite {c : Prop} [Decidable c] (ht : UnitWork s t) (hv : UnitWork s v) : UnitWork s (if c then t else v) := by
  split
  · exact ht
  · exact hv

theorem writeElems (h : UnitWork s t) (o : Opnd) (w : Writer) (els : List (List Nat × FVal)) : UnitWork s (t.writeElems o w els).1 :=
  h.trans (of_writeElems t o w els)

theorem of_writeBlocks (s : Hw) (o : Opnd) (w : Writer) (waits : List (Nat × Reg32)) (els : List (List Nat × FVal)) (last : Bool) :
    UnitWork s (s.writeBlocks o w waits els last).1 := by
  unfold Hw.writeBlocks
  split
  · exact fst_mk _ (of_writeElems s o w els)
  · exact fst_mk _ (of_writeElems s o w _)

theorem of_writePass (s : Hw) (o : Opnd) (w : Writer) (row : List Nat) (f : Hw → List Nat → FVal) : UnitWork s (s.writePass o w row f).1 :=
  foldl_fst _ (fun r _ => fst_mk _ (of_writeElems r.1 o w _)) _ (s, 0)

/-- R193, R206: the halo rings, the touch log and the counters with which a Finisher command ends. -/
theorem finish (h : UnitWork s t) (x : Cmd) (sat rows : Nat) : UnitWork s (t.finish x sat rows).1 := by
  have hdest : ∀ (v : Hw) (p : Nat × Opnd), UnitWork v ((v.writeHalo p.2).touch x.t p.2) := fun v p =>
    (of_writeHalo v p.2).trans (of_touch _ x.t p.2)
  unfold Hw.finish
  extract_lets dsts s1 els atoms s2
  have h1 : UnitWork s s1 := h.trans (foldl _ hdest dsts t)
  have h2 : UnitWork s s2 := ((h1.bump F.FIN_ELEMENTS_COUNT _ _).bump F.FIN_ROWS_COUNT _ _).bump F.FIN_STASH_ATOMS_COUNT _ _
  exact h2.trans (of_countSat s2 x.n sat)

/-! ### Rows -/

theorem of_smaxRow (s : Hw) (x : Cmd) (r : Nat) (row : List Nat) : UnitWork s (s.smaxRow x r row).1 := by
  unfold Hw.smaxRow
  extract_lets ds n idxs mx sum inv empty bad z s1 s2
  have hz : UnitWork s z.1 := of_writePass s _ _ _ _
  have h1 : UnitWork s s1 := (hz.bump F.FIN_SMAX_EMPTY_COUNT _ _).ite ((hz.bump F.FIN_NAN_ROWS_COUNT _ _).ite hz)
  exact fst_mk _ ((h1.writeElems _ _ _).ite h1)

theorem of_smaxBackRow (s : Hw) (x : Cmd) (row : List Nat) : UnitWork s (s.smaxBackRow x row).1 := by
  unfold Hw.smaxBackRow
  exact of_writePass s _ _ _ _

theorem of_normRow (s : Hw) (x : Cmd) (row : List Nat) : UnitWork s (s.normRow x row).1 := by
  unfold Hw.normRow
  extract_lets n rms invN eps xs mu var r bad z s1
  have hz : UnitWork s z.1 := of_writePass s _ _ _ _
  have h1 : UnitWork s s1 := (hz.bump F.FIN_NAN_ROWS_COUNT _ _).ite hz
  exact fst_mk _ (h1.writeElems _ _ _)

/-- R188: a backward row writes dx group by group, and adds what the group gives to dγ and dβ where they are wanted. -/
theorem of_normBackRow (s : Hw) (x : Cmd) (row : List Nat) : UnitWork s (s.normBackRow x row).1 := by
  unfold Hw.normBackRow
  extract_lets n rms invN mu r bad xAt dy gh xh idxs a bb k dx dg db z
  have hz : UnitWork s z.1 := by
    refine foldl_fst _ (fun q g => ?_) _ (s, 0)
    have h0 := (refl q.1).writeElems (x.o 0) x.wr
    have h1 := fun e0 eg => ((h0 e0).writeElems (x.o 5) Writer.plain eg).ite (c := x.has 5 = true) (h0 e0)
    exact fst_mk _ (((h1 _ _).writeElems (x.o 6) Writer.plain _).ite (h1 _ _))
  exact fst_mk _ ((hz.bump F.FIN_NAN_ROWS_COUNT _ _).ite hz)

/-! ### The runs -/

theorem of_runEw (s : Hw) (x : Cmd) : UnitWork s (s.runEw x).1 := by
  refine (foldl_fst _ (fun r row => foldl_fst _ (fun r g => ?_) _ r) _ (s, 0)).finish x _ 0
  have h0 := (refl r.1).writeElems (x.o 0) x.wr
  refine fst_mk _ ?_
  split
  · exact (h0 _).writeElems _ _ _
  · exact h0 _

theorem of_runRow (s : Hw) (x : Cmd) : UnitWork s (s.runRow x).1 :=
  (foldl_fst _ (fun r _ => fst_mk _ (of_writeBlocks r.1 _ _ _ _ _)) _ (s, 0, [])).finish x _ _

theorem of_runSmax (s : Hw) (x : Cmd) : UnitWork s (s.runSmax x).1 := by
  refine (foldl_fst _ (fun r p => fst_mk _ ?_) _ (s, 0)).finish x _ _
  split
  · exact of_smaxBackRow r.1 x p.2
  · exact of_smaxRow r.1 x p.1 p.2

theorem of_runNorm (s : Hw) (x : Cmd) : UnitWork s (s.runNorm x).1 := by
  refine (foldl_fst _ (fun r row => fst_mk _ ?_) _ (s, 0)).finish x _ _
  split
  · exact of_normBackRow r.1 x row
  · exact of_normRow r.1 x row

theorem of_runCast (s : Hw) (x : Cmd) : UnitWork s (s.runCast x).1 :=
  (foldl_fst _ (fun r row => fst_mk _ (of_writePass r.1 _ _ row _)) _ (s, 0)).finish x _ 0

theorem of_runScale (s : Hw) (x : Cmd) : UnitWork s (s.runScale x).1 :=
  (foldl _ (fun v _ => foldl _ (fun v _ => of_writeRaw v _ _) _ v) _ s).finish x 0 0

end UnitWork

end Sys2Proof.Machine
end

section
/-!
PROOFS. The Finisher's commands (R171 to R191).
-/
namespace Sys2Proof.Machine

theorem exec_norm (k : Fin 512) (q : Fin 4) (s : State) : exec (.norm k q) s = s.onHw (fun h => h.finisher k q 0x32 normCheck Hw.runNorm) := rfl
theorem exec_smax (k : Fin 512) (q : Fin 4) (s : State) : exec (.smax k q) s = s.onHw (fun h => h.finisher k q 0x33 smaxCheck Hw.runSmax) := rfl
theorem exec_scale (k : Fin 512) (q : Fin 4) (s : State) : exec (.scale k q) s = s.onHw (fun h => h.finisher k q 0x35 scaleCheck Hw.runScale) := rfl

section

variable {s : Hw} {k q op : Nat} {h : Head} {check : Cmd → Nat}

/-- R242: a Finisher command that passes its checks is executed, where its run does nothing but a unit's work. -/
theorem Hw.finisher_ran (hs : HomeOn s k h.n) (hc : Clean s) (hr : Ready s k q op h) (hop : op ∈ finisherOps)
    (hformat : finFormatOk (s.cmdAt k q h) = true) (hrow : op ≠ 0x31 → rowLen ((s.cmdAt k q h).o 0).writeShape ≤ 262_144)
    (hcheck : check (s.cmdAt k q h) = 0) {run : Hw → Cmd → Hw × Nat} (hrun : ∀ v x, UnitWork v (run v x).1) :
    Ran s (s.finisher k q op check run) k q h (run (s.taken k q h) (s.cmdAt k q h)) := by
  obtain ⟨hclean, _, _, _⟩ := s.taken_clean hc k q h
  rw [Hw.finisher_runs hc hr hop hformat hrow hcheck]
  exact (((hrun _ _).keeps hclean (hr.headGone hs)).done hc).2

/-- R242, R243: one that fails its own check is turned away with that check's code. -/
theorem Hw.finisher_turned (hr : Ready s k q op h) (hop : op ∈ finisherOps)
    (hformat : finFormatOk (s.cmdAt k q h) = true) (hrow : op ≠ 0x31 → rowLen ((s.cmdAt k q h).o 0).writeShape ≤ 262_144)
    (hcheck : check (s.cmdAt k q h) ≠ 0) (run : Hw → Cmd → Hw × Nat) :
    s.finisher k q op check run = (s.taken k q h).turned (s.cmdAt k q h) (check (s.cmdAt k q h)) := by
  have hlong : (op != 0x31 && decide (262_144 < rowLen ((s.cmdAt k q h).o 0).writeShape)) = false := by
    rcases eq_or_ne op 0x31 with rfl | hne
    · rfl
    · simp [Nat.not_lt.2 (hrow hne)]
  unfold Hw.finisher Hw.unitCommand
  rw [Hw.unitRun_ready hr, if_neg (by rw [Hw.carryMissing_finisher hr hop]; exact Bool.false_ne_true)]
  simp only [hformat, hlong, Bool.not_true, Bool.false_eq_true, if_false]
  exact if_pos hcheck

/-- A command turned away has issued and waits with its code, and memory stays. -/
theorem Ready.turned (hr : Ready s k q op h) (hs : HomeOn s k h.n) (hc : Clean s) (st : Nat) :
    Issued ((s.taken k q h).turned (s.cmdAt k q h) st) k h st ∧ NextInLine s ((s.taken k q h).turned (s.cmdAt k q h) st) k q h ∧
      ((s.taken k q h).turned (s.cmdAt k q h) st).mem = s.mem := by
  obtain ⟨_, hmem, _, _⟩ := s.taken_clean hc k q h
  obtain ⟨hgone, hissued, hstay, _, _⟩ := (hr.headGone hs).fly (x := s.cmdAt k q h) rfl rfl rfl rfl st .none
  exact ⟨hissued, hgone.next, hstay.trans hmem⟩

end

/-- R171: a Finisher command whose run does nothing but a unit's work completes, whatever its own check answers. -/
theorem Hw.finisher_completes {s : State} {k : Fin 512} {q : Fin 4} {h : Head} {c : Instr} {op : Nat} {check : Cmd → Nat}
    {run : Hw → Cmd → Hw × Nat} (hexec : exec c s = s.onHw (fun v => v.finisher k q op check run)) (hrun : ∀ v x, UnitWork v (run v x).1)
    (hop : op ∈ finisherOps) (hs : HomeOn s.hw k h.n) (hc : Clean s.hw) (hr : Ready s.hw k q op h)
    (hformat : finFormatOk (s.hw.cmdAt k q h) = true) (hrow : op ≠ 0x31 → rowLen ((s.hw.cmdAt k q h).o 0).writeShape ≤ 262_144) :
    (check (s.hw.cmdAt k q h) = 0 → Completes c s (fun t => Ran s.hw t k q h (run (s.hw.taken k q h) (s.hw.cmdAt k q h)))) ∧
    (check (s.hw.cmdAt k q h) ≠ 0 → Completes c s (fun t =>
      Issued t k h (check (s.hw.cmdAt k q h)) ∧ NextInLine s.hw t k q h ∧ t.mem = s.hw.mem)) := by
  refine ⟨fun hcheck => .of_onHw _ hexec (Hw.finisher_ran hs hc hr hop hformat hrow hcheck hrun), fun hcheck => .of_onHw _ hexec ?_⟩
  rw [Hw.finisher_turned hr hop hformat hrow hcheck]
  exact hr.turned hs hc _

/-- Settles O24: the run of each operation does nothing but a unit's work (`UnitWork`), and a check that fails turns the command away before
its run. -/
theorem finisherCommands : Obligations.FinisherCommands := by
  unfold Obligations.FinisherCommands
  rintro s k q h _ hs hc rfl c op check run hmem hr hformat hrow
  simp only [List.mem_cons, List.not_mem_nil, or_false] at hmem
  obtain ⟨rfl, rfl, rfl, rfl⟩ | ⟨rfl, rfl, rfl, rfl⟩ | ⟨rfl, rfl, rfl, rfl⟩ | ⟨rfl, rfl, rfl, rfl⟩ | ⟨rfl, rfl, rfl, rfl⟩ |
    ⟨rfl, rfl, rfl, rfl⟩ := hmem
  · exact Hw.finisher_completes (exec_ew k q s) UnitWork.of_runEw (by decide) hs hc hr hformat hrow
  · exact Hw.finisher_completes (exec_row k q s) UnitWork.of_runRow (by decide) hs hc hr hformat hrow
  · exact Hw.finisher_completes (exec_norm k q s) UnitWork.of_runNorm (by decide) hs hc hr hformat hrow
  · exact Hw.finisher_completes (exec_smax k q s) UnitWork.of_runSmax (by decide) hs hc hr hformat hrow
  · exact Hw.finisher_completes (exec_cast k q s) UnitWork.of_runCast (by decide) hs hc hr hformat hrow
  · exact Hw.finisher_completes (exec_scale k q s) UnitWork.of_runScale (by decide) hs hc hr hformat hrow

end Sys2Proof.Machine
end

section
/-!
PROOFS. The bytes of another module (R216, R218, R219, R369): how they are told apart, and that a PUT or a GET whose remote operand lies there
whole moves no byte inside this module.
-/
namespace Sys2Proof.Machine

/-- A number that marks a byte of another module (R218). -/
def FarKey (k : Nat) : Prop := keyFar k ≠ none

theorem farKey_iff {k : Nat} : FarKey k ↔ 2 ^ 64 ≤ k := by
  unfold FarKey keyFar
  split
  · next h => simpa using h
  · next h => simpa using h

theorem FarKey.add {k : Nat} (h : FarKey k) (i : Nat) : FarKey (k + i) := by
  rw [farKey_iff] at *
  omega

theorem FarKey.le {k j : Nat} (h : FarKey k) (hj : k ≤ j) : FarKey j := by
  rw [farKey_iff] at *
  omega

/-- The atom of a byte of another module is one of another module. -/
theorem FarKey.atom {k : Nat} (h : FarKey k) : FarKey (k / 128 * 128) := by
  rw [farKey_iff] at *
  omega

theorem FarKey.not_here {k : Nat} (h : FarKey k) : (keyFar k).isNone = false := Option.isNone_eq_false_iff.2 (Option.isSome_iff_ne_none.2 h)

/-- Every byte listed is one of another module. -/
def FarCells (c : Sparse Byte) : Prop := ∀ e ∈ c, FarKey e.1

namespace FarCells

variable {c : Sparse Byte}

theorem set (h : FarCells c) {k : Nat} (hk : FarKey k) (b : Byte) : FarCells (Sparse.set c k b) := fun e he => by
  rcases Sparse.mem_set c k b e he with rfl | he
  · exact hk
  · exact h e he

theorem setAll (h : FarCells c) {l : Sparse Byte} (hl : FarCells l) : FarCells (l.foldl (fun c e => Sparse.set c e.1 e.2) c) := fun e he =>
  (Sparse.mem_foldl_set he).elim (h e) (hl e)

theorem foldl {α : Type} (f : Sparse Byte → α → Sparse Byte) (l : List α) (hf : ∀ a ∈ l, ∀ c, FarCells c → FarCells (f c a)) :
    ∀ c, FarCells c → FarCells (l.foldl f c) := by
  induction l with
  | nil => exact fun _ h => h
  | cons a l ih => exact fun c h => ih (fun b hb => hf b (List.mem_cons_of_mem _ hb)) _ (hf a List.mem_cons_self c h)

theorem of_runCells {a : Nat} (h : FarKey a) (bs : List Byte) : FarCells (runCells a bs) := fun e he => by
  obtain ⟨i, hi, rfl⟩ := (Spells.of_runCells a bs).only e he
  exact h.add i

theorem putElem (h : FarCells c) (s : Hw) {addr : Nat} {d : Record64} {off : Int} (hk : FarKey (elemPlace addr d off).1) (pat : Nat) :
    FarCells (s.putElem c addr d off pat) := by
  unfold Hw.putElem
  simp only
  split
  · exact h.set hk _
  · exact h.setAll (of_runCells hk _)

/-- Elements lie in the order of their offsets. -/
theorem elemPlace_succ (addr : Nat) (d : Record64) (off : Int) : (elemPlace addr d off).1 ≤ (elemPlace addr d (off + 1)).1 := by
  have hw : off * (fmtBits (Desc.format d) : Int) ≤ (off + 1) * (fmtBits (Desc.format d) : Int) :=
    Int.mul_le_mul_of_nonneg_right (by omega) (Int.natCast_nonneg _)
  unfold elemPlace
  simp only [Int.fdiv_eq_ediv_of_nonneg _ (by decide : (0 : Int) ≤ 8)]
  omega

theorem padNibble (h : FarCells c) (s : Hw) {o : Opnd} {idx : List Int} (hk : FarKey (o.byteAt idx)) : FarCells (padNibble s c o idx) := by
  unfold Machine.padNibble
  simp only
  split
  · exact h.putElem s (hk.le (elemPlace_succ _ _ _)) 0
  · exact h

/-- R206: the halo ring lies where the operand's elements do. -/
theorem haloCells (h : FarCells c) (s : Hw) {o : Opnd} (hscale : o.scaled = false)
    (hread : ∀ i ∈ allIndices o.readShape, FarKey (o.byteAt (Desc.coreOf o.img i))) : FarCells (s.haloCells o c) := by
  unfold Hw.haloCells
  split
  · refine foldl _ _ (fun i hi c hc => ?_) c h
    have hk := hread i (List.mem_filter.1 hi).1
    simp only [hscale, Bool.false_eq_true, if_false]
    exact (hc.putElem s hk _).padNibble s hk
  · exact h

theorem none_here (h : FarCells c) : c.filter (fun e => (keyFar e.1).isNone) = [] :=
  List.filter_eq_nil_iff.2 fun e he => by rw [(h e he).not_here]; exact Bool.false_ne_true

end FarCells

/-! ### Byte maps -/

theorem mem_putRun {m : Sparse Nat} {p q n : Nat} {e : Nat × Nat} (h : e ∈ putRun m p q n) : e ∈ m ∨ ∃ k, e = (p + k, q + k) := by
  unfold putRun at h
  generalize List.range n = l at h
  induction l generalizing m with
  | nil => exact .inl h
  | cons k l ih =>
    rcases ih h with hm | hk
    · exact (Sparse.mem_set m _ _ e hm).elim (fun he => .inr ⟨k, he⟩) .inl
    · exact .inr hk

/-- R240: every byte of an element map is that of an element, on both sides. -/
theorem mem_elemMap {src dst : Opnd} {e : Nat × Nat} (h : e ∈ elemMap src dst) :
    ∃ i ∈ allIndices dst.writeShape, ∃ k, e = (dst.byteAt (i.map Int.ofNat) + k, src.byteAt (Desc.coreOf src.img i) + k) := by
  have hfold : ∀ (w : Nat) (l : List (List Nat)) (m : Sparse Nat),
      e ∈ l.foldl (fun m i => putRun m (dst.byteAt (i.map Int.ofNat)) (src.byteAt (Desc.coreOf src.img i)) w) m →
      e ∈ m ∨ ∃ i ∈ l, ∃ k, e = (dst.byteAt (i.map Int.ofNat) + k, src.byteAt (Desc.coreOf src.img i) + k) := fun w l => by
    induction l with
    | nil => exact fun m h => .inl h
    | cons i l ih =>
      intro m h
      rcases ih _ h with hm | ⟨j, hj, hk⟩
      · exact (mem_putRun hm).imp id (fun hk => ⟨i, List.mem_cons_self, hk⟩)
      · exact .inr ⟨j, List.mem_cons_of_mem _ hj, hk⟩
  exact (hfold _ _ [] h).resolve_left List.not_mem_nil

/-- Unscaled elements move as the one map of their bytes. -/
theorem Hw.transferMaps_plain (s : Hw) {src dst : Opnd} (hc : dst.crow = false) (hs : dst.scaled = false) :
    s.transferMaps src dst = [elemMap src dst, []] := by
  simp [Hw.transferMaps, Hw.dataMap, scaleMap, hc, hs]

theorem mem_sortedUnion {l : List Nat} {k : Nat} (h : k ∈ sortedUnion l) : k ∈ l := by
  have hfold : ∀ (l : List Nat) (m : Sparse Unit), ∀ e ∈ l.foldl (fun (m : Sparse Unit) k => Sparse.set m k ()) m,
      e ∈ m ∨ e.1 ∈ l := fun l => by
    induction l with
    | nil => exact fun m e he => .inl he
    | cons k l ih =>
      intro m e he
      rcases ih _ e he with hm | hl
      · exact (Sparse.mem_set m k () e hm).elim (fun h => .inr (by rw [h]; exact List.mem_cons_self)) .inl
      · exact .inr (List.mem_cons_of_mem _ hl)
  obtain ⟨e, he, rfl⟩ := List.mem_map.1 h
  exact (hfold l [] e he).resolve_left List.not_mem_nil

/-- The atoms that dross of a source feeds are those of destination bytes. -/
theorem Hw.mem_fedDross {s : Hw} {m : Sparse Nat} {a : Nat} (h : a ∈ s.fedDross m) : ∃ e ∈ m, a = e.1 / 128 := by
  obtain ⟨e, he, rfl⟩ := List.mem_map.1 (mem_sortedUnion h)
  exact ⟨e, (List.mem_filter.1 he).1, rfl⟩

theorem Hw.fedDross_far (s : Hw) {m : Sparse Nat} (hm : ∀ e ∈ m, FarKey e.1) :
    (s.fedDross m).filter (fun a => (keyFar (a * 128)).isNone) = [] := List.filter_eq_nil_iff.2 fun a ha => by
  obtain ⟨e, he, rfl⟩ := Hw.mem_fedDross ha
  rw [(hm e he).atom.not_here]
  exact Bool.false_ne_true

end Sys2Proof.Machine
end

section
/-!
PROOFS. PUT and GET (R206, R219, R369): what they leave alone inside the module, what they put on the links, and how they stand in flight.
-/
namespace Sys2Proof.Machine

/-! ### On the links -/

/-- From s to t flits have been put on links or wait for a route: nothing else differs. -/
def Queued (s t : Hw) : Prop := t = { s with links := t.links, lnk := { s.lnk with noRoute := t.lnk.noRoute } }

namespace Queued

theorem refl (s : Hw) : Queued s s := rfl

theorem trans {s t v : Hw} (h : Queued s t) (h' : Queued t v) : Queued s v := by
  unfold Queued at *
  rw [h', h]

theorem foldl {α : Type} (f : Hw → α → Hw) (hf : ∀ s a, Queued s (f s a)) (l : List α) : ∀ s : Hw, Queued s (l.foldl f s) := by
  induction l with
  | nil => exact refl
  | cons a l ih => exact fun s => (hf s a).trans (ih _)

theorem of_setLink (s : Hw) (l : Nat) (x : Link) : Queued s (s.setLink l x) := rfl

theorem of_sendFlit (s : Hw) (f : Flit) (sched : Bool) : Queued s (s.sendFlit f sched) := by
  unfold Hw.sendFlit
  split
  · simp only
    split
    · exact of_setLink s _ _
    · split
      · exact of_setLink s _ _
      · exact of_setLink s _ _
  · rfl

theorem of_sendRun (s : Hw) (n id kind far ew : Nat) (dross : List Nat) (sched : Bool) (run : Nat × List Byte) :
    Queued s (s.sendRun n id kind far ew dross sched run) := foldl _ (fun s _ => of_sendFlit s _ _) _ s

theorem of_sendCells (s : Hw) (n id kind ew : Nat) (dross : List Nat) (sched : Bool) (cells : Sparse Byte) :
    Queued s (s.sendCells n id kind ew dross sched cells) := foldl _ (fun s _ => of_sendRun s _ _ _ _ _ _ _ _) _ s

theorem of_sendReads (s : Hw) (n id ew : Nat) (crow sched : Bool) (parts : List (Nat × Nat × Nat)) :
    Queued s (s.sendReads n id ew crow sched parts) := foldl _ (fun s _ => of_sendFlit s _ _) _ s

variable {s t : Hw}

theorem regs (h : Queued s t) : t.regs = s.regs := by rw [h]
theorem tiles (h : Queued s t) : t.tiles = s.tiles := by rw [h]
theorem mem (h : Queued s t) : t.mem = s.mem := by rw [h]
theorem xfers (h : Queued s t) : t.lnk.xfers = s.lnk.xfers := by rw [h]

end Queued

/-! ### Inside the module -/

namespace MemWork

theorem of_passDross (s : Hw) (addrs : List Nat) : MemWork s (s.passDross addrs) :=
  (foldl _ of_invertAtom _ s).bump F.FLT_DROSS_PASSED_COUNT 0 _

theorem of_moveHere (s : Hw) (dst : Opnd) (m : Sparse Nat) : MemWork s (s.moveHere dst m) := (of_writeAddrs s _).trans (of_passDross _ _)

theorem of_touch (s : Hw) (t : Nat) (o : Opnd) : MemWork s (s.touch t o) := by
  unfold Hw.touch
  simp only
  split
  · exact refl s
  · split
    · exact of_setPhys s _ _
    · split
      · exact of_setPhys s _ _
      · exact of_setPhys s _ _

theorem of_writeHalo (s : Hw) (o : Opnd) : MemWork s (s.writeHalo o) := by
  unfold Hw.writeHalo
  split
  · exact of_writeAddrs s _
  · exact refl s

theorem of_leaveDests (s : Hw) (x : Cmd) : MemWork s (s.leaveDests x) := by
  unfold Hw.leaveDests
  refine foldl _ (fun v p => ?_) _ s
  exact (of_writeHalo v p.2).trans (of_touch _ x.t p.2)

theorem xfers {s t : Hw} (h : MemWork s t) : t.lnk.xfers = s.lnk.xfers := congrArg (·.lnk.xfers) h.rest

end MemWork

/-- Writing nothing into memory without errors leaves it. -/
theorem Hw.writeAddrs_nil_mem {s : Hw} (hc : Clean s) : (s.writeAddrs []).mem = s.mem :=
  Hw.writeAddrs_mem hc id (List.forall_mem_nil _)

theorem Hw.passDross_nil_mem (s : Hw) : (s.passDross []).mem = s.mem := Hw.bump_mem _ _ _ _

theorem Hw.moveHere_nil_mem {s : Hw} (hc : Clean s) (dst : Opnd) : (s.moveHere dst []).mem = s.mem :=
  (Hw.passDross_nil_mem _).trans (Hw.writeAddrs_nil_mem hc)

section

variable {s v : Hw} {k q op : Nat} {h : Head}

/-- R237: the class of a command that issues is that of its opcode. -/
theorem Ready.cls_of_opcode (hr : Ready s k q op h) : Com.cls h.w + 1 = op / 16 := by
  have hcode : Com.opcode h.w = op := hr.2.1
  have hformat := hr.formatOk
  unfold Machine.formatOk at hformat
  simp only [Bool.and_eq_true, beq_iff_eq, hcode] at hformat
  tauto

/-- R63: a command of the links needs no carry area. -/
theorem Hw.carryMissing_transfer (hr : Ready s k q op h) (hop : op = 0x50 ∨ op = 0x51) :
    (s.taken k q h).carryMissing (s.cmdAt k q h) = false := by
  have hcode : Com.opcode (s.cmdAt k q h).w = op := hr.2.1
  have hclass : Com.cls (s.cmdAt k q h).w + 1 = op / 16 := hr.cls_of_opcode
  have hmerge : usesMerge op = false := by rcases hop with rfl | rfl <;> rfl
  have h4 : Com.cls (s.cmdAt k q h).w = 4 := by omega
  simp [Hw.carryMissing, h4, hcode, hmerge]

/-- R219: a transfer inside the module has issued, and waits with status 0. -/
theorem HeadGone.localTransfer (hg : HeadGone k q h s v) (src dst : Opnd) :
    Issued (v.localTransfer (s.cmdAt k q h) src dst) k h 0 ∧ NextInLine s (v.localTransfer (s.cmdAt k q h) src dst) k q h := by
  unfold Hw.localTransfer
  extract_lets v1
  have hwork : MemWork v (((v1.transferMaps src dst).foldl (fun s m => s.moveHere dst m) v1).leaveDests (s.cmdAt k q h)) :=
    ((MemWork.of_consumeBy v _).trans (.foldl _ (fun s m => .of_moveHere s dst m) _ v1)).trans (.of_leaveDests _ _)
  unfold Hw.done
  obtain ⟨hgone, hissued, _⟩ := (hg.memWork hwork).fly (x := s.cmdAt k q h) rfl rfl rfl rfl 0 (Hw.unitNeed _ (s.cmdAt k q h).w)
  exact ⟨hissued, hgone.next⟩

theorem Hw.ctxOn_congr {s t : Hw} (h : t.tiles = s.tiles) (k n : Nat) : t.ctxOn k n = s.ctxOn k n := by
  unfold Hw.ctxOn Hw.getTile
  rw [h]

/-- A new transfer of a command is under way in t. -/
def Under (t : Hw) (x : Cmd) (get : Bool) : Prop :=
  ∃ i y, Sparse.find? t.lnk.xfers i = some y ∧ y.stream = x.n ∧ y.num = x.num ∧ y.get = get ∧ y.acked = 0

/-- The new transfer is found under its tag. -/
theorem Hw.newXfer_under (v : Hw) (x : Cmd) (y : Xfer) (hn : y.stream = x.n) (hnum : y.num = x.num) (ha : y.acked = 0) :
    Under (v.newXfer y).1 x y.get :=
  ⟨(v.newXfer y).2, y, by simp only [Hw.newXfer]; rw [Sparse.find?_set, if_pos rfl], hn, hnum, rfl, ha⟩

theorem Under.of_xfers {t : Hw} {x : Cmd} {get : Bool} (h : Under v x get) (ht : t.lnk.xfers = v.lnk.xfers) : Under t x get := by
  unfold Under
  rw [ht]
  exact h

/-- R369: a command with a transfer under way, in flight and with its flits on the links, crosses to another module. -/
theorem HeadGone.crosses {t : Hw} {get : Bool} (hg : HeadGone k q h s v) (hu : Under v (s.cmdAt k q h) get)
    (hq : Queued (v.fly (s.cmdAt k q h) .running .link) t) : Crosses s t k q h get ∧ t.mem = v.mem := by
  obtain ⟨l, heq, hmem⟩ := hg.fly_eq (x := s.cmdAt k q h) rfl rfl .running .link
  rw [heq] at hq
  have hgone : HeadGone k q h s t := (hg.setFlight l).of_eq hq.tiles (fun f _ u => Hw.fget_congr hq.regs f u)
  have hctx : t.ctxOn k h.n = { v.ctxOn k h.n with flight := l } :=
    (Hw.ctxOn_congr hq.tiles k h.n).trans (Hw.ctxOn_setCtxOn_self _ _ _ _)
  obtain ⟨i, y, hfind, hstream, hy, hget, hacked⟩ := hu.of_xfers (t := t) hq.xfers
  exact ⟨⟨hgone.next, hgone.issued, ⟨(s.cmdAt k q h).entry v.beatNo .running .link, by rw [hctx]; exact hmem, rfl, rfl, rfl⟩,
    i, y, hfind, hstream, hy, hget, hacked⟩, hq.mem⟩

end

end Sys2Proof.Machine
end

section
/-!
PROOFS. PUT and GET that cross to another module (R206, R219, R369), and O30.
-/
namespace Sys2Proof.Machine

section

variable {s v : Hw} {k q op : Nat} {h : Head}

/-- The bytes of another module that a PUT gathers: of whole far operands, the halo ring among them, all. -/
theorem FarCells.of_put {m : Sparse Nat} (hm : ∀ e ∈ m, FarKey e.1) (byte : Nat × Nat → Byte) (v : Hw) {o : Opnd} (hw : FarWhole o) :
    FarCells (v.haloCells o.keyed ([m, []].foldl (fun c m => (m.map (fun e => (e.1, byte e))).foldl (fun c e => Sparse.set c e.1 e.2) c) [])) := by
  obtain ⟨hscale, _, hread, _⟩ := hw
  refine FarCells.haloCells ?_ v hscale hread
  refine FarCells.setAll (List.forall_mem_nil _) fun e he => ?_
  obtain ⟨p, hp, rfl⟩ := List.mem_map.1 he
  exact hm p hp

/-- R369: a PUT to another module has issued and runs, under a transfer of its own; where every byte of its destination is there, no byte of
memory changes. -/
theorem HeadGone.farPut (hg : HeadGone k q h s v) (hc : Clean v) (src dst : Opnd) :
    Crosses s (v.farPut (s.cmdAt k q h) src dst) k q h false ∧ (FarWhole dst → (v.farPut (s.cmdAt k q h) src dst).mem = v.mem) := by
  unfold Hw.farPut
  rw [Hw.consumeBy_clean hc.1 hc.2]
  extract_lets far s0 s1 ms odd bytes whole scales away dross sched r near s2 s3 s4
  have hr : HeadGone k q h s r.1 := hg.of_eq rfl (fun _ _ _ => rfl)
  have hcr : Clean r.1 := hc
  have hu : Under r.1 (s.cmdAt k q h) false := Hw.newXfer_under s1 _ _ rfl rfl rfl
  have hwork : MemWork r.1 (s2.touch (s.cmdAt k q h).t dst) :=
    ((MemWork.of_writeAddrs r.1 near).trans (.of_passDross _ _)).trans (.of_touch _ _ _)
  have hdata : Queued s3 s4 := .of_sendCells s3 _ _ _ _ _ _ _
  have hsent := hdata.trans (.of_sendCells s4 (s.cmdAt k q h).n r.2 0 (s4.elisionWidth 10) dross sched (away.filter (fun e => scales e.1)))
  obtain ⟨hcross, hmem⟩ := (hr.memWork hwork).crosses (hu.of_xfers hwork.xfers) hsent
  refine ⟨hcross, fun hfar => hmem.trans ?_⟩
  have ⟨hscale, hcrow, _, hwrite⟩ := hfar
  have hms : ms = [elemMap src far, []] := s1.transferMaps_plain hcrow hscale
  have hkeys : ∀ e ∈ elemMap src far, FarKey e.1 := fun e he => by
    obtain ⟨i, hi, j, rfl⟩ := mem_elemMap he
    exact FarKey.add (hwrite i hi) j
  have hnear : near = [] := by
    refine FarCells.none_here ?_
    simp only [whole, hms]
    exact FarCells.of_put hkeys _ s1 hfar
  have hdross : dross.filter (fun a => (keyFar (a * 128)).isNone) = [] := by
    simp only [dross, hms, List.flatMap_cons, List.flatMap_nil, List.filter_append, s1.fedDross_far hkeys, s1.fedDross_far (List.forall_mem_nil _)]
    rfl
  calc (s2.touch (s.cmdAt k q h).t dst).mem = s2.mem := Hw.touch_mem _ _ _
    _ = (r.1.writeAddrs []).mem := by simp only [s2, hnear, hdross, List.map_nil, Hw.passDross_nil_mem]
    _ = v.mem := Hw.writeAddrs_nil_mem hcr

/-- R369: a GET from another module has issued and runs, under a transfer of its own; where every byte of its source is there, no byte of
memory changes by that. -/
theorem HeadGone.farGet (hg : HeadGone k q h s v) (hc : Clean v) (src dst : Opnd) :
    Crosses s (v.farGet (s.cmdAt k q h) src dst) k q h true ∧
      (FarWhole src → dst.crow = false → dst.scaled = false → src.readShape = dst.writeShape →
        (v.farGet (s.cmdAt k q h) src dst).mem = v.mem) := by
  unfold Hw.farGet
  rw [Hw.consumeBy_clean hc.1 hc.2]
  extract_lets far s0 ms here away parts sched r s1 ew
  have hr : HeadGone k q h s r.1 := hg.of_eq rfl (fun _ _ _ => rfl)
  have hcr : Clean r.1 := hc
  have hu : Under r.1 (s.cmdAt k q h) true := Hw.newXfer_under v _ _ rfl rfl rfl
  have hmoved : MemWork r.1 (here.foldl (fun s m => s.moveHere dst m) r.1) := .foldl _ (fun s m => .of_moveHere s dst m) _ _
  have hwork := hmoved.trans (.of_touch _ (s.cmdAt k q h).t dst)
  have hsent : Queued s1 (if dst.crow then s1.sendReads (s.cmdAt k q h).n r.2 (ew dst.fmt) true sched parts
      else (s1.sendReads (s.cmdAt k q h).n r.2 (ew dst.fmt) false sched (nth [] away 0)).sendReads (s.cmdAt k q h).n r.2 (ew 10) false sched
        (nth [] away 1)) := by
    split
    · exact .of_sendReads _ _ _ _ _ _ _
    · exact (Queued.of_sendReads _ _ _ _ _ _ _).trans (.of_sendReads _ _ _ _ _ _ _)
  obtain ⟨hcross, hmem⟩ := (hr.memWork hwork).crosses (hu.of_xfers hwork.xfers) hsent
  refine ⟨hcross, fun ⟨_, _, hread, _⟩ hcrow hscale hshape => hmem.trans ((Hw.touch_mem _ _ _).trans ?_)⟩
  have hms : ms = [elemMap far dst, []] := by
    simp only [ms, hcrow, Bool.false_eq_true, if_false]
    exact v.transferMaps_plain hcrow hscale
  have hkeys : ∀ e ∈ elemMap far dst, FarKey e.2 := fun e he => by
    obtain ⟨i, hi, j, rfl⟩ := mem_elemMap he
    exact FarKey.add (hread i (hshape ▸ hi)) j
  have hhere : here = [[], []] := by
    have hfilter : (elemMap far dst).filter (fun e => (keyFar e.2).isNone) = [] := List.filter_eq_nil_iff.2 fun e he => by
      rw [(hkeys e he).not_here]
      exact Bool.false_ne_true
    simp only [here, hms, List.map_cons, List.map_nil, hfilter, List.filter_nil]
  have hfirst := Hw.moveHere_nil_mem hcr dst
  have hclean : Clean (r.1.moveHere dst []) := ⟨by rw [hfirst]; exact hcr.1, (MemWork.of_moveHere r.1 dst []).offline.trans hcr.2⟩
  simp only [hhere, List.foldl_cons, List.foldl_nil]
  exact (Hw.moveHere_nil_mem hclean dst).trans hfirst

/-- R242: a PUT or GET that is ready and passes its checks starts. -/
theorem Hw.transfer_starts (hr : Ready s k q op h) (hop : op = 0x50 ∨ op = 0x51) (hcheck : transferCheck (s.cmdAt k q h) = 0)
    (run : Hw → Cmd → Hw) :
    s.unitRun k q op (fun _ x => transferCheck x) run = run (s.taken k q h) (s.cmdAt k q h) :=
  Hw.unitRun_runs hr (Hw.carryMissing_transfer hr hop) hcheck run

/-- R219, R369, R378: the operands of a transfer that passes its checks agree in layout, scaling and shape. -/
theorem transferCheck_get {x : Cmd} (hop : Com.opcode x.w = 0x51) (hcheck : transferCheck x = 0) :
    (x.o 1).crow = (x.o 0).crow ∧ (x.o 1).scaled = (x.o 0).scaled ∧ (x.o 1).readShape = (x.o 0).writeShape := by
  unfold transferCheck at hcheck
  simp only [hop, Nat.reduceEqDiff, if_false] at hcheck
  split at hcheck
  · exact absurd hcheck (by decide)
  · next hcrow =>
    split at hcheck
    · exact absurd hcheck (by decide)
    · next hrest =>
      simp only [Bool.or_eq_true, not_or, bne_iff_ne, ne_eq, not_not, decide_eq_true_eq] at hcrow hrest
      obtain ⟨⟨⟨_, hscale⟩, _⟩, hshape⟩ := hrest
      exact ⟨hcrow, hscale, hshape⟩

end

theorem exec_put (k : Fin 512) (q : Fin 4) (s : State) : exec (.put k q) s = s.onHw (fun h =>
    h.unitRun k q 0x50 (fun _ x => transferCheck x) (fun s x => s.startPut x)) := rfl
theorem exec_get (k : Fin 512) (q : Fin 4) (s : State) : exec (.get k q) s = s.onHw (fun h =>
    h.unitRun k q 0x51 (fun _ x => transferCheck x) (fun s x => s.startGet x)) := rfl

/-- Settles O30: inside the module a transfer is an access of memory (`MemWork`), and to another module it makes a transfer and puts flits on
the links (`Queued`); of a remote operand whose every byte is far the part that is written here is empty. -/
theorem transferCommands : Obligations.TransferCommands := by
  unfold Obligations.TransferCommands
  rintro s k q h _ _ hs hc rfl rfl hcheck
  obtain ⟨hclean, hmem, _, _⟩ := s.hw.taken_clean hc k q h
  refine ⟨fun hr => ⟨fun hnear => ?_, fun hfar => ?_⟩, fun hr => ⟨fun hnear => ?_, fun hfar => ?_⟩⟩
  · refine .of_onHw _ (exec_put k q s) ?_
    rw [Hw.transfer_starts hr (.inl rfl) hcheck, Hw.startPut, if_neg (by rw [hnear]; exact Bool.false_ne_true)]
    obtain ⟨hissued, hnext⟩ := (hr.headGone hs).localTransfer _ _
    exact ⟨hissued, hnext, rfl⟩
  · refine .of_onHw _ (exec_put k q s) ?_
    rw [Hw.transfer_starts hr (.inl rfl) hcheck, Hw.startPut, if_pos hfar]
    obtain ⟨hcross, hstay⟩ := (hr.headGone hs).farPut hclean ((s.hw.cmdAt k q h).o 0) ((s.hw.cmdAt k q h).o 1)
    exact ⟨hcross, fun hwhole => (hstay hwhole).trans hmem⟩
  · refine .of_onHw _ (exec_get k q s) ?_
    rw [Hw.transfer_starts hr (.inr rfl) hcheck, Hw.startGet, if_neg (by rw [hnear]; exact Bool.false_ne_true)]
    obtain ⟨hissued, hnext⟩ := (hr.headGone hs).localTransfer _ _
    exact ⟨hissued, hnext, rfl⟩
  · refine .of_onHw _ (exec_get k q s) ?_
    rw [Hw.transfer_starts hr (.inr rfl) hcheck, Hw.startGet, if_pos hfar]
    obtain ⟨hcross, hstay⟩ := (hr.headGone hs).farGet hclean ((s.hw.cmdAt k q h).o 1) ((s.hw.cmdAt k q h).o 0)
    obtain ⟨hcrow, hscale, hshape⟩ := transferCheck_get hr.2.1 hcheck
    refine ⟨hcross, fun hwhole => ?_⟩
    have ⟨hplain, hdense, _, _⟩ := hwhole
    exact (hstay hwhole (hcrow.symm.trans hdense) (hscale.symm.trans hplain) hshape).trans hmem

end Sys2Proof.Machine
end

section
/-!
PROOFS. The end of a mailbox operation (R212, R221, R222).
-/
namespace Sys2Proof.Machine

/-- R222: the entry that an operation destroys becomes invalid, and counts no more. -/
def Hw.dropEntry (s : Hw) (m : MailOp) : Hw :=
  match m.destroy with
  | some id =>
    (s.writeEntry id ((s.descEntry id).toNat - (s.descEntry id).toNat % 2)).fset F.STRM_TDESC_LIVE_COUNT (s.fget F.STRM_TDESC_LIVE_COUNT - 1)
  | none => s

/-- R212: TDESC.CREATE shows the range of its image. -/
def Hw.showRange (s : Hw) (m : MailOp) : Hw :=
  if s.fget F.STRM_DESC_OP_OP = 1 && m.code ≠ 9 then
    (s.wr64 .STRM_DESC_MIN_LO .STRM_DESC_MIN_HI (unsigned 64 m.first)).wr64 .STRM_DESC_MAX_LO .STRM_DESC_MAX_HI (unsigned 64 m.last)
  else s

/-- R221: an operation that ends shows its result, with BUSY and GO clear. -/
def Hw.showResult (s : Hw) (m : MailOp) : Hw :=
  (((s.fset F.STRM_DESC_RESULT_CODE m.code).fset F.STRM_DESC_RESULT_OFFSET m.offset).fset F.STRM_DESC_RESULT_BUSY 0).fset F.STRM_DESC_OP_GO 0

theorem Hw.mailDone_eq {s : Hw} {m : MailOp} (h : s.mail = some m) :
    s.mailDone = { ((s.dropEntry m).showRange m).showResult m with mail := none } := by
  unfold Hw.mailDone
  rw [h]
  rfl

variable (s : Hw) (m : MailOp)

/-- R221: what the registers show once an operation has ended. -/
theorem Hw.showResult_shows :
    (s.showResult m).flag F.STRM_DESC_RESULT_BUSY = false ∧ (s.showResult m).flag F.STRM_DESC_OP_GO = false ∧
    (s.showResult m).fget F.STRM_DESC_RESULT_CODE = m.code % 2 ^ F.STRM_DESC_RESULT_CODE.width ∧
    (s.showResult m).fget F.STRM_DESC_RESULT_OFFSET = m.offset % 2 ^ F.STRM_DESC_RESULT_OFFSET.width := by
  have hgo : ∀ (t : Hw) (g : Fld), F.STRM_DESC_OP_GO.apart g = true → (t.fset F.STRM_DESC_OP_GO 0).fget g = t.fget g := fun t g =>
    Hw.fget_fset_apart t F.STRM_DESC_OP_GO g 0 0 0 (by decide)
  have hbusy : ∀ (t : Hw) (g : Fld), F.STRM_DESC_RESULT_BUSY.apart g = true → (t.fset F.STRM_DESC_RESULT_BUSY 0).fget g = t.fget g := fun t g =>
    Hw.fget_fset_apart t F.STRM_DESC_RESULT_BUSY g 0 0 0 (by decide)
  have hoffset : ∀ (t : Hw) (g : Fld) (x : Nat), F.STRM_DESC_RESULT_OFFSET.apart g = true →
      (t.fset F.STRM_DESC_RESULT_OFFSET x).fget g = t.fget g := fun t g x =>
    Hw.fget_fset_apart t F.STRM_DESC_RESULT_OFFSET g x 0 0 (by decide)
  unfold Hw.showResult Hw.flag
  refine ⟨?_, ?_, ?_, ?_⟩
  · rw [hgo _ _ (by decide), Hw.fget_fset_self _ F.STRM_DESC_RESULT_BUSY]
    rfl
  · rw [Hw.fget_fset_self _ F.STRM_DESC_OP_GO]
    rfl
  · rw [hgo _ _ (by decide), hbusy _ _ (by decide), hoffset _ _ _ (by decide), Hw.fget_fset_self _ F.STRM_DESC_RESULT_CODE]
  · rw [hgo _ _ (by decide), hbusy _ _ (by decide), Hw.fget_fset_self _ F.STRM_DESC_RESULT_OFFSET]

/-- The registers that the end of an operation writes, besides the count of valid entries. -/
def mailEndRegs : List Reg :=
  [.STRM_DESC_OP, .STRM_DESC_RESULT, .STRM_DESC_MIN_LO, .STRM_DESC_MIN_HI, .STRM_DESC_MAX_LO, .STRM_DESC_MAX_HI]

theorem RegsKept.showRange : RegsKept mailEndRegs s (s.showRange m) := by
  unfold Hw.showRange
  split
  · exact ((((refl _ s).wr .STRM_DESC_MIN_LO _ 0 (by decide)).wr .STRM_DESC_MIN_HI _ 0 (by decide)).wr .STRM_DESC_MAX_LO _ 0 (by decide)).wr
      .STRM_DESC_MAX_HI _ 0 (by decide)
  · exact refl _ s

theorem RegsKept.showResult : RegsKept mailEndRegs s (s.showResult m) :=
  ((((refl _ s).fset F.STRM_DESC_RESULT_CODE _ 0 (by decide)).fset F.STRM_DESC_RESULT_OFFSET _ 0 (by decide)).fset F.STRM_DESC_RESULT_BUSY _ 0
    (by decide)).fset F.STRM_DESC_OP_GO _ 0 (by decide)

theorem Hw.showResult_mem : (s.showResult m).mem = s.mem := by simp only [Hw.showResult, Hw.fset_mem]

theorem Hw.showRange_mem : (s.showRange m).mem = s.mem := by
  unfold Hw.showRange
  split <;> rfl

theorem Hw.dropEntry_none {s : Hw} {m : MailOp} (h : m.destroy = none) : s.dropEntry m = s := by
  unfold Hw.dropEntry
  rw [h]

theorem Hw.dropEntry_live {s : Hw} {m : MailOp} {id : Nat} (h : m.destroy = some id) :
    (s.dropEntry m).fget F.STRM_TDESC_LIVE_COUNT = s.fget F.STRM_TDESC_LIVE_COUNT - 1 := by
  have hlt := s.fget_lt F.STRM_TDESC_LIVE_COUNT 0
  unfold Hw.dropEntry
  rw [h]
  simp only
  rw [Hw.fget_fset_self _ F.STRM_TDESC_LIVE_COUNT]
  exact Nat.mod_eq_of_lt (by omega)

theorem exec_mailboxDone (s : State) : exec .mailboxDone s = s.onHw Hw.mailDone := rfl

/-- Settles O17: the entry that the operation destroys is dropped first, then its range and its result are shown. -/
theorem mailboxEnds : Obligations.MailboxEnds := by
  unfold Obligations.MailboxEnds
  intro s m hm
  refine .of_onHw _ (exec_mailboxDone s) ?_
  rw [Hw.mailDone_eq hm]
  have hkept : RegsKept mailEndRegs (s.hw.dropEntry m) (((s.hw.dropEntry m).showRange m).showResult m) :=
    (RegsKept.showRange _ m).trans (.showResult _ m)
  have hmem : (((s.hw.dropEntry m).showRange m).showResult m).mem = (s.hw.dropEntry m).mem :=
    (Hw.showResult_mem _ m).trans (Hw.showRange_mem _ m)
  obtain ⟨hbusy, hgo, hcode, hoffset⟩ := ((s.hw.dropEntry m).showRange m).showResult_shows m
  generalize ((s.hw.dropEntry m).showRange m).showResult m = t at hkept hmem hbusy hgo hcode hoffset
  refine ⟨rfl, hbusy, hgo, hcode, hoffset, fun hnone => ?_, fun id hid _ => ?_⟩
  · rw [Hw.dropEntry_none hnone] at hkept hmem
    exact ⟨hmem, hkept⟩
  · have hlive : t.fget F.STRM_TDESC_LIVE_COUNT = (s.hw.dropEntry m).fget F.STRM_TDESC_LIVE_COUNT := by
      unfold Hw.fget
      rw [hkept .STRM_TDESC_LIVE 0 (by decide)]
    exact hlive.trans (Hw.dropEntry_live hid)

end Sys2Proof.Machine
end

section
/-!
PROOFS. What a write leaves in memory whatever errors its words have (R301, R308, R336, R340, R516): the bytes written are read back, and
every other byte reads as before, unless an uncorrectable word has made dross of its atom.
-/
namespace Sys2Proof.Machine

/-! ### Rising lists and their words -/

namespace Sparse

variable {α : Type}

theorem sorted_some_iff {m : Sparse α} {b : Nat} : sorted (some b) m = true ↔ sorted none m = true ∧ ∀ e ∈ m, b < e.1 := by
  refine ⟨fun h => ⟨sorted_none h, sorted_lt h⟩, fun ⟨h, hb⟩ => ?_⟩
  cases m with
  | nil => rfl
  | cons e m =>
    simp only [sorted, Bool.and_eq_true, decide_eq_true_eq]
    exact ⟨hb e List.mem_cons_self, h⟩

theorem sorted_cons_iff {m : Sparse α} {e : Nat × α} :
    sorted none (e :: m) = true ↔ sorted none m = true ∧ ∀ x ∈ m, e.1 < x.1 := sorted_some_iff

theorem sorted_foldl_set (l : Sparse α) : ∀ m : Sparse α, sorted none m = true →
    sorted none (l.foldl (fun m e => Sparse.set m e.1 e.2) m) = true := by
  induction l with
  | nil => exact fun _ h => h
  | cons e l ih => exact fun m h => ih _ (sorted_set m e.1 e.2 none h (fun b hb => nomatch hb))

/-- The keys of a rising list differ. -/
theorem nodup_keys {m : Sparse α} (h : sorted none m = true) : (m.map (·.1)).Nodup := by
  induction m with
  | nil => exact List.nodup_nil
  | cons e m ih =>
    obtain ⟨hm, hlt⟩ := sorted_cons_iff.1 h
    rw [List.map_cons, List.nodup_cons]
    refine ⟨fun hmem => ?_, ih hm⟩
    obtain ⟨x, hx, hk⟩ := List.mem_map.1 hmem
    have := hlt x hx
    omega

/-- A rising list lists a key once. -/
theorem eq_of_key {m : Sparse α} (h : sorted none m = true) {x y : Nat × α} (hx : x ∈ m) (hy : y ∈ m) (hk : x.1 = y.1) : x = y :=
  List.inj_on_of_nodup_map (nodup_keys h) hx hy hk

end Sparse

/-- Every byte of a group is listed, at its place in the group's word. -/
theorem mem_groupWords {c : Sparse Byte} {g : Nat × List (Nat × Byte)} (hg : g ∈ groupWords c) :
    g.2 ≠ [] ∧ ∀ p ∈ g.2, p.1 < 8 ∧ (g.1 * 8 + p.1, p.2) ∈ c := by
  induction c generalizing g with
  | nil => cases hg
  | cons e c ih =>
    obtain ⟨k, b⟩ := e
    have hhead : ∀ p ∈ [(k % 8, b)], p.1 < 8 ∧ (k / 8 * 8 + p.1, p.2) ∈ (k, b) :: c := fun p hp => by
      obtain rfl := List.mem_singleton.1 hp
      exact ⟨Nat.mod_lt _ (by decide), by simp [Nat.div_add_mod']⟩
    have htail : ∀ g ∈ groupWords c, g.2 ≠ [] ∧ ∀ p ∈ g.2, p.1 < 8 ∧ (g.1 * 8 + p.1, p.2) ∈ (k, b) :: c := fun g hg =>
      ⟨(ih hg).1, fun p hp => ⟨((ih hg).2 p hp).1, List.mem_cons_of_mem _ ((ih hg).2 p hp).2⟩⟩
    rw [groupWords] at hg
    split at hg
    · next w bs r hc =>
      split at hg
      · next hw =>
        rcases List.mem_cons.1 hg with rfl | hg
        · refine ⟨List.cons_ne_nil _ _, fun p hp => ?_⟩
          rcases List.mem_cons.1 hp with rfl | hp
          · exact hw ▸ hhead _ (List.mem_singleton.2 rfl)
          · exact (htail (w, bs) (hc ▸ List.mem_cons_self)).2 p hp
        · exact htail g (hc ▸ List.mem_cons_of_mem _ hg)
      · rcases List.mem_cons.1 hg with rfl | hg
        · exact ⟨List.cons_ne_nil _ _, hhead⟩
        · exact htail g (hc ▸ hg)
    · obtain rfl := List.mem_singleton.1 hg
      exact ⟨List.cons_ne_nil _ _, hhead⟩

/-- Every listed byte is in the group of its word. -/
theorem exists_groupWords {c : Sparse Byte} {k : Nat} {b : Byte} (h : (k, b) ∈ c) : ∃ g ∈ groupWords c, g.1 = k / 8 ∧ (k % 8, b) ∈ g.2 := by
  induction c with
  | nil => cases h
  | cons e c ih =>
    obtain ⟨j, d⟩ := e
    rw [groupWords]
    rcases List.mem_cons.1 h with he | he
    · cases he
      split
      · split
        · next hw => exact ⟨_, List.mem_cons_self, hw.symm, List.mem_cons_self⟩
        · exact ⟨_, List.mem_cons_self, rfl, List.mem_cons_self⟩
      · exact ⟨_, List.mem_cons_self, rfl, List.mem_cons_self⟩
    · obtain ⟨g, hg, hw, hb⟩ := ih he
      split
      · next w bs r hc =>
        rw [hc] at hg
        split
        · rcases List.mem_cons.1 hg with rfl | hg
          · exact ⟨_, List.mem_cons_self, hw, List.mem_cons_of_mem _ hb⟩
          · exact ⟨g, List.mem_cons_of_mem _ hg, hw, hb⟩
        · exact ⟨g, List.mem_cons_of_mem _ hg, hw, hb⟩
      · next hc =>
        rw [hc] at hg
        cases hg

/-- The words of a rising list rise, and so do the bytes of each. -/
theorem sorted_groupWords {c : Sparse Byte} (h : Sparse.sorted none c = true) :
    Sparse.sorted none (groupWords c) = true ∧ ∀ g ∈ groupWords c, Sparse.sorted none g.2 = true := by
  induction c with
  | nil => exact ⟨rfl, List.forall_mem_nil _⟩
  | cons e c ih =>
    obtain ⟨k, b⟩ := e
    obtain ⟨hc, hlt⟩ := Sparse.sorted_cons_iff.1 h
    obtain ⟨hwords, hbytes⟩ := ih hc
    have hrise : ∀ g ∈ groupWords c, k / 8 ≤ g.1 := fun g hg => by
      obtain ⟨hne, hp⟩ := mem_groupWords hg
      obtain ⟨p, hmem⟩ := List.exists_mem_of_ne_nil _ hne
      obtain ⟨h8, hin⟩ := hp p hmem
      have := hlt _ hin
      simp only at this
      omega
    rw [groupWords]
    split
    · next w bs r hg =>
      rw [hg] at hwords hbytes hrise
      have hgroup : ∀ p ∈ bs, p.1 < 8 ∧ (w * 8 + p.1, p.2) ∈ c := (mem_groupWords (g := (w, bs)) (hg ▸ List.mem_cons_self)).2
      obtain ⟨hr, hwr⟩ := Sparse.sorted_cons_iff.1 hwords
      split
      · next hw =>
        refine ⟨Sparse.sorted_cons_iff.2 ⟨hr, hwr⟩, List.forall_mem_cons.2 ⟨?_, fun g hg => hbytes g (List.mem_cons_of_mem _ hg)⟩⟩
        refine Sparse.sorted_cons_iff.2 ⟨hbytes (w, bs) List.mem_cons_self, fun p hp => ?_⟩
        obtain ⟨_, hin⟩ := hgroup p hp
        have := hlt _ hin
        simp only at this ⊢
        omega
      · next hw =>
        refine ⟨Sparse.sorted_cons_iff.2 ⟨hwords, fun g hg => ?_⟩, List.forall_mem_cons.2 ⟨rfl, hbytes⟩⟩
        have hw1 := hrise (w, bs) List.mem_cons_self
        simp only at hw1
        rcases List.mem_cons.1 hg with rfl | hg
        · change k / 8 < w
          omega
        · have := hwr g hg
          simp only at this ⊢
          omega
    · exact ⟨rfl, fun g hg => by obtain rfl := List.mem_singleton.1 hg; rfl⟩

/-- A group of eight bytes is the whole word. -/
theorem mem_of_whole {bs : List (Nat × Byte)} (hs : Sparse.sorted none bs = true) (h8 : ∀ p ∈ bs, p.1 < 8) (hlen : bs.length = 8)
    {i : Nat} (hi : i < 8) : i ∈ bs.map (·.1) := by
  have hsub : bs.map (·.1) ⊆ List.range 8 := fun j hj => by
    obtain ⟨p, hp, rfl⟩ := List.mem_map.1 hj
    exact List.mem_range.2 (h8 p hp)
  have hperm := (List.subperm_of_subset (Sparse.nodup_keys hs) hsub).perm_of_length_le (by simp [hlen])
  exact hperm.mem_iff.2 (List.mem_range.2 hi)

end Sys2Proof.Machine
end

section
/-!
PROOFS. A write of bytes at memory keys (R308, R336, R340, R516): what it leaves for a reader, word by word.
-/
namespace Sys2Proof.Machine

theorem readSyndrome_dataBit_lt {e i : Nat} (h : readSyndrome e = .dataBit i) : i < 64 := by
  have hcols : hsiaoDataColumns.length = 64 := by decide
  unfold readSyndrome at h
  split at h
  · cases h
  · split at h
    · cases h
    · split at h
      · next hi =>
        cases h
        obtain ⟨hlt, _⟩ := List.findIdx?_eq_some_iff_getElem.1 hi
        omega
      · split at h <;> cases h

namespace Mem

variable {m : Mem}

/-! ### Dross -/

theorem syn_markDross_self {k w : Nat} (h : w / 16 = k / 128) : Sparse.get 0 (m.markDross k).syn w = 0xFF :=
  syn_foldl_putSyn (fun i => k / 128 * 16 + i) (fun _ => 0xFF) w _ _ _ (fun _ _ _ => rfl)
    (.inr ⟨w % 16, List.mem_range.2 (Nat.mod_lt _ (by decide)), by omega⟩)

theorem syn_markDross_cases (k w : Nat) :
    Sparse.get 0 (m.markDross k).syn w = 0xFF ∨ Sparse.get 0 (m.markDross k).syn w = Sparse.get 0 m.syn w := by
  by_cases h : w / 16 = k / 128
  · exact .inl (syn_markDross_self h)
  · exact .inr (syn_markDross_apart h)

/-- A dross word stays dross as atoms are marked. -/
theorem syn_markAll_dross (l : List Nat) {w : Nat} (h : Sparse.get 0 m.syn w = 0xFF) : Sparse.get 0 (l.foldl Mem.markDross m).syn w = 0xFF := by
  induction l generalizing m with
  | nil => exact h
  | cons k l ih =>
    rw [List.foldl_cons]
    exact ih ((syn_markDross_cases k w).elim id (fun e => e.trans h))

theorem atomDross_of_word {j w : Nat} (hw : w / 16 = j / 128) (h : Sparse.get 0 m.syn w = 0xFF) : m.atomDross j = true := by
  unfold atomDross
  refine List.any_eq_true.2 ⟨w % 16, List.mem_range.2 (Nat.mod_lt _ (by decide)), ?_⟩
  rw [show j / 128 * 16 + w % 16 = w by omega, h]
  rfl

/-- An atom that is among those marked is dross. -/
theorem atomDross_markAll {l : List Nat} {j : Nat} (h : ∃ k ∈ l, k / 128 = j / 128) : (l.foldl Mem.markDross m).atomDross j = true := by
  obtain ⟨k, hk, hj⟩ := h
  obtain ⟨a, b, rfl⟩ := List.append_of_mem hk
  rw [List.foldl_append, List.foldl_cons]
  exact atomDross_of_word (w := j / 8) (by omega) (syn_markAll_dross b (syn_markDross_self (by omega)))

theorem goodByte_markAll_apart {l : List Nat} {j : Nat} (h : ∀ k ∈ l, k / 128 ≠ j / 128) :
    (l.foldl Mem.markDross m).goodByte j = m.goodByte j := by
  induction l generalizing m with
  | nil => rfl
  | cons k l ih =>
    rw [List.foldl_cons, ih (fun k hk => h k (List.mem_cons_of_mem _ hk))]
    exact goodByte_markDross_apart (Ne.symm (h k List.mem_cons_self))

/-! ### A byte that stays as it has been written -/

/-- Key x holds byte b, in a word that has no single-bit error to correct. -/
structure Holds (m : Mem) (x : Nat) (b : Byte) : Prop where
  byte : m.byte x = b
  settled : m.syndrome (x / 8) = .clean ∨ m.syndrome (x / 8) = .dross

namespace Holds

variable {x : Nat} {b : Byte}

theorem goodByte (h : m.Holds x b) : m.goodByte x = b := by
  unfold Mem.goodByte
  rcases h.settled with hs | hs <;> simp only [hs, h.byte]

theorem of_syn (hb : m.byte x = b) {e : Byte} (he : Sparse.get 0 m.syn (x / 8) = e) (hs : e = 0 ∨ e = 0xFF) : m.Holds x b := by
  refine ⟨hb, ?_⟩
  unfold syndrome
  rw [he]
  rcases hs with rfl | rfl
  · exact .inl rfl
  · exact .inr rfl

theorem congr {m' : Mem} (h : m.Holds x b) (hb : m'.byte x = m.byte x) (hs : Sparse.get 0 m'.syn (x / 8) = Sparse.get 0 m.syn (x / 8)) :
    m'.Holds x b := by
  refine ⟨hb.trans h.byte, ?_⟩
  unfold syndrome
  rw [hs]
  exact h.settled

theorem markDross (h : m.Holds x b) (k : Nat) : (m.markDross k).Holds x b := by
  rcases m.syn_markDross_cases k (x / 8) with hs | hs
  · exact of_syn ((byte_markDross _ _ _).trans h.byte) hs (.inr rfl)
  · exact h.congr (byte_markDross _ _ _) hs

theorem markAll (h : m.Holds x b) (l : List Nat) : (l.foldl Mem.markDross m).Holds x b := by
  induction l generalizing m with
  | nil => exact h
  | cons k l ih =>
    rw [List.foldl_cons]
    exact ih (h.markDross k)

end Holds

/-! ### One word -/

/-- The bytes of a word put, without its check byte. -/
def putBytes (m : Mem) (w : Nat) (bs : List (Nat × Byte)) : Mem := bs.foldl (fun m b => m.putByte (w * 8 + b.1) b.2) m

section

variable {w : Nat} {bs : List (Nat × Byte)}

theorem syn_putBytes : (m.putBytes w bs).syn = m.syn := syn_foldl_putByte (fun b : Nat × Byte => w * 8 + b.1) (fun b => b.2) bs m

theorem byte_putBytes_unlisted {x : Nat} (h : ∀ p ∈ bs, w * 8 + p.1 ≠ x) : (m.putBytes w bs).byte x = m.byte x :=
  byte_foldl_putByte (fun b : Nat × Byte => w * 8 + b.1) (fun b => b.2) x _ _ _ (fun p hp hk => absurd hk (h p hp)) (.inl rfl)

theorem byte_putBytes_listed (hs : Sparse.sorted none bs = true) {p : Nat × Byte} (hp : p ∈ bs) : (m.putBytes w bs).byte (w * 8 + p.1) = p.2 :=
  byte_foldl_putByte (fun b : Nat × Byte => w * 8 + b.1) (fun b => b.2) _ _ _ _
    (fun q hq hk => by rw [Sparse.eq_of_key hs hq hp (Nat.add_left_cancel hk)]) (.inr ⟨p, hp, rfl⟩)

/-- R308: a write of a word puts its bytes; it gives the word a good check byte, over the corrected bytes that it does not replace; or the
word, clean or dross, keeps its check byte; or it becomes dross with its atom. -/
theorem writeWord_cases (m : Mem) (w : Nat) (bs : List (Nat × Byte)) :
    (∃ v : Mem, v.syn = m.syn ∧ (∀ x, x / 8 ≠ w → v.byte x = m.byte x) ∧
      (bs.length ≠ 8 → ∀ x, x / 8 = w → v.byte x = m.goodByte x) ∧ (m.writeWord w bs).1 = (v.putBytes w bs).putSyn w 0) ∨
    ((m.syndrome w = .clean ∨ m.syndrome w = .dross) ∧ (m.writeWord w bs).1 = m.putBytes w bs) ∨
    (m.writeWord w bs).1 = (m.putBytes w bs).markDross (w * 8) := by
  unfold writeWord
  simp only
  split
  · next h8 => exact .inl ⟨m, rfl, fun _ _ => rfl, fun hne => absurd h8 hne, rfl⟩
  · cases hsyn : m.syndrome w with
    | clean => exact .inr (.inl ⟨.inl rfl, rfl⟩)
    | dross => exact .inr (.inl ⟨.inr rfl, rfl⟩)
    | uncorrectable => exact .inr (.inr rfl)
    | checkBit j =>
      refine .inl ⟨m, rfl, fun _ _ => rfl, fun _ x hx => ?_, rfl⟩
      unfold Mem.goodByte
      rw [hx, hsyn]
    | dataBit i =>
      have hi : i < 64 := readSyndrome_dataBit_lt hsyn
      refine .inl ⟨_, putByte_syn m (w * 8 + i / 8) _, fun x hx => ?_, fun _ x hx => ?_, rfl⟩
      · rw [byte_putByte, if_neg (by omega)]
      · rw [byte_putByte]
        split
        · next hk => rw [hk]
        · next hk =>
          unfold Mem.goodByte
          rw [hx, hsyn]
          simp only
          rw [if_neg (by omega)]

/-- The bytes put are held. -/
theorem Holds.of_writeWord (hs : Sparse.sorted none bs = true) {p : Nat × Byte} (hp : p ∈ bs) (h8 : p.1 < 8) :
    (m.writeWord w bs).1.Holds (w * 8 + p.1) p.2 := by
  have hw : (w * 8 + p.1) / 8 = w := by omega
  rcases m.writeWord_cases w bs with ⟨v, _, _, _, hv⟩ | ⟨hsettled, hv⟩ | hv <;> rw [hv]
  · refine of_syn (e := 0) ?_ ?_ (.inl rfl)
    · rw [byte_putSyn, byte_putBytes_listed hs hp]
    · rw [hw, syn_putSyn, if_pos rfl]
      rfl
  · refine ⟨byte_putBytes_listed hs hp, ?_⟩
    unfold syndrome at hsettled ⊢
    rw [hw, syn_putBytes]
    exact hsettled
  · refine of_syn (e := 0xFF) ?_ (syn_markDross_self (by omega)) (.inr rfl)
    rw [byte_markDross, byte_putBytes_listed hs hp]

/-- What another word holds stays. -/
theorem Holds.writeWord {x : Nat} {b : Byte} (h : m.Holds x b) (h8 : ∀ p ∈ bs, p.1 < 8) (hx : x / 8 ≠ w) : (m.writeWord w bs).1.Holds x b := by
  have hput : ∀ v : Mem, (v.putBytes w bs).byte x = v.byte x := fun v => byte_putBytes_unlisted fun p hp => by
    have := h8 p hp
    omega
  rcases m.writeWord_cases w bs with ⟨v, hsyn, hbyte, _, hv⟩ | ⟨_, hv⟩ | hv <;> rw [hv]
  · refine h.congr ?_ ?_
    · rw [byte_putSyn, hput, hbyte x hx]
    · rw [syn_putSyn, if_neg (Ne.symm hx), syn_putBytes, hsyn]
  · exact h.congr (hput m) (by rw [syn_putBytes])
  · exact (h.congr (hput m) (by rw [syn_putBytes])).markDross _

/-- A dross word stays dross while another is written. -/
theorem syn_writeWord_dross {v : Nat} (h : Sparse.get 0 m.syn v = 0xFF) (hv : v ≠ w) : Sparse.get 0 (m.writeWord w bs).1.syn v = 0xFF := by
  rcases m.writeWord_cases w bs with ⟨u, hsyn, _, _, hu⟩ | ⟨_, hu⟩ | hu <;> rw [hu]
  · rw [syn_putSyn, if_neg (Ne.symm hv), syn_putBytes, hsyn, h]
  · rw [syn_putBytes, h]
  · exact (syn_markDross_cases _ _).elim id (fun e => by rw [e, syn_putBytes, h])

/-- R308, R336: a byte that is not put reads as before, unless the word written has made dross of its atom. -/
theorem goodByte_writeWord {x : Nat} (hx : ∀ p ∈ bs, w * 8 + p.1 ≠ x) (hwhole : x / 8 = w → bs.length ≠ 8) :
    (m.writeWord w bs).1.goodByte x = m.goodByte x ∨ (w / 16 = x / 128 ∧ Sparse.get 0 (m.writeWord w bs).1.syn w = 0xFF) := by
  have hput : ∀ v : Mem, (v.putBytes w bs).byte x = v.byte x := fun v => byte_putBytes_unlisted hx
  rcases m.writeWord_cases w bs with ⟨v, hsyn, hbyte, hgood, hv⟩ | ⟨_, hv⟩ | hv <;> rw [hv]
  · left
    by_cases hw : x / 8 = w
    · rw [goodByte_of_good, byte_putSyn, hput, hgood (hwhole hw) x hw]
      rw [hw, syn_putSyn, if_pos rfl]
      rfl
    · refine goodByte_congr ?_ ?_ rfl
      · rw [byte_putSyn, hput, hbyte x hw]
      · rw [syn_putSyn, if_neg (Ne.symm hw), syn_putBytes, hsyn]
  · exact .inl (goodByte_congr (hput m) (by rw [syn_putBytes]) rfl)
  · by_cases hw : w / 16 = x / 128
    · exact .inr ⟨hw, syn_markDross_self (by omega)⟩
    · left
      rw [goodByte_markDross_apart (by omega)]
      exact goodByte_congr (hput m) (by rw [syn_putBytes]) rfl

end

/-! ### Word after word -/

/-- The words of a list of groups written one after another. -/
def writeWords (m : Mem) (gs : List (Nat × List (Nat × Byte))) : Mem := gs.foldl (fun m g => (m.writeWord g.1 g.2).1) m

/-- Groups of different words, with each word's bytes in rising order. -/
structure Groups (gs : List (Nat × List (Nat × Byte))) : Prop where
  words : (gs.map (·.1)).Nodup
  bytes : ∀ g ∈ gs, Sparse.sorted none g.2 = true
  small : ∀ g ∈ gs, ∀ p ∈ g.2, p.1 < 8

theorem Groups.of_groupWords {c : Sparse Byte} (h : Sparse.sorted none c = true) : Groups (groupWords c) := by
  obtain ⟨hwords, hbytes⟩ := sorted_groupWords h
  exact ⟨Sparse.nodup_keys hwords, hbytes, fun g hg p hp => ((mem_groupWords hg).2 p hp).1⟩

theorem Groups.tail {g : Nat × List (Nat × Byte)} {gs : List (Nat × List (Nat × Byte))} (h : Groups (g :: gs)) :
    Groups gs ∧ ∀ e ∈ gs, e.1 ≠ g.1 := by
  obtain ⟨hw, hb, h8⟩ := h
  rw [List.map_cons, List.nodup_cons] at hw
  obtain ⟨hnot, hw⟩ := hw
  exact ⟨⟨hw, fun e he => hb e (List.mem_cons_of_mem _ he), fun e he => h8 e (List.mem_cons_of_mem _ he)⟩,
    fun e he heq => hnot (heq ▸ List.mem_map_of_mem he)⟩

theorem Holds.writeWords {gs : List (Nat × List (Nat × Byte))} {x : Nat} {b : Byte} (h : m.Holds x b) (hg : Groups gs)
    (hx : ∀ g ∈ gs, x / 8 ≠ g.1) : (m.writeWords gs).Holds x b := by
  induction gs generalizing m with
  | nil => exact h
  | cons g gs ih =>
    exact ih (h.writeWord (hg.small g List.mem_cons_self) (hx g List.mem_cons_self)) hg.tail.1 (fun e he => hx e (List.mem_cons_of_mem _ he))

/-- Every byte of the groups is held. -/
theorem Holds.of_writeWords {gs : List (Nat × List (Nat × Byte))} (hg : Groups gs) {g : Nat × List (Nat × Byte)} (hin : g ∈ gs)
    {p : Nat × Byte} (hp : p ∈ g.2) : (m.writeWords gs).Holds (g.1 * 8 + p.1) p.2 := by
  induction gs generalizing m with
  | nil => cases hin
  | cons e gs ih =>
    obtain ⟨htail, hne⟩ := hg.tail
    rcases List.mem_cons.1 hin with rfl | hin
    · have h8 := hg.small g List.mem_cons_self p hp
      refine (Holds.of_writeWord (hg.bytes g List.mem_cons_self) hp h8).writeWords htail fun f hf heq => hne f hf ?_
      omega
    · exact ih htail hin

/-- Every other byte reads as before, unless a word of its atom has become dross. -/
theorem goodByte_writeWords {gs : List (Nat × List (Nat × Byte))} {x : Nat} (hg : Groups gs) (hx : ∀ g ∈ gs, ∀ p ∈ g.2, g.1 * 8 + p.1 ≠ x)
    (b : Byte) (h : m.goodByte x = b ∨ ∃ v, v / 16 = x / 128 ∧ (∀ g ∈ gs, v ≠ g.1) ∧ Sparse.get 0 m.syn v = 0xFF) :
    (m.writeWords gs).goodByte x = b ∨ ∃ v, v / 16 = x / 128 ∧ Sparse.get 0 (m.writeWords gs).syn v = 0xFF := by
  induction gs generalizing m with
  | nil => exact h.imp id (fun ⟨v, hv, _, hs⟩ => ⟨v, hv, hs⟩)
  | cons g gs ih =>
    obtain ⟨htail, hne⟩ := hg.tail
    have hx0 := hx g List.mem_cons_self
    refine ih htail (fun e he => hx e (List.mem_cons_of_mem _ he)) ?_
    rcases h with h | ⟨v, hv, hvne, hs⟩
    · have hwhole : x / 8 = g.1 → g.2.length ≠ 8 := fun hw hlen => by
        have hall := mem_of_whole (hg.bytes g List.mem_cons_self) (hg.small g List.mem_cons_self) hlen (Nat.mod_lt x (by decide))
        obtain ⟨p, hp, hk⟩ := List.mem_map.1 hall
        exact hx0 p hp (by omega)
      rcases goodByte_writeWord (m := m) hx0 hwhole with hsame | ⟨hw, hs⟩
      · exact .inl (hsame.trans h)
      · exact .inr ⟨g.1, hw, fun e he => Ne.symm (hne e he), hs⟩
    · exact .inr ⟨v, hv, fun e he => hvne e (List.mem_cons_of_mem _ he), syn_writeWord_dross hs (hvne g List.mem_cons_self)⟩

end Mem

end Sys2Proof.Machine
end

section
/-!
PROOFS. A run of bytes written at device addresses that nothing guards is stored (R308, R336, R340, R353, R400, R446).
-/
namespace Sys2Proof.Machine

/-! ### The merge with stored words -/

/-- R340: the accounting of a controller's read changes no memory, but where it makes dross of the atom read. -/
theorem Hw.accountWords_mem (s : Hw) (a : Nat) (es : List (Nat × Syndrome)) (event : Nat) : (s.accountWords a es event).mem =
    if (es.filter (fun e => e.2 == .uncorrectable)).length = 0 then s.mem else s.mem.markDross a := by
  have hones : ∀ (c : Nat) (l : List (Nat × Syndrome)), (l.foldl (fun s e => s.countSingle c e.2) s).mem = s.mem := fun c l =>
    Hw.foldl_mem (fun s (e : Nat × Syndrome) => s.countSingle c e.2) (fun _ _ => Hw.countSingle_mem _ _ _) l s
  unfold Hw.accountWords
  simp only
  split
  · split
    · exact hones _ _
    · rw [Hw.queueScrub_mem, hones]
  · rw [Hw.propose_mem, Hw.raise_mem, Hw.bump_mem, Hw.bump_mem, hones]

/-- One atom that a write covers in part, read: the step of `Hw.mergeAtoms`. -/
def Hw.mergeStep (gs : List (Nat × List (Nat × Byte))) (r : Hw × List Nat) (a : Nat) : Hw × List Nat :=
  let es := r.1.withSyn (r.1.mergeReads a gs)
  let ue := (es.filter (fun e => e.2 == .uncorrectable)).length
  ((r.1.accountWords a es 0x5011).bump F.FLT_UE_COUNT 0 ue, if ue = 0 then r.2 else r.2 ++ [a])

theorem Hw.mergeAtoms_eq (s : Hw) (gs : List (Nat × List (Nat × Byte))) : ∃ l : List Nat, s.mergeAtoms gs = l.foldl (Hw.mergeStep gs) (s, []) :=
  ⟨_, rfl⟩

/-- R336, R340: outside the atoms that a merge makes dross, every byte reads as before. -/
theorem Hw.goodByte_mergeAtoms (s : Hw) (gs : List (Nat × List (Nat × Byte))) {x : Nat} (h : ∀ a ∈ (s.mergeAtoms gs).2, a / 128 ≠ x / 128) :
    (s.mergeAtoms gs).1.mem.goodByte x = s.mem.goodByte x := by
  have hfold : ∀ (l : List Nat) (r : Hw × List Nat), ((∀ a ∈ r.2, a / 128 ≠ x / 128) → r.1.mem.goodByte x = s.mem.goodByte x) →
      (∀ a ∈ (l.foldl (Hw.mergeStep gs) r).2, a / 128 ≠ x / 128) →
      (l.foldl (Hw.mergeStep gs) r).1.mem.goodByte x = s.mem.goodByte x := fun l => by
    induction l with
    | nil => exact fun r hr => hr
    | cons a l ih =>
      refine fun r hr => ih _ fun hlist => ?_
      unfold Hw.mergeStep at hlist ⊢
      simp only at hlist ⊢
      rw [Hw.bump_mem, Hw.accountWords_mem]
      split
      · next h0 => exact hr (by simpa only [h0, if_true] using hlist)
      · next h0 =>
        simp only [h0, if_false, List.forall_mem_append, List.forall_mem_singleton] at hlist
        obtain ⟨hold, ha⟩ := hlist
        rw [Mem.goodByte_markDross_apart (Ne.symm ha)]
        exact hr hold
  obtain ⟨l, hl⟩ := s.mergeAtoms_eq gs
  rw [hl] at h ⊢
  exact hfold l (s, []) (fun _ => rfl) h

/-! ### Writes at memory keys -/

/-- R308: cells written: the merge, the words, and the atoms that the merge has made dross. -/
theorem Hw.writeKeys_mem_eq (s : Hw) (c : Sparse Byte) : (s.writeKeys c).mem =
    (s.mergeAtoms (groupWords c)).2.foldl Mem.markDross ((s.mergeAtoms (groupWords c)).1.mem.writeWords (groupWords c)) := by
  have hwords : ∀ (l : List (Nat × List (Nat × Byte))) (v : Hw),
      (l.foldl (fun s g => (({ s with mem := (s.mem.writeWord g.1 g.2).1 } : Hw).countMerge g.1 (s.mem.writeWord g.1 g.2).2.1
        (s.mem.writeWord g.1 g.2).2.2).takeForwarded g.1 (g.2.length != 8)) v).mem = v.mem.writeWords l := fun l => by
    induction l with
    | nil => exact fun _ => rfl
    | cons g l ih =>
      intro v
      rw [List.foldl_cons, ih, Hw.takeForwarded_mem, Hw.countMerge_mem]
      rfl
  exact congrArg (List.foldl Mem.markDross · _) (hwords _ _)

variable {s : Hw} {c : Sparse Byte}

/-- Every byte of a rising list that is written is read back. -/
theorem Hw.goodByte_writeKeys (hc : Sparse.sorted none c = true) {e : Nat × Byte} (he : e ∈ c) : (s.writeKeys c).mem.goodByte e.1 = e.2 := by
  obtain ⟨g, hg, hw, hp⟩ := exists_groupWords he
  have hwritten := Mem.Holds.of_writeWords (m := (s.mergeAtoms (groupWords c)).1.mem) (.of_groupWords hc) hg hp
  have hholds := hwritten.markAll (s.mergeAtoms (groupWords c)).2
  have hkey : g.1 * 8 + e.1 % 8 = e.1 := by omega
  rw [Hw.writeKeys_mem_eq, ← hholds.goodByte, hkey]

/-- Every other byte reads as before, or its atom is dross. -/
theorem Hw.goodByte_writeKeys_other (hc : Sparse.sorted none c = true) {x : Nat} (hx : ∀ e ∈ c, e.1 ≠ x) :
    (s.writeKeys c).mem.atomDross x = true ∨ (s.writeKeys c).mem.goodByte x = s.mem.goodByte x := by
  rw [Hw.writeKeys_mem_eq]
  by_cases hdross : ∃ a ∈ (s.mergeAtoms (groupWords c)).2, a / 128 = x / 128
  · exact .inl (Mem.atomDross_markAll hdross)
  · simp only [not_exists, not_and] at hdross
    have hmerge := s.goodByte_mergeAtoms (groupWords c) hdross
    rcases Mem.goodByte_writeWords (.of_groupWords hc) (fun g hg p hp => hx _ ((mem_groupWords hg).2 p hp).2) _ (.inl hmerge) with h | ⟨v, hv, hs⟩
    · exact .inr ((Mem.goodByte_markAll_apart hdross).trans h)
    · exact .inl (Mem.atomDross_of_word hv (Mem.syn_markAll_dross _ hs))

/-! ### Writes at device addresses -/

/-- R353, R400, R446: where every byte is taken, nothing is discarded: the bytes are written at their keys, in a state with the memory of s. -/
theorem Hw.writeAddrs_takes (key : Nat → Nat) (h : ∀ e ∈ c, s.Takes e.1 (key e.1)) : ∃ v : Hw, v.mem = s.mem ∧
    (s.writeAddrs c).mem = (v.writeKeys ((c.map (fun e => (key e.1, e.2))).foldl (fun m e => Sparse.set m e.1 e.2) [])).mem := by
  have hhit : (if s.flag F.PAT_STATUS_LOCKED || s.pat.sec.isSome then (List.find? (fun e => s.lockedAt e.1) c).map (·.1) else none) = none := by
    have hfind : List.find? (fun e => s.lockedAt e.1) c = none := List.find?_eq_none.2 fun e he => by rw [(h e he).1]; exact Bool.false_ne_true
    rw [hfind]
    split <;> rfl
  unfold Hw.writeAddrs
  rw [hhit]
  simp only [Option.isSome_none, Bool.false_eq_true, if_false, Hw.noteMirror_mem]
  change ∃ v : Hw, v.mem = s.mem ∧ (Hw.writeKeys (List.foldl _ (c.foldl Hw.writeStep (s, [])).1 _) (c.foldl Hw.writeStep (s, [])).2).mem = _
  rw [Hw.foldl_writeStep_takes key c h []]
  refine ⟨_, Hw.foldl_mem (fun s (e : Nat × Nat) => s.offAccess e.1 e.2) (fun s e => Hw.offAccess_mem s e.1 e.2) _ s, rfl⟩

/-- A run of bytes written where each is taken is stored. -/
theorem Stored.of_writeAddrs {a k : Nat} {bs : List Byte} (hs : Spells c a bs) (h : ∀ i < bs.length, s.Takes (a + i) (k + i)) :
    Stored s (s.writeAddrs c) k bs := by
  obtain ⟨v, hv, hmem⟩ := Hw.writeAddrs_takes (fun x => k + (x - a)) (c := c) fun e he => by
    obtain ⟨i, hi, rfl⟩ := hs.only e he
    simpa using h i hi
  have hspells := (hs.rekey k).foldl_set
  have hsorted := Sparse.sorted_foldl_set (c.map (fun e => (k + (e.1 - a), e.2))) [] rfl
  unfold Stored
  rw [hmem, ← hv]
  refine ⟨fun i hi => ?_, fun j hj => Hw.goodByte_writeKeys_other hsorted fun e he => ?_⟩
  · obtain ⟨e, he, hk⟩ := hspells.all i hi
    obtain ⟨n, hn, rfl⟩ := hspells.only e he
    obtain rfl : n = i := Nat.add_left_cancel hk
    exact Hw.goodByte_writeKeys hsorted he
  · obtain ⟨n, hn, rfl⟩ := hspells.only e he
    simp only
    omega

theorem Stored.of_writeRun {a k : Nat} {bs : List Byte} (h : ∀ i < bs.length, s.Takes (a + i) (k + i)) : Stored s (s.writeRun a bs) k bs :=
  .of_writeAddrs (.of_runCells a bs) h

end Sys2Proof.Machine
end

section
/-!
PROOFS. The start of a mailbox operation (R198, R199, R212, R220 to R222, R460).
-/
namespace Sys2Proof.Machine

/-! ### The operation taken -/

/-- R221: GO has been given with an operation and an identifier. -/
def Hw.going (s : Hw) (op id : Nat) : Hw := ((s.fset F.STRM_DESC_OP_OP op).fset F.STRM_DESC_OP_ID id).fset F.STRM_DESC_OP_GO 1

def Hw.setMail (s : Hw) (m : Option MailOp) : Hw := { s with mail := m }

/-- R221: the operation that has done its work runs on, with BUSY set, until it ends. -/
def Hw.runsOn (r : Hw × MailOp) : Hw := (r.1.fset F.STRM_DESC_RESULT_BUSY 1).setMail (some r.2)

section

variable {s : Hw} (op id : Nat) (f : Hw → Hw × MailOp)

theorem Hw.mailStart_eq (hlive : s.regsLive = true) (hmail : s.mail = none) (hmap : s.mu.mapped = true) :
    s.mailStart op id f = Hw.runsOn (f (s.going op id)) := by
  unfold Hw.mailStart
  rw [if_neg (by rw [hlive]; exact Bool.false_ne_true), if_neg (by rw [hmail]; exact Bool.false_ne_true)]
  extract_lets
  rw [if_neg (by rw [hmap]; exact Bool.false_ne_true)]
  rfl

/-- R221: with an operation running GO raises its event. -/
theorem Hw.mailStart_busy (hlive : s.regsLive = true) (hmail : s.mail ≠ none) : s.mailStart op id f = s.raise 0xC054 op id := by
  unfold Hw.mailStart
  simp only [hlive, Option.isSome_iff_ne_none.2 hmail, Bool.not_true, Bool.false_eq_true, if_false, if_true]

variable (s)

theorem RegsKept.going : RegsKept [.STRM_DESC_OP] s (s.going op id) :=
  (((refl _ s).fset F.STRM_DESC_OP_OP _ 0 (by decide)).fset F.STRM_DESC_OP_ID _ 0 (by decide)).fset F.STRM_DESC_OP_GO _ 0 (by decide)

theorem RegsOnly.going : RegsOnly s (s.going op id) := (((refl s).fset _ _ _).fset _ _ _).fset _ _ _

theorem MapKept.going : MapKept s (s.going op id) :=
  (((refl s).fset F.STRM_DESC_OP_OP _ 0).fset F.STRM_DESC_OP_ID _ 0).fset F.STRM_DESC_OP_GO _ 0

@[simp] theorem Hw.going_mem : (s.going op id).mem = s.mem := by rw [RegsOnly.going s op id]
@[simp] theorem Hw.going_regions : (s.going op id).regions = s.regions := by rw [RegsOnly.going s op id]
@[simp] theorem Hw.going_mu : (s.going op id).mu = s.mu := by rw [RegsOnly.going s op id]

@[simp] theorem Hw.going_tableCap : (s.going op id).tableCap = s.tableCap := by
  unfold Hw.tableCap Hw.fget
  rw [RegsKept.going s op id .STRM_TDESC_CAP 0 (by decide)]

@[simp] theorem Hw.going_tableBase : (s.going op id).tableBase = s.tableBase := by
  unfold Hw.tableBase Hw.rd64
  rw [RegsKept.going s op id .STRM_TDESC_BASE_LO 0 (by decide), RegsKept.going s op id .STRM_TDESC_BASE_HI 0 (by decide)]

@[simp] theorem Hw.going_mailImage : (s.going op id).mailImage = s.mailImage := by
  unfold Hw.mailImage
  simp only [RegsKept.going s op id .STRM_DESC_DATA _ (by decide)]

@[simp] theorem Hw.going_descEntry (n : Nat) : (s.going op id).descEntry n = s.descEntry n := by
  unfold Hw.descEntry Hw.peekRun
  simp only [Hw.going_tableCap, Hw.going_tableBase, (MapKept.going s op id).peek (s.going_mem op id)]

@[simp] theorem Hw.going_regionRec (n : Nat) : (s.going op id).regionRec n = s.regionRec n := by
  unfold Hw.regionRec
  rw [Hw.going_regions]

theorem Hw.going_me : (s.going op id).me = s.me := by
  unfold Hw.me Hw.fget
  rw [RegsKept.going s op id .LNK_MODULE 0 (by decide)]

@[simp] theorem Hw.going_descCheck (n : Nat) (d : Record64) : (s.going op id).descCheck n d = s.descCheck n d := by
  unfold Hw.descCheck Hw.descAttrs
  simp only [Hw.going_tableCap, Hw.going_descEntry, Hw.going_regionRec]

@[simp] theorem Hw.going_regionCheck (n : Nat) (r : BitVec 128) : (s.going op id).regionCheck n r = s.regionCheck n r := by
  unfold Hw.regionCheck
  simp only [Hw.going_tableCap, Hw.going_tableBase, Hw.going_regionRec, Hw.going_regions, Hw.going_mu, Hw.going_me]

@[simp] theorem Hw.going_regionInUse (n : Nat) : (s.going op id).regionInUse n = s.regionInUse n := by
  unfold Hw.regionInUse Hw.inTable
  simp only [Hw.going_mem, Hw.going_tableCap, Hw.going_tableBase, Hw.going_descEntry]

end

end Sys2Proof.Machine
end

section
/-!
PROOFS. What each mailbox operation does at its start (R198, R199, R212, R220 to R222), and O16.
-/
namespace Sys2Proof.Machine

/-! ### The work of the operations -/

/-- R212: the work of TDESC.CREATE. -/
def Hw.createEntry (id : Nat) (s : Hw) : Hw × MailOp :=
  if s.tableCap = 0 then (s, MailOp.of 9)
  else if (s.descCheck id s.mailImage).code = 1 then
    ((s.writeEntry id (s.mailImage.toNat ||| 1)).fset F.STRM_TDESC_LIVE_COUNT (s.fget F.STRM_TDESC_LIVE_COUNT + 1), s.descCheck id s.mailImage)
  else (s, s.descCheck id s.mailImage)

/-- R222: the work of TDESC.DESTROY. -/
def Hw.destroyEntry (id : Nat) (s : Hw) : Hw × MailOp :=
  if s.tableCap = 0 then (s, MailOp.of 9)
  else if Desc.valid (s.descEntry id) then (s, { MailOp.of 1 with destroy := some id })
  else (s, MailOp.of 8)

/-- R221: the work of TDESC.READ. -/
def Hw.readEntry (id : Nat) (s : Hw) : Hw × MailOp :=
  if s.tableCap = 0 then (s, MailOp.of 9)
  else if s.tableCap ≤ id then (s, MailOp.of 8)
  else (s.mailReturn 16 (s.descEntry id).toNat, MailOp.of 1)

/-- R198: the work of REGION.CREATE. -/
def Hw.createRegion (id : Nat) (s : Hw) : Hw × MailOp :=
  let r : BitVec 128 := BitVec.ofNat 128 s.mailImage.toNat
  if (s.regionCheck (id % 4096) r).1 = 1 then ({ s with regions := Sparse.set s.regions (id % 4096) r }, MailOp.of 1)
  else (s, { MailOp.of (s.regionCheck (id % 4096) r).1 with offset := (s.regionCheck (id % 4096) r).2 })

/-- R199: the work of REGION.DESTROY. -/
def Hw.destroyRegion (id : Nat) (s : Hw) : Hw × MailOp :=
  match s.regionRec (id % 4096) with
  | none => (s, MailOp.of 8)
  | some _ =>
    if s.regionInUse (id % 4096) then (s, MailOp.of 7) else ({ s with regions := Sparse.erase s.regions (id % 4096) }, MailOp.of 1)

/-- R221: the work of REGION.READ. -/
def Hw.readRegion (id : Nat) (s : Hw) : Hw × MailOp :=
  match s.regionRec (id % 4096) with
  | none => (s, MailOp.of 8)
  | some r => (s.mailReturn 4 r.toNat, MailOp.of 1)

section

variable (id : BitVec 20) (s : State)

theorem exec_tdescCreate : exec (.tdescCreate id) s = s.onHw (fun h => h.mailStart 1 id.toNat (Hw.createEntry id.toNat)) := rfl
theorem exec_tdescDestroy : exec (.tdescDestroy id) s = s.onHw (fun h => h.mailStart 2 id.toNat (Hw.destroyEntry id.toNat)) := rfl
theorem exec_tdescRead : exec (.tdescRead id) s = s.onHw (fun h => h.mailStart 3 id.toNat (Hw.readEntry id.toNat)) := rfl
theorem exec_regionCreate : exec (.regionCreate id) s = s.onHw (fun h => h.mailStart 4 id.toNat (Hw.createRegion id.toNat)) := rfl
theorem exec_regionDestroy : exec (.regionDestroy id) s = s.onHw (fun h => h.mailStart 5 id.toNat (Hw.destroyRegion id.toNat)) := rfl
theorem exec_regionRead : exec (.regionRead id) s = s.onHw (fun h => h.mailStart 6 id.toNat (Hw.readRegion id.toNat)) := rfl
theorem exec_mailboxReservedOp (b : Bool) :
    exec (.mailboxReservedOp b id) s = s.onHw (fun h => h.mailStart (if b then 7 else 0) id.toNat (fun v => (v, MailOp.of 3))) := rfl

end

/-! ### Words returned in `STRM.DESC_DATA` -/

theorem Hw.rd_mailReturn (s : Hw) {n i : Nat} (v : Nat) (hi : i < n) : ((s.mailReturn n v).rd .STRM_DESC_DATA i).toNat = bits v (32 * i) 32 := by
  have hfold : ∀ (l : List Nat) (s : Hw), i ∈ l ∨ s.rd .STRM_DESC_DATA i = BitVec.ofNat 32 (v >>> (32 * i) % 0x1_0000_0000) →
      (l.foldl (fun s i => s.wr .STRM_DESC_DATA i (BitVec.ofNat 32 (v >>> (32 * i) % 0x1_0000_0000))) s).rd .STRM_DESC_DATA i =
        BitVec.ofNat 32 (v >>> (32 * i) % 0x1_0000_0000) := fun l => by
    induction l with
    | nil => exact fun s h => h.resolve_left List.not_mem_nil
    | cons j l ih =>
      refine fun s h => ih _ ?_
      by_cases hj : j = i
      · exact .inr (by rw [hj, Hw.rd_wr_self])
      · rw [Hw.rd_wr_unit _ _ _ _ hj]
        exact h.imp (fun hmem => (List.mem_cons.1 hmem).resolve_left (Ne.symm hj)) id
  unfold Hw.mailReturn
  rw [hfold _ _ (.inl (List.mem_range.2 hi)), BitVec.toNat_ofNat, bits_eq, Nat.shiftRight_eq_div_pow]
  exact Nat.mod_mod _ _

theorem RegsKept.mailReturn (s : Hw) (n v : Nat) : RegsKept [.STRM_DESC_DATA] s (s.mailReturn n v) := by
  unfold Hw.mailReturn
  generalize List.range n = l
  induction l generalizing s with
  | nil => exact refl _ s
  | cons i l ih => exact ((refl _ s).wr .STRM_DESC_DATA _ i (by decide)).trans (ih _)

theorem Hw.mailReturn_mem (s : Hw) (n v : Nat) : (s.mailReturn n v).mem = s.mem := by
  unfold Hw.mailReturn
  exact Hw.foldl_mem _ (fun _ _ => Hw.wr_mem _ _ _ _) _ s

/-! ### What the work leaves alone -/

/-- The registers in which the work of an operation shows. -/
def mailWorkRegs : List Reg := [.STRM_TDESC_LIVE, .STRM_DESC_DATA] ++ memRegs

theorem MemWork.of_writeEntry (s : Hw) (id v : Nat) : MemWork s (s.writeEntry id v) := of_writeAddrs s _

namespace RegsKept

theorem createEntry (id : Nat) (s : Hw) : RegsKept mailWorkRegs s (s.createEntry id).1 := by
  unfold Hw.createEntry
  split
  · exact refl _ s
  · split
    · exact ((MemWork.of_writeEntry s id _).regs.mono (by decide)).fset F.STRM_TDESC_LIVE_COUNT _ 0 (by decide)
    · exact refl _ s

theorem destroyEntry (id : Nat) (s : Hw) : RegsKept mailWorkRegs s (s.destroyEntry id).1 := by
  unfold Hw.destroyEntry
  split
  · exact refl _ s
  · split <;> exact refl _ s

theorem readEntry (id : Nat) (s : Hw) : RegsKept mailWorkRegs s (s.readEntry id).1 := by
  unfold Hw.readEntry
  split
  · exact refl _ s
  · split
    · exact refl _ s
    · exact (mailReturn s 16 _).mono (by decide)

theorem createRegion (id : Nat) (s : Hw) : RegsKept mailWorkRegs s (s.createRegion id).1 := by
  unfold Hw.createRegion
  simp only
  split
  · exact .of_regs rfl
  · exact refl _ s

theorem destroyRegion (id : Nat) (s : Hw) : RegsKept mailWorkRegs s (s.destroyRegion id).1 := by
  unfold Hw.destroyRegion
  split
  · exact refl _ s
  · split
    · exact refl _ s
    · exact .of_regs rfl

theorem readRegion (id : Nat) (s : Hw) : RegsKept mailWorkRegs s (s.readRegion id).1 := by
  unfold Hw.readRegion
  split
  · exact refl _ s
  · exact (mailReturn s 4 _).mono (by decide)

end RegsKept

/-! ### The state in which an operation runs on -/

theorem Hw.setMail_mail (s : Hw) (m : Option MailOp) : (s.setMail m).mail = m := rfl
theorem Hw.setMail_regs (s : Hw) (m : Option MailOp) : (s.setMail m).regs = s.regs := rfl
theorem Hw.setMail_mem (s : Hw) (m : Option MailOp) : (s.setMail m).mem = s.mem := rfl
theorem Hw.setMail_regions (s : Hw) (m : Option MailOp) : (s.setMail m).regions = s.regions := rfl

section

variable (r : Hw × MailOp)

theorem Hw.runsOn_mail : (Hw.runsOn r).mail = some r.2 := Hw.setMail_mail _ _

theorem Hw.runsOn_regs : (Hw.runsOn r).regs = (r.1.fset F.STRM_DESC_RESULT_BUSY 1).regs := Hw.setMail_regs _ _

theorem Hw.runsOn_mem : (Hw.runsOn r).mem = r.1.mem := (Hw.setMail_mem _ _).trans (Hw.fset_mem _ _ _ _)

theorem Hw.runsOn_regions : (Hw.runsOn r).regions = r.1.regions := (Hw.setMail_regions _ _).trans (Hw.fset_regions _ _ _ _)

theorem RegsKept.runsOn : RegsKept [.STRM_DESC_RESULT] r.1 (Hw.runsOn r) :=
  ((refl _ r.1).fset F.STRM_DESC_RESULT_BUSY 1 0 (by decide)).trans (.of_regs (Hw.runsOn_regs r))

end

/-- R221: BUSY and GO are set, and the operation and its identifier are shown. -/
theorem Hw.runsOn_shows {s : Hw} {op id : Nat} {r : Hw × MailOp} (hop : op < 2 ^ 3) (hid : id < 2 ^ 20)
    (hr : RegsKept mailWorkRegs (s.going op id) r.1) :
    (Hw.runsOn r).flag F.STRM_DESC_RESULT_BUSY = true ∧ (Hw.runsOn r).flag F.STRM_DESC_OP_GO = true ∧
    (Hw.runsOn r).fget F.STRM_DESC_OP_OP = op ∧ (Hw.runsOn r).fget F.STRM_DESC_OP_ID = id ∧ (Hw.runsOn r).mail.isSome = true := by
  have hbusy : (Hw.runsOn r).flag F.STRM_DESC_RESULT_BUSY = true :=
    (Hw.flag_congr (Hw.runsOn_regs r) _ _).trans (Hw.flag_fset_self r.1 F.STRM_DESC_RESULT_BUSY 1 0)
  have hkept : ∀ f : Fld, f.reg = .STRM_DESC_OP → (Hw.runsOn r).fget f = (s.going op id).fget f := fun f hf => by
    unfold Hw.fget
    rw [hf, RegsKept.runsOn r .STRM_DESC_OP 0 (by decide), hr .STRM_DESC_OP 0 (by decide)]
  have hgo : (s.going op id).fget F.STRM_DESC_OP_GO = 1 := Hw.fget_fset_self _ F.STRM_DESC_OP_GO 1 0
  have hshownOp : (s.going op id).fget F.STRM_DESC_OP_OP = op := by
    unfold Hw.going
    rw [Hw.fget_fset_apart _ F.STRM_DESC_OP_GO F.STRM_DESC_OP_OP 1 0 0 (by decide) (by decide),
      Hw.fget_fset_apart _ F.STRM_DESC_OP_ID F.STRM_DESC_OP_OP id 0 0 (by decide) (by decide), Hw.fget_fset_self _ F.STRM_DESC_OP_OP]
    exact Nat.mod_eq_of_lt hop
  have hshownId : (s.going op id).fget F.STRM_DESC_OP_ID = id := by
    unfold Hw.going
    rw [Hw.fget_fset_apart _ F.STRM_DESC_OP_GO F.STRM_DESC_OP_ID 1 0 0 (by decide) (by decide), Hw.fget_fset_self _ F.STRM_DESC_OP_ID]
    exact Nat.mod_eq_of_lt hid
  exact ⟨hbusy, by rw [Hw.flag, hkept _ rfl, hgo]; rfl, (hkept _ rfl).trans hshownOp, (hkept _ rfl).trans hshownId, by rw [Hw.runsOn_mail]; rfl⟩

/-- An operation that has nothing to do but to end. -/
theorem Hw.runsOn_idle (s : Hw) (op id : Nat) (m : MailOp) : (Hw.runsOn (s.going op id, m)).regions = s.regions ∧
    (Hw.runsOn (s.going op id, m)).mem = s.mem ∧ RegsKept [.STRM_DESC_OP, .STRM_DESC_RESULT] s (Hw.runsOn (s.going op id, m)) :=
  ⟨(Hw.runsOn_regions _).trans (s.going_regions op id), (Hw.runsOn_mem _).trans (s.going_mem op id),
    ((RegsKept.going s op id).mono (by decide)).trans ((RegsKept.runsOn (s.going op id, m)).mono (by decide))⟩

end Sys2Proof.Machine
end

section
/-!
PROOFS. The commands of the mailbox (R198, R199, R212, R220 to R222), and O16.
-/
namespace Sys2Proof.Machine

/-! ### Starting, and failing to start -/

section

variable {c : Instr} {s : State} {op id : Nat} {f : Hw → Hw × MailOp} {P : Hw → Prop}

/-- R221: a command starts its operation in a mailbox that runs none. -/
theorem Completes.of_mailStart (hexec : exec c s = s.onHw (fun h => h.mailStart op id f)) (hlive : s.hw.regsLive = true)
    (hmail : s.hw.mail = none) (hmap : s.hw.mu.mapped = true) (hp : P (Hw.runsOn (f (s.hw.going op id)))) : Completes c s P :=
  .of_onHw _ hexec (by rw [Hw.mailStart_eq op id f hlive hmail hmap]; exact hp)

/-- R221: what every operation shows while it runs, and that none starts while another does. -/
theorem Hw.mailStart_shows (hexec : exec c s = s.onHw (fun h => h.mailStart op id f)) (hlive : s.hw.regsLive = true) (hop : op < 2 ^ 3)
    (hid : id < 2 ^ 20) (hwork : ∀ h : Hw, RegsKept mailWorkRegs h (f h).1) :
    (s.hw.mail = none → s.hw.mu.mapped = true → Completes c s (fun t =>
      t.flag F.STRM_DESC_RESULT_BUSY = true ∧ t.flag F.STRM_DESC_OP_GO = true ∧ t.fget F.STRM_DESC_OP_OP = op ∧
      t.fget F.STRM_DESC_OP_ID = id ∧ t.mail.isSome = true)) ∧
    (s.hw.mail ≠ none → EventRoom s.hw → Completes c s (fun t =>
      Raises s.hw t 0xC054 op id ∧ RegsKeptEv [] s.hw t ∧ EventsOnly s.hw t)) := by
  refine ⟨fun hmail hmap => .of_mailStart hexec hlive hmail hmap (Hw.runsOn_shows hop hid (hwork _)), fun hmail hroom => ?_⟩
  refine .of_onHw _ hexec ?_
  rw [Hw.mailStart_busy op id f hlive hmail]
  exact ⟨.of_raise hroom rfl _ _ _ _, RegsKeptEv.raise (.refl _ s.hw) _ _ _ _, .of_raise s.hw _ _ _ _⟩

end

/-! ### The descriptor table -/

section

variable {s : Hw} (op id : Nat)

/-- R212: an entry is written over one that memory takes in full. -/
theorem Stored.of_createEntry {k : Nat} (hcap : s.tableCap ≠ 0) (hcode : (s.descCheck id s.mailImage).code = 1)
    (htakes : ∀ i < 64, s.Takes (s.tableBase + 64 * id + i) (k + i)) :
    Stored s (Hw.runsOn (Hw.createEntry id (s.going op id))) k (toBytes 64 (s.mailImage.toNat ||| 1)) := by
  have hwritten : Stored (s.going op id) ((s.going op id).writeEntry id (s.mailImage.toNat ||| 1)) k (toBytes 64 (s.mailImage.toNat ||| 1)) := by
    unfold Hw.writeEntry
    rw [Hw.going_tableBase]
    exact .of_writeRun fun i hi => (htakes i (by rwa [length_toBytes] at hi)).kept (.going s op id)
  have hmem : (Hw.runsOn (Hw.createEntry id (s.going op id))).mem = ((s.going op id).writeEntry id (s.mailImage.toNat ||| 1)).mem := by
    rw [Hw.runsOn_mem, Hw.createEntry, if_neg (by rwa [Hw.going_tableCap]), Hw.going_mailImage, Hw.going_descCheck, if_pos hcode, Hw.fset_mem]
  unfold Stored at hwritten ⊢
  rwa [hmem, ← s.going_mem op id]

/-- R212: the entry written counts. -/
theorem Hw.createEntry_live (hcap : s.tableCap ≠ 0) (hcode : (s.descCheck id s.mailImage).code = 1) :
    (Hw.runsOn (Hw.createEntry id (s.going op id))).fget F.STRM_TDESC_LIVE_COUNT =
      (s.fget F.STRM_TDESC_LIVE_COUNT + 1) % 2 ^ F.STRM_TDESC_LIVE_COUNT.width := by
  have hbefore : (s.going op id).fget F.STRM_TDESC_LIVE_COUNT = s.fget F.STRM_TDESC_LIVE_COUNT := by
    unfold Hw.fget
    rw [RegsKept.going s op id .STRM_TDESC_LIVE 0 (by decide)]
  have hafter : (Hw.runsOn (Hw.createEntry id (s.going op id))).fget F.STRM_TDESC_LIVE_COUNT =
      (Hw.createEntry id (s.going op id)).1.fget F.STRM_TDESC_LIVE_COUNT := by
    unfold Hw.fget
    rw [RegsKept.runsOn _ .STRM_TDESC_LIVE 0 (by decide)]
  rw [hafter, Hw.createEntry, if_neg (by rwa [Hw.going_tableCap]), Hw.going_mailImage, Hw.going_descCheck, if_pos hcode, hbefore]
  exact Hw.fget_fset_self _ F.STRM_TDESC_LIVE_COUNT _ _

/-- R212: with a table the result of TDESC.CREATE is that of its checks. -/
theorem Hw.createEntry_result (hcap : s.tableCap ≠ 0) : (Hw.createEntry id (s.going op id)).2 = s.descCheck id s.mailImage := by
  rw [Hw.createEntry, if_neg (by rwa [Hw.going_tableCap]), Hw.going_mailImage, Hw.going_descCheck]
  split <;> rfl

theorem Hw.createEntry_fails (hcap : s.tableCap ≠ 0) (hcode : (s.descCheck id s.mailImage).code ≠ 1) :
    Hw.createEntry id (s.going op id) = (s.going op id, s.descCheck id s.mailImage) := by
  rw [Hw.createEntry, if_neg (by rwa [Hw.going_tableCap]), Hw.going_mailImage, Hw.going_descCheck, if_neg hcode]

theorem Hw.createEntry_regions (id : Nat) (s : Hw) : (Hw.createEntry id s).1.regions = s.regions := by
  unfold Hw.createEntry
  split
  · rfl
  · split
    · rw [Hw.fset_regions]
      exact congrArg (·.regions) (MemWork.of_writeEntry s id _).rest
    · rfl

/-- R222: with a table TDESC.DESTROY of a valid entry will drop it. -/
theorem Hw.destroyEntry_eq (hcap : s.tableCap ≠ 0) : Hw.destroyEntry id (s.going op id) =
    (s.going op id, if Desc.valid (s.descEntry id) then { MailOp.of 1 with destroy := some id } else MailOp.of 8) := by
  rw [Hw.destroyEntry, if_neg (by rwa [Hw.going_tableCap]), Hw.going_descEntry]
  split <;> rfl

theorem Hw.readEntry_eq (hcap : s.tableCap ≠ 0) (hid : id < s.tableCap) : Hw.readEntry id (s.going op id) =
    ((s.going op id).mailReturn 16 (s.descEntry id).toNat, MailOp.of 1) := by
  rw [Hw.readEntry, if_neg (by rwa [Hw.going_tableCap]), if_neg (by rw [Hw.going_tableCap]; omega), Hw.going_descEntry]

/-- R221: the words that an operation returns are shown while it runs on. -/
theorem Hw.rd_runsOn_mailReturn (s : Hw) (v : Nat) (m : MailOp) {n i : Nat} (hi : i < n) :
    ((Hw.runsOn (s.mailReturn n v, m)).rd .STRM_DESC_DATA i).toNat = bits v (32 * i) 32 := by
  rw [RegsKept.runsOn (s.mailReturn n v, m) .STRM_DESC_DATA i (by decide)]
  exact s.rd_mailReturn v hi

/-! ### The region table -/

/-- R198: REGION.CREATE adds the record that its checks pass. -/
theorem Hw.createRegion_passes (hcode : (s.regionCheck (id % 4096) (BitVec.ofNat 128 s.mailImage.toNat)).1 = 1) :
    Hw.createRegion id (s.going op id) =
      ({ s.going op id with regions := Sparse.set s.regions (id % 4096) (BitVec.ofNat 128 s.mailImage.toNat) }, MailOp.of 1) := by
  unfold Hw.createRegion
  simp only [Hw.going_mailImage, Hw.going_regionCheck, Hw.going_regions, if_pos hcode]

theorem Hw.createRegion_fails {r : BitVec 128} (hr : r = BitVec.ofNat 128 s.mailImage.toNat) (hcode : (s.regionCheck (id % 4096) r).1 ≠ 1) :
    Hw.createRegion id (s.going op id) =
      (s.going op id, { MailOp.of (s.regionCheck (id % 4096) r).1 with offset := (s.regionCheck (id % 4096) r).2 }) := by
  subst hr
  unfold Hw.createRegion
  simp only [Hw.going_mailImage, Hw.going_regionCheck, if_neg hcode]

variable {r : BitVec 128} (hr : Sparse.find? s.regions (id % 4096) = some r)

include hr

/-- R199: a region that a descriptor names stays. -/
theorem Hw.destroyRegion_inUse (huse : s.regionInUse (id % 4096) = true) :
    Hw.destroyRegion id (s.going op id) = (s.going op id, MailOp.of 7) := by
  unfold Hw.destroyRegion
  rw [Hw.going_regionRec, Hw.regionRec, hr, Hw.going_regionInUse, if_pos huse]

theorem Hw.destroyRegion_unused (huse : s.regionInUse (id % 4096) = false) :
    Hw.destroyRegion id (s.going op id) = ({ s.going op id with regions := Sparse.erase s.regions (id % 4096) }, MailOp.of 1) := by
  unfold Hw.destroyRegion
  rw [Hw.going_regionRec, Hw.regionRec, hr, Hw.going_regionInUse, huse, Hw.going_regions]
  rfl

theorem Hw.readRegion_eq : Hw.readRegion id (s.going op id) = ((s.going op id).mailReturn 4 r.toNat, MailOp.of 1) := by
  unfold Hw.readRegion
  rw [Hw.going_regionRec, Hw.regionRec, hr]

end

/-! ### The commands -/

section

variable {s : State} (id : BitVec 20) (hlive : s.hw.regsLive = true) (hmail : s.hw.mail = none) (hmap : s.hw.mu.mapped = true)

include hlive hmail hmap

theorem Completes.tdescCreate (hcap : s.hw.tableCap ≠ 0) : Completes (.tdescCreate id) s (fun t =>
    t.mail = some (s.hw.descCheck id.toNat s.hw.mailImage) ∧ t.regions = s.hw.regions ∧
    ((s.hw.descCheck id.toNat s.hw.mailImage).code ≠ 1 → t.mem = s.hw.mem ∧ RegsKept [.STRM_DESC_OP, .STRM_DESC_RESULT] s.hw t) ∧
    (∀ k, (s.hw.descCheck id.toNat s.hw.mailImage).code = 1 → LeadsTo s.hw (s.hw.tableBase + 64 * id.toNat) k 64 →
      (∀ i < 64, s.hw.lockedAt (s.hw.tableBase + 64 * id.toNat + i) = false ∧ s.hw.seedGuard (k + i) = false) →
      Stored s.hw t k (toBytes 64 (s.hw.mailImage.toNat ||| 1)) ∧
      t.fget F.STRM_TDESC_LIVE_COUNT = (s.hw.fget F.STRM_TDESC_LIVE_COUNT + 1) % 2 ^ F.STRM_TDESC_LIVE_COUNT.width)) := by
  refine .of_mailStart (exec_tdescCreate id s) hlive hmail hmap ⟨?_, ?_, fun hcode => ?_, fun k hcode hleads hfree => ?_⟩
  · rw [Hw.runsOn_mail, Hw.createEntry_result 1 id.toNat hcap]
  · rw [Hw.runsOn_regions, Hw.createEntry_regions, Hw.going_regions]
  · rw [Hw.createEntry_fails 1 id.toNat hcap hcode]
    exact (Hw.runsOn_idle s.hw 1 id.toNat _).2
  · exact ⟨.of_createEntry 1 id.toNat hcap hcode fun i hi => ⟨(hfree i hi).1, (hfree i hi).2, hleads i hi⟩,
      Hw.createEntry_live 1 id.toNat hcap hcode⟩

theorem Completes.tdescDestroy (hcap : s.hw.tableCap ≠ 0) : Completes (.tdescDestroy id) s (fun t =>
    t.mail = some (if Desc.valid (s.hw.descEntry id.toNat) then { MailOp.of 1 with destroy := some id.toNat } else MailOp.of 8) ∧
    t.mem = s.hw.mem ∧ RegsKept [.STRM_DESC_OP, .STRM_DESC_RESULT] s.hw t) := by
  refine .of_mailStart (exec_tdescDestroy id s) hlive hmail hmap ?_
  rw [Hw.destroyEntry_eq 2 id.toNat hcap]
  exact ⟨Hw.runsOn_mail _, (Hw.runsOn_idle s.hw 2 id.toNat _).2⟩

theorem Completes.tdescRead (hcap : s.hw.tableCap ≠ 0) (hid : id.toNat < s.hw.tableCap) : Completes (.tdescRead id) s (fun t =>
    t.mail = some (MailOp.of 1) ∧ (∀ i < 16, (t.rd .STRM_DESC_DATA i).toNat = bits (s.hw.descEntry id.toNat).toNat (32 * i) 32) ∧
    t.mem = s.hw.mem) := by
  refine .of_mailStart (exec_tdescRead id s) hlive hmail hmap ?_
  rw [Hw.readEntry_eq 3 id.toNat hcap hid]
  exact ⟨Hw.runsOn_mail _, fun i hi => Hw.rd_runsOn_mailReturn _ _ _ hi, by rw [Hw.runsOn_mem, Hw.mailReturn_mem, Hw.going_mem]⟩

theorem Completes.regionCreate : Completes (.regionCreate id) s (fun t =>
    let r : BitVec 128 := BitVec.ofNat 128 s.hw.mailImage.toNat
    let c := s.hw.regionCheck (id.toNat % 4096) r
    (c.1 = 1 → t.mail = some (MailOp.of 1) ∧ Sparse.find? t.regions (id.toNat % 4096) = some r) ∧
    (c.1 ≠ 1 → t.mail = some { MailOp.of c.1 with offset := c.2 } ∧ t.regions = s.hw.regions)) := by
  refine .of_mailStart (exec_regionCreate id s) hlive hmail hmap ⟨fun hcode => ?_, fun hcode => ?_⟩
  · rw [Hw.createRegion_passes 4 id.toNat hcode]
    exact ⟨Hw.runsOn_mail _, by rw [Hw.runsOn_regions, Sparse.find?_set, if_pos rfl]⟩
  · rw [Hw.createRegion_fails 4 id.toNat rfl hcode]
    exact ⟨Hw.runsOn_mail _, (Hw.runsOn_idle s.hw 4 id.toNat _).1⟩

variable {r : BitVec 128} (hr : Sparse.find? s.hw.regions (id.toNat % 4096) = some r)

include hr

theorem Completes.regionDestroy : Completes (.regionDestroy id) s (fun t =>
    (s.hw.regionInUse (id.toNat % 4096) = true → t.mail = some (MailOp.of 7) ∧ t.regions = s.hw.regions) ∧
    (s.hw.regionInUse (id.toNat % 4096) = false → t.mail = some (MailOp.of 1) ∧ Sparse.find? t.regions (id.toNat % 4096) = none)) := by
  refine .of_mailStart (exec_regionDestroy id s) hlive hmail hmap ⟨fun huse => ?_, fun huse => ?_⟩
  · rw [Hw.destroyRegion_inUse 5 id.toNat hr huse]
    exact ⟨Hw.runsOn_mail _, (Hw.runsOn_idle s.hw 5 id.toNat _).1⟩
  · rw [Hw.destroyRegion_unused 5 id.toNat hr huse]
    exact ⟨Hw.runsOn_mail _, by rw [Hw.runsOn_regions, Sparse.find?_erase, if_pos rfl]⟩

theorem Completes.regionRead : Completes (.regionRead id) s (fun t => t.mail = some (MailOp.of 1) ∧
    ∀ i < 4, (t.rd .STRM_DESC_DATA i).toNat = bits r.toNat (32 * i) 32) := by
  refine .of_mailStart (exec_regionRead id s) hlive hmail hmap ?_
  rw [Hw.readRegion_eq 6 id.toNat hr]
  exact ⟨Hw.runsOn_mail _, fun i hi => Hw.rd_runsOn_mailReturn _ _ _ hi⟩

omit hr

theorem Completes.mailboxReservedOp (b : Bool) : Completes (.mailboxReservedOp b id) s (fun t =>
    t.mail = some (MailOp.of 3) ∧ t.regions = s.hw.regions ∧ t.mem = s.hw.mem ∧
    RegsKept [.STRM_DESC_OP, .STRM_DESC_RESULT] s.hw t) :=
  .of_mailStart (exec_mailboxReservedOp id s b) hlive hmail hmap ⟨Hw.runsOn_mail _, Hw.runsOn_idle s.hw _ id.toNat _⟩

end

/-- Settles O16: every command of the mailbox starts its operation in one way, and each operation does its own work. -/
theorem mailboxStarts : Obligations.MailboxStarts := by
  unfold Obligations.MailboxStarts
  intro s id hlive
  refine ⟨fun c op hc => ?_, fun hmail hmap => ⟨fun hcap => ⟨?_, ?_, fun hid => ?_⟩, ?_, fun r hr => ⟨?_, ?_⟩, fun b => ?_⟩⟩
  · simp only [List.mem_cons, List.not_mem_nil, or_false] at hc
    rcases hc with ⟨rfl, rfl⟩ | ⟨rfl, rfl⟩ | ⟨rfl, rfl⟩ | ⟨rfl, rfl⟩ | ⟨rfl, rfl⟩ | ⟨rfl, rfl⟩ | ⟨rfl, rfl⟩ | ⟨rfl, rfl⟩
    · exact Hw.mailStart_shows (exec_tdescCreate id s) hlive (by decide) id.isLt (.createEntry _)
    · exact Hw.mailStart_shows (exec_tdescDestroy id s) hlive (by decide) id.isLt (.destroyEntry _)
    · exact Hw.mailStart_shows (exec_tdescRead id s) hlive (by decide) id.isLt (.readEntry _)
    · exact Hw.mailStart_shows (exec_regionCreate id s) hlive (by decide) id.isLt (.createRegion _)
    · exact Hw.mailStart_shows (exec_regionDestroy id s) hlive (by decide) id.isLt (.destroyRegion _)
    · exact Hw.mailStart_shows (exec_regionRead id s) hlive (by decide) id.isLt (.readRegion _)
    · exact Hw.mailStart_shows (exec_mailboxReservedOp id s true) hlive (by decide) id.isLt (.refl _)
    · exact Hw.mailStart_shows (exec_mailboxReservedOp id s false) hlive (by decide) id.isLt (.refl _)
  · exact .tdescCreate id hlive hmail hmap hcap
  · exact .tdescDestroy id hlive hmail hmap hcap
  · exact .tdescRead id hlive hmail hmap hcap hid
  · exact .regionCreate id hlive hmail hmap
  · exact .regionDestroy id hlive hmail hmap hr
  · exact .regionRead id hlive hmail hmap hr
  · exact .mailboxReservedOp id hlive hmail hmap b

end Sys2Proof.Machine
end

section
/-!
PROOFS. Reset, resume, step and seed of a stream (R236, R262, R518).
-/
namespace Sys2Proof.Machine

/-- Besides the tiles and the saved frames nothing differs. -/
def SetsOnly (s t : Hw) : Prop := t = { s with tiles := t.tiles, frames := t.frames }

namespace SetsOnly

variable {s t v : Hw}

theorem refl (s : Hw) : SetsOnly s s := rfl

theorem trans (h : SetsOnly s t) (h' : SetsOnly t v) : SetsOnly s v := by
  unfold SetsOnly at *
  rw [h', h]

theorem of_setTile (s : Hw) (k : Nat) (x : Tile) : SetsOnly s (s.setTile k x) := rfl

theorem of_setCtxOf (s : Hw) (n : Nat) (c : StreamCtx) : SetsOnly s (s.setCtxOf n c) := by
  unfold Hw.setCtxOf
  simp only
  split
  · exact of_setTile s _ _
  · split
    · exact refl s
    · rfl

theorem of_zeroCtx (s : Hw) (n : Nat) : SetsOnly s (s.zeroCtx n) := by
  unfold Hw.zeroCtx
  simp only
  split
  · exact refl s
  · exact (of_setCtxOf s n _).trans rfl

theorem regs (h : SetsOnly s t) : t.regs = s.regs := by rw [h]
theorem mem (h : SetsOnly s t) : t.mem = s.mem := by rw [h]
theorem host (h : SetsOnly s t) : t.host = s.host := by rw [h]
theorem latches (h : SetsOnly s t) : t.latches = s.latches := by rw [h]
theorem getStream (h : SetsOnly s t) (n : Nat) : t.getStream n = s.getStream n := by rw [h]; rfl

theorem rd (h : SetsOnly s t) (r : Reg) (u : Nat) : t.rd r u = s.rd r u := Hw.rd_congr h.regs r u
theorem fget (h : SetsOnly s t) (f : Fld) (u : Nat) : t.fget f u = s.fget f u := Hw.fget_congr h.regs f u
theorem flag (h : SetsOnly s t) (f : Fld) (u : Nat) : t.flag f u = s.flag f u := Hw.flag_congr h.regs f u

end SetsOnly

/-! ### The parts of a reset (R236) -/

/-- R236 step 1: what a stream has in flight, in the looms and in its queues is abandoned. -/
def Hw.abandonAll (s : Hw) (n : Nat) : Hw :=
  let s1 := s.setCtxOf n { s.ctxOf n with flight := [] }
  match s1.tileOfStream n with
  | some t =>
    let x := s1.getTile t
    let qs := Sparse.mapVals x.queues (fun _ v => if v.bind.stream == n then { v with fetched := [], fetchedDross := [] } else v)
    s1.setTile t { x with blocks := x.blocks.filter (fun b => b.stream != n), queues := qs }
  | none => s1

/-- The registers of a stream that a reset zeroes whole. -/
def resetRegs : List Reg := [.STRM_TAIL, .STRM_RETIRED, .STRM_SEQ, .STRM_ERR_TAG, .STRM_ERR_COUNT, .STRM_STATUS_ACC]

/-- R236 steps 2 and 3: the registers of a stream. -/
def Hw.clearStreamRegs (s : Hw) (n : Nat) : Hw :=
  (((resetRegs.foldl (fun s r => s.wr r n 0) s).fset F.STRM_STATE_HALTED 0 n).fset F.STRM_STATE_FAULTED 0 n).fset F.STRM_STATE_CAUSE 0 n

/-- A stream's home frame is resident, or it has none. -/
def Hw.atHand (s : Hw) (n : Nat) : Bool := (s.tileOfStream n).isSome || s.fget F.STRM_FRAME_FRAME n == 0xF_FFFF

/-- R236: what the dispatcher keeps of a stream: its seed that waits for an edge (R518). -/
def StreamSt.afterReset (x : StreamSt) (pending : Bool) : StreamSt :=
  { StreamSt.reset with seedPending := x.seedPending, seedOld := x.seedOld, resetPending := pending, shadowDirty := true }

/-- R236: what the dispatcher, the latch unit and the link unit hold for a stream is forgotten. -/
def Hw.forgetStream (s : Hw) (n : Nat) (pending : Bool) : Hw :=
  let s1 := s.setStream n ((s.getStream n).afterReset pending)
  { s1 with
    latches := { s1.latches with waits := s1.latches.waits.filter (fun w => w.stream != n) }
    lnk := { s1.lnk with xfers := s1.lnk.xfers.filter (fun e => e.2.stream != n), colls := s1.lnk.colls.filter (fun k => k.stream != n) } }

/-- A reset as far as step 3. -/
def Hw.resetBegun (s : Hw) (n : Nat) : Hw := (s.abandonAll n).clearStreamRegs n

section

variable (s : Hw) (n : Nat)

theorem Hw.forgetStream_regs (p : Bool) : (s.forgetStream n p).regs = s.regs := rfl
theorem Hw.forgetStream_mem (p : Bool) : (s.forgetStream n p).mem = s.mem := rfl
theorem Hw.forgetStream_host (p : Bool) : (s.forgetStream n p).host = s.host := rfl
theorem Hw.forgetStream_waits (p : Bool) :
    (s.forgetStream n p).latches.waits = s.latches.waits.filter (fun w => w.stream != n) := rfl
theorem Hw.forgetStream_getStream (p : Bool) : (s.forgetStream n p).getStream n = (s.getStream n).afterReset p :=
  Hw.getStream_setStream_self s n ((s.getStream n).afterReset p)

theorem SetsOnly.of_abandonAll : SetsOnly s (s.abandonAll n) := by
  unfold Hw.abandonAll
  simp only
  split
  · exact (of_setCtxOf s n _).trans (of_setTile _ _ _)
  · exact of_setCtxOf s n _

theorem RegsOnly.clearStreamRegs : RegsOnly s (s.clearStreamRegs n) := by
  unfold Hw.clearStreamRegs resetRegs
  simp only [List.foldl_cons, List.foldl_nil]
  exact (((((((((refl s).wr _ _ _).wr _ _ _).wr _ _ _).wr _ _ _).wr _ _ _).wr _ _ _).fset _ _ _).fset _ _ _).fset _ _ _

theorem RegsKept.clearStreamRegs : RegsKept (.STRM_STATE :: resetRegs) s (s.clearStreamRegs n) := by
  unfold Hw.clearStreamRegs resetRegs
  simp only [List.foldl_cons, List.foldl_nil]
  refine .fset (.fset (.fset (.wr (.wr (.wr (.wr (.wr (.wr (.refl _ s) _ _ _ ?_) _ _ _ ?_) _ _ _ ?_) _ _ _ ?_) _ _ _ ?_) _ _ _ ?_)
    _ _ _ ?_) _ _ _ ?_) _ _ _ ?_ <;> decide

theorem Hw.rd_foldl_wr (l : List Reg) (r : Reg) (hr : r ∈ l) : ∀ s : Hw, (l.foldl (fun s r => s.wr r n 0) s).rd r n = 0 := by
  induction l with
  | nil => cases hr
  | cons q l ih =>
    intro s
    rw [List.foldl_cons]
    by_cases hl : r ∈ l
    · exact ih hl _
    · have hq : r = q := (List.mem_cons.1 hr).resolve_right hl
      have hkept : ∀ (m : List Reg) (v : Hw), r ∉ m → (m.foldl (fun s r => s.wr r n 0) v).rd r n = v.rd r n := fun m => by
        induction m with
        | nil => exact fun _ _ => rfl
        | cons p m ihm =>
          intro v hm
          rw [List.mem_cons, not_or] at hm
          rw [List.foldl_cons, ihm _ hm.2, Hw.rd_wr_reg _ _ _ _ (Ne.symm hm.1)]
      rw [hkept l _ hl, hq, Hw.rd_wr_self]

/-- R236: the registers of a stream after a reset. -/
theorem Hw.clearStreamRegs_reads : (∀ r ∈ resetRegs, (s.clearStreamRegs n).rd r n = 0) ∧
    (s.clearStreamRegs n).flag F.STRM_STATE_HALTED n = false ∧ (s.clearStreamRegs n).flag F.STRM_STATE_FAULTED n = false ∧
    (s.clearStreamRegs n).fget F.STRM_STATE_CAUSE n = 0 := by
  refine ⟨fun r hr => ?_, ?_, ?_, Hw.fget_fset_self _ F.STRM_STATE_CAUSE _ _⟩
  · have hne : Reg.STRM_STATE ≠ r := by rintro rfl; exact absurd hr (by decide)
    unfold Hw.clearStreamRegs
    rw [Hw.rd_fset_reg _ _ _ _ hne, Hw.rd_fset_reg _ _ _ _ hne, Hw.rd_fset_reg _ _ _ _ hne]
    exact Hw.rd_foldl_wr n resetRegs r hr s
  · unfold Hw.clearStreamRegs
    rw [Hw.flag_fset_apart _ _ _ _ _ _ (by decide) (by decide), Hw.flag_fset_apart _ _ _ _ _ _ (by decide) (by decide),
      Hw.flag_fset_self _ F.STRM_STATE_HALTED]
    rfl
  · unfold Hw.clearStreamRegs
    rw [Hw.flag_fset_apart _ _ _ _ _ _ (by decide) (by decide), Hw.flag_fset_self _ F.STRM_STATE_FAULTED]
    rfl

/-- R236 step 4: the last steps of a reset touch the home frame and `STRM.CTL` alone; RESET stays set exactly while the frame
is not at hand. -/
theorem Hw.streamReset_ends : ∃ (v : Hw) (pending : Bool), pending = !(s.resetBegun n).atHand n ∧
    SetsOnly ((s.resetBegun n).forgetStream n pending) v ∧ s.streamReset n = v.fset F.STRM_CTL_RESET pending.toNat n := by
  have heq : s.streamReset n = if (s.resetBegun n).atHand n
      then (((s.resetBegun n).forgetStream n (!(s.resetBegun n).atHand n)).zeroCtx n).fset F.STRM_CTL_RESET 0 n
      else ((s.resetBegun n).forgetStream n (!(s.resetBegun n).atHand n)).fset F.STRM_CTL_RESET 1 n := rfl
  rw [heq]
  split
  next h => exact ⟨_, _, rfl, .of_zeroCtx _ n, by rw [h]; rfl⟩
  next h => exact ⟨_, _, rfl, .refl _, by rw [Bool.not_eq_true] at h; rw [h]; rfl⟩

/-- The registers that a reset touches. -/
theorem RegsKept.streamReset : RegsKept [.STRM_TAIL, .STRM_RETIRED, .STRM_SEQ, .STRM_ERR_TAG, .STRM_ERR_COUNT, .STRM_STATUS_ACC, .STRM_STATE,
    .STRM_CTL] s (s.streamReset n) := by
  obtain ⟨v, p, -, hv, heq⟩ := s.streamReset_ends n
  rw [heq]
  have hbegun : RegsKept (.STRM_STATE :: resetRegs) s (s.resetBegun n) :=
    (RegsKept.of_regs (SetsOnly.of_abandonAll s n).regs).trans (.clearStreamRegs _ n)
  exact .fset ((hbegun.trans (.of_regs (l := .STRM_STATE :: resetRegs) hv.regs)).mono (by decide)) _ _ _ (by decide)

/-- What a reset writes is what its first steps wrote, outside `STRM.CTL`. -/
theorem Hw.streamReset_rd (r : Reg) (hr : Reg.STRM_CTL ≠ r) (u : Nat) : (s.streamReset n).rd r u = (s.resetBegun n).rd r u := by
  obtain ⟨v, p, -, hv, heq⟩ := s.streamReset_ends n
  rw [heq, Hw.rd_fset_reg _ (f := F.STRM_CTL_RESET) _ _ _ hr, hv.rd]
  exact Hw.rd_congr ((s.resetBegun n).forgetStream_regs n p) r u

theorem Hw.streamReset_getStream : (s.streamReset n).getStream n =
    ((s.resetBegun n).getStream n).afterReset (!(s.resetBegun n).atHand n) := by
  obtain ⟨v, p, rfl, hv, heq⟩ := s.streamReset_ends n
  rw [heq]
  exact (hv.getStream n).trans ((s.resetBegun n).forgetStream_getStream n _)

theorem Hw.streamReset_reset : (s.streamReset n).flag F.STRM_CTL_RESET n = !(s.resetBegun n).atHand n := by
  obtain ⟨v, p, hp, -, heq⟩ := s.streamReset_ends n
  rw [heq, ← hp, Hw.flag_fset_self _ F.STRM_CTL_RESET]
  cases p <;> rfl

theorem Hw.fget_of_rd {s t : Hw} {f : Fld} {u : Nat} (h : t.rd f.reg u = s.rd f.reg u) : t.fget f u = s.fget f u := by
  unfold Hw.fget
  rw [h]

theorem Hw.flag_of_rd {s t : Hw} {f : Fld} {u : Nat} (h : t.rd f.reg u = s.rd f.reg u) : t.flag f u = s.flag f u := by
  unfold Hw.flag
  rw [Hw.fget_of_rd h]

/-- A stream that has no home frame has nothing to wait for. -/
theorem Hw.resetBegun_atHand (h : s.fget F.STRM_FRAME_FRAME n = 0xF_FFFF) : (s.resetBegun n).atHand n = true := by
  have hrd := RegsKept.clearStreamRegs (s.abandonAll n) n F.STRM_FRAME_FRAME.reg n (by decide)
  have hframe : (s.resetBegun n).fget F.STRM_FRAME_FRAME n = 0xF_FFFF := by
    rw [← h, ← (SetsOnly.of_abandonAll s n).fget]
    exact Hw.fget_of_rd hrd
  unfold Hw.atHand
  rw [hframe]
  simp

/-- A reset keeps no wait of its stream, and touches neither the memory nor the host. -/
theorem Hw.streamReset_keeps : (∀ w ∈ (s.streamReset n).latches.waits, w.stream ≠ n) ∧ (s.streamReset n).mem = s.mem ∧
    (s.streamReset n).host = s.host := by
  obtain ⟨v, p, -, hv, heq⟩ := s.streamReset_ends n
  have hbegun := RegsOnly.clearStreamRegs (s.abandonAll n) n
  have habandon := SetsOnly.of_abandonAll s n
  rw [heq]
  refine ⟨fun w (hw : w ∈ v.latches.waits) => ?_, ?_, ?_⟩
  · rw [hv.latches, Hw.forgetStream_waits] at hw
    exact bne_iff_ne.1 (List.mem_filter.1 hw).2
  · have hmem : (s.resetBegun n).mem = (s.abandonAll n).mem := by rw [Hw.resetBegun, hbegun]
    rw [Hw.fset_mem, hv.mem, Hw.forgetStream_mem, hmem, habandon.mem]
  · have hhost : (s.resetBegun n).host = (s.abandonAll n).host := by rw [Hw.resetBegun, hbegun]
    rw [Hw.fset_host, hv.host, Hw.forgetStream_host, hhost, habandon.host]

/-- STREAM_RESET. -/
theorem Hw.streamReset_reads :
    (∀ r ∈ resetRegs, (s.streamReset n).rd r n = 0) ∧
    (s.streamReset n).flag F.STRM_STATE_HALTED n = false ∧ (s.streamReset n).flag F.STRM_STATE_FAULTED n = false ∧
    (s.streamReset n).fget F.STRM_STATE_CAUSE n = 0 := by
  obtain ⟨hzero, hhalted, hfaulted, hcause⟩ := (s.abandonAll n).clearStreamRegs_reads n
  have hstate := s.streamReset_rd n .STRM_STATE (by decide) n
  refine ⟨fun r hr => ?_, ?_, ?_, ?_⟩
  · rw [s.streamReset_rd n r (by rintro rfl; exact absurd hr (by decide))]
    exact hzero r hr
  · exact (Hw.flag_of_rd (f := F.STRM_STATE_HALTED) hstate).trans hhalted
  · exact (Hw.flag_of_rd (f := F.STRM_STATE_FAULTED) hstate).trans hfaulted
  · exact (Hw.fget_of_rd (f := F.STRM_STATE_CAUSE) hstate).trans hcause

/-! ### Resume, step and seed (R262, R518) -/

/-- R262: what RESUME makes of a halted stream. -/
theorem Hw.streamResume_halted (h : s.flag F.STRM_STATE_HALTED n = true) :
    (s.streamResume n).flag F.STRM_STATE_HALTED n = false ∧ ((s.streamResume n).getStream n).suppress = true ∧
    ((s.streamResume n).getStream n).step = false ∧ RegsKept [.STRM_STATE] s (s.streamResume n) ∧
    s.streamResume n = { s with regs := (s.streamResume n).regs, streams := (s.streamResume n).streams } := by
  unfold Hw.streamResume Hw.shadowTouch
  rw [if_pos h]
  refine ⟨?_, ?_, ?_, .fset (.refl _ s) F.STRM_STATE_HALTED _ _ (by decide), rfl⟩
  · exact Hw.flag_fset_self s F.STRM_STATE_HALTED _ _
  · simp
  · simp

/-- R262: what STEP makes of a stream. -/
theorem Hw.streamStep_steps :
    (s.streamStep n).flag F.STRM_STATE_HALTED n = false ∧ ((s.streamStep n).getStream n).step = true ∧
    ((s.streamStep n).getStream n).stepBound = s.flag F.STRM_STATE_BOUND n ∧ RegsKept [.STRM_STATE] s (s.streamStep n) ∧
    s.streamStep n = { s with regs := (s.streamStep n).regs, streams := (s.streamStep n).streams } := by
  unfold Hw.streamStep Hw.shadowTouch
  simp only [Hw.getStream_setStream_self, true_and]
  split
  next => exact ⟨Hw.flag_fset_self s F.STRM_STATE_HALTED _ _, .fset (.refl _ s) F.STRM_STATE_HALTED _ _ (by decide), rfl⟩
  next h => exact ⟨Bool.not_eq_true _ ▸ h, .refl _ s, rfl⟩

theorem Hw.rd64_lt (lo hi : Reg) (u : Nat) : s.rd64 lo hi u < 2 ^ 64 := by
  have hlo := (s.rd lo u).isLt
  have hhi := (s.rd hi u).isLt
  unfold Hw.rd64
  rw [Nat.shiftLeft_eq]
  omega

/-- R518: after a write of the seed the stream still draws from what it drew from. -/
theorem Hw.seedWrite_seedOf (hi wide : Bool) (v : Nat) :
    (s.seedWrite n hi wide v).seedOf n = s.seedOf n ∧ ((s.seedWrite n hi wide v).getStream n).seedPending = true := by
  have hlt : s.seedOf n < 2 ^ 64 := by
    unfold Hw.seedOf
    split
    · exact BitVec.isLt _
    · exact s.rd64_lt _ _ _
  have hstream : (s.seedWrite n hi wide v).getStream n =
      { s.getStream n with seedPending := true, seedOld := BitVec.ofNat 64 (s.seedOf n) } := by
    unfold Hw.seedWrite
    cases wide <;> cases hi <;> exact Hw.getStream_setStream_self s n _
  refine ⟨?_, by rw [hstream]⟩
  rw [Hw.seedOf, hstream]
  simpa using hlt

end

/-- STREAM_RESET_ZEROED. -/
theorem Hw.resetZeroed_clears (s : Hw) (n : Nat) (h : (s.getStream n).resetPending = true) :
    (s.resetZeroed n).flag F.STRM_CTL_RESET n = false ∧ ((s.resetZeroed n).getStream n).resetPending = false ∧
    RegsKept [.STRM_CTL] s (s.resetZeroed n) ∧ (s.resetZeroed n).mem = s.mem := by
  unfold Hw.resetZeroed
  rw [if_pos h]
  have hzero := SetsOnly.of_zeroCtx s n
  refine ⟨Hw.flag_fset_self _ F.STRM_CTL_RESET _ _, ?_, .fset (.of_regs hzero.regs) F.STRM_CTL_RESET _ _ (by decide), hzero.mem⟩
  exact congrArg StreamSt.resetPending (Hw.getStream_setStream_self (s.zeroCtx n) n _)

theorem exec_streamReset (s : State) :
    exec .streamReset s = s.onHw (fun h => if h.regsLive then h.streamReset (h.fget F.STRM_SEL_STREAM) else h) := rfl
theorem exec_streamResume (s : State) :
    exec .streamResume s = s.onHw (fun h => if h.regsLive then h.streamResume (h.fget F.STRM_SEL_STREAM) else h) := rfl
theorem exec_streamStep (s : State) :
    exec .streamStep s = s.onHw (fun h => if h.regsLive then h.streamStep (h.fget F.STRM_SEL_STREAM) else h) := rfl
theorem exec_streamResetZeroed (n : BitVec 16) (s : State) :
    exec (.streamResetZeroed n) s = s.onHw (fun h => h.resetZeroed n.toNat) := rfl
theorem exec_seedWrite (hi wide : Bool) (v : BitVec 64) (s : State) : exec (.seedWrite hi wide v) s = s.onHw (fun h =>
    if h.regsLive then (h.disarm ⟨.STRM_SEED_LO, 0, 0⟩).seedWrite (h.fget F.STRM_SEL_STREAM) hi wide v.toNat else h) := rfl

theorem ofNat_mod_two_pow_32 (v : Nat) : (BitVec.ofNat 32 (v % 0x1_0000_0000)) = BitVec.ofNat 32 v := by
  apply BitVec.eq_of_toNat_eq
  simp

/-- SEED_WRITE: the registers named in `l` are written, and the stream draws on from its old seed. -/
theorem Completes.seedWrite {s : State} {n : Nat} (hlive : s.hw.regsLive = true) (hn : n = s.hw.fget F.STRM_SEL_STREAM)
    (hi wide : Bool) (v : BitVec 64) {P : Hw → Prop} {l : List Reg}
    (hP : ∀ s1 : Hw, s1.regs = s.hw.regs → P (s1.seedWrite n hi wide v.toNat) ∧ RegsKept l s1 (s1.seedWrite n hi wide v.toNat)) :
    Completes (.seedWrite hi wide v) s (fun t => P t ∧ t.seedOf n = s.hw.seedOf n ∧ (t.getStream n).seedPending = true ∧
      RegsKept l s.hw t) := by
  have hregs := s.hw.disarm_regs ⟨.STRM_SEED_LO, 0, 0⟩
  have hseed := (s.hw.disarm ⟨.STRM_SEED_LO, 0, 0⟩).seedWrite_seedOf n hi wide v.toNat
  obtain ⟨hp, hkept⟩ := hP _ hregs
  refine .of_onHw _ (exec_seedWrite hi wide v s) ?_
  rw [if_pos hlive, ← hn]
  exact ⟨hp, hseed.1, hseed.2, (RegsKept.of_regs hregs).trans hkept⟩

/-- Settles O14: RESET's last steps are one `fset` of its bit (`Hw.streamReset_ends`), so what its first steps wrote stands. -/
theorem streamControl : Obligations.StreamControl := by
  unfold Obligations.StreamControl
  intro s
  refine ⟨fun n hlive hn => ⟨?_, fun hhalt => ?_, fun hrun => ?_, ?_, fun v => ⟨?_, ?_, ?_⟩⟩, fun n hpend => ?_⟩
  · refine .of_onHw _ (exec_streamReset s) ?_
    rw [if_pos hlive, ← hn]
    obtain ⟨hzero, hhalted, hfaulted, hcause⟩ := s.hw.streamReset_reads n
    obtain ⟨hwaits, hmem, hhost⟩ := s.hw.streamReset_keeps n
    have hreset := s.hw.streamReset_reset n
    refine ⟨hzero, hhalted, hfaulted, hcause, ?_, ?_, ?_, ?_, ?_, fun hframe => ?_, hwaits, hmem, hhost, .streamReset s.hw n⟩
    iterate 4 rw [Hw.streamReset_getStream]; rfl
    · rw [hreset, Hw.streamReset_getStream]; rfl
    · rw [hreset, Hw.resetBegun_atHand _ _ hframe]; rfl
  · refine .of_onHw _ (exec_streamResume s) ?_
    rw [if_pos hlive, ← hn]
    exact s.hw.streamResume_halted n hhalt
  · refine .of_onHw _ (exec_streamResume s) ?_
    rw [if_pos hlive, ← hn]
    exact if_neg (by simp [hrun])
  · refine .of_onHw _ (exec_streamStep s) ?_
    rw [if_pos hlive, ← hn]
    exact s.hw.streamStep_steps n
  · exact .seedWrite hlive hn false true v fun s1 _ =>
      ⟨(Hw.rd64_wr64 _ _ _ (by decide)).trans (Nat.mod_eq_of_lt v.isLt), .wr (.wr (.refl _ s1) _ _ _ (by decide)) _ _ _ (by decide)⟩
  · exact .seedWrite hlive hn true false v fun s1 _ =>
      ⟨(Hw.rd_wr_self _ _ _ _).trans (ofNat_mod_two_pow_32 _), .wr (.refl _ s1) _ _ _ (by decide)⟩
  · exact .seedWrite hlive hn false false v fun s1 _ =>
      ⟨(Hw.rd_wr_self _ _ _ _).trans (ofNat_mod_two_pow_32 _), .wr (.refl _ s1) _ _ _ (by decide)⟩
  · exact .of_onHw _ (exec_streamResetZeroed n s) (s.hw.resetZeroed_clears n.toNat hpend)

end Sys2Proof.Machine
end

section
/-!
PROOFS. The global latches (R251, R252, R254): what a set or a clear does to them, and what answers a query.
-/
namespace Sys2Proof.Machine

/-! ### What the latch unit changes -/

/-- Besides the links and the link unit nothing differs. -/
def RouteOnly (s t : Hw) : Prop := t = { s with links := t.links, lnk := t.lnk }

namespace RouteOnly

theorem refl (s : Hw) : RouteOnly s s := rfl

theorem trans {s t v : Hw} (h : RouteOnly s t) (h' : RouteOnly t v) : RouteOnly s v := by
  unfold RouteOnly at *
  rw [h', h]

theorem foldl {α : Type} (f : Hw → α → Hw) (hf : ∀ s a, RouteOnly s (f s a)) (l : List α) : ∀ s : Hw, RouteOnly s (l.foldl f s) := by
  induction l with
  | nil => exact refl
  | cons a l ih => exact fun s => (hf s a).trans (ih _)

theorem of_linksOnly {s t : Hw} (h : LinksOnly s t) : RouteOnly s t := by
  unfold RouteOnly LinksOnly at *
  rw [h]

theorem of_routeRecord (s : Hw) (dst : Nat) (r : BitVec 128) : RouteOnly s (s.routeRecord dst r) := by
  unfold Hw.routeRecord
  split
  · rfl
  · rfl

theorem latches {s t : Hw} (h : RouteOnly s t) : t.latches = s.latches := by rw [h]

theorem glatch {s t : Hw} (h : RouteOnly s t) (m : Nat) : t.glatch m = s.glatch m := by rw [Hw.glatch, h.latches, Hw.glatch]

end RouteOnly

/-- What the latch unit holds is replaced. -/
def Hw.setLatches (s : Hw) (x : Latches) : Hw := { s with latches := x }

/-- Besides the links, the link unit and the latch unit nothing differs. -/
def LatchWork (s t : Hw) : Prop := t = { s with links := t.links, lnk := t.lnk, latches := t.latches }

namespace LatchWork

variable {s t v : Hw}

theorem trans (h : LatchWork s t) (h' : LatchWork t v) : LatchWork s v := by
  unfold LatchWork at *
  rw [h', h]

theorem of_routeOnly (h : RouteOnly s t) : LatchWork s t := by
  unfold LatchWork RouteOnly at *
  rw [h]

theorem of_latches (s : Hw) (x : Latches) : LatchWork s (s.setLatches x) := rfl

theorem regs (h : LatchWork s t) : t.regs = s.regs := by rw [h]
theorem mem (h : LatchWork s t) : t.mem = s.mem := by rw [h]
theorem kept (h : LatchWork s t) : RegsKept [] s t := .of_regs h.regs

end LatchWork

/-- Global latch `n` has the value `v`, and no other latch changed. -/
structure Latched (n : Nat) (v : Bool) (s t : Hw) : Prop where
  work : LatchWork s t
  ops : t.latches.ops = s.latches.ops
  glatch : ∀ m, t.glatch m = if m = n then v else s.glatch m

/-! ### Sets and clears -/

theorem Hw.glatch_put (s : Hw) (n m : Nat) (v : Bool) :
    Sparse.get false (Sparse.put false s.latches.set n v) m = if m = n then v else s.glatch m := by
  rw [Sparse.get_put]
  by_cases h : n = m
  · rw [if_pos h, if_pos h.symm]
  · rw [if_neg h, if_neg (Ne.symm h), Hw.glatch]

/-- R254: a watcher of a latch is told its new value. -/
def Hw.tellWatcher (n : Nat) (v : Bool) (s : Hw) (w : Watcher) : Hw :=
  s.routeRecord w.far (ctlRecord 0x04 w.far s.me 16 (latchBody n v 0 w.tag))

theorem Hw.setGlatch_eq (s : Hw) (n : Nat) (v : Bool) : s.setGlatch n v =
    if s.glatch n = v then s.setLatches { s.latches with set := Sparse.put false s.latches.set n v }
    else (s.latches.watchers.filter (fun w => w.latch == n)).foldl (Hw.tellWatcher n v)
      (s.setLatches { s.latches with
        set := Sparse.put false s.latches.set n v, watchers := s.latches.watchers.filter (fun w => w.latch != n) }) := rfl

theorem Latched.of_setGlatch (s : Hw) (n : Nat) (v : Bool) : Latched n v s (s.setGlatch n v) := by
  rw [Hw.setGlatch_eq]
  split
  · exact ⟨.of_latches s _, rfl, fun m => s.glatch_put n m v⟩
  · have hroute := RouteOnly.foldl (Hw.tellWatcher n v) (fun s w => .of_routeRecord s w.far _)
      (s.latches.watchers.filter (fun w => w.latch == n)) (s.setLatches { s.latches with
        set := Sparse.put false s.latches.set n v, watchers := s.latches.watchers.filter (fun w => w.latch != n) })
    refine ⟨(LatchWork.of_latches s _).trans (.of_routeOnly hroute), ?_, fun m => ?_⟩
    · rw [hroute.latches]; rfl
    · rw [hroute.glatch]; exact s.glatch_put n m v

/-- R251: a set reaches a latch. -/
theorem Latched.of_set (s : Hw) (n : Nat) (host : Bool) : Latched n true s (s.changeGlatch n true host) := by
  have h := of_setGlatch s n true
  exact ⟨h.work.trans (.of_latches _ _), h.ops, h.glatch⟩

/-- R251: a clear reaches a latch that no set has reached in this cycle. -/
theorem Latched.of_clear {s : Hw} {n : Nat} (h : NoSetNow s n) (host : Bool) : Latched n false s (s.changeGlatch n false host) := by
  have hnone : (if s.latches.setCycle = s.boot.ticks then s.latches.setNow else []).any (fun e => e.1 == n && !(host && e.2)) = false := by
    split
    · next hcycle => exact List.any_eq_false.2 fun e he => by simp [h hcycle e he]
    · rfl
  unfold Hw.changeGlatch
  rw [if_neg Bool.false_ne_true, hnone]
  exact of_setGlatch s n false

/-- R251: a clear reaches a latch in the cycle of a set that is no host write: the set wins. -/
theorem Hw.changeGlatch_setNow {s : Hw} {n : Nat} (h : SetNow s n) (host : Bool) : s.changeGlatch n false host = s := by
  obtain ⟨hcycle, hset⟩ := h
  unfold Hw.changeGlatch
  rw [if_neg Bool.false_ne_true, if_pos hcycle, if_pos (List.any_eq_true.2 ⟨_, hset, by simp⟩)]

/-- R251: a change that takes effect. -/
theorem Latched.of_changeGlatch {s : Hw} {n : Nat} {v : Bool} (h : v = true ∨ NoSetNow s n) (host : Bool) :
    Latched n v s (s.changeGlatch n v host) := by
  cases v with
  | true => exact of_set s n host
  | false => exact of_clear (h.resolve_left Bool.false_ne_true) host

/-! ### Queries and answers (R254) -/

section

variable {s : Hw} {l type : Nat}

theorem Hw.takeRecord_getLink_records (l' : Nat) : ((s.takeRecord l type).getLink l').records = (s.getLink l').records := by
  unfold Hw.takeRecord
  simp only
  split
  · rw [Hw.getLink_setLink]
    split
    · next h => rw [h]
    · rfl
  · rfl

theorem ctlRecord_type (type dst src hops body : Nat) (h : type < 2 ^ 8) :
    bits (ctlRecord type dst src hops body).toNat 0 8 = type := by
  unfold ctlRecord
  rw [bits_eq, BitVec.toNat_ofNat, Nat.shiftLeft_eq, Nat.shiftLeft_eq, Nat.shiftLeft_eq, Nat.shiftLeft_eq]
  omega

/-- The route to a module follows from the registers. -/
theorem Hw.routeOf_congr {s t : Hw} (h : t.regs = s.regs) (m xfer addr : Nat) : t.routeOf m xfer addr = s.routeOf m xfer addr := by
  have hup : t.linkUp = s.linkUp := funext fun l => by rw [Hw.linkUp, Hw.fget_congr h, Hw.linkUp]
  unfold Hw.routeOf Hw.routeLinks Hw.rd64
  rw [hup]
  simp only [Hw.rd_congr h]

/-- A record that is none of the edge goes behind those that wait on the route to its module. -/
theorem Hw.routeRecord_records {dst : Nat} {r : BitVec 128} (hedge : edgeRecord r = false) {l' : Nat} (hroute : s.routeOf dst 0 0 = some l') :
    ((s.routeRecord dst r).getLink l').records = (s.getLink l').records ++ [r] := by
  unfold Hw.routeRecord
  rw [hroute]
  simp only [Hw.sendRecord, hedge, Hw.getLink_setLink_self, Bool.false_eq_true, if_false]

/-- R254: a module watches a latch from its query on. -/
def Hw.watched (s : Hw) (src latch tag : Nat) : Hw := s.setLatches { s.latches with
  watchers := s.latches.watchers.filter (fun x => !(x.far == src && x.tag == tag)) ++ [{ far := src, latch := latch, tag := tag }] }

theorem Hw.latchQuery_eq (l src latch tag : Nat) : s.latchQuery l src latch tag =
    ((s.takeRecord l 0x03).watched src latch tag).routeRecord src (ctlRecord 0x04 src s.me 16 (latchBody latch (s.glatch latch) 0 tag)) :=
  rfl

/-- LATCH_QUERY. -/
theorem Hw.latchQuery_answers (l src latch tag : Nat) :
    { far := src, latch := latch, tag := tag } ∈ (s.latchQuery l src latch tag).latches.watchers ∧
    (∀ l', s.routeOf src 0 0 = some l' → ((s.latchQuery l src latch tag).getLink l').records = (s.getLink l').records ++
      [ctlRecord 0x04 src s.me 16 (latchBody latch (s.glatch latch) 0 tag)]) ∧
    (∀ m, (s.latchQuery l src latch tag).glatch m = s.glatch m) ∧ LatchWork s (s.latchQuery l src latch tag) := by
  have htake := LinksOnly.of_takeRecord s l 0x03
  have hrecords := @Hw.takeRecord_getLink_records s l 0x03
  have hedge : edgeRecord (ctlRecord 0x04 src s.me 16 (latchBody latch (s.glatch latch) 0 tag)) = false := by
    unfold edgeRecord
    rw [ctlRecord_type _ _ _ _ _ (by decide)]
    rfl
  rw [Hw.latchQuery_eq]
  generalize ctlRecord 0x04 src s.me 16 (latchBody latch (s.glatch latch) 0 tag) = r at hedge ⊢
  generalize s.takeRecord l 0x03 = t at htake hrecords ⊢
  have hroute := RouteOnly.of_routeRecord (t.watched src latch tag) src r
  refine ⟨?_, fun l' hl' => ?_, fun m => ?_, ?_⟩
  · rw [hroute.latches]
    exact List.mem_append_right _ (List.mem_singleton_self _)
  · rw [← hrecords l']
    exact Hw.routeRecord_records hedge ((Hw.routeOf_congr (t := t.watched src latch tag) htake.regs _ _ _).trans hl')
  · rw [hroute.glatch]
    exact (RouteOnly.of_linksOnly htake).glatch m
  · exact ((LatchWork.of_routeOnly (.of_linksOnly htake)).trans (.of_latches t _)).trans (.of_routeOnly hroute)

/-- LATCH_STATE: the waits whose tag the answer carries are satisfied for good when it shows what they want. -/
theorem Hw.latchState_waits (l src latch : Nat) (v : Bool) (tag : Nat) :
    (s.latchState l src latch v tag).latches.waits = s.latches.waits.map (fun w =>
      if w.far == src && w.latch == latch && w.tag == tag then { w with shown := w.shown || v == w.want } else w) ∧
    LatchWork s (s.latchState l src latch v tag) := by
  have htake := RouteOnly.of_linksOnly (.of_takeRecord s l 0x04)
  refine ⟨?_, (LatchWork.of_routeOnly htake).trans (.of_latches _ _)⟩
  unfold Hw.latchState
  simp only [htake.latches]

end

/-! ### The rows -/

theorem exec_glatch (b : Bool) (s : State) :
    exec (if b then .glatchSet else .glatchClear) s = s.onHw (fun h => h.hostGlatch b) := by
  cases b <;> rfl

section

variable {s : State}

theorem Hw.hostGlatch_live {s : Hw} (h : s.regsLive = true) (v : Bool) :
    s.hostGlatch v = s.changeGlatch (s.fget F.STRM_GLATCH_SEL_LATCH) v true := by
  unfold Hw.hostGlatch
  rw [h]
  rfl

theorem exec_globalLatchArrive (i : BitVec 16) (s : State) :
    exec (.globalLatchArrive i) s = s.onHw (fun h => h.glatchArrive i.toNat) := rfl

theorem exec_latchMessage (l : Fin 64) (src latch job : BitVec 12) (clear : Bool) (h : BitVec 16) (s : State) :
    exec (.latchMessage l src latch clear job h) s = s.onHw (fun h => h.latchMessage l.val latch.toNat clear) := rfl

theorem exec_latchQuery (l : Fin 64) (src latch job : BitVec 12) (h : BitVec 16) (s : State) :
    exec (.latchQuery l src latch job h) s = s.onHw (fun hw => hw.latchQuery l.val src.toNat latch.toNat h.toNat) := rfl

theorem exec_latchState (l : Fin 64) (src latch : BitVec 12) (v : Bool) (h : BitVec 16) (s : State) :
    exec (.latchState l src latch v h) s = s.onHw (fun hw => hw.latchState l.val src.toNat latch.toNat v h.toNat) := rfl

/-- An operation is no longer on its way to the latch unit. -/
def Hw.opArrived (s : Hw) (i : Nat) : Hw := s.setLatches { s.latches with ops := s.latches.ops.eraseIdx i }

theorem Hw.glatchArrive_some {s : Hw} {i : Nat} {o : LatchOp} (h : s.latches.ops[i]? = some o) :
    s.glatchArrive i = (s.opArrived i).changeGlatch o.latch (!o.clear) false := by
  unfold Hw.glatchArrive
  rw [h]
  rfl

/-- GLOBAL_LATCH_ARRIVE. -/
theorem Completes.globalLatchArrive {i : BitVec 16} {o : LatchOp} (h : s.hw.latches.ops[i.toNat]? = some o) :
    (o.clear = false ∨ NoSetNow s.hw o.latch → Completes (.globalLatchArrive i) s (fun t =>
      (∀ m, t.glatch m = if m = o.latch then !o.clear else s.hw.glatch m) ∧ t.latches.ops = s.hw.latches.ops.eraseIdx i.toNat ∧
      RegsKept [] s.hw t ∧ t.mem = s.hw.mem)) ∧
    (o.clear = true → SetNow s.hw o.latch → Completes (.globalLatchArrive i) s (fun t =>
      (∀ m, t.glatch m = s.hw.glatch m) ∧ t.latches.ops = s.hw.latches.ops.eraseIdx i.toNat ∧ RegsKept [] s.hw t ∧ t.mem = s.hw.mem)) := by
  refine ⟨fun heff => .of_onHw _ (exec_globalLatchArrive i s) ?_, fun hclear hset => .of_onHw _ (exec_globalLatchArrive i s) ?_⟩
  · rw [Hw.glatchArrive_some h]
    have hl := Latched.of_changeGlatch (s := s.hw.opArrived i.toNat) (v := !o.clear) (heff.imp_left (by simp [·])) false
    exact ⟨hl.glatch, hl.ops, hl.work.kept, hl.work.mem⟩
  · have hset' : SetNow (s.hw.opArrived i.toNat) o.latch := hset
    rw [Hw.glatchArrive_some h, hclear, Bool.not_true, Hw.changeGlatch_setNow hset']
    exact ⟨fun _ => rfl, rfl, .of_regs rfl, rfl⟩

/-- LATCH_MESSAGE. -/
theorem Completes.latchMessage (l : Fin 64) (src latch job : BitVec 12) (clear : Bool) (h : BitVec 16) :
    (clear = false ∨ NoSetNow s.hw latch.toNat → Completes (.latchMessage l src latch clear job h) s (fun t =>
      (∀ m, t.glatch m = if m = latch.toNat then !clear else s.hw.glatch m) ∧ RegsKept [] s.hw t ∧ t.mem = s.hw.mem)) ∧
    (clear = true → SetNow s.hw latch.toNat → Completes (.latchMessage l src latch clear job h) s (fun t =>
      (∀ m, t.glatch m = s.hw.glatch m) ∧ RegsKept [] s.hw t ∧ t.mem = s.hw.mem)) := by
  have htake := LinksOnly.of_takeRecord s.hw l.val 0x02
  have hroute := RouteOnly.of_linksOnly htake
  have hwork := LatchWork.of_routeOnly hroute
  refine ⟨fun heff => .of_onHw _ (exec_latchMessage ..) ?_, fun hclear hset => .of_onHw _ (exec_latchMessage ..) ?_⟩
  · have hl : Latched latch.toNat (!clear) (s.hw.takeRecord l.val 0x02) (s.hw.latchMessage l.val latch.toNat clear) :=
      .of_changeGlatch (heff.imp (by simp [·]) fun hn => by rwa [NoSetNow, hroute.latches, htake.boot]) false
    have hall := hwork.trans hl.work
    exact ⟨fun m => by rw [hl.glatch, hroute.glatch], hall.kept, hall.mem⟩
  · have hset' : SetNow (s.hw.takeRecord l.val 0x02) latch.toNat := by rwa [SetNow, hroute.latches, htake.boot]
    rw [Hw.latchMessage, hclear, Bool.not_true, Hw.changeGlatch_setNow hset']
    exact ⟨hroute.glatch, hwork.kept, hwork.mem⟩

end

/-- Settles O15: a change that takes effect is a `Latched` step, whichever row brings it. -/
theorem globalLatches : Obligations.GlobalLatches := by
  unfold Obligations.GlobalLatches
  intro s
  refine ⟨fun b hlive heff => .of_onHw _ (exec_glatch b s) ?_, fun hlive hset => .of_onHw _ (exec_glatch false s) ?_,
    fun i o h => Completes.globalLatchArrive h, fun l src latch job clear h => ⟨(Completes.latchMessage l src latch job clear h).1,
      (Completes.latchMessage l src latch job clear h).2, .of_onHw _ (exec_latchQuery ..) ?_, fun v => .of_onHw _ (exec_latchState ..) ?_⟩⟩
  · rw [Hw.hostGlatch_live hlive]
    have hl := Latched.of_changeGlatch heff true
    exact ⟨hl.glatch, hl.work.kept, hl.work.mem⟩
  · rw [Hw.hostGlatch_live hlive]
    exact Hw.changeGlatch_setNow hset true
  · obtain ⟨hwatch, hanswer, hglatch, hwork⟩ := s.hw.latchQuery_answers l.val src.toNat latch.toNat h.toNat
    exact ⟨hwatch, hanswer, hglatch, hwork.kept, hwork.mem⟩
  · obtain ⟨hwaits, hwork⟩ := s.hw.latchState_waits l.val src.toNat latch.toNat v h.toNat
    refine ⟨fun w hw => ⟨fun htag => ?_, fun htag => ?_⟩, by rw [hwaits, List.length_map], hwork.kept, hwork.mem⟩
    · rw [hwaits]
      exact List.mem_map.2 ⟨w, hw, by simp [htag]⟩
    · rw [hwaits]
      exact List.mem_map.2 ⟨w, hw, if_neg (by simpa [and_assoc] using htag)⟩

end Sys2Proof.Machine
end

section
/-!
PROOFS. Bolts and depth shadows (R229 to R235, R415): a window record in its ring slot, the tie-off, and the four words of a shadow.
-/
namespace Sys2Proof.Machine

/-! ### A write that meets no error changes no register -/

section

variable {s : Hw} {c : Sparse Byte}

/-- R353: the atom of a byte that is stored is not of an offlined line. -/
theorem Hw.Takes.atom {a k : Nat} (h : s.Takes a k) (ch p : Nat) : s.place (a / 128 * 128) ≠ .offlined ch p := by
  obtain ⟨-, -, hplace⟩ := h
  have hchannel : channelOf (a / 128 * 128) = channelOf a := by
    unfold channelOf
    simp only [Nat.shiftRight_eq_div_pow]
    rw [show a / 128 * 128 / 2 ^ 8 = a / 2 ^ 8 by omega]
  have hrow : rowOf (a / 128 * 128) = rowOf a := by
    unfold rowOf
    simp only [Nat.shiftRight_eq_div_pow]
    rw [show a / 128 * 128 / 2 ^ 11 = a / 2 ^ 11 by omega]
  have hposition : s.position (a / 128 * 128) = s.position a := by
    unfold Hw.position
    rw [hchannel, hrow]
  intro hoff
  unfold Hw.place at hplace hoff
  rw [hposition] at hoff
  simp only at hplace hoff
  split at hoff
  next hlow =>
    rw [if_pos (show a < 0x50_0000_0000 by omega)] at hplace
    split at hplace
    next hcap =>
      split at hplace
      next => exact absurd hplace (by simp)
      next hon =>
        rw [if_pos (show a / 128 * 128 < s.capacity by omega), if_neg hon] at hoff
        exact absurd hoff (by simp)
    next => exact absurd hplace (by simp)
  next =>
    split at hoff
    next => split at hoff <;> exact absurd hoff (by simp)
    next => exact absurd hoff (by simp)

/-- A word that is no dross counts nothing when it is taken in. -/
theorem RegsKept.of_takeForwarded (h : s.mem.syn = []) (w : Nat) (counts : Bool) : RegsKept [] s (s.takeForwarded w counts) := by
  have hclean : (s.mem.syndrome w == .dross) = false := by
    unfold Mem.syndrome
    rw [h]
    rfl
  unfold Hw.takeForwarded
  simp only [hclean, Bool.and_false, Bool.false_eq_true, if_false]
  split
  · exact .of_regs rfl
  · exact .refl [] s

theorem Hw.noteMirror_regs (s : Hw) (l : List Nat) : (s.noteMirror l).regs = s.regs := by
  unfold Hw.noteMirror
  split
  · rfl
  · rfl

/-- R308, R336: words written where no word has an error change no register. -/
theorem RegsKept.of_writeKeys (h : s.mem.syn = []) (c : Sparse Byte) : RegsKept [] s (s.writeKeys c) := by
  have hmerge : s.mergeAtoms (groupWords c) = (s, []) := by
    unfold Hw.mergeAtoms
    rw [h]
    rfl
  have hwords : ∀ (l : List (Nat × List (Nat × Byte))) (v : Hw), v.mem.syn = [] → RegsKept [] v
      (l.foldl (fun s g => (({ s with mem := (s.mem.writeWord g.1 g.2).1 } : Hw).countMerge g.1 (s.mem.writeWord g.1 g.2).2.1
        (s.mem.writeWord g.1 g.2).2.2).takeForwarded g.1 (g.2.length != 8)) v) := fun l => by
    induction l with
    | nil => exact fun v _ => .refl [] v
    | cons g l ih =>
      intro v hv
      have hput := (Mem.syn_foldl_putByte (fun b : Nat × Byte => g.1 * 8 + b.1) (fun b => b.2) g.2 v.mem).trans hv
      rw [List.foldl_cons, Mem.writeWord_clean hv]
      generalize g.2.foldl (fun m b => m.putByte (g.1 * 8 + b.1) b.2) v.mem = m at hput
      refine RegsKept.trans (.trans (.of_regs (t := { v with mem := m }) rfl) ?_) (ih _ ?_)
      · exact RegsKept.of_takeForwarded (s := { v with mem := m }) hput _ _
      · rw [Hw.takeForwarded_mem]
        exact hput
  unfold Hw.writeKeys
  rw [hmerge]
  exact (hwords _ s h).trans (.of_regs rfl)

/-- R353, R400, R446: bytes that are all taken, where no word has an error, change no register. -/
theorem RegsKept.of_writeAddrs (hsyn : s.mem.syn = []) (key : Nat → Nat) (h : ∀ e ∈ c, s.Takes e.1 (key e.1)) :
    RegsKept [] s (s.writeAddrs c) := by
  have hhit : (if s.flag F.PAT_STATUS_LOCKED || s.pat.sec.isSome then (List.find? (fun e => s.lockedAt e.1) c).map (·.1) else none) = none := by
    have hfind : List.find? (fun e => s.lockedAt e.1) c = none := List.find?_eq_none.2 fun e he => by rw [(h e he).1]; exact Bool.false_ne_true
    rw [hfind]
    split <;> rfl
  unfold Hw.writeAddrs
  rw [hhit]
  simp only [Option.isSome_none, Bool.false_eq_true, if_false]
  rw [List.filterMap_eq_nil_iff.2 (fun a ha => ?_), ite_self, List.foldl_nil]
  · change RegsKept [] s ((Hw.writeKeys (c.foldl Hw.writeStep (s, [])).1 (c.foldl Hw.writeStep (s, [])).2).noteMirror _)
    rw [Hw.foldl_writeStep_takes key c h []]
    exact (RegsKept.of_writeKeys hsyn _).trans (.of_regs (Hw.noteMirror_regs _ _))
  · obtain ⟨e, he, rfl⟩ := List.mem_map.1 (List.mem_eraseDups.1 ha)
    split
    next ch p hp => exact absurd hp ((h e he).atom ch p)
    next => rfl

theorem RegsKept.of_writeRun {a k : Nat} {bs : List Byte} (hsyn : s.mem.syn = []) (h : ∀ i < bs.length, s.Takes (a + i) (k + i)) :
    RegsKept [] s (s.writeRun a bs) := .of_writeAddrs hsyn (fun x => k + (x - a)) fun e he => by
  obtain ⟨i, hi, rfl⟩ := (Spells.of_runCells a bs).only e he
  simpa using h i hi

end

/-! ### A record written to a window (R228 to R231) -/

section

variable {s : Hw} {n : Nat}

/-- A write of one record to slot i of a window. -/
theorem Hw.windowWrite_slot (hlive : s.regsLive = true) {i : Nat} (hi : i < 64) {bs : List Byte} (hlen : bs.length = 64) :
    s.windowWrite n (64 * i) bs = s.windowSlot n i bs := by
  have hrecords : records64 (bs.length / 64) bs = [bs] := by
    rw [hlen]
    exact congrArg (· :: _) (List.take_of_length_le hlen.le)
  unfold Hw.windowWrite
  rw [hlive, if_neg (by decide), if_neg (by simp [hlen]), hrecords]
  change s.windowRecord n (64 * i + 64 * 0) bs = _
  unfold Hw.windowRecord
  rw [if_pos (by omega)]
  congr 1
  omega

/-- R231: a record whose ring slot is free. -/
theorem Hw.windowSlot_free {i : Nat} (h : i < 4096 - s.depth n) (bs : List Byte) : s.windowSlot n i bs =
    (s.writeRun (s.ringAddr n (s.tail n + i)) bs).setStream n { s.getStream n with
      written := (s.getStream n).written ||| BitVec.ofNat 64 (2 ^ i) } := by
  unfold Hw.windowSlot
  rw [if_neg (by omega), Nat.one_shiftLeft]

/-- R231: a record that the ring has no room for. -/
theorem Hw.windowSlot_full {i : Nat} (h : 4096 - s.depth n ≤ i) (bs : List Byte) : s.windowSlot n i bs =
    s.setStream n { s.getStream n with discarded := (s.getStream n).discarded ||| BitVec.ofNat 64 (2 ^ i) } := by
  unfold Hw.windowSlot
  rw [if_pos h, Nat.one_shiftLeft]

/-! ### Retirement (R234, R246) -/

/-- R246: the slots that retire when k more have completed. -/
def Hw.retiring (s : Hw) (n k : Nat) : Nat :=
  if s.flag F.STRM_STATE_FAULTED n then 0 else min ((s.getStream n).debt + k) (s.depth n)

/-- R234: a bolt whose end is e.1 is done when the retired count r has reached that end; counts wrap. -/
def boltDone (r : Nat) (e : Nat × Nat) : Bool := (r + 0x1_0000_0000 - e.1) % 0x1_0000_0000 < 0x8000_0000

/-- R234: the retired count after k more slots have completed. -/
def Hw.retiredAfter (s : Hw) (n k : Nat) : Nat :=
  (s.fset F.STRM_RETIRED_COUNT ((s.retired n + s.retiring n k) % 0x1_0000_0000) n).retired n

/-- R234, R246: the slots retire; no event is raised yet. -/
def Hw.slotsRetired (s : Hw) (n k : Nat) : Hw :=
  let s1 := (s.fset F.STRM_RETIRED_COUNT ((s.retired n + s.retiring n k) % 0x1_0000_0000) n).setStream n
    { s.getStream n with debt := (s.getStream n).debt + k - s.retiring n k }
  let s2 := s1.setStream n { s1.getStream n with notify := (s.getStream n).notify.filter (fun e => !boltDone (s.retiredAfter n k) e) }
  if s.retiring n k = 0 then s2 else s2.shadowTouch n

theorem Hw.retireSlots_eq (k : Nat) : s.retireSlots n k = ((s.getStream n).notify.filter (boltDone (s.retiredAfter n k))).foldl
    (fun v e => v.raise 0xB001 n e.2 { stream := some n, job := some (v.fget F.STRM_JOB_JOB n) }) (s.slotsRetired n k) := rfl

/-- The events of the bolts that are done. -/
theorem RegsKept.foldl_raise (l : List (Nat × Nat)) (w : Hw → Who) : ∀ v : Hw,
    RegsKept eventRegs v (l.foldl (fun v e => v.raise 0xB001 n e.2 (w v)) v) ∧
    EventsOnly v (l.foldl (fun v e => v.raise 0xB001 n e.2 (w v)) v) := by
  induction l with
  | nil => exact fun v => ⟨.refl _ v, .refl v⟩
  | cons e l ih =>
    intro v
    obtain ⟨hkept, honly⟩ := ih (v.raise 0xB001 n e.2 (w v))
    exact ⟨((RegsKept.refl _ v).raise _ _ _ _ (fun _ hr => hr)).trans hkept, (EventsOnly.of_raise v _ _ _ _).trans honly⟩

/-- What stays of a stream when slots retire. -/
theorem Hw.slotsRetired_stream (k : Nat) : ((s.slotsRetired n k).getStream n).written = (s.getStream n).written ∧
    ((s.slotsRetired n k).getStream n).discarded = (s.getStream n).discarded ∧
    ((s.slotsRetired n k).getStream n).notify = (s.getStream n).notify.filter (fun e => !boltDone (s.retiredAfter n k) e) := by
  unfold Hw.slotsRetired Hw.shadowTouch
  simp only
  split
  · simp only [Hw.getStream_setStream_self, and_self]
  · simp only [Hw.getStream_setStream_self, and_self]

theorem Hw.slotsRetired_regs (k : Nat) : (s.slotsRetired n k).regs =
    (s.fset F.STRM_RETIRED_COUNT ((s.retired n + s.retiring n k) % 0x1_0000_0000) n).regs := by
  unfold Hw.slotsRetired Hw.shadowTouch
  simp only
  split <;> rfl

theorem Hw.slotsRetired_mem (k : Nat) : (s.slotsRetired n k).mem = s.mem := by
  unfold Hw.slotsRetired Hw.shadowTouch
  simp only
  split <;> rfl

theorem Hw.slotsRetired_host (k : Nat) : (s.slotsRetired n k).host = s.host := by
  unfold Hw.slotsRetired Hw.shadowTouch
  simp only
  split <;> rfl

/-- Retirement changes the retired count, and what events count. -/
theorem RegsKept.retireSlots (k : Nat) : RegsKept (.STRM_RETIRED :: eventRegs) s (s.retireSlots n k) := by
  rw [Hw.retireSlots_eq]
  refine RegsKept.trans ?_ ((RegsKept.foldl_raise _ _ _).1.mono fun r hr => List.mem_cons_of_mem _ hr)
  exact ((RegsKept.refl _ s).fset F.STRM_RETIRED_COUNT _ n List.mem_cons_self).trans (.of_regs (Hw.slotsRetired_regs k))

theorem Hw.retireSlots_mem (k : Nat) : (s.retireSlots n k).mem = s.mem := by
  rw [Hw.retireSlots_eq]
  have h := (RegsKept.foldl_raise (n := n) ((s.getStream n).notify.filter (boltDone (s.retiredAfter n k)))
    (fun v => { stream := some n, job := some (v.fget F.STRM_JOB_JOB n) }) (s.slotsRetired n k)).2
  exact (congrArg Hw.mem h).trans (Hw.slotsRetired_mem k)

theorem Hw.retireSlots_getStream (k : Nat) : (s.retireSlots n k).getStream n = (s.slotsRetired n k).getStream n := by
  rw [Hw.retireSlots_eq]
  have h : EventsOnly _ _ := (RegsKept.foldl_raise (n := n) ((s.getStream n).notify.filter (boltDone (s.retiredAfter n k)))
    (fun v => { stream := some n, job := some (v.fget F.STRM_JOB_JOB n) }) (s.slotsRetired n k)).2
  unfold EventsOnly at h
  rw [h]
  rfl

/-- A field written with the value it has reads on as before. -/
theorem setBits_bits (x lo w : Nat) : setBits x lo w (bits x lo w) = x := by
  have hle : bits x lo w * 2 ^ lo ≤ x := by
    rw [bits_eq]
    exact (Nat.mul_le_mul_right _ (Nat.mod_le _ _)).trans (Nat.div_mul_le_self x (2 ^ lo))
  unfold setBits
  rw [Nat.one_shiftLeft, Nat.mod_eq_of_lt (bits_lt x lo w), Nat.shiftLeft_eq, Nat.sub_add_cancel hle]

theorem Hw.rd_fset_same (f : Fld) (u : Nat) (r : Reg) (v : Nat) : (s.fset f (s.fget f u) u).rd r v = s.rd r v := by
  rw [Hw.rd_fset]
  split
  next h =>
    obtain ⟨rfl, rfl⟩ := h
    unfold Hw.fget
    rw [setBits_bits, BitVec.ofNat_toNat, BitVec.setWidth_eq]
  next => rfl

/-- R234: while no slot is owed and no bolt is done, retiring none more changes nothing. -/
theorem Hw.retireSlots_none (hdebt : (s.getStream n).debt = 0) (hdone : ∀ e ∈ (s.getStream n).notify, boltDone (s.retired n) e = false) :
    (∀ r u, (s.retireSlots n 0).rd r u = s.rd r u) ∧ (s.retireSlots n 0).host = s.host ∧
    ((s.retireSlots n 0).getStream n).notify = (s.getStream n).notify := by
  have hnone : s.retiring n 0 = 0 := by
    unfold Hw.retiring
    rw [hdebt]
    split <;> simp
  have hret : (s.retired n + s.retiring n 0) % 0x1_0000_0000 = s.fget F.STRM_RETIRED_COUNT n := by
    rw [hnone]
    exact Nat.mod_eq_of_lt (s.fget_lt F.STRM_RETIRED_COUNT n)
  have hafter : s.retiredAfter n 0 = s.retired n := by
    unfold Hw.retiredAfter
    rw [hret]
    exact (Hw.fget_fset_self s F.STRM_RETIRED_COUNT _ n).trans (Nat.mod_eq_of_lt (s.fget_lt F.STRM_RETIRED_COUNT n))
  have hfilter : (s.getStream n).notify.filter (boltDone (s.retiredAfter n 0)) = [] :=
    List.filter_eq_nil_iff.2 fun e he => by rw [hafter, hdone e he]; exact Bool.false_ne_true
  rw [Hw.retireSlots_eq, hfilter, List.foldl_nil]
  refine ⟨fun r u => ?_, Hw.slotsRetired_host 0, ?_⟩
  · rw [Hw.rd_congr (Hw.slotsRetired_regs 0), hret]
    exact Hw.rd_fset_same _ _ _ _
  · rw [(Hw.slotsRetired_stream 0).2.2, hafter]
    exact List.filter_eq_self.2 fun e he => by rw [hdone e he]; rfl

/-! ### The tie-off (R232) -/

/-- R232: what was written for a bolt is forgotten. -/
def Hw.forgetBolt (s : Hw) (n : Nat) : Hw := s.setStream n { s.getStream n with written := 0, discarded := 0 }

/-- R232: the tail once a bolt is accepted. -/
def Hw.boltTail (s : Hw) (n : Nat) (r : Record64) : Nat := (s.tail n + bits r.toNat 0 7) % 0x1_0000_0000

/-- R232: a bolt accepted. -/
def Hw.boltTied (s : Hw) (n : Nat) (r : Record64) : Hw :=
  let s2 := ((s.forgetBolt n).fset F.STRM_TAIL_COUNT (s.boltTail n r) n).fset F.STRM_SEQ_NEXT ((bits r.toNat 32 32 + 1) % 0x1_0000_0000) n
  s2.setStream n { s2.getStream n with
    notify := if bit r.toNat 7 then (s2.getStream n).notify ++ [(s.boltTail n r, bits r.toNat 32 32)] else (s2.getStream n).notify
    shadowDirty := true }

theorem Hw.tieOff_accepted {r : Record64} (h : s.tieOffCheck n r = none) : s.tieOff n r = (s.boltTied n r).retireSlots n 0 := by
  unfold Hw.tieOff
  rw [h]
  rfl

theorem Hw.tieOff_rejected {r : Record64} {code : Nat} (h : s.tieOffCheck n r = some code) : s.tieOff n r =
    ((s.bump F.STRM_BOLT_REJ_COUNT n).forgetBolt n).raise code n (bits r.toNat 32 32) { stream := some n } := by
  unfold Hw.tieOff
  rw [h]
  rfl

theorem Hw.boltTied_getStream (r : Record64) : (s.boltTied n r).getStream n = { s.getStream n with
    written := 0, discarded := 0, shadowDirty := true,
    notify := if bit r.toNat 7 then (s.getStream n).notify ++ [(s.boltTail n r, bits r.toNat 32 32)] else (s.getStream n).notify } := by
  have hx : (((s.forgetBolt n).fset F.STRM_TAIL_COUNT (s.boltTail n r) n).fset F.STRM_SEQ_NEXT ((bits r.toNat 32 32 + 1) % 0x1_0000_0000) n).getStream n =
      { s.getStream n with written := 0, discarded := 0 } := Hw.getStream_setStream_self s n { s.getStream n with written := 0, discarded := 0 }
  unfold Hw.boltTied
  rw [Hw.getStream_setStream_self, hx]

theorem RegsKept.boltTied (r : Record64) : RegsKept [.STRM_TAIL, .STRM_SEQ] s (s.boltTied n r) :=
  ((RegsKept.of_regs (t := s.forgetBolt n) rfl).fset F.STRM_TAIL_COUNT _ n (by decide)).fset F.STRM_SEQ_NEXT _ n (by decide)

theorem Hw.boltTied_counts (r : Record64) : (s.boltTied n r).tail n = s.boltTail n r ∧
    (s.boltTied n r).fget F.STRM_SEQ_NEXT n = (bits r.toNat 32 32 + 1) % 2 ^ 32 ∧ (s.boltTied n r).retired n = s.retired n := by
  refine ⟨?_, ?_, Hw.fget_of_rd (RegsKept.boltTied r _ n (by decide))⟩
  · have h := Hw.fget_fset_apart ((s.forgetBolt n).fset F.STRM_TAIL_COUNT (s.boltTail n r) n) F.STRM_SEQ_NEXT F.STRM_TAIL_COUNT
      ((bits r.toNat 32 32 + 1) % 0x1_0000_0000) n n (by decide) (by decide)
    refine h.trans ((Hw.fget_fset_self _ F.STRM_TAIL_COUNT _ n).trans ?_)
    exact Nat.mod_mod _ _
  · exact (Hw.fget_fset_self _ F.STRM_SEQ_NEXT _ n).trans (Nat.mod_mod _ _)

/-- R232: an accepted bolt is of one command at least, and the ring has room for it. -/
theorem Hw.tieOffCheck_room {r : Record64} (h : s.tieOffCheck n r = none) : 0 < bits r.toNat 0 7 ∧ s.depth n + bits r.toNat 0 7 ≤ 4096 := by
  unfold Hw.tieOffCheck at h
  simp only at h
  split at h
  next => cases h
  next =>
    split at h
    next => cases h
    next hcount =>
      split at h
      next => cases h
      next =>
        split at h
        next => cases h
        next hroom =>
          simp only [Bool.or_eq_true, decide_eq_true_eq, not_or] at hcount hroom
          omega

/-- R234: a bolt that is just tied off is not done. -/
theorem Hw.boltDone_tied {r : Record64} (h : s.tieOffCheck n r = none) (seq : Nat) :
    boltDone (s.retired n) (s.boltTail n r, seq) = false := by
  obtain ⟨hone, hroom⟩ := Hw.tieOffCheck_room h
  have htail : s.tail n < 2 ^ 32 := s.fget_lt F.STRM_TAIL_COUNT n
  have hretired : s.retired n < 2 ^ 32 := s.fget_lt F.STRM_RETIRED_COUNT n
  unfold Hw.depth at hroom
  unfold boltDone Hw.boltTail
  simp only [decide_eq_false_iff_not]
  omega

/-- TIE_OFF_RECORD: the record passes its checks. -/
theorem Hw.tieOff_passes {r : Record64} (h : s.tieOffCheck n r = none) :
    (s.tieOff n r).tail n = (s.tail n + bits r.toNat 0 7) % 2 ^ 32 ∧
    (s.tieOff n r).fget F.STRM_SEQ_NEXT n = (bits r.toNat 32 32 + 1) % 2 ^ 32 ∧
    ((s.tieOff n r).getStream n).written = 0 ∧ ((s.tieOff n r).getStream n).discarded = 0 ∧ (s.tieOff n r).mem = s.mem ∧
    ((s.getStream n).debt = 0 → (s.getStream n).notify = [] →
      RegsKept [.STRM_TAIL, .STRM_SEQ] s (s.tieOff n r) ∧ (s.tieOff n r).host.waiting = s.host.waiting ∧
      (bit r.toNat 7 = true → ((s.tieOff n r).getStream n).notify = [((s.tieOff n r).tail n, bits r.toNat 32 32)])) := by
  rw [Hw.tieOff_accepted h]
  obtain ⟨htail, hseq, hretired⟩ := s.boltTied_counts (n := n) r
  have hkept := RegsKept.retireSlots (s := s.boltTied n r) (n := n) 0
  have hstream := s.boltTied_getStream (n := n) r
  obtain ⟨hwritten, hdiscarded, -⟩ := (s.boltTied n r).slotsRetired_stream (n := n) 0
  have htail' : ((s.boltTied n r).retireSlots n 0).tail n = s.boltTail n r :=
    (Hw.fget_of_rd (hkept _ n (by decide))).trans htail
  refine ⟨htail', (Hw.fget_of_rd (hkept _ n (by decide))).trans hseq, ?_, ?_, Hw.retireSlots_mem 0, fun hdebt hnotify => ?_⟩
  · rw [Hw.retireSlots_getStream, hwritten, hstream]
  · rw [Hw.retireSlots_getStream, hdiscarded, hstream]
  · have hdone : ∀ e ∈ ((s.boltTied n r).getStream n).notify, boltDone ((s.boltTied n r).retired n) e = false := fun e he => by
      rw [hstream, hnotify] at he
      simp only at he
      split at he
      · obtain rfl := List.mem_singleton.1 he
        rw [hretired]
        exact Hw.boltDone_tied h _
      · cases he
    obtain ⟨hrd, hhost, hlist⟩ := (s.boltTied n r).retireSlots_none (n := n) (by rw [hstream]; exact hdebt) hdone
    refine ⟨(RegsKept.boltTied r).trans fun q u _ => hrd q u, by rw [hhost]; rfl, fun hbit => ?_⟩
    rw [hlist, hstream, htail', hnotify]
    simp only [hbit, if_true, List.nil_append]

/-- TIE_OFF_RECORD: the record fails a check. -/
theorem Hw.tieOff_fails {r : Record64} {code : Nat} (h : s.tieOffCheck n r = some code) (hroom : EventRoom s) :
    Raises s (s.tieOff n r) code n (bits r.toNat 32 32) ∧ ((s.tieOff n r).getStream n).written = 0 ∧
    ((s.tieOff n r).getStream n).discarded = 0 ∧ (s.tieOff n r).rd .STRM_BOLT_REJ n = satAdd (s.rd .STRM_BOLT_REJ n) 1 ∧
    RegsKeptEv [.STRM_BOLT_REJ] s (s.tieOff n r) ∧ (s.tieOff n r).mem = s.mem := by
  rw [Hw.tieOff_rejected h]
  have hstream := Hw.getStream_setStream_self (s.bump F.STRM_BOLT_REJ_COUNT n) n
    { (s.bump F.STRM_BOLT_REJ_COUNT n).getStream n with written := 0, discarded := 0 }
  have hkept : RegsKept [.STRM_BOLT_REJ] s ((s.bump F.STRM_BOLT_REJ_COUNT n).forgetBolt n) :=
    ((RegsKept.refl _ s).bump F.STRM_BOLT_REJ_COUNT n 1 (by decide)).trans (.of_regs rfl)
  refine ⟨.of_raise hroom (congrArg (·.waiting) (s.bump_host F.STRM_BOLT_REJ_COUNT n 1)) _ _ _ _, ?_, ?_, ?_, hkept.then_raise _ _ _ _, ?_⟩
  · exact (congrArg (fun v => (Sparse.get StreamSt.reset v n).written) (Hw.raise_streams _ _ _ _ _)).trans (congrArg StreamSt.written hstream)
  · exact (congrArg (fun v => (Sparse.get StreamSt.reset v n).discarded) (Hw.raise_streams _ _ _ _ _)).trans (congrArg StreamSt.discarded hstream)
  · rw [Hw.rd_raise _ _ _ _ _ _ _ (by decide)]
    exact (Hw.rd_bump s F.STRM_BOLT_REJ_COUNT .STRM_BOLT_REJ n n 1).trans (if_pos ⟨rfl, rfl⟩)
  · rw [Hw.raise_mem]
    exact s.bump_mem _ _ _

/-! ### Depth shadows (R235) -/

/-- A run of cells put into a map is found there. -/
theorem Spells.find?_foldl_set {c m : Sparse Byte} {a : Nat} {bs : List Byte} (h : Spells c a bs) {i : Nat} (hi : i < bs.length) :
    Sparse.find? (c.foldl (fun m e => Sparse.set m e.1 e.2) m) (a + i) = some bs[i] := by
  have hfold : ∀ (l : Sparse Byte) (m : Sparse Byte), (∀ e ∈ l, e.1 = a + i → e.2 = bs[i]) →
      ((∃ e ∈ l, e.1 = a + i) ∨ Sparse.find? m (a + i) = some bs[i]) →
      Sparse.find? (l.foldl (fun m e => Sparse.set m e.1 e.2) m) (a + i) = some bs[i] := fun l => by
    induction l with
    | nil => exact fun m _ h => h.resolve_left (by simp)
    | cons e l ih =>
      intro m hval h
      obtain ⟨hval0, hval⟩ := List.forall_mem_cons.1 hval
      refine ih _ hval ?_
      by_cases he : e.1 = a + i
      · exact .inr (by rw [Sparse.find?_set, if_pos he, hval0 he])
      · exact h.imp (fun ⟨x, hx, hxe⟩ => ⟨x, (List.mem_cons.1 hx).resolve_left (by rintro rfl; exact he hxe), hxe⟩)
          (fun hm => by rw [Sparse.find?_set, if_neg he, hm])
  refine hfold c m (fun e he hk => ?_) (.inl (h.all i hi))
  obtain ⟨j, hj, rfl⟩ := h.only e he
  obtain rfl : j = i := Nat.add_left_cancel hk
  rfl

/-- R424: what is written into host memory is found there. -/
theorem Hw.find?_hostWrite (s : Hw) (a : Nat) (bs : List Byte) {i : Nat} (hi : i < bs.length) :
    Sparse.find? (s.hostWrite a bs).host.mem (a + i) = some bs[i] := (Spells.of_runCells a bs).find?_foldl_set hi

/-- R235: the 16 bytes of a depth shadow. -/
def Hw.shadowBytes (s : Hw) (n : Nat) : List Byte :=
  toBytes 4 (s.retired n) ++ toBytes 4 (s.tail n) ++ toBytes 4 (s.rd .STRM_STATUS_ACC n).toNat ++
    toBytes 4 (bits (s.rd .STRM_STATE n).toNat 0 8 + (s.beatNo % 2 ^ 24) * 2 ^ 8)

theorem Hw.depthShadow_due (hdue : (s.getStream n).shadowDue = true) (hen : s.flag F.STRM_CTL_ENABLE n = true)
    (hshadow : s.flag F.STRM_CTL_SHADOW_EN n = true) (hbus : s.busMaster = true) : s.depthShadow n =
      (s.setStream n { s.getStream n with shadowDue := false }).hostWrite (s.rd64 .STRM_SHADOW_ADDR_LO .STRM_SHADOW_ADDR_HI n)
        (s.shadowBytes n) := by
  unfold Hw.depthShadow Hw.shadowBytes
  simp only [hdue, hen, hshadow, hbus, Bool.and_self, if_true, Nat.shiftLeft_eq, Nat.one_mul]

/-- DEPTH_SHADOW_WRITE. -/
theorem Hw.depthShadow_writes (hdue : (s.getStream n).shadowDue = true) (hen : s.flag F.STRM_CTL_ENABLE n = true)
    (hshadow : s.flag F.STRM_CTL_SHADOW_EN n = true) (hbus : s.busMaster = true) :
    ((s.depthShadow n).getStream n).shadowDue = false ∧ RegsKept [] s (s.depthShadow n) ∧
    ∀ i < 16, Sparse.find? (s.depthShadow n).host.mem (s.rd64 .STRM_SHADOW_ADDR_LO .STRM_SHADOW_ADDR_HI n + i) = (s.shadowBytes n)[i]? := by
  have hlen : (s.shadowBytes n).length = 16 := by simp [Hw.shadowBytes, length_toBytes]
  rw [Hw.depthShadow_due hdue hen hshadow hbus]
  generalize s.shadowBytes n = bs at hlen
  refine ⟨?_, .of_regs rfl, fun i hi => ?_⟩
  · exact congrArg StreamSt.shadowDue (Hw.getStream_setStream_self s n { s.getStream n with shadowDue := false })
  · rw [List.getElem?_eq_getElem (hlen ▸ hi)]
    exact Hw.find?_hostWrite _ _ _ (hlen ▸ hi)

end

theorem exec_streamWindowWrite (n : BitVec 16) (off : BitVec 14) (data : List Byte) (p : Bool) (s : State) :
    exec (.streamWindowWrite n off data p) s = s.onHw (fun h => if p then (if h.boot.phase == Phase.live then
      h.poisonRx (n.toNat * 0x4000 + off.toNat) 2 else h) else h.windowWrite n.toNat off.toNat data) := rfl
theorem exec_tieOffRecord (n : BitVec 16) (r : Record64) (s : State) :
    exec (.tieOffRecord n r) s = s.onHw (fun h => if h.regsLive then h.tieOff n.toNat r else h) := rfl
theorem exec_depthShadowWrite (n : BitVec 16) (s : State) :
    exec (.depthShadowWrite n) s = s.onHw (fun h => h.depthShadow n.toNat) := rfl

section

variable {s : State} {n : BitVec 16}

/-- STREAM_WINDOW_WRITE: one record. -/
theorem Completes.streamWindowWrite (hlive : s.hw.regsLive = true) {i : Nat} (hi : i < 64) {data : List Byte} (hlen : data.length = 64)
    {P : Hw → Prop} (hP : P (s.hw.windowSlot n.toNat i data)) :
    Completes (.streamWindowWrite n (BitVec.ofNat 14 (64 * i)) data false) s P := by
  refine .of_onHw _ (exec_streamWindowWrite n _ data false s) ?_
  have hoff : (BitVec.ofNat 14 (64 * i)).toNat = 64 * i := by
    rw [BitVec.toNat_ofNat]
    omega
  rw [if_neg Bool.false_ne_true, hoff, Hw.windowWrite_slot hlive hi hlen]
  exact hP

/-- STREAM_WINDOW_WRITE: a poisoned write. -/
theorem Completes.streamWindowWrite_poisoned (hphase : s.hw.boot.phase = .live) (hroom : EventRoom s.hw) (off : BitVec 14) (data : List Byte) :
    Completes (.streamWindowWrite n off data true) s (fun t => Raises s.hw t 0x8022 (n.toNat * 0x4000 + off.toNat) 2 ∧
      RegsKeptEv [.HIF_POISON_RX] s.hw t ∧ t.mem = s.hw.mem ∧ t.streams = s.hw.streams) := by
  refine .of_onHw _ (exec_streamWindowWrite n off data true s) ?_
  rw [if_pos rfl, if_pos (by rw [hphase]; rfl)]
  obtain ⟨t, heq, hregs, hhost, hmem⟩ := s.hw.poisonRx_eq (n.toNat * 0x4000 + off.toNat) 2
  refine ⟨?_, ?_, ?_, ?_⟩
  · rw [heq]
    exact .of_raise hroom (by rw [hhost]) _ _ _ _
  · rw [heq]
    exact RegsKeptEv.bump_raise F.HIF_POISON_RX_COUNT hregs _ _ _ _
  · rw [heq, Hw.raise_mem, hmem]
  · exact (Hw.raise_streams _ _ _ _ _).trans (s.hw.bump_streams _ _ _)

end

/-- Settles O13: a window write of one record is a `windowSlot`; the tie-off of a bolt just accepted retires nothing. -/
theorem streamWindows : Obligations.StreamWindows := by
  unfold Obligations.StreamWindows
  intro s n
  refine ⟨fun i data k hlive hi hlen => ⟨fun hfree hl hu => ?_, fun hfull => ?_⟩,
    fun off data hphase hroom => .streamWindowWrite_poisoned hphase hroom off data,
    fun r hlive => ⟨fun hpass => ?_, fun code hfail hroom => ?_⟩, fun hdue hen hshadow hbus => ?_⟩
  · have htakes : ∀ j < data.length, s.hw.Takes (s.hw.ringAddr n.toNat (s.hw.tail n.toNat + i) + j) (k + j) := fun j hj =>
      Hw.takes_of_leadsTo hl hu (hlen ▸ hj)
    refine .streamWindowWrite hlive hi hlen ?_
    have hstored := Stored.of_writeRun htakes
    have hkept := fun hsyn => RegsKept.of_writeRun hsyn htakes
    rw [Hw.windowSlot_free hfree]
    generalize s.hw.writeRun _ data = v at hstored hkept
    refine ⟨hstored, ?_, ?_, fun hsyn => (hkept hsyn).trans (.of_regs (Hw.setStream_regs _ _ _))⟩
    · rw [Hw.getStream_setStream_self]
    · rw [Hw.getStream_setStream_self]
  · refine .streamWindowWrite hlive hi hlen ?_
    rw [Hw.windowSlot_full hfull]
    refine ⟨?_, ?_, rfl⟩
    · rw [Hw.getStream_setStream_self]
    · rw [Hw.getStream_setStream_self]
  · refine .of_onHw _ (exec_tieOffRecord n r s) ?_
    rw [if_pos hlive]
    exact Hw.tieOff_passes hpass
  · refine .of_onHw _ (exec_tieOffRecord n r s) ?_
    rw [if_pos hlive]
    exact Hw.tieOff_fails hfail hroom
  · exact .of_onHw _ (exec_depthShadowWrite n s) (Hw.depthShadow_writes hdue hen hshadow hbus)

end Sys2Proof.Machine
end

section
/-!
PROOFS. What a head leaves alone as it issues, besides its stream and its queue: the routine store, and all but a few registers (R242, R257,
R261).
-/
namespace Sys2Proof.Machine

/-! ### What taking in leaves of the physical tiles, the channels, the trace and memory -/

/-- Every byte is as a reader got it, or its word has become dross. -/
def Mem.Intact (m v : Mem) : Prop := ∀ j, Sparse.get 0 v.syn (j / 8) = 0xFF ∨
  (v.goodByte j = m.goodByte j ∧ (Sparse.get 0 m.syn (j / 8) = 0xFF → Sparse.get 0 v.syn (j / 8) = 0xFF))

namespace Mem.Intact

variable {m v u : Mem}

theorem refl (m : Mem) : Mem.Intact m m := fun _ => .inr ⟨rfl, id⟩

theorem trans (h : Mem.Intact m v) (h' : Mem.Intact v u) : Mem.Intact m u := fun j => by
  rcases h' j with hd | ⟨hgood, hdross⟩
  · exact .inl hd
  · rcases h j with hd | ⟨hgood', hdross'⟩
    · exact .inl (hdross hd)
    · exact .inr ⟨hgood.trans hgood', hdross ∘ hdross'⟩

theorem of_markDross (m : Mem) (k : Nat) : Mem.Intact m (m.markDross k) := fun j => by
  by_cases h : j / 128 = k / 128
  · exact .inl (Mem.syn_markDross_self (by omega))
  · refine .inr ⟨Mem.goodByte_markDross_apart h, fun hd => ?_⟩
    rw [Mem.syn_markDross_apart (by omega), hd]

end Mem.Intact

theorem Hw.raise_trace {s : Hw} (h : s.flag F.DBG_TRACE_CTL_SRC_EVENT = false) (code a0 a1 : Nat) (w : Who) :
    (s.raise code a0 a1 w).test.trace = s.test.trace := by
  have hflag := Hw.flag_raise s code a0 a1 w F.DBG_TRACE_CTL_SRC_EVENT 0
  have htest : ((s.queueEvent (s.eventRec code a0 a1 w)).logEvent (s.eventRec code a0 a1 w)).test = s.test :=
    (Hw.logEvent_test _ _).trans (Hw.queueEvent_test _ _)
  unfold Hw.raise at hflag ⊢
  generalize (s.queueEvent (s.eventRec code a0 a1 w)).logEvent (s.eventRec code a0 a1 w) = v at hflag htest
  rcases v.traceEvent_cases (s.eventRec code a0 a1 w) with hv | ⟨l, hv⟩
  · rw [hv, htest]
  · have hoff : v.flag F.DBG_TRACE_CTL_SRC_EVENT = false := by
      rw [← h, ← hflag, hv]
      exact (Hw.flag_of_rd (Hw.rd_trace v l _ 0 (by decide))).symm
    unfold Hw.traceEvent
    rw [hoff, if_neg Bool.false_ne_true, htest]

/-- What taking in words from memory leaves alone: besides what accesses of memory leave, the routine store, the channels' way out of the
map, the trace where it takes no events, and each byte of memory that does not become dross. -/
structure Intake (s t : Hw) : Prop where
  work : MemWork s t
  rid : ∀ p, (t.getPhys p).rid = (s.getPhys p).rid
  returning : ∀ c, (t.getChan c).returning = (s.getChan c).returning
  trace : s.flag F.DBG_TRACE_CTL_SRC_EVENT = false → t.test.trace = s.test.trace
  intact : Mem.Intact s.mem t.mem

namespace Intake

variable {s t v : Hw}

theorem refl (s : Hw) : Intake s s := ⟨.refl s, fun _ => rfl, fun _ => rfl, fun _ => rfl, .refl _⟩

theorem trans (h : Intake s t) (h' : Intake t v) : Intake s v where
  work := h.work.trans h'.work
  rid := fun p => (h'.rid p).trans (h.rid p)
  returning := fun c => (h'.returning c).trans (h.returning c)
  trace := fun hf => (h'.trace (by rw [h.work.flag F.DBG_TRACE_CTL_SRC_EVENT]; exact hf)).trans (h.trace hf)
  intact := h.intact.trans h'.intact

theorem foldl {α : Type} (f : Hw → α → Hw) (hf : ∀ s a, Intake s (f s a)) (l : List α) : ∀ s : Hw, Intake s (l.foldl f s) := by
  induction l with
  | nil => exact refl
  | cons a l ih => exact fun s => (hf s a).trans (ih _)

theorem foldl_fst {α β : Type} (f : Hw × β → α → Hw × β) (hf : ∀ r a, Intake r.1 (f r a).1) (l : List α) :
    ∀ r : Hw × β, Intake r.1 (l.foldl f r).1 := by
  induction l with
  | nil => exact fun r => refl r.1
  | cons a l ih => exact fun r => (hf r a).trans (ih _)

/-- What shares memory, the physical tiles, the channels and the trace. -/
theorem of_work (h : MemWork s t) (hp : t.phys = s.phys) (hc : t.chans = s.chans) (ht : t.test = s.test) (hm : t.mem = s.mem) : Intake s t :=
  ⟨h, fun p => by unfold Hw.getPhys; rw [hp], fun c => by unfold Hw.getChan; rw [hc], fun _ => by rw [ht], by rw [hm]; exact .refl _⟩

theorem of_bump (s : Hw) (f : Fld) (u n : Nat) (hf : f.reg ∈ memRegs := by decide) : Intake s (s.bump f u n) :=
  of_work (.of_bump s f u n hf) (Hw.bump_phys _ _ _ _) (Hw.bump_chans _ _ _ _) (Hw.bump_test _ _ _ _) (Hw.bump_mem _ _ _ _)

theorem bump (h : Intake s t) (f : Fld) (u n : Nat) (hf : f.reg ∈ memRegs := by decide) : Intake s (t.bump f u n) :=
  h.trans (of_bump t f u n hf)

/-- A raise traces nothing where the trace takes no events. -/
theorem of_raise (s : Hw) (code a0 a1 : Nat) (w : Who) : Intake s (s.raise code a0 a1 w) where
  work := .of_raise s code a0 a1 w
  rid := fun p => by unfold Hw.getPhys; rw [Hw.raise_phys]
  returning := fun c => by unfold Hw.getChan; rw [Hw.raise_chans]
  trace := fun hf => Hw.raise_trace hf code a0 a1 w
  intact := by rw [Hw.raise_mem]; exact .refl _

theorem raise (h : Intake s t) (code a0 a1 : Nat) (w : Who) : Intake s (t.raise code a0 a1 w) := h.trans (of_raise t code a0 a1 w)

theorem of_raiseOnce (s : Hw) (code key a0 a1 : Nat) (w : Who) : Intake s (s.raiseOnce code key a0 a1 w) := by
  unfold Hw.raiseOnce
  split
  · exact refl s
  · have h : Intake s { s with host := { s.host with once := (code, key) :: s.host.once } } := of_work (.of_rest rfl rfl rfl) rfl rfl rfl rfl
    exact h.raise code a0 a1 w

theorem of_modChan (s : Hw) (c : Nat) {f : Chan → Chan} (hf : ∀ x, (f x).returning = x.returning) : Intake s (s.modChan c f) where
  work := .of_modChan s c f
  rid := fun _ => rfl
  returning := fun d => by
    unfold Hw.modChan Hw.setChan Hw.getChan
    rw [Sparse.get_put]
    split
    next h => rw [hf, h]
    next => rfl
  trace := fun _ => rfl
  intact := .refl _

theorem of_reportWord (s : Hw) (w : Nat) : Intake s (s.reportWord w) where
  work := .of_reportWord s w
  rid := fun p => by
    unfold Hw.reportWord Hw.modPhys Hw.setPhys Hw.getPhys
    rw [Sparse.get_put]
    split
    next h => rw [h]
    next => rfl
  returning := fun _ => rfl
  trace := fun _ => rfl
  intact := .refl _

theorem of_mem (s : Hw) {m : Mem} (h : Mem.Intact s.mem m) : Intake s { s with mem := m } :=
  ⟨.of_mem s m, fun _ => rfl, fun _ => rfl, fun _ => rfl, h⟩

theorem of_marked (s : Hw) (k : Nat) : Intake s { s with mem := s.mem.markDross k } := of_mem s (.of_markDross s.mem k)

theorem of_mu (s : Hw) (props : Sparse (Nat × Nat × Nat × Bool)) (forwarded served : List Nat) :
    Intake s { s with mu := { s.mu with props := props, forwarded := forwarded, served := served } } :=
  of_work (.of_rest rfl rfl rfl) rfl rfl rfl rfl

theorem of_noteErrs (s : Hw) (c n : Nat) : Intake s (s.noteErrs c n) := by
  unfold Hw.noteErrs
  split
  · exact refl s
  · exact of_modChan s c fun _ => rfl

theorem of_countSingle (s : Hw) (c : Nat) (e : Syndrome) : Intake s (s.countSingle c e) :=
  ((of_bump s F.MEM_CH_CE_COUNT _ _).bump F.MEM_CH_DEV_CE_COUNT _ _).trans (of_noteErrs _ _ _)

theorem of_propose (s : Hw) (c page cause : Nat) : Intake s (s.propose c page cause) := by
  unfold Hw.propose
  split
  · exact refl s
  · split
    · exact of_bump s F.MEM_PROP_DROP_COUNT 0 1
    · exact (of_mu s _ s.mu.forwarded s.mu.served).raise _ _ _ _

theorem of_queueScrub (s : Hw) (c a : Nat) : Intake s (s.queueScrub c a) := of_modChan s c fun x => by
  split
  · rfl
  · rfl

theorem of_accountWords (s : Hw) (a : Nat) (es : List (Nat × Syndrome)) (event : Nat) : Intake s (s.accountWords a es event) := by
  have hones : ∀ c (l : List (Nat × Syndrome)), Intake s (l.foldl (fun s e => s.countSingle c e.2) s) := fun c l =>
    foldl (fun s (e : Nat × Syndrome) => s.countSingle c e.2) (fun s e => of_countSingle s c e.2) l s
  unfold Hw.accountWords
  simp only
  split
  · split
    · exact hones _ _
    · exact (hones _ _).trans (of_queueScrub _ _ _)
  · exact (((((hones _ _).trans (of_marked _ _)).bump F.FLT_DROSS_MADE_COUNT 0 1).bump F.MEM_CH_UE_COUNT _ _).raise _ _ _ _).trans
      (of_propose _ _ _ _)

theorem of_takeForwarded (s : Hw) (w : Nat) (counts : Bool) : Intake s (s.takeForwarded w counts) := by
  unfold Hw.takeForwarded
  split
  · have h := of_mu s s.mu.props (s.mu.forwarded.filter (fun x => x != w)) s.mu.served
    simp only
    split
    · exact h.bump F.FLT_UE_COUNT 0 1
    · exact h
  · exact refl s

theorem of_takeAtom (s : Hw) (k : Nat) (ws : List Nat) : Intake s (s.takeAtom k ws) := by
  unfold Hw.takeAtom
  simp only
  split
  · have h : Intake s ((ws.filter s.mem.singleBit).foldl Hw.reportWord s) := foldl Hw.reportWord of_reportWord _ s
    split
    · exact h
    · exact ((h.trans (of_marked _ _)).bump F.FLT_UE_COUNT 0 _).bump F.FLT_DROSS_MADE_COUNT 0 1
  · refine trans (bump ?_ F.FLT_UE_COUNT 0 _) (foldl _ (fun s w => of_takeForwarded s w true) _ _)
    split
    · exact of_mu s s.mu.props s.mu.forwarded _
    · exact of_accountWords s _ _ _

theorem of_offAccess (s : Hw) (c page : Nat) : Intake s (s.offAccess c page) :=
  (of_bump s F.MEM_OFF_ACCESS_COUNT 0 1).trans (of_raiseOnce _ _ _ _ _ _)

theorem of_takeIn (s : Hw) (a n : Nat) : Intake s (s.takeIn a n).1 :=
  (foldl _ (fun s k => of_takeAtom s k _) _ s).trans (foldl _ (fun s _ => of_offAccess s _ _) _ _)

theorem of_readTable (s : Hw) (ids : List Nat) : Intake s (s.readTable ids) := by
  unfold Hw.readTable
  split
  · exact of_raiseOnce s _ _ _ _ _
  · exact refl s

theorem of_takeNamed (s : Hw) (k : Nat) (h : Head) : Intake s (s.takeNamed k h).1 := by
  refine (of_readTable s _).trans (foldl_fst _ (fun r e => ?_) _ (_, none))
  split
  · exact refl _
  · exact of_takeIn _ _ _

end Intake

end Sys2Proof.Machine
end

section
/-!
PROOFS. The head's breakpoints and its leaving (R261): the registers they touch; the routine store and the beat as a command issues.
-/
namespace Sys2Proof.Machine

/-- From s to t no register but those listed has changed, no physical tile and no layer. -/
structure Stays (L : List Reg) (s t : Hw) : Prop where
  regs : RegsKept L s t
  phys : t.phys = s.phys
  flt : t.flt = s.flt
  layers : t.layers = s.layers

/-- The registers that a breakpoint touches, and those that a command touches as it leaves the head. -/
def breakRegs : List Reg := eventRegs ++ [.DBG_TRACE_CTL, .DBG_BP_CTL, .STRM_STATE]
def leaveRegs : List Reg := [.DBG_TRACE_LOST, .DBG_PC_VAL_LO, .DBG_PC_VAL_HI, .TST_PERT_HITS]

/-- The registers that a head touches as it issues. -/
def takenRegs : List Reg := memRegs ++ breakRegs ++ leaveRegs

namespace Stays

variable {L M : List Reg} {s t v : Hw}

theorem refl (s : Hw) : Stays L s s := ⟨.refl L s, rfl, rfl, rfl⟩

theorem trans (h : Stays L s t) (h' : Stays L t v) : Stays L s v :=
  ⟨h.regs.trans h'.regs, h'.phys.trans h.phys, h'.flt.trans h.flt, h'.layers.trans h.layers⟩

theorem mono (h : Stays L s t) (hm : ∀ r ∈ L, r ∈ M) : Stays M s t := ⟨h.regs.mono hm, h.phys, h.flt, h.layers⟩

theorem foldl {α : Type} (f : Hw → α → Hw) (hf : ∀ s a, Stays L s (f s a)) (l : List α) : ∀ s : Hw, Stays L s (l.foldl f s) := by
  induction l with
  | nil => exact refl
  | cons a l ih => exact fun s => (hf s a).trans (ih _)

theorem of_eq (hr : t.regs = s.regs) (hp : t.phys = s.phys) (hf : t.flt = s.flt) (hl : t.layers = s.layers) : Stays L s t :=
  ⟨.of_regs hr, hp, hf, hl⟩

theorem wr (h : Stays L s t) (q : Reg) (u : Nat) (x : Reg32) (hq : q ∈ L) : Stays L s (t.wr q u x) :=
  ⟨h.regs.wr q x u hq, h.phys, h.flt, h.layers⟩

theorem fset (h : Stays L s t) (f : Fld) (x u : Nat) (hf : f.reg ∈ L) : Stays L s (t.fset f x u) := 
  ⟨h.regs.fset f x u hf, h.phys, h.flt, h.layers⟩

theorem bump (h : Stays L s t) (f : Fld) (u n : Nat) (hf : f.reg ∈ L) : Stays L s (t.bump f u n) :=
  ⟨h.regs.bump f u n hf, (Hw.bump_phys _ _ _ _).trans h.phys, (Hw.bump_flt _ _ _ _).trans h.flt, (Hw.bump_layers _ _ _ _).trans h.layers⟩

theorem raise (h : Stays L s t) (code a0 a1 : Nat) (w : Who) (hl : ∀ r ∈ eventRegs, r ∈ L) : Stays L s (t.raise code a0 a1 w) :=
  ⟨h.regs.raise code a0 a1 w hl, (Hw.raise_phys _ _ _ _ _).trans h.phys, (Hw.raise_flt _ _ _ _ _).trans h.flt,
    (Hw.raise_layers _ _ _ _ _).trans h.layers⟩

theorem setStream (h : Stays L s t) (n : Nat) (x : StreamSt) : Stays L s (t.setStream n x) := h.trans (of_eq rfl rfl rfl rfl)

theorem of_bpHit (s : Hw) (i : Nat) (h : Head) : Stays breakRegs s (s.bpHit i h) := by
  unfold Hw.bpHit
  extract_lets s0 s1 s2
  have h0 : Stays breakRegs s s0 := by
    change Stays breakRegs s (if _ then _ else _)
    split
    · exact (refl s).fset F.DBG_TRACE_CTL_RUNNING 1 0 (by decide)
    · exact refl s
  have h1 : Stays breakRegs s s1 := (h0.fset F.DBG_BP_CTL_HIT 1 i (by decide)).raise _ _ _ _ (by decide)
  have h2 : Stays breakRegs s s2 := by
    change Stays breakRegs s (if _ then _ else _)
    split
    · exact h1.fset F.DBG_TRACE_CTL_RUNNING 0 0 (by decide)
    · exact h1
  split
  · exact (h2.fset F.STRM_STATE_HALTED 1 h.n (by decide)).setStream _ _
  · exact h2.setStream _ _

theorem of_breakpoints (s : Hw) (h : Head) : Stays breakRegs s (s.breakpoints h).1 :=
  (foldl _ (fun v i => of_bpHit v i h) _ s).setStream _ _

theorem of_trace (s : Hw) (r : List Byte) (hl : .DBG_TRACE_LOST ∈ L) : Stays L s (s.trace r) := by
  rcases s.trace_cases r with h | ⟨l, h⟩ | h <;> rw [h]
  · exact refl s
  · exact of_eq rfl rfl rfl rfl
  · exact (refl s).bump F.DBG_TRACE_LOST_COUNT 0 1 hl

theorem of_traceCmd (s : Hw) (kind t q n tag tail : Nat) (hl : .DBG_TRACE_LOST ∈ L) : Stays L s (s.traceCmd kind t q n tag tail) := by
  unfold Hw.traceCmd
  split
  · exact of_trace s _ hl
  · exact refl s

theorem of_pcEvent (s : Hw) (ev t n k : Nat) : Stays leaveRegs s (s.pcEvent ev t n k) := by
  unfold Hw.pcEvent
  split
  · refine foldl _ (fun v i => ?_) _ s
    simp only
    split
    · exact ((refl v).wr .DBG_PC_VAL_LO i _ (by decide)).wr .DBG_PC_VAL_HI i _ (by decide)
    · exact refl v
  · exact refl s

theorem of_opportunity (s : Hw) (kind idx t n : Nat) : Stays leaveRegs s (s.opportunity kind idx t n) := by
  unfold Hw.opportunity
  split
  · exact refl s
  · refine foldl _ (fun v k => ?_) _ s
    simp only
    have hopp : ∀ x : Test, Stays leaveRegs v { v with test := x } := fun x => of_eq rfl rfl rfl rfl
    split
    · split
      · exact ((hopp _).bump F.TST_PERT_HITS_COUNT _ _ (by decide)).trans (of_pcEvent _ _ _ _ _)
      · exact hopp _
    · exact refl v

theorem of_leaveHead (s : Hw) (k q : Nat) (h : Head) : Stays leaveRegs s (s.leaveHead k q h) := by
  unfold Hw.leaveHead
  refine Stays.trans ?_ (of_opportunity _ _ _ _ _)
  refine Stays.trans ?_ (of_pcEvent _ _ _ _ _)
  refine Stays.trans ?_ (of_traceCmd _ _ _ _ _ _ _ (by decide))
  exact of_eq rfl rfl rfl rfl

end Stays

/-! ### As a command issues -/

section

variable (s : Hw) (k q : Nat) (h : Head)

/-- The registers that a head touches as it issues. -/
theorem RegsKept.taken : RegsKept takenRegs s (s.taken k q h) :=
  ((Stays.of_breakpoints s h).regs.mono fun r hr => by simp [takenRegs, hr]).trans
    (((MemWork.of_takeNamed _ k h).regs.mono fun r hr => by simp [takenRegs, hr]).trans
      ((Stays.of_leaveHead _ k q h).regs.mono fun r hr => by simp [takenRegs, hr]))

theorem Hw.taken_beatNo : (s.taken k q h).beatNo = s.beatNo := by
  unfold Hw.beatNo Hw.rd64
  rw [RegsKept.taken s k q h .BEAT_COUNT_LO 0 (by decide), RegsKept.taken s k q h .BEAT_COUNT_HI 0 (by decide)]

/-- R267: the layers stand as they are. -/
theorem Hw.taken_layers : (s.taken k q h).layers = s.layers :=
  (Stays.of_leaveHead (s.issuing k h) k q h).layers.trans
    ((congrArg Hw.layers (Intake.of_takeNamed (s.breakpoints h).1 k h).work.rest).trans (Stays.of_breakpoints s h).layers)

/-- R257: the routine store holds what it held. -/
theorem Hw.taken_rid (j : Nat) : ((s.taken k q h).getPhys ((s.taken k q h).physOf j)).rid = (s.getPhys (s.physOf j)).rid := by
  have hbreak := Stays.of_breakpoints s h
  have hnamed := Intake.of_takeNamed (s.breakpoints h).1 k h
  have hleave := Stays.of_leaveHead (s.issuing k h) k q h
  have hflt : (s.taken k q h).flt = s.flt := hleave.flt.trans ((congrArg Hw.flt hnamed.work.rest).trans hbreak.flt)
  have hrid : ∀ p, ((s.taken k q h).getPhys p).rid = (s.getPhys p).rid := fun p => by
    have h1 : (s.taken k q h).getPhys p = (s.issuing k h).getPhys p := congrArg (Sparse.get Phys.reset · p) hleave.phys
    have h2 : (s.breakpoints h).1.getPhys p = s.getPhys p := congrArg (Sparse.get Phys.reset · p) hbreak.phys
    rw [h1, ← h2]
    exact hnamed.rid p
  unfold Hw.physOf
  rw [hflt, hrid]

/-- The stream's context as its command has left the head. -/
theorem Hw.leaveHead_ctxOn : (s.leaveHead k q h).ctxOn k h.n = (s.ctxOn k h.n).left h.w := by
  rw [(Beside.of_leaveHead s k q h).ctxOn, Hw.ctxOn_modQueue, Hw.ctxOn_setCtxOn_self]

end

theorem Ready.taken_ctxOn {s : Hw} {k q op : Nat} {h : Head} (hr : Ready s k q op h) : (s.taken k q h).ctxOn k h.n = h.ctx.left h.w := by
  obtain ⟨htiles, -⟩ := s.issuing_kept k h
  have hctx : (s.issuing k h).ctxOn k h.n = h.ctx := by
    rw [(Hw.head_spec hr.1).1]
    unfold Hw.ctxOn Hw.getTile
    rw [htiles]
  unfold Hw.taken
  rw [Hw.leaveHead_ctxOn, hctx]

end Sys2Proof.Machine
end

section
/-!
PROOFS. Commands that complete in the cycle they issue (R242, R244): what their completion leaves of their stream, and the control commands
that go on to the next command (R247 to R251).
-/
namespace Sys2Proof.Machine

/-! ### What completion leaves of a stream's context -/

/-- A stream's context but for the commands in flight. -/
def StreamCtx.atRest (c : StreamCtx) : StreamCtx := { c with flight := [] }

/-- Besides what `Closing` says, nothing of the stream's context has changed but its commands in flight. -/
structure RestKept (k n : Nat) (s t : Hw) : Prop extends Closing k n s t where
  rest : (t.ctxOn k n).atRest = (s.ctxOn k n).atRest

namespace RestKept

variable {k n : Nat} {s t v : Hw}

theorem trans (h : RestKept k n s t) (h' : RestKept k n t v) : RestKept k n s v := ⟨h.toClosing.trans h'.toClosing, h'.rest.trans h.rest⟩

theorem of_beside (hs : HomeOn s k n) (h : Beside s t) : RestKept k n s t := ⟨.of_beside hs h, by rw [h.ctxOn]⟩

theorem beside (h : RestKept k n s t) (hb : Beside t v) : RestKept k n s v := h.trans (of_beside h.home hb)

theorem of_closing (h : Closing k n s t) (hc : t.ctxOn k n = s.ctxOn k n) : RestKept k n s t := ⟨h, by rw [hc]⟩

theorem of_flight (hs : HomeOn s k n) (l : List InFlight)
    (h : ∀ g ∈ l, ∃ e ∈ (s.ctxOn k n).flight, e.num = g.num ∧ (e.stage = .completed → g.stage = .completed)) :
    RestKept k n s (s.setCtxOn k n { s.ctxOn k n with flight := l }) := ⟨.of_flight hs l h, by rw [Hw.ctxOn_setCtxOn_self]; rfl⟩

theorem of_modFlight (hs : HomeOn s k n) (num : Nat) : RestKept k n s (s.modFlight n num (fun e => { e with stage := .completed })) :=
  ⟨.of_modFlight hs num, by rw [hs.modFlight_eq, Hw.ctxOn_setCtxOn_self]; rfl⟩

theorem of_retire (hs : HomeOn s k n) : RestKept k n s (s.retire n) := by
  unfold Hw.retire
  simp only [hs.ctxOf_eq, hs.setCtxOf_eq]
  have hdrop : ∀ i, RestKept k n s (s.setCtxOn k n { s.ctxOn k n with flight := (s.ctxOn k n).flight.drop i }) := fun i =>
    of_flight hs _ fun g hg => ⟨g, List.mem_of_mem_drop hg, rfl, id⟩
  split
  · exact hdrop _
  · exact (hdrop _).beside (.of_retireSlots _ _ _)

/-- A change of the tile's set that leaves its contexts alone. -/
theorem ctxOn_setTile {x : Tile} (hc : x.fs.ctxs = (s.getTile k).fs.ctxs) : (s.setTile k x).ctxOn k n = s.ctxOn k n := by
  unfold Hw.ctxOn FrameState.ctx
  rw [Hw.getTile_setTile_self, hc]

theorem of_changeLatch (hs : HomeOn s k n) (latch : Nat) (clear : Bool) : RestKept k n s (s.changeLatch n latch clear) := by
  refine of_closing (.of_changeLatch hs latch clear) ?_
  unfold Hw.changeLatch
  simp only [hs.1]
  refine ctxOn_setTile ?_
  simp only [apply_ite Tile.fs, apply_ite FrameState.ctxs, ite_self]

theorem of_applySel (hs : HomeOn s k n) (remotes : List (Nat × Nat × Nat)) (x : Nat) : RestKept k n s (s.applySel n remotes x) := by
  unfold Hw.applySel
  split
  · exact of_changeLatch hs _ _
  · exact of_beside hs (.of_sendGlatch _ _ _)
  · split
    · exact of_beside hs (.of_sendRemote _ _ _ _ _ _ _)
    · exact of_beside hs (.refl s)
  · exact of_beside hs (.refl s)

theorem foldl {α : Type} (f : Hw → α → Hw) (hf : ∀ s a, HomeOn s k n → RestKept k n s (f s a)) (l : List α) :
    ∀ s : Hw, HomeOn s k n → RestKept k n s (l.foldl f s) := by
  induction l with
  | nil => exact fun s hs => of_beside hs (.refl s)
  | cons a l ih => exact fun s hs => (hf s a hs).trans (ih _ (hf s a hs).home)

theorem of_applySets (hs : HomeOn s k n) (remotes : List (Nat × Nat × Nat)) (w : Record64) : RestKept k n s (s.applySets n remotes w) :=
  foldl _ (fun _ x hs => of_applySel hs remotes x) _ s hs

theorem of_faultStream (hs : HomeOn s k n) (cause : Nat) : RestKept k n s (s.faultStream n cause) := by
  refine ⟨.of_faultStream hs cause, ?_⟩
  unfold Hw.faultStream
  split
  · rfl
  · simp only [hs.ctxOf_eq, hs.setCtxOf_eq]
    have hdrop := Hw.ctxOn_setCtxOn_self s k n { s.ctxOn k n with flight := (s.ctxOn k n).flight.filter (fun f => f.stage == .completed) }
    have hhome := hs.setCtxOn n { s.ctxOn k n with flight := (s.ctxOn k n).flight.filter (fun f => f.stage == .completed) }
    generalize s.setCtxOn k n { s.ctxOn k n with flight := (s.ctxOn k n).flight.filter (fun f => f.stage == .completed) } = t at hdrop hhome ⊢
    simp only [hhome.1]
    rw [Hw.shadowTouch, Hw.ctxOn_congr (Hw.setStream_tiles _ _ _), Hw.ctxOn_congr (Hw.fset_tiles _ _ _ _), Hw.ctxOn_congr (Hw.fset_tiles _ _ _ _),
      ctxOn_setTile (by rfl), hdrop]
    rfl

end RestKept

/-- The steps of a completion without an error: the command's entry is marked, its selectors are applied, and what leads retires. -/
def Hw.completeMarked (s : Hw) (n : Nat) (f : InFlight) : Hw :=
  ((s.accStatus n f.num (Com.tag f.cmd) 0).traceCmd 4 f.tile f.queue n (Com.tag f.cmd) 0).modFlight n f.num
    (fun e => { e with stage := .completed })

theorem Hw.complete_zero (s : Hw) (n : Nat) (f : InFlight) :
    s.complete n f 0 = ((s.completeMarked n f).applySets n f.remotes f.cmd).retire n := rfl

theorem RestKept.of_completeMarked {k n : Nat} {s : Hw} (hs : HomeOn s k n) (f : InFlight) : RestKept k n s (s.completeMarked n f) := by
  have hacc : Beside s ((s.accStatus n f.num (Com.tag f.cmd) 0).traceCmd 4 f.tile f.queue n (Com.tag f.cmd) 0) :=
    ((Hw.withCode_ok s n (rfl : statusCode 0 = 0)) ▸ Beside.of_accStatus s n f.num (Com.tag f.cmd) 0).trans (.of_traceCmd _ _ _ _ _ _ _)
  exact (of_beside hs hacc).trans (of_modFlight (hs.beside hacc) f.num)

theorem RestKept.of_complete {k n : Nat} {s : Hw} (hs : HomeOn s k n) (f : InFlight) : RestKept k n s (s.complete n f 0) := by
  have hmark := of_completeMarked hs f
  have hsets := of_applySets hmark.home f.remotes f.cmd
  rw [Hw.complete_zero]
  exact (hmark.trans hsets).trans (of_retire hsets.home)

/-! ### Completion in the cycle of issue -/

/-- A control command has made its effect: its stream, at home on tile k and not faulted, has the context c, its queue is v and memory m. -/
structure Effected (k q n : Nat) (c : StreamCtx) (v : QueueState) (m : Mem) (t : Hw) : Prop where
  home : HomeOn t k n
  running : t.flag F.STRM_STATE_FAULTED n = false
  ctx : t.ctxOn k n = c
  queue : t.getQueue k q = v
  mem : t.mem = m

/-- The head h has issued and completed: its stream has the context c but for the commands in flight, of which none of its number is
outstanding; its queue is v and memory m. -/
structure Ended (k q : Nat) (h : Head) (c : StreamCtx) (v : QueueState) (m : Mem) (t : Hw) : Prop where
  rest : (t.ctxOn k h.n).atRest = c.atRest
  queue : t.getQueue k q = v
  mem : t.mem = m
  done : NumDone t k h.n h.ctx.issued.toNat

section

variable {s t : Hw} {k q op : Nat} {h : Head} {c d : StreamCtx} {v : QueueState} {m : Mem}

/-- The entry of a command that is in flight until it completes. -/
theorem Hw.completeNow_running {x : Cmd} (hk : x.t = k) (hn : x.n = h.n) (hrun : t.flag F.STRM_STATE_FAULTED h.n = false) :
    ∃ l, t.completeNow x 0 = (t.setCtxOn k h.n { t.ctxOn k h.n with flight := l }).complete h.n (x.entry t.beatNo .running .none) 0 := by
  subst hk
  unfold Hw.completeNow Hw.fly
  rw [hn]
  simp only [hrun, Hw.flag_setCtxOn, Bool.false_eq_true, if_false]
  exact ⟨_, rfl⟩

theorem Hw.completeNow_faulted {x : Cmd} (st : Nat) (hf : t.flag F.STRM_STATE_FAULTED x.n = true) : t.completeNow x st = t := by
  unfold Hw.completeNow Hw.fly
  simp only [hf, if_true]

/-- R242: a control command that has made its effect completes. -/
theorem Effected.completeNow (he : Effected k q h.n c v m t) {x : Cmd} (hk : x.t = k) (hn : x.n = h.n) (hnum : x.num = h.ctx.issued.toNat) :
    Ended k q h c v m (t.completeNow x 0) := by
  obtain ⟨l, heq⟩ := Hw.completeNow_running hk hn he.running
  have hhome := he.home.setCtxOn h.n { t.ctxOn k h.n with flight := l }
  have hkept := RestKept.of_complete hhome (x.entry t.beatNo .running .none)
  have hdone := (Closing.of_complete_ok hhome (x.entry t.beatNo .running .none) (rfl : statusCode 0 = 0)).2
  rw [heq]
  refine ⟨?_, (hkept.queue q).trans ?_, hkept.mem.trans he.mem, hnum ▸ hdone⟩
  · rw [hkept.rest, Hw.ctxOn_setCtxOn_self, ← he.ctx]
    rfl
  · rw [Hw.getQueue_setCtxOn, he.queue]

/-- The context replaced. -/
theorem Effected.setCtxOn (he : Effected k q h.n c v m t) (d : StreamCtx) : Effected k q h.n d v m (t.setCtxOn k h.n d) :=
  ⟨he.home.setCtxOn _ _, he.running, Hw.ctxOn_setCtxOn_self _ _ _ _, (Hw.getQueue_setCtxOn _ _ _ _ _).trans he.queue, he.mem⟩

/-- The queue changed. -/
theorem Effected.modQueue (he : Effected k q h.n c v m t) (f : QueueState → QueueState) : Effected k q h.n c (f v) m (t.modQueue k q f) :=
  ⟨he.home.modQueue _ _, he.running, (Hw.ctxOn_modQueue _ _ _ _ _).trans he.ctx, by rw [Hw.getQueue_modQueue_self, he.queue], he.mem⟩

/-- A ready head that is taken, before its effect. -/
theorem Ready.effected (hr : Ready s k q op h) (hs : HomeOn s k h.n) :
    Effected k q h.n (h.ctx.left h.w) ((s.taken k q h).getQueue k q) (s.taken k q h).mem (s.taken k q h) :=
  ⟨(hr.headGone hs).home, (hr.headGone hs).running, hr.taken_ctxOn, rfl, rfl⟩

/-- A control command of the model, on a head that is ready. -/
theorem Hw.control_ready (hr : Ready s k q op h) (run : Hw → Cmd → Hw × Nat) : s.control k q op run =
    (run (s.taken k q h) (s.cmdAt k q h)).1.completeNow (s.cmdAt k q h) (run (s.taken k q h) (s.cmdAt k q h)).2 :=
  Hw.issue_ready hr (fun w => Com.opcode w == op) (beq_iff_eq.2 hr.2.1) _

/-! ### What the end of a command shows -/

namespace Ended

theorem of_atRest {α : Type} (he : Ended k q h c v m t) (f : StreamCtx → α) (hf : ∀ c : StreamCtx, f c.atRest = f c) :
    f (t.ctxOn k h.n) = f c := by
  rw [← hf, he.rest, hf]

theorem counter (he : Ended k q h c v m t) (j : Nat) : (t.ctxOn k h.n).counter j = c.counter j :=
  he.of_atRest (fun c => c.counter j) fun _ => rfl
theorem comps (he : Ended k q h c v m t) : (t.ctxOn k h.n).comps = c.comps := he.of_atRest StreamCtx.comps fun _ => rfl
theorem slots (he : Ended k q h c v m t) : (t.ctxOn k h.n).slots = c.slots := he.of_atRest StreamCtx.slots fun _ => rfl
theorem stack (he : Ended k q h c v m t) : (t.ctxOn k h.n).stack = c.stack := he.of_atRest StreamCtx.stack fun _ => rfl
theorem pos (he : Ended k q h c v m t) : (t.ctxOn k h.n).pos = c.pos := he.of_atRest StreamCtx.pos fun _ => rfl
theorem issued (he : Ended k q h c v m t) : (t.ctxOn k h.n).issued = c.issued := he.of_atRest StreamCtx.issued fun _ => rfl

theorem completed (he : Ended k q h c v m t) (hc : c.issued = h.ctx.issued + 1) : Completed t k h := ⟨he.issued.trans hc, he.done⟩

theorem nextInLine (he : Ended k q h c v m t) (hc : c.pos = h.ctx.pos.next) (hv : v.fetched = (s.getQueue k q).fetched.drop 1) :
    NextInLine s t k q h := ⟨he.pos.trans hc, by rw [he.queue, hv]⟩

theorem memAsTaken (he : Ended k q h c v (s.taken k q h).mem t) : MemAsTaken s t k h := by
  unfold MemAsTaken
  rw [he.mem]
  exact s.memAsTaken_taken k q h

end Ended

end

end Sys2Proof.Machine
end

section
/-!
PROOFS. The control commands that go on to the next command (R245 to R251).
-/
namespace Sys2Proof.Machine

theorem bit_eq_testBit (x i : Nat) : bit x i = x.testBit i := by
  unfold bit
  rw [Nat.testBit_eq_decide_div_mod_eq, Nat.shiftRight_eq_div_pow]
  rfl

/-- One bit of a word given a value. -/
theorem bit_ofNat_setBits {n : Nat} (x : BitVec n) {j : Nat} (hj : j < n) (b : Bool) (i : Nat) :
    bit (BitVec.ofNat n (setBits x.toNat j 1 (if b then 1 else 0))).toNat i = if i = j then b else bit x.toNat i := by
  rw [bit_eq_testBit, bit_eq_testBit, BitVec.toNat_ofNat, Nat.testBit_mod_two_pow, testBit_setBits]
  by_cases hi : i = j
  · subst hi
    rw [if_pos rfl, if_pos (by omega), Nat.sub_self]
    cases b <;> simp [hj]
  · rw [if_neg (by omega), if_neg hi]
    by_cases hn : i < n
    · simp [hn]
    · have hlt : x.toNat < 2 ^ i := x.isLt.trans_le (Nat.pow_le_pow_right (by decide) (by omega))
      rw [Nat.testBit_eq_false_of_lt hlt, Bool.and_false]

theorem exec_setc (k : Fin 512) (q : Fin 4) (s : State) : exec (.setc k q) s = s.onHw (fun h => h.control k.val q.val 0x70 (fun h x =>
    (h.setCounter x (Com.mode x.w 4 3) (setcValue h x), 0))) := rfl
theorem exec_addc (k : Fin 512) (q : Fin 4) (s : State) : exec (.addc k q) s = s.onHw (fun h => h.control k.val q.val 0x71 (fun h x =>
    (h.setCounter x (Com.mode x.w 4 3) ((h.ctxOn x.t x.n).counter (Com.mode x.w 4 3) + BitVec.ofNat 32 (Com.param x.w 0)), 0))) := rfl
theorem exec_cmp (k : Fin 512) (q : Fin 4) (s : State) : exec (.cmp k q) s = s.onHw (fun h => h.control k.val q.val 0x72 (fun h x =>
    (h.setCtxOn x.t x.n { h.ctxOn x.t x.n with comps := BitVec.ofNat 4 (setBits (h.ctxOn x.t x.n).comps.toNat (Com.mode x.w 4 2) 1
      (if cmpResult (h.ctxOn x.t x.n) x.w then 1 else 0)) }, 0))) := rfl
theorem exec_wait (k : Fin 512) (q : Fin 4) (s : State) :
    exec (.wait k q) s = s.onHw (fun h => h.control k.val q.val 0x75 (fun h _ => (h, 0))) := rfl
theorem exec_set (k : Fin 512) (q : Fin 4) (s : State) :
    exec (.set k q) s = s.onHw (fun h => h.control k.val q.val 0x76 (fun h _ => (h, 0))) := rfl
theorem exec_yield (k : Fin 512) (q : Fin 4) (s : State) : exec (.yield k q) s = s.onHw (fun h => h.control k.val q.val 0x79 (fun h x =>
    (h.modQueue x.t x.q (fun v => { v with yielded := true, why := 6 }), 0))) := rfl
theorem exec_fence (k : Fin 512) (q : Fin 4) (s : State) : exec (.fence k q) s = s.onHw (fun h =>
    h.issue k.val q.val (fun w => Com.opcode w == 0x7A) (fun h x st =>
      if st ≠ 0 then h.completeNow x st
      else if (h.ctxOn x.t x.n).flight.all (fun f => f.stage == Stage.completed) then h.completeNow x 0
      else h.fly x .running .none)) := rfl

section

variable {s : State} {k : Fin 512} {q : Fin 4} {op : Nat} {h : Head} {i : Instr} {c : StreamCtx} {v : QueueState} {m : Mem}

/-- R242: a control command that is ready completes as its effect left its stream. -/
theorem Completes.control {run : Hw → Cmd → Hw × Nat} (hexec : exec i s = s.onHw (fun v => v.control k.val q.val op run))
    (hr : Ready s.hw k q op h) (hzero : (run (s.hw.taken k q h) (s.hw.cmdAt k q h)).2 = 0)
    (he : Effected k q h.n c v m (run (s.hw.taken k q h) (s.hw.cmdAt k q h)).1) : Completes i s (Ended k q h c v m) := by
  refine .of_onHw _ hexec ?_
  rw [Hw.control_ready hr, hzero]
  exact he.completeNow rfl rfl rfl

/-- A counter written. -/
theorem Effected.setCounter {t : Hw} {x : Cmd} (he : Effected k q h.n c v m t) (hk : x.t = k.val) (hn : x.n = h.n) (j : Nat) (y : Reg32) :
    Effected k q h.n { c with counters := Sparse.put 0 c.counters j y } v m (t.setCounter x j y) := by
  unfold Hw.setCounter
  rw [hk, hn, he.ctx]
  exact he.setCtxOn _

/-- R248: the value of SETC's source. -/
def setcSource (s : Hw) (k : Nat) (h : Head) : Reg32 :=
  match Com.mode h.w 8 3 with
  | 0 => BitVec.ofNat 32 (Com.param h.w 0)
  | 1 => h.ctx.counter (Com.param h.w 0)
  | 2 => (h.ctx.slotOf (Com.param h.w 0)).1
  | 3 => BitVec.ofNat 32 k
  | 4 => BitVec.ofNat 32 s.beatNo
  | _ => h.ctx.issued

theorem setcValue_taken {s : Hw} {k q : Nat} (hr : Ready s k q op h) : setcValue (s.taken k q h) (s.cmdAt k q h) = setcSource s k h := by
  have hctx : (s.taken k q h).ctxOn (s.cmdAt k q h).t (s.cmdAt k q h).n = h.ctx.left h.w := hr.taken_ctxOn
  unfold setcValue setcSource
  rw [hctx, Hw.taken_beatNo, ofNat_mod_two_pow_32]
  change (match Com.mode h.w 8 3 with
    | 0 => BitVec.ofNat 32 (Com.param h.w 0)
    | 1 => (h.ctx.left h.w).counter (Com.param h.w 0)
    | 2 => ((h.ctx.left h.w).slotOf (Com.param h.w 0)).1
    | 3 => BitVec.ofNat 32 k
    | 4 => BitVec.ofNat 32 s.beatNo
    | _ => BitVec.ofNat 32 h.ctx.issued.toNat) = _
  rw [BitVec.ofNat_toNat, BitVec.setWidth_eq]
  rfl

/-- The comparison flags with one of them given a value. -/
def StreamCtx.withFlag (c : StreamCtx) (j : Nat) (b : Bool) : StreamCtx :=
  { c with comps := BitVec.ofNat 4 (setBits c.comps.toNat j 1 (if b then 1 else 0)) }

theorem StreamCtx.bit_withFlag (c : StreamCtx) {j : Nat} (hj : j < 4) (b : Bool) (i : Nat) :
    bit (c.withFlag j b).comps.toNat i = if i = j then b else bit c.comps.toNat i := bit_ofNat_setBits c.comps hj b i

/-- The queue whose slot has ended (R49). -/
def QueueState.idle (v : QueueState) : QueueState := { v with yielded := true, why := 6 }

/-! ### Each command's end -/

variable (hs : HomeOn s.hw k h.n)
include hs

theorem Completes.setc (hr : Ready s.hw k q 0x70 h) : Completes (.setc k q) s (Ended k q h { h.ctx.left h.w with
    counters := Sparse.put 0 (h.ctx.left h.w).counters (Com.mode h.w 4 3) (setcSource s.hw k h) }
    ((s.hw.taken k q h).getQueue k q) (s.hw.taken k q h).mem) := by
  refine .control (exec_setc k q s) hr rfl ?_
  rw [setcValue_taken hr]
  exact (hr.effected hs).setCounter rfl rfl _ _

theorem Completes.addc (hr : Ready s.hw k q 0x71 h) : Completes (.addc k q) s (Ended k q h { h.ctx.left h.w with
    counters := Sparse.put 0 (h.ctx.left h.w).counters (Com.mode h.w 4 3) (h.ctx.counter (Com.mode h.w 4 3) + BitVec.ofNat 32 (Com.param h.w 0)) }
    ((s.hw.taken k q h).getQueue k q) (s.hw.taken k q h).mem) := by
  have hctx : (s.hw.taken k q h).ctxOn (s.hw.cmdAt k q h).t (s.hw.cmdAt k q h).n = h.ctx.left h.w := hr.taken_ctxOn
  refine .control (exec_addc k q s) hr rfl ?_
  rw [hctx]
  exact (hr.effected hs).setCounter rfl rfl _ _

theorem Completes.cmp (hr : Ready s.hw k q 0x72 h) : Completes (.cmp k q) s (Ended k q h
    ((h.ctx.left h.w).withFlag (Com.mode h.w 4 2) (cmpResult h.ctx h.w)) ((s.hw.taken k q h).getQueue k q) (s.hw.taken k q h).mem) := by
  have hctx : (s.hw.taken k q h).ctxOn (s.hw.cmdAt k q h).t (s.hw.cmdAt k q h).n = h.ctx.left h.w := hr.taken_ctxOn
  refine .control (exec_cmp k q s) hr rfl ?_
  rw [hctx]
  exact (hr.effected hs).setCtxOn _

theorem Completes.wait (hr : Ready s.hw k q 0x75 h) : Completes (.wait k q) s (Ended k q h (h.ctx.left h.w)
    ((s.hw.taken k q h).getQueue k q) (s.hw.taken k q h).mem) := .control (exec_wait k q s) hr rfl (hr.effected hs)

theorem Completes.set (hr : Ready s.hw k q 0x76 h) : Completes (.set k q) s (Ended k q h (h.ctx.left h.w)
    ((s.hw.taken k q h).getQueue k q) (s.hw.taken k q h).mem) := .control (exec_set k q s) hr rfl (hr.effected hs)

theorem Completes.yield (hr : Ready s.hw k q 0x79 h) : Completes (.yield k q) s (Ended k q h (h.ctx.left h.w)
    ((s.hw.taken k q h).getQueue k q).idle (s.hw.taken k q h).mem) :=
  .control (exec_yield k q s) hr rfl ((hr.effected hs).modQueue QueueState.idle)

end

/-! ### SET (R251) -/

section

variable {s t : Hw} {k n : Nat}

theorem Hw.getTile_of_tiles (h : t.tiles = s.tiles) : t.getTile k = s.getTile k := by
  unfold Hw.getTile
  rw [h]

/-- R251: a set of a tile latch. -/
theorem Hw.bit_changeLatch (hs : HomeOn s k n) {l : Nat} (hl : l < 64) (i : Nat) :
    bit ((s.changeLatch n l false).getTile k).fs.latches.toNat i = if i = l then true else bit (s.getTile k).fs.latches.toNat i := by
  unfold Hw.changeLatch Hw.modTile
  simp only [hs.1, Hw.getTile_setTile_self, Bool.false_and, Bool.false_eq_true, if_false]
  exact bit_ofNat_setBits (s.getTile k).fs.latches hl true i

/-- A selector that sets: a latch that was set stays so, and the tile latch that it names is set. -/
theorem Hw.bit_applySel (hs : HomeOn s k n) (remotes : List (Nat × Nat × Nat)) {x : Nat} (hclear : selClear x = false) (hok : selOk x = true)
    {i : Nat} (h : bit (s.getTile k).fs.latches.toNat i = true ∨ (selScope x = 1 ∧ selLatch x = i)) :
    bit ((s.applySel n remotes x).getTile k).fs.latches.toNat i = true := by
  unfold Hw.applySel
  split
  next hone =>
    have hl : selLatch x < 64 := by simpa [selOk, hone] using hok
    rw [hclear, Hw.bit_changeLatch hs hl]
    by_cases hi : i = selLatch x
    · rw [if_pos hi]
    · rw [if_neg hi]
      exact h.resolve_right fun h' => hi h'.2.symm
  next htwo =>
    rw [Hw.getTile_of_tiles (Beside.of_sendGlatch s _ _).tiles]
    exact h.resolve_right fun h' => by omega
  next hthree =>
    have hold : bit (s.getTile k).fs.latches.toNat i = true := h.resolve_right fun h' => by omega
    split
    next => rwa [Hw.getTile_of_tiles (Beside.of_sendRemote s _ _ _ _ _ _).tiles]
    next => exact hold
  next hone _ _ => exact h.resolve_right fun h' => hone h'.1

theorem Hw.bit_foldl_applySel (remotes : List (Nat × Nat × Nat)) (i : Nat) (l : List Nat) : ∀ s : Hw, HomeOn s k n →
    (∀ x ∈ l, selClear x = false ∧ selOk x = true) →
    (bit (s.getTile k).fs.latches.toNat i = true ∨ ∃ x ∈ l, selScope x = 1 ∧ selLatch x = i) →
    bit ((l.foldl (fun s x => s.applySel n remotes x) s).getTile k).fs.latches.toNat i = true := by
  induction l with
  | nil => exact fun s _ _ h => h.resolve_right (by simp)
  | cons x l ih =>
    intro s hs hall h
    obtain ⟨⟨hclear, hok⟩, hall⟩ := List.forall_mem_cons.1 hall
    refine ih _ (Closing.of_applySel hs remotes x).home hall ?_
    rcases h with h | ⟨y, hy, hname⟩
    · exact .inl (Hw.bit_applySel hs remotes hclear hok (.inl h))
    · rcases List.mem_cons.1 hy with rfl | hy
      · exact .inl (Hw.bit_applySel hs remotes hclear hok (.inr hname))
      · exact .inr ⟨y, hy, hname⟩

/-- R251: a command's sets come after its clears, so every tile latch that it sets is set. -/
theorem Hw.bit_applySets (hs : HomeOn s k n) (remotes : List (Nat × Nat × Nat)) {w : Record64} {x : Nat} (hx : x ∈ setSelectors w)
    (hok : selOk x = true) (hscope : selScope x = 1) (hclear : selClear x = false) :
    bit ((s.applySets n remotes w).getTile k).fs.latches.toNat (selLatch x) = true := by
  unfold Hw.applySets
  simp only [List.foldl_append]
  have hhome := (Closing.foldl (fun s x => s.applySel n remotes x) (fun s x hs => Closing.of_applySel (n := n) hs remotes x)
    (((setSelectors w).filter selOk).filter selClear) s hs).home
  refine Hw.bit_foldl_applySel remotes _ _ _ hhome (fun y hy => ?_) (.inr ⟨x, ?_, hscope, rfl⟩)
  · obtain ⟨hy, hnot⟩ := List.mem_filter.1 hy
    exact ⟨by simpa using hnot, (List.mem_filter.1 hy).2⟩
  · exact List.mem_filter.2 ⟨List.mem_filter.2 ⟨hx, hok⟩, by rw [hclear]; rfl⟩

theorem Hw.latches_setCtxOn (s : Hw) (k n : Nat) (c : StreamCtx) :
    ((s.setCtxOn k n c).getTile k).fs.latches = (s.getTile k).fs.latches := by
  unfold Hw.setCtxOn
  rw [Hw.getTile_setTile_self]
  rfl

theorem Hw.latches_retire (hs : HomeOn s k n) : ((s.retire n).getTile k).fs.latches = (s.getTile k).fs.latches := by
  unfold Hw.retire
  simp only [hs.ctxOf_eq, hs.setCtxOf_eq]
  split
  · exact Hw.latches_setCtxOn _ _ _ _
  · rw [Hw.getTile_of_tiles (Beside.of_retireSlots _ _ _).tiles]
    exact Hw.latches_setCtxOn _ _ _ _

theorem Hw.bit_complete (hs : HomeOn s k n) (f : InFlight) {y : Nat} (hy : y ∈ setSelectors f.cmd) (hok : selOk y = true)
    (hscope : selScope y = 1) (hclear : selClear y = false) :
    bit ((s.complete n f 0).getTile k).fs.latches.toNat (selLatch y) = true := by
  have hmark := RestKept.of_completeMarked hs f
  rw [Hw.complete_zero, Hw.latches_retire (RestKept.of_applySets hmark.home f.remotes f.cmd).home]
  exact Hw.bit_applySets hmark.home f.remotes hy hok hscope hclear

end

/-- A command that completes in its cycle has set every tile latch that it sets. -/
theorem Effected.latches {k q : Nat} {h : Head} {c : StreamCtx} {v : QueueState} {m : Mem} {t : Hw} (he : Effected k q h.n c v m t) {x : Cmd}
    (hk : x.t = k) (hn : x.n = h.n) {y : Nat} (hy : y ∈ setSelectors x.w) (hok : selOk y = true) (hscope : selScope y = 1)
    (hclear : selClear y = false) : bit ((t.completeNow x 0).getTile k).fs.latches.toNat (selLatch y) = true := by
  obtain ⟨l, heq⟩ := Hw.completeNow_running hk hn he.running
  rw [heq]
  exact Hw.bit_complete (he.home.setCtxOn h.n _) (x.entry t.beatNo .running .none) hy hok hscope hclear

/-- R239: a set selector of a command in a proper form uses no reserved encoding. -/
theorem selOk_of_formatOk {w : Record64} (h : formatOk w = true) {x : Nat} (hx : x ∈ setSelectors w) : selOk x = true := by
  unfold formatOk at h
  simp only [Bool.and_eq_true] at h
  obtain ⟨⟨⟨⟨⟨⟨-, hsets⟩, -⟩, -⟩, -⟩, -⟩, -⟩ := h
  exact List.all_eq_true.1 hsets x hx

section

variable {s : State} {k : Fin 512} {q : Fin 4} {h : Head}

theorem Completes.set_latches (hs : HomeOn s.hw k h.n) (hr : Ready s.hw k q 0x76 h) : Completes (.set k q) s (fun t =>
    ∀ x ∈ setSelectors h.w, selScope x = 1 → selClear x = false → bit (t.getTile k).fs.latches.toNat (selLatch x) = true) := by
  refine .of_onHw _ (exec_set k q s) fun x hx hscope hclear => ?_
  rw [Hw.control_ready hr]
  exact (hr.effected hs).latches rfl rfl hx (selOk_of_formatOk hr.formatOk hx) hscope hclear

theorem StreamCtx.left_flight (c : StreamCtx) (w : Record64) : (c.left w).flight = c.flight := rfl

/-- FENCE. -/
theorem Completes.fence (hs : HomeOn s.hw k h.n) (hr : Ready s.hw k q 0x7A h) : Completes (.fence k q) s (fun t =>
    NextInLine s.hw t k q h ∧ MemAsTaken s.hw t k h ∧
    (h.ctx.flight.all (fun f => f.stage == .completed) = true → Completed t k h) ∧
    (h.ctx.flight.all (fun f => f.stage == .completed) = false →
      ∃ f ∈ (t.ctxOn k h.n).flight, f.num = h.ctx.issued.toNat ∧ f.stage = .running)) := by
  have hgone := hr.headGone hs
  have hctx : (s.hw.taken k q h).ctxOn (s.hw.cmdAt k q h).t (s.hw.cmdAt k q h).n = h.ctx.left h.w := hr.taken_ctxOn
  refine .of_onHw _ (exec_fence k q s) ?_
  rw [Hw.issue_ready hr (fun w => Com.opcode w == 0x7A) (beq_iff_eq.2 hr.2.1)]
  simp only [ne_eq, not_true_eq_false, if_false, hctx, StreamCtx.left_flight]
  cases hall : h.ctx.flight.all (fun f => f.stage == .completed) with
  | true =>
    have he := (hr.effected hs).completeNow (x := s.hw.cmdAt k q h) rfl rfl rfl
    exact ⟨he.nextInLine rfl hgone.queue, he.memAsTaken, fun _ => he.completed rfl, fun hf => by cases hf⟩
  | false =>
    obtain ⟨l, heq, hmem⟩ := hgone.fly_eq (x := s.hw.cmdAt k q h) rfl rfl .running .none
    simp only [Bool.false_eq_true, if_false, heq]
    have htaken := s.hw.memAsTaken_taken k q h
    refine ⟨(hgone.setFlight l).next, htaken, fun hf => hf.elim, fun _ => ⟨(s.hw.cmdAt k q h).entry (s.hw.taken k q h).beatNo .running .none, ?_, rfl, rfl⟩⟩
    rw [Hw.ctxOn_setCtxOn_self]
    exact hmem

/-- What the control commands that go on to the next command have in common, from the context and the queue that they leave. -/
theorem Ended.control {c : StreamCtx} {v : QueueState} {t : Hw} {op : Nat} (hr : Ready s.hw k q op h) (hs : HomeOn s.hw k h.n)
    (he : Ended k q h c v (s.hw.taken k q h).mem t) (hissued : c.issued = (h.ctx.left h.w).issued) (hpos : c.pos = (h.ctx.left h.w).pos)
    (hslots : c.slots = h.ctx.slots) (hstack : c.stack = h.ctx.stack) (hv : v.fetched = ((s.hw.taken k q h).getQueue k q).fetched)
    (hcounter : ∀ j, (op = 0x70 ∨ op = 0x71 → j ≠ Com.mode h.w 4 3) → c.counter j = h.ctx.counter j)
    (hflag : ∀ j, (op = 0x72 → j ≠ Com.mode h.w 4 2) → bit c.comps.toNat j = bit h.ctx.comps.toNat j)
    (hyield : op = 0x79 → v.yielded = true) : Completed t k h ∧ NextInLine s.hw t k q h ∧ MemAsTaken s.hw t k h ∧
      (∀ j, (op = 0x70 ∨ op = 0x71 → j ≠ Com.mode h.w 4 3) → (t.ctxOn k h.n).counter j = h.ctx.counter j) ∧
      (∀ j, (op = 0x72 → j ≠ Com.mode h.w 4 2) → bit (t.ctxOn k h.n).comps.toNat j = bit h.ctx.comps.toNat j) ∧
      (t.ctxOn k h.n).slots = h.ctx.slots ∧ (t.ctxOn k h.n).stack = h.ctx.stack ∧ (op = 0x79 → (t.getQueue k q).yielded = true) := by
  refine ⟨he.completed hissued, he.nextInLine hpos (hv.trans (hr.headGone hs).queue), he.memAsTaken, fun j hj => ?_, fun j hj => ?_,
    he.slots.trans hslots, he.stack.trans hstack, fun hop => ?_⟩
  · rw [he.counter, hcounter j hj]
  · rw [he.comps, hflag j hj]
  · rw [he.queue, hyield hop]

theorem StreamCtx.counter_put (c : StreamCtx) (j i : Nat) (y : Reg32) :
    StreamCtx.counter { c with counters := Sparse.put 0 c.counters j y } i = if j = i then y else c.counter i := Sparse.get_put _ _ _ _ _

theorem mode_lt (w : Record64) (lo n : Nat) : Com.mode w lo n < 2 ^ n := bits_lt _ _ _

end

/-- Settles O18: a control command's effect on its stream's context stands once it has completed (`Ended`). -/
theorem controlCommands : Obligations.ControlCommands := by
  unfold Obligations.ControlCommands
  intro s k q h hs
  refine ⟨fun c op hmem hr => ?_, fun hr => ?_, fun hr => ?_, fun hr => ?_, fun hr => .set_latches hs hr, fun hr => .fence hs hr⟩
  · simp only [List.mem_cons, List.not_mem_nil, or_false] at hmem
    rcases hmem with ⟨rfl, rfl⟩ | ⟨rfl, rfl⟩ | ⟨rfl, rfl⟩ | ⟨rfl, rfl⟩ | ⟨rfl, rfl⟩ | ⟨rfl, rfl⟩
    · refine (Completes.setc hs hr).mono fun t he => he.control hr hs rfl rfl rfl rfl rfl (fun j hj => ?_) (fun _ _ => rfl) (by simp)
      rw [StreamCtx.counter_put, if_neg (Ne.symm (hj (.inl rfl)))]
      rfl
    · refine (Completes.addc hs hr).mono fun t he => he.control hr hs rfl rfl rfl rfl rfl (fun j hj => ?_) (fun _ _ => rfl) (by simp)
      rw [StreamCtx.counter_put, if_neg (Ne.symm (hj (.inr rfl)))]
      rfl
    · refine (Completes.cmp hs hr).mono fun t he => he.control hr hs rfl rfl rfl rfl rfl (fun _ _ => rfl) (fun j hj => ?_) (by simp)
      rw [StreamCtx.bit_withFlag _ (mode_lt _ _ _), if_neg (hj rfl)]
      rfl
    · exact (Completes.wait hs hr).mono fun t he => he.control hr hs rfl rfl rfl rfl rfl (fun _ _ => rfl) (fun _ _ => rfl) (by simp)
    · exact (Completes.set hs hr).mono fun t he => he.control hr hs rfl rfl rfl rfl rfl (fun _ _ => rfl) (fun _ _ => rfl) (by simp)
    · exact (Completes.yield hs hr).mono fun t he => he.control hr hs rfl rfl rfl rfl rfl (fun _ _ => rfl) (fun _ _ => rfl) fun _ => rfl
  · refine (Completes.setc hs hr).mono fun t he => ?_
    rw [he.counter, StreamCtx.counter_put, if_pos rfl]
    rfl
  · refine (Completes.addc hs hr).mono fun t he => ?_
    rw [he.counter, StreamCtx.counter_put, if_pos rfl]
  · refine (Completes.cmp hs hr).mono fun t he => ?_
    rw [he.comps, StreamCtx.bit_withFlag _ (mode_lt _ _ _), if_pos rfl]

end Sys2Proof.Machine
end

section
/-!
PROOFS. Faults of a stream (R246), and where BR, LOOP, CALL and RET take one (R248, R249, R257, R260).
-/
namespace Sys2Proof.Machine

/-! ### A fault of a stream -/

section

variable (s : Hw) (n cause : Nat)

/-- A stream that faults gives up its sets' commands in flight, and its state shows the fault. -/
theorem Hw.faultStream_running {s : Hw} (h : s.flag F.STRM_STATE_FAULTED n = false) : ∃ v, SetsOnly s v ∧
    s.faultStream n cause = ((v.fset F.STRM_STATE_FAULTED 1 n).fset F.STRM_STATE_CAUSE cause n).shadowTouch n := by
  unfold Hw.faultStream
  rw [if_neg (by rw [h]; exact Bool.false_ne_true)]
  simp only
  have hset := SetsOnly.of_setCtxOf s n { s.ctxOf n with flight := (s.ctxOf n).flight.filter (fun f => f.stage == .completed) }
  generalize s.setCtxOf n { s.ctxOf n with flight := (s.ctxOf n).flight.filter (fun f => f.stage == .completed) } = u at hset ⊢
  split
  · refine ⟨_, ?_, rfl⟩
    exact hset.trans (.of_setTile u _ _)
  · exact ⟨u, hset, rfl⟩

theorem Hw.faultStream_faulted {s : Hw} (h : s.flag F.STRM_STATE_FAULTED n = true) : s.faultStream n cause = s := if_pos h

/-- Every fault leaves all but the state register of its stream, what the stream's frame holds and its shadow's mark. -/
theorem Hw.faultStream_kept : RegsKept [.STRM_STATE] s (s.faultStream n cause) ∧ (s.faultStream n cause).mem = s.mem ∧
    (s.faultStream n cause).host = s.host := by
  cases h : s.flag F.STRM_STATE_FAULTED n with
  | true =>
    rw [Hw.faultStream_faulted n cause h]
    exact ⟨.refl _ s, rfl, rfl⟩
  | false =>
    obtain ⟨v, hv, heq⟩ := Hw.faultStream_running n cause h
    rw [heq]
    exact ⟨((RegsKept.of_regs hv.regs).fset F.STRM_STATE_FAULTED 1 n (by decide)).fset F.STRM_STATE_CAUSE cause n (by decide), hv.mem, hv.host⟩

theorem Hw.flag_faultStream : (s.faultStream n cause).flag F.STRM_STATE_FAULTED n = true := by
  cases h : s.flag F.STRM_STATE_FAULTED n with
  | true => rw [Hw.faultStream_faulted n cause h, h]
  | false =>
    obtain ⟨v, hv, heq⟩ := Hw.faultStream_running n cause h
    rw [heq]
    refine (Hw.flag_fset_apart _ F.STRM_STATE_CAUSE F.STRM_STATE_FAULTED cause n n (by decide) (by decide)).trans ?_
    exact (Hw.flag_fset_self v F.STRM_STATE_FAULTED 1 n).trans rfl

theorem Hw.cause_faultStream {s : Hw} (h : s.flag F.STRM_STATE_FAULTED n = false) (hcause : cause < 16) :
    (s.faultStream n cause).fget F.STRM_STATE_CAUSE n = cause := by
  obtain ⟨v, hv, heq⟩ := Hw.faultStream_running n cause h
  rw [heq]
  exact (Hw.fget_fset_self _ F.STRM_STATE_CAUSE cause n).trans (Nat.mod_eq_of_lt hcause)

/-- A stream that is faulted stays so when another faults. -/
theorem Hw.flag_faultStream_other {s : Hw} {m : Nat} (h : s.flag F.STRM_STATE_FAULTED m = true) :
    (s.faultStream n cause).flag F.STRM_STATE_FAULTED m = true := by
  by_cases hm : n = m
  · rw [hm]
    exact Hw.flag_faultStream s m cause
  · cases hf : s.flag F.STRM_STATE_FAULTED n with
    | true => rw [Hw.faultStream_faulted n cause hf, h]
    | false =>
      obtain ⟨v, hv, heq⟩ := Hw.faultStream_running n cause hf
      rw [heq, ← h, ← hv.flag]
      unfold Hw.flag
      have hcause := Hw.fget_fset_unit (v.fset F.STRM_STATE_FAULTED 1 n) F.STRM_STATE_CAUSE F.STRM_STATE_FAULTED cause hm
      have hfault := Hw.fget_fset_unit v F.STRM_STATE_FAULTED F.STRM_STATE_FAULTED 1 hm
      exact congrArg (· == 1) (hcause.trans hfault)

end

/-! ### A jump, and a command that faults its stream -/

section

variable {s t : Hw} {k q op : Nat} {h : Head} {c : StreamCtx} {v : QueueState} {m : Mem}

/-- A queue without its commands. -/
def QueueState.emptied (v : QueueState) : QueueState := { v with fetched := [], fetchedDross := [] }

/-- R257, R260: the stream goes on at another position, and its queue is empty. -/
theorem Effected.jump (he : Effected k q h.n c v m t) (p : Pos) : Effected k q h.n { c with pos := p } v.emptied m (t.jump k q h.n p) := by
  unfold Hw.jump
  rw [he.ctx]
  exact (he.setCtxOn _).modQueue QueueState.emptied

/-- A command that has faulted its stream does no more. -/
theorem Hw.faults_completeNow {x : Cmd} (hn : x.n = h.n) (cause code a0 a1 : Nat) (w : Who) (st : Nat) :
    ((t.faultStream h.n cause).raise code a0 a1 w).completeNow x st = (t.faultStream h.n cause).raise code a0 a1 w := by
  refine Hw.completeNow_faulted st ?_
  rw [hn, Hw.flag_raise _ _ _ _ _ F.STRM_STATE_FAULTED]
  exact Hw.flag_faultStream t h.n cause

/-- What is left when a command faults its stream: the context but for what is in flight, and memory. -/
theorem Effected.faults (he : Effected k q h.n c v m t) (cause code a0 a1 : Nat) (w : Who) :
    (((t.faultStream h.n cause).raise code a0 a1 w).ctxOn k h.n).atRest = c.atRest ∧
    ((t.faultStream h.n cause).raise code a0 a1 w).mem = m := by
  have hfault := RestKept.of_faultStream he.home cause
  have hraise := hfault.beside (.of_raise _ code a0 a1 w)
  exact ⟨hraise.rest.trans (by rw [he.ctx]), hraise.mem.trans he.mem⟩

/-- R249: a taken branch inside a routine. -/
theorem Hw.branchSlot_inside {x : Cmd} (sl rid : Nat) {target : Int} {j : Nat} (hj : target = j) (h15 : j ≤ 15) :
    s.branchSlot x sl rid target = s.jump x.t x.q x.n (.slot sl rid j) := by
  unfold Hw.branchSlot
  rw [hj, if_pos (by simp; omega), Int.toNat_natCast]

theorem Hw.branchSlot_outside {x : Cmd} (sl rid : Nat) {target : Int} (h : ¬ (0 ≤ target ∧ target ≤ 15)) :
    s.branchSlot x sl rid target =
      (s.faultStream x.n 5).raise 0xB045 x.n (pack2 sl (unsigned 16 target)) { kind := 1, unit := x.t, stream := some x.n } := by
  unfold Hw.branchSlot
  rw [if_neg (by simpa using h)]

/-- A command that branches inside a routine leaves the context it had, but for its position and what is in flight, and memory. -/
theorem Effected.branchSlot (he : Effected k q h.n c v m t) {x : Cmd} (hk : x.t = k) (hq : x.q = q) (hn : x.n = h.n)
    (hnum : x.num = h.ctx.issued.toNat) (sl rid : Nat) (target : Int) :
    (∀ j : Nat, target = j → j ≤ 15 → Ended k q h { c with pos := .slot sl rid j } v.emptied m ((t.branchSlot x sl rid target).completeNow x 0)) ∧
    (∀ i, (((t.branchSlot x sl rid target).completeNow x 0).ctxOn k h.n).counter i = c.counter i) ∧
    ((t.branchSlot x sl rid target).completeNow x 0).mem = m := by
  have hinside : ∀ j : Nat, target = j → j ≤ 15 →
      Ended k q h { c with pos := .slot sl rid j } v.emptied m ((t.branchSlot x sl rid target).completeNow x 0) := fun j hj h15 => by
    rw [Hw.branchSlot_inside sl rid hj h15, hk, hq, hn]
    exact (he.jump _).completeNow hk hn hnum
  refine ⟨hinside, ?_⟩
  by_cases htarget : 0 ≤ target ∧ target ≤ 15
  · have hend := hinside target.toNat (by omega) (by omega)
    exact ⟨fun i => hend.counter i, hend.mem⟩
  · rw [Hw.branchSlot_outside sl rid htarget, hn, Hw.faults_completeNow hn]
    obtain ⟨hrest, hmem⟩ := he.faults 5 0xB045 h.n (pack2 sl (unsigned 16 target)) { kind := 1, unit := x.t, stream := some h.n }
    refine ⟨fun i => ?_, hmem⟩
    have hcounter := congrArg (fun c => StreamCtx.counter c i) hrest
    exact hcounter

/-- Memory that is as what the head names left it. -/
theorem MemAsTaken.of_mem (hm : t.mem = (s.taken k q h).mem) : MemAsTaken s t k h := by
  unfold MemAsTaken
  rw [hm]
  exact s.memAsTaken_taken k q h

/-! ### BR -/

/-- A queue that has lost its first commands. -/
def QueueState.skipped (v : QueueState) (i : Nat) : QueueState :=
  { v with fetched := v.fetched.drop i, fetchedDross := v.fetchedDross.drop i }

theorem Effected.branchRing (he : Effected k q h.n c v m t) {x : Cmd} (hk : x.t = k) (hq : x.q = q) (hn : x.n = h.n) (i off : Nat) :
    Effected k q h.n { c with pos := .ring ((i + off) % 0x1_0000_0000) } (v.skipped (off - 1)) m (t.branchRing x i off) := by
  unfold Hw.branchRing
  rw [hk, hq, hn, he.ctx]
  exact (he.setCtxOn _).modQueue (fun v => v.skipped (off - 1))

/-- The branch of the model, on a head that is ready in the ring. -/
theorem Hw.branch_ring (hr : Ready s k q 0x73 h) {i : Nat} (hpos : h.ctx.pos = .ring i) (h0 : Com.param h.w 0 ≠ 0)
    (hmax : Com.param h.w 0 ≤ 4095) : s.branch k q =
      if brTaken h.ctx h.w then ((s.taken k q h).branchRing (s.cmdAt k q h) i (Com.param h.w 0)).completeNow
        { s.cmdAt k q h with slots := Com.param h.w 0 } 0
      else (s.taken k q h).completeNow (s.cmdAt k q h) 0 := by
  have hw : (s.cmdAt k q h).w = h.w := rfl
  have hc : (s.cmdAt k q h).c = h.ctx := rfl
  unfold Hw.branch
  rw [Hw.issue_ready hr (fun w => Com.opcode w == 0x73) (beq_iff_eq.2 hr.2.1)]
  have hoff : (decide (Com.param h.w 0 = 0) || decide (4095 < Com.param h.w 0)) = false := by simp [h0, hmax]
  simp only [ne_eq, not_true_eq_false, if_false, hw, hc, hpos, hoff, Bool.false_eq_true]

/-- The branch of the model, on a head that is ready inside a routine. -/
theorem Hw.branch_slot (hr : Ready s k q 0x73 h) {sl rid i : Nat} (hpos : h.ctx.pos = .slot sl rid i) : s.branch k q =
    if brTaken h.ctx h.w then ((s.taken k q h).branchSlot (s.cmdAt k q h) sl rid ((i : Int) + signed 32 (Com.param h.w 0))).completeNow
      (s.cmdAt k q h) 0
    else (s.taken k q h).completeNow (s.cmdAt k q h) 0 := by
  have hw : (s.cmdAt k q h).w = h.w := rfl
  have hc : (s.cmdAt k q h).c = h.ctx := rfl
  unfold Hw.branch
  rw [Hw.issue_ready hr (fun w => Com.opcode w == 0x73) (beq_iff_eq.2 hr.2.1)]
  simp only [ne_eq, not_true_eq_false, if_false, hw, hc, hpos]

/-- BR in the ring. -/
theorem Hw.branch_ring_ends (hr : Ready s k q 0x73 h) (hs : HomeOn s k h.n) {i : Nat} (hpos : h.ctx.pos = .ring i)
    (h0 : Com.param h.w 0 ≠ 0) (hmax : Com.param h.w 0 ≤ 4095) :
    (brTaken h.ctx h.w = true → Ended k q h { h.ctx.left h.w with pos := .ring ((i + Com.param h.w 0) % 0x1_0000_0000) }
      (((s.taken k q h).getQueue k q).skipped (Com.param h.w 0 - 1)) (s.taken k q h).mem (s.branch k q)) ∧
    (brTaken h.ctx h.w = false → Ended k q h (h.ctx.left h.w) ((s.taken k q h).getQueue k q) (s.taken k q h).mem (s.branch k q)) := by
  rw [Hw.branch_ring hr hpos h0 hmax]
  refine ⟨fun htaken => ?_, fun htaken => ?_⟩
  · rw [if_pos htaken]
    exact ((hr.effected hs).branchRing rfl rfl rfl i _).completeNow rfl rfl rfl
  · rw [if_neg (by rw [htaken]; exact Bool.false_ne_true)]
    exact (hr.effected hs).completeNow rfl rfl rfl

/-! ### CALL and RET -/

/-- The routine store in which a command finds what the state before it held (R257). -/
theorem Hw.taken_found (s : Hw) (k q : Nat) (h : Head) (sl : Nat) :
    Sparse.get 0 ((s.taken k q h).getPhys ((s.taken k q h).physOf (s.cmdAt k q h).t)).rid sl = Sparse.get 0 (s.getPhys (s.physOf k)).rid sl :=
  congrArg (Sparse.get 0 · sl) (s.taken_rid k q h k)

/-- R257: a call of a slot that holds the RID named. -/
theorem Ready.call (hr : Ready s k q op h) (hs : HomeOn s k h.n) (hstack : h.ctx.stack.length < 4)
    (hrid : Sparse.get 0 (s.getPhys (s.physOf k)).rid (Com.param h.w 0) = Com.param h.w 1) :
    Effected k q h.n { h.ctx.left h.w with stack := h.ctx.pos.next :: h.ctx.stack, pos := .slot (Com.param h.w 0) (Com.param h.w 1) 0 }
      ((s.taken k q h).getQueue k q).emptied (s.taken k q h).mem ((s.taken k q h).call (s.cmdAt k q h)) := by
  have hctx : (s.taken k q h).ctxOn (s.cmdAt k q h).t (s.cmdAt k q h).n = h.ctx.left h.w := hr.taken_ctxOn
  have hw : (s.cmdAt k q h).w = h.w := rfl
  have hdeep : ¬ 4 ≤ (h.ctx.left h.w).stack.length := Nat.not_le.2 hstack
  unfold Hw.call
  simp only [hctx, hw, hdeep, s.taken_found k q h, hrid, ne_eq, not_true_eq_false, if_false]
  exact ((hr.effected hs).setCtxOn { h.ctx.left h.w with stack := (h.ctx.left h.w).pos :: (h.ctx.left h.w).stack }).jump
    (.slot (Com.param h.w 0) (Com.param h.w 1) 0)

/-- R257: a call that finds four positions kept. -/
theorem Ready.call_deep (hr : Ready s k q op h) (hstack : 4 ≤ h.ctx.stack.length) : (s.taken k q h).call (s.cmdAt k q h) =
    ((s.taken k q h).faultStream h.n 6).raise 0xB044 h.n (Com.tag h.w)
      { kind := 1, unit := k, stream := some h.n, job := some ((s.taken k q h).jobOf h.n) } := by
  have hctx : (s.taken k q h).ctxOn (s.cmdAt k q h).t (s.cmdAt k q h).n = h.ctx.left h.w := hr.taken_ctxOn
  have hdeep : 4 ≤ (h.ctx.left h.w).stack.length := hstack
  unfold Hw.call
  simp only [hctx, hdeep, if_true]
  rfl

/-- R257, R260: a return to the position kept last, in a slot that still holds its RID. -/
theorem Ready.ret (hr : Ready s k q op h) (hs : HomeOn s k h.n) {p : Pos} {rest : List Pos} (hstack : h.ctx.stack = p :: rest)
    (hrid : ∀ sl rid i, p = .slot sl rid i → Sparse.get 0 (s.getPhys (s.physOf k)).rid sl = rid) :
    Effected k q h.n { h.ctx.left h.w with stack := rest, pos := p }
      ((s.taken k q h).getQueue k q).emptied (s.taken k q h).mem ((s.taken k q h).ret (s.cmdAt k q h)) := by
  have hctx : (s.taken k q h).ctxOn (s.cmdAt k q h).t (s.cmdAt k q h).n = h.ctx.left h.w := hr.taken_ctxOn
  have hstack' : (h.ctx.left h.w).stack = p :: rest := hstack
  have hgo : Effected k q h.n { h.ctx.left h.w with stack := rest, pos := p } ((s.taken k q h).getQueue k q).emptied (s.taken k q h).mem
      (((s.taken k q h).setCtxOn k h.n { h.ctx.left h.w with stack := rest }).jump k q h.n p) :=
    ((hr.effected hs).setCtxOn { h.ctx.left h.w with stack := rest }).jump p
  unfold Hw.ret
  simp only [hctx, hstack']
  split
  next => exact hgo
  next sl rid i =>
    rw [if_pos ((s.taken_found k q h sl).trans (hrid sl rid i rfl))]
    exact hgo

end

theorem exec_br (k : Fin 512) (q : Fin 4) (s : State) : exec (.br k q) s = s.onHw (fun h => h.branch k.val q.val) := rfl
theorem exec_call (k : Fin 512) (q : Fin 4) (s : State) :
    exec (.call k q) s = s.onHw (fun h => h.control k.val q.val 0x77 (fun h x => (h.call x, 0))) := rfl
theorem exec_ret (k : Fin 512) (q : Fin 4) (s : State) :
    exec (.ret k q) s = s.onHw (fun h => h.control k.val q.val 0x78 (fun h x => (h.ret x, 0))) := rfl

/-- R248, R249: what LOOP does to a command's stream. -/
def Hw.loopRun (s : Hw) (x : Cmd) : Hw × Nat :=
  match x.c.pos with
  | .ring _ => (s, St.param)
  | .slot sl rid i =>
    let v := (s.ctxOn x.t x.n).counter (Com.mode x.w 4 3) - 1
    let s1 := s.setCounter x (Com.mode x.w 4 3) v
    (if v = 0 then s1 else s1.branchSlot x sl rid ((i : Int) + signed 32 (Com.param x.w 0)), 0)

theorem exec_loop (k : Fin 512) (q : Fin 4) (s : State) :
    exec (.loop k q) s = s.onHw (fun h => h.control k.val q.val 0x74 Hw.loopRun) := rfl

section

variable {s : State} {k : Fin 512} {q : Fin 4} {h : Head}

/-- BR in the ring. -/
theorem Completes.br_ring (hs : HomeOn s.hw k h.n) (hr : Ready s.hw k q 0x73 h) {c : Nat} (hpos : h.ctx.pos = .ring c)
    (h0 : Com.param h.w 0 ≠ 0) (hmax : Com.param h.w 0 ≤ 4095) : Completes (.br k q) s (fun t => Completed t k h ∧
      (brTaken h.ctx h.w = true → (t.ctxOn k h.n).pos = .ring ((c + Com.param h.w 0) % 2 ^ 32) ∧
        (t.getQueue k q).fetched = (s.hw.getQueue k q).fetched.drop (Com.param h.w 0)) ∧
      (brTaken h.ctx h.w = false → NextInLine s.hw t k q h) ∧ MemAsTaken s.hw t k h) := by
  refine .of_onHw _ (exec_br k q s) ?_
  have hqueue := (hr.headGone hs).queue
  obtain ⟨htaken, hnot⟩ := Hw.branch_ring_ends hr hs hpos h0 hmax
  cases hb : brTaken h.ctx h.w with
  | true =>
    have he := htaken hb
    refine ⟨he.completed rfl, fun _ => ⟨he.pos, ?_⟩, fun hf => (by cases hf), he.memAsTaken⟩
    have hone : 1 + (Com.param h.w 0 - 1) = Com.param h.w 0 := by omega
    rw [he.queue]
    exact (congrArg (List.drop _) hqueue).trans (by rw [List.drop_drop, hone])
  | false =>
    have he := hnot hb
    exact ⟨he.completed rfl, fun hf => (by cases hf), fun _ => he.nextInLine rfl hqueue, he.memAsTaken⟩

/-- BR inside a routine. -/
theorem Completes.br_slot (hs : HomeOn s.hw k h.n) (hr : Ready s.hw k q 0x73 h) {sl rid i : Nat} (hpos : h.ctx.pos = .slot sl rid i) :
    Completes (.br k q) s (fun t => (brTaken h.ctx h.w = false → Completed t k h ∧ NextInLine s.hw t k q h) ∧
      (∀ j : Nat, brTaken h.ctx h.w = true → (i : Int) + signed 32 (Com.param h.w 0) = j → j ≤ 15 →
        Completed t k h ∧ (t.ctxOn k h.n).pos = .slot sl rid j ∧ (t.getQueue k q).fetched = []) ∧ MemAsTaken s.hw t k h) := by
  refine .of_onHw _ (exec_br k q s) ?_
  rw [Hw.branch_slot hr hpos]
  cases brTaken h.ctx h.w with
  | true =>
    obtain ⟨hinside, -, hmem⟩ := (hr.effected hs).branchSlot (x := s.hw.cmdAt k q h) rfl rfl rfl rfl sl rid
      ((i : Int) + signed 32 (Com.param h.w 0))
    refine ⟨fun hf => (by cases hf), fun j _ hj h15 => ?_, .of_mem hmem⟩
    have he := hinside j hj h15
    exact ⟨he.completed rfl, he.pos, congrArg QueueState.fetched he.queue⟩
  | false =>
    have he := (hr.effected hs).completeNow (x := s.hw.cmdAt k q h) rfl rfl rfl
    exact ⟨fun _ => ⟨he.completed rfl, he.nextInLine rfl (hr.headGone hs).queue⟩, fun j hf => (by cases hf), he.memAsTaken⟩

/-- LOOP. -/
theorem Completes.loop (hs : HomeOn s.hw k h.n) (hr : Ready s.hw k q 0x74 h) {sl rid i : Nat} (hpos : h.ctx.pos = .slot sl rid i) :
    Completes (.loop k q) s (fun t =>
      (t.ctxOn k h.n).counter (Com.mode h.w 4 3) = h.ctx.counter (Com.mode h.w 4 3) - 1 ∧ MemAsTaken s.hw t k h ∧
      (h.ctx.counter (Com.mode h.w 4 3) = 1 → Completed t k h ∧ NextInLine s.hw t k q h) ∧
      (∀ j : Nat, h.ctx.counter (Com.mode h.w 4 3) ≠ 1 → (i : Int) + signed 32 (Com.param h.w 0) = j → j ≤ 15 →
        Completed t k h ∧ (t.ctxOn k h.n).pos = .slot sl rid j)) := by
  have hctx : (s.hw.taken k q h).ctxOn (s.hw.cmdAt k q h).t (s.hw.cmdAt k q h).n = h.ctx.left h.w := hr.taken_ctxOn
  have hset := (hr.effected hs).setCounter (x := s.hw.cmdAt k q h) rfl rfl (Com.mode h.w 4 3) (h.ctx.counter (Com.mode h.w 4 3) - 1)
  have hone : h.ctx.counter (Com.mode h.w 4 3) - 1 = 0 ↔ h.ctx.counter (Com.mode h.w 4 3) = 1 := sub_eq_zero
  have hrun : (s.hw.taken k q h).loopRun (s.hw.cmdAt k q h) = (if h.ctx.counter (Com.mode h.w 4 3) = 1
      then (s.hw.taken k q h).setCounter (s.hw.cmdAt k q h) (Com.mode h.w 4 3) (h.ctx.counter (Com.mode h.w 4 3) - 1)
      else ((s.hw.taken k q h).setCounter (s.hw.cmdAt k q h) (Com.mode h.w 4 3) (h.ctx.counter (Com.mode h.w 4 3) - 1)).branchSlot
        (s.hw.cmdAt k q h) sl rid ((i : Int) + signed 32 (Com.param h.w 0)), 0) := by
    have hp : (s.hw.cmdAt k q h).c.pos = .slot sl rid i := hpos
    have hw : (s.hw.cmdAt k q h).w = h.w := rfl
    have hcounter : (h.ctx.left h.w).counter (Com.mode h.w 4 3) = h.ctx.counter (Com.mode h.w 4 3) := rfl
    unfold Hw.loopRun
    rw [hp]
    simp only [hctx, hw, hcounter, hone]
  refine .of_onHw _ (exec_loop k q s) ?_
  rw [Hw.control_ready hr, hrun]
  simp only
  split
  next h1 =>
    have he := hset.completeNow (x := s.hw.cmdAt k q h) rfl rfl rfl
    refine ⟨?_, he.memAsTaken, fun _ => ⟨he.completed rfl, he.nextInLine rfl (hr.headGone hs).queue⟩, fun j hne => absurd h1 hne⟩
    rw [he.counter, StreamCtx.counter_put, if_pos rfl]
  next h1 =>
    obtain ⟨hinside, hcounter, hmem⟩ := hset.branchSlot (x := s.hw.cmdAt k q h) rfl rfl rfl rfl sl rid
      ((i : Int) + signed 32 (Com.param h.w 0))
    refine ⟨?_, .of_mem hmem, fun h' => absurd h' h1, fun j _ hj h15 => ?_⟩
    · rw [hcounter, StreamCtx.counter_put, if_pos rfl]
    · have he := hinside j hj h15
      exact ⟨he.completed rfl, he.pos⟩

/-- CALL. -/
theorem Completes.call (hs : HomeOn s.hw k h.n) (hr : Ready s.hw k q 0x77 h) :
    (h.ctx.stack.length < 4 → Sparse.get 0 (s.hw.getPhys (s.hw.physOf k)).rid (Com.param h.w 0) = Com.param h.w 1 →
      Completes (.call k q) s (fun t => Completed t k h ∧ (t.ctxOn k h.n).stack = h.ctx.pos.next :: h.ctx.stack ∧
        (t.ctxOn k h.n).pos = .slot (Com.param h.w 0) (Com.param h.w 1) 0 ∧ (t.getQueue k q).fetched = [] ∧ MemAsTaken s.hw t k h)) ∧
    (4 ≤ h.ctx.stack.length → Completes (.call k q) s (fun t =>
      t.flag F.STRM_STATE_FAULTED h.n = true ∧ t.fget F.STRM_STATE_CAUSE h.n = 6 ∧ MemAsTaken s.hw t k h)) := by
  refine ⟨fun hstack hrid => ?_, fun hstack => .of_onHw _ (exec_call k q s) ?_⟩
  · exact (Completes.control (exec_call k q s) hr rfl (hr.call hs hstack hrid)).mono fun _ he =>
      ⟨he.completed rfl, he.stack, he.pos, congrArg QueueState.fetched he.queue, he.memAsTaken⟩
  · rw [Hw.control_ready hr]
    simp only [hr.call_deep hstack]
    rw [Hw.faults_completeNow (h := h) rfl]
    refine ⟨?_, ?_, .of_mem ((hr.effected hs).faults _ _ _ _ _).2⟩
    · rw [Hw.flag_raise _ _ _ _ _ F.STRM_STATE_FAULTED]
      exact Hw.flag_faultStream _ _ _
    · rw [Hw.fget_raise _ _ _ _ _ F.STRM_STATE_CAUSE]
      exact Hw.cause_faultStream _ _ (hr.headGone hs).running (by decide)

/-- RET. -/
theorem Completes.ret (hs : HomeOn s.hw k h.n) (hr : Ready s.hw k q 0x78 h) {p : Pos} {rest : List Pos} (hstack : h.ctx.stack = p :: rest)
    (hrid : ∀ sl rid i, p = .slot sl rid i → Sparse.get 0 (s.hw.getPhys (s.hw.physOf k)).rid sl = rid) :
    Completes (.ret k q) s (fun t => Completed t k h ∧ (t.ctxOn k h.n).stack = rest ∧ (t.ctxOn k h.n).pos = p ∧
      (t.getQueue k q).fetched = [] ∧ MemAsTaken s.hw t k h) :=
  (Completes.control (exec_ret k q s) hr rfl (hr.ret hs hstack hrid)).mono fun _ he =>
    ⟨he.completed rfl, he.stack, he.pos, congrArg QueueState.fetched he.queue, he.memAsTaken⟩

end

/-- Settles O20: each transfer is an effect on the stream's position, its queue and its kept positions, which completion leaves. -/
theorem controlFlow : Obligations.ControlFlow := by
  unfold Obligations.ControlFlow
  intro s k q h hs
  exact ⟨fun hr => ⟨fun c hpos h0 hmax => .br_ring hs hr hpos h0 hmax, fun sl rid i hpos => .br_slot hs hr hpos⟩,
    fun sl rid i hpos hr => .loop hs hr hpos, fun hr => Completes.call hs hr, fun p rest hstack hr hrid => .ret hs hr hstack hrid⟩

end Sys2Proof.Machine
end

section
/-!
PROOFS. Fetches that return (R242, R257, R260), deadlocks (R255) and the wait watchdog (R256).
-/
namespace Sys2Proof.Machine

theorem exec_queueFetchReturn (k : Fin 512) (q : Fin 4) (s : State) :
    exec (.queueFetchReturn k q) s = s.onHw (fun h => h.fetchReturn k.val q.val) := rfl
theorem exec_deadlockDetected (k : Fin 512) (s : State) : exec (.deadlockDetected k) s = s.onHw (fun h => h.deadlock k.val) := rfl
theorem exec_waitWatchdogExpired (n : BitVec 16) (s : State) :
    exec (.waitWatchdogExpired n) s = s.onHw (fun h => h.watchdog n.toNat) := rfl

/-! ### What a fetch brings -/

section

variable {s : Hw}

/-- R227: the command in a ring slot. -/
def Hw.ringWord (s : Hw) (n slot : Nat) : Record64 := BitVec.ofNat 512 (ofBytes (s.peekRun (s.ringAddr n slot) 64))

/-- R225: ring slots follow one another modulo the ring, and so do counts that wrap. -/
theorem Hw.ringAddr_wrap (s : Hw) (n c i : Nat) : s.ringAddr n ((c + 1) % 0x1_0000_0000 + i) = s.ringAddr n (c + (i + 1)) := by
  have hslot : ((c + 1) % 0x1_0000_0000 + i) % 4096 = (c + (i + 1)) % 4096 := by omega
  unfold Hw.ringAddr
  rw [hslot]

theorem Hw.ringWord_wrap (s : Hw) (n c i : Nat) : s.ringWord n ((c + 1) % 0x1_0000_0000 + i) = s.ringWord n (c + (i + 1)) := by
  unfold Hw.ringWord
  rw [s.ringAddr_wrap]

theorem Hw.tail_lt (s : Hw) (n : Nat) : s.tail n < 0x1_0000_0000 := fget_lt s F.STRM_TAIL_COUNT n

/-- R520: a structure within the capacity is read as it stands. -/
theorem Hw.fetchGddr_mapped {a n : Nat} (h : a + n ≤ s.capacity) : s.fetchGddr a n = (s, s.peekRun a n, none) := by
  unfold Hw.fetchGddr
  simp only [if_pos h]

/-- R301: memory without an error has no dross to take in. -/
theorem Hw.takeIn_clean (hc : Clean s) (a n : Nat) : s.takeIn a n = (s, none) := Hw.consume_clean hc.1 hc.2 _

/-- R225, R227: memory without an error gives the commands of the ring up to TAIL, and changes nothing. -/
theorem Hw.ringWords_clean (hc : Clean s) (n : Nat) : ∀ (k c avail : Nat), c < 0x1_0000_0000 →
    avail = (s.tail n + 0x1_0000_0000 - c) % 0x1_0000_0000 → avail ≤ 0x1000 → (∀ i < avail, s.ringAddr n (c + i) + 64 ≤ s.capacity) →
    s.ringWords n c k = (s, (List.range (min avail k)).map (fun i => (s.ringWord n (c + i), false)))
  | 0, c, avail, _, _, _, _ => by simp [Hw.ringWords]
  | k + 1, c, avail, hlt, havail, hmax, hcap => by
    unfold Hw.ringWords
    rw [← havail]
    cases avail with
    | zero => simp
    | succ m =>
      have htail := s.tail_lt n
      have hmin : min (m + 1) (k + 1) = min m k + 1 := by omega
      have ih := Hw.ringWords_clean hc n k ((c + 1) % 0x1_0000_0000) m (Nat.mod_lt _ (by decide)) (by omega) (by omega) (fun i hi => by
        rw [s.ringAddr_wrap]
        exact hcap (i + 1) (by omega))
      have hfetch := Hw.fetchGddr_mapped (n := 64) (hcap 0 (by omega))
      rw [Nat.add_zero] at hfetch
      rw [if_neg (by simp; omega), hmin, List.range_succ_eq_map]
      simp only [hfetch, Hw.takeIn_clean hc, ih, s.ringWord_wrap, List.map_cons, List.map_map, Option.isSome_none, Bool.false_eq_true, if_false]
      rfl

/-- R257: with no error in the routine store, what a fetch finds there counts nothing. -/
theorem Sparse.filter_two_le_nil (slot : Nat) (l : List Nat) :
    l.filter (fun j => decide (2 ≤ Sparse.get 0 ([] : Sparse Nat) (slot * 16 + j))) = [] :=
  List.filter_eq_nil_iff.2 fun _ _ => by simp [Sparse.get, Sparse.find?]

variable {k q n : Nat} (hn : n = (s.getQueue k q).bind.stream) (hbound : (s.getQueue k q).bound = true) (hissue : s.mayIssue n = true)
  (hempty : (s.getQueue k q).fetched = [])
include hn hbound hissue hempty

/-- R242: a fetch that returns for an empty queue in its ring. -/
theorem Hw.fetchReturn_ring (hc : Clean s) {c avail : Nat} (hpos : (s.ctxOn k n).pos = .ring c) (hlt : c < 2 ^ 32)
    (havail : avail = (s.tail n + 2 ^ 32 - c) % 2 ^ 32) (hmax : avail ≤ 4096) (hcap : ∀ i < avail, s.ringAddr n (c + i) + 64 ≤ s.capacity) :
    s.fetchReturn k q = s.modQueue k q (fun v => { v with
      fetched := v.fetched ++ (List.range (min avail 256)).map (fun i => s.ringWord n (c + i)),
      fetchedDross := v.fetchedDross ++ (List.range (min avail 256)).map (fun _ => false) }) := by
  have hplus : Pos.plus (.ring c) 0 = .ring c := congrArg Pos.ring (Nat.mod_eq_of_lt hlt)
  unfold Hw.fetchReturn
  simp only [← hn, hbound, hissue, hempty, hpos, hplus, List.length_nil, Nat.sub_zero, Bool.not_true, Bool.or_false, Bool.false_eq_true, if_false]
  rw [Hw.ringWords_clean hc n 256 c avail hlt havail hmax hcap]
  simp only [List.map_map]
  rfl

variable {sl rid i : Nat} (hpos : (s.ctxOn k n).pos = .slot sl rid i)
include hpos

/-- R257: a fetch that returns for an empty queue inside a routine. -/
theorem Hw.fetchReturn_slot (hrid : Sparse.get 0 (s.getPhys (s.physOf k)).rid sl = rid) (hi : i < 16)
    (hdross : (s.getPhys (s.physOf k)).rtnDross = []) : ∃ d, s.fetchReturn k q = s.modQueue k q (fun v => { v with
      fetched := v.fetched ++ ((List.range 16).filter (fun j => i ≤ j)).map ((s.getPhys (s.physOf k)).rtnWord sl),
      fetchedDross := v.fetchedDross ++ d }) := by
  have hplus : Pos.plus (.slot sl rid i) 0 = .slot sl rid i := rfl
  unfold Hw.fetchReturn
  simp only [← hn, hbound, hissue, hempty, hpos, hplus, List.length_nil, Bool.not_true, Bool.or_false, Bool.false_eq_true, if_false, hrid,
    ne_eq, not_true_eq_false, Nat.not_le.2 hi, hdross, Sparse.filter_two_le_nil]
  exact ⟨_, rfl⟩

/-- R257: a fetch that returns for a slot that holds another RID. -/
theorem Hw.fetchReturn_stale (hrid : Sparse.get 0 (s.getPhys (s.physOf k)).rid sl ≠ rid) : s.fetchReturn k q =
    (s.faultStream n 5).raise 0xB043 n (pack2 sl (Sparse.get 0 (s.getPhys (s.physOf k)).rid sl))
      { kind := 1, unit := k, stream := some n, job := some (s.jobOf n) } := by
  have hplus : Pos.plus (.slot sl rid i) 0 = .slot sl rid i := rfl
  unfold Hw.fetchReturn
  simp only [← hn, hbound, hissue, hempty, hpos, hplus, List.length_nil, Bool.not_true, Bool.or_false, Bool.false_eq_true, if_false, hrid,
    ne_eq, not_false_eq_true, if_true]

end

/-- A fault of a stream that raises an event: what both leave. -/
theorem Hw.faultStream_raise_raises {s : Hw} (hroom : EventRoom s) (n cause code a0 a1 : Nat) (w : Who) :
    Raises s ((s.faultStream n cause).raise code a0 a1 w) code a0 a1 :=
  Raises.of_raise hroom (by rw [(s.faultStream_kept n cause).2.2]) code a0 a1 w

/-- R242: a stream that may issue is not faulted. -/
theorem Hw.not_faulted_of_mayIssue {s : Hw} {n : Nat} (h : s.mayIssue n = true) : s.flag F.STRM_STATE_FAULTED n = false := by
  unfold Hw.mayIssue at h
  simp only [Bool.and_eq_true, Bool.not_eq_true'] at h
  exact h.2

/-! ### Deadlocks -/

section

variable (s : Hw)

/-- Queues are kept where a tile keeps them. -/
theorem Hw.getQueue_setTile {s : Hw} {i : Nat} {x : Tile} (h : x.queues = (s.getTile i).queues) (k q : Nat) :
    (s.setTile i x).getQueue k q = s.getQueue k q := by
  unfold Hw.getQueue Tile.queue
  rw [Hw.getTile_setTile]
  split
  next heq => rw [h, heq]
  next => rfl

theorem Hw.getQueue_setCtxOf (n : Nat) (c : StreamCtx) (k q : Nat) : (s.setCtxOf n c).getQueue k q = s.getQueue k q := by
  unfold Hw.setCtxOf
  split
  next t _ => exact Hw.getQueue_setTile (x := { s.getTile t with fs := (s.getTile t).fs.setCtx n c }) rfl k q
  next => simp only; split <;> rfl

/-- R246: a fault leaves the queues as they are. -/
theorem Hw.getQueue_faultStream (n cause k q : Nat) : (s.faultStream n cause).getQueue k q = s.getQueue k q := by
  unfold Hw.faultStream
  split
  · rfl
  · simp only
    refine Eq.trans ?_ (s.getQueue_setCtxOf n { s.ctxOf n with flight := (s.ctxOf n).flight.filter (fun f => f.stage == .completed) } k q)
    generalize s.setCtxOf n { s.ctxOf n with flight := (s.ctxOf n).flight.filter (fun f => f.stage == .completed) } = u
    split
    next t _ => exact Hw.getQueue_setTile (x := { u.getTile t with blocks := (u.getTile t).blocks.filter (fun b => b.stream != n) }) rfl k q
    next => rfl

/-- R255: the streams of queues of a tile fault. -/
def Hw.faultQueues (s : Hw) (k : Nat) (qs : List Nat) : Hw := qs.foldl (fun s q => s.faultStream (s.getQueue k q).bind.stream 1) s

theorem Hw.faultQueues_cons (k q : Nat) (qs : List Nat) :
    s.faultQueues k (q :: qs) = (s.faultStream (s.getQueue k q).bind.stream 1).faultQueues k qs := rfl

/-- Faults of queues' streams leave all that the fault of one leaves. -/
theorem Hw.faultQueues_kept (k : Nat) (qs : List Nat) : RegsKept [.STRM_STATE] s (s.faultQueues k qs) ∧ (s.faultQueues k qs).mem = s.mem ∧
    (s.faultQueues k qs).host = s.host := by
  induction qs generalizing s with
  | nil => exact ⟨.refl _ s, rfl, rfl⟩
  | cons q qs ih =>
    obtain ⟨hregs, hmem, hhost⟩ := s.faultStream_kept (s.getQueue k q).bind.stream 1
    obtain ⟨hregs', hmem', hhost'⟩ := ih (s.faultStream (s.getQueue k q).bind.stream 1)
    rw [s.faultQueues_cons]
    exact ⟨hregs.trans hregs', hmem'.trans hmem, hhost'.trans hhost⟩

/-- A stream that is faulted stays so. -/
theorem Hw.faultQueues_stays {s : Hw} {n : Nat} (k : Nat) (qs : List Nat) (h : s.flag F.STRM_STATE_FAULTED n = true) :
    (s.faultQueues k qs).flag F.STRM_STATE_FAULTED n = true := by
  induction qs generalizing s with
  | nil => exact h
  | cons q qs ih => exact ih (Hw.flag_faultStream_other _ 1 h)

theorem Hw.flag_faultQueues {k q : Nat} {qs : List Nat} (h : q ∈ qs) :
    (s.faultQueues k qs).flag F.STRM_STATE_FAULTED (s.getQueue k q).bind.stream = true := by
  induction qs generalizing s with
  | nil => cases h
  | cons p qs ih =>
    rw [s.faultQueues_cons]
    cases h with
    | head => exact Hw.faultQueues_stays k qs (Hw.flag_faultStream s _ 1)
    | tail _ h =>
      rw [← s.getQueue_faultStream (s.getQueue k p).bind.stream 1 k q]
      exact ih _ h

/-- R255: the state in which a deadlock's streams fault: the event is raised, and the counters have counted. -/
def Hw.deadlockCounted (s : Hw) (k : Nat) : Hw :=
  ((s.raise 0xB010 k (s.deadlockMask k) { kind := 1, unit := k }).bump F.STRM_DEADLOCKS_COUNT).bump F.TILE_DEADLOCKS_COUNT k

theorem Hw.deadlockCounted_spec (k : Nat) (hroom : EventRoom s) :
    Raises s (s.deadlockCounted k) 0xB010 k (s.deadlockMask k) ∧
    (s.deadlockCounted k).rd .STRM_DEADLOCKS 0 = satAdd (s.rd .STRM_DEADLOCKS 0) 1 ∧
    (s.deadlockCounted k).mem = s.mem ∧ ∀ q, (s.deadlockCounted k).getQueue k q = s.getQueue k q := by
  have hraised := Raises.of_raise hroom rfl 0xB010 k (s.deadlockMask k) { kind := 1, unit := k }
  have hrd := Hw.rd_raise s 0xB010 k (s.deadlockMask k) { kind := 1, unit := k } .STRM_DEADLOCKS 0 (by decide)
  have hmem := Hw.raise_mem s 0xB010 k (s.deadlockMask k) { kind := 1, unit := k }
  have hqueue := (Beside.of_raise s 0xB010 k (s.deadlockMask k) { kind := 1, unit := k }).getQueue k
  unfold Hw.deadlockCounted
  generalize s.raise 0xB010 k (s.deadlockMask k) { kind := 1, unit := k } = u at hraised hrd hmem hqueue ⊢
  have honly := ((RegsOnly.refl u).bump F.STRM_DEADLOCKS_COUNT 0 1).bump F.TILE_DEADLOCKS_COUNT k 1
  have hcount : ((u.bump F.STRM_DEADLOCKS_COUNT).bump F.TILE_DEADLOCKS_COUNT k).rd .STRM_DEADLOCKS 0 = satAdd (u.rd .STRM_DEADLOCKS 0) 1 := by
    rw [Hw.rd_bump_reg _ _ _ _ (by decide)]
    exact (Hw.rd_bump u F.STRM_DEADLOCKS_COUNT .STRM_DEADLOCKS 0 0 1).trans (if_pos ⟨rfl, rfl⟩)
  generalize (u.bump F.STRM_DEADLOCKS_COUNT).bump F.TILE_DEADLOCKS_COUNT k = v at honly hcount ⊢
  rw [honly] at hcount ⊢
  exact ⟨hraised, hcount.trans (by rw [hrd]), hmem, hqueue⟩

theorem Hw.deadlock_declared {s : Hw} {k : Nat} (h : s.deadlockMask k ≠ 0) :
    s.deadlock k = (s.deadlockCounted k).faultQueues k (bitList 4 (s.deadlockMask k)) := by
  unfold Hw.deadlock
  simp only [if_neg h]
  rfl

end

/-! ### The wait watchdog -/

/-- R256: what a watchdog that has reached its limit does. -/
theorem Hw.watchdog_expired {s : Hw} {n x : Nat} (hsel : s.watchedSel n = some x) (hlimit : s.fget F.STRM_WAIT_LIMIT_BEATS ≠ 0)
    (hwaited : s.fget F.STRM_WAIT_LIMIT_BEATS ≤ (s.getStream n).waitBeats) : s.watchdog n =
      if s.flag F.STRM_CTL_WDOG_FAULT n then (s.raise 0xB011 n x { stream := some n, job := some (s.jobOf n) }).faultStream n 2
      else (s.raise 0xB011 n x { stream := some n, job := some (s.jobOf n) }).modStream n (fun v => { v with waitBeats := 0 }) := by
  unfold Hw.watchdog
  simp only [hsel, hlimit, decide_false, Nat.not_lt.2 hwaited, Bool.or_self, Bool.false_eq_true, if_false]
  rfl

section

variable {s : State}

/-- QUEUE_FETCH_RETURN in the ring. -/
theorem Completes.queueFetch_ring {k : Fin 512} {q : Fin 4} {n c avail : Nat} (hn : n = (s.hw.getQueue k q).bind.stream)
    (hbound : (s.hw.getQueue k q).bound = true) (hissue : s.hw.mayIssue n = true) (hempty : (s.hw.getQueue k q).fetched = []) (hc : Clean s.hw)
    (hpos : (s.hw.ctxOn k n).pos = .ring c) (hlt : c < 2 ^ 32) (havail : avail = (s.hw.tail n + 2 ^ 32 - c) % 2 ^ 32) (hmax : avail ≤ 4096)
    (hcap : ∀ i < avail, s.hw.ringAddr n (c + i) + 64 ≤ s.hw.capacity) : Completes (.queueFetchReturn k q) s (fun t =>
      (t.getQueue k q).fetched = (List.range (min avail 256)).map (fun i => s.hw.ringWord n (c + i)) ∧ t.mem = s.hw.mem ∧ RegsKept [] s.hw t) := by
  refine .of_onHw _ (exec_queueFetchReturn k q s) ?_
  rw [Hw.fetchReturn_ring hn hbound hissue hempty hc hpos hlt havail hmax hcap]
  refine ⟨?_, rfl, .of_regs rfl⟩
  rw [Hw.getQueue_modQueue_self, hempty, List.nil_append]

variable {k : Fin 512} {q : Fin 4} {n sl rid i : Nat} (hn : n = (s.hw.getQueue k q).bind.stream)
  (hbound : (s.hw.getQueue k q).bound = true) (hissue : s.hw.mayIssue n = true) (hempty : (s.hw.getQueue k q).fetched = [])
  (hpos : (s.hw.ctxOn k n).pos = .slot sl rid i)
include hn hbound hissue hempty hpos

/-- QUEUE_FETCH_RETURN inside a routine. -/
theorem Completes.queueFetch_slot (hrid : Sparse.get 0 (s.hw.getPhys (s.hw.physOf k)).rid sl = rid) (hi : i < 16)
    (hdross : (s.hw.getPhys (s.hw.physOf k)).rtnDross = []) : Completes (.queueFetchReturn k q) s (fun t =>
      (t.getQueue k q).fetched = ((List.range 16).filter (fun j => i ≤ j)).map ((s.hw.getPhys (s.hw.physOf k)).rtnWord sl) ∧
      t.mem = s.hw.mem ∧ RegsKept [] s.hw t) := by
  refine .of_onHw _ (exec_queueFetchReturn k q s) ?_
  obtain ⟨d, hfetch⟩ := Hw.fetchReturn_slot hn hbound hissue hempty hpos hrid hi hdross
  rw [hfetch]
  refine ⟨?_, rfl, .of_regs rfl⟩
  rw [Hw.getQueue_modQueue_self, hempty, List.nil_append]

/-- QUEUE_FETCH_RETURN for a slot that holds another RID. -/
theorem Completes.queueFetch_stale (hrid : Sparse.get 0 (s.hw.getPhys (s.hw.physOf k)).rid sl ≠ rid) (hroom : EventRoom s.hw) :
    Completes (.queueFetchReturn k q) s (fun t => t.flag F.STRM_STATE_FAULTED n = true ∧ t.fget F.STRM_STATE_CAUSE n = 5 ∧
      Raises s.hw t 0xB043 n (pack2 sl (Sparse.get 0 (s.hw.getPhys (s.hw.physOf k)).rid sl))) := by
  refine .of_onHw _ (exec_queueFetchReturn k q s) ?_
  rw [Hw.fetchReturn_stale hn hbound hissue hempty hpos hrid]
  refine ⟨?_, ?_, Hw.faultStream_raise_raises hroom _ _ _ _ _ _⟩
  · rw [Hw.flag_raise _ _ _ _ _ F.STRM_STATE_FAULTED]
    exact Hw.flag_faultStream _ _ _
  · rw [Hw.fget_raise _ _ _ _ _ F.STRM_STATE_CAUSE]
    exact Hw.cause_faultStream _ _ (Hw.not_faulted_of_mayIssue hissue) (by decide)

end

/-- DEADLOCK_DETECTED. -/
theorem Completes.deadlock {s : State} {k : Fin 512} (hmask : s.hw.deadlockMask k ≠ 0) (hroom : EventRoom s.hw) :
    Completes (.deadlockDetected k) s (fun t =>
      Raises s.hw t 0xB010 k (s.hw.deadlockMask k) ∧ t.rd .STRM_DEADLOCKS 0 = satAdd (s.hw.rd .STRM_DEADLOCKS 0) 1 ∧
      (∀ q < 4, bit (s.hw.deadlockMask k) q = true → t.flag F.STRM_STATE_FAULTED (s.hw.getQueue k q).bind.stream = true) ∧ t.mem = s.hw.mem) := by
  refine .of_onHw _ (exec_deadlockDetected k s) ?_
  rw [Hw.deadlock_declared hmask]
  obtain ⟨hraised, hcount, hmem, hqueue⟩ := s.hw.deadlockCounted_spec k hroom
  generalize s.hw.deadlockCounted k = u at hraised hqueue hcount hmem ⊢
  obtain ⟨hregs, hkept, hhost⟩ := u.faultQueues_kept k (bitList 4 (s.hw.deadlockMask k))
  refine ⟨?_, (hregs _ _ (by decide)).trans hcount, fun q hq hbit => ?_, hkept.trans hmem⟩
  · unfold Raises
    rw [hhost]
    exact hraised
  · rw [← hqueue q]
    exact u.flag_faultQueues (List.mem_filter.2 ⟨List.mem_range.2 hq, hbit⟩)

/-- WAIT_WATCHDOG_EXPIRED. -/
theorem Completes.watchdog {s : State} {n : BitVec 16} {x : Nat} (hsel : s.hw.watchedSel n.toNat = some x)
    (hlimit : s.hw.fget F.STRM_WAIT_LIMIT_BEATS ≠ 0) (hwaited : s.hw.fget F.STRM_WAIT_LIMIT_BEATS ≤ (s.hw.getStream n.toNat).waitBeats)
    (hroom : EventRoom s.hw) : Completes (.waitWatchdogExpired n) s (fun t => Raises s.hw t 0xB011 n.toNat x ∧ t.mem = s.hw.mem ∧
      (s.hw.flag F.STRM_CTL_WDOG_FAULT n.toNat = true → t.flag F.STRM_STATE_FAULTED n.toNat = true) ∧
      (s.hw.flag F.STRM_CTL_WDOG_FAULT n.toNat = false → (t.getStream n.toNat).waitBeats = 0 ∧ RegsKeptEv [] s.hw t)) := by
  refine .of_onHw _ (exec_waitWatchdogExpired n s) ?_
  rw [Hw.watchdog_expired hsel hlimit hwaited]
  have hraised := Raises.of_raise hroom rfl 0xB011 n.toNat x { stream := some n.toNat, job := some (s.hw.jobOf n.toNat) }
  have hregs := RegsKeptEv.raise (l := []) (.refl _ s.hw) 0xB011 n.toNat x { stream := some n.toNat, job := some (s.hw.jobOf n.toNat) }
  have hmem := Hw.raise_mem s.hw 0xB011 n.toNat x { stream := some n.toNat, job := some (s.hw.jobOf n.toNat) }
  generalize s.hw.raise 0xB011 n.toNat x { stream := some n.toNat, job := some (s.hw.jobOf n.toNat) } = u at hraised hregs hmem ⊢
  cases hfault : s.hw.flag F.STRM_CTL_WDOG_FAULT n.toNat with
  | true =>
    obtain ⟨-, hkept, hhost⟩ := u.faultStream_kept n.toNat 2
    refine ⟨?_, hkept.trans hmem, fun _ => Hw.flag_faultStream _ _ _, fun hf => absurd hf (Ne.symm Bool.false_ne_true)⟩
    unfold Raises
    exact hhost ▸ hraised
  | false =>
    refine ⟨hraised, hmem, fun hf => absurd hf Bool.false_ne_true, fun _ => ⟨?_, hregs⟩⟩
    exact congrArg StreamSt.waitBeats (Sparse.get_put_self _ _ _ _)

/-- Settles O22: a fetch over memory without an error is a list of the ring's words, and faults of streams leave one another's. -/
theorem queueWatch : Obligations.QueueWatch := by
  unfold Obligations.QueueWatch
  intro s
  refine ⟨fun k q n hn hbound hissue hempty => ⟨fun c avail hpos hlt havail hmax hcap hsyn hoff => ?_, fun sl rid i hpos => ⟨?_, ?_⟩⟩,
    fun k hmask hroom => .deadlock hmask hroom, fun n x hsel hlimit hwaited hroom => .watchdog hsel hlimit hwaited hroom⟩
  · exact .queueFetch_ring hn hbound hissue hempty ⟨hsyn, hoff⟩ hpos hlt havail hmax hcap
  · exact fun hrid hi hdross => .queueFetch_slot hn hbound hissue hempty hpos hrid hi hdross
  · exact fun hrid hroom => .queueFetch_stale hn hbound hissue hempty hpos hrid hroom

end Sys2Proof.Machine
end

section
/-!
PROOFS. The routine store: loads that start, images that arrive, and what they leave in a slot (R257 to R259).
-/
namespace Sys2Proof.Machine

theorem exec_routineLoad (k : Fin 512) (s : State) : exec (.routineLoad k) s = s.onHw (fun h => h.routineLoad k.val) := rfl
theorem exec_routineBcastLoad (s : State) : exec .routineBcastLoad s = s.onHw Hw.routineBcast := rfl
theorem exec_routineImageArrived (k : Fin 512) (i : BitVec 8) (s : State) :
    exec (.routineImageArrived k i) s = s.onHw (fun h => h.routineArrived k.val i.toNat) := rfl

/-! ### Loads that start -/

/-- R258: the load that a tile's registers describe. -/
def Hw.loadOfTile (s : Hw) (t : Nat) : RtnLoad :=
  { slot := s.fget F.TILE_RTN_LOAD_SLOT_SLOT t, rid := s.fget F.TILE_RTN_LOAD_SLOT_RID t,
    src := s.rd64 .TILE_RTN_LOAD_SRC_LO .TILE_RTN_LOAD_SRC_HI t % 2 ^ 40, bcast := false, words := [], dross := [] }

/-- R258: the load that the registers of the broadcast describe. -/
def Hw.loadOfBcast (s : Hw) : RtnLoad :=
  { slot := s.fget F.STRM_RTN_BCAST_SLOT_SLOT, rid := s.fget F.STRM_RTN_BCAST_SLOT_RID,
    src := s.rd64 .STRM_RTN_BCAST_SRC_LO .STRM_RTN_BCAST_SRC_HI % 2 ^ 40, bcast := true, words := [], dross := [] }

/-- R258: a load is outstanding on a physical tile. -/
def Hw.addLoad (s : Hw) (r : RtnLoad) (t : Nat) : Hw := s.modPhys (s.physOf t) (fun x => { x with loads := x.loads ++ [r] })

section

variable {s : Hw}

theorem Hw.routineLoad_starts {t : Nat} (hlive : s.regsLive = true) (hgo : s.flag F.TILE_RTN_LOAD_CTL_GO t = false) : s.routineLoad t =
    ((s.fset F.TILE_RTN_LOAD_CTL_GO 1 t).fset F.TILE_RTN_LOAD_CTL_RESULT 0 t).addLoad (s.loadOfTile t) t := by
  unfold Hw.routineLoad
  simp only [hlive, hgo, Bool.not_true, Bool.or_self, Bool.false_eq_true, if_false]
  rfl

theorem Hw.routineBcast_starts (hlive : s.regsLive = true) (hgo : s.flag F.STRM_RTN_BCAST_CTL_GO = false)
    (hsome : ∃ k < 512, s.admitted k = true) :
    s.routineBcast = ((List.range 512).filter s.admitted).foldl (fun u t => u.addLoad s.loadOfBcast t) (s.fset F.STRM_RTN_BCAST_CTL_GO 1) := by
  obtain ⟨k, hk, hadmitted⟩ := hsome
  have hne : ((List.range 512).filter s.admitted).isEmpty = false :=
    List.isEmpty_eq_false_iff_exists_mem.2 ⟨k, List.mem_filter.2 ⟨List.mem_range.2 hk, hadmitted⟩⟩
  unfold Hw.routineBcast
  simp only [hlive, hgo, hne, Bool.not_true, Bool.or_self, Bool.false_eq_true, if_false]
  rfl

/-- A load that is outstanding on a tile stays so when others start. -/
theorem Hw.mem_loads_addLoad {r x : RtnLoad} {p : Nat} (t : Nat) (h : r ∈ (s.getPhys p).loads) : r ∈ ((s.addLoad x t).getPhys p).loads := by
  unfold Hw.addLoad Hw.modPhys
  rw [Hw.getPhys_setPhys]
  split
  next heq =>
    rw [← heq] at h
    exact List.mem_append_left _ h
  next => exact h

/-- R258: a load that starts on tiles is outstanding on each, and changes neither registers nor memory nor which tile stands where. -/
theorem Hw.foldl_addLoad (r : RtnLoad) (ts : List Nat) (u : Hw) :
    (∀ x p, x ∈ (u.getPhys p).loads → x ∈ ((ts.foldl (fun v t => v.addLoad r t) u).getPhys p).loads) ∧
    (∀ t ∈ ts, r ∈ ((ts.foldl (fun v t => v.addLoad r t) u).getPhys (u.physOf t)).loads) ∧
    (ts.foldl (fun v t => v.addLoad r t) u).regs = u.regs ∧ (ts.foldl (fun v t => v.addLoad r t) u).mem = u.mem := by
  induction ts generalizing u with
  | nil => exact ⟨fun _ _ h => h, fun _ h => absurd h List.not_mem_nil, rfl, rfl⟩
  | cons a ts ih =>
    obtain ⟨hstay, hall, hregs, hmem⟩ := ih (u.addLoad r a)
    refine ⟨fun x p h => hstay x p (Hw.mem_loads_addLoad a h), fun t ht => ?_, hregs, hmem⟩
    cases ht with
    | head =>
      refine hstay r _ ?_
      unfold Hw.addLoad
      rw [Hw.getPhys_modPhys_self]
      exact List.mem_append_right _ (List.mem_singleton.2 rfl)
    | tail _ ht => exact hall t ht

/-! ### The commands of an image -/

/-- A stretch of a run of bytes is a run of bytes. -/
theorem Hw.peekRun_stretch (s : Hw) {a n i m : Nat} (h : i + m ≤ n) : ((s.peekRun a n).drop i).take m = s.peekRun (a + i) m := by
  unfold Hw.peekRun
  refine List.ext_getElem (by simp; omega) fun j h1 h2 => ?_
  simp [Nat.add_assoc]

/-- R257: a command of an image is 64 of its bytes. -/
theorem nth_imageWords : ∀ {n j : Nat} (bs : List Byte), j < n →
    nth 0 (imageWords n bs) j = BitVec.ofNat 512 (ofBytes ((bs.drop (64 * j)).take 64))
  | n + 1, 0, bs, _ => rfl
  | n + 1, j + 1, bs, h => by
    have hdrop : 64 * (j + 1) = 64 + 64 * j := by omega
    rw [hdrop, ← List.drop_drop]
    exact nth_imageWords (bs.drop 64) (Nat.lt_of_succ_lt_succ h)

/-- R257, R258: an image as it arrives from memory. -/
def Hw.arrivedLoad (s : Hw) (r : RtnLoad) : RtnLoad := { r with words := imageWords 16 (s.peekRun r.src 1024), dross := s.imageCodes r.src }

theorem Hw.nth_arrivedLoad (s : Hw) (r : RtnLoad) {j : Nat} (hj : j < 16) :
    nth 0 (s.arrivedLoad r).words j = BitVec.ofNat 512 (ofBytes (s.peekRun (r.src + 64 * j) 64)) := by
  unfold Hw.arrivedLoad
  rw [nth_imageWords _ hj, s.peekRun_stretch (by omega)]

/-! ### A slot of the routine store -/

/-- What is put at places apart from one leaves it. -/
theorem Sparse.get_foldl_put_apart {α : Type} [DecidableEq α] (d : α) (f : Nat → Nat) (g : Nat → α) (m : Sparse α) {a : Nat} (l : List Nat)
    (h : ∀ i ∈ l, f i ≠ a) : Sparse.get d (l.foldl (fun m i => Sparse.put d m (f i) (g i)) m) a = Sparse.get d m a := by
  induction l generalizing m with
  | nil => rfl
  | cons i l ih =>
    refine (ih _ (fun j hj => h j (List.mem_cons_of_mem i hj))).trans ?_
    exact Sparse.get_put_ne d m _ (h i List.mem_cons_self)

/-- What is put at places apart from one another stands there. -/
theorem Sparse.get_foldl_put {α : Type} [DecidableEq α] (d : α) {f : Nat → Nat} (hf : Function.Injective f) (g : Nat → α) (m : Sparse α)
    {l : List Nat} {j : Nat} (h : j ∈ l) : Sparse.get d (l.foldl (fun m i => Sparse.put d m (f i) (g i)) m) (f j) = g j := by
  induction l generalizing m with
  | nil => cases h
  | cons i l ih =>
    by_cases hj : j ∈ l
    · exact ih _ hj
    · have hij : j = i := (List.mem_cons.1 h).resolve_right hj
      have hapart : ∀ x ∈ l, f x ≠ f j := fun x hx heq => hj (hf heq ▸ hx)
      refine (Sparse.get_foldl_put_apart d f g _ l hapart).trans ?_
      rw [hij]
      exact Sparse.get_put_self _ _ _ _

/-- R257, R258: a routine store with an image installed. -/
def Phys.installed (x : Phys) (r : RtnLoad) : Phys :=
  { x with
    rtn := (List.range 16).foldl (fun m i => Sparse.put 0 m (r.slot * 16 + i) (nth 0 r.words i)) x.rtn,
    rtnDross := (List.range 16).foldl (fun m i => Sparse.put 0 m (r.slot * 16 + i) (nth 0 r.dross i)) x.rtnDross,
    rid := Sparse.put 0 x.rid r.slot r.rid,
    gen := Sparse.put 0 x.gen r.slot ((Sparse.get 0 x.gen r.slot + 1) % 0x1_0000) }

theorem Phys.installed_rid (x : Phys) (r : RtnLoad) : Sparse.get 0 (x.installed r).rid r.slot = r.rid := Sparse.get_put_self _ _ _ _

theorem Phys.installed_gen (x : Phys) (r : RtnLoad) : Sparse.get 0 (x.installed r).gen r.slot = (Sparse.get 0 x.gen r.slot + 1) % 2 ^ 16 :=
  Sparse.get_put_self _ _ _ _

theorem Phys.installed_rtnWord (x : Phys) (r : RtnLoad) {j : Nat} (hj : j < 16) : (x.installed r).rtnWord r.slot j = nth 0 r.words j :=
  Sparse.get_foldl_put 0 (fun _ _ h => Nat.add_left_cancel h) (nth 0 r.words) x.rtn (List.mem_range.2 hj)

theorem Hw.installRoutine_eq (s : Hw) (t : Nat) (r : RtnLoad) : s.installRoutine t r =
    (s.modPhys (s.physOf t) (·.installed r)).raise 0xB040 t (pack2 r.slot r.rid) { kind := 1, unit := t } := rfl

/-! ### The outcome of a load -/

/-- R259: the outcome of a load is shown in registers. -/
theorem Hw.loadResult_regsOnly (s : Hw) (t : Nat) (b : Bool) (x : Nat) : RegsOnly s (s.loadResult t b x) := by
  unfold Hw.loadResult
  split
  · split
    · exact .refl s
    · exact (RegsOnly.refl s).fset _ _ _
  · exact ((RegsOnly.refl s).fset _ _ _).fset _ _ _

theorem Hw.go_loadResult (s : Hw) (t x : Nat) : (s.loadResult t false x).flag F.TILE_RTN_LOAD_CTL_GO t = false :=
  (Hw.flag_fset_self (s.fset F.TILE_RTN_LOAD_CTL_RESULT x t) F.TILE_RTN_LOAD_CTL_GO 0 t).trans rfl

theorem Hw.result_loadResult (s : Hw) (t : Nat) {x : Nat} (h : x < 4) : (s.loadResult t false x).fget F.TILE_RTN_LOAD_CTL_RESULT t = x :=
  (Hw.fget_fset_apart _ F.TILE_RTN_LOAD_CTL_GO F.TILE_RTN_LOAD_CTL_RESULT 0 t t (by decide) (by decide)).trans
    ((Hw.fget_fset_self s F.TILE_RTN_LOAD_CTL_RESULT x t).trans (Nat.mod_eq_of_lt h))

/-! ### An image that arrives -/

/-- R258: the loads of a tile but the one at a place. -/
def Phys.withoutLoad (x : Phys) (i : Nat) : Phys := { x with loads := x.loads.eraseIdx i }

/-- R258: an image that arrives from memory without an error. -/
theorem Hw.routineArrived_clean (hc : Clean s) {t i : Nat} {r : RtnLoad} (hload : (s.getPhys (s.physOf t)).loads[i]? = some r)
    (hcap : r.src + 1024 ≤ s.capacity) :
    s.routineArrived t i = (s.modPhys (s.physOf t) (·.withoutLoad i)).imageIn t (s.arrivedLoad r) := by
  unfold Hw.routineArrived
  simp only [hload, Hw.fetchGddr_mapped hcap, hc.2, Hw.accountRun_clean hc.1, Option.isSome_none, Bool.false_eq_true, if_false,
    List.isEmpty_nil, Bool.or_true, if_true, List.foldl_nil]
  rfl

/-- R258: an image for a slot that no queue is inside, with no other held for it. -/
theorem Hw.imageIn_free {t : Nat} {r : RtnLoad} (hin : s.inside t r.slot = false) (hheld : ∀ x ∈ (s.getPhys (s.physOf t)).held, x.slot ≠ r.slot) :
    ∃ v : Hw, s.imageIn t r = (v.installRoutine t r).loadResult t r.bcast 1 ∧ v.physOf t = s.physOf t ∧
      v.getPhys (s.physOf t) = s.getPhys (s.physOf t) ∧ v.host = s.host ∧ v.mem = s.mem := by
  have hall : (s.getPhys (s.physOf t)).held.filter (fun h => h.slot != r.slot) = (s.getPhys (s.physOf t)).held :=
    List.filter_eq_self.2 fun x hx => bne_iff_ne.2 (hheld x hx)
  unfold Hw.imageIn
  simp only [hall, hin, lt_irrefl, decide_false, Bool.not_false, if_true, Bool.false_eq_true, if_false]
  exact ⟨s.setPhys (s.physOf t) (s.getPhys (s.physOf t)), rfl, rfl, Hw.getPhys_setPhys_self _ _ _, rfl, rfl⟩

/-- R258: a tile with other loads held. -/
def Phys.holding (x : Phys) (l : List RtnLoad) : Phys := { x with held := l }

/-- R258: an image for a slot that a queue is inside is held, in place of another or beside those held. -/
theorem Hw.imageIn_inside {t : Nat} {r : RtnLoad} (hin : s.inside t r.slot = true) (hroom : (s.getPhys (s.physOf t)).held.length < 4) :
    ∃ (u : Hw) (l : List RtnLoad), s.imageIn t r = u.loadResult t r.bcast 2 ∧ r ∈ l ∧ u.mem = s.mem ∧
      u.phys = (s.modPhys (s.physOf t) (·.holding l)).phys := by
  have hlast : ∀ l : List RtnLoad, r ∈ l ++ [r] := fun l => List.mem_append_right l (List.mem_singleton.2 rfl)
  unfold Hw.imageIn
  simp only [hin, Bool.not_true, Bool.false_eq_true, if_false]
  split
  · exact ⟨_, _, rfl, hlast ((s.getPhys (s.physOf t)).held.filter (fun h => h.slot != r.slot)), Hw.raise_mem _ _ _ _ _, Hw.raise_phys _ _ _ _ _⟩
  · rw [if_neg (Nat.not_le.2 hroom)]
    exact ⟨_, _, rfl, hlast (s.getPhys (s.physOf t)).held, rfl, rfl⟩

/-- R258: an installed image: its slot, its event, and memory. -/
theorem Hw.installed_spec (hroom : EventRoom s) (t : Nat) (r : RtnLoad) (b : Bool) (x : Nat) :
    ((s.installRoutine t r).loadResult t b x).getPhys (s.physOf t) = (s.getPhys (s.physOf t)).installed r ∧
    Raises s ((s.installRoutine t r).loadResult t b x) 0xB040 t (pack2 r.slot r.rid) ∧
    ((s.installRoutine t r).loadResult t b x).mem = s.mem := by
  have hput := Hw.getPhys_modPhys_self s (s.physOf t) (·.installed r)
  have hmod : (s.modPhys (s.physOf t) (·.installed r)).host = s.host ∧ (s.modPhys (s.physOf t) (·.installed r)).mem = s.mem := ⟨rfl, rfl⟩
  have honly := (s.installRoutine t r).loadResult_regsOnly t b x
  rw [Hw.installRoutine_eq] at honly ⊢
  generalize s.modPhys (s.physOf t) (·.installed r) = u at hput hmod honly ⊢
  have hraised := Raises.of_raise (t := u) hroom (by rw [hmod.1]) 0xB040 t (pack2 r.slot r.rid) { kind := 1, unit := t }
  have hkept := Hw.raise_mem u 0xB040 t (pack2 r.slot r.rid) { kind := 1, unit := t }
  have hphys := Hw.raise_phys u 0xB040 t (pack2 r.slot r.rid) { kind := 1, unit := t }
  generalize u.raise 0xB040 t (pack2 r.slot r.rid) { kind := 1, unit := t } = v at hraised hkept hphys honly ⊢
  rw [honly]
  exact ⟨(congrArg (Sparse.get Phys.reset · (s.physOf t)) hphys).trans hput, hraised, hkept.trans hmod.2⟩

end

section

variable {s : State}

/-- ROUTINE_LOAD. -/
theorem Completes.routineLoad {k : Fin 512} (hlive : s.hw.regsLive = true) (hgo : s.hw.flag F.TILE_RTN_LOAD_CTL_GO k = false) :
    Completes (.routineLoad k) s (fun t => t.flag F.TILE_RTN_LOAD_CTL_GO k = true ∧ t.fget F.TILE_RTN_LOAD_CTL_RESULT k = 0 ∧
      (t.getPhys (s.hw.physOf k)).loads = (s.hw.getPhys (s.hw.physOf k)).loads ++ [s.hw.loadOfTile k] ∧
      RegsKept [.TILE_RTN_LOAD_CTL] s.hw t ∧ t.mem = s.hw.mem) := by
  refine .of_onHw _ (exec_routineLoad k s) ?_
  rw [Hw.routineLoad_starts hlive hgo]
  refine ⟨?_, ?_, ?_, ?_, rfl⟩
  · refine (Hw.flag_fset_apart _ F.TILE_RTN_LOAD_CTL_RESULT F.TILE_RTN_LOAD_CTL_GO 0 k k (by decide) (by decide)).trans ?_
    exact (Hw.flag_fset_self s.hw F.TILE_RTN_LOAD_CTL_GO 1 k).trans rfl
  · exact (Hw.fget_fset_self _ F.TILE_RTN_LOAD_CTL_RESULT 0 k).trans rfl
  · exact congrArg Phys.loads (Hw.getPhys_modPhys_self _ _ _)
  · exact ((RegsKept.refl _ s.hw).fset F.TILE_RTN_LOAD_CTL_GO 1 k (by decide)).fset F.TILE_RTN_LOAD_CTL_RESULT 0 k (by decide)

/-- ROUTINE_BCAST_LOAD. -/
theorem Completes.routineBcast (hlive : s.hw.regsLive = true) (hgo : s.hw.flag F.STRM_RTN_BCAST_CTL_GO = false)
    (hsome : ∃ k < 512, s.hw.admitted k = true) : Completes .routineBcastLoad s (fun t =>
      t.flag F.STRM_RTN_BCAST_CTL_GO = true ∧ RegsKept [.STRM_RTN_BCAST_CTL] s.hw t ∧ t.mem = s.hw.mem ∧
      ∀ k < 512, s.hw.admitted k = true → s.hw.loadOfBcast ∈ (t.getPhys (s.hw.physOf k)).loads) := by
  refine .of_onHw _ (exec_routineBcastLoad s) ?_
  rw [Hw.routineBcast_starts hlive hgo hsome]
  obtain ⟨-, hall, hregs, hmem⟩ := Hw.foldl_addLoad s.hw.loadOfBcast ((List.range 512).filter s.hw.admitted) (s.hw.fset F.STRM_RTN_BCAST_CTL_GO 1)
  refine ⟨?_, ?_, hmem, fun k hk hadmitted => hall k (List.mem_filter.2 ⟨List.mem_range.2 hk, hadmitted⟩)⟩
  · exact (Hw.flag_congr hregs _ _).trans ((Hw.flag_fset_self s.hw F.STRM_RTN_BCAST_CTL_GO 1 0).trans rfl)
  · exact ((RegsKept.refl _ s.hw).fset F.STRM_RTN_BCAST_CTL_GO 1 0 (by decide)).trans (.of_regs hregs)

variable {k : Fin 512} {i : BitVec 8} {r : RtnLoad} (hload : (s.hw.getPhys (s.hw.physOf k)).loads[i.toNat]? = some r)
  (hcap : r.src + 1024 ≤ s.hw.capacity) (hc : Clean s.hw)
include hload hcap hc

/-- ROUTINE_IMAGE_ARRIVED for a slot that no queue is inside. -/
theorem Completes.image_installed (hin : s.hw.inside k r.slot = false) (hroom : EventRoom s.hw)
    (hheld : ∀ x ∈ (s.hw.getPhys (s.hw.physOf k)).held, x.slot ≠ r.slot) : Completes (.routineImageArrived k i) s (fun t =>
      Sparse.get 0 (t.getPhys (s.hw.physOf k)).rid r.slot = r.rid ∧
      Sparse.get 0 (t.getPhys (s.hw.physOf k)).gen r.slot = (Sparse.get 0 (s.hw.getPhys (s.hw.physOf k)).gen r.slot + 1) % 2 ^ 16 ∧
      (∀ j < 16, (t.getPhys (s.hw.physOf k)).rtnWord r.slot j = BitVec.ofNat 512 (ofBytes (s.hw.peekRun (r.src + 64 * j) 64))) ∧
      Raises s.hw t 0xB040 k (pack2 r.slot r.rid) ∧ t.mem = s.hw.mem ∧
      (r.bcast = false → t.flag F.TILE_RTN_LOAD_CTL_GO k = false ∧ t.fget F.TILE_RTN_LOAD_CTL_RESULT k = 1)) := by
  refine .of_onHw _ (exec_routineImageArrived k i s) ?_
  rw [Hw.routineArrived_clean hc hload hcap]
  have hless := Hw.getPhys_modPhys_self s.hw (s.hw.physOf k) (·.withoutLoad i.toNat)
  have hmod : (s.hw.modPhys (s.hw.physOf k) (·.withoutLoad i.toNat)).physOf k = s.hw.physOf k ∧
    (s.hw.modPhys (s.hw.physOf k) (·.withoutLoad i.toNat)).inside k (s.hw.arrivedLoad r).slot = s.hw.inside k r.slot ∧
    (s.hw.modPhys (s.hw.physOf k) (·.withoutLoad i.toNat)).host = s.hw.host ∧
    (s.hw.modPhys (s.hw.physOf k) (·.withoutLoad i.toNat)).mem = s.hw.mem := ⟨rfl, rfl, rfl, rfl⟩
  generalize s.hw.modPhys (s.hw.physOf k) (·.withoutLoad i.toNat) = u at hless hmod ⊢
  obtain ⟨hphysOf, hinside, hhost, hkept⟩ := hmod
  obtain ⟨v, himage, hphysOf', hsame, hhost', hkept'⟩ := Hw.imageIn_free (hinside.trans hin) (by rw [hphysOf, hless]; exact hheld)
  have hwaiting : v.host = s.hw.host := hhost'.trans hhost
  have hroom' : EventRoom v := by
    unfold EventRoom
    rw [hwaiting]
    exact hroom
  obtain ⟨hphys, hraised, hmem⟩ := Hw.installed_spec hroom' k (s.hw.arrivedLoad r) r.bcast 1
  rw [hphysOf] at hsame
  rw [hphysOf'.trans hphysOf, hsame, hless] at hphys
  rw [himage]
  refine ⟨?_, ?_, fun j hj => ?_, ?_, hmem.trans (hkept'.trans hkept), fun hb => ?_⟩
  · exact (congrArg (fun x : Phys => Sparse.get 0 x.rid r.slot) hphys).trans (Phys.installed_rid _ (s.hw.arrivedLoad r))
  · exact (congrArg (fun x : Phys => Sparse.get 0 x.gen r.slot) hphys).trans (Phys.installed_gen _ (s.hw.arrivedLoad r))
  · rw [← s.hw.nth_arrivedLoad r hj]
    exact (congrArg (fun x : Phys => x.rtnWord r.slot j) hphys).trans (Phys.installed_rtnWord _ (s.hw.arrivedLoad r) hj)
  · unfold Raises
    rw [← hwaiting]
    exact hraised
  · rw [show (s.hw.arrivedLoad r).bcast = false from hb]
    exact ⟨Hw.go_loadResult _ _ _, Hw.result_loadResult _ _ (by decide)⟩

/-- ROUTINE_IMAGE_ARRIVED for a slot that a queue is inside. -/
theorem Completes.image_held (hin : s.hw.inside k r.slot = true) (hroom : (s.hw.getPhys (s.hw.physOf k)).held.length < 4) :
    Completes (.routineImageArrived k i) s (fun t => (∃ x ∈ (t.getPhys (s.hw.physOf k)).held, x.slot = r.slot ∧ x.rid = r.rid) ∧
      (r.bcast = false → t.fget F.TILE_RTN_LOAD_CTL_RESULT k = 2) ∧ t.mem = s.hw.mem) := by
  refine .of_onHw _ (exec_routineImageArrived k i s) ?_
  rw [Hw.routineArrived_clean hc hload hcap]
  obtain ⟨u, l, heq, hmem, hkept, hphys⟩ := Hw.imageIn_inside (s := s.hw.modPhys (s.hw.physOf k) (·.withoutLoad i.toNat)) (r := s.hw.arrivedLoad r) hin
    (by rw [show (s.hw.modPhys (s.hw.physOf k) (·.withoutLoad i.toNat)).physOf k = s.hw.physOf k from rfl, Hw.getPhys_modPhys_self]; exact hroom)
  have hheld : (u.getPhys (s.hw.physOf k)).held = l := by
    unfold Hw.getPhys
    rw [hphys]
    exact congrArg Phys.held (Hw.getPhys_modPhys_self _ _ _)
  have honly := u.loadResult_regsOnly k (s.hw.arrivedLoad r).bcast 2
  rw [heq]
  refine ⟨⟨s.hw.arrivedLoad r, ?_, rfl, rfl⟩, fun hb => ?_, ?_⟩
  · rw [honly]
    exact hheld ▸ hmem
  · rw [show (s.hw.arrivedLoad r).bcast = false from hb]
    exact Hw.result_loadResult _ _ (by decide)
  · rw [honly]
    exact hkept

end

/-- Settles O23: loads are appended tile by tile, and an image that arrives is put command by command at places apart. -/
theorem routineLoads : Obligations.RoutineLoads := by
  unfold Obligations.RoutineLoads
  intro s
  refine ⟨fun k hlive hgo => .routineLoad hlive hgo, fun hlive hgo hsome => (Completes.routineBcast hlive hgo hsome).mono ?_,
    fun k i r hload hcap hsyn hoff => ⟨?_, ?_⟩⟩
  · rintro t ⟨hset, hregs, hmem, hall⟩
    exact ⟨hset, hregs, hmem, fun k hk hadmitted => ⟨_, hall k hk hadmitted, rfl, rfl, rfl⟩⟩
  · exact fun hin hroom hheld => .image_installed hload hcap ⟨hsyn, hoff⟩ hin hroom hheld
  · exact fun hin hroom => .image_held hload hcap ⟨hsyn, hoff⟩ hin hroom

end Sys2Proof.Machine
end

section
/-!
PROOFS. Writes in two states that agree on memory and on all that the address map and the guards of a write depend on (R308, R353, R400, R446):
both come to the same memory.
-/
namespace Sys2Proof.Machine

/-! ### What a write of cells comes to -/

section

variable {s t : Hw}

namespace MapKept

theorem symm (h : MapKept s t) : MapKept t s :=
  ⟨fun r hr u => (h.regs r hr u).symm, h.mu.symm, h.chans.symm, h.flt.symm, h.manifest.symm, h.sec.symm⟩

theorem of_raiseOnce (s : Hw) (code key a0 a1 : Nat) (w : Who) : MapKept s (s.raiseOnce code key a0 a1 w) :=
  of_memWork (.of_raiseOnce s _ _ _ _ _) (Beside.of_raiseOnce s _ _ _ _ _).chans

theorem of_stageDrop (s : Hw) (a : Nat) : MapKept s (s.stageDrop a) :=
  ((refl s).bump F.PAT_STAGE_DROP_COUNT 0 1).trans (of_raiseOnce _ _ _ _ _ _)

theorem of_writeStep (r : Hw × Sparse Byte) (e : Nat × Byte) : MapKept r.1 (Hw.writeStep r e).1 := by
  unfold Hw.writeStep
  split
  · split
    · exact of_raiseOnce _ _ _ _ _ _
    · exact refl _
  · exact refl _
  · exact refl _
  · exact of_raiseOnce _ _ _ _ _ _

theorem flag (h : MapKept s t) (f : Fld) (u : Nat := 0) (hf : f.reg ∈ mapRegs := by decide) : t.flag f u = s.flag f u :=
  congrArg (· == 1) (h.fget f u hf)

end MapKept

/-- R446: the first cell that meets the lock. -/
def Hw.lockHit (s : Hw) (c : Sparse Byte) : Option Nat :=
  if s.flag F.PAT_STATUS_LOCKED || s.pat.sec.isSome then (List.find? (fun e => s.lockedAt e.1) c).map (·.1) else none

/-- R446: the cells that no lock stops. -/
def Hw.unlockedCells (s : Hw) (c : Sparse Byte) : Sparse Byte :=
  if (s.lockHit c).isSome then c.filter (fun e => !s.lockedAt e.1) else c

/-- R353, R400, R520: where a cell comes to lie, by memory key. -/
def Hw.landCell (s : Hw) (m : Sparse Byte) (e : Nat × Byte) : Sparse Byte :=
  match s.place e.1 with
  | .gddr a => if s.seedGuard a then m else Sparse.set m a e.2
  | .store k _ _ => Sparse.set m k e.2
  | _ => m

/-- The bytes that a write of cells puts into memory, by memory key. -/
def Hw.landing (s : Hw) (c : Sparse Byte) : Sparse Byte := (s.unlockedCells c).foldl s.landCell []

theorem MapKept.landing (h : MapKept s t) (c : Sparse Byte) : t.landing c = s.landing c := by
  have hhit : t.lockHit c = s.lockHit c := by
    unfold Hw.lockHit
    rw [h.flag F.PAT_STATUS_LOCKED, h.sec]
    simp only [h.lockedAt]
  have hcell : t.landCell = s.landCell := by
    funext m e
    unfold Hw.landCell
    rw [h.place]
    simp only [h.seedGuard]
  unfold Hw.landing Hw.unlockedCells
  rw [hhit, hcell]
  simp only [h.lockedAt]

/-- The steps of a write gather what lands, whatever events they raise. -/
theorem Hw.foldl_writeStep_cells (c : Sparse Byte) : ∀ {r : Hw × Sparse Byte}, MapKept s r.1 → (c.foldl Hw.writeStep r).2 = c.foldl s.landCell r.2 := by
  induction c with
  | nil => exact fun _ => rfl
  | cons e c ih =>
    intro r h
    have hstep : (Hw.writeStep r e).2 = s.landCell r.2 e := by
      unfold Hw.writeStep Hw.landCell
      rw [← h.place]
      cases r.1.place e.1 with
      | gddr a =>
        simp only [h.seedGuard]
        split <;> rfl
      | store k p o => rfl
      | offlined ch p => rfl
      | unmapped => rfl
    exact (ih (h.trans (.of_writeStep r e))).trans (by rw [hstep]; rfl)

/-- R336, R340: in memory without bit errors a merge meets nothing. -/
theorem Hw.mergeAtoms_good (hgood : s.mem.NoBitErrors) (gs : List (Nat × List (Nat × Byte))) :
    (s.mergeAtoms gs).1.mem = s.mem ∧ (s.mergeAtoms gs).2 = [] := by
  have hfold : ∀ (l : List Nat) (r : Hw × List Nat), r.1.mem = s.mem ∧ r.2 = [] →
      (l.foldl (Hw.mergeStep gs) r).1.mem = s.mem ∧ (l.foldl (Hw.mergeStep gs) r).2 = [] := fun l => by
    induction l with
    | nil => exact fun _ h => h
    | cons a l ih =>
      intro r h
      have hquiet : QuietWords (r.1.withSyn (r.1.mergeReads a gs)) := Mem.NoBitErrors.withSyn (by rw [h.1]; exact hgood) _
      refine ih _ ?_
      unfold Hw.mergeStep
      simp only [hquiet.uncorrectable, r.1.accountWords_quiet a 0x5011 hquiet, List.length_nil, if_true, Hw.bump_mem]
      exact h
  obtain ⟨l, hl⟩ := s.mergeAtoms_eq gs
  rw [hl]
  exact hfold l (s, []) ⟨rfl, rfl⟩

/-- R308: in memory without bit errors a write is that of the words of the bytes that land. -/
theorem Hw.writeAddrs_mem_good (hgood : s.mem.NoBitErrors) (c : Sparse Byte) :
    (s.writeAddrs c).mem = s.mem.writeWords (groupWords (s.landing c)) := by
  have hdrop : ∀ hit : Option Nat, (match hit with | some a => s.stageDrop a | none => s).mem = s.mem ∧
      MapKept s (match hit with | some a => s.stageDrop a | none => s) := fun hit => by
    cases hit with
    | none => exact ⟨rfl, .refl s⟩
    | some a => exact ⟨s.stageDrop_mem a, .of_stageDrop s a⟩
  obtain ⟨hmem0, hmap0⟩ := hdrop (s.lockHit c)
  have hsteps : ∀ (l : Sparse Byte) (r : Hw × Sparse Byte), (l.foldl Hw.writeStep r).1.mem = r.1.mem := fun l => by
    induction l with
    | nil => exact fun _ => rfl
    | cons e l ih =>
      intro r
      refine (ih _).trans ?_
      unfold Hw.writeStep
      split
      · split
        · exact Hw.raiseOnce_mem _ _ _ _ _ _
        · rfl
      · rfl
      · rfl
      · exact Hw.raiseOnce_mem _ _ _ _ _ _
  have hwrite : ∃ v : Hw, v.mem = s.mem ∧ (s.writeAddrs c).mem = (v.writeKeys (s.landing c)).mem := by
    unfold Hw.landing
    rw [← Hw.foldl_writeStep_cells (r := (_, [])) (s.unlockedCells c) hmap0]
    refine ⟨_, ?_, Hw.noteMirror_mem _ _⟩
    refine (Hw.foldl_mem (fun s (e : Nat × Nat) => s.offAccess e.1 e.2) (fun s e => Hw.offAccess_mem s e.1 e.2) _ _).trans ?_
    exact (hsteps _ _).trans hmem0
  obtain ⟨v, hv, hwrite⟩ := hwrite
  obtain ⟨hmem, hmarks⟩ := Hw.mergeAtoms_good (s := v) (by rw [hv]; exact hgood) (groupWords (s.landing c))
  rw [hwrite, Hw.writeKeys_mem_eq, hmem, hmarks, hv]
  rfl

end

/-! ### States that agree -/

/-- t agrees with s on memory, which has no bit errors, and on all that the address map and the guards of a write depend on. -/
structure Alike (s t : Hw) : Prop where
  map : MapKept s t
  mem : t.mem = s.mem
  good : s.mem.NoBitErrors

namespace Alike

variable {s t u v : Hw}

theorem good' (h : Alike s t) : t.mem.NoBitErrors := h.mem ▸ h.good

/-- Steps from states that agree lead to states that agree where they leave the map alone and come to the same memory. -/
theorem step (h : Alike s t) (hs : MapKept s u) (ht : MapKept t v) (hm : v.mem = u.mem) (hgood : u.mem.NoBitErrors) : Alike u v :=
  ⟨(hs.symm.trans h.map).trans ht, hm, hgood⟩

/-- Steps that leave memory alone too. -/
theorem still (h : Alike s t) (hs : MapKept s u) (ht : MapKept t v) (hu : u.mem = s.mem) (hv : v.mem = t.mem) : Alike u v :=
  h.step hs ht ((hv.trans h.mem).trans hu.symm) (hu ▸ h.good)

/-- Accesses of memory that come to the same memory. -/
theorem access (h : Alike s t) (hs : MemWork s u) (ht : MemWork t v) (hsq : Quiet s u) (htq : Quiet t v) (hm : v.mem = u.mem) : Alike u v := by
  obtain ⟨hgood, hchans⟩ := hsq h.good
  obtain ⟨-, hchans'⟩ := htq h.good'
  exact h.step (.of_memWork hs hchans) (.of_memWork ht hchans') hm hgood

theorem peek (h : Alike s t) : t.peek = s.peek := funext (h.map.peek h.mem)

theorem drossAt (h : Alike s t) : t.drossAt = s.drossAt := by
  funext a
  unfold Hw.drossAt
  rw [h.map.place, h.mem]

theorem writeAddrs (h : Alike s t) (c : Sparse Byte) : Alike (s.writeAddrs c) (t.writeAddrs c) := by
  refine h.access (.of_writeAddrs s c) (.of_writeAddrs t c) (.of_writeAddrs s c) (.of_writeAddrs t c) ?_
  rw [Hw.writeAddrs_mem_good h.good, Hw.writeAddrs_mem_good h.good', h.mem, h.map.landing]

theorem invertAtom (h : Alike s t) (a : Nat) : Alike (s.invertAtom a) (t.invertAtom a) := by
  refine h.access (.of_invertAtom s a) (.of_invertAtom t a) (.of_invertAtom s a) (.of_invertAtom t a) ?_
  unfold Hw.invertAtom
  rw [h.map.place]
  cases s.place a with
  | gddr k =>
    simp only [h.map.lockedAt, h.map.seedGuard]
    split
    · exact (Hw.stageDrop_mem _ _).trans (h.mem.trans (Hw.stageDrop_mem _ _).symm)
    · split
      · exact (Hw.raiseOnce_mem _ _ _ _ _ _).trans (h.mem.trans (Hw.raiseOnce_mem _ _ _ _ _ _).symm)
      · rw [Hw.noteMirror_mem, Hw.noteMirror_mem, h.mem]
  | store k p o => exact congrArg (Mem.markDross · k) h.mem
  | offlined ch p => exact h.mem
  | unmapped => exact h.mem

theorem foldl {α : Type} (f : Hw → α → Hw) (hf : ∀ {s t : Hw} (a : α), Alike s t → Alike (f s a) (f t a)) (l : List α) :
    ∀ {s t : Hw}, Alike s t → Alike (l.foldl f s) (l.foldl f t) := by
  induction l with
  | nil => exact id
  | cons a l ih => exact fun h => ih (hf a h)

theorem passDross (h : Alike s t) (l : List Nat) : Alike (s.passDross l) (t.passDross l) := by
  have hfold := foldl (fun s a => s.invertAtom a) (fun a h => h.invertAtom a)
    (l.foldl (fun (l : List Nat) a => let k := a / 128 * 128; if l.contains k then l else l ++ [k]) []) h
  exact hfold.still ((MapKept.refl _).bump F.FLT_DROSS_PASSED_COUNT 0 _) ((MapKept.refl _).bump F.FLT_DROSS_PASSED_COUNT 0 _)
    (Hw.bump_mem _ _ _ _) (Hw.bump_mem _ _ _ _)

end Alike

end Sys2Proof.Machine
end

section
/-!
PROOFS. What the update engine reads and writes (R274 to R282), in two states that agree on memory and on the address map.
-/
namespace Sys2Proof.Machine

/-! ### Operands as read -/

section

variable {s t : Hw} (h : t.peek = s.peek)
include h

theorem Opnd.raw_congr (o : Opnd) : o.raw t = o.raw s := by
  funext idx
  unfold Opnd.raw
  simp only [Hw.rawElem_congr (congrFun h)]

theorem Opnd.code_congr (o : Opnd) : o.code t = o.code s := by
  funext idx
  unfold Opnd.code
  simp only [Hw.rawElem_congr (congrFun h)]

theorem Opnd.value_congr (o : Opnd) : o.value t = o.value s := by
  funext idx
  unfold Opnd.value
  rw [o.raw_congr h, o.code_congr h]

theorem Opnd.loomAt_congr (o : Opnd) : o.loomAt t = o.loomAt s := by
  funext idx
  unfold Opnd.loomAt
  rw [o.raw_congr h, o.code_congr h, o.value_congr h]

/-! ### Cells to write -/

theorem Hw.putElem_congr : t.putElem = s.putElem := by
  funext cells addr d off pat
  unfold Hw.putElem
  rw [h]

theorem padNibble_congr : padNibble t = padNibble s := by
  funext cells o idx
  unfold padNibble
  rw [Hw.putElem_congr h]

theorem Hw.plainCells_congr (o : Opnd) (w : Writer) (els : List (List Nat × FVal)) : t.plainCells o w els = s.plainCells o w els := by
  unfold Hw.plainCells
  rw [Hw.putElem_congr h, padNibble_congr h]

theorem Hw.scaledCells_congr (o : Opnd) (w : Writer) (els : List (List Nat × FVal)) : t.scaledCells o w els = s.scaledCells o w els := by
  unfold Hw.scaledCells
  rw [Hw.putElem_congr h, padNibble_congr h, o.value_congr h]

theorem Hw.haloCells_congr (o : Opnd) (cells : Sparse Byte) : t.haloCells o cells = s.haloCells o cells := by
  unfold Hw.haloCells
  rw [Hw.putElem_congr h, padNibble_congr h]

/-! ### What a prepare computes -/

theorem Hw.gradient_congr (g : Opnd) (gexp : Int) : t.gradient g gexp = s.gradient g gexp := by
  unfold Hw.gradient
  simp only [Opnd.readVal_congr (congrFun h), g.raw_congr h]

theorem Hw.ruleP_congr (a : ApplyJob) (r : Prepared) (eta : FVal) (el : List Nat → UpdEl) : t.ruleP a r eta el = s.ruleP a r eta el := by
  funext b
  unfold Hw.ruleP
  simp only [Opnd.value_congr h]

theorem Hw.computeApply_congr (a : ApplyJob) (g : Opnd) (r : Prepared) : t.computeApply a g r = s.computeApply a g r := by
  unfold Hw.computeApply
  simp only [Opnd.value_congr h, Hw.gradient_congr h, Hw.ruleP_congr h]

end

/-! ### Writing -/

/-- R281, R282: elements of a copy written as they are. -/
def Hw.putElems (s : Hw) (o : Opnd) (l : List (List Nat × FVal)) : Hw := (s.writeElems o Writer.plain l).1

/-- R276: the elements of a matrix of each block of rule P. -/
def Computed.matrix (a : ApplyJob) (c : Computed) (f : Nat × Mat × Mat → Mat) : List (List Nat × FVal) :=
  c.grams.flatMap (fun q =>
    let (bi, bj) := blockAt a.shape q.1
    (List.range 64).flatMap (fun i => (List.range 64).map (fun j => ([bi, bj, i, j], (f q).at_ i j))))

/-- R281: the new master and state. -/
def Hw.stateWritten (s : Hw) (a : ApplyJob) (c : Computed) : Hw :=
  let s2 := (s.putElems (a.out 0) (c.els.map (fun q => (q.idx, q.w)))).putElems (a.out 2) (c.els.map (fun q => (q.idx, q.m)))
  if LayerEnt.rule a.e = 2 then s2.putElems (a.out 4) (c.els.map (fun q => (q.idx, q.v)))
  else if LayerEnt.rule a.e = 3 then (s2.putElems (a.out 4) (c.matrix a (·.2.1))).putElems (a.out 6) (c.matrix a (·.2.2))
  else s2

/-- R280, R281: the new remainder, in single-copy mode. -/
def Hw.remWritten (s : Hw) (a : ApplyJob) (c : Computed) : Hw := if LayerEnt.priv a.e && !a.dual then s.putElems (a.op 10) c.rems else s

/-- R281: WORK, with the status of its cast. -/
def Hw.workWritten (s : Hw) (x : Cmd) (a : ApplyJob) (c : Computed) : Hw × Nat :=
  if a.has 8 then
    (s.writeElems (a.out 8) x.wr (c.els.map (fun q => (q.idx, q.w)))).1.countSat x.n
      (s.writeElems (a.out 8) x.wr (c.els.map (fun q => (q.idx, q.w)))).2
  else (s, 0)

/-- R166: the looms with the projection of the layer's sketch. -/
def Hw.sketchLoaded (s : Hw) (x : Cmd) (a : ApplyJob) : Hw :=
  s.loadLooms x.t [false] (projBanks (LayerEnt.seed a.e) (Opnd.foldCols a.shape) (a.out 8).loomFmt)

/-- R166, R281: the sketch of WORK. -/
def Hw.sketchWritten (s : Hw) (x : Cmd) (a : ApplyJob) : Hw :=
  if LayerEnt.sketch a.e then
    (s.sketchLoaded x a).writeSketch (a.out 11).addr (LayerEnt.seed a.e) (applyStep x.w) (Opnd.foldCols a.shape) (Opnd.foldRows a.shape) (a.out 8).loomFmt
      (fun i j => (a.out 8).loomAt (s.sketchLoaded x a) [(i : Int), (j : Int)])
  else s

/-- R206, R325: a copy that an update has written: its halo and the touch of its tile. -/
def Hw.copyLeft (s : Hw) (x : Cmd) (a : ApplyJob) (p : Nat × Role × Opnd) : Hw := (if a.dual && p.1 == 10 then s else s.writeHalo p.2.2).touch x.t p.2.2

/-- R281, R282: an update is written part by part. -/
theorem Hw.writeUpdate_eq (s : Hw) (x : Cmd) (a : ApplyJob) (c : Computed) : s.writeUpdate x a c =
    ((a.lay.filter (fun p => isDst p.2.1)).foldl (fun s p => s.copyLeft x a p)
      ((((s.stateWritten a c).remWritten a c).workWritten x a c).1.sketchWritten x a), (((s.stateWritten a c).remWritten a c).workWritten x a c).2) := rfl

namespace Alike

variable {s t : Hw}

theorem storedDross (h : Alike s t) (o : Opnd) (l : List (List Nat)) : t.storedDross o l = s.storedDross o l := by
  unfold Hw.storedDross
  rw [h.drossAt]

theorem writeElems (h : Alike s t) (o : Opnd) (w : Writer) (l : List (List Nat × FVal)) :
    Alike (s.writeElems o w l).1 (t.writeElems o w l).1 ∧ (t.writeElems o w l).2 = (s.writeElems o w l).2 := by
  unfold Hw.writeElems
  rw [Hw.scaledCells_congr h.peek, Hw.plainCells_congr h.peek]
  simp only [h.storedDross]
  split
  · refine ⟨?_, rfl⟩
    split
    · exact h.writeAddrs _
    · exact (h.writeAddrs _).passDross _
  · exact ⟨h.writeAddrs _, rfl⟩

theorem putElems (h : Alike s t) (o : Opnd) (l : List (List Nat × FVal)) : Alike (s.putElems o l) (t.putElems o l) := (h.writeElems o Writer.plain l).1

theorem writeHalo (h : Alike s t) (o : Opnd) : Alike (s.writeHalo o) (t.writeHalo o) := by
  unfold Hw.writeHalo
  split
  · rw [Hw.haloCells_congr h.peek]
    exact h.writeAddrs _
  · exact h

theorem writeSketch (h : Alike s t) (a seed step k n fmt : Nat) (w : Nat → Nat → LEl) :
    Alike (s.writeSketch a seed step k n fmt w) (t.writeSketch a seed step k n fmt w) := (h.writeAddrs _).writeAddrs _

theorem loadLooms (h : Alike s t) (k : Nat) (looms : List Bool) (hs : List Heddle) : Alike (s.loadLooms k looms hs) (t.loadLooms k looms hs) := by
  unfold Hw.loadLooms
  split
  · exact h
  · exact h.still (.of_eq rfl rfl rfl rfl rfl rfl) (.of_eq rfl rfl rfl rfl rfl rfl) rfl rfl

theorem touch (h : Alike s t) (k : Nat) (o : Opnd) : Alike (s.touch k o) (t.touch k o) :=
  h.still (.of_touch s k o) (.of_touch t k o) (Hw.touch_mem s k o) (Hw.touch_mem t k o)

theorem countSat (h : Alike s t) (n i : Nat) : Alike (s.countSat n i).1 (t.countSat n i).1 :=
  h.still (.of_countSat s n i) (.of_countSat t n i) (Hw.countSat_mem s n i) (Hw.countSat_mem t n i)

variable (x : Cmd) (a : ApplyJob) (c : Computed)

theorem stateWritten (h : Alike s t) : Alike (s.stateWritten a c) (t.stateWritten a c) := by
  have h2 := (h.putElems (a.out 0) (c.els.map (fun q => (q.idx, q.w)))).putElems (a.out 2) (c.els.map (fun q => (q.idx, q.m)))
  unfold Hw.stateWritten
  simp only
  split
  · exact h2.putElems _ _
  · split
    · exact (h2.putElems _ _).putElems _ _
    · exact h2

theorem remWritten (h : Alike s t) : Alike (s.remWritten a c) (t.remWritten a c) := by
  unfold Hw.remWritten
  split
  · exact h.putElems _ _
  · exact h

theorem workWritten (h : Alike s t) : Alike (s.workWritten x a c).1 (t.workWritten x a c).1 := by
  unfold Hw.workWritten
  split
  · obtain ⟨hwrite, hsat⟩ := h.writeElems (a.out 8) x.wr (c.els.map (fun q => (q.idx, q.w)))
    rw [hsat]
    exact hwrite.countSat _ _
  · exact h

theorem sketchWritten (h : Alike s t) : Alike (s.sketchWritten x a) (t.sketchWritten x a) := by
  unfold Hw.sketchWritten
  split
  · have hload : Alike (s.sketchLoaded x a) (t.sketchLoaded x a) := h.loadLooms _ _ _
    rw [Opnd.loomAt_congr hload.peek]
    exact hload.writeSketch _ _ _ _ _ _ _
  · exact h

theorem copyLeft (h : Alike s t) (p : Nat × Role × Opnd) : Alike (s.copyLeft x a p) (t.copyLeft x a p) := by
  unfold Hw.copyLeft
  refine touch ?_ _ _
  split
  · exact h
  · exact h.writeHalo _

/-- An update comes to the same memory from states that agree. -/
theorem writeUpdate (h : Alike s t) : Alike (s.writeUpdate x a c).1 (t.writeUpdate x a c).1 := by
  rw [Hw.writeUpdate_eq, Hw.writeUpdate_eq]
  exact foldl (fun s p => s.copyLeft x a p) (fun p h => h.copyLeft x a p) _ ((((h.stateWritten a c).remWritten a c).workWritten x a c).sketchWritten x a)

end Alike

end Sys2Proof.Machine
end

section
/-!
PROOFS. What a prepare and a write APPLY leave (R273 to R282): the command that issued, its entry in flight and the record with its layer; and
that their memory depends on what the update engine reads alone.
-/
namespace Sys2Proof.Machine

/-! ### An update written -/

namespace UnitWork

variable {s : Hw}

theorem of_putElems (s : Hw) (o : Opnd) (l : List (List Nat × FVal)) : UnitWork s (s.putElems o l) := of_writeElems s o _ l

theorem of_stateWritten (s : Hw) (a : ApplyJob) (c : Computed) : UnitWork s (s.stateWritten a c) := by
  have h2 := (of_putElems s (a.out 0) (c.els.map (fun q => (q.idx, q.w)))).trans (of_putElems _ (a.out 2) (c.els.map (fun q => (q.idx, q.m))))
  unfold Hw.stateWritten
  simp only
  split
  · exact h2.trans (of_putElems _ _ _)
  · split
    · exact (h2.trans (of_putElems _ _ _)).trans (of_putElems _ _ _)
    · exact h2

theorem of_remWritten (s : Hw) (a : ApplyJob) (c : Computed) : UnitWork s (s.remWritten a c) := by
  unfold Hw.remWritten
  split
  · exact of_putElems s _ _
  · exact refl s

theorem of_workWritten (s : Hw) (x : Cmd) (a : ApplyJob) (c : Computed) : UnitWork s (s.workWritten x a c).1 := by
  unfold Hw.workWritten
  split
  · exact (of_writeElems s _ _ _).trans (of_countSat _ _ _)
  · exact refl s

theorem of_copyLeft (s : Hw) (x : Cmd) (a : ApplyJob) (p : Nat × Role × Opnd) : UnitWork s (s.copyLeft x a p) := by
  unfold Hw.copyLeft
  refine UnitWork.trans ?_ (of_touch _ _ _)
  split
  · exact refl s
  · exact of_writeHalo s _

end UnitWork

theorem Beside.bump {s t : Hw} (h : Beside s t) (f : Fld) (u n : Nat) (hf : ∀ g ∈ streamFlds, f.reg ≠ g.reg := by decide) : Beside s (t.bump f u n) :=
  h.trans (of_bump t f u n hf)

/-- R274, R277, R278, R284: the counters and events of a prepare. -/
theorem Beside.of_reportApply (s : Hw) (x : Cmd) (a : ApplyJob) (c : Computed) (ratio : FVal) : Beside s (s.reportApply x a c ratio) := by
  unfold Hw.reportApply
  extract_lets who s1 s2 s3 s4 evt hi lo above below s5
  have h1 : Beside s s1 := ((of_bump s F.UPD_DELTA_FLUSH_COUNT 0 _).bump F.UPD_DELTA_SAT_COUNT 0 _).bump F.UPD_P_FALLBACK_COUNT 0 _
  have h2 : Beside s s2 := by
    change Beside s (if _ then _ else _)
    split
    · exact h1
    · exact (h1.bump F.NUM_NONFINITE_COUNT 0 1).raise _ _ _ _
  have h3 : Beside s s3 := by
    change Beside s (if _ then _ else _)
    split
    · exact h2
    · exact (h2.bump F.NUM_GRAD_SAT_COUNT 0 _).raise _ _ _ _
  have h4 : Beside s s4 := by
    change Beside s (match c.fallback with | [] => s3 | b :: _ => s3.raise 0x3021 a.l b who)
    cases c.fallback with
    | nil => exact h3
    | cons b l => exact h3.raise _ _ _ _
  have hevt : ∀ (v : Hw) (code : Nat), Beside s v → Beside s (evt v code) := fun v code h => (h.raise code _ _ _).bump F.NUM_RATIO_EVENTS_COUNT 0 1
  have h5 : Beside s s5 := by
    change Beside s (if _ then _ else _)
    split
    · exact hevt _ _ h4
    · exact h4
  split
  · split
    · exact hevt _ _ h5
    · exact h5
  · exact h4

section

variable {s t : Hw} {k q : Nat} {h : Head} {x : Cmd}

/-- R281, R282: a command that has left the head stays so while its update is written. -/
theorem HeadGone.writeUpdate (hg : HeadGone k q h s t) (hk : x.t = k) (a : ApplyJob) (c : Computed) :
    HeadGone k q h s (t.writeUpdate x a c).1 := by
  have hsketch : ∀ {v : Hw}, HeadGone k q h s v → HeadGone k q h s (v.sketchWritten x a) := fun hv => by
    unfold Hw.sketchWritten
    split
    · unfold Hw.sketchLoaded
      rw [hk]
      exact (hv.loadLooms _ _).1.unitWork (.of_writeSketch _ _ _ _ _ _ _ _)
    · exact hv
  rw [Hw.writeUpdate_eq]
  have hwork := ((hg.unitWork (.of_stateWritten t a c)).unitWork (.of_remWritten _ a c)).unitWork (.of_workWritten _ x a c)
  exact (hsketch hwork).unitWork (.foldl _ (fun v p => .of_copyLeft v x a p) _ _)

/-! ### A prepare -/

/-- R273, R274: what a prepare records before it computes. -/
def Hw.recorded (s : Hw) (x : Cmd) (a : ApplyJob) : Prepared :=
  { Prepared.none with
    step := applyStep x.w, job := s.jobOf x.n, eta := (s.rd .UPD_STEPSIZE (LayerEnt.group a.e)).toNat,
    dexp := if (s.getLayer a.l).dexpSet then (s.getLayer a.l).dexp else LayerEnt.dexp0 a.e, gexp := (s.getLayer a.l).gexp, t := s.jobT (s.jobOf x.n) }

/-- R274 to R280: what a prepare computes. -/
def Hw.computed (s : Hw) (x : Cmd) (a : ApplyJob) : Computed := s.computeApply a (x.o 0) (s.recorded x a)

/-- R104, R276: the loom with the last blocks that a computation loads. -/
def Hw.matsLoaded (s : Hw) (x : Cmd) (c : Computed) : Hw := s.loadLooms x.t [false] (c.loads.map Mat.bank)

/-- R281: a prepare writes the copies that are not live, in dual-copy mode. -/
def Hw.prepareWritten (s : Hw) (x : Cmd) (a : ApplyJob) (c : Computed) : Hw × Nat :=
  if a.dual then (({ s with free := s.free + 1 } : Hw).matsLoaded x c).writeUpdate x a c else (({ s with free := s.free + 1 } : Hw).matsLoaded x c, 0)

/-- A layer with the record of a prepare. -/
def Layer.preparing (y : Layer) (r : Prepared) : Layer := { y with prep := some r }

/-- R284: the update-to-weight ratio of a prepare. -/
def Hw.ratioFor (s : Hw) (a : ApplyJob) (c : Computed) : FVal :=
  ratioOf c ((applyOrder a.e a.shape).map (fun i => (a.cur 0).value s (i.map Int.ofNat)))

/-- R273, R278, R281, R284: the record of a prepare that has computed. -/
def Hw.preparedRec (s : Hw) (x : Cmd) (a : ApplyJob) (c : Computed) : Prepared :=
  { s.recorded x a with
    ratio := (s.ratioFor a c).pat.toNat, dmax := (rowMax (c.els.map (fun q => q.d.abs))).pat.toNat,
    flags := (if c.nonfinite = 0 then 0 else 4) + (if c.sat = 0 then 0 else 8) + (if c.zero then 16 else 0) + (if c.fallback.isEmpty then 0 else 32),
    fallback := c.fallback,
    dexpNext := if s.flag F.NUM_WATCH_CTL_DEXP_AUTO then dexpNext (rowMax (c.els.map (fun q => q.d.abs))) (Config.freeWord s.free).toNat else none,
    digest := masterDigest a.l (a.shape.getLastD 1)
      ((allIndices a.shape).map (fun i => match c.els.find? (fun q => q.idx == i) with | some q => q.w.pat.toNat | none => 0)),
    rem := s.remCells a c }

theorem Hw.prepare_eq (s : Hw) (x : Cmd) (a : ApplyJob) : s.prepare x a =
    (((s.prepareWritten x a (s.computed x a)).1.reportApply x a (s.computed x a) (s.ratioFor a (s.computed x a))).modLayer a.l
      (·.preparing (s.preparedRec x a (s.computed x a)))).done { x with latched := 1 } (s.prepareWritten x a (s.computed x a)).2 := rfl

/-- The layers stand as they are while a command's entry goes in flight. -/
theorem Hw.fly_layers (s : Hw) (x : Cmd) (stage : Stage) (unit : UnitUse) : (s.fly x stage unit).layers = s.layers := by
  unfold Hw.fly
  split <;> rfl

theorem HeadGone.prepareWritten (hg : HeadGone k q h s t) (hk : x.t = k) (a : ApplyJob) (c : Computed) :
    HeadGone k q h s (t.prepareWritten x a c).1 := by
  have hload : HeadGone k q h s (({ t with free := t.free + 1 } : Hw).matsLoaded x c) := by
    unfold Hw.matsLoaded
    rw [hk]
    exact ((hg.unitWork (.of_free t _)).loadLooms _ _).1
  unfold Hw.prepareWritten
  split
  · exact hload.writeUpdate hk a c
  · exact hload

/-- R273: a prepare is done, and its record is with its layer. -/
theorem HeadGone.prepare (hg : HeadGone k q h s t) (hk : x.t = k) (hn : x.n = h.n) (hnum : x.num = h.ctx.issued.toNat) (hw : x.w = h.w)
    (a : ApplyJob) : (∃ st, Issued (t.prepare x a) k h st) ∧ NextInLine s (t.prepare x a) k q h ∧
      ∃ r, ((t.prepare x a).getLayer a.l).prep = some r ∧ r.step = applyStep x.w ∧ r.job = t.jobOf x.n ∧ r.t = t.jobT (t.jobOf x.n) ∧
        r.gexp = (t.getLayer a.l).gexp ∧ r.eta = (t.rd .UPD_STEPSIZE (LayerEnt.group a.e)).toNat := by
  have hwritten := (hg.prepareWritten hk a (t.computed x a)).beside (.of_reportApply _ x a (t.computed x a) (t.ratioFor a (t.computed x a)))
  have hr : (t.preparedRec x a (t.computed x a)).step = applyStep x.w ∧ (t.preparedRec x a (t.computed x a)).job = t.jobOf x.n ∧
    (t.preparedRec x a (t.computed x a)).t = t.jobT (t.jobOf x.n) ∧ (t.preparedRec x a (t.computed x a)).gexp = (t.getLayer a.l).gexp ∧
    (t.preparedRec x a (t.computed x a)).eta = (t.rd .UPD_STEPSIZE (LayerEnt.group a.e)).toNat := ⟨rfl, rfl, rfl, rfl, rfl⟩
  rw [Hw.prepare_eq]
  generalize t.preparedRec x a (t.computed x a) = r at hr ⊢
  generalize (t.prepareWritten x a (t.computed x a)).2 = st
  generalize (t.prepareWritten x a (t.computed x a)).1.reportApply x a (t.computed x a) (t.ratioFor a (t.computed x a)) = v at hwritten ⊢
  have hlayer : HeadGone k q h s (v.modLayer a.l (·.preparing r)) := hwritten.of_eq rfl fun _ _ _ => rfl
  obtain ⟨hgone, hissued, -⟩ := hlayer.fly (x := { x with latched := 1 }) hk hn hnum hw st ((v.modLayer a.l (·.preparing r)).unitNeed x.w)
  refine ⟨⟨st, hissued⟩, hgone.next, r, ?_, hr⟩
  unfold Hw.done Hw.getLayer
  rw [Hw.fly_layers]
  exact congrArg Layer.prep (Sparse.get_put_self _ _ _ _)

theorem Hw.prepare_mem (s : Hw) (x : Cmd) (a : ApplyJob) : (s.prepare x a).mem = (s.prepareWritten x a (s.computed x a)).1.mem := by
  rw [Hw.prepare_eq]
  exact (Hw.fly_mem _ _ _ _).trans (Beside.of_reportApply _ _ _ _ _).mem

theorem Alike.matsLoaded (ha : Alike s t) (x : Cmd) (c : Computed) : Alike (s.matsLoaded x c) (t.matsLoaded x c) := ha.loadLooms _ _ _

/-- A prepare comes to the same memory from states that agree on what it records, too. -/
theorem Alike.prepare_mem (ha : Alike s t) {x : Cmd} {a : ApplyJob} (hr : t.recorded x a = s.recorded x a) :
    (t.prepare x a).mem = (s.prepare x a).mem := by
  have hc : t.computed x a = s.computed x a := by
    unfold Hw.computed
    rw [hr, Hw.computeApply_congr ha.peek]
  have hfree : Alike ({ s with free := s.free + 1 } : Hw) { t with free := t.free + 1 } :=
    ha.still (.of_eq rfl rfl rfl rfl rfl rfl) (.of_eq rfl rfl rfl rfl rfl rfl) rfl rfl
  rw [Hw.prepare_mem, Hw.prepare_mem, hc]
  unfold Hw.prepareWritten
  split
  · exact ((hfree.matsLoaded x _).writeUpdate x a _).mem
  · exact (hfree.matsLoaded x _).mem

/-! ### A write APPLY -/

theorem Hw.writeAgain_eq (s : Hw) (x : Cmd) (a : ApplyJob) : s.writeAgain x a =
    ((s.matsLoaded x (s.computeApply a (x.o 0) (s.getLayer a.l).last)).writeUpdate x a (s.computeApply a (x.o 0) (s.getLayer a.l).last)).1.done
      { x with latched := 2 }
      ((s.matsLoaded x (s.computeApply a (x.o 0) (s.getLayer a.l).last)).writeUpdate x a (s.computeApply a (x.o 0) (s.getLayer a.l).last)).2 := rfl

/-- R282: a write APPLY is done. -/
theorem HeadGone.writeAgain (hg : HeadGone k q h s t) (hk : x.t = k) (hn : x.n = h.n) (hnum : x.num = h.ctx.issued.toNat) (hw : x.w = h.w)
    (a : ApplyJob) : (∃ st, Issued (t.writeAgain x a) k h st) ∧ NextInLine s (t.writeAgain x a) k q h := by
  have hload : HeadGone k q h s (t.matsLoaded x (t.computeApply a (x.o 0) (t.getLayer a.l).last)) := by
    unfold Hw.matsLoaded
    rw [hk]
    exact (hg.loadLooms _ _).1
  have hwritten := hload.writeUpdate hk a (t.computeApply a (x.o 0) (t.getLayer a.l).last)
  rw [Hw.writeAgain_eq]
  obtain ⟨hgone, hissued, -⟩ := hwritten.fly (x := { x with latched := 2 }) hk hn hnum hw _ _
  exact ⟨⟨_, hissued⟩, hgone.next⟩

/-- A write APPLY comes to the same memory from states that agree on the layer's record, too. -/
theorem Alike.writeAgain_mem (ha : Alike s t) {x : Cmd} {a : ApplyJob} (hl : (t.getLayer a.l).last = (s.getLayer a.l).last) :
    (t.writeAgain x a).mem = (s.writeAgain x a).mem := by
  rw [Hw.writeAgain_eq, Hw.writeAgain_eq, hl, Hw.computeApply_congr ha.peek]
  exact (Hw.fly_mem _ _ _ _).trans (((ha.matsLoaded x _).writeUpdate x a _).mem.trans (Hw.fly_mem _ _ _ _).symm)

end

end Sys2Proof.Machine
end

section
/-!
PROOFS. Rounds that open (R289), and READY and COMMIT_WAIT (R289, R294).
-/
namespace Sys2Proof.Machine

theorem exec_ready (k : Fin 512) (q : Fin 4) (s : State) : exec (.ready k q) s = s.onHw (fun h => h.runReady k.val q.val) := rfl
theorem exec_commitWait (k : Fin 512) (q : Fin 4) (s : State) : exec (.commitWait k q) s = s.onHw (fun h => h.commitWait k.val q.val) := rfl
theorem exec_apply (k : Fin 512) (q : Fin 4) (s : State) : exec (.apply k q) s = s.onHw (fun h => h.runApply k.val q.val) := rfl

/-! ### A round opens -/

/-- From s to t nothing has changed but jobs and what shows a job's open round. -/
structure RoundWork (s t : Hw) : Prop where
  rest : t = { s with regs := t.regs, jobs := t.jobs }
  regs : RegsKept [.UPD_JOB_OUTCOME] s t

/-- R289: what a job counts of its round. -/
def Job.round (x : Job) : Nat × Nat × BitVec 8192 × Nat := (x.step, x.ready, x.layers, x.digest)

section

variable (s : Hw) (j step : Nat)

/-- R291: the root's round is that of the messages, and leaves the module's own. -/
theorem Hw.openRoot_kept : (s.openRoot j step).regs = s.regs ∧ (s.openRoot j step) = { s with jobs := (s.openRoot j step).jobs } ∧
    ((s.openRoot j step).getJob j).round = (s.getJob j).round := by
  have hcases : (∃ x : Job, x.round = (s.getJob j).round ∧ s.openRoot j step = s.setJob j x) ∨ s.openRoot j step = s := by
    unfold Hw.openRoot
    extract_lets x fresh holds
    split
    · refine .inl ⟨_, ?_, rfl⟩
      rfl
    · exact .inr rfl
  rcases hcases with ⟨x, hx, heq⟩ | heq <;> rw [heq]
  · exact ⟨rfl, rfl, (congrArg Job.round (Hw.getJob_setJob_self _ _ _)).trans hx⟩
  · exact ⟨rfl, rfl, rfl⟩

/-- R289: the registers and the counts of a round as it opens. -/
def Hw.roundBegun : Hw :=
  ((s.fset F.UPD_JOB_OUTCOME_ROUND_OPEN 1 j).fset F.UPD_JOB_OUTCOME_READY_SENT 0 j).modJob j (fun x => { x with
    step := step, age := 0, sentAge := 0, ready := 0, refused := false, stale := false, nonfinite := false, digest := 0, layers := 0,
    groups := [], staleGroups := [] })

theorem RoundWork.roundBegun : RoundWork s (s.roundBegun j step) :=
  ⟨rfl, ((RegsKept.refl _ s).fset F.UPD_JOB_OUTCOME_ROUND_OPEN 1 j (by decide)).fset F.UPD_JOB_OUTCOME_READY_SENT 0 j (by decide)⟩

theorem RoundWork.openRound : RoundWork s (s.openRound j step) := by
  unfold Hw.openRound
  split
  · obtain ⟨hregs, hrest, -⟩ := (s.roundBegun j step).openRoot_kept j step
    have hbegun := RoundWork.roundBegun s j step
    change RoundWork s ((s.roundBegun j step).openRoot j step)
    generalize (s.roundBegun j step).openRoot j step = u at hregs hrest ⊢
    refine ⟨?_, hbegun.regs.trans (.of_regs hregs)⟩
    rw [hrest, hbegun.rest]
  · exact ⟨rfl, .refl _ s⟩

/-- R289: the first command of a step above the last decided one opens its round. -/
theorem Hw.openRound_opens {s : Hw} {j step : Nat} (hlevel : s.level = 2) (hopen : s.roundOpen j = false) (hlast : s.lastStep j < step)
    (hmax : step < 0xFFFF_FFFF_FFFF_FFFF) : (s.openRound j step).roundOpen j = true ∧ (s.openRound j step).readySent j = false ∧
      ((s.openRound j step).getJob j).round = (step, 0, 0, 0) := by
  have heq : s.openRound j step = (s.roundBegun j step).openRoot j step := by
    unfold Hw.openRound
    rw [if_pos (by simp [hlevel, hopen, hlast, hmax])]
    rfl
  obtain ⟨hregs, -, hround⟩ := (s.roundBegun j step).openRoot_kept j step
  rw [heq]
  refine ⟨(Hw.flag_congr hregs _ _).trans ?_, (Hw.flag_congr hregs _ _).trans ?_, hround.trans ?_⟩
  · refine (Hw.flag_fset_apart _ F.UPD_JOB_OUTCOME_READY_SENT F.UPD_JOB_OUTCOME_ROUND_OPEN 0 j j (by decide) (by decide)).trans ?_
    exact (Hw.flag_fset_self s F.UPD_JOB_OUTCOME_ROUND_OPEN 1 j).trans rfl
  · exact (Hw.flag_fset_self _ F.UPD_JOB_OUTCOME_READY_SENT 0 j).trans rfl
  · exact congrArg Job.round (Hw.getJob_setJob_self _ _ _)

end

namespace RoundWork

variable {s t : Hw} (h : RoundWork s t)
include h

theorem tiles : t.tiles = s.tiles := by rw [h.rest]
theorem mem : t.mem = s.mem := by rw [h.rest]
theorem mu : t.mu = s.mu := by rw [h.rest]
theorem chans : t.chans = s.chans := by rw [h.rest]
theorem regions : t.regions = s.regions := by rw [h.rest]
theorem layers : t.layers = s.layers := by rw [h.rest]

theorem fget (f : Fld) (u : Nat) (hf : f.reg ∉ [Reg.UPD_JOB_OUTCOME] := by decide) : t.fget f u = s.fget f u := Hw.fget_of_rd (h.regs _ _ hf)
theorem flag (f : Fld) (u : Nat) (hf : f.reg ∉ [Reg.UPD_JOB_OUTCOME] := by decide) : t.flag f u = s.flag f u := Hw.flag_of_rd (h.regs _ _ hf)

theorem beside : Beside s t :=
  ⟨h.tiles, h.mem, h.regions, h.chans, congrArg (·.offline) h.mu, fun f hf u => h.fget f u (by revert f; decide)⟩

end RoundWork

/-! ### What the update engine reads of a command's state as it issues -/

section

variable (s : Hw) (k q : Nat) (h : Head)

theorem Hw.taken_fget (f : Fld) (u : Nat) (hf : f.reg ∉ takenRegs := by decide) : (s.taken k q h).fget f u = s.fget f u :=
  Hw.fget_of_rd (RegsKept.taken s k q h _ _ hf)

theorem Hw.taken_flag (f : Fld) (u : Nat) (hf : f.reg ∉ takenRegs := by decide) : (s.taken k q h).flag f u = s.flag f u :=
  Hw.flag_of_rd (RegsKept.taken s k q h _ _ hf)

theorem Hw.taken_rd64 (lo hi : Reg) (u : Nat) (hlo : lo ∉ takenRegs := by decide) (hhi : hi ∉ takenRegs := by decide) :
    (s.taken k q h).rd64 lo hi u = s.rd64 lo hi u := by
  unfold Hw.rd64
  rw [RegsKept.taken s k q h lo u hlo, RegsKept.taken s k q h hi u hhi]

theorem Hw.taken_jobOf (n : Nat) : (s.taken k q h).jobOf n = s.jobOf n := s.taken_fget k q h F.STRM_JOB_JOB n
theorem Hw.taken_level : (s.taken k q h).level = s.level := s.taken_fget k q h F.ID_SERVICE_LEVEL 0
theorem Hw.taken_lastStep (j : Nat) : (s.taken k q h).lastStep j = s.lastStep j := s.taken_rd64 k q h .UPD_JOB_STEP_LO .UPD_JOB_STEP_HI j
theorem Hw.taken_jobT (j : Nat) : (s.taken k q h).jobT j = s.jobT j := s.taken_rd64 k q h .UPD_JOB_T_LO .UPD_JOB_T_HI j
theorem Hw.taken_roundOpen (j : Nat) : (s.taken k q h).roundOpen j = s.roundOpen j := s.taken_flag k q h F.UPD_JOB_OUTCOME_ROUND_OPEN j

theorem Hw.taken_getLayer (l : Nat) : (s.taken k q h).getLayer l = s.getLayer l := congrArg (Sparse.get Layer.reset · l) (s.taken_layers k q h)

end

/-- The registers and the jobs stand as they are while a command's entry goes in flight. -/
theorem Hw.fly_regs (s : Hw) (x : Cmd) (stage : Stage) (unit : UnitUse) : (s.fly x stage unit).regs = s.regs := by
  unfold Hw.fly
  split <;> rfl

theorem Hw.fly_jobs (s : Hw) (x : Cmd) (stage : Stage) (unit : UnitUse) : (s.fly x stage unit).jobs = s.jobs := by
  unfold Hw.fly
  split <;> rfl

/-! ### READY -/

section

variable {s : Hw} {k q : Nat} {h : Head}

/-- R289: READY opens the round of its step and waits for COMMAND_COMPLETE. -/
theorem Hw.runReady_ready (hr : Ready s k q 0x61 h) : s.runReady k q =
    ((s.taken k q h).openRound (s.jobOf h.n) (Com.param64 h.w 0)).done (s.cmdAt k q h) 0 := by
  have hrun : s.runReady k q = ((s.taken k q h).openRound ((s.taken k q h).jobOf h.n) (Com.param64 h.w 0)).done (s.cmdAt k q h) 0 :=
    Hw.issue_ready hr (fun w => Com.opcode w == 0x61) (beq_iff_eq.2 hr.2.1) _
  rw [hrun, s.taken_jobOf]

/-- R294: COMMIT_WAIT for a step that is decided, and for a later one. -/
theorem Hw.commitWait_ready (hr : Ready s k q 0x62 h) : s.commitWait k q =
    if Com.param64 h.w 0 = s.lastStep (s.jobOf h.n) then
      (s.taken k q h).done { s.cmdAt k q h with latched := s.fget F.UPD_JOB_OUTCOME_LAST (s.jobOf h.n) } 0
    else if Com.param64 h.w 0 < s.lastStep (s.jobOf h.n) then (s.taken k q h).done { s.cmdAt k q h with latched := 0 } 0
    else (s.taken k q h).fly (s.cmdAt k q h) .running .none := by
  have hrun : s.commitWait k q =
      if Com.param64 h.w 0 = (s.taken k q h).lastStep ((s.taken k q h).jobOf h.n) then
        (s.taken k q h).done { s.cmdAt k q h with latched := (s.taken k q h).fget F.UPD_JOB_OUTCOME_LAST ((s.taken k q h).jobOf h.n) } 0
      else if Com.param64 h.w 0 < (s.taken k q h).lastStep ((s.taken k q h).jobOf h.n) then
        (s.taken k q h).done { s.cmdAt k q h with latched := 0 } 0
      else (s.taken k q h).fly (s.cmdAt k q h) .running .none :=
    Hw.issue_ready hr (fun w => Com.opcode w == 0x62) (beq_iff_eq.2 hr.2.1) _
  rw [hrun, s.taken_jobOf, s.taken_lastStep, s.taken_fget k q h F.UPD_JOB_OUTCOME_LAST]

/-- A command that leaves the head with an entry in flight, at any stage. -/
theorem Ready.flies {op : Nat} (hr : Ready s k q op h) (hs : HomeOn s k h.n) (l : Nat) (stage : Stage) (unit : UnitUse) :
    NextInLine s ((s.taken k q h).fly { s.cmdAt k q h with latched := l } stage unit) k q h ∧
    MemAsTaken s ((s.taken k q h).fly { s.cmdAt k q h with latched := l } stage unit) k h ∧
    (((s.taken k q h).fly { s.cmdAt k q h with latched := l } stage unit).ctxOn k h.n).issued = h.ctx.issued + 1 ∧
    ∃ f ∈ (((s.taken k q h).fly { s.cmdAt k q h with latched := l } stage unit).ctxOn k h.n).flight,
      f.num = h.ctx.issued.toNat ∧ f.cmd = h.w ∧ f.stage = stage ∧ f.latched = l := by
  have hg := hr.headGone hs
  have hmem := Hw.fly_mem (s.taken k q h) { s.cmdAt k q h with latched := l } stage unit
  obtain ⟨fs, heq, hin⟩ := hg.fly_eq (x := { s.cmdAt k q h with latched := l }) rfl rfl stage unit
  refine ⟨?_, .of_mem hmem, ?_, ?_⟩
  · rw [heq]
    exact (hg.setFlight fs).next
  · rw [heq]
    exact (hg.setFlight fs).issued
  · rw [heq, Hw.ctxOn_setCtxOn_self]
    exact ⟨_, hin, rfl, rfl, rfl, rfl⟩

end

section

variable {s : State} {k : Fin 512} {q : Fin 4} {h : Head} {j step : Nat} (hs : HomeOn s.hw k h.n) (hj : j = s.hw.jobOf h.n)
  (hstep : step = Com.param64 h.w 0)
include hs hj hstep

/-- READY. -/
theorem Completes.ready (hr : Ready s.hw k q 0x61 h) : Completes (.ready k q) s (fun t =>
    Issued t k h 0 ∧ NextInLine s.hw t k q h ∧ MemAsTaken s.hw t k h ∧
    (s.hw.level = 2 → s.hw.roundOpen j = false → s.hw.lastStep j < step → step < 0xFFFF_FFFF_FFFF_FFFF →
      t.roundOpen j = true ∧ t.readySent j = false ∧ (t.getJob j).step = step ∧ (t.getJob j).ready = 0 ∧ (t.getJob j).layers = 0 ∧
        (t.getJob j).digest = 0)) := by
  refine .of_onHw _ (exec_ready k q s) ?_
  rw [Hw.runReady_ready hr, ← hj, ← hstep]
  have hwork := RoundWork.openRound (s.hw.taken k q h) j step
  have hopens := Hw.openRound_opens (s := s.hw.taken k q h) (j := j) (step := step)
  rw [s.hw.taken_level, s.hw.taken_roundOpen, s.hw.taken_lastStep] at hopens
  generalize (s.hw.taken k q h).openRound j step = u at hwork hopens ⊢
  obtain ⟨hgone, hissued, hmem, -⟩ := ((hr.headGone hs).beside hwork.beside).fly (x := s.hw.cmdAt k q h) rfl rfl rfl rfl 0 (u.unitNeed h.w)
  refine ⟨hissued, hgone.next, .of_mem (hmem.trans hwork.mem), fun hlevel hopen hlast hmax => ?_⟩
  obtain ⟨hset, hsent, hround⟩ := hopens hlevel hopen hlast hmax
  have hregs := u.fly_regs (s.hw.cmdAt k q h) (.done 0) (u.unitNeed h.w)
  have hjob : (u.done (s.hw.cmdAt k q h) 0).getJob j = u.getJob j :=
    congrArg (Sparse.get Job.reset · j) (u.fly_jobs (s.hw.cmdAt k q h) (.done 0) (u.unitNeed h.w))
  unfold Job.round at hround
  injection hround with h1 h234
  injection h234 with h2 h34
  injection h34 with h3 h4
  rw [hjob]
  exact ⟨(Hw.flag_congr hregs _ _).trans hset, (Hw.flag_congr hregs _ _).trans hsent, h1, h2, h3, h4⟩

/-- COMMIT_WAIT for a step that is decided. -/
theorem Completes.commitWait_decided (hr : Ready s.hw k q 0x62 h) (hle : step ≤ s.hw.lastStep j) : Completes (.commitWait k q) s (fun t =>
    NextInLine s.hw t k q h ∧ MemAsTaken s.hw t k h ∧ Issued t k h 0 ∧ ∃ f ∈ (t.ctxOn k h.n).flight, f.num = h.ctx.issued.toNat ∧ f.cmd = h.w ∧
      f.stage = .done 0 ∧ f.latched = (if step = s.hw.lastStep j then s.hw.fget F.UPD_JOB_OUTCOME_LAST j else 0)) := by
  refine .of_onHw _ (exec_commitWait k q s) ?_
  rw [Hw.commitWait_ready hr, ← hj, ← hstep]
  have hdone : ∀ l : Nat, NextInLine s.hw ((s.hw.taken k q h).done { s.hw.cmdAt k q h with latched := l } 0) k q h ∧
      MemAsTaken s.hw ((s.hw.taken k q h).done { s.hw.cmdAt k q h with latched := l } 0) k h ∧
      Issued ((s.hw.taken k q h).done { s.hw.cmdAt k q h with latched := l } 0) k h 0 ∧
      ∃ f ∈ (((s.hw.taken k q h).done { s.hw.cmdAt k q h with latched := l } 0).ctxOn k h.n).flight,
        f.num = h.ctx.issued.toNat ∧ f.cmd = h.w ∧ f.stage = .done 0 ∧ f.latched = l := fun l => by
    obtain ⟨hnext, hmem, hissued, f, hin, hnum, hcmd, hstage, hlatched⟩ := hr.flies hs l (.done 0) ((s.hw.taken k q h).unitNeed h.w)
    exact ⟨hnext, hmem, ⟨hissued, f, hin, hnum, hcmd, hstage⟩, f, hin, hnum, hcmd, hstage, hlatched⟩
  by_cases heq : step = s.hw.lastStep j
  · rw [if_pos heq, if_pos heq]
    exact hdone _
  · rw [if_neg heq, if_neg heq, if_pos (Nat.lt_of_le_of_ne hle heq)]
    exact hdone 0

/-- COMMIT_WAIT for a later step. -/
theorem Completes.commitWait_later (hr : Ready s.hw k q 0x62 h) (hlt : s.hw.lastStep j < step) : Completes (.commitWait k q) s (fun t =>
    NextInLine s.hw t k q h ∧ MemAsTaken s.hw t k h ∧
    ∃ f ∈ (t.ctxOn k h.n).flight, f.num = h.ctx.issued.toNat ∧ f.cmd = h.w ∧ f.stage = .running) := by
  refine .of_onHw _ (exec_commitWait k q s) ?_
  rw [Hw.commitWait_ready hr, ← hj, ← hstep, if_neg (Nat.ne_of_gt hlt), if_neg (Nat.not_lt.2 (Nat.le_of_lt hlt))]
  obtain ⟨hnext, hmem, -, f, hin, hnum, hcmd, hstage, -⟩ := hr.flies hs (s.hw.cmdAt k q h).latched .running .none
  exact ⟨hnext, hmem, f, hin, hnum, hcmd, hstage⟩

end

end Sys2Proof.Machine
end

section
/-!
PROOFS. APPLY past its checks (R268, R271, R273, R282): what events leave of what it reads, and its prepare or its write.
-/
namespace Sys2Proof.Machine

/-! ### Events told -/

/-- From s to t events have been told, and nothing else that the update engine reads has changed. -/
structure Told (s t : Hw) : Prop where
  work : MemWork s t
  regs : RegsKept eventRegs s t
  mem : t.mem = s.mem
  tiles : t.tiles = s.tiles
  phys : t.phys = s.phys
  regions : t.regions = s.regions
  flt : t.flt = s.flt
  mu : t.mu = s.mu
  chans : t.chans = s.chans
  layers : t.layers = s.layers
  jobs : t.jobs = s.jobs

namespace Told

theorem refl (s : Hw) : Told s s := ⟨.refl s, .refl _ s, rfl, rfl, rfl, rfl, rfl, rfl, rfl, rfl, rfl⟩

theorem of_raiseOnce (s : Hw) (code key a0 a1 : Nat) (w : Who) : Told s (s.raiseOnce code key a0 a1 w) := by
  have hwork := MemWork.of_raiseOnce s code key a0 a1 w
  unfold Hw.raiseOnce at hwork ⊢
  split at hwork
  next h =>
    rw [if_pos h]
    exact refl s
  next h =>
    rw [if_neg h]
    have hregs : RegsKept eventRegs s ({ s with host := { s.host with once := (code, key) :: s.host.once } } : Hw) := .of_regs rfl
    exact ⟨hwork, hregs.raise code a0 a1 w (fun _ hr => hr), Hw.raise_mem _ _ _ _ _, Hw.raise_tiles _ _ _ _ _, Hw.raise_phys _ _ _ _ _,
      Hw.raise_regions _ _ _ _ _, Hw.raise_flt _ _ _ _ _, Hw.raise_mu _ _ _ _ _, Hw.raise_chans _ _ _ _ _, Hw.raise_layers _ _ _ _ _,
      Hw.raise_jobs _ _ _ _ _⟩

theorem of_readTable (s : Hw) (ids : List Nat) : Told s (s.readTable ids) := by
  unfold Hw.readTable
  split
  · exact of_raiseOnce s _ _ _ _ _
  · exact refl s

variable {s t : Hw} (h : Told s t)
include h

theorem fget (f : Fld) (u : Nat) (hf : f.reg ∉ eventRegs := by decide) : t.fget f u = s.fget f u := Hw.fget_of_rd (h.regs _ _ hf)
theorem flag (f : Fld) (u : Nat) (hf : f.reg ∉ eventRegs := by decide) : t.flag f u = s.flag f u := Hw.flag_of_rd (h.regs _ _ hf)

theorem rd64 (lo hi : Reg) (u : Nat) (hlo : lo ∉ eventRegs := by decide) (hhi : hi ∉ eventRegs := by decide) : t.rd64 lo hi u = s.rd64 lo hi u := by
  unfold Hw.rd64
  rw [h.regs lo u hlo, h.regs hi u hhi]

theorem jobOf (n : Nat) : t.jobOf n = s.jobOf n := h.fget F.STRM_JOB_JOB n
theorem jobT (j : Nat) : t.jobT j = s.jobT j := h.rd64 .UPD_JOB_T_LO .UPD_JOB_T_HI j
theorem dual : t.dual = s.dual := h.flag F.UPD_MODE_DUAL 0
theorem getLayer (l : Nat) : t.getLayer l = s.getLayer l := congrArg (Sparse.get Layer.reset · l) h.layers
theorem getJob (j : Nat) : t.getJob j = s.getJob j := congrArg (Sparse.get Job.reset · j) h.jobs
theorem clean (hc : Clean s) : Clean t := ⟨h.mem ▸ hc.1, h.mu ▸ hc.2⟩
theorem alike (hc : Clean s) : Alike s t := ⟨.of_memWork h.work h.chans, h.mem, .of_clean hc.1⟩

theorem beside : Beside s t :=
  ⟨h.tiles, h.mem, h.regions, h.chans, congrArg (·.offline) h.mu, fun f hf u => h.fget f u (by revert f; decide)⟩

theorem capacity : t.capacity = s.capacity := by
  unfold Hw.capacity
  rw [h.mu]

theorem layerOk (hc : Clean s) (l : Nat) : t.layerOk l = s.layerOk l := by
  unfold Hw.layerOk Hw.layerEnt Hw.layerAddr Hw.peekRun
  rw [h.dual, h.fget F.UPD_LAYER_COUNT_COUNT, h.rd64 .UPD_LAYER_BASE_LO .UPD_LAYER_BASE_HI, h.capacity, (h.alike hc).peek]

theorem inRemote : t.inRemote = s.inRemote := by
  funext o
  unfold Hw.inRemote Hw.regionRec
  rw [h.regions]

theorem reachable : t.reachable = s.reachable := by
  funext n r
  unfold Hw.reachable Hw.storeResident Hw.getPhys Hw.physOf
  rw [h.capacity, h.flt, h.phys]

theorem recorded (x : Cmd) (a : ApplyJob) : t.recorded x a = s.recorded x a := by
  unfold Hw.recorded
  rw [h.jobOf, h.jobT, h.getLayer, h.regs .UPD_STEPSIZE _ (by decide)]

end Told

/-! ### The checks -/

/-- R214, R273: the conditions of R273, for a job, its regions and the ranges it reaches. -/
def Hw.checksOf (s : Hw) (job : Nat) (remote : Opnd → Bool) (reach : Nat → Nat × Nat → Bool) (x : Cmd) (a : ApplyJob) : Hw × Nat :=
  let who : Who := { kind := 1, unit := x.t, stream := some x.n, job := some job }
  let bad := a.lay.findSome? (fun p =>
    if !Desc.valid p.2.2.img then some p.2.2.id
    else if p.2.2.scaled && !Desc.valid p.2.2.scale then some (Desc.scaleDesc p.2.2.img) else none)
  match bad with
  | some d => (s.raise 0xC051 x.n d who, St.desc)
  | none =>
    if LayerEnt.job a.e ≠ job then (s, St.job)
    else match a.lay.find? (fun p => Desc.job p.2.2.img != job) with
      | some p => (s.raise 0xC052 x.n p.2.2.id who, St.job)
      | none =>
        if !a.formatsOk x then (s, St.format)
        else if a.lay.any (fun p => remote p.2.2 || p.2.2.ranges.any (fun r => !reach x.n r)) then (s, St.range)
        else if !a.shapesOk x then (s, St.shape)
        else (s, St.ok)

theorem Hw.applyChecks_eq (s : Hw) (x : Cmd) (a : ApplyJob) : s.applyChecks x a = s.checksOf (s.jobOf x.n) s.inRemote s.reachable x a := rfl

/-- Checks that pass pass whatever events have been told, and tell none. -/
theorem Hw.checksOf_passed {s : Hw} {job : Nat} {remote : Opnd → Bool} {reach : Nat → Nat × Nat → Bool} {x : Cmd} {a : ApplyJob}
    (h : (s.checksOf job remote reach x a).2 = 0) (t : Hw) : t.checksOf job remote reach x a = (t, 0) := by
  unfold Hw.checksOf at h ⊢
  simp only at h ⊢
  split at h
  · exact absurd (show St.desc = 0 from h) (by decide)
  · split at h
    · exact absurd (show St.job = 0 from h) (by decide)
    · rename_i hjob
      rw [if_neg hjob]
      split at h
      · exact absurd (show St.job = 0 from h) (by decide)
      · split at h
        · exact absurd (show St.format = 0 from h) (by decide)
        · rename_i hformat
          rw [if_neg hformat]
          split at h
          · exact absurd (show St.range = 0 from h) (by decide)
          · rename_i hrange
            rw [if_neg hrange]
            split at h
            · exact absurd (show St.shape = 0 from h) (by decide)
            · rename_i hshape
              rw [if_neg hshape]

theorem Told.applyChecks {s t : Hw} (h : Told s t) {x : Cmd} {a : ApplyJob} (hpass : (s.applyChecks x a).2 = 0) :
    s.applyChecks x a = (s, 0) ∧ t.applyChecks x a = (t, 0) := by
  rw [Hw.applyChecks_eq] at hpass
  rw [Hw.applyChecks_eq, Hw.applyChecks_eq, h.jobOf, h.inRemote, h.reachable]
  exact ⟨Hw.checksOf_passed hpass s, Hw.checksOf_passed hpass t⟩

/-- R271: a round that has read a step-size group, at a write count of its value. -/
def Job.withGroup (z : Job) (g gen : Nat) : Job := { z with groups := if z.groups.any (fun e => e.1 == g) then z.groups else z.groups ++ [(g, gen)] }

/-- R271: the command's round has read its layer's group. -/
def Hw.groupRead (s : Hw) (x : Cmd) (a : ApplyJob) (gen : Nat) : Hw := s.modJob (s.jobOf x.n) (·.withGroup (LayerEnt.group a.e) gen)

/-- R271, R273: an APPLY that its round takes, whatever events have been told. -/
theorem Told.applyRound {s t : Hw} (h : Told s t) {x : Cmd} {a : ApplyJob} (hpass : (s.applyRound x a).2 = 0) :
    ∃ gen, s.applyRound x a = (s.groupRead x a gen, 0) ∧ t.applyRound x a = (t.groupRead x a gen, 0) := by
  have hopen : t.roundOpen (s.jobOf x.n) = s.roundOpen (s.jobOf x.n) := h.flag F.UPD_JOB_OUTCOME_ROUND_OPEN _
  have hsent : t.readySent (s.jobOf x.n) = s.readySent (s.jobOf x.n) := h.flag F.UPD_JOB_OUTCOME_READY_SENT _
  have htag : t.stepTag (LayerEnt.group a.e) = s.stepTag (LayerEnt.group a.e) := h.rd64 .UPD_STEPTAG_LO .UPD_STEPTAG_HI _
  have hvalue : t.stepValue (LayerEnt.group a.e) = s.stepValue (LayerEnt.group a.e) := by
    unfold Hw.stepValue
    rw [h.regs .UPD_STEPSIZE _ (by decide)]
  have hgen : t.fget F.UPD_STEPGEN_GEN (LayerEnt.group a.e) = s.fget F.UPD_STEPGEN_GEN (LayerEnt.group a.e) := h.fget F.UPD_STEPGEN_GEN _
  refine ⟨s.fget F.UPD_STEPGEN_GEN (LayerEnt.group a.e), ?_⟩
  unfold Hw.groupRead
  unfold Hw.applyRound at hpass ⊢
  simp only [h.jobOf, h.getJob, h.getLayer, hopen, hsent, htag, hvalue, hgen] at hpass ⊢
  split at hpass
  · exact absurd (show St.param = 0 from hpass) (by decide)
  · rename_i hlate
    rw [if_neg hlate, if_neg hlate]
    split at hpass
    · exact absurd (show St.param = 0 from hpass) (by decide)
    · rename_i hround
      rw [if_neg hround, if_neg hround]
      split at hpass
      · exact absurd (show St.param = 0 from hpass) (by decide)
      · rename_i hstale
        rw [if_neg hstale, if_neg hstale]
        exact ⟨rfl, rfl⟩

/-! ### Past the checks -/

/-- R305: the descriptors that an APPLY's layer entry names. -/
def Cmd.layIds (x : Cmd) : List Nat := x.lay.flatMap (fun p => p.2.2.id :: (if p.2.2.scaled then [Desc.scaleDesc p.2.2.img] else []))

/-- R271, R273, R282: an APPLY that has passed its checks. -/
def Hw.applyChecked (s : Hw) (x : Cmd) (a : ApplyJob) (write : Bool) : Hw :=
  let k := if write then (s, 0) else s.applyRound x a
  if k.2 ≠ 0 then k.1.turned x k.2
  else if write && (k.1.getLayer a.l).mayWrite then k.1.done { x with latched := 3 } 0
  else
    let g := k.1.consumeBy (applySpans x x.lay)
    match g.2 with
    | some at_ => g.1.consumeDross x.n at_ 4 x.t
    | none => if write then g.1.writeAgain x a else g.1.prepare x a

/-- R273: an APPLY once its entry and its descriptors have been taken in. -/
def Hw.applyTaken (s : Hw) (x : Cmd) (write : Bool) : Hw :=
  match s.layerOk (applyLayer x.w) with
  | none => s.turned x St.param
  | some e =>
    let a : ApplyJob :=
      { l := applyLayer x.w, e := e, lay := x.lay, live := s.dual && (s.getLayer (applyLayer x.w)).epoch, dual := s.dual }
    let c := s.applyChecks x a
    if c.2 ≠ 0 then c.1.turned x c.2 else c.1.applyChecked x a write

/-- R305: the ranges of an APPLY's entry and of its descriptors. -/
def Hw.applyRanges (s : Hw) (x : Cmd) : List (Nat × Nat) :=
  (if (s.layerEnt (applyLayer x.w)).isSome then [(s.layerAddr (applyLayer x.w), s.layerAddr (applyLayer x.w) + 127)] else []) ++
    (x.layIds.filter (fun i => i < s.tableCap)).map (fun i => (s.tableBase + 64 * i, s.tableBase + 64 * i + 63))

/-- R520: an APPLY whose entry lies beyond mapped GDDR7 tells so. -/
def Hw.entryTold (s : Hw) (l : Nat) : Hw :=
  if l < s.fget F.UPD_LAYER_COUNT_COUNT && (s.layerEnt l).isNone then s.raiseOnce 0x5051 0 (s.layerAddr l) (s.layerAddr l >>> 32) else s

theorem Hw.apply_eq (s : Hw) (x : Cmd) : s.apply x =
    match (((s.entryTold (applyLayer x.w)).readTable x.layIds).consume (s.applyRanges x)).2 with
    | some at_ => (((s.entryTold (applyLayer x.w)).readTable x.layIds).consume (s.applyRanges x)).1.consumeDross x.n at_ 4 x.t
    | none => (((s.entryTold (applyLayer x.w)).readTable x.layIds).consume (s.applyRanges x)).1.applyTaken x (s.writeApply x.w) := rfl

section

variable {s : Hw} {x : Cmd} {a : ApplyJob}

/-- R305, R520: what an APPLY takes in from memory without an error only tells events. -/
theorem Hw.apply_passes (hc : Clean s) {l : Nat} (hl : l = applyLayer x.w) {e : LayerEnt} (he : s.layerOk l = some e)
    (ha : a = { l := l, e := e, lay := x.lay, live := s.dual && (s.getLayer l).epoch, dual := s.dual }) (hpass : (s.applyChecks x a).2 = 0) :
    s.apply x = (s.readTable x.layIds).applyChecked x a (s.writeApply x.w) := by
  subst hl
  have htold := Told.of_readTable s x.layIds
  have hentry : s.entryTold (applyLayer x.w) = s := by
    unfold Hw.layerOk at he
    unfold Hw.entryTold
    cases hent : s.layerEnt (applyLayer x.w) with
    | none => rw [hent] at he; cases he
    | some e => simp
  have hconsume := Hw.consume_clean (htold.clean hc).1 (htold.clean hc).2 (s.applyRanges x)
  rw [Hw.apply_eq, hentry, hconsume]
  obtain ⟨-, hchecks⟩ := htold.applyChecks hpass
  have hok := (htold.layerOk hc (applyLayer x.w)).trans he
  have hdual := htold.dual
  have hlayer := htold.getLayer (applyLayer x.w)
  generalize s.readTable x.layIds = t at hchecks hok hdual hlayer ⊢
  simp only
  unfold Hw.applyTaken
  rw [hok]
  simp only
  rw [hdual, hlayer, ← ha, hchecks, if_neg (fun hne => hne rfl)]

variable {t : Hw} (h : Told s t) (hc : Clean s)
include h hc

/-- R273: past its checks, and taken by its round, an APPLY prepares. -/
theorem Told.applyChecked_prepare (hpass : (s.applyRound x a).2 = 0) : ∃ gen,
    s.applyRound x a = (s.groupRead x a gen, 0) ∧ t.applyChecked x a false = (t.groupRead x a gen).prepare x a := by
  obtain ⟨gen, hs, ht⟩ := h.applyRound hpass
  refine ⟨gen, hs, ?_⟩
  have hconsume := Hw.consumeBy_clean (s := t.groupRead x a gen) (h.clean hc).1 (h.clean hc).2 (applySpans x x.lay)
  unfold Hw.applyChecked
  simp only [ht, hconsume, Bool.false_and, Bool.false_eq_true, ne_eq, not_true_eq_false, if_false]

/-- R282: past its checks, a write APPLY writes unless its step has no decision to write. -/
theorem Told.applyChecked_write : t.applyChecked x a true =
    if (s.getLayer a.l).mayWrite then t.done { x with latched := 3 } 0 else t.writeAgain x a := by
  have hconsume := Hw.consumeBy_clean (h.clean hc).1 (h.clean hc).2 (applySpans x x.lay)
  unfold Hw.applyChecked
  simp only [hconsume, h.getLayer, Bool.true_and, if_true, ne_eq, not_true_eq_false, if_false]

end

end Sys2Proof.Machine
end

section
/-!
PROOFS. APPLY (R273, R282, R289, R459), and what the commands of the commit do.
-/
namespace Sys2Proof.Machine

/-- R282, R289: an APPLY that is no write opens the round of its step. -/
def Hw.applyOpened (s : Hw) (j : Nat) (w : Record64) : Hw := if s.writeApply w then s else s.openRound j (applyStep w)

section

variable {s : Hw}

theorem RoundWork.applyOpened (s : Hw) (j : Nat) (w : Record64) : RoundWork s (s.applyOpened j w) := by
  unfold Hw.applyOpened
  split
  · exact ⟨rfl, .refl _ s⟩
  · exact .openRound s j _

namespace RoundWork

variable {t : Hw} (h : RoundWork s t)
include h

theorem clean (hc : Clean s) : Clean t := ⟨h.mem ▸ hc.1, h.mu ▸ hc.2⟩
theorem getLayer (l : Nat) : t.getLayer l = s.getLayer l := congrArg (Sparse.get Layer.reset · l) h.layers

theorem writeApply (w : Record64) : t.writeApply w = s.writeApply w := by
  unfold Hw.writeApply Hw.dual
  rw [h.flag F.UPD_MODE_DUAL, h.getLayer]

end RoundWork

variable {k q : Nat} {h : Head}

/-- R273, R459: an APPLY outside FULL service, and in it. -/
theorem Hw.runApply_ready (hr : Ready s k q 0x60 h) : s.runApply k q =
    if s.level ≠ 2 then (s.taken k q h).turned { s.cmdAt k q h with latched := 0 } St.param
    else ((s.taken k q h).applyOpened (s.jobOf h.n) h.w).apply { s.cmdAt k q h with latched := 0 } := by
  have hrun : s.runApply k q =
      if (s.taken k q h).level ≠ 2 then (s.taken k q h).turned { s.cmdAt k q h with latched := 0 } St.param
      else ((s.taken k q h).applyOpened ((s.taken k q h).jobOf h.n) h.w).apply { s.cmdAt k q h with latched := 0 } :=
    Hw.issue_ready hr (fun w => Com.opcode w == 0x60) (beq_iff_eq.2 hr.2.1) _
  rw [hrun, s.taken_level, s.taken_jobOf]

/-- The command of an APPLY that has issued is done with its status: what it leaves of its stream. -/
theorem HeadGone.applied {t : Hw} (hg : HeadGone k q h s t) (l st : Nat) (unit : UnitUse) :
    Issued (t.fly { s.cmdAt k q h with latched := l } (.done st) unit) k h st ∧
    NextInLine s (t.fly { s.cmdAt k q h with latched := l } (.done st) unit) k q h ∧
    (t.fly { s.cmdAt k q h with latched := l } (.done st) unit).mem = t.mem := by
  obtain ⟨hgone, hissued, hmem, -⟩ := hg.fly (x := { s.cmdAt k q h with latched := l }) rfl rfl rfl rfl st unit
  exact ⟨hissued, hgone.next, hmem⟩

end

/-! ### What an APPLY that passes does -/

section

variable {s : State} {k : Fin 512} {q : Fin 4} {h : Head} {j : Nat} (hs : HomeOn s.hw k h.n) (hj : j = s.hw.jobOf h.n)
  (hr : Ready s.hw k q 0x60 h) (hc : Clean s.hw)
include hs hr hc

/-- APPLY outside FULL service. -/
theorem Completes.apply_param (hlevel : s.hw.level ≠ 2) :
    Completes (.apply k q) s (fun t => Issued t k h St.param ∧ NextInLine s.hw t k q h ∧ t.mem = s.hw.mem) := by
  refine .of_onHw _ (exec_apply k q s) ?_
  obtain ⟨-, hmem, -⟩ := s.hw.taken_clean hc k q h
  obtain ⟨hissued, hnext, hstay⟩ := (hr.headGone hs).applied 0 St.param .none
  rw [Hw.runApply_ready hr, if_pos hlevel]
  exact ⟨hissued, hnext, hstay.trans hmem⟩

variable {x : Cmd} {s1 s2 : Hw} {l : Nat} {e : LayerEnt} {a : ApplyJob} (hx : x = { s.hw.cmdAt k q h with latched := 0 })
  (hs1 : s1 = s.hw.taken k q h) (hs2 : s2 = s1.applyOpened j h.w) (hl : l = applyLayer h.w) (hlevel : s.hw.level = 2)
  (he : s2.layerOk l = some e) (ha : a = { l := l, e := e, lay := x.lay, live := s2.dual && (s2.getLayer l).epoch, dual := s2.dual })
  (hpass : (s2.applyChecks x a).2 = 0)
include hj hx hs1 hs2 hl hlevel he ha hpass

omit hs in
/-- R273, R289: an APPLY that passes its checks goes on from the state with its round, with events told. -/
theorem Completes.apply_passes {P : Hw → Prop} (hp : P ((s2.readTable x.layIds).applyChecked x a (s1.writeApply h.w))) :
    Completes (.apply k q) s P := by
  refine .of_onHw _ (exec_apply k q s) ?_
  have hround : RoundWork s1 s2 := hs2 ▸ .applyOpened s1 j h.w
  have hclean : Clean s1 := by
    rw [hs1]
    exact (s.hw.taken_clean hc k q h).1
  have hw : x.w = h.w := by rw [hx]; rfl
  have hwrite : s2.writeApply x.w = s1.writeApply h.w := by rw [hround.writeApply, hw]
  rw [Hw.runApply_ready hr, if_neg (fun hne => hne hlevel), ← hx, ← hj, ← hs1, ← hs2,
    Hw.apply_passes (hround.clean hclean) (hl.trans (by rw [hw])) he ha hpass, hwrite]
  exact hp

omit hx hl hlevel he ha hpass in
/-- What the state with the round has of the state before: the command that left the head, memory, and what an APPLY records. -/
theorem RoundWork.ofApply : HeadGone k q h s.hw s2 ∧ Clean s2 ∧ s2.mem = s.hw.mem ∧ s2.jobOf h.n = j ∧ s2.jobT j = s.hw.jobT j ∧
    (∀ m, s2.getLayer m = s.hw.getLayer m) ∧ ∀ g, s2.rd .UPD_STEPSIZE g = s.hw.rd .UPD_STEPSIZE g := by
  have hround : RoundWork s1 s2 := hs2 ▸ .applyOpened s1 j h.w
  obtain ⟨hclean, hmem, -⟩ := s.hw.taken_clean hc k q h
  subst hs1
  refine ⟨(hr.headGone hs).beside hround.beside, hround.clean hclean, hround.mem.trans hmem, ?_, ?_, fun m => ?_, fun g => ?_⟩
  · exact (hround.fget F.STRM_JOB_JOB h.n).trans ((s.hw.taken_jobOf k q h h.n).trans hj.symm)
  · rw [← s.hw.taken_jobT k q h]
    unfold Hw.jobT Hw.rd64
    rw [hround.regs _ _ (by decide), hround.regs .UPD_JOB_T_HI _ (by decide)]
  · rw [hround.getLayer, s.hw.taken_getLayer]
  · rw [hround.regs _ _ (by decide), RegsKept.taken s.hw k q h _ _ (by decide)]

/-- APPLY: a prepare. -/
theorem Completes.apply_prepare {s4 : Hw} (hprepare : s1.writeApply h.w = false) (htaken : (s2.applyRound x a).2 = 0)
    (hs4 : s4 = (s2.applyRound x a).1) : Completes (.apply k q) s (fun t => (∃ st, Issued t k h st) ∧ NextInLine s.hw t k q h ∧
      t.mem = (s4.prepare x a).mem ∧ ∃ r, (t.getLayer l).prep = some r ∧ r.step = applyStep h.w ∧ r.job = j ∧ r.t = s.hw.jobT j ∧
        r.gexp = (s.hw.getLayer l).gexp ∧ r.eta = (s.hw.rd .UPD_STEPSIZE (LayerEnt.group e)).toNat) := by
  refine Completes.apply_passes hj hr hc hx hs1 hs2 hl hlevel he ha hpass ?_
  obtain ⟨hgone, hclean, -, hjob, hT, hlayer, hrd⟩ := RoundWork.ofApply hs hj hr hc hs1 hs2
  have htold := Told.of_readTable s2 x.layIds
  rw [hprepare]
  obtain ⟨gen, hround, heq⟩ := htold.applyChecked_prepare hclean htaken
  rw [heq, hs4, hround]
  generalize s2.readTable x.layIds = u at htold ⊢
  have hn : x.n = h.n := by rw [hx]; rfl
  have hw : x.w = h.w := by rw [hx]; rfl
  have hread : HeadGone k q h s.hw (u.groupRead x a gen) := (hgone.beside htold.beside).of_eq rfl fun _ _ _ => rfl
  obtain ⟨hissued, hnext, r, hprep, hstep, hrjob, hrt, hgexp, heta⟩ := hread.prepare (x := x) (by rw [hx]; rfl) hn (by rw [hx]; rfl) hw a
  have halike : Alike (s2.groupRead x a gen) (u.groupRead x a gen) :=
    (htold.alike hclean).still (.of_eq rfl rfl rfl rfl rfl rfl) (.of_eq rfl rfl rfl rfl rfl rfl) rfl rfl
  have hjobu : (u.groupRead x a gen).jobOf x.n = j := by
    rw [hn]
    exact (htold.jobOf h.n).trans hjob
  have hal : a.l = l := by rw [ha]
  have hae : a.e = e := by rw [ha]
  refine ⟨hissued, hnext, halike.prepare_mem (htold.recorded x a), r, hal ▸ hprep, hw ▸ hstep, hrjob.trans hjobu, ?_, ?_, ?_⟩
  · rw [hrt, hjobu]
    exact (htold.jobT j).trans hT
  · rw [hgexp, hal]
    exact congrArg Layer.gexp ((htold.getLayer l).trans (hlayer l))
  · rw [heta, hae]
    exact congrArg BitVec.toNat ((htold.regs _ _ (by decide)).trans (hrd _))

/-- APPLY: a write, and one whose step leaves nothing to write. -/
theorem Completes.apply_write (hwrite : s1.writeApply h.w = true) :
    ((s.hw.getLayer l).mayWrite = false → Completes (.apply k q) s (fun t => (∃ st, Issued t k h st) ∧ NextInLine s.hw t k q h ∧
      t.mem = (s2.writeAgain x a).mem)) ∧
    ((s.hw.getLayer l).mayWrite = true → Completes (.apply k q) s (fun t => Issued t k h 0 ∧ NextInLine s.hw t k q h ∧ t.mem = s.hw.mem)) := by
  obtain ⟨hgone, hclean, hmem, -, -, hlayer, -⟩ := RoundWork.ofApply hs hj hr hc hs1 hs2
  have htold := Told.of_readTable s2 x.layIds
  have hn : x.n = h.n := by rw [hx]; rfl
  have hw : x.w = h.w := by rw [hx]; rfl
  have hal : a.l = l := by rw [ha]
  have hmay : (s2.getLayer a.l).mayWrite = (s.hw.getLayer l).mayWrite := by rw [hlayer, hal]
  have hu := hgone.beside htold.beside
  have hdoes := htold.applyChecked_write (x := x) (a := a) hclean
  rw [hmay] at hdoes
  refine ⟨fun hnot => Completes.apply_passes hj hr hc hx hs1 hs2 hl hlevel he ha hpass ?_,
    fun hmayWrite => Completes.apply_passes hj hr hc hx hs1 hs2 hl hlevel he ha hpass ?_⟩
  · rw [hwrite, hdoes, if_neg (by rw [hnot]; exact Bool.false_ne_true)]
    obtain ⟨hissued, hnext⟩ := hu.writeAgain (x := x) (by rw [hx]; rfl) hn (by rw [hx]; rfl) hw a
    exact ⟨hissued, hnext, (htold.alike hclean).writeAgain_mem (congrArg Layer.last (htold.getLayer a.l))⟩
  · rw [hwrite, hdoes, if_pos hmayWrite, hx]
    obtain ⟨hissued, hnext, hstay⟩ := hu.applied 3 0 ((s2.readTable x.layIds).unitNeed h.w)
    rw [hx] at hissued hnext hstay
    exact ⟨hissued, hnext, hstay.trans ((hx ▸ htold.mem).trans hmem)⟩

end

/-- Settles O43: READY and COMMIT_WAIT by what their registers show at issue, APPLY by what its round, its entry and the events of its descriptors
leave of the state that it prepares from. -/
theorem commitCommands : Obligations.CommitCommands := by
  unfold Obligations.CommitCommands
  intro s k q h j step hs hj hstep
  refine ⟨fun hr => .ready hs hj hstep hr, fun hr => ⟨fun hle => .commitWait_decided hs hj hstep hr hle,
    fun hlt => .commitWait_later hs hj hstep hr hlt⟩, ?_⟩
  intro x s1 s2 l hr hc hx hs1 hs2 hl
  refine ⟨fun hlevel => .apply_param hs hr hc hlevel, ?_⟩
  intro hlevel e a he ha hpass
  obtain ⟨hsame, -⟩ := (Told.refl s2).applyChecks hpass
  rw [hsame]
  refine ⟨fun s4 hprepare htaken hs4 => ?_, fun hwrite hmay => ?_, fun hwrite hmay => ?_⟩
  · exact .apply_prepare hs hj hr hc hx hs1 hs2 hl hlevel he ha hpass hprepare htaken hs4
  · exact (Completes.apply_write hs hj hr hc hx hs1 hs2 hl hlevel he ha hpass hwrite).1 hmay
  · exact (Completes.apply_write hs hj hr hc hx hs1 hs2 hl hlevel he ha hpass hwrite).2 hmay

end Sys2Proof.Machine
end

section
/-!
PROOFS. A dross word of which a write leaves a byte out stays dross (R308, R336), and so a run written after an intake is stored over memory as it
was before it.
-/
namespace Sys2Proof.Machine

namespace Mem

variable {m : Mem}

/-- R308, R336: a dross word that is not put whole stays dross. -/
theorem syn_writeWord_dross_part {v w : Nat} {bs : List (Nat × Byte)} (h : Sparse.get 0 m.syn v = 0xFF) (hpart : v = w → bs.length ≠ 8) :
    Sparse.get 0 (m.writeWord w bs).1.syn v = 0xFF := by
  by_cases hv : v = w
  · subst hv
    have hsyn : m.syndrome v = .dross := by
      unfold syndrome
      rw [h]
      rfl
    unfold writeWord
    simp only [hpart rfl, hsyn, if_false]
    exact (congrArg (Sparse.get 0 · v) syn_putBytes).trans h
  · exact syn_writeWord_dross h hv

theorem syn_writeWords_dross {v : Nat} {gs : List (Nat × List (Nat × Byte))} (h : Sparse.get 0 m.syn v = 0xFF)
    (hpart : ∀ g ∈ gs, v = g.1 → g.2.length ≠ 8) : Sparse.get 0 (m.writeWords gs).syn v = 0xFF := by
  induction gs generalizing m with
  | nil => exact h
  | cons g gs ih =>
    obtain ⟨hg, hgs⟩ := List.forall_mem_cons.1 hpart
    exact ih (syn_writeWord_dross_part h hg) hgs

end Mem

variable {s v : Hw}

theorem Hw.syn_mergeAtoms_dross {w : Nat} (gs : List (Nat × List (Nat × Byte))) (h : Sparse.get 0 s.mem.syn w = 0xFF) :
    Sparse.get 0 (s.mergeAtoms gs).1.mem.syn w = 0xFF := by
  have hstep : ∀ (r : Hw × List Nat) (a : Nat), Sparse.get 0 r.1.mem.syn w = 0xFF → Sparse.get 0 (Hw.mergeStep gs r a).1.mem.syn w = 0xFF :=
    fun r a hr => by
      unfold Hw.mergeStep
      simp only [Hw.bump_mem, Hw.accountWords_mem]
      split
      · exact hr
      · exact (Mem.syn_markDross_cases a w).elim id (fun e => e.trans hr)
  obtain ⟨l, hl⟩ := s.mergeAtoms_eq gs
  rw [hl]
  exact List.foldlRecOn (b := (s, [])) (motive := fun r : Hw × List Nat => Sparse.get 0 r.1.mem.syn w = 0xFF) l (Hw.mergeStep gs) h
    fun r hr a _ => hstep r a hr

/-- R308, R336: a dross word of which a byte is not among those written stays dross. -/
theorem Hw.syn_writeKeys_dross {c : Sparse Byte} (hc : Sparse.sorted none c = true) {x : Nat} (hx : ∀ e ∈ c, e.1 ≠ x)
    (h : Sparse.get 0 s.mem.syn (x / 8) = 0xFF) : Sparse.get 0 (s.writeKeys c).mem.syn (x / 8) = 0xFF := by
  rw [Hw.writeKeys_mem_eq]
  refine Mem.syn_markAll_dross _ (Mem.syn_writeWords_dross (Hw.syn_mergeAtoms_dross _ h) fun g hg hw hlen => ?_)
  have hgroups := Mem.Groups.of_groupWords hc
  have hall := mem_of_whole (hgroups.bytes g hg) (hgroups.small g hg) hlen (Nat.mod_lt x (by decide))
  obtain ⟨p, hp, hk⟩ := List.mem_map.1 hall
  obtain ⟨_, hin⟩ := (mem_groupWords hg).2 p hp
  exact hx _ hin (by simp only; omega)

theorem Hw.syn_writeRun_dross {a k : Nat} {bs : List Byte} (h : ∀ i < bs.length, s.Takes (a + i) (k + i)) {x : Nat}
    (hx : x < k ∨ k + bs.length ≤ x) (hd : Sparse.get 0 s.mem.syn (x / 8) = 0xFF) :
    Sparse.get 0 (s.writeRun a bs).mem.syn (x / 8) = 0xFF := by
  have hs := Spells.of_runCells a bs
  obtain ⟨v, hv, hmem⟩ := Hw.writeAddrs_takes (fun x => k + (x - a)) (c := runCells a bs) fun e he => by
    obtain ⟨i, hi, rfl⟩ := hs.only e he
    simpa using h i hi
  have hspells := (hs.rekey k).foldl_set
  have hsorted := Sparse.sorted_foldl_set ((runCells a bs).map (fun e => (k + (e.1 - a), e.2))) [] rfl
  unfold Hw.writeRun
  rw [hmem]
  refine Hw.syn_writeKeys_dross hsorted (fun e he => ?_) (by rw [hv]; exact hd)
  obtain ⟨n, hn, rfl⟩ := hspells.only e he
  simp only
  omega

/-- A run written where an intake of words has left memory intact is stored over what was there before the intake. -/
theorem Stored.of_intact {a k : Nat} {bs : List Byte} (hi : Mem.Intact s.mem v.mem) (h : ∀ i < bs.length, v.Takes (a + i) (k + i)) :
    Stored s (v.writeRun a bs) k bs := by
  obtain ⟨hin, hout⟩ := Stored.of_writeRun h
  refine ⟨hin, fun j hj => ?_⟩
  rcases hi j with hd | ⟨hgood, _⟩
  · exact .inl (Mem.atomDross_of_word (by omega) (Hw.syn_writeRun_dross h hj hd))
  · exact (hout j hj).imp id fun e => e.trans hgood

end Sys2Proof.Machine
end

section
/-!
PROOFS. The head's leaving and the trace (R261, R509): where the trace takes no records of commands, nothing enters the rim buffer; and what an
intake leaves of the address map.
-/
namespace Sys2Proof.Machine

/-- From s to t the rim buffer of the trace and the beat controller have stayed. -/
structure RimKept (s t : Hw) : Prop where
  trace : t.test.trace = s.test.trace
  beat : t.beat = s.beat

namespace RimKept

variable {s t v : Hw}

theorem refl (s : Hw) : RimKept s s := ⟨rfl, rfl⟩

theorem trans (h : RimKept s t) (h' : RimKept t v) : RimKept s v := ⟨h'.trace.trans h.trace, h'.beat.trans h.beat⟩

theorem foldl {α : Type} (f : Hw → α → Hw) (hf : ∀ s a, RimKept s (f s a)) (l : List α) : ∀ s : Hw, RimKept s (l.foldl f s) := by
  induction l with
  | nil => exact refl
  | cons a l ih => exact fun s => (hf s a).trans (ih _)

theorem of_pcEvent (s : Hw) (ev t n k : Nat) : RimKept s (s.pcEvent ev t n k) := by
  have hcount : ∀ (v : Hw) (x u : Nat), RimKept v (v.wr64 .DBG_PC_VAL_LO .DBG_PC_VAL_HI x u) := fun v x u => ⟨rfl, rfl⟩
  unfold Hw.pcEvent
  split
  · refine foldl _ (fun v i => ?_) _ s
    simp only
    split
    · exact hcount v _ _
    · exact refl v
  · exact refl s

theorem of_opportunity (s : Hw) (kind idx t n : Nat) : RimKept s (s.opportunity kind idx t n) := by
  have hopps : ∀ (v : Hw) (o : Sparse Nat), RimKept v { v with test := { v.test with opps := o } } := fun v o => ⟨rfl, rfl⟩
  have hbump : ∀ (v : Hw) (f : Fld) (u : Nat), RimKept v (v.bump f u) := fun v f u => ⟨by rw [Hw.bump_test], Hw.bump_beat _ _ _ _⟩
  unfold Hw.opportunity
  split
  · exact refl s
  · refine foldl _ (fun v k => ?_) _ s
    simp only
    split
    · split
      · exact ((hopps v _).trans (hbump _ _ _)).trans (of_pcEvent _ _ _ _ _)
      · exact hopps v _
    · exact refl v

theorem of_traceCmd (h : s.flag F.DBG_TRACE_CTL_SRC_CMD = false) (kind t q n tag tail : Nat) : RimKept s (s.traceCmd kind t q n tag tail) := by
  unfold Hw.traceCmd
  rw [h, Bool.false_and, if_neg Bool.false_ne_true]
  exact refl s

/-- R509: a trace that takes no records of commands takes none of a command that leaves the head. -/
theorem of_leaveHead (k q : Nat) (h : Head) (hoff : s.flag F.DBG_TRACE_CTL_SRC_CMD = false) : RimKept s (s.leaveHead k q h) := by
  unfold Hw.leaveHead
  refine RimKept.trans ?_ (of_opportunity _ _ _ _ _)
  refine RimKept.trans ?_ (of_pcEvent _ _ _ _ _)
  refine RimKept.trans ?_ (of_traceCmd ?off _ _ _ _ _ _)
  case off => exact hoff
  exact ⟨rfl, rfl⟩

theorem traceRec (h : RimKept s t) (hn : t.beatNo = s.beatNo) (kind q k n tag tail : Nat) :
    t.traceRec kind q k n tag tail = s.traceRec kind q k n tag tail := by
  unfold Hw.traceRec
  rw [h.beat, hn]

end RimKept

namespace Intake

variable {s t : Hw}

/-- But for the channels' own state the address map stays. -/
theorem mapKept (h : Intake s t) : MapKept s { t with chans := s.chans } :=
  .of_memWork ⟨h.work.regs, h.work.waiting, h.work.rest⟩ rfl

theorem capacity (h : Intake s t) : t.capacity = s.capacity := by
  have hmapped : t.mu.mapped = s.mu.mapped := (congrArg MemUnit.mapped h.mapKept.mu :)
  have hwindow : t.mu.windowOff = s.mu.windowOff := (congrArg MemUnit.windowOff h.mapKept.mu :)
  unfold Hw.capacity
  rw [hmapped, hwindow]

/-- Of a channel the map reads only whether it returns. -/
theorem place (h : Intake s t) (a : Nat) : t.place a = s.place a := by
  have hplace : t.place a = ({ t with chans := s.chans } : Hw).place a := by
    have hreturning : ∀ o, (({ t with chans := s.chans } : Hw).getChan o).returning = (t.getChan o).returning := fun o => (h.returning o).symm
    unfold Hw.place Hw.position Hw.rehomed
    simp only [hreturning]
    rfl
  rw [hplace, h.mapKept.place]

theorem takes (h : Intake s t) {a k : Nat} (ht : s.Takes a k) : t.Takes a k := by
  obtain ⟨hlock, hseed, hplace⟩ := ht
  refine ⟨(h.mapKept.lockedAt a).trans hlock, (h.mapKept.seedGuard k).trans hseed, ?_⟩
  rw [h.place]
  exact hplace

end Intake

end Sys2Proof.Machine
end

section
/-!
PROOFS. The count of the trace's records (R509): the completion of a command leaves it alone.
-/
namespace Sys2Proof.Machine

/-- The register that counts the records in the trace buffer. -/
def countRegs : List Reg := [.DBG_TRACE_COUNT]

namespace EdgeWork

variable {L : List Reg} {s t : Hw}

theorem of_latches (s : Hw) (x : Latches) : EdgeWork L s { s with latches := x } := of_eq rfl rfl rfl

theorem of_setFrame (s : Hw) (f : Nat) (x : FrameState) : EdgeWork L s (s.setFrame f x) := of_eq rfl rfl rfl

theorem of_setCtxOf (s : Hw) (n : Nat) (c : StreamCtx) : EdgeWork L s (s.setCtxOf n c) := by
  unfold Hw.setCtxOf
  split
  · exact of_eq rfl rfl rfl
  · simp only
    split
    · exact refl s
    · exact of_setFrame s _ _

theorem of_changeLatch (s : Hw) (n latch : Nat) (clear : Bool) : EdgeWork L s (s.changeLatch n latch clear) := by
  unfold Hw.changeLatch
  simp only
  split
  · exact (refl s).modTile _ _
  · unfold Hw.modSet
    split
    · exact (refl s).modTile _ _
    · exact of_setFrame s _ _

theorem of_sendRemote (s : Hw) (stream entry far latch job : Nat) (clear : Bool) : EdgeWork L s (s.sendRemote stream entry far latch job clear) := by
  unfold Hw.sendRemote
  exact (of_latches s _).trans (of_routeRecord _ _ _)

theorem of_applySel (s : Hw) (n : Nat) (remotes : List (Nat × Nat × Nat)) (x : Nat) : EdgeWork L s (s.applySel n remotes x) := by
  unfold Hw.applySel
  split
  · exact of_changeLatch s _ _ _
  · exact of_latches s _
  · split
    · exact of_sendRemote s _ _ _ _ _ _
    · exact refl s
  · exact refl s

theorem of_accStatus (s : Hw) (n num tag st : Nat) : EdgeWork countRegs s (s.accStatus n num tag st) := by
  unfold Hw.accStatus
  extract_lets code first s1 s2 s3
  have h1 : EdgeWork countRegs s s1 := by
    change EdgeWork countRegs s (if code = 0 then _ else _)
    split
    · exact refl s
    · exact (refl s).fset F.STRM_STATUS_ACC_CODES _ n
  have h2 : EdgeWork countRegs s s2 := h1.fset F.STRM_STATUS_ACC_FLAGS _ n
  have h3 : EdgeWork countRegs s s3 := by
    change EdgeWork countRegs s (if s2.rd .STRM_STATUS_ACC n = s.rd .STRM_STATUS_ACC n then _ else _)
    split
    · exact h2
    · exact h2.shadowTouch n
  split
  · exact (((h3.fset F.STRM_ERR_TAG_TAG _ n).fset F.STRM_ERR_TAG_CODE _ n).fset F.STRM_ERR_COUNT_ISSUED _ n).raise _ _ _ _
  · exact h3

theorem of_traceCmd (s : Hw) (kind t q n tag tail : Nat) : EdgeWork countRegs s (s.traceCmd kind t q n tag tail) := by
  unfold Hw.traceCmd
  split
  · generalize s.traceRec kind q t n tag tail = r
    rcases s.trace_cases r with h | ⟨l, h⟩ | h <;> rw [h]
    · exact refl s
    · exact of_eq rfl rfl rfl
    · exact (refl s).bump F.DBG_TRACE_LOST_COUNT 0 1
  · exact refl s

theorem of_retireSlots (s : Hw) (n k : Nat) : EdgeWork countRegs s (s.retireSlots n k) := by
  have hshadow : ∀ (v : Hw) (b : Prop) [Decidable b], EdgeWork countRegs s v → EdgeWork countRegs s (if b then v else v.shadowTouch n) :=
    fun v b _ h => by
      split
      · exact h
      · exact h.shadowTouch n
  unfold Hw.retireSlots
  simp only
  exact (hshadow _ _ ((((refl s).fset F.STRM_RETIRED_COUNT _ n).setStream n _).setStream n _)).trans
    (foldl _ (fun v e => (refl v).raise _ _ _ _) _ _)

theorem of_retire (s : Hw) (n : Nat) : EdgeWork countRegs s (s.retire n) := by
  unfold Hw.retire
  simp only
  split
  · exact of_setCtxOf s n _
  · exact (of_setCtxOf s n _).trans (of_retireSlots _ n _)

/-- R245, R509: a command that completes without an error adds no record to the trace buffer. -/
theorem of_complete_zero (s : Hw) (n : Nat) (f : InFlight) : EdgeWork countRegs s (s.complete n f 0) := by
  have hmark : EdgeWork countRegs s (s.completeMarked n f) :=
    ((of_accStatus s n _ _ _).trans (of_traceCmd _ _ _ _ _ _ _)).trans (of_setCtxOf _ _ _)
  rw [Hw.complete_zero]
  exact (hmark.trans (foldl _ (fun v x => of_applySel v n f.remotes x) _ _)).trans (of_retire _ _)

theorem of_completeNow_zero (s : Hw) (x : Cmd) : EdgeWork countRegs s (s.completeNow x 0) := by
  have hfly : EdgeWork countRegs s (s.fly x .running .none) := by
    unfold Hw.fly
    split
    · exact refl s
    · exact of_eq rfl rfl rfl
  unfold Hw.completeNow
  generalize s.fly x .running .none = v at hfly ⊢
  simp only
  split
  · exact hfly
  · exact hfly.trans (of_complete_zero _ _ _)

end EdgeWork

end Sys2Proof.Machine
end

section
/-!
PROOFS. MARK's record in the trace (R248, R509): what its drain leaves of the stream, and where the record goes.
-/
namespace Sys2Proof.Machine

/-- From s to t the tiles and the fields of a stream have stayed. -/
structure TilesKept (s t : Hw) : Prop where
  tiles : t.tiles = s.tiles
  flds : ∀ f ∈ streamFlds, ∀ u, t.fget f u = s.fget f u

namespace TilesKept

variable {s t v : Hw}

theorem refl (s : Hw) : TilesKept s s := ⟨rfl, fun _ _ _ => rfl⟩

theorem trans (h : TilesKept s t) (h' : TilesKept t v) : TilesKept s v :=
  ⟨h'.tiles.trans h.tiles, fun f hf u => (h'.flds f hf u).trans (h.flds f hf u)⟩

theorem foldl {α : Type} (f : Hw → α → Hw) (hf : ∀ s a, TilesKept s (f s a)) (l : List α) : ∀ s : Hw, TilesKept s (l.foldl f s) := by
  induction l with
  | nil => exact refl
  | cons a l ih => exact fun s => (hf s a).trans (ih _)

theorem of_beside (h : Beside s t) : TilesKept s t := ⟨h.tiles, h.flds⟩

theorem of_memWork (h : MemWork s t) : TilesKept s t := ⟨h.tiles, fun f hf u => h.fget f u (by revert f; decide)⟩

theorem beside (h : TilesKept s t) (hb : Beside t v) : TilesKept s v := h.trans (of_beside hb)

theorem of_traceOut (s : Hw) (r : List Byte) : TilesKept s (s.traceOut r) := by
  have hlost := Beside.of_bump s F.DBG_TRACE_LOST_COUNT 0 1
  unfold Hw.traceOut
  extract_lets n cap a s1
  split
  · exact of_beside hlost
  · split
    · exact of_beside (hlost.trans (.of_raiseOnce _ _ _ _ _ _))
    · have h1 : TilesKept s s1 := (of_memWork (.of_writeAddrs s _)).beside (.of_fset _ F.DBG_TRACE_COUNT_COUNT _ 0)
      split
      · exact (h1.beside (.of_fset _ F.DBG_TRACE_CTL_FULL 1 0)).beside (.of_fset _ F.DBG_TRACE_CTL_RUNNING 0 0)
      · exact h1

theorem of_drainTrace (s : Hw) : TilesKept s s.drainTrace :=
  (of_beside (.of_test s { s.test with trace := [] })).trans (foldl _ of_traceOut _ _)

end TilesKept

/-- What changes neither the tiles nor the fields of a stream leaves its effect. -/
theorem Effected.tilesKept {k q n : Nat} {c : StreamCtx} {v : QueueState} {m : Mem} {t u : Hw} (he : Effected k q n c v m t)
    (h : TilesKept t u) : Effected k q n c v u.mem u where
  home := he.home.of_tiles h.tiles (h.flds F.STRM_FRAME_FRAME (by decide) n)
  running := by rw [Hw.flag, h.flds F.STRM_STATE_FAULTED (by decide)]; exact he.running
  ctx := (Hw.ctxOn_congr h.tiles k n).trans he.ctx
  queue := by
    have hqueue : u.getQueue k q = t.getQueue k q := by unfold Hw.getQueue Hw.getTile; rw [h.tiles]
    exact hqueue.trans he.queue
  mem := rfl

/-! ### The record's way to the trace buffer -/

section

variable {s : Hw}

/-- R509: a running trace with nothing in its rim buffer passes a record on at once. -/
theorem Hw.drainTrace_trace (hen : s.flag F.DBG_TRACE_CTL_EN = true) (hrun : s.flag F.DBG_TRACE_CTL_RUNNING = true)
    (hfull : s.flag F.DBG_TRACE_CTL_FULL = false) (hrim : s.test.trace = []) (r : List Byte) : (s.trace r).drainTrace = s.traceOut r := by
  have hrest : ({ s with test := { s.test with trace := [] } } : Hw) = s := by rw [← hrim]
  have htrace : s.trace r = { s with test := { s.test with trace := [r] } } := by
    unfold Hw.trace
    rw [hen, hrun, hfull, hrim]
    rfl
  rw [htrace]
  exact congrArg (Hw.traceOut · r) hrest

/-- R509: with room in the buffer a record goes to the place that the count gives, and the count moves on. -/
theorem Hw.traceOut_room (r : List Byte) (hroom : s.fget F.DBG_TRACE_COUNT_COUNT < 2 ^ s.fget F.DBG_TRACE_CTL_LOG2) {a : Nat}
    (ha : a = s.rd64 .DBG_TRACE_BASE_LO .DBG_TRACE_BASE_HI % 2 ^ 40 + 32 * s.fget F.DBG_TRACE_COUNT_COUNT) (hcap : a + 32 ≤ s.capacity) :
    (s.traceOut r).mem = (s.writeRun a r).mem ∧
    (s.traceOut r).fget F.DBG_TRACE_COUNT_COUNT = (s.fget F.DBG_TRACE_COUNT_COUNT + 1) % 2 ^ 32 := by
  have hplace : s.rd64 .DBG_TRACE_BASE_LO .DBG_TRACE_BASE_HI % (1 <<< 40) + 32 * (s.fget F.DBG_TRACE_COUNT_COUNT %
      (1 <<< s.fget F.DBG_TRACE_CTL_LOG2)) = a := by
    rw [Nat.one_shiftLeft, Nat.one_shiftLeft, Nat.mod_eq_of_lt hroom, ha]
  have hnotfull : ¬ ((!s.flag F.DBG_TRACE_CTL_WRAP && decide (1 <<< s.fget F.DBG_TRACE_CTL_LOG2 ≤ s.fget F.DBG_TRACE_COUNT_COUNT)) = true) := by
    rw [Nat.one_shiftLeft, decide_eq_false (by omega), Bool.and_false]
    exact Bool.false_ne_true
  unfold Hw.traceOut
  simp only [hplace]
  rw [if_neg hnotfull, if_neg (by omega)]
  generalize s.fget F.DBG_TRACE_COUNT_COUNT = n
  have hcount : ∀ v : Hw, (v.fset F.DBG_TRACE_COUNT_COUNT ((n + 1) % 0x1_0000_0000)).fget F.DBG_TRACE_COUNT_COUNT = (n + 1) % 2 ^ 32 :=
    fun v => (Hw.fget_fset_self v F.DBG_TRACE_COUNT_COUNT _ 0).trans (Nat.mod_mod (n + 1) (2 ^ 32))
  generalize s.writeRun a r = w
  split
  · refine ⟨by simp only [Hw.fset_mem], ?_⟩
    rw [Hw.fget_fset_reg _ _ _ _ (by decide), Hw.fget_fset_reg _ _ _ _ (by decide)]
    exact hcount _
  · exact ⟨Hw.fset_mem _ _ _ _, hcount _⟩

theorem Hw.length_traceRec (kind q k n tag tail : Nat) : (s.traceRec kind q k n tag tail).length = 32 := by
  unfold Hw.traceRec
  simp only [List.length_append, length_toBytes]

end

end Sys2Proof.Machine
end

section
/-!
PROOFS. MARK (R248, R509), and O19.
-/
namespace Sys2Proof.Machine

section

variable {s t : Hw} {k q : Nat} {h : Head}

/-- From s to t all that the record of a MARK depends on has stayed: the registers but those of accesses of memory and of the head's leaving,
the rim buffer, the beat, where addresses lead, and each byte that has not become dross. -/
structure Markable (s t : Hw) : Prop where
  regs : RegsKept (memRegs ++ leaveRegs) s t
  rim : RimKept s t
  capacity : t.capacity = s.capacity
  takes : ∀ {a k : Nat}, s.Takes a k → t.Takes a k
  intact : Mem.Intact s.mem t.mem

/-- R261, R509: a head that meets no breakpoint issues so, where the trace takes marks alone. -/
theorem Markable.of_taken (hbreak : (s.breakpoints h).1 = s) (hcmd : s.flag F.DBG_TRACE_CTL_SRC_CMD = false)
    (hevent : s.flag F.DBG_TRACE_CTL_SRC_EVENT = false) : Markable s (s.taken k q h) := by
  have hin := Intake.of_takeNamed s k h
  have hissuing : s.issuing k h = (s.takeNamed k h).1 := by unfold Hw.issuing; rw [hbreak]
  unfold Hw.taken
  rw [hissuing]
  generalize (s.takeNamed k h).1 = v at hin
  have hoff : v.flag F.DBG_TRACE_CTL_SRC_CMD = false := (hin.work.flag F.DBG_TRACE_CTL_SRC_CMD).trans hcmd
  have hmap := MapKept.of_leaveHead v k q h
  obtain ⟨hmem, -⟩ := v.leaveHead_rest k q h
  refine ⟨?_, RimKept.trans ⟨hin.trace hevent, hin.work.beat⟩ (.of_leaveHead k q h hoff), ?_,
    fun ht => (hin.takes ht).kept hmap, by rw [hmem]; exact hin.intact⟩
  · exact (hin.work.regs.mono fun r hr => List.mem_append_left _ hr).trans
      ((Stays.of_leaveHead v k q h).regs.mono fun r hr => List.mem_append_right _ hr)
  · have hmapped : (v.leaveHead k q h).mu.mapped = v.mu.mapped := (congrArg MemUnit.mapped hmap.mu :)
    have hwindow : (v.leaveHead k q h).mu.windowOff = v.mu.windowOff := (congrArg MemUnit.windowOff hmap.mu :)
    rw [← hin.capacity]
    unfold Hw.capacity
    rw [hmapped, hwindow]

namespace Markable

theorem fget (hm : Markable s t) (f : Fld) (hf : f.reg ∉ memRegs ++ leaveRegs := by decide) : t.fget f = s.fget f :=
  Hw.fget_of_rd (hm.regs _ _ hf)

theorem flag (hm : Markable s t) (f : Fld) (hf : f.reg ∉ memRegs ++ leaveRegs := by decide) : t.flag f = s.flag f :=
  Hw.flag_of_rd (hm.regs _ _ hf)

theorem rd64 (hm : Markable s t) (lo hi : Reg) (hlo : lo ∉ memRegs ++ leaveRegs := by decide) (hhi : hi ∉ memRegs ++ leaveRegs := by decide) :
    t.rd64 lo hi = s.rd64 lo hi := by
  unfold Hw.rd64
  rw [hm.regs lo 0 hlo, hm.regs hi 0 hhi]

theorem traceRec (hm : Markable s t) (kind q k n tag tail : Nat) : t.traceRec kind q k n tag tail = s.traceRec kind q k n tag tail :=
  hm.rim.traceRec (hm.rd64 .BEAT_COUNT_LO .BEAT_COUNT_HI) kind q k n tag tail

end Markable

/-- R509: MARK's work: its record enters the rim buffer, which drains. -/
def Hw.marked (s : Hw) (r : List Byte) : Hw := if s.flag F.DBG_TRACE_CTL_SRC_MARK then (s.trace r).drainTrace else s

theorem TilesKept.of_marked (s : Hw) (r : List Byte) : TilesKept s (s.marked r) := by
  unfold Hw.marked
  split
  · exact (of_beside (.of_trace s r)).trans (of_drainTrace _)
  · exact refl s

/-- The trace runs, takes marks, and has room in its buffer, where nothing waits in the rim buffer. -/
structure TraceReady (s : Hw) : Prop where
  marks : s.flag F.DBG_TRACE_CTL_SRC_MARK = true
  enabled : s.flag F.DBG_TRACE_CTL_EN = true
  running : s.flag F.DBG_TRACE_CTL_RUNNING = true
  notFull : s.flag F.DBG_TRACE_CTL_FULL = false
  rim : s.test.trace = []
  room : s.fget F.DBG_TRACE_COUNT_COUNT < 2 ^ s.fget F.DBG_TRACE_CTL_LOG2

theorem TraceReady.kept (hr : TraceReady s) (hm : Markable s t) : TraceReady t := by
  obtain ⟨hmarks, hen, hrun, hopen, hrim, hroom⟩ := hr
  refine ⟨(hm.flag _).trans hmarks, (hm.flag _).trans hen, (hm.flag _).trans hrun, (hm.flag _).trans hopen, hm.rim.trace.trans hrim, ?_⟩
  rw [hm.fget F.DBG_TRACE_COUNT_COUNT, hm.fget F.DBG_TRACE_CTL_LOG2]
  exact hroom

/-- R509: the record of a mark is stored at its place in the trace buffer, and the count moves on. -/
theorem Hw.marked_stored (hr : TraceReady s) (hm : Markable s t) {r : List Byte} (hlen : r.length = 32) {a key : Nat}
    (ha : a = s.rd64 .DBG_TRACE_BASE_LO .DBG_TRACE_BASE_HI % 2 ^ 40 + 32 * s.fget F.DBG_TRACE_COUNT_COUNT) (hcap : a + 32 ≤ s.capacity)
    (hlead : LeadsTo s a key 32) (hguard : Unguarded s a key 32) :
    Stored s (t.marked r) key r ∧ (t.marked r).fget F.DBG_TRACE_COUNT_COUNT = (s.fget F.DBG_TRACE_COUNT_COUNT + 1) % 2 ^ 32 := by
  have ht := hr.kept hm
  have hmarked : t.marked r = t.traceOut r := by
    unfold Hw.marked
    rw [ht.marks, if_pos rfl, Hw.drainTrace_trace ht.enabled ht.running ht.notFull ht.rim]
  obtain ⟨hmem, hcount⟩ := Hw.traceOut_room r ht.room (a := a)
    (by rw [hm.rd64 .DBG_TRACE_BASE_LO .DBG_TRACE_BASE_HI, hm.fget F.DBG_TRACE_COUNT_COUNT]; exact ha) (by rw [hm.capacity]; exact hcap)
  have hstored : Stored s (t.writeRun a r) key r := .of_intact hm.intact fun i hi => hm.takes (Hw.takes_of_leadsTo hlead hguard (by omega))
  rw [hmarked]
  refine ⟨?_, by rw [hcount, hm.fget F.DBG_TRACE_COUNT_COUNT]⟩
  unfold Stored at hstored ⊢
  rw [hmem]
  exact hstored

end

theorem exec_mark (k : Fin 512) (q : Fin 4) (s : State) : exec (.mark k q) s = s.onHw (fun h => h.control k.val q.val 0x80 (fun h x =>
    (h.marked (h.traceRec 1 x.q x.t x.n (Com.tag x.w) (Com.param64 x.w 0)), 0))) := rfl

/-- Settles O19: a MARK's record enters the rim buffer and drains to its place in the trace buffer (`Hw.marked_stored`); neither that nor the
completion touches the stream (`TilesKept.of_marked`) or the count again (`EdgeWork.of_completeNow_zero`). -/
theorem markCommand : Obligations.MarkCommand := by
  unfold Obligations.MarkCommand
  intro s k q h key hs hr
  have he := (hr.effected hs).tilesKept (.of_marked (s.hw.taken k q h) ((s.hw.taken k q h).traceRec 1 q k h.n (Com.tag h.w) (Com.param64 h.w 0)))
  have hended := he.completeNow (x := s.hw.cmdAt k q h) rfl rfl rfl
  refine .of_onHw _ (exec_mark k q s) ?_
  rw [Hw.control_ready hr]
  refine ⟨hended.completed rfl, hended.nextInLine rfl (hr.headGone hs).queue, ?_⟩
  intro hmarks hcmd hevent hbreak hen hrun hfull hrim hroom a ha hcap hlead hguard
  have hm : Markable s.hw (s.hw.taken k q h) := .of_taken hbreak hcmd hevent
  obtain ⟨hstored, hcount⟩ := Hw.marked_stored ⟨hmarks, hen, hrun, hfull, hrim, hroom⟩ hm
    (Hw.length_traceRec (s := s.hw) 1 q k h.n (Com.tag h.w) (Com.param64 h.w 0)) ha hcap hlead hguard
  rw [← hm.traceRec 1 q k h.n (Com.tag h.w) (Com.param64 h.w 0)] at hstored hcount ⊢
  refine ⟨?_, ((EdgeWork.of_completeNow_zero _ _).fget F.DBG_TRACE_COUNT_COUNT).trans hcount⟩
  unfold Stored at hstored ⊢
  rw [← hended.mem] at hstored
  exact hstored

end Sys2Proof.Machine
end
